-- ==== Sys2Proof/Word.lean ====
section
/-! DEFINITION. The machine's words and their plainest arithmetic (R10). -/
namespace Sys2Proof

/-- One byte of memory. -/
abbrev Byte := BitVec 8
/-- A 32-bit register word. -/
abbrev Word := BitVec 32
/-- A 64-bit quantity: a register pair, a program counter, a 64-bit system register. -/
abbrev DWord := BitVec 64

/-- Bits [lo + n - 1 : lo] of a natural number, as a natural number (R10). -/
def fld (w lo n : Nat) : Nat := w / 2 ^ lo % 2 ^ n

end Sys2Proof
end

