-- ==== Sys2Proof/Syntax.lean ====
section
/-! DEFINITION. The syntax: one constructor of Instr for each row of spec/opcode_table.json.
The first 163 rows are the word forms of chapter 09 and the release of an ordered atomic; the other 126
are the device's events, each one step of an agent (95_what_each_step_holds.md). Operand fields are the encoding's fields:
register numbers as Fin, operation codes as inductive types, immediates and offsets as bits. -/
namespace Sys2Proof

/-- A v register number (R314). -/
abbrev VReg := Fin 64
/-- A k register number (R314). -/
abbrev KReg := Fin 16
/-- A predicate number (R314). -/
abbrev PReg := Fin 8

/-- Ordering scope (R17); code 7 is reserved and is refused by the decoder. -/
inductive Scope where
  | lane | group | team | cluster | die | device | system
  deriving DecidableEq, Repr

/-- Memory order (R17). -/
inductive Order where
  | rlx | acq | rel | ar
  deriving DecidableEq, Repr

/-- Rounding mode (R33). -/
inductive Rm where
  | rne | rz | ru | rd
  deriving DecidableEq, Repr

/-- Element format named by an fs field (R51); codes 6 and 7 are refused by the decoder. -/
inductive Fs where
  | f32 | bf16 | f16 | e4m3 | e5m2 | e2m1
  deriving DecidableEq, Repr

/-- Access size (R315); codes 5 to 7 are refused by the decoder. -/
inductive Size where
  | b8 | b16 | b32 | b64 | b128
  deriving DecidableEq, Repr

/-- Integer compare condition (R320, R420). -/
inductive Cond where
  | eq | ne | lt | le | gt | ge | lo | hs
  deriving DecidableEq, Repr

/-- Floating compare condition (R398): ops 6 and 7 of major 0x10. -/
inductive FCond where
  | eq | lt | le | un | ne | gt | ge | or
  deriving DecidableEq, Repr

/-- ATOM operation (R330, R354); codes 9 to 15 are refused by the decoder. -/
inductive AtomOp where
  | add | min | max | minu | maxu | and | or | xor | exch
  deriving DecidableEq, Repr

/-- SHFL mode (R481). -/
inductive ShflMode where
  | src | rot | flip | edge
  deriving DecidableEq, Repr

/-- Branch hint (R318). -/
inductive Hint where
  | none | likely | unlikely | uniform
  deriving DecidableEq, Repr

/-- Copy path (R208). -/
inductive Path where
  | g2s | s2g | g2g | s2ps
  deriving DecidableEq, Repr

/-- A long accumulator (R41, R46): its value V as 640 bits and its five status bits. The pending
carries of its carry-save form (R43) stand beside it, where the spec gives them. -/
structure LA where
  val : BitVec 640
  em : Bool
  nz : Bool
  ni : Bool
  pi : Bool
  nv : Bool
  deriving DecidableEq, Repr

/-- A lane by its team's placement number, its group index and its slot (R61, R64). -/
structure LaneId where
  tid : Nat
  grp : Nat
  slot : Nat
  deriving DecidableEq, Repr

/-- The kinds of coherence message (R154). -/
inductive MsgKind where
  | gets | getx | getm | tok | put | putp | fold | part | pact | pdeact | ack | preq | pdone
  deriving DecidableEq, Repr

/-- A coherence message about one 128-byte line, named by its number DPA / 128 (R152, R154). The
agents are the ten of R149. `ctx` is the translation context of the launch whose access a request serves, if one's does (R265). -/
structure Msg where
  kind : MsgKind
  line : Nat
  src : Fin 10
  dst : Fin 10
  tokens : Nat
  owner : Bool
  data : Bool
  dirty : Bool
  la : Option LA
  epoch : Fin 16
  age : Nat
  excl : Bool
  ctx : Option Nat
  deriving DecidableEq, Repr

/-- A firmware image as the boot ROM finds it (R303): the key it is signed with, its body and the signature over the body. -/
structure Image where
  key : List Byte
  body : List Byte
  sig : List Byte
  deriving DecidableEq, Repr

/-- Who writes a counter bank (R262). -/
inductive Party where
  | guest | hypervisor
  deriving DecidableEq, Repr

/-- The function an MMIO access goes through (R293): PF, or VF 1 to 128. -/
inductive Fn where
  | pf
  | vf (n : Nat)
  deriving DecidableEq, Repr

/-- The payload of one element of a collective request (R301): an LA; a 64-bit integer sum, its checksum and the special
values met (R220); a word; or the end of the collective with a status (R221). -/
inductive CollPay where
  | la (x : LA)
  | isum (q : DWord) (ck : DWord) (sp : LA)
  | word (w : Word)
  | none
  | abort (status : Nat)
  deriving DecidableEq, Repr

/-- A collective request of another member (R301): the set, the CID, the descriptor fields that members
must agree on (R221), the element and how many contributions are combined in it. -/
structure CollReq where
  ftag : Nat
  setId : Nat
  cid : Nat
  op : Nat
  type : Nat
  count : Nat
  qw : Nat
  elem : Nat
  members : Nat
  pay : CollPay
  deriving DecidableEq, Repr

/-- What a peer request asks for (R299). -/
inductive PeerOp where
  | read (n : Nat)
  | write (bytes : List Byte)
  | atomic (op : AtomOp) (n : Nat) (x : Nat)
  | cas (n : Nat) (cmp new : Nat)
  deriving DecidableEq, Repr

/-- A request of another package for this package's memory (R299). -/
structure UaReq where
  pkg : Nat
  ftag : Nat
  addr : Nat
  op : PeerOp
  deriving DecidableEq, Repr

/-- A capacity extent's state (R147). -/
inductive ExtState where
  | free | live | draining
  deriving DecidableEq, Repr

/-- A capacity extent entry (R147). -/
structure Extent where
  off : Nat
  hpa : Nat
  len : Nat
  owner : Nat
  state : ExtState
  deriving DecidableEq, Repr

/-- The host's answer to a back-invalidate snoop of a line, with the line's data where the host writes it back (R168). -/
structure BiRsp where
  line : Nat
  data : Option (List Byte)
  deriving DecidableEq, Repr

/-- A thermal sensor crossing (R307). -/
inductive Thermal where
  | dieThrottle (d : Nat) | dieCool (d : Nat) | dieCritical (d : Nat)
  | hbmHot (stack : Nat) | hbmThrottle (stack : Nat) | hbmCool (stack : Nat) | hbmCritical (stack : Nat)
  | baseThrottle | baseCool | baseCritical
  deriving DecidableEq, Repr

/-- The rows of spec/opcode_table.json. -/
inductive Instr where
  -- major 0x00 to 0x07 (R327)
  | nop | exit | yield
  | ret (a : VReg)
  | bra (h : Hint) (p : PReg) (n : Bool) (d : BitVec 18)
  | call (d : VReg) (i : BitVec 18)
  | trap (i : BitVec 16)
  | tret | bkpt
  | bar (m : Fin 4) (b : Fin 4)
  | bara (d : VReg) (m : Fin 4) (b : Fin 4)
  | barw (b : Fin 4)
  | cbar | gbar
  | waitph (p : PReg) (a : VReg) (b : Fin 8)
  | evsig (a b : VReg)
  | evwait (a b : VReg)
  | fence (e : Scope) (o : Order)
  | drain (p : Path)
  | mfs (d : VReg) (r : BitVec 12)
  | mts (d : VReg) (r : BitVec 12)
  | clk (d : VReg)
  | cntrd (d : VReg) (r : BitVec 12)
  | rndLo (d : VReg)
  | rndHi (d : VReg)
  | cvdecl (v : Fin 16) (t : Fin 4) (k : BitVec 11)
  | cvsign (v : Fin 16)
  | cvsignW (v : Fin 16)
  | brx (a : VReg)
  -- major 0x08 (R320)
  | iadd (d a b : VReg) | isub (d a b : VReg) | imul (d a b : VReg)
  | imulhI32 (d a b : VReg) | imulhN32 (d a b : VReg) | imad (d a b : VReg)
  | idivI32 (d a b : VReg) | idivN32 (d a b : VReg) | iremI32 (d a b : VReg) | iremN32 (d a b : VReg)
  | iminI32 (d a b : VReg) | iminN32 (d a b : VReg) | imaxI32 (d a b : VReg) | imaxN32 (d a b : VReg)
  | iabs (d a : VReg)
  | and (d a b : VReg) | or (d a b : VReg) | xor (d a b : VReg)
  | shl (d a b : VReg) | shr (d a b : VReg) | sar (d a b : VReg) | shf (d a b : VReg)
  | popc (d a : VReg) | clz (d a : VReg) | brev (d a : VReg)
  | bfeI32 (d a b : VReg) | bfeN32 (d a b : VReg) | bfi (d a b : VReg)
  | sel (d a b : VReg) (p : PReg)
  | icmp (p : PReg) (a b : VReg) (k : Cond)
  | ladd (d a b : VReg)
  | mov (d a : VReg) (ag dg : Bool)
  -- majors 0x09 to 0x0F (R321)
  | iaddi (d a : VReg) (i : BitVec 12) | andi (d a : VReg) (i : BitVec 12)
  | ori (d a : VReg) (i : BitVec 12) | xori (d a : VReg) (i : BitVec 12)
  | shlImm (d a : VReg) (i : BitVec 5) | shrImm (d a : VReg) (i : BitVec 5) | sarImm (d a : VReg) (i : BitVec 5)
  | movi (d : VReg) (i : BitVec 16) | movh (d : VReg) (i : BitVec 16)
  | laddi (d a : VReg) (i : BitVec 12)
  -- major 0x10 (R322)
  | fadd (d a b : VReg) (r : Rm) | fsub (d a b : VReg) (r : Rm) | fmul (d a b : VReg) (r : Rm) | ffma (d a b : VReg) (r : Rm)
  | fmin (d a b : VReg) | fmax (d a b : VReg)
  | fcmp (p : PReg) (a b : VReg) (k : FCond)
  | fclass (d a : VReg)
  | fadd2Bf16 (d a b : VReg) (r : Rm) | fadd2F16 (d a b : VReg) (r : Rm)
  | fma2Bf16 (d a b : VReg) (r : Rm) | fma2F16 (d a b : VReg) (r : Rm)
  -- major 0x11 (R323)
  | frcp (d a : VReg) | frsq (d a : VReg) | fsqrt (d a : VReg) (r : Rm) | fdiv (d a b : VReg) (r : Rm)
  | fexp2 (d a : VReg) | flog2 (d a : VReg) | fsin (d a : VReg) | fcos (d a : VReg) | fred (d a : VReg)
  -- majors 0x12 and 0x13 (R324, R325, R335)
  | cvt (d a : VReg) (k : Fin 64) (r : Rm) (t : Bool) (l : Fin 8)
  | cvtF32Mx (d a : VReg) (j : Fin 4) (r : Rm) (l : Fin 8)
  | qmx (d a b : VReg) (l : Fin 8) | dqmx (d a b : VReg) (l : Fin 8)
  | pslice (d a : VReg) | pmerge (d a : VReg) (p : Fin 16)
  -- major 0x14 (R326)
  | shfl (d a b : VReg) (m : ShflMode) (w : Fin 4)
  | shflImm (d a : VReg) (i : BitVec 6) (m : ShflMode) (w : Fin 4)
  | voteOr (p q : PReg) | voteAnd (p q : PReg)
  | voteMask (d : VReg) (q : PReg) | voteCount (d : VReg) (q : PReg) | voteFirst (d : VReg) (q : PReg)
  | vmatch (d a : VReg)
  -- majors 0x18 to 0x27 (R328)
  | ldB8 (d a : VReg) (e : Scope) (o : Order) (f : Bool) (i : BitVec 6)
  | ldB16 (d a : VReg) (e : Scope) (o : Order) (f : Bool) (i : BitVec 6)
  | ldB32 (d a : VReg) (e : Scope) (o : Order) (f : Bool) (i : BitVec 6)
  | ldB64 (d a : VReg) (e : Scope) (o : Order) (f : Bool) (i : BitVec 6)
  | ldB128 (d a : VReg) (e : Scope) (o : Order) (f : Bool) (i : BitVec 6)
  | stB8 (d a : VReg) (e : Scope) (o : Order) (i : BitVec 6)
  | stB16 (d a : VReg) (e : Scope) (o : Order) (i : BitVec 6)
  | stB32 (d a : VReg) (e : Scope) (o : Order) (i : BitVec 6)
  | stB64 (d a : VReg) (e : Scope) (o : Order) (i : BitVec 6)
  | stB128 (d a : VReg) (e : Scope) (o : Order) (i : BitVec 6)
  | lds (d a : VReg) (z : Size) (w : Fin 8) (i : BitVec 5)
  | sts (d a : VReg) (z : Size) (w : Fin 8) (i : BitVec 5)
  | qpush (d : VReg) (q : Fin 64) | qpop (d : VReg) (q : Fin 64)
  | pref (a : VReg) (l : Fin 8)
  | cinv (a : VReg) (e : Scope) | cflush (a : VReg) (e : Scope)
  -- majors 0x30 and 0x31 (R331, R332)
  | kclr (k : KReg)
  | kadd (k : KReg) (a : VReg) (f : Fs)
  | kfma (k : KReg) (a b : VReg) (f : Fs) | kdot2 (k : KReg) (a b : VReg) (f : Fs) | kdot4 (k : KReg) (a b : VReg) (f : Fs)
  | kiadd (k : KReg) (a b : VReg)
  | kmrg (k m : KReg) | kmrgNeg (k m : KReg) | knorm (k : KReg)
  | kscl (k : KReg) (a : VReg)
  | kseg (k : KReg) (a : VReg) (b : Fin 64)
  | kstat (k : KReg) (a : VReg)
  | krnd (k : KReg) (a : VReg) (t : Bool) (r : Rm) (f : Fs)
  | kld (k : KReg) (a : VReg) (e : Scope) (o : Order) (f : Bool) (i : BitVec 7)
  | kst (k : KReg) (a : VReg) (e : Scope) (o : Order) (i : BitVec 7)
  -- major 0x34 (R333)
  | mxa (v : Fin 16) (a b : VReg) (l : Fin 8) (t : Fin 4)
  | mxz (l : Fin 8) (t : Fin 4)
  | mxrd (a : VReg) (l : Fin 8) (t : Fin 4)
  | mxsp (a : VReg) (l : Fin 8) (t : Fin 4)
  | mxfl (a : VReg) (l : Fin 8) (t : Fin 4)
  -- major 0x38 (R334)
  | launch (a : VReg)
  | smodeScratch (a : VReg) | smodeQueue (a : VReg)
  -- forms of two words (R316, R321, R330)
  | lit (d : VReg) (w : Word)
  | atom (d a b : VReg) (op : AtomOp) (z : Size) (ord : Bool) (e : Scope) (o : Order) (i : BitVec 16)
  | atomNr (a b : VReg) (op : AtomOp) (z : Size) (ord : Bool) (e : Scope) (o : Order) (i : BitVec 16)
  | orderedAtomRelease (tid : Nat)
  | cas (d a b c : VReg) (z : Size) (ord : Bool) (e : Scope) (o : Order) (i : BitVec 16)
  | aacc (a b : VReg) (f : Fs) (e : Scope) (o : Order) (i : BitVec 16)
  | aaccMul (a b c : VReg) (f : Fs) (e : Scope) (o : Order) (i : BitVec 16)
  | amrg (a : VReg) (k : KReg) (e : Scope) (o : Order) (i : BitVec 16)
  | amrgNeg (a : VReg) (k : KReg) (e : Scope) (o : Order) (i : BitVec 16)
  | cpy (a : VReg) (e : Scope) | gthr (a : VReg) (e : Scope)
  | coll (a : VReg) (h : Fin 4) (e : Scope) | collw (d : VReg) (h : Fin 4)
  | rowpin (d a : VReg) | rowrel (a : VReg) | rowrelAll | rowqry (d a : VReg)
  -- events of the quarters, engines and launch unit
  | smodeConvert (tid : Nat)
  | bundleFormation (quarter : Nat)
  | deferredResultWrite (l : LaneId) (n : Nat)
  | trapEntry (l : LaneId)
  | queueWaitResume (tid q : Nat)
  | mxeEntryGrant (cluster : Nat) | mxeEntryComplete (cluster : Nat) | mxeHeldFiringEnter (cluster : Nat)
  | mxeSelftest (cluster : Nat) (failed : Option (Fin 4))
  | copyComplete (xfer : Nat)
  | collComplete (coll : Nat) | collTimeout (coll : Nat)
  | sqDoorbell (p q : Nat) (t : Word)
  | sqEntryNop (p q : Nat) | sqEntryLaunch (p q : Nat) | sqEntryEvsig (p q : Nat) | sqEntryEvwait (p q : Nat)
  | dqEntryTake (p : Nat)
  | teamPlace (p seq : Nat) (clusters : List Nat)
  | placementHoldTimeout (p : Nat)
  | teamRetire (tid : Nat)
  -- coherence messages
  | gets (m : Msg) | getx (m : Msg) | getm (m : Msg) | tok (m : Msg) | put (m : Msg) | putp (m : Msg)
  | foldMsg (m : Msg) | part (m : Msg) | pact (m : Msg) | pdeact (m : Msg) | persistentAck (m : Msg)
  | preq (m : Msg) | pdone (m : Msg)
  | tokenAttemptTimeout (line : Nat) (a : Fin 10) | tokenRetry (line : Nat) (a : Fin 10)
  | hostMemRead (addr n : Nat) | hostMemWrite (addr : Nat) (bytes : List Byte)
  | birsp (r : BiRsp) | snpinv (hline : Nat) | snpdata (hline : Nat)
  | dieLost (d : Nat)
  -- memory controllers, translation and frames
  | bankRefresh (pc bank : Nat) | hotSideActivation (pc bank : Nat) | hotWindowEnd (pc : Nat)
  | agecapExpiry (req : Nat)
  | tlbLeaseExpiry (n : Nat)
  | fotdataWrite (v : BitVec 16)
  | scrubFrontAdvance (frame : Nat)
  | extentEntryWrite (n : Nat) (x : Extent) | extentDrain (n : Nat) | extentDrainComplete (n : Nat)
  | ptsyncRead (p : Nat)
  -- faults, pre-emption and partitions
  | replay (p : Nat) (w : Word) | replayAbort (p : Nat) (w : Word)
  | faultQueueHeldWrite (p : Nat)
  | preempt (p : Nat) | preemptResume (p : Nat) | draintExpiry (p : Nat) | savetExpiry (p : Nat)
  | preemptSaveComplete (p : Nat)
  | partitionActivate (p : Nat) | partitionHalt (p : Nat) | partitionReset (p : Nat) | partitionSuspend (p : Nat)
  | partitionResume (p : Nat) | partitionDeactivate (p : Nat) | partitionResetDone (p : Nat)
  | partitionSuspendDone (p : Nat)
  | unitStop (p : Nat)
  | qstopDump (quarter : Nat) | qresume (p : Nat) (quarter : Word)
  -- observation
  | cbClaim (p n : Nat) (who : Party) | cbRelease (p n : Nat) (who : Party) | cbClear (p n : Nat) (who : Party)
  | cbConfig (p n : Nat) (who : Party) (w : Word)
  | fixLatch (p : Nat) | fixin | fixRegisterWrite (p : Nat)
  | tracePcSample (p die : Nat)
  | policyPeriodEnd
  | chronCommit (p : Nat)
  -- register writes with rows of their own
  | tvecWrite (p : Nat) (v : DWord)
  | l1waysWrite (p : Nat) (w : Word) | l1waysTakeEffect (cluster : Nat)
  | admitrelWrite (p ctx : Nat) (v : DWord) | admitrelTakeEffect (p ctx code : Nat)
  | trmarkWrite (l : LaneId) (w : Word)
  | fflagsWrite (tid grp : Nat) (w : Word) (raised : BitVec 5)
  | leaseWrite (p : Nat) (w : Word)
  | ctxregWrite (p sel : Nat) (v : DWord)
  | eventMmioWrite (p e : Nat) (n : Word)
  | msixUnmask (f : Fn) (vec : Nat)
  | registerWrite (f : Fn) (off width : Nat) (v : DWord)
  -- device and platform
  | vfFlr (vf : Nat) | deviceReset
  | firmwareRecoveryLoad (img : Image)
  | getVersion (f : Fn) | getCapabilities (f : Fn) | negotiateAlgorithms (f : Fn) | getDigests (f : Fn)
  | getCertificate (f : Fn) | challenge (f : Fn) (nonce : Nat) | getMeasurements (f : Fn) (index : Nat)
  | powerClockStep (avgMilliwatts : Nat) | packagePowerReport (milliwatts : Nat)
  | thermalSensorEvent (t : Thermal)
  | d3hotRequest
  | linkUp (port : Nat) (combine : Bool)
  | ualinkRead (r : UaReq) | ualinkWrite (r : UaReq) | ualinkAtomic (r : UaReq)
  | ualinkResponse (req : Nat) (bytes : List Byte)
  | peerRequestTimeout (req : Nat)
  | vkacc (r : CollReq) | visum (r : CollReq) | vmaxr (r : CollReq) | vmax (r : CollReq) | vmin (r : CollReq)
  | vbcast (r : CollReq) | vgath (r : CollReq)
  | hbmRequestServed (pc : Nat)
  | cxlCacheResponse (hline : Nat) (bytes : List Byte)
  | d0Request
  | plimWrite (watts : Word)
  | firmwareReady (img : Image)
  deriving DecidableEq, Repr

end Sys2Proof
end

