-- ==== Sys2Proof/WellFormed.lean ====
section
/-! DEFINITION. Which instructions the encoding admits: the checks of R336 that depend on the word alone.
An instruction that fails one is still decoded, and its execution takes the ILLEGAL trap with the AUX
value that `illegalAux` gives. Checks that need the role's budgets, the slots or the code object are the
machine's (Machine/Operands.lean). Events have no words and are always well formed. -/
namespace Sys2Proof

/-- A register that names a pair (R314). -/
def pairOk (r : VReg) : Bool := r.val % 2 == 0
/-- A register that names a quad (R314). -/
def quadOk (r : VReg) : Bool := r.val % 4 == 0
/-- A register that names an octet (R314). -/
def octetOk (r : VReg) : Bool := r.val % 8 == 0

/-- Bytes of an access size (R315). -/
def Size.bytes : Size → Nat
  | .b8 => 1 | .b16 => 2 | .b32 => 4 | .b64 => 8 | .b128 => 16

/-- The data register of an access of this size is a single register, a pair or a quad (R328). -/
def Size.regOk (z : Size) (r : VReg) : Bool :=
  match z with
  | .b64 => pairOk r
  | .b128 => quadOk r
  | _ => true

/-- The kind of a system-register number: its width, and the least level that may read and write it. -/
inductive SysKind where
  | user32 | user64 | user32rw | super32 | super64
  | bankCtl | bankThr | bankCount | bankSnap
  deriving DecidableEq, Repr

/-- The system registers of R337; none is a reserved number. -/
def sysKind (n : Nat) : Option SysKind :=
  if n ≤ 0x00A then some .user32
  else if n = 0x00B then some .user64
  else if n ≤ 0x00D then some .user32
  else if 0x010 ≤ n ∧ n ≤ 0x012 then some .user32rw
  else if n = 0x013 ∨ n = 0x014 then some .user64
  else if 0x018 ≤ n ∧ n ≤ 0x01C then some .user32
  else if 0x020 ≤ n ∧ n ≤ 0x027 then some .user32
  else if 0x030 ≤ n ∧ n ≤ 0x03F then some .user32
  else if n = 0x100 then some .super32
  else if 0x101 ≤ n ∧ n ≤ 0x104 then some .super64
  else if n = 0x105 then some .super32
  else if 0x108 ≤ n ∧ n ≤ 0x10B then some .super64
  else if n = 0x110 ∨ n = 0x111 ∨ n = 0x113 ∨ n = 0x114 ∨ n = 0x116 then some .super32
  else if n = 0x112 ∨ n = 0x115 then some .super64
  else if 0x200 ≤ n ∧ n < 0x400 then
    let r := n % 0x40
    if r ≤ 4 then some .bankCtl
    else if r = 5 then some .bankThr
    else if 0x10 ≤ r ∧ r ≤ 0x1F then some .bankCount
    else if 0x20 ≤ r ∧ r ≤ 0x2F then some .bankSnap
    else none
  else none

/-- Is the register 64 bits wide, so that d names a pair (R338)? -/
def SysKind.wide : SysKind → Bool
  | .user64 | .super64 | .bankThr | .bankCount | .bankSnap => true
  | .user32 | .user32rw | .super32 | .bankCtl => false

/-- Does a conversion code honour the rm field (R335)? -/
def cvtRm (k : Nat) : Bool :=
  k ≤ 0x07 || (0x10 ≤ k && k ≤ 0x17) || (0x20 ≤ k && k ≤ 0x27)
/-- Does a conversion code honour the sat field (R335)? -/
def cvtSat (k : Nat) : Bool :=
  k ≤ 0x01 || (0x10 ≤ k && k ≤ 0x13) || (0x30 ≤ k && k ≤ 0x33)
/-- The reserved conversion codes (R335); 0x38 to 0x3B are the constructor `cvtF32Mx`. -/
def cvtReserved (k : Nat) : Bool := (0x0C ≤ k && k ≤ 0x0F) || 0x38 ≤ k

def Order.isLoad : Order → Bool
  | .rlx | .acq => true
  | .rel | .ar => false
def Order.isStore : Order → Bool
  | .rlx | .rel => true
  | .acq | .ar => false

/-- SIZE of an atomic is 2 or 3 (R330). -/
def Size.atomic : Size → Bool
  | .b32 | .b64 => true
  | .b8 | .b16 | .b128 => false

/-- The word uses a reserved value: ILLEGAL with AUX 0 (R336). -/
def reservedUse : Instr → Bool
  | .bra _ p n _ => p.val == 0 && n
  | .bar m _ | .bara _ m _ => m.val == 0
  | .waitph _ _ b => 5 ≤ b.val
  | .fence _ o => o == .rlx
  | .mfs _ r | .mts _ r => (sysKind r.toNat).isNone
  | .cntrd _ r => sysKind r.toNat != some .bankCount && sysKind r.toNat != some .bankSnap
  | .mov d a ag dg => (ag && 16 ≤ a.val) || (dg && 16 ≤ d.val)
  | .cvt _ _ k r t l =>
    cvtReserved k.val || (!cvtRm k.val && r != .rne) || (!cvtSat k.val && t) || l.val != 0
  | .pmerge _ _ p => p.val < 2 || 8 < p.val
  | .shflImm _ _ i m _ => m != .edge && 32 ≤ i.toNat
  | .ldB8 _ _ _ o _ _ | .ldB16 _ _ _ o _ _ | .ldB32 _ _ _ o _ _ | .ldB64 _ _ _ o _ _ | .ldB128 _ _ _ o _ _ => !o.isLoad
  | .stB8 _ _ _ o _ | .stB16 _ _ _ o _ | .stB32 _ _ _ o _ | .stB64 _ _ _ o _ | .stB128 _ _ _ o _ => !o.isStore
  | .kld _ _ _ o _ _ => !o.isLoad
  | .kst _ _ _ o _ => !o.isStore
  | .pref _ l => 3 ≤ l.val
  | .kdot2 _ _ _ f => f != .bf16 && f != .f16
  | .kdot4 _ _ _ f => f != .e4m3 && f != .e5m2
  | .kseg _ _ b => 20 ≤ b.val
  | .atom _ _ _ _ z _ _ _ _ | .atomNr _ _ _ z _ _ _ _ | .cas _ _ _ _ z _ _ _ _ => !z.atomic
  | .aacc _ _ _ _ o _ | .aaccMul _ _ _ _ _ o _ | .amrg _ _ _ o _ | .amrgNeg _ _ _ o _ => !o.isStore
  | _ => false

/-- A register field or an offset misses its stated alignment: ILLEGAL with AUX 2 (R314, R336). -/
def misaligned : Instr → Bool
  | .ret a | .brx a => !pairOk a
  | .call d _ | .clk d | .cntrd d _ => !pairOk d
  | .mfs d r | .mts d r => (match sysKind r.toNat with | some k => k.wide | none => false) && !pairOk d
  | .ladd d a _ | .laddi d a _ => !pairOk d || !pairOk a
  | .fred d _ => !pairOk d
  | .qmx _ a _ _ => a.val % 32 != 0
  | .pslice d a | .pmerge d a _ => !octetOk d || !octetOk a
  | .ldB8 _ a _ _ _ _ | .ldB16 _ a _ _ _ _ | .ldB32 _ a _ _ _ _ => !pairOk a
  | .ldB64 d a _ _ _ _ => !pairOk a || !pairOk d
  | .ldB128 d a _ _ _ _ => !pairOk a || !quadOk d
  | .stB8 _ a _ _ _ | .stB16 _ a _ _ _ | .stB32 _ a _ _ _ => !pairOk a
  | .stB64 d a _ _ _ => !pairOk a || !pairOk d
  | .stB128 d a _ _ _ => !pairOk a || !quadOk d
  | .lds d _ z _ _ | .sts d _ z _ _ => !z.regOk d
  | .qpush d _ | .qpop d _ => !quadOk d
  | .pref a _ | .cinv a _ | .cflush a _ => !pairOk a
  | .kld _ a _ _ _ _ | .kst _ a _ _ _ => !pairOk a
  | .mxa _ a b _ _ => !octetOk a || !octetOk b
  | .mxrd a _ _ => a.val % 16 != 0
  | .mxsp a _ _ | .mxfl a _ _ => !pairOk a
  | .launch a => !pairOk a
  | .atom d a b _ z _ _ _ i => !pairOk a || !z.regOk d || !z.regOk b || i.toNat % z.bytes != 0
  | .atomNr a b _ z _ _ _ i => !pairOk a || !z.regOk b || i.toNat % z.bytes != 0
  | .cas d a b c z _ _ _ i => !pairOk a || !z.regOk d || !z.regOk b || !z.regOk c || i.toNat % z.bytes != 0
  | .aacc a _ _ _ _ i | .aaccMul a _ _ _ _ _ i | .amrg a _ _ _ i | .amrgNeg a _ _ _ i =>
    !pairOk a || i.toNat % 128 != 0
  | .cpy a _ | .gthr a _ => !octetOk a
  | .coll a _ _ => !pairOk a
  | .rowpin _ a | .rowrel a | .rowqry _ a => !pairOk a
  | _ => false

/-- The AUX value of the ILLEGAL trap that the word alone deserves (R336): a reserved value first, then
an alignment. -/
def illegalAux (i : Instr) : Option Nat :=
  if reservedUse i then some 0 else if misaligned i then some 2 else none

/-- The word alone is legal (R336). -/
def WellFormed (i : Instr) : Prop := illegalAux i = none

end Sys2Proof
end

