-- ==== Sys2Proof/Decode.lean ====
section
/-! DEFINITION. The decoder and the encoder, written from the encoding tables of chapter 09
(R309 to R335). A word that the tables give no meaning is refused by name; every such refusal is the
encoding's ILLEGAL with AUX 0 (R336). Values that a row's field may hold but its entry traps on
(alignment, orders, register numbers) are WellFormed's, not the decoder's. -/
namespace Sys2Proof

/-- Why a word is no instruction (R336). -/
inductive Reject where
  | reservedMajor (maj : Nat)
  | reservedMinor (maj minor : Nat)
  | reservedField (maj : Nat)
  | reservedCode (maj : Nat)
  | discardNeeds63
  | truncated
  deriving DecidableEq, Repr

/-- The bits every word carries beside its format (R309): C chains, S marks a switch. -/
structure Hdr where
  c : Bool
  s : Bool
  deriving DecidableEq, Repr

/-! The codes of the enumerated fields. -/

def Scope.code : Scope → Nat
  | .lane => 0 | .group => 1 | .team => 2 | .cluster => 3 | .die => 4 | .device => 5 | .system => 6
def Scope.ofCode : Nat → Option Scope
  | 0 => some .lane | 1 => some .group | 2 => some .team | 3 => some .cluster | 4 => some .die
  | 5 => some .device | 6 => some .system | _ => none
def Order.code : Order → Nat
  | .rlx => 0 | .acq => 1 | .rel => 2 | .ar => 3
def Order.ofCode : Nat → Order
  | 0 => .rlx | 1 => .acq | 2 => .rel | _ => .ar
def Rm.code : Rm → Nat
  | .rne => 0 | .rz => 1 | .ru => 2 | .rd => 3
def Rm.ofCode : Nat → Rm
  | 0 => .rne | 1 => .rz | 2 => .ru | _ => .rd
def Fs.code : Fs → Nat
  | .f32 => 0 | .bf16 => 1 | .f16 => 2 | .e4m3 => 3 | .e5m2 => 4 | .e2m1 => 5
def Fs.ofCode : Nat → Option Fs
  | 0 => some .f32 | 1 => some .bf16 | 2 => some .f16 | 3 => some .e4m3 | 4 => some .e5m2
  | 5 => some .e2m1 | _ => none
def Size.code : Size → Nat
  | .b8 => 0 | .b16 => 1 | .b32 => 2 | .b64 => 3 | .b128 => 4
def Size.ofCode : Nat → Option Size
  | 0 => some .b8 | 1 => some .b16 | 2 => some .b32 | 3 => some .b64 | 4 => some .b128 | _ => none
def Cond.code : Cond → Nat
  | .eq => 0 | .ne => 1 | .lt => 2 | .le => 3 | .gt => 4 | .ge => 5 | .lo => 6 | .hs => 7
def Cond.ofCode : Nat → Cond
  | 0 => .eq | 1 => .ne | 2 => .lt | 3 => .le | 4 => .gt | 5 => .ge | 6 => .lo | _ => .hs
def FCond.code : FCond → Nat
  | .eq => 0 | .lt => 1 | .le => 2 | .un => 3 | .ne => 4 | .gt => 5 | .ge => 6 | .or => 7
def FCond.ofCode : Nat → FCond
  | 0 => .eq | 1 => .lt | 2 => .le | 3 => .un | 4 => .ne | 5 => .gt | 6 => .ge | _ => .or
def AtomOp.code : AtomOp → Nat
  | .add => 0 | .min => 1 | .max => 2 | .minu => 3 | .maxu => 4 | .and => 5 | .or => 6 | .xor => 7 | .exch => 8
def AtomOp.ofCode : Nat → Option AtomOp
  | 0 => some .add | 1 => some .min | 2 => some .max | 3 => some .minu | 4 => some .maxu
  | 5 => some .and | 6 => some .or | 7 => some .xor | 8 => some .exch | _ => none
def ShflMode.code : ShflMode → Nat
  | .src => 0 | .rot => 1 | .flip => 2 | .edge => 3
def ShflMode.ofCode : Nat → ShflMode
  | 0 => .src | 1 => .rot | 2 => .flip | _ => .edge
def Hint.code : Hint → Nat
  | .none => 0 | .likely => 1 | .unlikely => 2 | .uniform => 3
def Hint.ofCode : Nat → Hint
  | 0 => .none | 1 => .likely | 2 => .unlikely | _ => .uniform
def Path.code : Path → Nat
  | .g2s => 0 | .s2g => 1 | .g2g => 2 | .s2ps => 3
def Path.ofCode : Nat → Path
  | 0 => .g2s | 1 => .s2g | 2 => .g2g | _ => .s2ps

/-! Field readers: a 6-bit register field, a bit, an immediate. -/

def reg (w lo : Nat) : Fin 64 := Fin.ofNat 64 (fld w lo 6)
def flag (w lo : Nat) : Bool := fld w lo 1 == 1
/-- Accept `i` when the reserved bits, given as one number, are zero (R317). -/
def zeroed (maj reserved : Nat) (i : Instr) : Except Reject Instr :=
  if reserved = 0 then .ok i else .error (.reservedField maj)
def withScope (maj code : Nat) (k : Scope → Except Reject Instr) : Except Reject Instr :=
  match Scope.ofCode code with
  | some e => k e
  | none => .error (.reservedCode maj)
def withFs (maj code : Nat) (k : Fs → Except Reject Instr) : Except Reject Instr :=
  match Fs.ofCode code with
  | some f => k f
  | none => .error (.reservedCode maj)
def withSize (maj code : Nat) (k : Size → Except Reject Instr) : Except Reject Instr :=
  match Size.ofCode code with
  | some z => k z
  | none => .error (.reservedCode maj)

/-! One decoder per major, on a word's low 24 bits (R320 to R334). -/

/-- Major 0x00 (R327). -/
def decode00 (w : Nat) : Except Reject Instr :=
  match fld w 0 6 with
  | 0 => zeroed 0 (fld w 6 18) .nop
  | 1 => zeroed 0 (fld w 6 18) .exit
  | 2 => zeroed 0 (fld w 6 18) .yield
  | 3 => zeroed 0 (fld w 18 6 + fld w 6 6) (.ret (reg w 12))
  | m => .error (.reservedMinor 0 m)

/-- Major 0x03 (R327). -/
def decode03 (w : Nat) : Except Reject Instr :=
  match fld w 16 2 with
  | 0 => zeroed 3 (fld w 18 6) (.trap (BitVec.ofNat 16 (fld w 0 16)))
  | 1 => zeroed 3 (fld w 18 6 + fld w 0 16) .tret
  | 2 => zeroed 3 (fld w 18 6 + fld w 0 16) .bkpt
  | m => .error (.reservedMinor 3 m)

/-- Major 0x04 (R327). -/
def decode04 (w : Nat) : Except Reject Instr :=
  match fld w 0 6 with
  | 0 => zeroed 4 (fld w 10 14) (.bar (Fin.ofNat 4 (fld w 8 2)) (Fin.ofNat 4 (fld w 6 2)))
  | 1 => zeroed 4 (fld w 10 8) (.bara (reg w 18) (Fin.ofNat 4 (fld w 8 2)) (Fin.ofNat 4 (fld w 6 2)))
  | 2 => zeroed 4 (fld w 8 16) (.barw (Fin.ofNat 4 (fld w 6 2)))
  | 3 => zeroed 4 (fld w 6 18) .cbar
  | 4 => zeroed 4 (fld w 6 18) .gbar
  | 5 => zeroed 4 (fld w 21 3 + fld w 9 3) (.waitph (Fin.ofNat 8 (fld w 18 3)) (reg w 12) (Fin.ofNat 8 (fld w 6 3)))
  | 6 => zeroed 4 (fld w 18 6) (.evsig (reg w 12) (reg w 6))
  | 7 => zeroed 4 (fld w 18 6) (.evwait (reg w 12) (reg w 6))
  | 8 => withScope 4 (fld w 9 3) fun e => zeroed 4 (fld w 12 12 + fld w 6 1) (.fence e (Order.ofCode (fld w 7 2)))
  | 9 => zeroed 4 (fld w 8 16) (.drain (Path.ofCode (fld w 6 2)))
  | m => .error (.reservedMinor 4 m)

/-- Major 0x05 (R327, R474). -/
def decode05 (w : Nat) : Except Reject Instr :=
  match fld w 0 6 with
  | 0 => .ok (.mfs (reg w 18) (BitVec.ofNat 12 (fld w 6 12)))
  | 1 => .ok (.mts (reg w 18) (BitVec.ofNat 12 (fld w 6 12)))
  | 2 => zeroed 5 (fld w 6 12) (.clk (reg w 18))
  | 3 => .ok (.cntrd (reg w 18) (BitVec.ofNat 12 (fld w 6 12)))
  | 4 =>
    match fld w 6 12 with
    | 0 => .ok (.rndLo (reg w 18))
    | 1 => .ok (.rndHi (reg w 18))
    | _ => .error (.reservedField 5)
  | m => .error (.reservedMinor 5 m)

/-- Major 0x06 (R327, R378). -/
def decode06 (w : Nat) : Except Reject Instr :=
  match fld w 16 2 with
  | 0 => zeroed 6 (fld w 11 5)
      (.cvdecl (Fin.ofNat 16 (fld w 20 4)) (Fin.ofNat 4 (fld w 18 2)) (BitVec.ofNat 11 (fld w 0 11)))
  | 1 => zeroed 6 (fld w 18 2 + fld w 0 16) (.cvsign (Fin.ofNat 16 (fld w 20 4)))
  | 2 => zeroed 6 (fld w 18 2 + fld w 0 16) (.cvsignW (Fin.ofNat 16 (fld w 20 4)))
  | m => .error (.reservedMinor 6 m)

/-- Major 0x08 (R320). -/
def decode08 (w : Nat) : Except Reject Instr :=
  let d := reg w 18; let a := reg w 12; let b := reg w 6
  match fld w 0 6 with
  | 0x00 => .ok (.iadd d a b) | 0x01 => .ok (.isub d a b) | 0x02 => .ok (.imul d a b)
  | 0x03 => .ok (.imulhI32 d a b) | 0x04 => .ok (.imulhN32 d a b) | 0x05 => .ok (.imad d a b)
  | 0x06 => .ok (.idivI32 d a b) | 0x07 => .ok (.idivN32 d a b)
  | 0x08 => .ok (.iremI32 d a b) | 0x09 => .ok (.iremN32 d a b)
  | 0x0A => .ok (.iminI32 d a b) | 0x0B => .ok (.iminN32 d a b)
  | 0x0C => .ok (.imaxI32 d a b) | 0x0D => .ok (.imaxN32 d a b)
  | 0x0E => zeroed 8 (fld w 6 6) (.iabs d a)
  | 0x10 => .ok (.and d a b) | 0x11 => .ok (.or d a b) | 0x12 => .ok (.xor d a b)
  | 0x13 => .ok (.shl d a b) | 0x14 => .ok (.shr d a b) | 0x15 => .ok (.sar d a b) | 0x16 => .ok (.shf d a b)
  | 0x18 => zeroed 8 (fld w 6 6) (.popc d a)
  | 0x19 => zeroed 8 (fld w 6 6) (.clz d a)
  | 0x1A => zeroed 8 (fld w 6 6) (.brev d a)
  | 0x1B => .ok (.bfeI32 d a b) | 0x1C => .ok (.bfeN32 d a b) | 0x1D => .ok (.bfi d a b)
  | 0x20 => .ok (.sel d a b 0) | 0x21 => .ok (.sel d a b 1) | 0x22 => .ok (.sel d a b 2) | 0x23 => .ok (.sel d a b 3)
  | 0x24 => .ok (.sel d a b 4) | 0x25 => .ok (.sel d a b 5) | 0x26 => .ok (.sel d a b 6) | 0x27 => .ok (.sel d a b 7)
  | 0x28 => zeroed 8 (fld w 21 3) (.icmp (Fin.ofNat 8 (fld w 18 3)) a b .eq)
  | 0x29 => zeroed 8 (fld w 21 3) (.icmp (Fin.ofNat 8 (fld w 18 3)) a b .ne)
  | 0x2A => zeroed 8 (fld w 21 3) (.icmp (Fin.ofNat 8 (fld w 18 3)) a b .lt)
  | 0x2B => zeroed 8 (fld w 21 3) (.icmp (Fin.ofNat 8 (fld w 18 3)) a b .le)
  | 0x2C => zeroed 8 (fld w 21 3) (.icmp (Fin.ofNat 8 (fld w 18 3)) a b .gt)
  | 0x2D => zeroed 8 (fld w 21 3) (.icmp (Fin.ofNat 8 (fld w 18 3)) a b .ge)
  | 0x2E => zeroed 8 (fld w 21 3) (.icmp (Fin.ofNat 8 (fld w 18 3)) a b .lo)
  | 0x2F => zeroed 8 (fld w 21 3) (.icmp (Fin.ofNat 8 (fld w 18 3)) a b .hs)
  | 0x30 => .ok (.ladd d a b)
  | 0x31 => zeroed 8 (fld w 8 4) (.mov d a (flag w 7) (flag w 6))
  | m => .error (.reservedMinor 8 m)

/-- Major 0x0D (R321). -/
def decode0D (w : Nat) : Except Reject Instr :=
  match fld w 10 2 with
  | 0 => zeroed 13 (fld w 5 5) (.shlImm (reg w 18) (reg w 12) (BitVec.ofNat 5 (fld w 0 5)))
  | 1 => zeroed 13 (fld w 5 5) (.shrImm (reg w 18) (reg w 12) (BitVec.ofNat 5 (fld w 0 5)))
  | 2 => zeroed 13 (fld w 5 5) (.sarImm (reg w 18) (reg w 12) (BitVec.ofNat 5 (fld w 0 5)))
  | m => .error (.reservedMinor 13 m)

/-- Major 0x0E (R321); `ext` is the literal word of LIT. -/
def decode0E (w ext : Nat) : Except Reject Instr :=
  match fld w 16 2 with
  | 0 => .ok (.movi (reg w 18) (BitVec.ofNat 16 (fld w 0 16)))
  | 1 => .ok (.movh (reg w 18) (BitVec.ofNat 16 (fld w 0 16)))
  | 2 => zeroed 14 (fld w 0 16) (.lit (reg w 18) (BitVec.ofNat 32 ext))
  | m => .error (.reservedMinor 14 m)

/-- Major 0x10 (R322): minor = op [5:2], rm [1:0]. -/
def decode10 (w : Nat) : Except Reject Instr :=
  let d := reg w 18; let a := reg w 12; let b := reg w 6; let r := Rm.ofCode (fld w 0 2)
  match fld w 2 4 with
  | 0 => .ok (.fadd d a b r) | 1 => .ok (.fsub d a b r) | 2 => .ok (.fmul d a b r) | 3 => .ok (.ffma d a b r)
  | 4 => zeroed 16 (fld w 0 2) (.fmin d a b)
  | 5 => zeroed 16 (fld w 0 2) (.fmax d a b)
  | 6 => zeroed 16 (fld w 21 3) (.fcmp (Fin.ofNat 8 (fld w 18 3)) a b (FCond.ofCode (fld w 0 2)))
  | 7 => zeroed 16 (fld w 21 3) (.fcmp (Fin.ofNat 8 (fld w 18 3)) a b (FCond.ofCode (4 + fld w 0 2)))
  | 8 => zeroed 16 (fld w 6 6 + fld w 0 2) (.fclass d a)
  | 9 => .ok (.fadd2Bf16 d a b r) | 10 => .ok (.fadd2F16 d a b r)
  | 11 => .ok (.fma2Bf16 d a b r) | 12 => .ok (.fma2F16 d a b r)
  | m => .error (.reservedMinor 16 m)

/-- Major 0x11 (R323). -/
def decode11 (w : Nat) : Except Reject Instr :=
  let d := reg w 18; let a := reg w 12; let r := Rm.ofCode (fld w 0 2)
  match fld w 2 4 with
  | 0 => zeroed 17 (fld w 6 6 + fld w 0 2) (.frcp d a)
  | 1 => zeroed 17 (fld w 6 6 + fld w 0 2) (.frsq d a)
  | 2 => zeroed 17 (fld w 6 6) (.fsqrt d a r)
  | 3 => .ok (.fdiv d a (reg w 6) r)
  | 4 => zeroed 17 (fld w 6 6 + fld w 0 2) (.fexp2 d a)
  | 5 => zeroed 17 (fld w 6 6 + fld w 0 2) (.flog2 d a)
  | 6 => zeroed 17 (fld w 6 6 + fld w 0 2) (.fsin d a)
  | 7 => zeroed 17 (fld w 6 6 + fld w 0 2) (.fcos d a)
  | 8 => zeroed 17 (fld w 6 6 + fld w 0 2) (.fred d a)
  | m => .error (.reservedMinor 17 m)

/-- Major 0x12 (R324, R335): field b holds the conversion code. -/
def decode12 (w : Nat) : Except Reject Instr :=
  if fld w 8 4 = 14 then
    zeroed 18 (fld w 3 1)
      (.cvtF32Mx (reg w 18) (reg w 12) (Fin.ofNat 4 (fld w 6 2)) (Rm.ofCode (fld w 4 2)) (Fin.ofNat 8 (fld w 0 3)))
  else
    .ok (.cvt (reg w 18) (reg w 12) (reg w 6) (Rm.ofCode (fld w 4 2)) (flag w 3) (Fin.ofNat 8 (fld w 0 3)))

/-- Major 0x13 (R325, R465). -/
def decode13 (w : Nat) : Except Reject Instr :=
  let d := reg w 18; let a := reg w 12; let b := reg w 6
  match fld w 0 3 with
  | 0 => .ok (.qmx d a b (Fin.ofNat 8 (fld w 3 3)))
  | 1 => .ok (.dqmx d a b (Fin.ofNat 8 (fld w 3 3)))
  | 2 => zeroed 19 (fld w 3 9) (.pslice d a)
  | 3 => zeroed 19 (fld w 3 3 + fld w 10 2) (.pmerge d a (Fin.ofNat 16 (fld w 6 4)))
  | m => .error (.reservedMinor 19 m)

/-- Major 0x14 (R326, R492). -/
def decode14 (w : Nat) : Except Reject Instr :=
  let d := reg w 18; let a := reg w 12; let q : Fin 8 := Fin.ofNat 8 (fld w 12 3)
  match fld w 4 2 with
  | 0 => .ok (.shfl d a (reg w 6) (ShflMode.ofCode (fld w 2 2)) (Fin.ofNat 4 (fld w 0 2)))
  | 1 => .ok (.shflImm d a (BitVec.ofNat 6 (fld w 6 6)) (ShflMode.ofCode (fld w 2 2)) (Fin.ofNat 4 (fld w 0 2)))
  | 2 =>
    match fld w 0 4 with
    | 0 => zeroed 20 (fld w 21 3 + fld w 15 3 + fld w 6 6) (.voteOr (Fin.ofNat 8 (fld w 18 3)) q)
    | 1 => zeroed 20 (fld w 21 3 + fld w 15 3 + fld w 6 6) (.voteAnd (Fin.ofNat 8 (fld w 18 3)) q)
    | 2 => zeroed 20 (fld w 15 3 + fld w 6 6) (.voteMask d q)
    | 3 => zeroed 20 (fld w 15 3 + fld w 6 6) (.voteCount d q)
    | 4 => zeroed 20 (fld w 15 3 + fld w 6 6) (.voteFirst d q)
    | m => .error (.reservedMinor 20 (32 + m))
  | _ =>
    match fld w 0 4 with
    | 0 => zeroed 20 (fld w 6 6) (.vmatch d a)
    | m => .error (.reservedMinor 20 (48 + m))

/-- Majors 0x18 to 0x1C and 0x20 to 0x24 (R328). -/
def decodeLd (maj w : Nat) (k : Scope → Order → Bool → BitVec 6 → Instr) : Except Reject Instr :=
  withScope maj (fld w 9 3) fun e => .ok (k e (Order.ofCode (fld w 7 2)) (flag w 6) (BitVec.ofNat 6 (fld w 0 6)))
def decodeSt (maj w : Nat) (k : Scope → Order → BitVec 6 → Instr) : Except Reject Instr :=
  withScope maj (fld w 9 3) fun e => zeroed maj (fld w 6 1) (k e (Order.ofCode (fld w 7 2)) (BitVec.ofNat 6 (fld w 0 6)))

/-- Major 0x25 (R328). -/
def decode25 (w : Nat) : Except Reject Instr :=
  withSize 37 (fld w 8 3) fun z =>
    if flag w 11 then .ok (.sts (reg w 18) (reg w 12) z (Fin.ofNat 8 (fld w 5 3)) (BitVec.ofNat 5 (fld w 0 5)))
    else .ok (.lds (reg w 18) (reg w 12) z (Fin.ofNat 8 (fld w 5 3)) (BitVec.ofNat 5 (fld w 0 5)))

/-- Major 0x26 (R328, R471). -/
def decode26 (w : Nat) : Except Reject Instr :=
  match fld w 0 6 with
  | 0 => zeroed 38 (fld w 6 6) (.qpush (reg w 18) (reg w 12))
  | 1 => zeroed 38 (fld w 6 6) (.qpop (reg w 18) (reg w 12))
  | m => .error (.reservedMinor 38 m)

/-- Major 0x27 (R328, R370, R468). -/
def decode27 (w : Nat) : Except Reject Instr :=
  match fld w 0 6 with
  | 0 => zeroed 39 (fld w 18 6 + fld w 9 3) (.pref (reg w 12) (Fin.ofNat 8 (fld w 6 3)))
  | 1 => withScope 39 (fld w 9 3) fun e => zeroed 39 (fld w 18 6 + fld w 6 3) (.cinv (reg w 12) e)
  | 2 => withScope 39 (fld w 9 3) fun e => zeroed 39 (fld w 18 6 + fld w 6 3) (.cflush (reg w 12) e)
  | m => .error (.reservedMinor 39 m)

/-- Major 0x30 (R331): k [23:20], a [19:14], b [13:8], fs [7:5], minor [4:0]. -/
def decode30 (w : Nat) : Except Reject Instr :=
  let k : Fin 16 := Fin.ofNat 16 (fld w 20 4); let a := reg w 14; let b := reg w 8
  match fld w 0 5 with
  | 0 => zeroed 48 (fld w 5 15) (.kclr k)
  | 1 => withFs 48 (fld w 5 3) fun f => zeroed 48 (fld w 8 6) (.kadd k a f)
  | 2 => withFs 48 (fld w 5 3) fun f => .ok (.kfma k a b f)
  | 3 => withFs 48 (fld w 5 3) fun f => .ok (.kdot2 k a b f)
  | 4 => withFs 48 (fld w 5 3) fun f => .ok (.kdot4 k a b f)
  | 5 => zeroed 48 (fld w 5 3) (.kiadd k a b)
  | 6 => zeroed 48 (fld w 18 2 + fld w 5 9) (.kmrg k (Fin.ofNat 16 (fld w 14 4)))
  | 7 => zeroed 48 (fld w 18 2 + fld w 5 9) (.kmrgNeg k (Fin.ofNat 16 (fld w 14 4)))
  | 8 => zeroed 48 (fld w 5 15) (.knorm k)
  | 9 => zeroed 48 (fld w 5 9) (.kscl k a)
  | 10 => zeroed 48 (fld w 5 3) (.kseg k a b)
  | 11 => zeroed 48 (fld w 5 9) (.kstat k a)
  | 12 => withFs 48 (fld w 5 3) fun f =>
      zeroed 48 (fld w 11 3) (.krnd k a (flag w 10) (Rm.ofCode (fld w 8 2)) f)
  | m => .error (.reservedMinor 48 m)

/-- Major 0x31 (R332). -/
def decode31 (w : Nat) : Except Reject Instr :=
  let k : Fin 16 := Fin.ofNat 16 (fld w 20 4); let a := reg w 14
  withScope 49 (fld w 10 3) fun e =>
    if flag w 13 then
      zeroed 49 (fld w 7 1) (.kst k a e (Order.ofCode (fld w 8 2)) (BitVec.ofNat 7 (fld w 0 7)))
    else .ok (.kld k a e (Order.ofCode (fld w 8 2)) (flag w 7) (BitVec.ofNat 7 (fld w 0 7)))

/-- Major 0x34 (R333). -/
def decode34 (w : Nat) : Except Reject Instr :=
  let a := reg w 14; let l : Fin 8 := Fin.ofNat 8 (fld w 5 3); let t : Fin 4 := Fin.ofNat 4 (fld w 3 2)
  match fld w 0 3 with
  | 0 => .ok (.mxa (Fin.ofNat 16 (fld w 20 4)) a (reg w 8) l t)
  | 1 => zeroed 52 (fld w 8 16) (.mxz l t)
  | 2 => zeroed 52 (fld w 20 4 + fld w 8 6) (.mxrd a l t)
  | 3 => zeroed 52 (fld w 20 4 + fld w 8 6) (.mxsp a l t)
  | 4 => zeroed 52 (fld w 20 4 + fld w 8 6) (.mxfl a l t)
  | m => .error (.reservedMinor 52 m)

/-- Major 0x38 (R334). -/
def decode38 (w : Nat) : Except Reject Instr :=
  match fld w 0 6 with
  | 0 => zeroed 56 (fld w 18 6 + fld w 6 6) (.launch (reg w 12))
  | 1 =>
    if flag w 6 then zeroed 56 (fld w 18 6 + fld w 7 5) (.smodeQueue (reg w 12))
    else zeroed 56 (fld w 18 6 + fld w 7 5) (.smodeScratch (reg w 12))
  | m => .error (.reservedMinor 56 m)

/-- Majors 0x28 to 0x2F: head word `w`, extension word `x` (R316, R330). Bits of x: SCOPE [29:27],
ORDER [26:25], O [24], D [23], SIZE [22:20], OP [19:16], IMM [15:0]. -/
def decode2x (maj w x : Nat) : Except Reject Instr :=
  let d := reg w 18; let a := reg w 12; let b := reg w 6; let c := reg w 0
  let o := Order.ofCode (fld x 25 2); let ord := flag x 24; let imm := BitVec.ofNat 16 (fld x 0 16)
  if fld x 30 2 ≠ 0 then .error (.reservedField maj) else
  match maj with
  | 0x28 =>
    withScope maj (fld x 27 3) fun e => withSize maj (fld x 20 3) fun z =>
      match AtomOp.ofCode (fld x 16 4) with
      | none => .error (.reservedCode maj)
      | some op =>
        if flag x 23 then
          if d = 63 then zeroed maj (fld w 0 6) (.atomNr a b op z ord e o imm) else .error .discardNeeds63
        else zeroed maj (fld w 0 6) (.atom d a b op z ord e o imm)
  | 0x29 =>
    withScope maj (fld x 27 3) fun e => withSize maj (fld x 20 3) fun z =>
      zeroed maj (fld x 23 1 + fld x 16 4) (.cas d a b c z ord e o imm)
  | 0x2A =>
    withScope maj (fld x 27 3) fun e => withFs maj (fld x 16 3) fun f =>
      if flag x 19 then zeroed maj (fld w 18 6 + fld x 20 5) (.aaccMul a b c f e o imm)
      else zeroed maj (fld w 18 6 + fld w 0 6 + fld x 20 5) (.aacc a b f e o imm)
  | 0x2B =>
    withScope maj (fld x 27 3) fun e =>
      if flag x 16 then
        zeroed maj (fld w 18 6 + fld w 10 2 + fld w 0 6 + fld x 17 8) (.amrgNeg a (Fin.ofNat 16 (fld w 6 4)) e o imm)
      else
        zeroed maj (fld w 18 6 + fld w 10 2 + fld w 0 6 + fld x 17 8) (.amrg a (Fin.ofNat 16 (fld w 6 4)) e o imm)
  | 0x2C =>
    withScope maj (fld x 27 3) fun e => zeroed maj (fld w 18 6 + fld w 0 12 + fld x 0 27) (.cpy a e)
  | 0x2D =>
    withScope maj (fld x 27 3) fun e => zeroed maj (fld w 18 6 + fld w 0 12 + fld x 0 27) (.gthr a e)
  | 0x2E =>
    match fld x 16 4 with
    | 0 => withScope maj (fld x 27 3) fun e =>
        zeroed maj (fld w 18 6 + fld w 0 12 + fld x 20 7 + fld x 2 14) (.coll a (Fin.ofNat 4 (fld x 0 2)) e)
    | 1 => zeroed maj (fld w 0 18 + fld x 20 10 + fld x 2 14) (.collw d (Fin.ofNat 4 (fld x 0 2)))
    | _ => .error (.reservedCode maj)
  | 0x2F =>
    match fld x 16 4 with
    | 0 => zeroed maj (fld w 0 12 + fld x 20 10 + fld x 0 16) (.rowpin d a)
    | 1 => zeroed maj (fld w 18 6 + fld w 0 12 + fld x 20 10 + fld x 0 16) (.rowrel a)
    | 2 => zeroed maj (fld w 0 24 + fld x 20 10 + fld x 0 16) .rowrelAll
    | 3 => zeroed maj (fld w 0 12 + fld x 20 10 + fld x 0 16) (.rowqry d a)
    | _ => .error (.reservedCode maj)
  | m => .error (.reservedMajor m)

/-- The head word's major opcode (R309). -/
def majorOf (w : Nat) : Nat := fld w 24 6

/-- Does the instruction that starts with this head word occupy two words (R310)? -/
def isTwoWord (w : Nat) : Bool :=
  (0x28 ≤ majorOf w && majorOf w ≤ 0x2F) || (majorOf w == 0x0E && fld w 16 2 == 2)

/-- The instruction of a head word `w` and, for a form of two words, its second word `ext` (R319). -/
def decodeInstr (w ext : Nat) : Except Reject Instr :=
  let d := reg w 18; let a := reg w 12; let i12 := BitVec.ofNat 12 (fld w 0 12)
  match majorOf w with
  | 0x00 => decode00 w
  | 0x01 => .ok (.bra (Hint.ofCode (fld w 22 2)) (Fin.ofNat 8 (fld w 19 3)) (flag w 18) (BitVec.ofNat 18 (fld w 0 18)))
  | 0x02 => .ok (.call d (BitVec.ofNat 18 (fld w 0 18)))
  | 0x03 => decode03 w
  | 0x04 => decode04 w
  | 0x05 => decode05 w
  | 0x06 => decode06 w
  | 0x07 =>
    match fld w 0 6 with
    | 0 => zeroed 7 (fld w 18 6 + fld w 6 6) (.brx a)
    | m => .error (.reservedMinor 7 m)
  | 0x08 => decode08 w
  | 0x09 => .ok (.iaddi d a i12)
  | 0x0A => .ok (.andi d a i12)
  | 0x0B => .ok (.ori d a i12)
  | 0x0C => .ok (.xori d a i12)
  | 0x0D => decode0D w
  | 0x0E => decode0E w ext
  | 0x0F => .ok (.laddi d a i12)
  | 0x10 => decode10 w
  | 0x11 => decode11 w
  | 0x12 => decode12 w
  | 0x13 => decode13 w
  | 0x14 => decode14 w
  | 0x18 => decodeLd 0x18 w (.ldB8 d a)
  | 0x19 => decodeLd 0x19 w (.ldB16 d a)
  | 0x1A => decodeLd 0x1A w (.ldB32 d a)
  | 0x1B => decodeLd 0x1B w (.ldB64 d a)
  | 0x1C => decodeLd 0x1C w (.ldB128 d a)
  | 0x20 => decodeSt 0x20 w (.stB8 d a)
  | 0x21 => decodeSt 0x21 w (.stB16 d a)
  | 0x22 => decodeSt 0x22 w (.stB32 d a)
  | 0x23 => decodeSt 0x23 w (.stB64 d a)
  | 0x24 => decodeSt 0x24 w (.stB128 d a)
  | 0x25 => decode25 w
  | 0x26 => decode26 w
  | 0x27 => decode27 w
  | 0x28 => decode2x 0x28 w ext
  | 0x29 => decode2x 0x29 w ext
  | 0x2A => decode2x 0x2A w ext
  | 0x2B => decode2x 0x2B w ext
  | 0x2C => decode2x 0x2C w ext
  | 0x2D => decode2x 0x2D w ext
  | 0x2E => decode2x 0x2E w ext
  | 0x2F => decode2x 0x2F w ext
  | 0x30 => decode30 w
  | 0x31 => decode31 w
  | 0x34 => decode34 w
  | 0x38 => decode38 w
  | m => .error (.reservedMajor m)

/-- The C and S bits of a head word (R309). -/
def decodeHdr (w : Nat) : Hdr := { c := flag w 31, s := flag w 30 }

/-- Four bytes as a little-endian word (R10). -/
def wordOfBytes (b0 b1 b2 b3 : Byte) : Nat :=
  b0.toNat + b1.toNat * 2 ^ 8 + b2.toNat * 2 ^ 16 + b3.toNat * 2 ^ 24

/-- Decode the instruction at the head of any list of bytes, with the bytes after it. -/
def decodeBytes : List Byte → Except Reject (Hdr × Instr × List Byte)
  | b0 :: b1 :: b2 :: b3 :: rest =>
    let w := wordOfBytes b0 b1 b2 b3
    if isTwoWord w then
      match rest with
      | c0 :: c1 :: c2 :: c3 :: rest' =>
        match decodeInstr w (wordOfBytes c0 c1 c2 c3) with
        | .ok i => .ok (decodeHdr w, i, rest')
        | .error r => .error r
      | _ => .error .truncated
    else
      match decodeInstr w 0 with
      | .ok i => .ok (decodeHdr w, i, rest)
      | .error r => .error r
  | _ => .error .truncated

/-! The encoder: the same tables read the other way. -/

def bit (b : Bool) : Nat := if b then 1 else 0

/-- A word of major `maj` with three 6-bit fields and a minor (formats RRR, CTL, X). -/
def rrr (maj d a b minor : Nat) : Nat := maj * 2 ^ 24 + d * 2 ^ 18 + a * 2 ^ 12 + b * 2 ^ 6 + minor
/-- Format MEM (R315). -/
def mem (maj d a : Nat) (e : Scope) (o : Order) (f : Bool) (i : Nat) : Nat :=
  maj * 2 ^ 24 + d * 2 ^ 18 + a * 2 ^ 12 + e.code * 2 ^ 9 + o.code * 2 ^ 7 + bit f * 2 ^ 6 + i
/-- Format KA (R315). -/
def ka (k a b fs minor : Nat) : Nat := 0x30 * 2 ^ 24 + k * 2 ^ 20 + a * 2 ^ 14 + b * 2 ^ 8 + fs * 2 ^ 5 + minor
/-- Format KM (R315). -/
def km (k a ls : Nat) (e : Scope) (o : Order) (f : Bool) (i : Nat) : Nat :=
  0x31 * 2 ^ 24 + k * 2 ^ 20 + a * 2 ^ 14 + ls * 2 ^ 13 + e.code * 2 ^ 10 + o.code * 2 ^ 8 + bit f * 2 ^ 7 + i
/-- Format MX (R315). -/
def mx (cv a b slot tile minor : Nat) : Nat :=
  0x34 * 2 ^ 24 + cv * 2 ^ 20 + a * 2 ^ 14 + b * 2 ^ 8 + slot * 2 ^ 5 + tile * 2 ^ 3 + minor
/-- The extension word (R316). -/
def ext (e o : Nat) (ord disc : Bool) (z op imm : Nat) : Nat :=
  e * 2 ^ 27 + o * 2 ^ 25 + bit ord * 2 ^ 24 + bit disc * 2 ^ 23 + z * 2 ^ 20 + op * 2 ^ 16 + imm

/-- The low 30 bits of an instruction's head word and its second word, if it has one; none for an
event, which has no words. -/
def encodeBody : Instr → Option (Nat × Option Nat)
  | .nop => some (0x00000000, none)
  | .exit => some (0x00000001, none)
  | .yield => some (0x00000002, none)
  | .ret a => some (rrr 0x00 0 a 0 3, none)
  | .bra h p n d => some (0x01 * 2 ^ 24 + h.code * 2 ^ 22 + p.val * 2 ^ 19 + bit n * 2 ^ 18 + d.toNat, none)
  | .call d i => some (0x02 * 2 ^ 24 + d.val * 2 ^ 18 + i.toNat, none)
  | .trap i => some (0x03 * 2 ^ 24 + i.toNat, none)
  | .tret => some (0x03010000, none)
  | .bkpt => some (0x03020000, none)
  | .bar m b => some (0x04 * 2 ^ 24 + m.val * 2 ^ 8 + b.val * 2 ^ 6, none)
  | .bara d m b => some (0x04 * 2 ^ 24 + d.val * 2 ^ 18 + m.val * 2 ^ 8 + b.val * 2 ^ 6 + 1, none)
  | .barw b => some (0x04 * 2 ^ 24 + b.val * 2 ^ 6 + 2, none)
  | .cbar => some (0x04000003, none)
  | .gbar => some (0x04000004, none)
  | .waitph p a b => some (rrr 0x04 p a b 5, none)
  | .evsig a b => some (rrr 0x04 0 a b 6, none)
  | .evwait a b => some (rrr 0x04 0 a b 7, none)
  | .fence e o => some (0x04 * 2 ^ 24 + e.code * 2 ^ 9 + o.code * 2 ^ 7 + 8, none)
  | .drain p => some (0x04 * 2 ^ 24 + p.code * 2 ^ 6 + 9, none)
  | .mfs d r => some (0x05 * 2 ^ 24 + d.val * 2 ^ 18 + r.toNat * 2 ^ 6, none)
  | .mts d r => some (0x05 * 2 ^ 24 + d.val * 2 ^ 18 + r.toNat * 2 ^ 6 + 1, none)
  | .clk d => some (0x05 * 2 ^ 24 + d.val * 2 ^ 18 + 2, none)
  | .cntrd d r => some (0x05 * 2 ^ 24 + d.val * 2 ^ 18 + r.toNat * 2 ^ 6 + 3, none)
  | .rndLo d => some (0x05 * 2 ^ 24 + d.val * 2 ^ 18 + 4, none)
  | .rndHi d => some (0x05 * 2 ^ 24 + d.val * 2 ^ 18 + 0x44, none)
  | .cvdecl v t k => some (0x06 * 2 ^ 24 + v.val * 2 ^ 20 + t.val * 2 ^ 18 + k.toNat, none)
  | .cvsign v => some (0x06 * 2 ^ 24 + v.val * 2 ^ 20 + 0x10000, none)
  | .cvsignW v => some (0x06 * 2 ^ 24 + v.val * 2 ^ 20 + 0x20000, none)
  | .brx a => some (rrr 0x07 0 a 0 0, none)
  | .iadd d a b => some (rrr 0x08 d a b 0x00, none)
  | .isub d a b => some (rrr 0x08 d a b 0x01, none)
  | .imul d a b => some (rrr 0x08 d a b 0x02, none)
  | .imulhI32 d a b => some (rrr 0x08 d a b 0x03, none)
  | .imulhN32 d a b => some (rrr 0x08 d a b 0x04, none)
  | .imad d a b => some (rrr 0x08 d a b 0x05, none)
  | .idivI32 d a b => some (rrr 0x08 d a b 0x06, none)
  | .idivN32 d a b => some (rrr 0x08 d a b 0x07, none)
  | .iremI32 d a b => some (rrr 0x08 d a b 0x08, none)
  | .iremN32 d a b => some (rrr 0x08 d a b 0x09, none)
  | .iminI32 d a b => some (rrr 0x08 d a b 0x0A, none)
  | .iminN32 d a b => some (rrr 0x08 d a b 0x0B, none)
  | .imaxI32 d a b => some (rrr 0x08 d a b 0x0C, none)
  | .imaxN32 d a b => some (rrr 0x08 d a b 0x0D, none)
  | .iabs d a => some (rrr 0x08 d a 0 0x0E, none)
  | .and d a b => some (rrr 0x08 d a b 0x10, none)
  | .or d a b => some (rrr 0x08 d a b 0x11, none)
  | .xor d a b => some (rrr 0x08 d a b 0x12, none)
  | .shl d a b => some (rrr 0x08 d a b 0x13, none)
  | .shr d a b => some (rrr 0x08 d a b 0x14, none)
  | .sar d a b => some (rrr 0x08 d a b 0x15, none)
  | .shf d a b => some (rrr 0x08 d a b 0x16, none)
  | .popc d a => some (rrr 0x08 d a 0 0x18, none)
  | .clz d a => some (rrr 0x08 d a 0 0x19, none)
  | .brev d a => some (rrr 0x08 d a 0 0x1A, none)
  | .bfeI32 d a b => some (rrr 0x08 d a b 0x1B, none)
  | .bfeN32 d a b => some (rrr 0x08 d a b 0x1C, none)
  | .bfi d a b => some (rrr 0x08 d a b 0x1D, none)
  | .sel d a b p => some (rrr 0x08 d a b (0x20 + p.val), none)
  | .icmp p a b k => some (rrr 0x08 p a b (0x28 + k.code), none)
  | .ladd d a b => some (rrr 0x08 d a b 0x30, none)
  | .mov d a ag dg => some (rrr 0x08 d a (bit ag * 2 + bit dg) 0x31, none)
  | .iaddi d a i => some (0x09 * 2 ^ 24 + d.val * 2 ^ 18 + a.val * 2 ^ 12 + i.toNat, none)
  | .andi d a i => some (0x0A * 2 ^ 24 + d.val * 2 ^ 18 + a.val * 2 ^ 12 + i.toNat, none)
  | .ori d a i => some (0x0B * 2 ^ 24 + d.val * 2 ^ 18 + a.val * 2 ^ 12 + i.toNat, none)
  | .xori d a i => some (0x0C * 2 ^ 24 + d.val * 2 ^ 18 + a.val * 2 ^ 12 + i.toNat, none)
  | .shlImm d a i => some (0x0D * 2 ^ 24 + d.val * 2 ^ 18 + a.val * 2 ^ 12 + i.toNat, none)
  | .shrImm d a i => some (0x0D * 2 ^ 24 + d.val * 2 ^ 18 + a.val * 2 ^ 12 + 0x400 + i.toNat, none)
  | .sarImm d a i => some (0x0D * 2 ^ 24 + d.val * 2 ^ 18 + a.val * 2 ^ 12 + 0x800 + i.toNat, none)
  | .movi d i => some (0x0E * 2 ^ 24 + d.val * 2 ^ 18 + i.toNat, none)
  | .movh d i => some (0x0E * 2 ^ 24 + d.val * 2 ^ 18 + 0x10000 + i.toNat, none)
  | .laddi d a i => some (0x0F * 2 ^ 24 + d.val * 2 ^ 18 + a.val * 2 ^ 12 + i.toNat, none)
  | .fadd d a b r => some (rrr 0x10 d a b r.code, none)
  | .fsub d a b r => some (rrr 0x10 d a b (4 + r.code), none)
  | .fmul d a b r => some (rrr 0x10 d a b (8 + r.code), none)
  | .ffma d a b r => some (rrr 0x10 d a b (12 + r.code), none)
  | .fmin d a b => some (rrr 0x10 d a b 16, none)
  | .fmax d a b => some (rrr 0x10 d a b 20, none)
  | .fcmp p a b k => some (rrr 0x10 p a b (0x18 + k.code), none)
  | .fclass d a => some (rrr 0x10 d a 0 0x20, none)
  | .fadd2Bf16 d a b r => some (rrr 0x10 d a b (36 + r.code), none)
  | .fadd2F16 d a b r => some (rrr 0x10 d a b (40 + r.code), none)
  | .fma2Bf16 d a b r => some (rrr 0x10 d a b (44 + r.code), none)
  | .fma2F16 d a b r => some (rrr 0x10 d a b (48 + r.code), none)
  | .frcp d a => some (rrr 0x11 d a 0 0, none)
  | .frsq d a => some (rrr 0x11 d a 0 4, none)
  | .fsqrt d a r => some (rrr 0x11 d a 0 (8 + r.code), none)
  | .fdiv d a b r => some (rrr 0x11 d a b (12 + r.code), none)
  | .fexp2 d a => some (rrr 0x11 d a 0 16, none)
  | .flog2 d a => some (rrr 0x11 d a 0 20, none)
  | .fsin d a => some (rrr 0x11 d a 0 24, none)
  | .fcos d a => some (rrr 0x11 d a 0 28, none)
  | .fred d a => some (rrr 0x11 d a 0 32, none)
  | .cvt d a k r t l => some (rrr 0x12 d a k (r.code * 2 ^ 4 + bit t * 2 ^ 3 + l.val), none)
  | .cvtF32Mx d a j r l => some (rrr 0x12 d a (0x38 + j.val) (r.code * 2 ^ 4 + l.val), none)
  | .qmx d a b l => some (rrr 0x13 d a b (l.val * 2 ^ 3), none)
  | .dqmx d a b l => some (rrr 0x13 d a b (l.val * 2 ^ 3 + 1), none)
  | .pslice d a => some (rrr 0x13 d a 0 2, none)
  | .pmerge d a p => some (rrr 0x13 d a p 3, none)
  | .shfl d a b m w => some (rrr 0x14 d a b (m.code * 2 ^ 2 + w.val), none)
  | .shflImm d a i m w => some (rrr 0x14 d a i.toNat (0x10 + m.code * 2 ^ 2 + w.val), none)
  | .voteOr p q => some (rrr 0x14 p q 0 0x20, none)
  | .voteAnd p q => some (rrr 0x14 p q 0 0x21, none)
  | .voteMask d q => some (rrr 0x14 d q 0 0x22, none)
  | .voteCount d q => some (rrr 0x14 d q 0 0x23, none)
  | .voteFirst d q => some (rrr 0x14 d q 0 0x24, none)
  | .vmatch d a => some (rrr 0x14 d a 0 0x30, none)
  | .ldB8 d a e o f i => some (mem 0x18 d a e o f i.toNat, none)
  | .ldB16 d a e o f i => some (mem 0x19 d a e o f i.toNat, none)
  | .ldB32 d a e o f i => some (mem 0x1A d a e o f i.toNat, none)
  | .ldB64 d a e o f i => some (mem 0x1B d a e o f i.toNat, none)
  | .ldB128 d a e o f i => some (mem 0x1C d a e o f i.toNat, none)
  | .stB8 d a e o i => some (mem 0x20 d a e o false i.toNat, none)
  | .stB16 d a e o i => some (mem 0x21 d a e o false i.toNat, none)
  | .stB32 d a e o i => some (mem 0x22 d a e o false i.toNat, none)
  | .stB64 d a e o i => some (mem 0x23 d a e o false i.toNat, none)
  | .stB128 d a e o i => some (mem 0x24 d a e o false i.toNat, none)
  | .lds d a z w i =>
    some (0x25 * 2 ^ 24 + d.val * 2 ^ 18 + a.val * 2 ^ 12 + z.code * 2 ^ 8 + w.val * 2 ^ 5 + i.toNat, none)
  | .sts d a z w i =>
    some (0x25 * 2 ^ 24 + d.val * 2 ^ 18 + a.val * 2 ^ 12 + 2 ^ 11 + z.code * 2 ^ 8 + w.val * 2 ^ 5 + i.toNat, none)
  | .qpush d q => some (rrr 0x26 d q 0 0, none)
  | .qpop d q => some (rrr 0x26 d q 0 1, none)
  | .pref a l => some (0x27 * 2 ^ 24 + a.val * 2 ^ 12 + l.val * 2 ^ 6, none)
  | .cinv a e => some (0x27 * 2 ^ 24 + a.val * 2 ^ 12 + e.code * 2 ^ 9 + 1, none)
  | .cflush a e => some (0x27 * 2 ^ 24 + a.val * 2 ^ 12 + e.code * 2 ^ 9 + 2, none)
  | .kclr k => some (ka k 0 0 0 0, none)
  | .kadd k a f => some (ka k a 0 f.code 1, none)
  | .kfma k a b f => some (ka k a b f.code 2, none)
  | .kdot2 k a b f => some (ka k a b f.code 3, none)
  | .kdot4 k a b f => some (ka k a b f.code 4, none)
  | .kiadd k a b => some (ka k a b 0 5, none)
  | .kmrg k m => some (ka k m 0 0 6, none)
  | .kmrgNeg k m => some (ka k m 0 0 7, none)
  | .knorm k => some (ka k 0 0 0 8, none)
  | .kscl k a => some (ka k a 0 0 9, none)
  | .kseg k a b => some (ka k a b 0 10, none)
  | .kstat k a => some (ka k a 0 0 11, none)
  | .krnd k a t r f => some (ka k a (bit t * 2 ^ 2 + r.code) f.code 12, none)
  | .kld k a e o f i => some (km k a 0 e o f i.toNat, none)
  | .kst k a e o i => some (km k a 1 e o false i.toNat, none)
  | .mxa v a b l t => some (mx v a b l t 0, none)
  | .mxz l t => some (mx 0 0 0 l t 1, none)
  | .mxrd a l t => some (mx 0 a 0 l t 2, none)
  | .mxsp a l t => some (mx 0 a 0 l t 3, none)
  | .mxfl a l t => some (mx 0 a 0 l t 4, none)
  | .launch a => some (rrr 0x38 0 a 0 0, none)
  | .smodeScratch a => some (rrr 0x38 0 a 0 1, none)
  | .smodeQueue a => some (rrr 0x38 0 a 1 1, none)
  | .lit d w => some (0x0E * 2 ^ 24 + d.val * 2 ^ 18 + 0x20000, some w.toNat)
  | .atom d a b op z ord e o i => some (rrr 0x28 d a b 0, some (ext e.code o.code ord false z.code op.code i.toNat))
  | .atomNr a b op z ord e o i => some (rrr 0x28 63 a b 0, some (ext e.code o.code ord true z.code op.code i.toNat))
  | .cas d a b c z ord e o i => some (rrr 0x29 d a b c, some (ext e.code o.code ord false z.code 0 i.toNat))
  | .aacc a b f e o i => some (rrr 0x2A 0 a b 0, some (ext e.code o.code false false 0 f.code i.toNat))
  | .aaccMul a b c f e o i => some (rrr 0x2A 0 a b c, some (ext e.code o.code false false 0 (8 + f.code) i.toNat))
  | .amrg a k e o i => some (rrr 0x2B 0 a k 0, some (ext e.code o.code false false 0 0 i.toNat))
  | .amrgNeg a k e o i => some (rrr 0x2B 0 a k 0, some (ext e.code o.code false false 0 1 i.toNat))
  | .cpy a e => some (rrr 0x2C 0 a 0 0, some (ext e.code 0 false false 0 0 0))
  | .gthr a e => some (rrr 0x2D 0 a 0 0, some (ext e.code 0 false false 0 0 0))
  | .coll a h e => some (rrr 0x2E 0 a 0 0, some (ext e.code 0 false false 0 0 h.val))
  | .collw d h => some (rrr 0x2E d 0 0 0, some (ext 0 0 false false 0 1 h.val))
  | .rowpin d a => some (rrr 0x2F d a 0 0, some (ext 0 0 false false 0 0 0))
  | .rowrel a => some (rrr 0x2F 0 a 0 0, some (ext 0 0 false false 0 1 0))
  | .rowrelAll => some (rrr 0x2F 0 0 0 0, some (ext 0 0 false false 0 2 0))
  | .rowqry d a => some (rrr 0x2F d a 0 0, some (ext 0 0 false false 0 3 0))
  | _ => none

/-- The words of an instruction under a header (R309, R310); none for an event. -/
def encode (h : Hdr) (i : Instr) : List Word :=
  match encodeBody i with
  | some (w, none) => [BitVec.ofNat 32 (bit h.c * 2 ^ 31 + bit h.s * 2 ^ 30 + w)]
  | some (w, some x) => [BitVec.ofNat 32 (bit h.c * 2 ^ 31 + bit h.s * 2 ^ 30 + w), BitVec.ofNat 32 x]
  | none => []

/-- Does the row have words (an instruction), or none (an event)? -/
def Instr.isWord (i : Instr) : Bool := (encodeBody i).isSome

/-- The bytes of a word, lowest address first (R10). -/
def bytesOfWord (w : Word) : List Byte :=
  [w.extractLsb' 0 8, w.extractLsb' 8 8, w.extractLsb' 16 8, w.extractLsb' 24 8]

/-- The bytes of an instruction (R10). -/
def encodeBytes (h : Hdr) (i : Instr) : List Byte := (encode h i).flatMap bytesOfWord

/-- The two words of a table word: the longest instruction has two (R310), and bits above nbits are 0. -/
def tableWords (nbits w : Nat) : Word × Word :=
  let v := w % 2 ^ nbits
  (BitVec.ofNat 32 v, BitVec.ofNat 32 (v / 2 ^ 32))

/-- The instruction read from an instruction's bits, numbered as opcode_table.json numbers them: the
first word in bits [31:0], the second in bits [63:32]. -/
def decodeTableWord (nbits w : Nat) : Option Instr :=
  let ws := tableWords nbits w
  match decodeBytes (bytesOfWord ws.1 ++ bytesOfWord ws.2) with
  | .ok (_, i, _) => some i
  | .error _ => none

end Sys2Proof
end

