-- ==== Sys2Proof/Config.lean ====
section
/-! DEFINITION. What the spec leaves to the implementation or to the moment: free values. Each constant is
opaque and has no body, so nothing can be proved about its value; each is named in the assumption log. -/
namespace Sys2Proof.Config

/-- A fresh free value for each count of State.free: a choice among alternatives the spec names (R15),
an unspecified order or byte, an elapsed time (log entries 2, 12, 16, 17, 18). -/
opaque freeNat : Nat → Nat
/-- The result an SFU approximation proposes for an operation code and operand (R401, log entry 7). -/
opaque sfu : Nat → Word → Word
/-- The frames that the firmware reserves (R143, log entry 20). -/
opaque reservedFrames : List Nat
/-- The 96-byte device secret (R304, log entry 11). -/
opaque deviceSecret : BitVec 768
/-- The SHAKE256 hash of the firmware key that is fused, and the fuses of the rollback counter (R303, log entry 11). -/
opaque fusedHash : BitVec 512
opaque rollbackFuses : BitVec 64
/-- The version that a firmware image's body states (R303, log entry 11). -/
opaque imageVersion : List Byte → Nat
/-- The measurement of index 1 to 4 with a firmware image's body (R305, log entry 11). -/
opaque measurement : Nat → List Byte → BitVec 512
/-- The certificate of the identity key made at manufacture (R304, log entry 11). -/
opaque identityCert : List Byte
/-- The alias certificate's body for an alias key, and the random string of its signature (R304, log entry 11). -/
opaque aliasBody : List Byte → List Byte
opaque aliasRand : List Byte → List Byte
/-- How an MXE_FENCE record's DETAIL holds an engine number and a quarter-array number (R232, log entry 16). -/
opaque fenceDetail : Nat → Nat → Nat
/-- The 16 bytes of a pending-list entry of a quarter dump, from lane slot, register number, class and value (R243, log entry 16). -/
opaque pendingEntry : Nat → Nat → Nat → Nat → Nat
/-- Where a quarter dump keeps the n-th image of its pending lists, as an offset from DBGBASE (R243, log entry 16). -/
opaque imagePlace : Nat → Nat
/-- The bytes of a save area whose arrangement is the device's own, as a number: the launch unit's part of a launch block and a team header,
from the fields that the spec names for them (R247, R248, log entry 16). -/
opaque saveBlock : List Nat → Nat
/-- A field by number of such bytes, where a resume reads an area that no save of the partition has left (R250, log entry 43). -/
opaque saveField : Nat → Nat → Nat
/-- The 16 bytes of a pin entry of a save, from its DPA, state and reason (R248, log entry 16). -/
opaque pinEntry : Nat → Nat → Nat → Nat
/-- The fields of a capacity extent entry by number, from the entry's 256 bits as written (R147, R295, log entry 16). -/
opaque extentField : Nat → Nat → Nat
/-- The 256 bits an extent entry with these fields reads as: offset, host address, length, owner, state (R147, R295, log entry 16). -/
opaque extentRaw : Nat → Nat → Nat → Nat → Nat → Nat
/-- The entry of a frame that firmware has reserved (R143, log entry 20). -/
opaque reservedEntry : Nat → BitVec 16
/-- The scale-up port for a line of a package: a hash of the PKGID and the line's number (R298, log entry 16). -/
opaque fabricPort : Nat → Nat → Nat
/-- The activity energy of a step in microjoules (R290, log entry 21). -/
opaque energyOf : Nat → Nat

end Sys2Proof.Config
end

