-- ==== Sys2Proof/Machine/State.lean ====
section
/-! DEFINITION. The machine's state: every piece of state the spec gives it, as plain data, and its value at reset.
Tables that have a default entry for every key are association lists in rising key order (`Tbl`). -/
namespace Sys2Proof.Machine
open Sys2Proof

/-- A table from numbers to entries; a key that is not listed holds the table's default. -/
abbrev Tbl (α : Type) := List (Nat × α)
/-- Bytes by address in canonical form: rising addresses, no entry equal to 0, what an unlisted address reads as. -/
abbrev Memory := List Host.Cell

/-- No step of this model stops with a fault: every error the spec describes is a state of the machine
(a trap, a park, a halted partition). -/
inductive Fault where
  deriving DecidableEq, Repr

/-- Why a word has no meaning. -/
inductive Refusal where
  /-- An instruction the model does not model; no arm answers it (safe: the run stops). -/
  | notModelled (mnemonic : String)
  deriving DecidableEq, Repr

/-! ## Lanes -/

/-- A group's role (R62). -/
inductive Role where
  | con | pro
  deriving DecidableEq, Repr

/-- The code object a lane executes within (R313): the launched object or the %tvec object. -/
inductive Obj where
  | launched | handler
  deriving DecidableEq, Repr

/-- What a lane is parked for (R249); `ready` is not parked. -/
inductive Park where
  | ready | exited
  | barrier (b : Nat) | cbar | gbar
  | conv (cv : Nat) | mxaWait (cv : Nat)
  | waitph (b : Nat) (token : Nat)
  | evwait (e : Nat) (target : Word)
  | fault (fid : Nat)
  | queue | drain (path : Path) (bound : Nat) | collw (h : Nat) (d : Nat)
  | smode | orderedAtom | stall
  deriving DecidableEq, Repr

/-- A handler cause with its values, raised and waiting for its entry (R224, R226). -/
structure TrapReq where
  cause : Nat
  aux : Nat
  tval : DWord
  fpc : DWord
  epc : DWord
  rpl : Bool
  deriving DecidableEq, Repr

/-- A translation fault (R138). -/
structure PageFault where
  reason : Nat
  va : Nat
  write : Bool
  fetch : Bool
  deriving DecidableEq, Repr

/-- What a deferred result still waits for (R82, R523): `engine` is the matrix engine, or the memory controller that opens a row;
`again` is an access executed again that could not reach its line, with the repeat count its page fault would have (R234). -/
inductive Wait where
  | ready
  | peer (req : Nat) | engine (row : Nat) | ordered | again (repeats : Nat)
  | page (f : PageFault) (repeats : Nat)
  | dataUe (aux : Nat) (tval : DWord) (rpl : Bool)
  deriving DecidableEq, Repr

/-- A deferred instruction between issue and the write of its result (R78 to R82): its number, its PC, its
sources read at issue, the values it will write, the destinations that later words have written since (v registers by number, k
registers from 64; R80), the pending carries of its k register (R43), the flags it will raise, the trace streams that sound it (R272) and what it waits for. -/
structure Deferred where
  n : Nat
  pc : DWord
  instr : Instr
  srcs : List Word
  vdst : List (Nat × Word)
  kdst : List (Nat × LA)
  touched : List Nat
  kcar : BitVec 80
  flags : BitVec 5
  sounded : Nat
  wait : Wait
  deriving DecidableEq, Repr

/-- Accesses of a lane that a release comes after (R180): deferred accesses, held ordered atomics and peer requests, by number. -/
structure Bound where
  defs : List Nat
  atoms : List Nat
  reqs : List Nat
  deriving DecidableEq, Repr
/-- An EVSIG of a lane that has gone on (R180, R389): what it adds to an event once the accesses before it are performed. -/
structure Rel where
  after : Bound
  event : Nat
  amount : Word
  deriving DecidableEq, Repr

/-- A lane (R61, R70, R222 to R228, R249). `lastArr` holds its last arrival phase at each team barrier, `arrived` the
barriers it has arrived at in their present phase (4 the cluster barrier, 5 the grid barrier), `errs` the causes its
engine transfers left for its next DRAIN of a path (R233, R417), as path, cause, AUX and %tval. `kc` holds the pending carries of its
k registers where the spec gives them (R43; log entry 4). `evw` is the event and the target of an EVWAIT whose marker park has still to
end (R390), `qmac` the macro of the queue word that it waits at (R485). `rels` holds its EVSIGs that wait, `fetched` the parts of a launch record in
peer memory that have come, by virtual address (R201). `way` and `trail` give the packets it has passed since the lanes of its group last
took one path (R483): those of one way began at the same packet, and the trail lists the packets entered since. `early` holds the deferred results
written before the marker that makes them visible (R80), `later` the faulting instructions that a trap left to be taken after its
return, by the depth to return to (R82), `dbg` the depths of the STEP and BKPT handlers it is in (R242). -/
structure Lane where
  id : LaneId
  part : Nat
  seq : Nat
  role : Role
  gid : Nat
  cluster : Nat
  quarter : Nat
  vb : Nat
  kb : Nat
  v : Vector Word 64
  p : BitVec 8
  k : Vector LA 16
  kc : Vector (Option (BitVec 80)) 16
  pc : DWord
  obj : Obj
  rnd : DWord
  depth : Nat
  sup : Bool
  ss : Bool
  dm : Bool
  ssw : Word
  dbg : List Nat
  epc : DWord
  fpc : DWord
  tval : DWord
  ctxsel : Word
  replay : Option Deferred
  deferred : List Deferred
  early : List Deferred
  later : List (Nat × List Deferred)
  nextDef : Nat
  evw : Option (Nat × Word)
  qmac : Option Nat
  rels : List Rel
  fetched : List (Nat × List Byte)
  way : Nat
  trail : List DWord
  park : Park
  marker : Bool
  trap : Option TrapReq
  pfault : Option (PageFault × DWord × Nat)
  repeats : Nat
  lastArr : List (Nat × Nat)
  arrived : List Nat
  errs : List (Path × Nat × Nat × DWord)
  stepPend : Option DWord
  skipped : Bool
  noBreak : Bool
  bundle : Option Nat
  issuing : Bool
  since : Nat
  deriving DecidableEq, Repr

/-! ## Groups, teams, launches -/

/-- A group (R16, R38, R61 to R66, R241). -/
structure Group where
  idx : Nat
  role : Role
  g : Vector Word 16
  fflags : BitVec 5
  dbgctl : BitVec 3
  yielded : Bool
  retired : Bool
  deriving DecidableEq, Repr

/-- A team barrier (R214): its phase and the mask the phase's first arrival fixed, 0 for none. -/
structure Bar where
  phase : Nat
  mask : Nat
  deriving DecidableEq, Repr

/-- A conversion SMODE asked for (R111). -/
structure SmodeReq where
  mask : Nat
  toQueue : Bool
  lanes : List LaneId
  deriving DecidableEq, Repr

/-- An ordered atomic that is not performed (R356): it waits for its turn, or, its turn come, for what `sent` lists, a page fault of it or
a peer's answer. -/
structure OrderedAtom where
  id : Nat
  lane : LaneId
  instr : Instr
  srcs : List Word
  n : Option Nat
  pc : DWord
  sent : Option Bound
  deriving DecidableEq, Repr

/-- A collective handle (R218, R376): `free` holds the last status. -/
inductive Handle where
  | unused | pending (coll : Nat) | done (status : Nat) | free (status : Nat)
  deriving DecidableEq, Repr

/-- A resident team (R61 to R69, R109, R199, R212 to R217). `set` is the cluster that it was placed on first, which names its cluster set
(R216); `begun` says that it has issued its first word since it was placed (R195). -/
structure Team where
  tid : Nat
  part : Nat
  seq : Nat
  index : Nat
  cluster : Nat
  set : Nat
  groups : List Group
  macros : List Nat
  cvs : List Nat
  tiles : List Nat
  bars : List Bar
  handles : List Handle
  smode : List SmodeReq
  ordered : List OrderedAtom
  begun : Bool
  deriving DecidableEq, Repr

/-- An admitted code object (R193). -/
structure Admit where
  ctx : Nat
  code : Nat
  size : Nat
  base : Nat
  timing : Bool
  barriers : Bool
  orderedForms : Bool
  slots : List Nat
  mxaSlots : List Nat
  declared : Nat
  frames : List Nat
  releasing : Bool
  deriving DecidableEq, Repr

/-! ## Clusters -/

/-- The mode of an SRAM macro (R109). -/
inductive MacroMode where
  | cache | scratch | queue
  deriving DecidableEq, Repr

/-- One 48 KiB SRAM macro (R109 to R115, R212, R213). -/
structure Sram where
  mode : MacroMode
  owner : Option Nat
  data : Memory
  tags : Tbl Nat
  poison : List Nat
  qhead : Nat
  qcount : Nat
  prod : Option Nat
  cons : Option Nat
  deriving DecidableEq, Repr

/-- A line of the L1 (R116, R117): its line number, the presence mask of the four cores, its data. -/
structure L1Line where
  line : Nat
  mask : BitVec 4
  data : BitVec 1024
  deriving DecidableEq, Repr

/-- The operands one lane supplied to an MXA set (R87 to R91). -/
structure Operand where
  slot : Nat
  a : List Word
  b : List Word
  deriving DecidableEq, Repr

/-- A convergence register (R83 to R87): its state word, the team that holds it, the operands held per core
with the group that supplies them, and the tile and slot of the generation's first MXA. -/
structure CvReg where
  word : Word
  tid : Option Nat
  held : List (Nat × Nat × List Operand)
  form : Option (Nat × Nat)
  deriving DecidableEq, Repr

/-- An operation of the matrix engine (R205): a pass of the operands held, MXZ, MXRD into registers from `a` as the deferred
results of its lanes, or the tile transfer of MXSP and MXFL. -/
inductive MxOp where
  | pass (held : List (Nat × Nat × List Operand))
  | zero
  | read (a : Nat) (lanes : List (LaneId × Nat))
  | xfer (id : Nat)
  deriving DecidableEq, Repr

/-- An entry of the reservation table, or one that waits for a place in it (R205, R454): its team and physical tile, the
cycle in which it entered, for a firing the register's name, and for another entry the registers whose firings enter
before it. -/
structure MxEntry where
  op : MxOp
  tid : Nat
  tile : Nat
  slot : Word
  prio : Nat
  age : Nat
  cv : Option Nat
  after : List Nat
  granted : Bool
  deriving DecidableEq, Repr

/-- How the engine stores a cell (R57). -/
inductive CellForm where
  | window | extended | widened
  deriving DecidableEq, Repr

/-- A cluster (R5, R57, R109, R116, R205 to R207); `nextTest` is the first cycle in which a self-test may run. -/
structure Cluster where
  sram : Tbl Sram
  l1 : List L1Line
  cacheWays : Nat
  cv : Tbl CvReg
  cells : Tbl LA
  forms : Tbl CellForm
  tileOwner : Tbl Nat
  table : List MxEntry
  waiting : List MxEntry
  fenced : List (Fin 4)
  nextTest : Nat
  out : Bool
  lost : Bool
  deriving DecidableEq, Repr

/-! ## Memory, coherence, translation -/

/-- What one agent holds of a line (R151 to R153, R164). -/
structure Hold where
  t : Nat
  owner : Bool
  valid : Bool
  dirty : Bool
  partialLA : Option LA
  pact : Option (Fin 10)
  deriving DecidableEq, Repr

/-- A request outstanding for a line (R157 to R159): the cycle of its first attempt, the cycle its present attempt was sent in,
the cycle at which its back-off ends, and the context of the launch whose access it serves (R265). -/
structure TokReq where
  agent : Fin 10
  excl : Bool
  attempt : Nat
  failed : Bool
  persistent : Bool
  age : Nat
  sent : Nat
  retryAt : Nat
  ctx : Option Nat
  deriving DecidableEq, Repr

/-- What waits at the home of a line (R156, R164, R168, R174): a GETS or GETX of an agent with the context it serves, a GETM, or a write of
the device's own units. -/
inductive Waiting where
  | req (a : Fin 10) (excl : Bool) (ctx : Option Nat)
  | merge (a : Fin 10)
  | write (addr : Nat) (bytes : List Byte)
  deriving DecidableEq, Repr

/-- The coherence record of a line at its home (R149 to R167); `lostParts` counts the partials a fold over a poisoned home copy
discards (R175), `foldCtx` is the context of the launch whose request the fold in progress serves (R265), `waiting` holds what waits at
the home in order of arrival (R166). -/
structure Line where
  holds : Vector Hold 10
  mash : Bool
  folding : Bool
  lostParts : Nat
  foldCtx : Option Nat
  holders : List (Fin 10)
  reqs : List TokReq
  persist : List (Fin 10 × Nat × Bool)
  active : Option (Fin 10)
  acks : List (Fin 10)
  waiting : List Waiting
  deriving DecidableEq, Repr

/-- A TLB with its walk cache (R140): a core's (by device core, four a cluster), a cluster's or a die's. -/
inductive TlbPlace where
  | core (n : Nat) | cluster (n : Nat) | die (n : Nat)
  deriving DecidableEq, Repr

/-- A cached translation, of level 0, or a walk-cache entry of the table level it was read from (R140): the TLB that holds it, its context,
the page or region of 2^bits bytes, the entry read, and the end of its lease in sevenths of a nanosecond. -/
structure TlbEntry where
  n : Nat
  place : TlbPlace
  part : Nat
  ctx : Nat
  level : Nat
  page : Nat
  bits : Nat
  pte : Nat
  ends : Nat
  deriving DecidableEq, Repr

/-- A row pin's state (R127, R132). -/
inductive PinState where
  | pinned | broken (reason : Nat)
  deriving DecidableEq, Repr

/-- A row pin (R128). -/
structure Pin where
  tid : Nat
  part : Nat
  row : Nat
  state : PinState
  deriving DecidableEq, Repr

/-- A request queued at an HBM pseudo-channel (R124), with the partition and the context that it is attributed to (R265). -/
structure HbmReq where
  id : Nat
  part : Nat
  ctx : Option Nat
  dpa : Nat
  age : Nat
  expired : Bool
  deriving DecidableEq, Repr

/-- One bank of a pseudo-channel (R123 to R126, R132): open row per subarray group, refreshes owed, activation
counts, throttled rows and the side queue. -/
structure Bank where
  openRow : Tbl Nat
  owed : Nat
  acts : Tbl Nat
  hot : List Nat
  refreshes : Nat
  deriving DecidableEq, Repr

/-- A host access that waits while a persistent request is active on a line of it, an engine holds one for writing, or an earlier access of
the host to one waits (R159, R169, R174): a read, a write with its bytes, or a PTSYNC read of a width through a function (R142). -/
structure HostOp where
  addr : Nat
  n : Nat
  data : Option (List Byte)
  sync : Option (Fn × Nat)
  deriving DecidableEq, Repr

/-- The events and the interrupt of a launch that is complete (R203, R204): its record, its queue, the clusters and the dies. -/
structure Signal where
  lrec : Nat
  queue : Option Nat
  clusters : List Nat
  dies : List Nat
  deriving DecidableEq, Repr
/-- A completion record that waits to be written, for a line of the page tables or of memory which is away from its home or for a peer's
answer (R136, R168, R203): its partition, context and virtual address, the peer request it has sent, and what it raises once written. -/
structure UnitWrite where
  part : Nat
  ctx : Nat
  va : Nat
  bytes : List Byte
  sent : Option Nat
  signal : Signal
  deriving DecidableEq, Repr

/-- A capacity-tier line in its home L3 slice (R147, R371). -/
structure CapLine where
  dirty : Bool
  data : List Byte
  deriving DecidableEq, Repr

/-- A line of the host-line cache (R170). -/
structure HostLine where
  owned : Bool
  dirty : Bool
  data : List Byte
  deriving DecidableEq, Repr

/-! ## Engines -/

/-- A copy or gather in flight (R208 to R211): its descriptor words, the lane and PC that started it, the scratch lists of its team and
of the team it writes to as they were at issue (cluster x 32 + macro), the destination lines done, the peer request it waits for and the
peer lines that returned, by virtual address, and the destination line whose tokens its engine holds for writing (R174). `tile` is the tile of an MXSP (false) or MXFL (true). -/
structure Xfer where
  id : Nat
  lane : LaneId
  part : Nat
  ctx : Nat
  sup : Bool
  pc : DWord
  cluster : Nat
  core : Nat
  gather : Bool
  path : Path
  tile : Option (Nat × Bool)
  desc : List Word
  scratch : List Nat
  peerTid : Nat
  peerScratch : List Nat
  done : Nat
  repeats : Nat
  fid : Option Nat
  wait : Option Nat
  got : List (Nat × List Byte)
  gath : Option Nat
  aborted : Bool
  deriving DecidableEq, Repr

/-- Where a collective stands at this member: its contributions are not all read, the max round of isum, the elements combine and OUT and
RES are written. -/
inductive CollStage where
  | reading | maxRound | combining
  deriving DecidableEq, Repr

/-- A collective at this member (R218 to R221, R525). `got` holds each element's combined contributions and how many
they are, `mag` the same of the max round, `pkgs` the members' PKGIDs in rank order (R300), `done` the destination lines written, `gath` those
whose tokens its engine holds for writing (R173, R174), `src` the lines of BUF and RES that it reads from, by virtual address (R178), `ready` how
many members have begun, and `after` the accesses before it of the lane that issued it (R376). -/
structure Coll where
  id : Nat
  part : Nat
  tid : Nat
  handle : Nat
  lane : LaneId
  ctx : Nat
  sup : Bool
  die : Nat
  pc : DWord
  desc : Nat
  members : Nat
  rank : Nat
  pkgs : List Nat
  start : Nat
  stage : CollStage
  own : List CollPay
  got : Tbl (Nat × CollPay)
  mag : Nat × Nat
  done : Nat
  repeats : Nat
  fid : Option Nat
  gath : List Nat
  src : List (Nat × List Byte)
  ready : Nat
  after : Bound
  deriving DecidableEq, Repr

/-- A peer request in flight (R299): the time it was sent at, the PC of its word, and the scope at which its answer acquires (R180). -/
structure PeerReq where
  id : Nat
  since : Nat
  pc : DWord
  part : Nat
  lane : Option LaneId
  n : Option Nat
  dpa : Nat
  op : PeerOp
  va : Nat
  store : Bool
  acq : Option Scope
  xfer : Option Nat
  deriving DecidableEq, Repr

/-! ## Partitions -/

/-- A partition's state (R255). -/
inductive PartState where
  | inactive | active | suspending | suspended | halted | resetting
  deriving DecidableEq, Repr

/-- A ring block (R231, R268). -/
structure Ring where
  base : Nat
  tail : Nat
  head : Nat
  lost : Nat
  msix : Nat
  log2n : Nat
  en : Bool
  sndrate : Nat
  pcper : Nat
  kinds : Nat
  deriving DecidableEq, Repr

/-- A submission-queue block (R186). -/
structure Sq where
  en : Bool
  prio : Nat
  log2n : Nat
  base : Nat
  tail : Nat
  head : Nat
  err : Nat
  deriving DecidableEq, Repr

/-- An entry of the device queue (R201): the record, its context and the launch that enqueued it. -/
structure DqEntry where
  lrec : Nat
  ctx : Nat
  deriving DecidableEq, Repr

/-- An outstanding PAGE fault (R229 to R234), with the address each of its lanes met. -/
structure FaultRec where
  fid : Nat
  fault : PageFault
  pc : DWord
  lanes : List (LaneId × Nat)
  xfer : Option Nat
  coll : Option Nat
  repeats : Nat
  deriving DecidableEq, Repr

/-- A counter bank (R262 to R264, R278): its snapshot for each path, and the copies of both that it publishes at the
end of a period (R287). -/
structure CBank where
  owner : Nat
  statusGuest : Nat
  statusHyp : Nat
  ctxen : Bool
  ctx : Nat
  fixen : Bool
  tcnt : Nat
  freeze : Bool
  en : Bool
  ev : Vector Word 4
  thr : DWord
  cnt : Vector DWord 16
  snap : Vector DWord 16
  pub : Vector DWord 16
  snapOp : Vector DWord 16
  snapPub : Vector DWord 16
  deriving DecidableEq, Repr

/-- The chronometer block (R280 to R282): written and in-force formulas, hidden time, the last value returned
and the device time at which HIDE stopped it. -/
structure Chron where
  offset : Nat
  scale : Nat
  offsetF : Nat
  scaleF : Nat
  hide : Bool
  hidden : Nat
  last : Nat
  stopped : Option Nat
  deriving DecidableEq, Repr

/-- The PREEMPT block (R244); `since` is the device time of the command in progress, `checking` says that a RESUME waits for lines of the
area to come home (R167, R250). -/
structure Preempt where
  savebase : Nat
  savefr : Nat
  ctxmask : Nat
  draint : Nat
  savet : Nat
  status : Nat
  step : Nat
  since : Nat
  checking : Bool
  deriving DecidableEq, Repr

/-- A team saved by pre-emption with its lanes, macros, convergence registers, tiles and pins, and the bytes of its block in the save
area (R246 to R250); `guest` says that the area is the guest's (R251). -/
structure SavedTeam where
  guest : Bool
  team : Team
  lanes : List Lane
  srams : List Sram
  cvregs : List CvReg
  cells : List (Tbl LA)
  pins : List Pin
  block : List Byte
  deriving DecidableEq, Repr

/-- A launch in the window (R190, R195 to R203): its record as a number of 3,072 bits, its place and progress. `since` is the
time from which its next team waits to be placed, `held` says that it has waited 1 ms (R197); `restore` holds its teams that a pre-emption has saved (R246). -/
structure Launch where
  seq : Nat
  lrec : Nat
  prio : Nat
  queue : Option Nat
  cls : Nat
  waits : List Nat
  placed : Nat
  retired : Nat
  clusterCnt : Tbl Nat
  dieCnt : Tbl Nat
  doneClusters : List Nat
  doneDies : List Nat
  tstart : Nat
  nfault : Nat
  handler : Bool
  failed : Bool
  held : Bool
  since : Nat
  gphase : Nat
  cphase : Tbl Nat
  ctOnly : Bool
  restore : List SavedTeam
  deriving DecidableEq, Repr

/-- What one save area holds beside its bytes (R247, R251; log entry 43): the bytes of its launch blocks whose arrangement is the device's
own, and a guest save's launches with their teams. A hypervisor save leaves them in the window; `forced` says that it has no header (R252). -/
structure Saved where
  hyp : Bool
  forced : Bool
  tails : List (List Byte)
  launches : List Launch
  deriving DecidableEq, Repr

/-- A snapshot of one quarter's group (R278). -/
structure QSnap where
  quarter : Nat
  tid : Nat
  grp : Nat
  pc : DWord
  ready : Nat
  park : Nat
  deriving DecidableEq, Repr

/-- The snapshot registers of a partition outside its banks (R278). -/
structure Snap where
  quarters : List QSnap
  engines : List (Nat × Nat × Nat × Nat × Nat)
  hbm : Tbl Nat
  chron : Nat
  deriving DecidableEq, Repr

/-- A policy category entry (R284). -/
structure Cat where
  gran : Nat
  q : Nat
  addrp : Nat
  deriving DecidableEq, Repr

/-- Where the word or the launch stands that raised a partition fault (R232). -/
structure HaltWho where
  launch : Nat
  team : Nat
  quarter : Nat
  group : Nat
  lanes : Nat
  pc : Nat
  deriving DecidableEq, Repr

/-- A partition: its block (R254), its registers (R135, R189, R221, R223, R231, R233, R241, R244, R262, R268,
R280, R283, R294, R295, R298, R300), its queues and events, launches and faults. `recIn` holds the parts of a
queue's launch record that have come from another package, by DPA (R191). `cmdPend` is a command of the hypervisor, 1 ACTIVATE or 5 RESUME, that waits for lines it reads to come home (R167, R168); `snapNext` is the operator's snapshot that the end of the period publishes under
AGGREGATE (R287). -/
structure Part where
  triples : Nat
  colours : Nat
  saveres : Nat
  savefr : Nat
  vfp : Nat
  vfs : Nat
  share : Nat
  saveMaxH : Nat
  status : Nat
  cmdPend : Option Nat
  state : PartState
  thenInactive : Bool
  haltCause : Option (Nat × Nat)
  haltWho : Option HaltWho
  halting : Bool
  unitsLeft : List (Nat × Nat)
  ctxs : Tbl Nat
  l1ways : Nat
  lease : Nat
  dqprio : Nat
  colltmo : Nat
  tvec : DWord
  tvecMap : List (Nat × Nat)
  tvecSize : Nat
  tvecPend : Option DWord
  brk : Tbl DWord
  sqs : Tbl Sq
  rr : Nat
  dq : List DqEntry
  recIn : List (Nat × List Byte)
  window : List Launch
  nextSeq : Nat
  admitted : List Admit
  ev : Tbl Word
  fq : Ring
  heldRecs : List (BitVec 512)
  faults : List FaultRec
  nextFid : Nat
  replaystat : Bool
  stopbase : Nat
  dbgbase : Nat
  dbgsel : Nat
  pre : Preempt
  saved : List Saved
  hypStep : Nat
  hypSince : Nat
  banks : Tbl CBank
  fixno : DWord
  fixPend : Option Nat
  snapGuest : Snap
  snapHyp : Snap
  snapNext : Snap
  fixHypDone : Bool
  chron : Chron
  gtrace : Tbl Ring
  otrace : Tbl Ring
  aggFault : Tbl Nat
  aggTrace : Tbl Nat
  aggStop : Nat
  poladdr : Nat
  policy : List Cat
  polhash : BitVec 512
  energy : Nat
  energyPub : Nat
  pcrr : Tbl Nat
  pclast : Tbl Nat
  ftag : Nat
  peers : Tbl Nat
  sets : Tbl Nat
  heldWrites : List (Nat × Nat × Nat × DWord)
  snd : Tbl Nat
  deriving DecidableEq, Repr

/-! ## The device -/

/-- The registry of a signature algorithm and the hash that the device negotiates (R305). -/
inductive SpdmRegistry where
  | pciSig
  deriving DecidableEq, Repr
inductive SpdmHash where
  | shake256
  deriving DecidableEq, Repr
/-- The algorithms of R305: an extended asymmetric algorithm by registry, vendor and number; a hash and the bits of its output. -/
structure SpdmAlgorithms where
  registry : SpdmRegistry
  vendor : Nat
  algorithm : Nat
  hash : SpdmHash
  hashBits : Nat
  deriving DecidableEq, Repr

/-- What the device sends to the outside (R168, R170, R243, R286, R296, R299, R301, R305). -/
inductive Out where
  | msix (f : Fn) (vec : Nat)
  | bisnp (line : Nat) (inv : Bool)
  | cxlCache (hline : Nat) (own : Bool)
  | snoopReply (hline : Nat) (data : List Byte)
  | hostData (data : List Byte)
  | peer (port : Nat) (r : PeerReq)
  | peerReply (pkg : Nat) (data : List Byte)
  | coll (port : Nat) (members : List Nat) (r : CollReq)
  | opRecord (ring : Nat) (addr : Nat) (r : BitVec 512)
  | spdm (f : Fn) (data : List Byte)
  | spdmAlgorithms (f : Fn) (a : SpdmAlgorithms)
  | mmioData (f : Fn) (width value : Nat)
  | configData (f : Fn) (value : Nat)
  | powerOff
  | retryStatus (f : Fn)
  | powerEvent (mhz : Nat)
  | packagePower (mw : Nat)
  deriving DecidableEq, Repr

/-- Where an error strikes (R235): a soft error that is corrected, a line of memory with its structure code, a line of an L1, a scratch or
queue word, a TLB or walk-cache entry, a lane's register file or accumulator file, a cell of a tile, a convergence register. -/
inductive Upset where
  | corrected
  | line (ln structure' : Nat)
  | l1 (cluster ln : Nat)
  | scratch (cluster mac word : Nat)
  | tlb (n : Nat)
  | lane (id : LaneId) (acc : Bool)
  | tile (cluster tile : Nat)
  | conv (cluster cv : Nat)
  deriving DecidableEq, Repr

/-- What the outside does that is no instruction: an MMIO read (R294, R295), a configuration read of a function's identifiers (R293, R303),
a memory error (R235). -/
inductive Input where
  | read (f : Fn) (off width : Nat)
  | config (f : Fn)
  | upset (u : Upset)
  deriving DecidableEq, Repr

/-- The last word issued on a quarter: its team, launch and team index, and its PC (R238). -/
structure LastWord where
  tid : Nat
  seq : Nat
  index : Nat
  pc : DWord
  deriving DecidableEq, Repr

/-- A quarter frozen by a quarter stop (R243): the lanes, the group and the word that stopped it, and whether its dump is written. -/
structure Freeze where
  quarter : Nat
  dumped : Bool
  who : HaltWho
  deriving DecidableEq, Repr

/-- Where the boot sequence stands (R303); `down` after a critical temperature, until device reset (R307). -/
inductive Boot where
  | booting | ready | recovery | down
  deriving DecidableEq, Repr

/-- The pipes of a quarter (R74). -/
inductive Pipe where
  | ctl | alu | fpu | sfu | lane | mem | kacc | mxq
  deriving DecidableEq, Repr

/-- The word now issuing (R73, R79, R311): its C and S bits, whether it follows a chained word, its address and
length in bytes, the pipes that its chain has used in the present cycle, and the flags that words have raised in it, by team and group
(R40). -/
structure Latch where
  c : Bool
  s : Bool
  chained : Bool
  pc : DWord
  len : Nat
  pipes : List Pipe
  raised : List (Nat × Nat × BitVec 5)
  deriving DecidableEq, Repr

/-- The machine. `formed` holds, for each quarter, one more than the fourth of the cycle in which it last formed its bundles (R71); `period`
counts the policy periods that have ended (R286), `softErrors` the soft errors counted (R235); `firmware` is the verified image (R303);
`inputs` holds what the outside does, the first next. -/
structure State where
  lanes : List Lane
  teams : List Team
  nextTid : Nat
  clusters : Tbl Cluster
  parts : Tbl Part
  mem : Memory
  hostMem : Memory
  poison : List Nat
  lines : Tbl Line
  net : List Msg
  epochs : Tbl (Fin 16)
  hostLines : Tbl HostLine
  hostWait : List HostOp
  uaWait : List UaReq
  unitWait : List UnitWrite
  l2 : Tbl (List Nat)
  l3 : Tbl (List Nat)
  tlb : List TlbEntry
  nextTlb : Nat
  fot : Tbl (BitVec 16)
  reserved : List Nat
  fronts : Tbl Nat
  fotidx : Nat
  fotstat : Nat
  extents : Tbl Extent
  extRaw : Tbl Nat
  capLines : Tbl CapLine
  pins : List Pin
  hbmq : Tbl (List HbmReq)
  sideq : Tbl (List HbmReq)
  banks : Tbl Bank
  deficits : Tbl Nat
  agecap : Nat
  hotthr : Nat
  xfers : List Xfer
  colls : List Coll
  collIn : List CollReq
  peers : List PeerReq
  nextId : Nat
  time : Nat
  cycle : Nat
  pkgid : Nat
  flog : Ring
  slog : Ring
  msixOpen : List (Nat × Nat)
  msixPend : List (Nat × Nat)
  msixTable : Tbl Nat
  links : Tbl Bool
  lostDies : List Nat
  boot : Boot
  slotTried : Nat
  firmware : List Byte
  period : Nat
  softErrors : Nat
  plim : Nat
  clock : Nat
  thermal : List Thermal
  d3 : Bool
  power : Nat
  out : List Out
  sched : List Instr
  inputs : List Input
  free : Nat
  turn : Nat
  formed : Tbl Nat
  latch : Latch
  lastWord : Tbl LastWord
  frozen : List Freeze
  deriving DecidableEq, Repr

/-! ## Reset -/

/-- An LA as KCLR leaves it (R42, R200): V = 0 and status 0x10. -/
def LA0 : LA := { val := 0, em := true, nz := false, ni := false, pi := false, nv := false }

/-- A ring block at reset (R231, R268). -/
def ring0 (log2n : Nat) : Ring :=
  { base := 0, tail := 0, head := 0, lost := 0, msix := 0xFFFF, log2n := log2n, en := false, sndrate := 0,
    pcper := 0, kinds := 0 }
/-- A submission queue at reset (R186). -/
def sq0 : Sq := { en := false, prio := 0, log2n := 4, base := 0, tail := 0, head := 0, err := 0 }
/-- A counter bank at reset (R262, R263). -/
def bank0 : CBank :=
  { owner := 0, statusGuest := 0, statusHyp := 0, ctxen := false, ctx := 0, fixen := false, tcnt := 0,
    freeze := false, en := false, ev := Vector.replicate 4 0, thr := 0, cnt := Vector.replicate 16 0,
    snap := Vector.replicate 16 0, pub := Vector.replicate 16 0, snapOp := Vector.replicate 16 0,
    snapPub := Vector.replicate 16 0 }
/-- A chronometer at reset (R280). -/
def chron0 : Chron :=
  { offset := 0, scale := 2 ^ 32, offsetF := 0, scaleF := 2 ^ 32, hide := false, hidden := 0, last := 0, stopped := none }
def snap0 : Snap := { quarters := [], engines := [], hbm := [], chron := 0 }
/-- The open policy (R283): every category at GROUP, quantum 0, precision BYTE. -/
def openPolicy : List Cat := List.replicate 8 { gran := 4, q := 0, addrp := 4 }

/-- A partition at reset (R12, R116, R140, R186, R189, R221, R231, R244, R254, R280). -/
def part0 : Part :=
  { triples := 0, colours := 0, saveres := 0, savefr := 0, vfp := 0, vfs := 0, share := 0, saveMaxH := 0, status := 0,
    cmdPend := none,
    state := .inactive, thenInactive := false, haltCause := none, haltWho := none, halting := false, unitsLeft := [], ctxs := [],
    l1ways := 8, lease := 2, dqprio := 7, colltmo := 100000, tvec := 0, tvecMap := [], tvecSize := 0, tvecPend := none, brk := [],
    sqs := [], rr := 0, dq := [], recIn := [], window := [], nextSeq := 1, admitted := [], ev := [], fq := ring0 4, heldRecs := [],
    faults := [], nextFid := 1, replaystat := false, stopbase := 0, dbgbase := 0, dbgsel := 0,
    pre := { savebase := 0, savefr := 0, ctxmask := 0, draint := 200, savet := 2000, status := 0, step := 0, since := 0, checking := false },
    saved := [], hypStep := 0, hypSince := 0, banks := [], fixno := 0, fixPend := none, snapGuest := snap0, snapHyp := snap0, snapNext := snap0,
    fixHypDone := false, chron := chron0, gtrace := [], otrace := [], aggFault := [], aggTrace := [], aggStop := 0, poladdr := 0,
    policy := openPolicy, polhash := 0, energy := 0, energyPub := 0, pcrr := [], pclast := [], ftag := 0, peers := [], sets := [], heldWrites := [], snd := [] }

/-- An SRAM macro as R110 leaves it: zero, tags none. -/
def sram0 : Sram :=
  { mode := .scratch, owner := none, data := [], tags := [], poison := [], qhead := 0, qcount := 0, prod := none,
    cons := none }
/-- A convergence register at reset (R83). -/
def cv0 : CvReg := { word := 0, tid := none, held := [], form := none }
/-- A cluster at reset (R110, R116). -/
def cluster0 : Cluster :=
  { sram := [], l1 := [], cacheWays := 8, cv := [], cells := [], forms := [], tileOwner := [], table := [],
    waiting := [], fenced := [], nextTest := 0, out := false, lost := false }
/-- An agent that holds nothing of a line (R153, state I). -/
def hold0 : Hold := { t := 0, owner := false, valid := false, dirty := false, partialLA := none, pact := none }
/-- A line at reset (R151): the home, agent 8, holds all 16 tokens with valid data. -/
def line0 : Line :=
  { holds := (Vector.replicate 10 hold0).set 8 { hold0 with t := 16, owner := true, valid := true },
    mash := false, folding := false, lostParts := 0, foldCtx := none, holders := [], reqs := [], persist := [], active := none, acks := [],
    waiting := [] }
def dbank0 : Bank := { openRow := [], owed := 0, acts := [], hot := [], refreshes := 0 }
def latch0 : Latch := { c := false, s := false, chained := false, pc := 0, len := 4, pipes := [], raised := [] }

/-- The machine right after device reset: every field at the value the spec gives it for reset, or at the value
that log entries 6, 9 and 10 name. -/
def State.reset : State :=
  { lanes := [], teams := [], nextTid := 0, clusters := [], parts := [], mem := [], hostMem := [], poison := [],
    lines := [], net := [], epochs := [], hostLines := [], hostWait := [], uaWait := [], unitWait := [], l2 := [], l3 := [], tlb := [], nextTlb := 0, fot := [], reserved := [], fronts := [],
    fotidx := 0, fotstat := 0, extents := [], extRaw := [], capLines := [], pins := [], hbmq := [], sideq := [], banks := [],
    deficits := [], agecap := 4096, hotthr := 4096, xfers := [], colls := [], collIn := [], peers := [], nextId := 0, time := 0,
    cycle := 0, pkgid := 0, flog := ring0 4, slog := ring0 4, msixOpen := [], msixPend := [], msixTable := [], links := [],
    lostDies := [], boot := .booting, slotTried := 0, firmware := [], period := 0, softErrors := 0, plim := 2600, clock := 700,
    thermal := [], d3 := false, power := 0, out := [], sched := [], inputs := [], free := 0, turn := 0, formed := [], latch := latch0, lastWord := [],
    frozen := [] }

end Sys2Proof.Machine
end

