-- ==== Sys2Proof/Machine/Numbers.lean ====
section
/-! DEFINITION. Numbers and formats (R21 to R37, R50 to R55): decoding an element, rounding an exact real once,
exact sums and products of decoded numbers. -/
namespace Sys2Proof.Machine
open Sys2Proof

/-- A decoded number: a NaN (signalling or not), an infinity, a zero, or the exact real (-1)^n * m * 2^e with
m > 0 (R22, R23). -/
inductive Num where
  | nan (sig : Bool)
  | inf (n : Bool)
  | zero (n : Bool)
  | fin (n : Bool) (m : Nat) (e : Int)
  deriving DecidableEq, Repr

/-- What a format does with its top exponent (R21, R23). -/
inductive Special where
  | ieee | e4m3 | e2m1
  deriving DecidableEq, Repr

/-- A floating-point format (R21): mantissa width, exponent width, bias. -/
structure Fmt where
  w : Nat
  eb : Nat
  bias : Int
  special : Special
  deriving DecidableEq, Repr

def fmtF32 : Fmt := { w := 23, eb := 8, bias := 127, special := .ieee }
def fmtF16 : Fmt := { w := 10, eb := 5, bias := 15, special := .ieee }
def fmtBf16 : Fmt := { w := 7, eb := 8, bias := 127, special := .ieee }
def fmtE4m3 : Fmt := { w := 3, eb := 4, bias := 7, special := .e4m3 }
def fmtE5m2 : Fmt := { w := 2, eb := 5, bias := 15, special := .ieee }
def fmtE2m1 : Fmt := { w := 1, eb := 2, bias := 1, special := .e2m1 }

/-- The format an fs code names (R51). -/
def fsFmt : Fs → Fmt
  | .f32 => fmtF32 | .bf16 => fmtBf16 | .f16 => fmtF16 | .e4m3 => fmtE4m3 | .e5m2 => fmtE5m2 | .e2m1 => fmtE2m1

/-- The width of an element in bits. -/
def Fmt.width (f : Fmt) : Nat := 1 + f.eb + f.w
/-- The magnitude code of infinity, or of the first code past the largest for a format without infinity. -/
def Fmt.infCode (f : Fmt) : Nat := (2 ^ f.eb - 1) * 2 ^ f.w
/-- The magnitude code of the largest finite value (R21). -/
def Fmt.maxCode (f : Fmt) : Nat :=
  match f.special with
  | .ieee => f.infCode - 1
  | .e4m3 => 0x7E
  | .e2m1 => 7
/-- The canonical NaN (R27); E2M1 has none and takes +0 (R37). -/
def Fmt.nan (f : Fmt) : Nat :=
  match f.special with
  | .ieee => f.infCode + 2 ^ (f.w - 1)
  | .e4m3 => 0x7F
  | .e2m1 => 0
/-- The sign bit's weight. -/
def Fmt.signBit (f : Fmt) : Nat := 2 ^ (f.eb + f.w)
def Fmt.signed (f : Fmt) (n : Bool) (code : Nat) : Nat := if n then f.signBit + code else code
/-- The exponent of the smallest normal value (R22). -/
def Fmt.emin (f : Fmt) : Int := 1 - f.bias

/-- Decode an element (R22, R23). -/
def Fmt.decode (f : Fmt) (bits : Nat) : Num :=
  let n := bits / f.signBit % 2 == 1
  let code := bits % f.signBit
  let e := code / 2 ^ f.w
  let m := code % 2 ^ f.w
  let nanOrInf : Bool :=
    match f.special with
    | .ieee => e == 2 ^ f.eb - 1
    | .e4m3 => code == 0x7F
    | .e2m1 => false
  if nanOrInf then
    if m = 0 then .inf n
    else .nan (f.special == .ieee && m / 2 ^ (f.w - 1) % 2 == 0)
  else if e = 0 then
    if m = 0 then .zero n else .fin n m (f.emin - f.w)
  else .fin n (2 ^ f.w + m) (e - f.bias - f.w)

/-! The flags of %fflags (R38). -/
abbrev Flags := BitVec 5
def flagNX : Flags := 1
def flagUF : Flags := 2
def flagOF : Flags := 4
def flagDZ : Flags := 8
def flagNV : Flags := 16

/-- Does rounding away from zero apply, for a sign, an even/odd quotient, and the discarded part compared with one
half (R33)? -/
def roundsUp (rm : Rm) (n odd : Bool) (half : Ordering) (inexact : Bool) : Bool :=
  match rm with
  | .rne => half == .gt || (half == .eq && odd)
  | .rz => false
  | .ru => inexact && !n
  | .rd => inexact && n

/-- Round m * 2^e (with a sticky bit below it) to a multiple of 2^q: the quotient and whether it is inexact. -/
def roundTo (rm : Rm) (n : Bool) (m : Nat) (e : Int) (sticky : Bool) (q : Int) : Nat × Bool :=
  if q ≤ e then (m * 2 ^ (e - q).toNat, sticky)
  else
    let d := 2 ^ (q - e).toNat
    let r := 2 * (m % d) + (if sticky then 1 else 0)
    let half : Ordering := if r < d then .lt else if r = d then .eq else .gt
    let inexact := r != 0
    let quo := m / d
    (if roundsUp rm n (quo % 2 == 1) half inexact then quo + 1 else quo, inexact)

/-- A magnitude that overflows, by the format and the mode (R37). -/
def Fmt.overflow (f : Fmt) (rm : Rm) (sat n : Bool) : Nat × Flags :=
  let towardZero : Bool :=
    match rm with
    | .rne => false
    | .rz => true
    | .ru => n
    | .rd => !n
  let code :=
    if towardZero then f.maxCode
    else
      match f.special with
      | .ieee => f.infCode
      | .e4m3 => if sat then f.maxCode else f.nan
      | .e2m1 => f.maxCode
  let bits := if f.special == .e4m3 && !towardZero && !sat then code else f.signed n code
  (bits, flagOF ||| flagNX)

/-- Round a non-zero exact real once into a format (R22, R33, R37, R38). -/
def Fmt.roundFin (f : Fmt) (rm : Rm) (sat n : Bool) (m : Nat) (e : Int) (sticky : Bool) : Nat × Flags :=
  let top : Int := (Nat.log2 m : Int) + e
  let ex := max top f.emin
  let r := roundTo rm n m e sticky (ex - f.w)
  let code := (ex - f.emin).toNat * 2 ^ f.w + r.1
  if f.maxCode < code then f.overflow rm sat n
  else
    let tiny : Bool :=
      decide (top < f.emin) &&
        (decide (top < f.emin - 1) || decide ((roundTo rm n m e sticky (top - f.w)).1 < 2 ^ (f.w + 1)))
    let fl : Flags := if r.2 then (if tiny then flagUF ||| flagNX else flagNX) else 0
    (f.signed n code, fl)

/-- Round a number into a format, specials by R37. -/
def Fmt.round (f : Fmt) (rm : Rm) (sat : Bool) : Num → Nat × Flags
  | .nan sig => (f.nan, if sig || f.special == .e2m1 then flagNV else 0)
  | .inf n =>
    match f.special with
    | .ieee => (f.signed n f.infCode, 0)
    | .e4m3 => (f.nan, flagNV)
    | .e2m1 => (f.signed n f.maxCode, flagOF ||| flagNX)
  | .zero n => (f.signed n 0, 0)
  | .fin n m e => f.roundFin rm sat n m e false

/-! Exact arithmetic on numbers. -/

def Num.isNan : Num → Bool
  | .nan _ => true
  | _ => false
def Num.isSig : Num → Bool
  | .nan s => s
  | _ => false
def Num.sign : Num → Bool
  | .nan _ => false
  | .inf n => n
  | .zero n => n
  | .fin n _ _ => n
def Num.neg : Num → Num
  | .nan s => .nan s
  | .inf n => .inf !n
  | .zero n => .zero !n
  | .fin n m e => .fin (!n) m e

/-- The integer i times 2^e as a number, a zero taking the given sign. -/
def Num.ofInt (i e : Int) (zeroSign : Bool) : Num :=
  if i = 0 then .zero zeroSign else .fin (decide (i < 0)) i.natAbs e

/-- The signed integer (-1)^n * m. -/
def sgn (n : Bool) (m : Nat) : Int := if n then -(m : Int) else m

/-- m * 2^(e - e0) for e0 ≤ e. -/
def scaleTo (i : Int) (e e0 : Int) : Int := i * 2 ^ (e - e0).toNat

/-- The exact sum of two numbers and NV when it is invalid (R35). -/
def Num.add (rm : Rm) (a b : Num) : Num × Flags :=
  let nv : Flags := if a.isSig || b.isSig then flagNV else 0
  match a, b with
  | .nan _, _ => (.nan false, nv)
  | _, .nan _ => (.nan false, nv)
  | .inf x, .inf y => if x == y then (.inf x, 0) else (.nan false, flagNV)
  | .inf x, _ => (.inf x, 0)
  | _, .inf y => (.inf y, 0)
  | .zero x, .zero y => (.zero (if x == y then x else rm == .rd), 0)
  | .zero _, y => (y, 0)
  | x, .zero _ => (x, 0)
  | .fin n1 m1 e1, .fin n2 m2 e2 =>
    let e := min e1 e2
    (Num.ofInt (scaleTo (sgn n1 m1) e1 e + scaleTo (sgn n2 m2) e2 e) e (rm == .rd), 0)

/-- The exact product of two numbers and NV when it is invalid (R35, R47). -/
def Num.mul (a b : Num) : Num × Flags :=
  let nv : Flags := if a.isSig || b.isSig then flagNV else 0
  let n := a.sign != b.sign
  match a, b with
  | .nan _, _ => (.nan false, nv)
  | _, .nan _ => (.nan false, nv)
  | .inf _, .zero _ => (.nan false, flagNV)
  | .zero _, .inf _ => (.nan false, flagNV)
  | .inf _, _ => (.inf n, 0)
  | _, .inf _ => (.inf n, 0)
  | .zero _, _ => (.zero n, 0)
  | _, .zero _ => (.zero n, 0)
  | .fin _ m1 e1, .fin _ m2 e2 => (.fin n (m1 * m2) (e1 + e2), 0)

/-- A number times 2^s. -/
def Num.scale (x : Num) (s : Int) : Num :=
  match x with
  | .fin n m e => .fin n m (e + s)
  | .nan g => .nan g
  | .inf n => .inf n
  | .zero n => .zero n

/-- An element scaled by an E8M0 scale (R24, R28). -/
def Num.mxScale (x : Num) (scale : Nat) : Num := if scale = 255 then .nan false else x.scale (scale - 127)

/-- A signed integer of w bits. -/
def signedOf (w bits : Nat) : Int := (BitVec.ofNat w bits).toInt

/-- Order of two numbers that are not NaN: -0 below +0 only where `zeros` says so. -/
def Num.cmp (a b : Num) : Ordering :=
  match a, b with
  | .inf x, .inf y => if x == y then .eq else if x then .lt else .gt
  | .inf x, _ => if x then .lt else .gt
  | _, .inf y => if y then .gt else .lt
  | x, y =>
    let v : Num → Int × Int := fun z =>
      match z with
      | .fin n m e => (sgn n m, e)
      | _ => (0, 0)
    let a := v x
    let b := v y
    let e := min a.2 b.2
    compare (scaleTo a.1 a.2 e) (scaleTo b.1 b.2 e)

/-- minimumNumber or maximumNumber of two numbers (R36): the chosen number. -/
def Num.minMax (isMax : Bool) (a b : Num) : Num :=
  match a, b with
  | .nan _, .nan _ => .nan false
  | .nan _, y => y
  | x, .nan _ => x
  | x, y =>
    match Num.cmp x y with
    | .lt => if isMax then y else x
    | .gt => if isMax then x else y
    | .eq => if isMax then (if x.sign then y else x) else (if x.sign then x else y)

/-! Slots (R53, R54). -/

def slotA (w : Word) : Nat := fld w.toNat 0 4
def slotB (w : Word) : Nat := fld w.toNat 4 4
def slotOut (w : Word) : Nat := fld w.toNat 8 4
def slotMx (w : Word) : Bool := fld w.toNat 12 1 == 1
def slotPlanes (w : Word) : Nat := fld w.toNat 13 4
def slotSat (w : Word) : Bool := fld w.toNat 17 1 == 1
def slotCt (w : Word) : Bool := fld w.toNat 18 1 == 1
def slotRm (w : Word) : Rm := Rm.ofCode (fld w.toNat 19 2)

/-- The floating format of a slot code (R54), if it names one. -/
def slotFmt : Nat → Option Fmt
  | 0 => some fmtF32 | 1 => some fmtBf16 | 2 => some fmtF16 | 3 => some fmtE4m3 | 4 => some fmtE5m2
  | 5 => some fmtE2m1 | _ => none

/-- The combinations of fields a matrix instruction's slot may hold (R55). -/
def slotLegal (w : Word) : Bool :=
  let a := slotA w
  let b := slotB w
  let fp := slotOut w ≤ 2
  if a = 1 ∨ a = 2 then (b == 1 || b == 2) && !slotMx w && slotPlanes w == 0 && fp
  else if a = 3 ∨ a = 4 then (b == 3 || b == 4) && slotPlanes w == 0 && fp
  else if a = 5 then b == 5 && slotPlanes w == 0 && fp
  else if a = 0 then b == 0 && !slotMx w && slotPlanes w == 0 && fp
  else if a = 6 then
    b == 6 && (slotPlanes w == 0 || (2 ≤ slotPlanes w && slotPlanes w ≤ 8)) && (fp || (slotOut w == 8 && !slotMx w))
  else false

end Sys2Proof.Machine
end

