-- ==== Sys2Proof/Machine/LongAcc.lean ====
section
/-! DEFINITION. The long accumulator (R41 to R52): exact addition, merging, the spill image, rounding. -/
namespace Sys2Proof.Machine
open Sys2Proof

/-- The status byte (R46). -/
def laStatus (a : LA) : Nat :=
  (if a.em then 16 else 0) + (if a.nz then 8 else 0) + (if a.ni then 4 else 0) + (if a.pi then 2 else 0) +
    (if a.nv then 1 else 0)

/-- la_add (R47): add one addend. -/
def laAdd (a : LA) (x : Num) : LA :=
  let a := { a with em := false }
  let b : LA :=
    match x with
    | .nan _ => { a with nv := true }
    | .inf false => { a with pi := true }
    | .inf true => { a with ni := true }
    | .zero n => if n then a else { a with nz := true }
    | .fin n m e => { a with nz := true, val := a.val + BitVec.ofInt 640 (sgn n m * 2 ^ (e + 298).toNat) }
  { b with nv := b.nv || (b.pi && b.ni) }

/-- la_product (R47) of two numbers already scaled. -/
def laProduct (a b : Num) : Num := (Num.mul a b).1

/-- la_merge (R48). -/
def laMerge (d s : LA) (neg : Bool) : LA :=
  let pi := d.pi || (if neg then s.ni else s.pi)
  let ni := d.ni || (if neg then s.pi else s.ni)
  { val := if neg then d.val - s.val else d.val + s.val
    em := d.em && s.em
    nz := d.nz || (if neg then !s.em else s.nz)
    ni := ni
    pi := pi
    nv := d.nv || s.nv || (pi && ni) }

/-- The canonical 96-byte image as a number of 768 bits (R44, R45). -/
def laImage (a : LA) : Nat := a.val.toNat + laStatus a * 2 ^ 720

/-- The signed carries c0 to c9 of an image, each with its weight 2^(64(i+1)) (R43, R45). -/
def carrySum (img : Nat) : Nat → Int
  | 0 => 0
  | i + 1 => carrySum img i + signedOf 8 (fld img (640 + 8 * i) 8) * 2 ^ (64 * (i + 1))

/-- The LA an image stands for (R43, R45): its value from segments and carries, its status bits as stored. -/
def laOfImage (img : Nat) : LA :=
  { val := BitVec.ofNat 640 (fld img 0 640) + BitVec.ofInt 640 (carrySum img 10)
    em := fld img 724 1 == 1
    nz := fld img 723 1 == 1
    ni := fld img 722 1 == 1
    pi := fld img 721 1 == 1
    nv := fld img 720 1 == 1 }

/-- round_la (R50). -/
def roundLa (a : LA) (f : Fmt) (rm : Rm) (sat : Bool) : Nat × Flags :=
  if a.nv || (a.pi && a.ni) then (f.nan, flagNV)
  else if a.pi then f.round rm sat (.inf false)
  else if a.ni then f.round rm sat (.inf true)
  else if a.val = 0 then
    if a.em then (0, 0)
    else if !a.nz then (f.signBit, 0)
    else if rm == .rd then (f.signBit, 0)
    else (0, 0)
  else f.roundFin rm sat (decide (a.val.toInt < 0)) a.val.toInt.natAbs (-298) false

/-- An exact real rounded to an integer (R33), with whether it is inexact. -/
def roundInt (rm : Rm) (n : Bool) (m : Nat) (e : Int) : Int × Bool :=
  let r := roundTo rm n m e false 0
  (sgn n r.1, r.2)

/-- The int32 conversion of a matrix cell (R55). -/
def laToInt32 (a : LA) (rm : Rm) : Nat × Flags :=
  if a.nv || (a.pi && a.ni) then (0, flagNV)
  else if a.pi then (0x7FFFFFFF, flagNV)
  else if a.ni then (0x80000000, flagNV)
  else if a.val = 0 then (0, 0)
  else
    let r := roundInt rm (decide (a.val.toInt < 0)) a.val.toInt.natAbs (-298)
    if r.1 > 0x7FFFFFFF then (0x7FFFFFFF, flagOF ||| flagNX)
    else if r.1 < -0x80000000 then (0x80000000, flagOF ||| flagNX)
    else ((BitVec.ofInt 32 r.1).toNat, if r.2 then flagNX else 0)

end Sys2Proof.Machine
end

