-- ==== Sys2Proof/Machine/Memory.lean ====
section
/-! DEFINITION. Tables and byte memory: reads, writes that keep the canonical form, and multi-byte values in
little-endian order (R10). -/
namespace Sys2Proof.Machine
open Sys2Proof

/-! ## Tables -/

/-- The entry of a key; the default `d` where the table lists none. -/
def tget {α : Type} (d : α) (k : Nat) : Tbl α → α
  | [] => d
  | (k', x) :: r => if k = k' then x else tget d k r

/-- Set the entry of a key, keys kept rising. -/
def tset {α : Type} (k : Nat) (x : α) : Tbl α → Tbl α
  | [] => [(k, x)]
  | (k', y) :: r => if k < k' then (k, x) :: (k', y) :: r else if k = k' then (k, x) :: r else (k', y) :: tset k x r

/-- Remove a key. -/
def tdel {α : Type} (k : Nat) (t : Tbl α) : Tbl α := t.filter fun e => e.1 != k

/-- Change the entry of a key. -/
def tmod {α : Type} (d : α) (k : Nat) (f : α → α) (t : Tbl α) : Tbl α := tset k (f (tget d k t)) t

/-! ## Memory -/

/-- What an address that memory does not list reads as (log entry 6 for host and capacity memory; R303 for HBM). -/
def memDefault : Byte := 0

/-- Read one byte. -/
def readByte (m : Memory) (a : Nat) : Byte :=
  match m with
  | [] => memDefault
  | (a', b) :: r => if a = a' then b else readByte r a

/-- Write one byte; writing the default removes the entry. -/
def writeByte (m : Memory) (a : Nat) (b : Byte) : Memory :=
  match m with
  | [] => if b = memDefault then [] else [(a, b)]
  | (a', b') :: r =>
    if a < a' then (if b = memDefault then (a', b') :: r else (a, b) :: (a', b') :: r)
    else if a = a' then (if b = memDefault then r else (a, b) :: r)
    else (a', b') :: writeByte r a b

/-- The canonical form: every address is above `lo`, addresses rise, no entry is the default. -/
def Memory.wfFrom (lo : Nat) : Memory → Bool
  | [] => true
  | (a, b) :: r => decide (lo ≤ a) && b != memDefault && Memory.wfFrom (a + 1) r

/-- The canonical form of a memory. -/
def Memory.wf (m : Memory) : Bool := Memory.wfFrom 0 m

/-- Read n bytes from address a upward. -/
def readBytes (m : Memory) (a : Nat) : Nat → List Byte
  | 0 => []
  | n + 1 => readByte m a :: readBytes m (a + 1) n

/-- Write bytes from address a upward. -/
def writeBytes (m : Memory) (a : Nat) : List Byte → Memory
  | [] => m
  | b :: r => writeBytes (writeByte m a b) (a + 1) r

/-- The number whose little-endian bytes these are (R10). -/
def leNat : List Byte → Nat
  | [] => 0
  | b :: r => b.toNat + 256 * leNat r

/-- The n little-endian bytes of a number (R10). -/
def leBytes (x : Nat) : Nat → List Byte
  | 0 => []
  | n + 1 => BitVec.ofNat 8 x :: leBytes (x / 256) n

/-- Read an n-byte number. -/
def readNat (m : Memory) (a n : Nat) : Nat := leNat (readBytes m a n)
/-- Write an n-byte number. -/
def writeNat (m : Memory) (a x n : Nat) : Memory := writeBytes m a (leBytes x n)

/-- n zero bytes. -/
def zeros (n : Nat) : List Byte := List.replicate n 0

/-- The words of a byte list, four bytes each. -/
def wordsOf : List Byte → List Word
  | b0 :: b1 :: b2 :: b3 :: r => BitVec.ofNat 32 (leNat [b0, b1, b2, b3]) :: wordsOf r
  | _ => []

end Sys2Proof.Machine
end

