-- ==== Sys2Proof/Machine/Ops.lean ====
section
/-! DEFINITION. The named operations over the state: registers, lanes, tables of state, counters, chronometer,
frames, lines at their home, records and rings, taking a trap and returning from one, partition faults. -/
namespace Sys2Proof.Machine
open Sys2Proof

/-! ## Registers of a lane (R16) -/

def Lane.getV (l : Lane) (r : VReg) : Word := l.v[r]
/-- A deferred result some of whose destinations is register r: v registers by number, k registers from 64. -/
def Deferred.names (d : Deferred) (r : Nat) : Bool := d.vdst.any (fun e => e.1 % 64 == r) || d.kdst.any (fun e => 64 + e.1 % 16 == r)
/-- Note that a word has written register r while the result is outstanding (R80). -/
def Deferred.touch (r : Nat) (d : Deferred) : Deferred := if d.names r then { d with touched := r :: d.touched } else d
def Lane.setV (l : Lane) (r : VReg) (x : Word) : Lane :=
  { l with v := l.v.set r x, deferred := l.deferred.map (Deferred.touch r.val) }
/-- v register number n, taken modulo 64. -/
def Lane.v! (l : Lane) (n : Nat) : Word := l.getV (Fin.ofNat 64 n)
def Lane.setV! (l : Lane) (n : Nat) (x : Word) : Lane := l.setV (Fin.ofNat 64 n) x
/-- A pair: v[n] low, v[n+1] high (R314). -/
def Lane.pair (l : Lane) (r : VReg) : DWord := l.v! (r.val + 1) ++ l.getV r
def Lane.setPair (l : Lane) (r : VReg) (x : DWord) : Lane :=
  (l.setV r (x.setWidth 32)).setV! (r.val + 1) ((x >>> 32).setWidth 32)
/-- n consecutive v registers from r. -/
def Lane.vs (l : Lane) (r : VReg) (n : Nat) : List Word := (List.range n).map fun j => l.v! (r.val + j)
/-- A predicate; p0 reads as true (R16). -/
def Lane.getP (l : Lane) (p : PReg) : Bool := p.val == 0 || l.p.getLsbD p.val
/-- Write a predicate; a write to p0 is discarded (R16). -/
def Lane.setP (l : Lane) (p : PReg) (b : Bool) : Lane :=
  if p.val = 0 then l
  else { l with p := if b then l.p ||| BitVec.twoPow 8 p.val else l.p &&& ~~~ BitVec.twoPow 8 p.val }
def Lane.getK (l : Lane) (k : KReg) : LA := l.k[k]
def Lane.setK (l : Lane) (k : KReg) (x : LA) : Lane :=
  { l with k := l.k.set k x, kc := l.kc.set k none, deferred := l.deferred.map (Deferred.touch (64 + k.val)) }
/-- Write a k register in a carry-save form with the given pending carries (R43). -/
def Lane.setKC (l : Lane) (k : KReg) (x : LA) (c : BitVec 80) : Lane := { l.setK k x with kc := l.kc.set k (some c) }
/-- Move the PC past an instruction of n bytes (R310). -/
def Lane.adv (l : Lane) (n : Nat) : Lane := { l with pc := l.pc + BitVec.ofNat 64 n }

/-- Bytes of an instruction: 8 for the forms of two words, 4 otherwise (R310). -/
def instrLen (i : Instr) : Nat :=
  match encodeBody i with
  | some (_, some _) => 8
  | _ => 4

/-! ## Deferred results (R78 to R80, R523) -/

/-- Write a result's registers. Of a register that a later word has written, bit r of `pick` says whether it takes the result (R80). -/
def Lane.writeBack (l : Lane) (d : Deferred) (pick : Nat) : Lane :=
  let l0 : Lane := { l with deferred := l.deferred.filter fun e => e.n != d.n }
  let takes := fun r : Nat => !d.touched.contains r || pick.testBit r
  let l1 := d.vdst.foldl (fun l e => if takes (e.1 % 64) then l.setV! e.1 e.2 else l) l0
  d.kdst.foldl (fun l e => if takes (64 + e.1 % 16) then l.setKC (Fin.ofNat 16 e.1) e.2 d.kcar else l) l1
/-- A choice in which every register takes the result. -/
def allTake : Nat := 2 ^ 80 - 1
/-- Write a result before the marker that makes it visible; it is written again there, so that a word which has read it and written the
register since leaves neither a third value (R80). A k register is written at the marker alone: a K operation before it acts on the old
contents (R432). -/
def Lane.writeEarly (l : Lane) (d : Deferred) : Lane := { l.writeBack { d with kdst := [] } allTake with early := l.early ++ [d] }
/-- The lane after a marker: the results that were written early stand (R80). -/
def Lane.landed (l : Lane) : Lane := { l.early.foldl (fun l d => l.writeBack d allTake) l with early := [] }

/-! ## Access to parts of the state -/

def State.part (s : State) (p : Nat) : Part := tget part0 p s.parts
def State.modPart (s : State) (p : Nat) (f : Part → Part) : State := { s with parts := tmod part0 p f s.parts }
def State.cluster (s : State) (c : Nat) : Cluster := tget cluster0 c s.clusters
def State.modCluster (s : State) (c : Nat) (f : Cluster → Cluster) : State :=
  { s with clusters := tmod cluster0 c f s.clusters }
def State.line (s : State) (n : Nat) : Line := tget line0 n s.lines
def State.modLine (s : State) (n : Nat) (f : Line → Line) : State := { s with lines := tmod line0 n f s.lines }
def Cluster.macro' (c : Cluster) (m : Nat) : Sram := tget sram0 m c.sram
def Cluster.modMacro (c : Cluster) (m : Nat) (f : Sram → Sram) : Cluster := { c with sram := tmod sram0 m f c.sram }

def State.team? (s : State) (tid : Nat) : Option Team := s.teams.find? fun t => t.tid == tid
def State.modTeam (s : State) (tid : Nat) (f : Team → Team) : State :=
  { s with teams := s.teams.map fun t => if t.tid = tid then f t else t }
def Team.group? (t : Team) (g : Nat) : Option Group := t.groups.find? fun x => x.idx == g
def State.group? (s : State) (id : LaneId) : Option Group := (s.team? id.tid).bind fun t => t.group? id.grp
def State.modGroup (s : State) (tid grp : Nat) (f : Group → Group) : State :=
  s.modTeam tid fun t => { t with groups := t.groups.map fun g => if g.idx = grp then f g else g }
def State.lane? (s : State) (id : LaneId) : Option Lane := s.lanes.find? fun l => l.id == id
def State.modLane (s : State) (id : LaneId) (f : Lane → Lane) : State :=
  { s with lanes := s.lanes.map fun l => if l.id = id then f l else l }
def State.setLane (s : State) (l : Lane) : State := s.modLane l.id fun _ => l
def Part.launch? (p : Part) (seq : Nat) : Option Launch := p.window.find? fun x => x.seq == seq
def State.launch? (s : State) (p seq : Nat) : Option Launch := (s.part p).launch? seq
def State.modLaunch (s : State) (p seq : Nat) (f : Launch → Launch) : State :=
  s.modPart p fun x => { x with window := x.window.map fun l => if l.seq = seq then f l else l }
/-- A fresh free value (log entry 2). -/
def State.draw (s : State) : Nat × State := (Config.freeNat s.free, { s with free := s.free + 1 })
/-- Send a message to the outside. -/
def State.emit (s : State) (o : Out) : State := { s with out := s.out ++ [o] }

/-! ## Launch records (R190) -/

def recCode (r : Nat) : Nat := fld r 0 64
def recEntry (r : Nat) : Nat := fld r 64 32
def recDmode (r : Nat) : Bool := fld r 96 1 == 1
def recCoop (r : Nat) : Bool := fld r 97 1 == 1
def recInstr (r : Nat) : Bool := fld r 98 1 == 1
def recIndep (r : Nat) : Bool := fld r 99 1 == 1
def recPrio (r : Nat) : Bool := fld r 100 1 == 1
def recNx (r : Nat) : Nat := fld r 128 16
def recNy (r : Nat) : Nat := fld r 144 16
def recNz (r : Nat) : Nat := fld r 160 16
def recNc (r : Nat) : Nat := fld r 192 8
def recNp (r : Nat) : Nat := fld r 200 8
def recVcon (r : Nat) : Nat := fld r 208 8
def recVpro (r : Nat) : Nat := fld r 216 8
def recKcon (r : Nat) : Nat := fld r 224 8
def recKpro (r : Nat) : Nat := fld r 232 8
def recNs (r : Nat) : Nat := fld r 240 8
def recNq (r : Nat) : Nat := fld r 248 8
def recNcv (r : Nat) : Nat := fld r 256 8
def recNt (r : Nat) : Nat := fld r 264 8
def recCtx (r : Nat) : Nat := fld r 272 8
def recLvl (r : Nat) : Nat := fld r 280 4
def recQmp (r : Nat) : Nat := fld r 288 32
def recQmc (r : Nat) : Nat := fld r 320 32
def recCev (r : Nat) : Nat := fld r 352 8
def recCevd (r : Nat) : Nat := fld r 360 8
def recCevc (r : Nat) : Nat := fld r 368 8
def recMsix (r : Nat) : Nat := fld r 384 16
def recSlot (r i : Nat) : Word := BitVec.ofNat 32 (fld r (512 + 32 * i) 32)
def recSeed (r : Nat) : Nat := fld r 768 64
def recCmpl (r : Nat) : Nat := fld r 832 64
def recGinit (r i : Nat) : Word := BitVec.ofNat 32 (fld r (1024 + 32 * i) 32)
/-- Range i as base and length: read ranges first, then write ranges. -/
def recRead (r i : Nat) : Nat × Nat := (fld r (1536 + 128 * i) 64, fld r (1600 + 128 * i) 64)
def recWrite (r i : Nat) : Nat × Nat := (fld r (2048 + 128 * i) 64, fld r (2112 + 128 * i) 64)
/-- Teams of the grid (R61). -/
def recTeams (r : Nat) : Nat := recNx r * recNy r * recNz r
def recGroups (r : Nat) : Nat := recNc r + recNp r

/-- The launch record of a lane's launch; all zero if the launch has left the window. -/
def State.recOf (s : State) (p seq : Nat) : Nat :=
  match s.launch? p seq with
  | some l => l.lrec
  | none => 0
/-- The context that a launch's events are attributed to (R265). -/
def State.seqCtx (s : State) (p seq : Nat) : Option Nat := (s.launch? p seq).map fun l => recCtx l.lrec % 16
def State.laneRec (s : State) (l : Lane) : Nat := s.recOf l.part l.seq
/-- A lane's translation context (R134). -/
def State.laneCtx (s : State) (l : Lane) : Nat := recCtx (s.laneRec l) % 16
/-- A lane's format slot (R53). -/
def State.laneSlot (s : State) (l : Lane) (i : Fin 8) : Word := recSlot (s.laneRec l) i.val

def Lane.die (l : Lane) : Nat := l.cluster / 48
def Lane.core (l : Lane) : Nat := l.id.grp % 4
/-- The device quarter a group of a cluster is resident in (R63). -/
def quarterOf (cluster grp : Nat) : Nat := cluster * 16 + grp % 4 * 4 + grp / 4 % 4

/-! ## The lanes of the issuing bundle (R71, R346) -/

/-- Act in every active lane, each by itself. -/
def mapActive (s : State) (f : Lane → Lane) : State :=
  { s with lanes := s.lanes.map fun l => if l.issuing then f l else l }
/-- The active lane in a lane slot: a bundle has at most one (R71). -/
def State.activeAt (s : State) (slot : Nat) : Option Lane := s.lanes.find? fun l => l.issuing && l.id.slot == slot
/-- The lowest-numbered active lane. -/
def State.lead (s : State) : Option Lane := (List.range 32).findSome? s.activeAt
/-- Act lane by lane in ascending lane slot, the whole state passed along. -/
def eachActive (s : State) (f : State → Lane → State) : State :=
  (List.range 32).foldl (fun s n => match s.activeAt n with | some l => f s l | none => s) s
/-- The active lanes in ascending lane slot. -/
def State.actives (s : State) : List Lane := (List.range 32).filterMap s.activeAt

/-! ## Groups' flags (R39) -/

/-- OR flags into the %fflags of a lane's group. -/
def State.orFlags (s : State) (id : LaneId) (f : BitVec 5) : State :=
  if f = 0 then s
  else
    { s.modGroup id.tid id.grp fun g => { g with fflags := g.fflags ||| f } with
      latch := { s.latch with raised := (id.tid, id.grp, f) :: s.latch.raised } }
/-- The flags that words have raised in a group in the present cycle (R40). -/
def State.raisedIn (s : State) (tid grp : Nat) : BitVec 5 :=
  s.latch.raised.foldl (fun f e => if e.1 = tid ∧ e.2.1 = grp then f ||| e.2.2 else f) 0

/-! ## Counters (R265, R267) -/

def evCycles : Nat := 0x01
def evWords : Nat := 0x02
def evBundles : Nat := 0x03
def evBundleLanes : Nat := 0x04
def evBypass : Nat := 0x05
def evMarkerPark : Nat := 0x06
def evHintMiss : Nat := 0x07
def evScrConflict : Nat := 0x08
def evScrXswz : Nat := 0x09
def evL1Hit : Nat := 0x0A
def evL1Miss : Nat := 0x0B
def evL2Hit : Nat := 0x0C
def evL2Miss : Nat := 0x0D
def evL2EvictOwn : Nat := 0x0E
def evL2Displaced : Nat := 0x0F
def evTokenRetry : Nat := 0x10
def evPersistent : Nat := 0x11
def evFold : Nat := 0x12
def evHbmHit : Nat := 0x13
def evHbmAct : Nat := 0x14
def evHotThrottle : Nat := 0x15
def evPinBreak : Nat := 0x16
def evMxPass : Nat := 0x17
def evMxWiden : Nat := 0x18
def evMxSelftest : Nat := 0x19
def evMxWait : Nat := 0x1A
def evCopyBytes : Nat := 0x1B
def evColl : Nat := 0x1C
def evPageFault : Nat := 0x1D
def evSndTaken : Nat := 0x1E
def evSndLost : Nat := 0x1F
def evMemWait : Nat := 0x20

/-- The event code counter i selects (R263). -/
def CBank.code (b : CBank) (i : Fin 16) : Nat := fld (b.ev[i.val / 4]!).toNat (8 * (i.val % 4)) 8

/-- Add n occurrences of an event in context ctx to one bank (R265); `fine` says that the policy honours a hypervisor
bank's CTX filter (R287). -/
def CBank.add (b : CBank) (fine : Bool) (ctx : Option Nat) (ev n : Nat) : CBank :=
  if b.en && !b.freeze && (!b.ctxen || (b.owner == 2 && !fine) || ctx == some b.ctx) then
    { b with cnt := Vector.ofFn fun i : Fin 16 =>
        if b.code i = ev then b.cnt[i] + BitVec.ofNat 64 n else b.cnt[i] }
  else b

/-- Did counter TCNT cross its threshold (R265)? -/
def CBank.crosses (b b' : CBank) : Bool :=
  b.fixen && decide ((b.cnt[b.tcnt % 16]!).toNat < b.thr.toNat) && decide (b.thr.toNat ≤ (b'.cnt[b.tcnt % 16]!).toNat)

/-- Trigger a fix (R276); triggers before the latch edge join it (R277), and it keeps the source of the first: the spec does not say which
source a joined fix reports (DESIGN CHOICE, log entry 57). -/
def Part.trigger (p : Part) (src : Nat) : Part :=
  match p.fixPend with
  | none => { p with fixPend := some src }
  | some _ => p

/-- Count an event attributed to partition p and context ctx (R265). -/
def Part.count (x : Part) (ctx : Option Nat) (ev n : Nat) : Part :=
  let fine := decide (2 ≤ ((x.policy[0]?).elim 4 (·.gran)))
  let bs := x.banks.map fun e => (e.1, e.2.add fine ctx ev n)
  let x' := { x with banks := bs }
  if x.banks.any (fun e => e.2.crosses (e.2.add fine ctx ev n)) then x'.trigger 1 else x'
def State.count (s : State) (p : Nat) (ctx : Option Nat) (ev n : Nat) : State :=
  if (s.part p).banks.isEmpty then s else s.modPart p fun x => x.count ctx ev n
/-- Count an event caused by a lane's word. -/
def State.countLane (s : State) (l : Lane) (ev n : Nat) : State := s.count l.part (some (s.laneCtx l)) ev n

/-! ## The chronometer (R279 to R282) -/

/-- The value of the formula in force at a device time. -/
def Chron.at (c : Chron) (time : Nat) : Nat :=
  let t : Int := (c.stopped.getD time : Int) - (BitVec.ofNat 64 c.offsetF).toInt
  (t * c.scaleF / 2 ^ 32 % 2 ^ 64).toNat
/-- What a read returns: never below the last value returned (R281). -/
def Chron.now (c : Chron) (time : Nat) : Nat := max (c.at time) c.last
def State.chron (s : State) (p : Nat) : Nat := (s.part p).chron.now s.time
/-- A read, which records the value returned. -/
def State.readChron (s : State) (p : Nat) : Nat × State :=
  let v := s.chron p
  (v, s.modPart p fun x => { x with chron := { x.chron with last := v } })

/-! ## Frames (R143 to R145, R193) -/

/-- Device memory behind the HBM controllers (R122). -/
def inHbm (a : Nat) : Bool := a < 2 ^ 39
/-- The capacity-tier aperture (R122). -/
def inCap (a : Nat) : Bool := 2 ^ 44 ≤ a && a < 2 ^ 45
/-- The range of peer packages (R122). -/
def inPeer (a : Nat) : Bool := 2 ^ 50 ≤ a && a < 2 ^ 51
def State.fotOf (s : State) (frame : Nat) : BitVec 16 := tget 0 frame s.fot
def fotOwner (e : BitVec 16) : Nat := fld e.toNat 10 6
def fotState (e : BitVec 16) : Nat := fld e.toNat 8 2
def fotThenFree (e : BitVec 16) : Bool := fld e.toNat 7 1 == 1
/-- The 512-line scrub front of a frame. -/
def State.frontOf (s : State) (frame : Nat) : Nat := tget 0 frame s.fronts

/-- How the table answers an access (R144, R145). -/
inductive Own where
  | performed | zeroQuiet | refused
  deriving DecidableEq, Repr

/-- The check of an access by partition p to the HBM address a (R144, R145); no partition has a frame that firmware reserves (R143). A write at or beyond the front waits
for the front; the model lets the front pass first (log entry 14). -/
def State.ownCheck (s : State) (p a : Nat) (write : Bool) : Own :=
  let frame := a / 65536
  let e := s.fotOf frame
  if s.reserved.contains frame then .refused
  else match fotState e with
  | 1 => if fotOwner e = p then .performed else .refused
  | 3 => if write then .refused else .performed
  | 2 =>
    if fotOwner e = p && !fotThenFree e then
      (if write || a / 128 % 512 < s.frontOf frame then .performed else .zeroQuiet)
    else .refused
  | _ => .refused
/-- Is an HBM address in a frame that is OWNED by a partition, and not one that firmware reserves (R143)? -/
def State.owned (s : State) (p a : Nat) : Bool :=
  inHbm a && !s.reserved.contains (a / 65536) && fotState (s.fotOf (a / 65536)) == 1 && fotOwner (s.fotOf (a / 65536)) == p
/-- The admitted object of a partition that a frame, or a page outside HBM, is part of (R100, R193). -/
def State.codeAt (s : State) (p key : Nat) : Option Nat := ((s.part p).admitted.find? fun o => o.frames.contains key).map fun o => o.code
/-- The same for an HBM address. -/
def State.codeFrame (s : State) (p a : Nat) : Option Nat := s.codeAt p (a / 65536)
/-- May partition p write this address by R144 and R193? -/
def State.mayWrite (s : State) (p a : Nat) : Bool :=
  inHbm a && s.ownCheck p a true == .performed && (s.codeFrame p a).isNone

/-- Move a frame's scrub front past a line (R145): the lines it passes read zero. -/
def State.passFront (s : State) (a : Nat) : State :=
  let frame := a / 65536
  if fotState (s.fotOf frame) = 2 ∧ s.frontOf frame ≤ a / 128 % 512 then
    let lo := frame * 65536 + s.frontOf frame * 128
    { s with mem := writeBytes s.mem lo (zeros ((a / 128 + 1) * 128 - lo)),
             poison := s.poison.filter fun ln => !(decide (lo / 128 ≤ ln) && decide (ln ≤ a / 128)),
             fronts := tset frame (a / 128 % 512 + 1) s.fronts }
  else s

/-! ## Holdings and messages of the token protocol (R149 to R159) -/

/-- The home's agent number. -/
def home : Fin 10 := 8
/-- The home slice of a line (R121). -/
def l3Home (ln : Nat) : Nat := ((fld ln 0 7).xor (fld ln 7 7)).xor (fld ln 14 7)
/-- The token epoch of a line's home slice (R162). -/
def State.epochOf (s : State) (ln : Nat) : Fin 16 := tget 0 (l3Home ln) s.epochs
/-- The partition whose frame holds a line (R143, R267). -/
def State.lineOwner (s : State) (ln : Nat) : Nat := fotOwner (s.fotOf (ln / 512))
def msg0 (kind : MsgKind) (ln : Nat) (src dst : Fin 10) : Msg :=
  { kind := kind, line := ln, src := src, dst := dst, tokens := 0, owner := false, data := false, dirty := false, la := none, epoch := 0,
    age := 0, excl := false, ctx := none }
def State.post (s : State) (m : Msg) : State := { s with net := s.net ++ [{ m with epoch := s.epochOf m.line }] }
def State.hold (s : State) (ln : Nat) (a : Fin 10) : Hold := (s.line ln).holds[a]
def State.setHold (s : State) (ln : Nat) (a : Fin 10) (h : Hold) : State := s.modLine ln fun l => { l with holds := l.holds.set a h }
/-- A holding without its tokens (state I but for a partial). -/
def Hold.spent (h : Hold) : Hold := { h with t := 0, owner := false, valid := false, dirty := false }

/-- Send n of an agent's tokens to another; the owner token goes when `own`, with data and its dirty bit (R152). -/
def State.sendTok (s : State) (ln : Nat) (a b : Fin 10) (n : Nat) (own data : Bool) : State :=
  let h := s.hold ln a
  let h' : Hold := if h.t ≤ n then h.spent else { h with t := h.t - n, owner := h.owner && !own, dirty := h.dirty && !own }
  (s.setHold ln a h').post { msg0 .tok ln a b with tokens := min n h.t, owner := own, data := own || data, dirty := own && h.dirty }
/-- Send every token an agent holds (R155, R159). -/
def State.sendAllTok (s : State) (ln : Nat) (a b : Fin 10) : State :=
  let h := s.hold ln a
  if h.t = 0 ∨ a = b then s else s.sendTok ln a b h.t h.owner false
/-- Send a request to all nine other agents (R154). -/
def State.broadcast (s : State) (ln : Nat) (a : Fin 10) (excl : Bool) (ctx : Option Nat) : State :=
  ((List.finRange 10).filter (· != a)).foldl (fun s b => s.post { msg0 (if excl then .getx else .gets) ln a b with ctx := ctx }) s
/-- Has an agent what its request asks for (R157)? -/
def Hold.satisfies (h : Hold) (excl : Bool) : Bool := if excl then h.t == 16 && h.valid else decide (0 < h.t) && h.valid
/-- Begin a transient request of an agent, if it has none (R157). -/
def State.request (s : State) (ln : Nat) (a : Fin 10) (excl : Bool) (ctx : Option Nat) : State :=
  if (s.line ln).reqs.any (fun r => r.agent == a) then s
  else
    (s.modLine ln fun l =>
      { l with reqs := l.reqs ++ [{ agent := a, excl := excl, attempt := 1, failed := false, persistent := false, age := s.cycle,
                                    sent := s.cycle, retryAt := 0, ctx := ctx }] }).broadcast ln a excl ctx
/-- An agent's answer to GETS or GETX by its present holding (R155). -/
def State.answer (s : State) (ln : Nat) (o a : Fin 10) (excl : Bool) : State :=
  let h := s.hold ln o
  if o = a ∨ h.t = 0 then s
  else if excl then s.sendAllTok ln o a
  else if !h.owner then s
  else if 2 ≤ h.t then s.sendTok ln o a 1 false true
  else s.sendTok ln o a 1 true true
/-- Ask the host for the tokens its proxy holds (R168). -/
def State.snoopHost (s : State) (ln : Nat) (excl : Bool) : State :=
  if s.out.contains (.bisnp ln excl) then s else s.emit (.bisnp ln excl)

/-! ## Holdings (R151 to R153) -/

/-- The owner agent of a line (R151). -/
def Line.ownerOf (l : Line) : Option (Fin 10) := (List.finRange 10).find? fun a => l.holds[a].owner

/-- Does the agent hold a token and valid data: it may read (R151)? -/
def Line.mayRead (l : Line) (a : Fin 10) : Bool := decide (0 < l.holds[a].t) && l.holds[a].valid
/-- Does the agent hold all 16 tokens and valid data: it may write (R151)? -/
def Line.mayWrite (l : Line) (a : Fin 10) : Bool := l.holds[a].t == 16 && l.holds[a].valid

/-- Tokens the agents hold. -/
def Line.total (l : Line) : Nat := (l.holds.toList.map (·.t)).sum

/-- One agent's answer to a GETS (R155): a non-owner token with data, or its last token, to agent a. -/
def Line.grantShared (l : Line) (o a : Fin 10) : Line :=
  let h := l.holds[o]
  let g := l.holds[a]
  if 2 ≤ h.t then
    { l with holds := (l.holds.set o { h with t := h.t - 1 }).set a ({ g with t := g.t + 1, valid := true } : Hold) }
  else
    let g' : Hold := { g with t := g.t + h.t, owner := g.owner || h.owner, valid := true, dirty := g.dirty || (h.dirty && a != home) }
    { l with holds := (l.holds.set o { h with t := 0, owner := false, valid := false, dirty := false }).set a g' }

/-- All tokens to agent a (R155, GETX), those in flight counted in by the total of 16; the duty to write back goes with them, but
ends at the home. -/
def Line.grantAll (l : Line) (a : Fin 10) : Line :=
  let d := a != home && l.holds.toList.any (·.dirty)
  let all : Hold := { hold0 with t := 16, owner := true, valid := true, dirty := d, pact := l.holds[a].pact }
  { l with holds := (l.holds.map fun h => ({ hold0 with pact := h.pact, partialLA := h.partialLA } : Hold)).set a all }

/-- The receiver of a message with tokens holds them (R152). -/
def Line.land (l : Line) (m : Msg) : Line :=
  let h := l.holds[m.dst]
  let h' : Hold := { h with t := h.t + m.tokens, owner := h.owner || m.owner, valid := h.valid || m.data, dirty := m.dst != home && (h.dirty || m.dirty) }
  { l with holds := l.holds.set m.dst h' }
/-- The network without the tokens of a line: TOK and PUT are gone, a GETM keeps its request. -/
def netWithout (net : List Msg) (ln : Nat) : List Msg :=
  (net.filter fun m => !(m.line == ln && (m.kind == .tok || m.kind == .put))).map fun m =>
    if m.line = ln then { m with tokens := 0, owner := false, data := false, dirty := false } else m

/-! ## The caches of a die (R119, R120) -/

/-- The number u of a line's hash (R119). -/
def l2Hash (ln : Nat) : Nat :=
  let a := 128 * ln
  ((((fld a 22 6).xor (fld a 28 6)).xor (fld a 34 6)).xor (fld a 40 6)).xor (fld a 46 6)
/-- The L2 slice of a line (R119). -/
def l2Slice (ln : Nat) : Nat := (fld (128 * ln) 7 6 + 17 * fld (128 * ln) 16 6 + 29 * l2Hash ln) % 48
/-- The set of a line in its slice (R119): its colour in bits [9:4] (R120). -/
def l2Set (ln : Nat) : Nat := fld (128 * ln) 16 6 * 16 + (fld (128 * ln) 12 4).xor (l2Hash ln % 16)
/-- A set of the L2 of die a. -/
def l2Key (a : Fin 10) (ln : Nat) : Nat := (48 * a.val + l2Slice ln) * 1024 + l2Set ln
/-- Does an agent hold tokens or a partial of a line: its slice holds the line (R153, R165)? -/
def State.resident (s : State) (a : Fin 10) (ln : Nat) : Bool := let h := s.hold ln a; decide (0 < h.t) || h.partialLA.isSome
/-- A line leaves an L2 slice (R155, R165): PUTP with the partial, or PUT with every token. It is counted as evicted by the
partition's own fill or displaced by another's (R265, R267). -/
def State.evictL2 (s : State) (a : Fin 10) (ln p : Nat) (ctx : Option Nat) : State :=
  let h := s.hold ln a
  let s1 := match h.partialLA with
    | some x => (s.setHold ln a { h with partialLA := none }).post { msg0 .putp ln a home with la := some x }
    | none => (s.setHold ln a h.spent).post { msg0 .put ln a home with tokens := h.t, owner := h.owner, data := h.owner, dirty := h.dirty }
  let o := s.lineOwner ln
  if o = p then s1.count p ctx evL2EvictOwn 1 else s1.count o none evL2Displaced 1
/-- A line comes into its set of the L2 of agent a's die, or is used there; a seventeenth line sends out the one that was used
longest ago (R119, log entry 13). The engine agents and the home hold lines in no L2. -/
def State.l2Touch (s : State) (a : Fin 10) (ln p : Nat) (ctx : Option Nat) : State :=
  if 4 ≤ a.val then s
  else
    let k := l2Key a ln
    let rest := (tget [] k s.l2).filter fun x => x != ln && s.resident a x
    let s1 : State := { s with l2 := tset k ((ln :: rest).take 16) s.l2 }
    match (ln :: rest)[16]? with
    | some v => s1.evictL2 a v p ctx
    | none => s1

/-! ## L3 and HBM queues (R121, R123, R124) -/

/-- The pseudo-channel, bank and subarray group of an HBM address (R123). -/
def hbmPc (a : Nat) : Nat := (fld a 10 9).xor (fld a 23 9)
def hbmBank (a : Nat) : Nat := fld a 19 4
def hbmRow (a : Nat) : Nat := fld a 23 16
def hbmSag (a : Nat) : Nat := fld a 37 2
/-- A bank of the device, by pseudo-channel and bank. -/
def bankKey (pc bank : Nat) : Nat := pc * 16 + bank
/-- A set of the L3: one of the 2,048 of the line's home slice (R121; which one, log entry 13). -/
def l3Key (ln : Nat) : Nat := l3Home ln * 2048 + ln / 128 % 2048

/-- Is the row pinned and open, so that an access to it is a row hit whatever its count (R127)? -/
def State.heldRow (s : State) (a : Nat) : Bool :=
  (s.pins.any fun p => p.state == .pinned && p.row == a / 1024) &&
    tget 0 (hbmSag a) (tget dbank0 (bankKey (hbmPc a) (hbmBank a)) s.banks).openRow == a / 1024 + 1
/-- Queue a request at its controller (R124), or at the side queue of a bank in which its row is hot (R126) and not held open. -/
def State.hbmEnqueue (s : State) (p : Nat) (ctx : Option Nat) (a : Nat) : State :=
  let r : HbmReq := { id := s.nextId, part := p, ctx := ctx, dpa := a, age := s.cycle, expired := false }
  let k := bankKey (hbmPc a) (hbmBank a)
  if (tget dbank0 k s.banks).hot.contains (a / 1024) ∧ !s.heldRow a then
    { s with sideq := tmod [] k (· ++ [r]) s.sideq, nextId := s.nextId + 1 }
  else { s with hbmq := tmod [] (hbmPc a) (· ++ [r]) s.hbmq, nextId := s.nextId + 1 }

/-- The capacity-tier line that its home slice holds. -/
def State.capLine? (s : State) (ln : Nat) : Option CapLine := (s.capLines.find? fun e => e.1 == ln).map (·.2)
/-- Write a dirty capacity-tier line back to the pooled memory and keep a clean copy (R147, R371): through the first extent in use that
holds it; the spec does not say which of two that overlap (DESIGN CHOICE, log entry 57). -/
def State.capBack (s : State) (ln : Nat) : State :=
  match s.capLine? ln with
  | none => s
  | some c =>
    let s1 : State := { s with capLines := tset ln { c with dirty := false } s.capLines }
    match (s.extents.map (·.2)).find? fun e => e.state != .free && decide (2 ^ 44 + e.off ≤ 128 * ln) && decide (128 * ln < 2 ^ 44 + e.off + e.len) with
    | some e => if c.dirty then { s1 with hostMem := writeBytes s1.hostMem (e.hpa + (128 * ln - 2 ^ 44 - e.off)) (c.data.take 128) } else s1
    | none => s1
/-- A capacity-tier line leaves the L3, written back if dirty (R121, R148). -/
def State.capDrop (s : State) (ln : Nat) : State := let s1 := s.capBack ln; { s1 with capLines := tdel ln s1.capLines }

/-- A line comes to the front of its set's recency order at its home slice; the least recently used of a full set of 16 ways leaves
(R121). Answers whether it was there. -/
def State.l3Use (s : State) (ln : Nat) : State × Bool :=
  let k := l3Key ln
  let set := tget [] k s.l3
  let rest := set.filter (· != ln)
  let s1 : State := { s with l3 := tset k ((ln :: rest).take 16) s.l3 }
  (match (ln :: rest)[16]? with
   | some v => if inCap (128 * v) then s1.capDrop v else s1
   | none => s1, set.contains ln)
/-- An access reaches the home slice of an HBM line: a hit in the L3, or a request to the controller (R121, R124). -/
def State.l3Touch (s : State) (p : Nat) (ctx : Option Nat) (ln : Nat) : State :=
  let q := s.l3Use ln
  if q.2 then q.1 else q.1.hbmEnqueue p ctx (128 * ln)
/-- Tokens or a partial bring a line to an agent: to its set, if the agent is an L2 slice (R119, R165). -/
def State.l2Arrive (s : State) (a : Fin 10) (ln : Nat) : State := s.l2Touch a ln (s.lineOwner ln) none
/-- The tokens in flight for a line arrive where they were sent to (R154); those of an older epoch are gone (R162). -/
def State.landTokens (s : State) (ln : Nat) : State :=
  let fly := s.net.filter fun m => m.line == ln && m.tokens != 0
  if fly.isEmpty then s
  else
    let here := fly.filter fun m => m.epoch == s.epochOf ln
    let s1 := s.modLine ln fun l => here.foldl Line.land l
    here.foldl (fun s m => s.l2Arrive m.dst ln) { s1 with net := netWithout s1.net ln }

/-! ## A line at its home (R151, R156, R164, R166, R169) -/

/-- Every line that n bytes from a touch. -/
def linesOf (a n : Nat) : List Nat := (List.range ((a + n + 127) / 128 - a / 128)).map fun i => a / 128 + i

/-- The LA image stored at a line. -/
def State.lineLa (s : State) (ln : Nat) : LA := laOfImage (readNat s.mem (128 * ln) 96)
def State.setLineLa (s : State) (ln : Nat) (a : LA) : State :=
  { s with mem := writeBytes s.mem (128 * ln) (leBytes (laImage a) 96) }

/-- Merge the partials of the holders into the home copy (R166). -/
def foldInto (holds : Vector Hold 10) (a : LA) : LA :=
  holds.toList.foldl (fun a h => match h.partialLA with | some p => laMerge a p false | none => a) a
/-- How many partials a line has. -/
def Line.partials (l : Line) : Nat := (l.holds.toList.filter fun h => h.partialLA.isSome).length
/-- The partials of a line that are on their way home. -/
def State.flyingPartials (s : State) (ln : Nat) : List LA := (s.net.filter fun m => m.line == ln).filterMap (·.la)
/-- A line whose home has taken every token that the host proxy does not hold (R157, R169), those in flight included. -/
def Line.gathered (l : Line) : Line :=
  let h := l.holds[9]
  { l with holds := Vector.ofFn fun a : Fin 10 =>
      if a = 9 then h
      else if a = home then { hold0 with t := 16 - h.t, owner := !h.owner, valid := decide (h.t < 16), pact := l.holds[a].pact }
      else { hold0 with pact := l.holds[a].pact, partialLA := l.holds[a].partialLA } }
/-- The fold of R166, ended at once: the home copy takes every partial, those on their way included, and becomes canonical; the home
has held all 16 tokens since the line entered the merge state. A poisoned home copy discards the partials (R175): answers then how many.
The fold is the line's partition's, in the context of its own launch that caused it (R265, R267). -/
def State.foldNow (s : State) (ln : Nat) (who : Option (Nat × Option Nat)) : State × Option Nat :=
  let l := s.line ln
  if l.mash then
    let bad := s.poison.contains ln
    let fly := s.flyingPartials ln
    let s0 := if bad then s else s.setLineLa ln (fly.foldl (fun a p => laMerge a p false) (foldInto l.holds (s.lineLa ln)))
    let s1 : State :=
      { s0 with net := s0.net.filter fun m => !(m.line == ln && (m.kind == .fold || m.kind == .part || m.kind == .putp)) }
    let s2 := s1.modLine ln fun l =>
      { l with mash := false, folding := false, holders := [], lostParts := 0, foldCtx := none,
               holds := Vector.ofFn fun a : Fin 10 => { line0.holds[a] with pact := l.holds[a].pact } }
    let owner := s.lineOwner ln
    let ctx := match who with
      | some (p, c) => if p = owner then c else none
      | none => l.foldCtx
    (s2.count owner ctx evFold 1, if bad then some (l.partials + l.lostParts + fly.length) else none)
  else (s, none)

/-! ## Lines held for writing and lines away from their home (R168, R174) -/

/-- The engine agent that holds a line for writing: it has gathered the line's tokens and has yet to write it (R173, R174). -/
def State.heldBy (s : State) (ln : Nat) : Option (Fin 10) :=
  match s.xfers.find? fun x => x.gath == some ln with
  | some x => some (Fin.ofNat 10 (4 + x.cluster / 48 % 4))
  | none => (s.colls.find? fun c => c.gath.contains ln).map fun c => Fin.ofNat 10 (4 + c.die % 4)
/-- Does a write of a unit of the device wait at the home of a line (R168, R174)? -/
def Line.writeWaits (l : Line) : Bool := l.waiting.any fun w => match w with | .write _ _ => true | _ => false
/-- Must a read by one of the device's units wait: its line folds, the host has its data or is to answer an invalidation, an engine holds
it for writing, a write of a unit waits before it, or the HBM is in self-refresh (R166, R168, R174, R308)? -/
def State.away (s : State) (ln : Nat) : Bool :=
  s.d3 || (s.line ln).folding || (s.hold ln 9).owner || s.out.contains (.bisnp ln true) || (s.heldBy ln).isSome || (s.line ln).writeWaits
/-- Must a write at the home wait: the same, or the host has a copy? -/
def State.homeBusy (s : State) (ln : Nat) : Bool := s.away ln || decide (0 < (s.hold ln 9).t)
/-- The home asks the host for the tokens that it needs for a read or a write (R168). -/
def State.recallHost (s : State) (ln : Nat) (excl : Bool) : State :=
  let h := s.hold ln 9
  if (if excl then decide (0 < h.t) else h.owner) then s.snoopHost ln excl else s
/-- What cannot be served yet waits at the home; a request that waits already waits once. -/
def State.waitAt (s : State) (ln : Nat) (w : Waiting) : State :=
  s.modLine ln fun l => { l with waiting := if l.waiting.contains w then l.waiting else l.waiting ++ [w] }

/-! ## Reads and writes at the home by the device's units -/

/-- The home gathers all 16 tokens for a write of its own (R157, R166, R169), tokens in flight included; none are with the host. An active
persistent requester receives them all after the write (R159). -/
def State.homeTake (s : State) (ln : Nat) : State :=
  let s1 := (s.foldNow ln none).1
  let l := s1.line ln
  let s2 : State := { s1 with net := netWithout s1.net ln }
  let s3 := if l.gathered = l then s2 else s2.modLine ln fun l => l.gathered
  match l.holds[home].pact with
  | some b => s3.sendAllTok ln home b
  | none => s3
/-- The home obtains a line's current data (R169): if it cannot read the line, it gathers every token by a GETX of its own. -/
def State.homeObtain (s : State) (ln p : Nat) (ctx : Option Nat) : State :=
  if (s.line ln).mayRead home then s.l3Touch p ctx ln
  else
    let s1 := (s.landTokens ln).l3Touch p ctx ln
    if (s1.line ln).mayRead home then s1 else s1.modLine ln fun l => l.grantAll home
/-- A unit of the device writes bytes of one line at its home, unchecked; a scrub front passes the line first (R145). A write that fills
the line clears its poison (R175). -/
def State.putLine (s : State) (a : Nat) (bs : List Byte) : State :=
  let ln := a / 128
  let s1 := ((s.passFront (128 * ln)).l3Touch (s.lineOwner ln) none ln).homeTake ln
  { s1 with mem := writeBytes s1.mem a bs,
            poison := if a % 128 = 0 ∧ bs.length = 128 then s1.poison.filter (· != ln) else s1.poison }
/-- The same, or the write waits at the home for what it must wait for, behind the writes that wait already. -/
def State.writeLine' (s : State) (a : Nat) (bs : List Byte) : State :=
  let ln := a / 128
  if s.homeBusy ln then
    (s.recallHost ln true).modLine ln fun l => { l with waiting := l.waiting ++ [.write a bs] }
  else s.putLine a bs
/-- A write of up to k lines, line by line. -/
def State.writeLines (s : State) (a : Nat) : Nat → List Byte → State
  | 0, _ => s
  | k + 1, bs => if bs.isEmpty then s else (s.writeLine' a (bs.take (128 - a % 128))).writeLines (a + (128 - a % 128)) k (bs.drop (128 - a % 128))
/-- The device writes bytes to HBM at the home, unchecked. -/
def State.homeWrite (s : State) (a : Nat) (bs : List Byte) : State := s.writeLines a (bs.length / 128 + 2) bs
/-- The device writes bytes for partition p, dropped where R144 or R193 forbids it (R524): did it write? -/
def State.devWrite (s : State) (p a : Nat) (bs : List Byte) : State × Bool :=
  if s.mayWrite p a && s.mayWrite p (a + bs.length - 1) then (s.homeWrite a bs, true) else (s, false)
/-- A unit of the device reads n bytes of HBM at the home: none while a line of them is away, and the host is asked for what it has. -/
def State.homeRead (s : State) (a n : Nat) : State × Option (List Byte) :=
  match (linesOf a n).find? s.away with
  | some ln => (s.recallHost ln false, none)
  | none =>
    let s1 := (linesOf a n).foldl (fun s ln => ((s.foldNow ln none).1).homeObtain ln (s.lineOwner ln) none) s
    (s1, some (readBytes s1.mem a n))

/-! ## The fabric (R298) -/

/-- The scale-up port of a request to a peer DPA: always the same for one line of one package; port k lies in plane k / 6. -/
def peerPort (dpa : Nat) : Nat := Config.fabricPort (fld dpa 39 10) (dpa % 2 ^ 39 / 128) % 48
/-- Send a request to a peer package. -/
def State.sendPeer (s : State) (r : PeerReq) : State := s.emit (.peer (peerPort r.dpa) r)

/-! ## Interrupts (R296) -/

/-- Is there such a function (R293)? -/
def fnExists : Fn → Bool
  | .pf => true
  | .vf n => decide (1 ≤ n) && decide (n ≤ 128)
def fnKey : Fn → Nat
  | .pf => 0
  | .vf n => n
/-- Send a message for a vector; a masked vector becomes pending. -/
def State.msix (s : State) (f : Fn) (vec : Nat) : State :=
  if 2048 ≤ vec then s
  else if s.msixOpen.contains (fnKey f, vec) then s.emit (.msix f vec)
  else if s.msixPend.contains (fnKey f, vec) then s
  else { s with msixPend := s.msixPend ++ [(fnKey f, vec)] }
def Part.primary (p : Part) : Fn := .vf p.vfp
/-- The function that carries a submission queue (R257, R296). -/
def Part.fnOf (p : Part) (queue : Option Nat) : Fn :=
  match queue with
  | some q => if 16 ≤ q ∧ p.vfs ≠ 0 then .vf p.vfs else .vf p.vfp
  | none => .vf p.vfp

/-! ## Rings and policy (R231, R268, R286 to R289, R524) -/

def satLost (n : Nat) : Nat := min (n + 1) (2 ^ 32 - 1)
def Ring.room (r : Ring) : Bool := r.en && decide ((r.tail + 2 ^ 32 - r.head) % 2 ^ 32 < 2 ^ r.log2n)
def Ring.addr (r : Ring) : Nat := r.base + 64 * (r.tail % 2 ^ r.log2n)
def Ring.pushed (r : Ring) : Ring := { r with tail := (r.tail + 1) % 2 ^ 32 }
def Ring.dropped (r : Ring) : Ring := { r with lost := satLost r.lost }

/-- Write a record to an operator ring in host memory; answers the ring after. -/
def State.opRing (s : State) (r : Ring) (rec : BitVec 512) : State × Ring :=
  if r.room then
    ({ s with hostMem := writeBytes s.hostMem r.addr (leBytes rec.toNat 64) }, r.pushed)
  else (s, r.dropped)

def Part.cat (p : Part) (c : Nat) : Cat := (p.policy[c]?).getD { gran := 4, q := 0, addrp := 4 }
/-- Floor a number to a multiple of 2^k. -/
def floorTo (k x : Nat) : Nat := x / 2 ^ k * 2 ^ k
/-- A TIME on an operator path (R288). -/
def Part.opTime (p : Part) (c t : Nat) : Nat :=
  if (p.cat 3).gran = 0 then 0 else floorTo (max (p.cat c).q (p.cat 3).q) t
/-- An address on an operator path (R289). -/
def Part.opAddr (p : Part) (c a : Nat) : Nat :=
  match (p.cat c).addrp with
  | 0 => 0 | 1 => floorTo 30 a | 2 => floorTo 21 a | 3 => floorTo 12 a | _ => a

/-- A fault record's fields (R232). -/
structure Rec where
  kind : Nat
  reason : Nat
  repeats : Nat
  flags : Nat
  launch : Nat
  team : Nat
  quarter : Nat
  group : Nat
  lanes : Nat
  fid : Nat
  pc : Nat
  va : Nat
  paddr : Nat
  time : Nat
  detail : Nat
  deriving DecidableEq, Repr

def rec0 : Rec :=
  { kind := 0, reason := 0, repeats := 0, flags := 0, launch := 0, team := 0, quarter := 0, group := 0, lanes := 0,
    fid := 0, pc := 0, va := 0, paddr := 0, time := 0, detail := 0 }

/-- The record's 512 bits (R232). -/
def Rec.bits (r : Rec) : BitVec 512 :=
  BitVec.ofNat 512
    (r.kind % 256 + r.reason % 256 * 2 ^ 8 + r.repeats % 256 * 2 ^ 16 + r.flags % 256 * 2 ^ 24 +
      r.launch % 2 ^ 32 * 2 ^ 32 + r.team % 2 ^ 32 * 2 ^ 64 + r.quarter % 2 ^ 16 * 2 ^ 96 + r.group % 256 * 2 ^ 112 +
      r.lanes % 2 ^ 32 * 2 ^ 128 + r.fid % 2 ^ 32 * 2 ^ 160 + r.pc % 2 ^ 64 * 2 ^ 192 + r.va % 2 ^ 64 * 2 ^ 256 +
      r.paddr % 2 ^ 64 * 2 ^ 320 + r.time % 2 ^ 64 * 2 ^ 384 + r.detail % 2 ^ 64 * 2 ^ 448)

/-- The operator's copy of a fault record under the fault-detail category (R286, R288, R289). -/
def Rec.filtered (r : Rec) (p : Part) : Rec :=
  let g := (p.cat 4).gran
  let r1 := { r with time := p.opTime 4 r.time, va := p.opAddr 4 r.va, paddr := p.opAddr 4 r.paddr }
  let r2 := if g ≤ 3 then { r1 with group := 0, quarter := 0, pc := 0, lanes := 0 } else r1
  if g ≤ 2 then { r2 with team := 0 } else r2

/-- The PF's copy of a fault record (R231, R286). -/
def State.opFault (s : State) (p : Nat) (r : Rec) : State :=
  let x := s.part p
  match (x.cat 4).gran with
  | 0 => s
  | 1 => s.modPart p fun x => { x with aggFault := tmod 0 r.kind (· + 1) x.aggFault }
  | _ =>
    let w := s.opRing s.flog (r.filtered x).bits
    let s1 : State := { w.1 with flog := w.2 }
    s1.msix .pf s.flog.msix

/-- Write one record's bits into the partition's fault queue (R231, R524): tail, message and the count of its launch (R203), or a counted
drop. -/
def State.fqPush (s : State) (p : Nat) (b : BitVec 512) : State :=
  let x := s.part p
  let w := s.devWrite p x.fq.addr (leBytes b.toNat 64)
  let seq := fld b.toNat 32 32
  if w.2 then
    (w.1.modPart p fun x =>
      { x with fq := x.fq.pushed,
               window := x.window.map fun l => if l.seq = seq ∧ seq ≠ 0 then { l with nfault := l.nfault + 1 } else l }).msix x.primary x.fq.msix
  else w.1.modPart p fun x => { x with fq := x.fq.dropped }

/-- Write held PAGE records, the oldest first, while the ring has space (R231). -/
def State.flushHeld (s : State) (p : Nat) : State :=
  (s.part p).heldRecs.foldl
    (fun s b => if (s.part p).fq.room then (s.modPart p fun x => { x with heldRecs := x.heldRecs.drop 1 }).fqPush p b else s) s
/-- Deliver a fault record: the operator's copy, then the fault queue, after the PAGE records held for it; a PAGE record that finds no
space is held (R231). -/
def State.record (s : State) (p : Nat) (r : Rec) : State :=
  let q := s.readChron p
  let r := { r with time := q.1 }
  let s1 := q.2.opFault p r
  let s2 := if r.kind = 1 then s1.count p (s.seqCtx p r.launch) evPageFault 1 else s1
  let s3 := s2.flushHeld p
  if (s3.part p).fq.room then s3.fqPush p r.bits
  else if r.kind = 1 then s3.modPart p fun x => { x with heldRecs := x.heldRecs ++ [r.bits] }
  else s3.modPart p fun x => { x with fq := x.fq.dropped }

/-- A record about a lane. -/
def State.laneRecd (s : State) (l : Lane) (kind : Nat) : Rec :=
  { rec0 with kind := kind, launch := l.seq, team := (s.team? l.id.tid).elim 0 (·.index), quarter := l.quarter,
              group := l.id.grp, lanes := 2 ^ l.id.slot, pc := l.pc.toNat }

/-- Poison a line and record it (R235): structures 1 HBM, 2 L3, 3 L2. -/
def State.poisonLine (s : State) (ln : Nat) (structure' : Nat) : State :=
  let owner := fotOwner (s.fotOf (ln / 512))
  let s1 : State := if s.poison.contains ln then s else { s with poison := ln :: s.poison }
  s1.record owner { rec0 with kind := 5, paddr := 128 * ln, detail := structure' }

/-! ## What the home answers (R156, R164, R166) -/

/-- Of a fold over a poisoned home copy, the partition's record of the partials that it discarded (R175). -/
def State.foldLost (s : State) (ln : Nat) (lost : Option Nat) : State :=
  match lost with
  | some n => s.record (s.lineOwner ln) { rec0 with kind := 5, paddr := 128 * ln, detail := 1 + 256 * n }
  | none => s
/-- A fold ends at the home. -/
def State.endFold (s : State) (ln : Nat) (who : Option (Nat × Option Nat)) : State := let q := s.foldNow ln who; q.1.foldLost ln q.2
/-- Begin a fold for a request that serves a launch of a context (R166): FOLD to every holder; a line without holders folds at once. -/
def State.beginFold (s : State) (ln : Nat) (ctx : Option Nat) : State :=
  let l := s.line ln
  if l.holders.isEmpty then s.endFold ln (some (s.lineOwner ln, ctx))
  else l.holders.foldl (fun s a => s.post (msg0 .fold ln home a)) (s.modLine ln fun l => { l with folding := true, foldCtx := ctx })
/-- The home's answer to GETS and GETX (R156, R166, R168): a MASH line folds first, a host copy is asked for first, and nothing is
answered while an invalidation is outstanding at the host, or to another than the active persistent requester (R159). -/
def State.homeAnswer (s : State) (ln : Nat) (a : Fin 10) (excl : Bool) (ctx : Option Nat) : State :=
  let l := s.line ln
  if l.holds[home].pact.elim false (· != a) then s
  else if l.mash then
    if l.folding then s.waitAt ln (.req a excl ctx)
    else if l.holders.isEmpty then (s.beginFold ln ctx).answer ln home a excl
    else (s.beginFold ln ctx).waitAt ln (.req a excl ctx)
  else if s.out.contains (.bisnp ln true) then s.waitAt ln (.req a excl ctx)
  else if (if excl then decide (0 < l.holds[9].t) else l.holds[9].owner) then
    ((s.answer ln home a excl).snoopHost ln excl).waitAt ln (.req a excl ctx)
  else s.answer ln home a excl
/-- The home grants GETM (R164); the partial takes a line of the agent's slice (R165). -/
def State.grantMerge (s : State) (ln : Nat) (a : Fin 10) : State :=
  (s.modLine ln fun l =>
    { l with holders := if l.holders.contains a then l.holders else l.holders ++ [a],
             holds := l.holds.set a { l.holds[a].spent with partialLA := some ((l.holds[a].partialLA).getD LA0) } }).l2Arrive a ln
/-- Serve one GETM (R164): the home holds all 16 tokens of a line in the merge state. -/
def State.homeMerge (s : State) (ln : Nat) (a : Fin 10) : State :=
  let l := s.line ln
  if l.folding then s.waitAt ln (.merge a)
  else if l.mash then s.grantMerge ln a
  else if l.holds[home].satisfies true then (s.modLine ln fun l => { l with mash := true, holders := [] }).grantMerge ln a
  else
    let s1 := s.waitAt ln (.merge a)
    (if 0 < l.holds[9].t then s1.snoopHost ln true else s1).request ln home true none
/-- Serve what waits at the home, in order of arrival (R166), once its holding or the line's mode has changed. -/
def State.serveWaiting (s : State) (ln : Nat) : State :=
  let l := s.line ln
  if l.folding || l.waiting.isEmpty then s
  else
    l.waiting.foldl
      (fun s w => match w with
        | .req a excl ctx => s.homeAnswer ln a excl ctx
        | .merge a => s.homeMerge ln a
        | .write a bs => s.writeLine' a bs)
      (s.modLine ln fun l => { l with waiting := [] })
/-- A fold that an access of one step causes or ends: what waited for it is served (R166). Answers, over poison, how many partials were
discarded (R175). -/
def State.fold (s : State) (ln : Nat) (who : Option (Nat × Option Nat)) : State × Option Nat :=
  let l := s.line ln
  if l.mash then
    let q := s.foldNow ln who
    (if l.folding then q.1.serveWaiting ln else q.1, q.2)
  else (s, none)

/-! ## Trace (R268 to R271, R286) -/

/-- A trace record's fields (R269). -/
structure TraceRec where
  kind : Nat
  flags : Nat
  group : Nat
  quarter : Nat
  pc : Nat
  launch : Nat
  team : Nat
  time : Nat
  payload : Nat
  deriving DecidableEq, Repr

def TraceRec.bits (r : TraceRec) : BitVec 512 :=
  BitVec.ofNat 512
    (r.kind % 256 + r.flags % 256 * 2 ^ 8 + r.group % 32 * 2 ^ 47 + r.quarter % 4096 * 2 ^ 52 + r.pc % 2 ^ 64 * 2 ^ 64 +
      r.launch % 2 ^ 32 * 2 ^ 128 + r.team % 2 ^ 32 * 2 ^ 160 + r.time % 2 ^ 64 * 2 ^ 192 +
      r.payload % 2 ^ 256 * 2 ^ 256)

/-- The operator's copy: soundings follow category 2, the other kinds category 1; lane masks go with the identity
fields (R286). -/
def TraceRec.filtered (r : TraceRec) (p : Part) (c : Nat) : TraceRec :=
  let g := (p.cat c).gran
  let r1 := { r with time := p.opTime c r.time }
  let r2 := if g ≤ 3 then
      { r1 with group := 0, quarter := 0, pc := 0,
                payload := if r.kind = 1 then r.payload / 2 ^ 32 * 2 ^ 32
                           else if r.kind = 2 then fld r.payload 0 64 else r.payload }
    else r1
  if g ≤ 2 then { r2 with team := 0 } else r2

def Ring.takes (r : Ring) (kind : Nat) : Bool := fld r.kinds kind 1 == 1

/-- A trace record that is dropped; a SOUNDING counts as lost (R271, R275). -/
def State.traceLost (s : State) (p : Nat) (r : TraceRec) : State := if r.kind = 4 then s.count p (s.seqCtx p r.launch) evSndLost 1 else s
/-- The guest's copy of a trace record (R268, R271, R524). -/
def State.traceGuest (s : State) (p die : Nat) (r : TraceRec) : State :=
  let g := tget (ring0 6) die (s.part p).gtrace
  if !g.takes r.kind then s
  else
    let w := if g.room then s.devWrite p g.addr (leBytes r.bits.toNat 64) else (s, false)
    let s1 := w.1.modPart p fun x => { x with gtrace := tset die (if w.2 then g.pushed else g.dropped) x.gtrace }
    if w.2 then s1 else s1.traceLost p r
/-- The operator's copy (R268, R286). -/
def State.traceOp (s : State) (p die : Nat) (r : TraceRec) : State :=
  let x := s.part p
  let o := tget (ring0 6) die x.otrace
  let c := if r.kind = 4 then 2 else 1
  if !o.takes r.kind then s
  else
    match (x.cat c).gran with
    | 0 => s
    | 1 => s.modPart p fun x => { x with aggTrace := tmod 0 (8 * die + r.kind) (· + 1) x.aggTrace }
    | _ =>
      let w := s.opRing o (r.filtered x c).bits
      let s1 := w.1.modPart p fun x => { x with otrace := tset die w.2 x.otrace }
      if o.room then s1 else s1.traceLost p r
/-- Write a trace record to a die's streams that select it, guest (bit 0 of `sel`) and operator (bit 1), if one takes its kind (R268). -/
def State.trace (s : State) (p die : Nat) (r : TraceRec) (sel : Nat) : State :=
  let takes := fun t : Tbl Ring => (tget (ring0 6) die t).takes r.kind
  if (fld sel 0 1 = 1 && takes (s.part p).gtrace) || (fld sel 1 1 = 1 && takes (s.part p).otrace) then
    let q := s.readChron p
    let r := { r with time := q.1 }
    let s1 := if fld sel 0 1 = 1 then q.2.traceGuest p die r else q.2
    if fld sel 1 1 = 1 then s1.traceOp p die r else s1
  else s

/-- A trace record about a lane's word. -/
def State.traceLane (s : State) (l : Lane) (kind flags payload sel : Nat) : State :=
  s.trace l.part l.die
    { kind := kind, flags := flags, group := l.id.grp, quarter := l.quarter, pc := l.pc.toNat, launch := l.seq,
      team := (s.team? l.id.tid).elim 0 (·.index), time := 0, payload := payload } sel

/-! ## Events (R204) -/

def State.addEvent (s : State) (p e : Nat) (n : Word) : State :=
  s.modPart p fun x => { x with ev := tmod 0 (e % 256) (· + n) x.ev }
/-- Has event e reached target m (R204)? -/
def State.eventReached (s : State) (p e : Nat) (m : Word) : Bool :=
  decide ((tget 0 (e % 256) (s.part p).ev - m).toNat < 2 ^ 31)

/-! ## Partition faults (R237 to R239) -/

/-- The clusters of a partition, ascending (R253). -/
def Part.clusters (p : Part) : List Nat := (List.range 192).filter fun c => fld p.triples (c / 3) 1 == 1
/-- The dies on which a partition has a cluster. -/
def Part.dies (p : Part) : List Nat := (List.range 4).filter fun d => fld p.triples (16 * d) 16 != 0
/-- The units that stop at a halt, in the order of their records (R238): quarters, engines, die agents, launch
unit. -/
def Part.units (p : Part) : List (Nat × Nat) :=
  (p.clusters.flatMap fun c => (List.range 16).map fun q => (1, 16 * c + q)) ++ (p.clusters.map fun c => (2, c)) ++
    (p.dies.map fun d => (3, d)) ++ [(4, 0)]

/-- Do the units of a partition work for it (R237, R255)? -/
def State.serving (s : State) (p : Nat) : Bool :=
  ((s.part p).state == .active || (s.part p).state == .suspending) && !(s.part p).halting

/-- The bits of a stop record (R238). -/
def stopBits (pend team launch pc time skid cause unitId unit : Nat) : BitVec 512 :=
  BitVec.ofNat 512
    (unit % 256 + unitId % 2 ^ 16 * 2 ^ 8 + cause % 256 * 2 ^ 24 + skid % 2 ^ 32 * 2 ^ 32 + time % 2 ^ 64 * 2 ^ 64 + pc % 2 ^ 64 * 2 ^ 128 +
      launch % 2 ^ 32 * 2 ^ 224 + team % 2 ^ 32 * 2 ^ 256 + pend % 2 ^ 32 * 2 ^ 288)
/-- Write a stop record to the PF's ring. -/
def State.stopRing (s : State) (b : BitVec 512) : State :=
  let w := s.opRing s.slog b
  ({ w.1 with slog := w.2 } : State).msix .pf s.slog.msix

/-- Where a lane's word stands. -/
def State.laneWho (s : State) (l : Lane) (pc : DWord) : HaltWho :=
  { launch := l.seq, team := (s.team? l.id.tid).elim 0 (·.index), quarter := l.quarter, group := l.id.grp, lanes := 2 ^ l.id.slot,
    pc := pc.toNat }
/-- Where a launch as a whole stands. -/
def launchWho (seq : Nat) : HaltWho := { launch := seq, team := 0, quarter := 0, group := 0, lanes := 0, pc := 0 }
/-- Assert the halt line (R237): the units of an ACTIVE or SUSPENDING partition begin to stop, and it is HALTED after their records
(R239); the PF receives the cause as a stop record of UNIT 0 (R286). -/
def State.halt (s : State) (p cause aux : Nat) (who : Option HaltWho) : State :=
  let x := s.part p
  if s.serving p then
    let s1 := s.modPart p fun x =>
      { x with halting := true, haltCause := some (cause, aux), haltWho := who, unitsLeft := x.units }
    ({ s1 with lanes := s1.lanes.map fun l => if l.part = p then { l with issuing := false, bundle := none } else l } : State).stopRing
      (stopBits 0 0 0 0 0 0 cause 0 0)
  else s

/-! ## Register writes of a VF (R251, R257, R297) -/

/-- Do configuration requests still receive Request Retry Status: for 1.0 s after reset at most (R303)? -/
def State.retries (s : State) : Bool := decide (s.time < 10 ^ 9)
/-- What reaches the register space or a command of the hypervisor acts once firmware is ready only (R303); after a critical temperature
nothing does until device reset (R307, log entry 57). -/
def whenReady (s : State) (f : State → State) : Host.Outcome State Fault Refusal := .next (if s.boot = .ready then f s else s)
/-- A write to a register of a partition's function: held while the partition is SUSPENDED, discarded while it is RESETTING or bound to no
function and before firmware is ready (R303), performed otherwise. -/
def State.viaMmio (s : State) (p fn off width : Nat) (v : DWord) (act : State → State) : State :=
  if s.boot ≠ .ready then s else
  match (s.part p).state with
  | .suspended => s.modPart p fun x => { x with heldWrites := x.heldWrites ++ [(fn, off, width, v)] }
  | .resetting | .inactive => s
  | .active | .suspending | .halted => act s
/-- A write through the primary VF. -/
def State.viaVf (s : State) (p off width : Nat) (v : DWord) (act : State → State) : State := s.viaMmio p (s.part p).vfp off width v act

/-! ## Taking a trap and returning from one (R222 to R228) -/

def causeIllegal : Nat := 0x01
def causePriv : Nat := 0x02
def causeBadStatus : Nat := 0x03
def causeAlign : Nat := 0x04
def causePage : Nat := 0x05
def causeScratch : Nat := 0x06
def causeDataUe : Nat := 0x07
def causeCvState : Nat := 0x08
def causeSmode : Nat := 0x09
def causeQrole : Nat := 0x0A
def causeQdiverge : Nat := 0x0B
def causeBarState : Nat := 0x0C
def causeDesc : Nat := 0x0D
def causeCollBusy : Nat := 0x0E
def causeSoft : Nat := 0x0F
def causeBkpt : Nat := 0x10
def causeStep : Nat := 0x11

/-- The saved status word trap entry forms (R226, R227). -/
def entrySsw (l : Lane) (t : TrapReq) : Word :=
  BitVec.ofNat 32
    (t.cause * 2 ^ 24 + t.aux % 256 * 2 ^ 16 + l.depth * 2 ^ 4 + bit t.rpl * 8 + bit l.dm * 4 + bit l.ss * 2 + bit l.sup)

/-- The lane after trap entry (R226): status saved, level raised, depth one deeper, at the handler's first packet, where it is ready in the
next cycle (R75). -/
def Lane.enter (l : Lane) (t : TrapReq) (handler : DWord) (cycle : Nat) : Lane :=
  { l with ssw := entrySsw l t, epc := t.epc, fpc := t.fpc, tval := t.tval, depth := l.depth + 1, sup := true,
           dbg := if t.cause = causeBkpt ∨ t.cause = causeStep then (l.depth + 1) :: l.dbg else l.dbg,
           ss := false, pc := handler, obj := .handler, trap := none, park := .ready, marker := false,
           stepPend := none, noBreak := false, fetched := [], evw := none, qmac := none, trail := l.trail ++ [handler],
           skipped := l.issuing, bundle := none, issuing := false, since := cycle + 1 }

/-- Trap entry (R226): a partition fault at depth 15 or without a handler, the handler otherwise. A breakpoint
triggers a fix (R276). The launch reports class N from then on. -/
def State.trapEntry (s : State) (l : Lane) (t : TrapReq) : State :=
  let x := s.part l.part
  let out : Lane := { l with trap := none, issuing := false, bundle := none, skipped := l.issuing }
  if l.depth = 15 then (s.setLane out).halt l.part 0x22 t.cause (some (s.laneWho l t.fpc))
  else if x.tvec = 0 then (s.setLane out).halt l.part 0x21 t.cause (some (s.laneWho l t.fpc))
  else
    let s1 := s.setLane (l.landed.enter t (x.tvec + 64) s.cycle)
    let s2 := s1.modLaunch l.part l.seq fun L => { L with handler := true }
    if t.cause = causeBkpt then s2.modPart l.part fun x => x.trigger 2 else s2

/-- A cause of the word at the lane's PC, resuming at that word. -/
def Lane.causeHere (l : Lane) (cause aux : Nat) (tval : DWord) : TrapReq :=
  { cause := cause, aux := aux, tval := tval, fpc := l.pc, epc := l.pc, rpl := false }

/-- Raise a cause in a lane: entry waits for the lane's outstanding deferred results (R226), and is immediate when
it has none. The lane leaves its bundle (R225). -/
def State.raise (s : State) (l : Lane) (t : TrapReq) : State :=
  if l.deferred.isEmpty then s.trapEntry l t
  else s.setLane { l with trap := some t, bundle := none, issuing := false, skipped := l.issuing }

/-- Raise an ILLEGAL trap in every active lane at its PC, or at the first word of the chain (R311, R336). -/
def raiseIllegal (s : State) (aux : Nat) : State := eachActive s fun s l => s.raise l (l.causeHere causeIllegal aux 0)

/-- What TRET finds wrong with the saved status word (R228): a cause and its AUX. -/
def tretCause (l : Lane) : Option (Nat × Nat × DWord) :=
  let w := l.ssw.toNat
  if !l.sup then some (causePriv, 0, 0)
  else if l.depth = 0 then some (causeIllegal, 4, 0)
  else if fld w 8 8 ≠ 0 ∨ (fld w 2 1 == 1) ≠ l.dm ∨ fld w 4 4 ≠ l.depth - 1 ∨ (fld w 0 1 = 0 ∧ fld w 4 4 ≠ 0) then
    some (causeBadStatus, 0, l.ssw.setWidth 64)
  else none

/-- The lane after a return from a trap (R228): level, step flag and depth restored, at %epc. -/
def Lane.return (l : Lane) : Lane :=
  let w := l.ssw.toNat
  { l with sup := fld w 0 1 == 1, ss := fld w 1 1 == 1, depth := fld w 4 4, pc := l.epc, noBreak := true,
           dbg := l.dbg.filter (· ≤ fld w 4 4),
           obj := if fld w 4 4 = 0 then .launched else .handler }

/-! ## Bundles -/

/-- A lane that leaves its bundle (R72). -/
def Lane.leave (l : Lane) : Lane := { l with bundle := none, issuing := false }
/-- A word that waits before it acts: the lane leaves its bundle and issues the word again (R81, R208). -/
def Lane.stall (l : Lane) : Lane := { l with bundle := none, issuing := false, skipped := true }
/-- A lane parked for a reason (R70, R249). -/
def Lane.parked (l : Lane) (k : Park) : Lane := { l with park := k, bundle := none, issuing := false }

end Sys2Proof.Machine
end

