-- ==== Sys2Proof/Machine/Translate.lean ====
section
/-! DEFINITION. Translation (R134 to R142, R147, R299): heap window, page tables, leased TLB entries. -/
namespace Sys2Proof.Machine
open Sys2Proof

/-- An attribute (R139). -/
inductive Attr where
  | normal | acc | device | hostc
  deriving DecidableEq, Repr

def Attr.ofCode : Nat → Attr
  | 0 => .normal | 1 => .acc | 2 => .device | _ => .hostc

/-- A translated address: a device physical address, or a host physical address under HOSTC. -/
structure Phys where
  attr : Attr
  addr : Nat
  deriving DecidableEq, Repr

/-- What becomes execute-only with an admitted object (R100, R193): a frame of HBM, or a 4 KiB page of the capacity tier or of host
memory. -/
def Phys.codeKey (x : Phys) : Nat :=
  if x.attr = .hostc then x.addr / 4096 + 2 ^ 49 else if inHbm x.addr then x.addr / 65536 else x.addr / 4096 + 2 ^ 48

/-- What an access does, for permissions (R138). -/
inductive Use where
  | read | write | fetch
  deriving DecidableEq, Repr

/-- Who accesses: the partition, the context, the die, the cluster and core if it is one of theirs, whether at supervisor level or for
the device (R134), and whether the access writes no fault record of its own (R223). -/
structure Who where
  part : Nat
  ctx : Nat
  die : Nat
  core : Option (Nat × Nat)
  sup : Bool
  quiet : Bool
  deriving DecidableEq, Repr

def State.who (s : State) (l : Lane) : Who :=
  { part := l.part, ctx := s.laneCtx l, die := l.die, core := some (l.cluster, l.core), sup := l.sup, quiet := false }

/-- The 64-byte block of a context (R135). -/
def State.ctxBlock (s : State) (p ctx : Nat) : Nat := tget 0 ctx (s.part p).ctxs
def ctxEn (b : Nat) : Bool := fld b 0 1 == 1
def ctxRoot (b : Nat) : Nat := fld b 21 31 * 2 ^ 21
def ctxHwBase (b : Nat) : Nat := fld b 64 64
def ctxHwLim (b : Nat) : Nat := fld b 128 64
def ctxHwOff (b : Nat) : Nat := fld b 192 64
def ctxHwAttr (b : Nat) : Nat := fld b 288 8

/-- Permission bits of HWATTR or of a leaf: X [5], W [4], U [3] (R135, R137). -/
def permits (bits : Nat) (sup : Bool) : Use → Bool
  | .read => sup || fld bits 3 1 == 1
  | .write => (sup || fld bits 3 1 == 1) && fld bits 4 1 == 1
  | .fetch => (sup || fld bits 3 1 == 1) && fld bits 5 1 == 1

def pageFault (reason va : Nat) (u : Use) : PageFault :=
  { reason := reason, va := va, write := u == .write, fetch := u == .fetch }

/-- The LIVE extent of the partition that covers a capacity-tier address, the first listed of several: the spec does not say which
(R147; DESIGN CHOICE, log entry 57). -/
def State.extentOf (s : State) (p a : Nat) : Option Extent :=
  (s.extents.map (·.2)).find? fun x =>
    x.state == .live && x.owner == p && decide (2 ^ 44 + x.off ≤ a) && decide (a < 2 ^ 44 + x.off + x.len)

/-- The checks a translated address must meet (R122, R138, R139, R147, R299): the reason it fails. -/
def State.placed (s : State) (p : Nat) (x : Phys) : Option Nat :=
  match x.attr with
  | .hostc => none
  | a =>
    if inHbm x.addr then none
    else if inCap x.addr then
      if a = .acc then some 3 else if (s.extentOf p x.addr).isNone then some 5 else none
    else if inPeer x.addr then
      if a ≠ .device then some 3
      else if fld x.addr 49 1 = 1 ∨ fld x.addr 39 10 = s.pkgid ∨ tget 0 (fld x.addr 39 10) (s.part p).peers = 0
          ∨ (s.part p).ftag = 0 then some 4
      else none
    else some 4

/-- A leaf a walk found: its 8 bytes and the width of its page offset. -/
structure Leaf where
  pte : Nat
  bits : Nat
  deriving DecidableEq, Repr

/-- Is an entry well formed as a leaf of a page of 2^bits bytes (R136, R137)? -/
def leafOk (e bits : Nat) : Bool :=
  fld e 52 12 == 0 && fld e 8 4 == 0 && fld e 2 1 == 0 && fld e 12 40 * 2 ^ 12 % 2 ^ bits == 0
/-- Is an entry well formed as a pointer to a table aligned to 2^align; G only at level 1 (R136, R137)? -/
def tableOk (e align : Nat) (level1 : Bool) : Bool :=
  fld e 52 12 == 0 && fld e 8 4 == 0 && fld e 3 5 == 0 && (level1 || fld e 2 1 == 0) &&
    fld e 12 40 * 2 ^ 12 % 2 ^ align == 0 && inHbm (fld e 12 40 * 2 ^ 12)

/-- The walker's read of one entry (R136): an acquire load at the home, for the partition; a frame the partition
does not own reads as zeros with an ownership record, and a line that its scrub has yet to reach as zeros (R144, R145). None while the line
is away from its home (R168). -/
def State.walkRead (s : State) (w : Who) (a : Nat) : State × Option Nat :=
  match s.ownCheck w.part a false with
  | .performed =>
    let r := s.homeRead a 8
    (r.1, r.2.map leNat)
  | .zeroQuiet => (s, some 0)
  | .refused =>
    (if w.quiet then s else s.record w.part { rec0 with kind := 2, paddr := a, detail := fotOwner (s.fotOf (a / 65536)) }, some 0)

/-! ## TLBs and walk caches (R140) -/

/-- The TLBs that an access looks into, nearest first. -/
def Who.places (w : Who) : List TlbPlace :=
  match w.core with
  | some (c, k) => [.core (4 * c + k), .cluster c, .die w.die]
  | none => [.die w.die]
/-- Translations that a TLB holds. -/
def TlbPlace.size : TlbPlace → Nat
  | .core _ => 64
  | .cluster _ => 1024
  | .die _ => 16384
/-- Does an entry translate an address for an access, at a table level, within its lease (R140)? -/
def TlbEntry.serves (e : TlbEntry) (w : Who) (level va now : Nat) : Bool :=
  e.part == w.part && e.ctx == w.ctx && e.level == level && e.page == va / 2 ^ e.bits && decide (7 * now < e.ends)
/-- The entry that serves an access from the nearest TLB that has one. -/
def State.cachedAt (s : State) (w : Who) (level va : Nat) : Option TlbEntry :=
  w.places.findSome? fun p => s.tlb.find? fun e => e.place == p && e.serves w level va s.time
/-- The cached translation of an address (R140), if its lease has not ended. -/
def State.cached (s : State) (w : Who) (va : Nat) : Option TlbEntry := s.cachedAt w 0 va
/-- The end of a lease that begins now with the code in force (R140). -/
def State.leaseEnd (s : State) (p : Nat) : Nat := 7 * s.time + 10 * 1024 * 2 ^ (s.part p).lease
/-- Enter an entry in one TLB in place of what it held for the region; a full one gives up a translation, which one is free (log entry 13). -/
def State.fillTlb (s : State) (e : TlbEntry) : State :=
  let keep := s.tlb.filter fun x => !(x.place == e.place && x.part == e.part && x.ctx == e.ctx && x.level == e.level && x.page == e.page && x.bits == e.bits)
  let own := keep.filter fun x => x.place == e.place && x.level == 0
  if e.level = 0 ∧ e.place.size ≤ own.length then
    let d := s.draw
    match own[d.1 % own.length]? with
    | some x => { d.2 with tlb := keep.erase x ++ [e] }
    | none => { d.2 with tlb := keep ++ [e] }
  else { s with tlb := keep ++ [e] }
/-- Enter what the walker read for an address in the access's TLBs. -/
def State.cache (s : State) (w : Who) (level va bits pte ends : Nat) : State :=
  let n := s.nextTlb
  w.places.foldl
    (fun s p => s.fillTlb { n := n, place := p, part := w.part, ctx := w.ctx, level := level, page := va / 2 ^ bits, bits := bits, pte := pte, ends := ends })
    { s with nextTlb := n + 1 }
/-- A hit in a farther TLB is entered in the nearer ones, with the lease it has (R140). -/
def State.promote (s : State) (w : Who) (e : TlbEntry) : State :=
  (w.places.takeWhile (· != e.place)).foldl (fun s p => s.fillTlb { e with place := p }) s

/-! ## The walk (R136) -/

/-- A walk's end (R138): a leaf with the end of the lease of what it was reached through, a reason, or it waits for a line of the tables that
is away from its home. -/
inductive WalkEnd where
  | leaf (f : Leaf) (ends : Nat)
  | reason (n : Nat)
  | wait
  deriving DecidableEq, Repr

/-- The entry of one table level, with the end of its lease: from a walk cache, unless the walk is one from memory alone (R138), or read. -/
def State.tableRead (s : State) (w : Who) (fresh : Bool) (level a va : Nat) : State × Option (Nat × Nat) :=
  match (if fresh then none else s.cachedAt w level va) with
  | some e => (s, some (e.pte, e.ends))
  | none => let r := s.walkRead w a; (r.1, r.2.map fun e => (e, r.1.leaseEnd w.part))
/-- One table level: the entry at `a`, reached through entries whose leases end at `ends`. A pointer is kept in the walk caches, and is
followed; no lease outlives that of what it was reached through, so that a change takes effect within one lease length (R141; DEDUCED, log
entry 27). -/
def State.walkLevel (s : State) (w : Who) (fresh : Bool) (va level bits a : Nat) (ends : Option Nat) (leaf pointer : Nat → Bool)
    (next : State → Nat → Nat → State × WalkEnd) : State × WalkEnd :=
  let r := s.tableRead w fresh level a va
  match r.2 with
  | none => (r.1, .wait)
  | some e =>
    let t := ends.elim e.2 (min e.2)
    if fld e.1 0 1 = 0 then (r.1, .reason 1)
    else if fld e.1 1 1 = 1 then (r.1, if leaf e.1 then .leaf { pte := e.1, bits := bits } t else .reason 3)
    else if !pointer e.1 then (r.1, .reason 3)
    else next (r.1.cache w level va bits e.1 t) e.1 t
/-- The address of entry i of the table that a pointer names. -/
def entryAt (e i : Nat) : Nat := fld e 12 40 * 2 ^ 12 + 8 * i
/-- The entry of a table of level 0: a leaf of a page of 2^bits bytes. -/
def State.walkLast (s : State) (w : Who) (a bits ends : Nat) : State × WalkEnd :=
  let r := s.walkRead w a
  match r.2 with
  | none => (r.1, .wait)
  | some e =>
    if fld e 0 1 = 0 then (r.1, .reason 1)
    else if fld e 1 1 = 0 ∨ !leafOk e bits then (r.1, .reason 3)
    else (r.1, .leaf { pte := e, bits := bits } (min ends (r.1.leaseEnd w.part)))
/-- The walk of R136 from the root (R138). A root where R122 maps no memory is ADDR; one outside HBM breaks R136. -/
def State.walk (s : State) (w : Who) (fresh : Bool) (root va : Nat) : State × WalkEnd :=
  if !inHbm root then (s, .reason (if inCap root || inPeer root then 3 else 4))
  else
    s.walkLevel w fresh va 3 39 (root + 8 * fld va 39 18) none (fun _ => false) (fun e => tableOk e 12 false) fun s e t =>
      s.walkLevel w fresh va 2 30 (entryAt e (fld va 30 9)) (some t) (fun e => leafOk e 30) (fun e => tableOk e 12 false) fun s e t =>
        s.walkLevel w fresh va 1 21 (entryAt e (fld va 21 9)) (some t) (fun e => leafOk e 21) (fun e => tableOk e 12 true) fun s e t =>
          if fld e 2 1 = 1 then s.walkLast w (entryAt e (fld va 16 5)) 16 t else s.walkLast w (entryAt e (fld va 12 9)) 12 t

/-- The address a leaf gives. -/
def Leaf.phys (f : Leaf) (va : Nat) : Phys :=
  { attr := Attr.ofCode (fld f.pte 6 2), addr := fld f.pte 12 40 * 2 ^ 12 / 2 ^ f.bits * 2 ^ f.bits + va % 2 ^ f.bits }

/-- Check a leaf's address and permissions. Of a leaf that fails both, the range is reported: the spec gives no order (DESIGN CHOICE, log
entry 57). -/
def State.checkLeaf (s : State) (w : Who) (va : Nat) (u : Use) (f : Leaf) : Except PageFault Phys :=
  match s.placed w.part (f.phys va) with
  | some r => .error (pageFault r va u)
  | none => if permits f.pte w.sup u then .ok (f.phys va) else .error (pageFault 2 va u)

/-- What a translation gives: an address, a fault, or it waits for a line of the page tables that is away from its home. -/
inductive Trans where
  | ok (x : Phys)
  | fault (f : PageFault)
  | wait
  deriving DecidableEq, Repr
/-- The outcome of a check. -/
def Trans.ofCheck : Except PageFault Phys → Trans
  | .ok x => .ok x
  | .error f => .fault f

/-- Walk, check the leaf, and cache one that is not BADPTE (R138). -/
def State.walkAndCheck (s : State) (w : Who) (va : Nat) (u : Use) (block : Nat) (fresh : Bool) : State × Trans :=
  let r := s.walk w fresh (ctxRoot block) va
  match r.2 with
  | .wait => (r.1, .wait)
  | .reason e => (r.1, .fault (pageFault e va u))
  | .leaf f t =>
    let c := s.checkLeaf w va u f
    (if s.placed w.part (f.phys va) = some 3 then r.1 else r.1.cache w 0 va f.bits f.pte t, .ofCheck c)

/-- Translate a virtual address (R134): the window, then the tables through a cached entry or a walk; a cached
entry that denies is confirmed by a fresh walk (R138). -/
def State.translate (s : State) (w : Who) (va : Nat) (u : Use) : State × Trans :=
  let b := s.ctxBlock w.part w.ctx
  if 2 ^ 57 ≤ va then (s, .fault (pageFault 4 va u))
  else if ctxHwBase b ≤ va ∧ va < ctxHwLim b then
    let x : Phys := { attr := Attr.ofCode (fld (ctxHwAttr b) 6 2), addr := (va + ctxHwOff b) % 2 ^ 64 }
    match s.placed w.part x with
    | some r => (s, .fault (pageFault r va u))
    | none => if permits (ctxHwAttr b) w.sup u then (s, .ok x) else (s, .fault (pageFault 2 va u))
  else if !ctxEn b then (s, .fault (pageFault 1 va u))
  else
    match s.cached w va with
    | some e =>
      match s.checkLeaf w va u { pte := e.pte, bits := e.bits } with
      | .ok x => (s.promote w e, .ok x)
      | .error _ => s.walkAndCheck w va u b true
    | none => s.walkAndCheck w va u b false

end Sys2Proof.Machine
end

