-- ==== Sys2Proof/Machine/Coherence.lean ====
section
/-! DEFINITION. What an access does to a line's tokens (R149 to R167), to the L1 (R117, R118), to the L3 and the
HBM queues (R119 to R126). A lane's or an engine's access gathers the tokens it needs in one step (log entry 5). -/
namespace Sys2Proof.Machine
open Sys2Proof

/-! ## The capacity tier (R147) -/

/-- The pooled memory behind a capacity-tier line, at the first LIVE extent of its partition that holds it (R147). -/
def State.capBehind (s : State) (p ln : Nat) : List Byte :=
  match s.extentOf p (128 * ln) with
  | some e => readBytes s.hostMem (e.hpa + (128 * ln - 2 ^ 44 - e.off)) 128
  | none => zeros 128
/-- A capacity-tier line is brought into its home slice (R147). -/
def State.capFill (s : State) (p ln : Nat) : State :=
  let s1 := (s.l3Use ln).1
  if (s1.capLine? ln).isSome then s1 else { s1 with capLines := tset ln { dirty := false, data := s1.capBehind p ln } s1.capLines }
/-- Read bytes of a capacity-tier line at its home. -/
def State.capRead (s : State) (p a n : Nat) : State × List Byte :=
  let s1 := s.capFill p (a / 128)
  (s1, (((s1.capLine? (a / 128)).elim [] (·.data)).drop (a % 128)).take n)
/-- Write bytes of a capacity-tier line at its home, which holds it dirty from then on. -/
def State.capWrite (s : State) (p a : Nat) (bs : List Byte) : State :=
  let s1 := s.capFill p (a / 128)
  let old := (s1.capLine? (a / 128)).elim [] (·.data)
  { s1 with capLines := tset (a / 128) { dirty := true, data := old.take (a % 128) ++ bs ++ old.drop (a % 128 + bs.length) } s1.capLines }

/-! ## Token transactions of an access -/

/-- Must the access wait: a fold is in progress, the host holds a token it needs or is to answer an invalidation, a persistent request of
another agent is active, another engine holds the line for writing, or a write waits at its home (R156, R159, R168, R174)? -/
def State.lineBusy (s : State) (ln : Nat) (a : Fin 10) (excl : Bool) : Bool :=
  let l := s.line ln
  if (if excl then l.mayWrite a else l.mayRead a) && !l.mash then false
  else l.folding || s.out.contains (.bisnp ln true) || (match l.active with | some b => b != a | none => false) ||
    (s.heldBy ln).elim false (· != a) || l.writeWaits || (if excl then 0 < l.holds[9].t else l.holds[9].owner)
/-- An access that waits asks the host for the tokens it needs (R168). -/
def State.askTokens (s : State) (ln : Nat) (excl : Bool) : State := s.recallHost ln excl

/-- The slice or engine that a die's agent a uses is charged with a hit or a miss: only the L2 slices count (R267). -/
def State.countL2 (s : State) (a : Fin 10) (p : Nat) (ctx : Option Nat) (ev : Nat) : State := if a.val < 4 then s.count p ctx ev 1 else s
/-- The home serves a request from its own copy: the L3 is used where the home holds the owner token (R121, R155). -/
def State.fromHome (s : State) (ln p : Nat) (ctx : Option Nat) : State := if (s.hold ln home).owner then s.l3Touch p ctx ln else s

/-- An agent's request for a line. -/
def State.reqOf (s : State) (ln : Nat) (a : Fin 10) : Option TokReq := (s.line ln).reqs.find? fun r => r.agent == a
/-- All nine other agents than the home. -/
def notHome : List (Fin 10) := (List.finRange 10).filter (· != home)
/-- Does an agent's die still work (R240)? The home and the host proxy are in the base die. -/
def State.agentUp (s : State) (a : Fin 10) : Bool := decide (8 ≤ a.val) || !s.lostDies.contains (a.val % 4)
/-- The home deactivates the request of its line's active requester: PDEACT to all nine others, whose acknowledgements it awaits, but for
agents of a lost die; then it serves what waits (R159). -/
def State.persistDone (s : State) (ln : Nat) (a : Fin 10) : State :=
  let l := s.line ln
  if l.active = some a ∧ l.persist.any (fun e => e.1 == a) then
    let s1 := s.modLine ln fun l =>
      { l with persist := l.persist.filter (fun e => e.1 != a), reqs := l.reqs.filter (fun r => r.agent != a),
               acks := notHome.filter s.agentUp, holds := l.holds.set home { l.holds[home] with pact := none } }
    (notHome.foldl (fun s b => s.post (msg0 .pdeact ln home b)) s1).serveWaiting ln
  else s
/-- The active requester whose attempt condition holds performs its access and sends PDONE; the home's own needs no message (R159). -/
def State.checkDone (s : State) (ln : Nat) (a : Fin 10) : State :=
  let h := s.hold ln a
  if h.pact != some a || !(s.reqOf ln a).elim false (fun r => h.satisfies r.excl) then s
  else if a = home then s.persistDone ln a
  else if s.net.any fun m => m.kind == .pdone && m.line == ln && m.src == a then s
  else s.post (msg0 .pdone ln a home)
/-- An agent's holding has changed: a transient request that it satisfies has succeeded (R157), and an active persistent request that it
satisfies is complete (R159). -/
def State.satisfied (s : State) (ln : Nat) (a : Fin 10) : State :=
  let h := s.hold ln a
  let met := fun r : TokReq => r.agent == a && !r.persistent && h.satisfies r.excl
  let s1 := if (s.line ln).reqs.any met then s.modLine ln fun l => { l with reqs := l.reqs.filter fun r => !met r } else s
  s1.checkDone ln a

/-- Agent a gathers what a read needs (R155, R156): a token and valid data. -/
def State.takeShared (s : State) (ln : Nat) (a : Fin 10) (p : Nat) (ctx : Option Nat) : State :=
  let s1 := (s.fold ln (some (p, ctx))).1
  if (s1.line ln).mayRead a then (s1.l2Touch a ln p ctx).countL2 a p ctx evL2Hit
  else
    let s2 := (s1.landTokens ln).fromHome ln p ctx
    let l2 := s2.line ln
    let s3 := if l2.mayRead a then s2
      else match l2.ownerOf with
        | some o => s2.modLine ln fun l => l.grantShared o a
        | none => s2
    (((s3.l2Touch a ln p ctx).countL2 a p ctx evL2Miss)).satisfied ln a

/-- Agent a gathers all 16 tokens for a write (R155, R156); dirty from then on. -/
def State.takeAll (s : State) (ln : Nat) (a : Fin 10) (p : Nat) (ctx : Option Nat) : State :=
  let s1 := (s.fold ln (some (p, ctx))).1
  let s2 := if (s1.line ln).mayWrite a then s1.countL2 a p ctx evL2Hit
    else (((s1.landTokens ln).fromHome ln p ctx).modLine ln fun l => l.grantAll a).countL2 a p ctx evL2Miss
  ((s2.modLine ln fun l => { l with holds := l.holds.set a { l.holds[a] with dirty := true } }).l2Touch a ln p ctx).satisfied ln a

/-- A merge of an LA into an ACC line by agent a (R163, R164, R171): in place in M, otherwise into its partial; a NORMAL line enters the
merge state when its home has gathered all 16 tokens, which it keeps. Answers whether an in-place merge met poison (R175). -/
def State.mergeLine (s : State) (ln : Nat) (a : Fin 10) (p : Nat) (ctx : Option Nat) (f : LA → LA) : State × Bool :=
  let l := s.line ln
  if l.mayWrite a && !l.mash then
    if s.poison.contains ln then (s, true)
    else
      ((((s.setLineLa ln (f (s.lineLa ln))).modLine ln fun l => { l with holds := l.holds.set a { l.holds[a] with dirty := true } }).l2Touch a ln p
        ctx).countL2 a p ctx evL2Hit, false)
  else
    let s1 := if l.mash then s else
      (((s.landTokens ln).fromHome ln p ctx).modLine ln fun l => { l.grantAll home with mash := true, holders := [] })
    let s2 := s1.modLine ln fun l =>
      let old := (l.holds[a].partialLA).getD LA0
      { l with holders := if l.holders.contains a then l.holders else l.holders ++ [a],
               holds := l.holds.set a { l.holds[a] with t := 0, owner := false, valid := false, partialLA := some (f old) } }
    (s2.l2Touch a ln p ctx, false)

/-! ## The L1 (R116 to R118) -/

/-- The core's presence bits are cleared in every line of its cluster's L1 (R118, R183). -/
def State.clearL1 (s : State) (cluster core : Nat) : State :=
  if (s.cluster cluster).l1.isEmpty then s
  else s.modCluster cluster fun c => { c with l1 := c.l1.map fun x => { x with mask := x.mask &&& ~~~ BitVec.twoPow 4 core } }

/-- A store updates the L1 line's data if the line is present (R117). -/
def State.storeL1 (s : State) (cluster a : Nat) (bs : List Byte) : State :=
  if (s.cluster cluster).l1.any (fun x => x.line == a / 128) then
    s.modCluster cluster fun c =>
      { c with l1 := c.l1.map fun x =>
          if x.line = a / 128 then
            let old := leBytes x.data.toNat 128
            let new := old.take (a % 128) ++ bs ++ old.drop (a % 128 + bs.length)
            { x with data := BitVec.ofNat 1024 (leNat new) }
          else x }
  else s

/-- Fill an L1 line for a core: line number n goes to set n mod 384, and the oldest line of a full set leaves; the spec gives neither the
index nor the replacement (DESIGN CHOICE, log entry 13). -/
def State.fillL1 (s : State) (cluster core ln : Nat) (data : Nat) : State :=
  s.modCluster cluster fun c =>
    let rest := c.l1.filter fun x => x.line != ln
    let old : BitVec 4 := (c.l1.find? fun x => x.line == ln).elim 0 (·.mask)
    let same := rest.filter fun x => x.line % 384 == ln % 384
    let rest' := if c.cacheWays ≤ same.length then rest.filter (fun x => some x.line != same.head?.map (·.line)) else rest
    if c.cacheWays = 0 then c
    else { c with l1 := rest' ++ [{ line := ln, mask := old ||| BitVec.twoPow 4 core, data := BitVec.ofNat 1024 data }] }

end Sys2Proof.Machine
end

