-- ==== Sys2Proof/Machine/Access.lean ====
section
/-! DEFINITION. Reads, writes, atomics and merges of global memory by a lane or an engine (R107, R117, R144, R147,
R163, R170, R171, R175, R193, R299). An access takes its performance point in the step that performs it (log entry 3). -/
namespace Sys2Proof.Machine
open Sys2Proof

/-- Where a translated access is performed. -/
inductive Reach where
  /-- HBM or capacity tier under an attribute. -/
  | at (x : Phys)
  /-- Host memory, present in the host-line cache. -/
  | host (a : Nat)
  /-- Peer memory (R299). -/
  | peer (dpa : Nat)
  /-- Answered with zeros, or dropped (R144, R193). -/
  | void
  | page (f : PageFault)
  /-- The access waits at issue: host tokens, a persistent request, a host line not yet here. -/
  | busy
  deriving DecidableEq, Repr

/-- Who makes an access: the translation identity, the agent that holds tokens for it, and the record that names
it in the fault queue. -/
structure Via where
  who : Who
  agent : Fin 10
  recd : Rec
  deriving DecidableEq, Repr

/-- An access by a lane goes through its die's L2 slice (R149). -/
def State.via (s : State) (l : Lane) : Via :=
  { who := s.who l, agent := Fin.ofNat 10 (l.die % 4), recd := s.laneRecd l 2 }
/-- An access by the die's engine agent for a lane (R149, R173). -/
def State.viaEngine (s : State) (l : Lane) : Via :=
  { who := s.who l, agent := Fin.ofNat 10 (4 + l.die % 4), recd := { s.laneRecd l 2 with flags := 4 } }

/-- The host-line cache holds every line of an access in a state that allows it (R170). -/
def State.hostHas (s : State) (a n : Nat) (own : Bool) : Option Nat :=
  ((List.range ((a + n + 63) / 64 - a / 64)).map (a / 64 + ·)).find? fun h =>
    match s.hostLines.find? (fun e => e.1 == h) with
    | some e => own && !e.2.owned
    | none => true

/-- Ask the host for a line (R170): RdShared or RdOwn. -/
def State.askHost (s : State) (h : Nat) (own : Bool) : State :=
  if s.out.contains (.cxlCache h own) then s else s.emit (.cxlCache h own)

/-- The FLAGS bits of a fault record that name the use of an access (R232). -/
def Use.flags : Use → Nat
  | .read => 0
  | .write => 1
  | .fetch => 2

/-- Translate an access of n bytes and check where it may be performed. A page of which `bars` holds denies it (R138, R163); the pages of an
admitted object are execute-only (R100, R193). -/
def State.reachBut (s : State) (v : Via) (va n : Nat) (u : Use) (bars : Phys → Bool) : State × Reach :=
  let r := s.translate v.who va u
  let s1 := r.1
  match r.2 with
  | .fault f => (s1, .page f)
  | .wait => (s1, .busy)
  | .ok x =>
    if bars x then (s1, .page (pageFault 2 va u))
    else
    match s1.codeAt v.who.part x.codeKey, u with
    | some _, .read => (s1, .page (pageFault 2 va u))
    | some c, .write => (s1.record v.who.part { v.recd with kind := 3, flags := v.recd.flags + 1, va := va, paddr := x.addr, detail := c }, .void)
    | _, _ =>
      match x.attr with
      | .hostc =>
        match s1.hostHas x.addr n (u == .write) with
        | some h => (s1.askHost h (u == .write), .busy)
        | none => (s1, .host x.addr)
      | a =>
        if inPeer x.addr then (s1, .peer x.addr)
        else if inCap x.addr then (s1, .at x)
        else
          match s1.ownCheck v.who.part x.addr (u == .write) with
          | .refused =>
            (if v.who.quiet then s1
             else s1.record v.who.part
              { v.recd with kind := 2, flags := v.recd.flags + u.flags, va := va, paddr := x.addr,
                            detail := fotOwner (s1.fotOf (x.addr / 65536)) }, .void)
          | .zeroQuiet => (s1, .void)
          | .performed =>
            let s2 := if u = .write then s1.passFront x.addr else s1
            if a ≠ .device && s2.lineBusy (x.addr / 128) v.agent (u == .write) then
              (s2.askTokens (x.addr / 128) (u == .write), .busy)
            else if a = .device ∧ (if u = .write then s2.homeBusy (x.addr / 128) else s2.away (x.addr / 128)) then
              (s2.askTokens (x.addr / 128) (u == .write), .busy)
            else (s2, .at x)
/-- The same where no page's attribute denies the access. -/
def State.reach (s : State) (v : Via) (va n : Nat) (u : Use) : State × Reach := s.reachBut v va n u fun _ => false

/-! ## Host lines (R170) -/

def State.hostByte (s : State) (a : Nat) : Byte :=
  match s.hostLines.find? fun e => e.1 == a / 64 with
  | some e => (e.2.data[a % 64]?).getD 0
  | none => 0
def State.hostRead (s : State) (a n : Nat) : List Byte := (List.range n).map fun i => s.hostByte (a + i)
def State.hostPut (s : State) (a : Nat) (b : Byte) : State :=
  { s with hostLines := s.hostLines.map fun e =>
      if e.1 = a / 64 then (e.1, { e.2 with data := e.2.data.set (a % 64) b, dirty := true }) else e }
def State.hostWrite (s : State) (a : Nat) : List Byte → State
  | [] => s
  | b :: r => (s.hostPut a b).hostWrite (a + 1) r

/-! ## Reads and writes at a place -/

/-- What a read of n bytes of one line at a place returns: in an ACC page the canonical image of the LA that the line holds, and zeros
in bytes 96 to 127 (R44, R45, R163). -/
def State.seenAt (s : State) (x : Phys) (n : Nat) : List Byte :=
  if x.attr = .acc then ((leBytes (laImage (s.lineLa (x.addr / 128))) 96 ++ zeros 32).drop (x.addr % 128)).take n
  else readBytes s.mem x.addr n

/-- Does an access of HBM or the capacity tier meet a poisoned line (R236)? -/
def State.poisoned (s : State) (x : Phys) : Bool := (inHbm x.addr || inCap x.addr) && s.poison.contains (x.addr / 128)

/-- The fold that a non-merge access causes (R166); over a poisoned home copy it is recorded with the number of partials that it discards.
Answers whether it was such a fold: the access then takes DATA_UE (R175). -/
def State.foldFor (s : State) (v : Via) (ln : Nat) : State × Bool :=
  let q := s.fold ln (some (v.who.part, some v.who.ctx))
  match q.2 with
  | none => (q.1, false)
  | some n => (q.1.record v.who.part { v.recd with kind := 5, paddr := 128 * ln, detail := 1 + 256 * n }, true)
/-- Is a place's line in the merge state, so that a non-merge access folds it? -/
def State.mashed (s : State) (x : Phys) : Bool := (s.line (x.addr / 128)).mash

/-- Read n bytes of one line at a place, tokens gathered; none where the line is poisoned. -/
def State.readAt (s : State) (v : Via) (x : Phys) (n : Nat) : State × Option (List Byte) :=
  if inCap x.addr then let q := s.capRead v.who.part x.addr n; (q.1, if s.poisoned x then none else some q.2)
  else
    let s0 := (s.foldFor v (x.addr / 128)).1
    let s1 := if x.attr = .device then s0.homeObtain (x.addr / 128) v.who.part (some v.who.ctx) else s0.takeShared (x.addr / 128) v.agent v.who.part (some v.who.ctx)
    if s1.poisoned x then (s1, none) else (s1, some (s1.seenAt x n))

/-- The bytes an ACC page lets a write at address a change: those below byte 96 of the line (R163). -/
def accKeep (attr : Attr) (a : Nat) (bs : List Byte) : List Byte :=
  if attr = .acc then bs.take (96 - a % 128) else bs

/-- Does a write fill the whole 128-byte line (R175)? -/
def fillsLine (a n : Nat) : Bool := a % 128 == 0 && n == 128

/-- What a performed write of n bytes does to the poison of its line: one that fills the line clears it, a partial one leaves it and is
recorded (R175, R236). -/
def State.overPoison (s : State) (v : Via) (a n : Nat) : State :=
  if !s.poison.contains (a / 128) then s
  else if fillsLine a n then { s with poison := s.poison.filter (· != a / 128) }
  else s.record v.who.part { v.recd with kind := 5, flags := v.recd.flags + 1, paddr := a, detail := 1 }
/-- Write bytes of one line at a place, all tokens gathered. A partial write leaves a poisoned line poisoned and records it; a write whose
fold discards partials changes nothing and takes DATA_UE (R175, R236): answers whether it does. -/
def State.writeAt (s : State) (v : Via) (x : Phys) (bs : List Byte) : State × Bool :=
  if inCap x.addr then ((s.capWrite v.who.part x.addr bs).overPoison v x.addr bs.length, false)
  else
    let ln := x.addr / 128
    let q := s.foldFor v ln
    if q.2 then q
    else
      let s1 := if x.attr = .device then (q.1.l3Touch v.who.part (some v.who.ctx) ln).homeTake ln else q.1.takeAll ln v.agent v.who.part (some v.who.ctx)
      let s2 : State := { s1 with mem := writeBytes s1.mem x.addr (accKeep x.attr x.addr bs) }
      (s2.overPoison v x.addr bs.length, false)

/-! ## A lane's accesses -/

/-- What an access gives. -/
inductive Res where
  | data (bs : List Byte)
  | page (f : PageFault)
  /-- Poisoned data; `fold` says that the access folded the line (R175). -/
  | ue (fold : Bool)
  | peer (dpa : Nat)
  | busy
  deriving DecidableEq, Repr

/-- A load of n bytes that goes past the L1 (R117). -/
def State.loadVia (s : State) (v : Via) (va n : Nat) : State × Res :=
  let r := s.reach v va n .read
  match r.2 with
  | .page f => (r.1, .page f)
  | .busy => (r.1, .busy)
  | .peer a => (r.1, .peer a)
  | .void => (r.1, .data (zeros n))
  | .host a => (r.1, .data (r.1.hostRead a n))
  | .at x =>
    let q := r.1.readAt v x n
    match q.2 with
    | some bs => (q.1, .data bs)
    | none => (q.1, .ue (r.1.mashed x))

/-- A global load of a lane (R117): a relaxed .any load of a NORMAL page of HBM may be served by the L1. -/
def State.load (s : State) (l : Lane) (va n : Nat) (any : Bool) : State × Res :=
  let v := s.via l
  if !any || (s.cluster l.cluster).cacheWays == 0 then s.loadVia v va n
  else
    let r := s.reach v va n .read
    match r.2 with
    | .at x =>
      if x.attr = .normal ∧ inHbm x.addr then
        let ln := x.addr / 128
        match (r.1.cluster l.cluster).l1.find? fun e => e.line == ln && e.mask.getLsbD l.core with
        | some e => (r.1.countLane l evL1Hit 1, .data ((leBytes e.data.toNat 128).drop (x.addr % 128) |>.take n))
        | none =>
          let s1 := r.1.countLane l evL1Miss 1
          let q := s1.readAt v { x with addr := 128 * ln } 128
          match q.2 with
          | some bs => (q.1.fillL1 l.cluster l.core ln (leNat bs), .data ((bs.drop (x.addr % 128)).take n))
          | none => (q.1, .ue (r.1.mashed x))
      else
        let q := r.1.readAt v x n
        match q.2 with
        | some bs => (q.1, .data bs)
        | none => (q.1, .ue (r.1.mashed x))
    | .page f => (r.1, .page f)
    | .busy => (r.1, .busy)
    | .peer a => (r.1, .peer a)
    | .void => (r.1, .data (zeros n))
    | .host a => (r.1, .data (r.1.hostRead a n))

/-- A write of bytes of one line (R117): the data go to the place the translation gives; `data []` says it is done. -/
def State.storeVia (s : State) (v : Via) (va : Nat) (bs : List Byte) : State × Res :=
  let r := s.reach v va bs.length .write
  match r.2 with
  | .page f => (r.1, .page f)
  | .busy => (r.1, .busy)
  | .peer a => (r.1, .peer a)
  | .void => (r.1, .data [])
  | .host a => (r.1.hostWrite a bs, .data [])
  | .at x => let q := r.1.writeAt v x bs; (q.1, if q.2 then .ue true else .data [])

/-- A lane's store also updates its cluster's L1 line (R117). -/
def State.store (s : State) (l : Lane) (va : Nat) (bs : List Byte) : State × Res :=
  let v := s.via l
  let r := s.reach v va bs.length .write
  match r.2 with
  | .at x =>
    let q := r.1.writeAt v x bs
    if q.2 then (q.1, .ue true)
    else (if inHbm x.addr then q.1.storeL1 l.cluster x.addr (accKeep x.attr x.addr bs) else q.1, .data [])
  | .page f => (r.1, .page f)
  | .busy => (r.1, .busy)
  | .peer a => (r.1, .peer a)
  | .void => (r.1, .data [])
  | .host a => (r.1.hostWrite a bs, .data [])

/-- Write what an atomic leaves, if it writes (R368). -/
def State.modified (s : State) (new : Option Nat) (n : Nat) (k : State → List Byte → State) : State :=
  new.elim s fun x => k s (leBytes x n)
/-- A read-modify-write of n bytes (R171, R175): the old bytes; `f` gives the new value, or none where nothing is written (R368). An ACC page
denies it (R163). Where R144 drops its write, its read is dropped too: in a SHARED-RO frame it returns zeros, though a read alone would be
performed; the spec gives such an atomic no result (DESIGN CHOICE, log entry 57). -/
def State.rmw (s : State) (l : Lane) (va n : Nat) (f : Nat → Option Nat) : State × Res :=
  let v := s.via l
  let r := s.reachBut v va n .write fun x => x.attr == .acc
  match r.2 with
  | .page g => (r.1, .page g)
  | .busy => (r.1, .busy)
  | .peer a => (r.1, .peer a)
  | .void => (r.1, .data (zeros n))
  | .host a =>
    let old := r.1.hostRead a n
    (r.1.modified (f (leNat old)) n fun s bs => s.hostWrite a bs, .data old)
  | .at x =>
    let q := r.1.readAt v x n
    match q.2 with
    | some old => (q.1.modified (f (leNat old)) n fun s bs => (s.writeAt v x bs).1, .data old)
    | none => (q.1, .ue (r.1.mashed x))

/-- A merge into the ACC line that holds an LA (R163, R164, R347): PERM elsewhere (R349), peer lines among it (R299). -/
def State.mergeVia (s : State) (v : Via) (va : Nat) (f : LA → LA) : State × Res :=
  let r := s.reachBut v va 96 .write fun x => x.attr != .acc
  match r.2 with
  | .page g => (r.1, .page g)
  | .busy => (r.1, .busy)
  | .peer _ | .host _ => (r.1, .page (pageFault 2 va .write))
  | .void => (r.1, .data [])
  | .at x =>
    let q := r.1.mergeLine (x.addr / 128) v.agent v.who.part (some v.who.ctx) f
    (q.1, if q.2 then .ue false else .data [])

/-! ## Peer requests (R299) -/

/-- Send a request to a peer package, whose answer acquires at a scope if `acq` names one; answers its number. -/
def State.askPeer (s : State) (l : Lane) (n : Option Nat) (dpa : Nat) (op : PeerOp) (va : Nat) (store : Bool) (acq : Option Scope) : Nat × State :=
  let r : PeerReq := { id := s.nextId, since := s.time, pc := l.pc, part := l.part, lane := some l.id, n := n, dpa := dpa, op := op, va := va, store := store,
                       acq := acq, xfer := none }
  (s.nextId, ({ s with peers := s.peers ++ [r], nextId := s.nextId + 1 } : State).sendPeer r)

/-- Does a peer request write: an ATOM or CAS does, whether or not it returns a value (R299)? -/
def PeerOp.writes : PeerOp → Bool
  | .read _ => false
  | .write _ | .atomic _ _ _ | .cas _ _ _ => true
/-- Has the lane a peer write that is not yet acknowledged (R180, R299)? -/
def State.peerStores (s : State) (l : Lane) : Bool := s.peers.any fun r => r.lane == some l.id && PeerOp.writes r.op

end Sys2Proof.Machine
end

