-- ==== Sys2Proof/Machine/Operands.lean ====
section
/-! DEFINITION. Operand forms: which registers a word names, the budgets they must respect (R68), slots (R55), the
ILLEGAL traps of R336 at run time, the address of a base pair (R107), elements packed in registers (R26). -/
namespace Sys2Proof.Machine
open Sys2Proof

/-- The element formats MX conversions and quantisation accept (R335, R384, R469). -/
def mxElem (a : Nat) : Bool := a == 3 || a == 4 || a == 5 || a == 6
/-- Registers QMX writes (R469). -/
def qmxRegs (a : Nat) : Nat := if a = 5 then 4 else 8
/-- Registers DQMX writes (R384). -/
def dqmxRegs (a : Nat) : Nat := if a = 5 then 8 else 4
/-- Registers MXRD writes (R333). -/
def mxrdRegs (w : Word) : Nat := if slotOut w = 0 ∨ slotOut w = 8 then 32 else 16
/-- Registers of an access of this size (R314). -/
def regsOf : Size → Nat
  | .b64 => 2
  | .b128 => 4
  | _ => 1

/-- Widths of the system registers (R337): 64-bit ones take a pair. -/
def sysRegs (r : Nat) : Nat :=
  match sysKind r with
  | some k => if k.wide then 2 else 1
  | none => 1

/-- May a lane read a register of this kind (R337)? -/
def SysKind.mfsOk (k : SysKind) (sup : Bool) : Bool :=
  match k with
  | .user32 | .user64 | .user32rw | .bankCount | .bankSnap => true
  | .super32 | .super64 | .bankCtl | .bankThr => sup
/-- May a lane write it? -/
def SysKind.mtsOk (k : SysKind) (sup : Bool) : Bool :=
  match k with
  | .user32 | .user64 | .bankSnap => false
  | .user32rw => true
  | .super32 | .super64 | .bankCtl | .bankThr | .bankCount => sup

def sysMfsOk (r : Nat) (sup : Bool) : Bool :=
  match sysKind r with | some k => SysKind.mfsOk k sup | none => false
def sysMtsOk (r : Nat) (sup : Bool) : Bool :=
  match sysKind r with | some k => SysKind.mtsOk k sup | none => false
/-- The v registers a word names, as first register and count; `w` is the slot word of a form that has one (R68). -/
def vUses (w : Word) : Instr → List (Nat × Nat)
  | .ret a | .brx a => [(a, 2)]
  | .call d _ | .clk d | .cntrd d _ => [(d, 2)]
  | .bara d _ _ | .rndLo d | .rndHi d | .movi d _ | .movh d _ | .lit d _ | .collw d _ => [(d, 1)]
  | .waitph _ a _ => [(a, 1)]
  | .evsig a b | .evwait a b => [(a, 1), (b, 1)]
  | .mfs d r | .mts d r => [(d, sysRegs r.toNat)]
  | .iadd d a b | .isub d a b | .imul d a b | .imulhI32 d a b | .imulhN32 d a b | .imad d a b | .idivI32 d a b
  | .idivN32 d a b | .iremI32 d a b | .iremN32 d a b | .iminI32 d a b | .iminN32 d a b | .imaxI32 d a b | .imaxN32 d a b
  | .and d a b | .or d a b | .xor d a b | .shl d a b | .shr d a b | .sar d a b | .shf d a b | .bfeI32 d a b
  | .bfeN32 d a b | .bfi d a b | .sel d a b _ => [(d, 1), (a, 1), (b, 1)]
  | .iabs d a | .popc d a | .clz d a | .brev d a => [(d, 1), (a, 1)]
  | .icmp _ a b _ | .fcmp _ a b _ => [(a, 1), (b, 1)]
  | .ladd d a b => [(d, 2), (a, 2), (b, 1)]
  | .mov d a ag dg => (if dg then [] else [(d.val, 1)]) ++ (if ag then [] else [(a.val, 1)])
  | .iaddi d a _ | .andi d a _ | .ori d a _ | .xori d a _ => [(d, 1), (a, 1)]
  | .shlImm d a _ | .shrImm d a _ | .sarImm d a _ => [(d, 1), (a, 1)]
  | .laddi d a _ => [(d, 2), (a, 2)]
  | .fadd d a b _ | .fsub d a b _ | .fmul d a b _ | .ffma d a b _ | .fadd2Bf16 d a b _ | .fadd2F16 d a b _
  | .fma2Bf16 d a b _ | .fma2F16 d a b _ | .fdiv d a b _ => [(d, 1), (a, 1), (b, 1)]
  | .fmin d a b | .fmax d a b => [(d, 1), (a, 1), (b, 1)]
  | .fclass d a | .frcp d a | .frsq d a | .fexp2 d a | .flog2 d a | .fsin d a | .fcos d a => [(d, 1), (a, 1)]
  | .fsqrt d a _ => [(d, 1), (a, 1)]
  | .fred d a => [(d, 2), (a, 1)]
  | .cvt d a _ _ _ _ | .cvtF32Mx d a _ _ _ => [(d, 1), (a, 1)]
  | .qmx d a b _ => [(a, 32), (b, 1), (d, qmxRegs (slotA w))]
  | .dqmx d a b _ => [(a, 1), (b, 1), (d, dqmxRegs (slotA w))]
  | .pslice d a => [(d, 8), (a, 8)]
  | .pmerge d a p => [(d.val, 8), (a.val, p.val)]
  | .shfl d a b _ _ => [(d, 1), (a, 1), (b, 1)]
  | .shflImm d a _ _ _ | .vmatch d a => [(d, 1), (a, 1)]
  | .voteMask d _ | .voteCount d _ | .voteFirst d _ => [(d, 1)]
  | .ldB8 d a _ _ _ _ | .ldB16 d a _ _ _ _ | .ldB32 d a _ _ _ _ => [(d, 1), (a, 2)]
  | .ldB64 d a _ _ _ _ => [(d, 2), (a, 2)]
  | .ldB128 d a _ _ _ _ => [(d, 4), (a, 2)]
  | .stB8 d a _ _ _ | .stB16 d a _ _ _ | .stB32 d a _ _ _ => [(d, 1), (a, 2)]
  | .stB64 d a _ _ _ => [(d, 2), (a, 2)]
  | .stB128 d a _ _ _ => [(d, 4), (a, 2)]
  | .lds d a z _ _ | .sts d a z _ _ => [(d, regsOf z), (a, 1)]
  | .qpush d _ | .qpop d _ => [(d, 4)]
  | .pref a _ | .cinv a _ | .cflush a _ | .kld _ a _ _ _ _ | .kst _ a _ _ _ => [(a, 2)]
  | .kadd _ a _ | .kscl _ a | .kseg _ a _ | .kstat _ a | .krnd _ a _ _ _ => [(a, 1)]
  | .kfma _ a b _ | .kdot2 _ a b _ | .kdot4 _ a b _ | .kiadd _ a b => [(a, 1), (b, 1)]
  | .mxa _ a b _ _ =>
    [(a.val, if slotPlanes w = 0 then 8 else slotPlanes w), (b.val, 8)] ++
      (if slotMx w then [(a.val + 8, 1), (b.val + 8, 1)] else [])
  | .mxrd a _ _ => [(a, mxrdRegs w)]
  | .mxsp a _ _ | .mxfl a _ _ | .launch a => [(a, 2)]
  | .smodeScratch a | .smodeQueue a => [(a, 1)]
  | .atom d a b _ z _ _ _ _ => [(d, regsOf z), (a, 2), (b, regsOf z)]
  | .atomNr a b _ z _ _ _ _ => [(a, 2), (b, regsOf z)]
  | .cas d a b c z _ _ _ _ => [(d, regsOf z), (a, 2), (b, regsOf z), (c, regsOf z)]
  | .aacc a b _ _ _ _ => [(a, 2), (b, 1)]
  | .aaccMul a b c _ _ _ _ => [(a, 2), (b, 1), (c, 1)]
  | .amrg a _ _ _ _ | .amrgNeg a _ _ _ _ => [(a, 2)]
  | .cpy a _ | .gthr a _ => [(a, 8)]
  | .coll a _ _ | .rowrel a => [(a, 2)]
  | .rowpin d a | .rowqry d a => [(d, 1), (a, 2)]
  | _ => []

/-- The k registers a word names (R68). -/
def kUses : Instr → List KReg
  | .kclr k | .kadd k _ _ | .kfma k _ _ _ | .kdot2 k _ _ _ | .kdot4 k _ _ _ | .kiadd k _ _ | .knorm k | .kscl k _
  | .kseg k _ _ | .kstat k _ | .krnd k _ _ _ _ | .kld k _ _ _ _ _ | .kst k _ _ _ _ => [k]
  | .kmrg k m | .kmrgNeg k m => [k, m]
  | .amrg _ k _ _ _ | .amrgNeg _ k _ _ _ => [k]
  | _ => []

/-- The slot index a word names (R53). -/
def slotIdx : Instr → Option (Fin 8)
  | .cvtF32Mx _ _ _ _ l | .qmx _ _ _ l | .dqmx _ _ _ l | .mxa _ _ _ l _ | .mxz l _ | .mxrd _ l _ | .mxsp _ l _ | .mxfl _ l _ => some l
  | _ => none
/-- The tile a word names (R333). -/
def tileIdx : Instr → Option (Fin 4)
  | .mxa _ _ _ _ t | .mxz _ t | .mxrd _ _ t | .mxsp _ _ t | .mxfl _ _ t => some t
  | _ => none
/-- The convergence register a word names (R333, R378). -/
def cvIdx : Instr → Option (Fin 16)
  | .mxa v _ _ _ _ | .cvdecl v _ _ | .cvsign v | .cvsignW v => some v
  | _ => none

/-- A slot whose fields the word cannot use (R55, R335, R384, R469): AUX 3. The slots that the matrix words of a launched object name are
checked at launch too (R191). -/
def slotUnusable (w : Word) : Instr → Bool
  | .cvtF32Mx .. | .qmx .. | .dqmx .. => !mxElem (slotA w)
  | .mxa .. | .mxz .. | .mxrd .. | .mxsp .. | .mxfl .. => !slotLegal w
  | _ => false

/-- Alignments that depend on the slot (R91, R384, R469): AUX 2. -/
def slotMisaligned (w : Word) : Instr → Bool
  | .qmx d _ b _ =>
    let n := qmxRegs (slotA w)
    d.val % n != 0 || (decide (d.val ≤ b.val) && decide (b.val < d.val + n))
  | .dqmx d _ _ _ => d.val % dqmxRegs (slotA w) != 0
  | .mxa _ a b _ _ => slotMx w && (a.val == 56 || b.val == 56)
  | _ => false

/-- The AUX value of the ILLEGAL trap a word deserves in a lane (R68, R333, R336), if any: a reserved value, a tile or
cv beyond the team's, an unusable slot, an alignment, a register beyond the budget (log entry 22). -/
def State.illegalAt (s : State) (l : Lane) (i : Instr) : Option Nat :=
  let r := s.laneRec l
  let w := match slotIdx i with | some x => recSlot r x.val | none => 0
  if reservedUse i then some 0
  else if (match tileIdx i with | some t => decide (recNt r ≤ t.val) | none => false) ||
      (match cvIdx i with | some v => decide (recNcv r ≤ v.val) | none => false) then some 1
  else if slotUnusable w i then some 3
  else if misaligned i || slotMisaligned w i then some 2
  else if (vUses w i).any (fun u => decide (l.vb < u.1 + u.2)) || (kUses i).any (fun k => decide (l.kb ≤ k.val)) then some 1
  else none

/-- A word acts if it is legal; otherwise every active lane takes ILLEGAL and nothing else changes (R14). -/
def guarded (i : Instr) (s : State) (k : State → State) : Host.Outcome State Fault Refusal :=
  match s.lead with
  | none => .next s
  | some l =>
    match s.illegalAt l i with
    | some a => .next (raiseIllegal s a)
    | none => .next (k s)

/-- A word whose effect is one function of each active lane, which then goes on (R77, R346). -/
def laneOp (i : Instr) (s : State) (f : Lane → Lane) : Host.Outcome State Fault Refusal :=
  guarded i s fun s => mapActive s fun l => (f l).adv (instrLen i)

/-- A word whose effect in a lane also raises flags in the lane's group (R39). -/
def laneOpF (i : Instr) (s : State) (f : Lane → Lane × BitVec 5) : Host.Outcome State Fault Refusal :=
  guarded i s fun s =>
    (s.actives.foldl (fun s l => s.orFlags l.id (f l).2) (mapActive s fun l => ((f l).1).adv (instrLen i)))

/-! ## Addresses (R107) -/

/-- The effective address of a base pair and a signed offset: the 64-bit sum. -/
def Lane.ea (l : Lane) (a : VReg) (off : Int) : Nat := (l.pair a + BitVec.ofInt 64 off).toNat

/-! ## Packed elements (R26) -/

def half (w : Word) (j : Nat) : Nat := fld w.toNat (16 * j) 16
def byteOf (w : Word) (j : Nat) : Nat := fld w.toNat (8 * j) 8
def nibble (w : Word) (j : Nat) : Nat := fld w.toNat (4 * j) 4
/-- Replace bits [lo + n - 1 : lo] of a word. -/
def putField (w : Word) (lo n x : Nat) : Word :=
  BitVec.ofNat 32 (w.toNat - fld w.toNat lo n * 2 ^ lo + x % 2 ^ n * 2 ^ lo)

/-- The value of a matrix or MX element of a slot code (R22, R25, R28): int8 is the integer, or the integer x 2^-6 in an
MX block. -/
def elemNum (code : Nat) (mx : Bool) (bits : Nat) : Num :=
  match slotFmt code with
  | some f => f.decode bits
  | none => Num.ofInt (signedOf 8 bits) (if mx then -6 else 0) false

end Sys2Proof.Machine
end

