-- ==== Sys2Proof/Machine/Flags.lean ====
section
/-! DEFINITION. Results with flags (R35 to R39): rounding to FP32 and the packed halves. -/
namespace Sys2Proof.Machine
open Sys2Proof

/-- An exact result with the flags its operation raised, rounded once to a format (R35). -/
def roundResult (f : Fmt) (rm : Rm) (x : Num × Flags) : Nat × Flags :=
  let r := f.round rm false x.1
  (r.1, x.2 ||| r.2)

/-- A word with the flags of its rounding. -/
def toWord (x : Nat × Flags) : Word × Flags := (BitVec.ofNat 32 x.1, x.2)

def f32Of (w : Word) : Num := fmtF32.decode w.toNat
def addF (f : Fmt) (rm : Rm) (a b : Nat) : Nat × Flags := roundResult f rm (Num.add rm (f.decode a) (f.decode b))
def subF (f : Fmt) (rm : Rm) (a b : Nat) : Nat × Flags := roundResult f rm (Num.add rm (f.decode a) (f.decode b).neg)
def mulF (f : Fmt) (rm : Rm) (a b : Nat) : Nat × Flags := roundResult f rm (Num.mul (f.decode a) (f.decode b))
/-- a x b + c with one rounding (R35); NV also for a signalling addend. -/
def fmaF (f : Fmt) (rm : Rm) (a b c : Nat) : Nat × Flags :=
  let p := Num.mul (f.decode a) (f.decode b)
  let q := Num.add rm p.1 (f.decode c)
  roundResult f rm (q.1, p.2 ||| q.2)

/-- An operation on both halves of a word, the flags of both (R395, R396). -/
def halves (f : Nat → Nat × Flags) : Word × Flags :=
  let lo := f 0
  let hi := f 1
  (BitVec.ofNat 32 (lo.1 + hi.1 * 2 ^ 16), lo.2 ||| hi.2)

end Sys2Proof.Machine
end

