-- ==== Sys2Proof/Machine/MemOperands.lean ====
section
/-! DEFINITION. The operand words of the instructions that access memory: what they read at issue, the address they form, and what
kind of access they make (R78, R107, R314, R353, R446). -/
namespace Sys2Proof.Machine
open Sys2Proof

/-- A number in consecutive registers from d (R314). -/
def regsFrom (d : VReg) (n x : Nat) : List (Nat × Word) := (List.range n).map fun j => (d.val + j, BitVec.ofNat 32 (fld x (32 * j) 32))
/-- The number n words hold, the first lowest. -/
def wordsNat : List Word → Nat
  | [] => 0
  | w :: r => w.toNat + 2 ^ 32 * wordsNat r
/-- The address of a base pair's words and a byte offset (R107). -/
def eaOf (lo hi : Word) (off : Int) : Nat := ((hi ++ lo) + BitVec.ofInt 64 off).toNat

/-- The scratch address of LDS and STS, formed without wrap (R446). -/
def scratchAddr (a : Word) (i : BitVec 5) (z : Size) : Int := a.toNat + i.toInt * z.bytes

/-- The operand words a memory instruction reads at issue (R78): base pair or address first, then its data. -/
def srcsOf (l : Lane) : Instr → List Word
  | .ldB8 _ a _ _ _ _ | .ldB16 _ a _ _ _ _ | .ldB32 _ a _ _ _ _ | .ldB64 _ a _ _ _ _ | .ldB128 _ a _ _ _ _ => l.vs a 2
  | .stB8 _ a _ _ _ | .stB16 _ a _ _ _ | .stB32 _ a _ _ _ | .stB64 _ a _ _ _ | .stB128 _ a _ _ _ => l.vs a 2
  | .kld _ a _ _ _ _ | .kst _ a _ _ _ => l.vs a 2
  | .lds _ a _ _ _ | .sts _ a _ _ _ => l.vs a 1
  | .atom _ a b _ z _ _ _ _ | .atomNr a b _ z _ _ _ _ => l.vs a 2 ++ l.vs b (regsOf z)
  | .cas _ a b c z _ _ _ _ => l.vs a 2 ++ l.vs b (regsOf z) ++ l.vs c (regsOf z)
  | .aacc a b _ _ _ _ => l.vs a 2 ++ l.vs b 1
  | .aaccMul a b c _ _ _ _ => l.vs a 2 ++ l.vs b 1 ++ l.vs c 1
  | .amrg a _ _ _ _ | .amrgNeg a _ _ _ _ => l.vs a 2
  | _ => []

def srcAt (srcs : List Word) (i : Nat) : Word := (srcs[i]?).getD 0
/-- The byte offset of a global access. -/
def byteOff : Instr → Int
  | .ldB8 _ _ _ _ _ i | .stB8 _ _ _ _ i => i.toInt
  | .ldB16 _ _ _ _ _ i | .stB16 _ _ _ _ i => i.toInt * 2
  | .ldB32 _ _ _ _ _ i | .stB32 _ _ _ _ i => i.toInt * 4
  | .ldB64 _ _ _ _ _ i | .stB64 _ _ _ _ i => i.toInt * 8
  | .ldB128 _ _ _ _ _ i | .stB128 _ _ _ _ i => i.toInt * 16
  | .kld _ _ _ _ _ i | .kst _ _ _ _ i => i.toInt * 128
  | .atom _ _ _ _ _ _ _ _ i | .atomNr _ _ _ _ _ _ _ i | .cas _ _ _ _ _ _ _ _ i => i.toInt
  | .aacc _ _ _ _ _ i | .aaccMul _ _ _ _ _ _ i | .amrg _ _ _ _ i | .amrgNeg _ _ _ _ i => i.toInt
  | _ => 0
/-- log2 of the alignment an access requires (R108, R224). -/
def alignLog : Instr → Nat
  | .ldB16 .. | .stB16 .. => 1
  | .ldB32 .. | .stB32 .. => 2
  | .ldB64 .. | .stB64 .. => 3
  | .ldB128 .. | .stB128 .. => 4
  | .lds _ _ z _ _ | .sts _ _ z _ _ => Nat.log2 z.bytes
  | .atom _ _ _ _ z _ _ _ _ | .atomNr _ _ _ z _ _ _ _ | .cas _ _ _ _ z _ _ _ _ => Nat.log2 z.bytes
  | .kld .. | .kst .. | .aacc .. | .aaccMul .. | .amrg .. | .amrgNeg .. => 7
  | _ => 0
/-- The effective address of a global access. -/
def eaSrc (i : Instr) (srcs : List Word) : Nat := eaOf (srcAt srcs 0) (srcAt srcs 1) (byteOff i)

/-- Does an ATOM or CAS select scratch (R353)? -/
def atomScratch (srcs : List Word) : Bool := (srcAt srcs 1).getLsbD 31
/-- The scratch address of an ATOM or CAS (R353). -/
def atomScratchAddr (i : Instr) (srcs : List Word) : Int := (srcAt srcs 0).toNat + byteOff i

/-- Does an access only read? -/
def readOnly : Instr → Bool
  | .ldB8 .. | .ldB16 .. | .ldB32 .. | .ldB64 .. | .ldB128 .. | .kld .. | .lds .. => true
  | _ => false
/-- Is an access a .any load (R182)? -/
def anyLoad : Instr → Bool
  | .ldB8 _ _ _ o f _ | .ldB16 _ _ _ o f _ | .ldB32 _ _ _ o f _ | .ldB64 _ _ _ o f _ | .ldB128 _ _ _ o f _ => !f && o == .rlx
  | _ => false
/-- Does an access fall on scratch? -/
def onScratch (i : Instr) (srcs : List Word) : Bool :=
  match i with
  | .lds .. | .sts .. => true
  | .atom .. | .atomNr .. | .cas .. => atomScratch srcs
  | _ => false
/-- The bytes of a global access. -/
def spanOf : Instr → Nat
  | .ldB8 .. | .stB8 .. => 1
  | .ldB16 .. | .stB16 .. => 2
  | .ldB32 .. | .stB32 .. => 4
  | .ldB64 .. | .stB64 .. => 8
  | .ldB128 .. | .stB128 .. => 16
  | .kld .. | .kst .. | .aacc .. | .aaccMul .. | .amrg .. | .amrgNeg .. => 96
  | .atom _ _ _ _ z _ _ _ _ | .atomNr _ _ _ z _ _ _ _ | .cas _ _ _ _ z _ _ _ _ => z.bytes
  | _ => 0
end Sys2Proof.Machine
end

