-- ==== Sys2Proof/Machine/Faults.lean ====
section
/-! DEFINITION. Page faults and parks (R229 to R234), deferred results and switch markers (R77 to R82), steps
(R242). -/
namespace Sys2Proof.Machine
open Sys2Proof

/-! ## Page faults -/

/-- The next fault identifier not outstanding (R230). -/
def Part.freeFid (p : Part) : Nat :=
  let wrap := fun n => (n - 1) % (2 ^ 24 - 1) + 1
  (((List.range 4097).map fun i => wrap (p.nextFid + i)).find? fun f => !p.faults.any (fun r => r.fid == f)).getD (wrap p.nextFid)

/-- Does a lane's fault share the record of another: one instruction, one 4 KiB page, one bundle's team and quarter
(R229)? -/
def sameFault (l : Lane) (f : PageFault × DWord × Nat) (m : Lane) : Bool :=
  match m.pfault with
  | some g =>
    m.id.tid == l.id.tid && m.quarter == l.quarter && g.2.1 == f.2.1 && g.2.2 == f.2.2 && g.1.reason == f.1.reason &&
      g.1.va / 4096 == f.1.va / 4096 && g.1.write == f.1.write && g.1.fetch == f.1.fetch
  | none => false

/-- Write the PAGE record of a lane's fault and park the lanes that share it (R229, R230, R234). -/
def State.pageRecord (s : State) (l : Lane) (f : PageFault × DWord × Nat) : State :=
  let x := s.part l.part
  if 16 ≤ f.2.2 then
    ({ s with lanes := s.lanes.map fun m => if sameFault l f m then { m with pfault := none } else m }).halt l.part 0x20 0 (some (s.laneWho l f.2.1))
  else if 4096 ≤ x.faults.length then
    { s with lanes := s.lanes.map fun m => if sameFault l f m then { m with pfault := none } else m }
  else
    let fid := x.freeFid
    let ids := (s.lanes.filter (sameFault l f)).map fun m => (m.id, m.pfault.elim 0 (·.1.va))
    let mask := (ids.map fun i => 2 ^ i.1.slot).foldl (· ||| ·) 0
    let s1 := s.modPart l.part fun x =>
      { x with nextFid := fid % (2 ^ 24 - 1) + 1,
               faults := x.faults ++ [{ fid := fid, fault := f.1, pc := f.2.1, lanes := ids, xfer := none, coll := none, repeats := f.2.2 }] }
    let go := fun m : Lane =>
      if sameFault l f m then { m with pfault := none, park := .fault fid, bundle := none, issuing := false } else m
    let s2 : State := { s1 with lanes := s1.lanes.map go }
    s2.record l.part
      { s2.laneRecd l 1 with reason := f.1.reason, repeats := f.2.2, fid := fid, lanes := mask, pc := f.2.1.toNat,
                             va := f.1.va, flags := bit f.1.write + 2 * bit f.1.fetch }

/-- Record and park every lane that has just met a page fault. -/
def State.takePages (s : State) : State :=
  (s.lanes.filter fun l => l.pfault.isSome).foldl
    (fun s l0 =>
      match s.lane? l0.id with
      | some l => match l.pfault with
        | some f => s.pageRecord l f
        | none => s
      | none => s) s

/-- A lane meets a page fault at its PC: precise, the word has no effect (R82, R229). -/
def Lane.pageHere (l : Lane) (f : PageFault) : Lane :=
  { l with pfault := some (f, l.pc, l.repeats), bundle := none, issuing := false, skipped := true }

/-- The PAGE record of an engine transfer or a collective (R209, R229, R525). -/
def State.enginePage (s : State) (p : Nat) (recd : Rec) (f : PageFault) (lane : LaneId) (xfer coll : Option Nat)
    (repeats : Nat) : State × Option Nat :=
  let x := s.part p
  if 16 ≤ repeats then (s.halt p 0x20 0 (some { launch := recd.launch, team := recd.team, quarter := recd.quarter, group := recd.group, lanes := recd.lanes, pc := recd.pc }), none)
  else
    let fid := x.freeFid
    let s1 := s.modPart p fun x =>
      { x with nextFid := fid % (2 ^ 24 - 1) + 1,
               faults := x.faults ++ [{ fid := fid, fault := f, pc := BitVec.ofNat 64 recd.pc, lanes := [(lane, f.va)], xfer := xfer, coll := coll, repeats := repeats }] }
    (s1.record p { recd with kind := 1, reason := f.reason, repeats := repeats, fid := fid, va := f.va,
                             flags := 4 + bit f.write }, some fid)

/-! ## Deferred results -/

def Deferred.faulted (d : Deferred) : Bool :=
  match d.wait with
  | .page _ _ | .dataUe _ _ _ => true
  | _ => false

/-- Note a deferred result (R78), of a k register with its pending carries; its destination keeps its value until the result is written. -/
def Lane.deferK (l : Lane) (i : Instr) (srcs : List Word) (vdst : List (Nat × Word)) (kdst : List (Nat × LA)) (kcar : BitVec 80)
    (flags : BitVec 5) (w : Wait) : Lane :=
  { l with deferred := l.deferred ++
             [{ n := l.nextDef, pc := l.pc, instr := i, srcs := srcs, vdst := vdst, kdst := kdst, touched := [], kcar := kcar, flags := flags,
                sounded := 0, wait := w }],
           nextDef := l.nextDef + 1 }
/-- Note any other deferred result. -/
def Lane.defer (l : Lane) (i : Instr) (srcs : List Word) (vdst : List (Nat × Word)) (kdst : List (Nat × LA))
    (flags : BitVec 5) (w : Wait) : Lane := l.deferK i srcs vdst kdst 0 flags w

/-- An immediate word whose fault is taken as a deferred one is (R82, R175), a lost peer store under the name of NOP (R299): it is none of the
deferred instructions of R77. -/
def immediateAccess : Instr → Bool
  | .atomNr .. | .aacc .. | .aaccMul .. | .amrg .. | .amrgNeg .. | .kst .. | .cflush .. => true
  | .stB8 .. | .stB16 .. | .stB32 .. | .stB64 .. | .stB128 .. | .nop => true
  | _ => false
/-- A lane has room for one more deferred instruction (R81). -/
def Lane.room (l : Lane) : Bool := (l.deferred.filter fun d => !immediateAccess d.instr).length < 32

/-- A deferred instruction without side effects: its values are computed at issue (R78) and written later (R523). -/
def deferOp (i : Instr) (s : State) (f : Lane → List (Nat × Word) × BitVec 5) : Host.Outcome State Fault Refusal :=
  guarded i s fun s => mapActive s fun l =>
    if l.room then (l.defer i [] (f l).1 [] (f l).2 .ready).adv (instrLen i) else l.stall

/-! ## Markers -/

/-- The page fault that a lane parked at a marker takes first, with its PC and its repeats. -/
def Lane.firstPage (l : Lane) : Option (PageFault × DWord × Nat) :=
  if l.marker && l.park == .ready then
    match l.deferred.find? Deferred.faulted with
    | some d => match d.wait with
      | .page f n => some (f, d.pc, n)
      | _ => none
    | none => none
  else none
/-- Do two lanes come from one bundle to the marker that they are parked at, with a fault of one instruction on one page (R229)? -/
def shareMarker (l m : Lane) : Bool :=
  m.id.tid == l.id.tid && m.quarter == l.quarter && m.pc == l.pc && m.since == l.since &&
    match l.firstPage, m.firstPage with
    | some f, some g =>
      g.2.1 == f.2.1 && g.2.2 == f.2.2 && g.1.reason == f.1.reason && g.1.va / 4096 == f.1.va / 4096 && g.1.write == f.1.write
    | _, _ => false
/-- A lane at a marker takes its first deferred page fault together with the lanes that share its record, once none of them waits for
another result (R82, R229). -/
def State.takeShare (s : State) (l : Lane) : State :=
  let waits := fun m : Lane => m.deferred.any fun d => !d.faulted && d.wait != .ordered
  if s.lanes.any fun m => shareMarker l m && waits m then s
  else
    let go := fun m : Lane =>
      if shareMarker l m && m.deferred.all Deferred.faulted then { m with pfault := m.firstPage, trap := none } else m
    { s with lanes := s.lanes.map go }

/-- A lane whose marker park ends: its results stand (R80), and it becomes ready (R75), or waits for the event of its EVWAIT (R390). -/
def Lane.unmarked (l : Lane) (cycle : Nat) : Lane :=
  { l.landed with marker := false, since := max l.since cycle, evw := none, park := l.evw.elim l.park fun x => .evwait x.1 x.2 }
/-- A lane without the deferred instructions that follow a fault it takes in a handler: those that fault too are taken after the
return, in program order (R82). -/
def Lane.setAside (l : Lane) (r : List Deferred) : Lane :=
  { l with deferred := [], later := if r.isEmpty then l.later else (l.depth, r) :: l.later, marker := false, trap := none }
/-- A lane parked at a marker, or waiting to enter a trap, with every result that can return written: it goes on, or
takes its first deferred fault (R79, R82, R226). From a trap at the marker of an EVWAIT whose event is still short it returns to that word
(DESIGN CHOICE, log entry 30). -/
def State.settleMarker (s : State) (l : Lane) : State :=
  if !l.marker && l.trap.isNone then s
  else if l.deferred.any (fun d => !d.faulted) then s
  else
    match l.deferred with
    | [] => if l.marker then s.setLane (l.unmarked s.cycle) else s
    | d :: r =>
      if l.park ≠ .ready then s else
      match d.wait with
      | .page f n => if l.marker then s.takeShare l else s.setLane { l with pfault := some (f, d.pc, n), trap := none, marker := true }
      | .dataUe aux tval rpl =>
        s.trapEntry { l.setAside r with replay := if rpl then some d else l.replay }
          { cause := causeDataUe, aux := aux, tval := tval, fpc := d.pc, epc := if l.evw.isSome then l.pc - 4 else l.pc, rpl := rpl }
      | _ => s

/-- A stepped lane whose word has completed takes its STEP trap (R242). -/
def State.settleStep (s : State) (l : Lane) : State :=
  match l.stepPend with
  | some pc =>
    if l.park = .ready ∧ !l.marker ∧ l.trap.isNone ∧ l.pfault.isNone then
      s.raise { l with stepPend := none } { cause := causeStep, aux := 0, tval := pc, fpc := pc, epc := l.pc, rpl := false }
    else s
  | none => s

def State.onLane (s : State) (id : LaneId) (f : State → Lane → State) : State :=
  match s.lane? id with
  | some l => f s l
  | none => s

/-- Settle markers, faults and steps of the given lanes. -/
def State.settle (s : State) (ids : List LaneId) : State :=
  let s1 := ids.foldl (fun s id => s.onLane id State.settleMarker) s
  let s2 := s1.takePages
  ids.foldl (fun s id => s.onLane id State.settleStep) s2

/-- Words that behave as marked act once the lane's deferred results have been written and its deferred faults raised:
the lanes that have some wait at the word and issue it again (R79, R225, R391, R410). -/
def waitFirst (s : State) (k : State → State) : State :=
  let s1 := mapActive s fun l => if l.deferred.isEmpty then l.landed else { l.stall with marker := true }
  if s1.actives.isEmpty then s1 else k s1

/-! ## Earlier accesses (R180) -/

/-- A deferred access that has not been performed: its point is still to come. -/
def Deferred.unperformed (d : Deferred) : Bool :=
  match d.wait with
  | .peer _ | .again _ | .ordered | .page _ _ => true
  | .dataUe _ _ rpl => rpl
  | .ready | .engine _ => false
/-- Does an ordered atomic of the lane wait for its turn (R356)? -/
def State.holdsAtom (s : State) (l : Lane) : Bool := (s.team? l.id.tid).elim false fun t => t.ordered.any fun a => a.lane == l.id
/-- A lane's deferred instructions, those that its traps hold among them. -/
def Lane.allDeferred (l : Lane) : List Deferred := l.deferred ++ l.replay.toList ++ l.later.flatMap (·.2)
/-- The accesses of a lane that are not performed, which a release comes after (R180). -/
def State.boundOf (s : State) (l : Lane) : Bound :=
  { defs := (l.allDeferred.filter Deferred.unperformed).map (·.n),
    atoms := (((s.team? l.id.tid).elim [] (·.ordered)).filter fun a => a.lane == l.id).map (·.id),
    reqs := (s.peers.filter fun r => r.lane == some l.id && r.n.isNone).map (·.id) }
def Bound.free (b : Bound) : Bool := b.defs.isEmpty && b.atoms.isEmpty && b.reqs.isEmpty
/-- Are the accesses of a bound performed? -/
def State.passed (s : State) (id : LaneId) (b : Bound) : Bool :=
  (s.lane? id).elim true (fun l => !l.allDeferred.any fun d => d.unperformed && b.defs.contains d.n) &&
    (s.team? id.tid).elim true (fun t => !t.ordered.any fun a => b.atoms.contains a.id) && !s.peers.any fun r => b.reqs.contains r.id
/-- Has the lane an access whose performance point is still to come? -/
def State.outstanding (s : State) (l : Lane) : Bool := l.deferred.any Deferred.unperformed || s.holdsAtom l
/-- A word held back for the performance of earlier accesses; a fault of one of them is taken first, as at a marker (log entry 54). -/
def Lane.hold (l : Lane) (faulted : Bool) : Lane := { l.stall with marker := l.marker || faulted }
/-- A word that is a release (R180): the lanes with accesses still to be performed wait at the word and issue it again. -/
def releaseFirst (s : State) (k : State → State) : State :=
  let s1 := mapActive s fun l => if s.outstanding l then l.hold (l.deferred.any Deferred.faulted) else l
  if s1.actives.isEmpty then s1 else k s1

/-! ## Release of parks -/

/-- Lanes that resume together, of one group at one address, take one path from there (R483). -/
def State.together (s : State) (f : Lane → Bool) : State :=
  let key := fun l : Lane => (l.id.tid, l.id.grp, l.pc)
  let ks := ((s.lanes.filter f).map key).eraseDups
  { s with lanes := s.lanes.map fun l => if f l then { l with way := s.nextId + ks.findIdx (· == key l), trail := [] } else l,
           nextId := s.nextId + ks.length }

/-- Lanes parked for a reason that has come about go on (R204, R214 to R217): they are ready at once, and a marker or
step that waited for the park is settled. -/
def State.release (s : State) (f : Lane → Bool) : State :=
  let ids := (s.lanes.filter f).map (·.id)
  let go := fun l : Lane => if f l then { l with park := .ready, since := s.cycle } else l
  State.settle { s with lanes := s.lanes.map go } ids

end Sys2Proof.Machine
end

