-- ==== Sys2Proof/Machine/Convert.lean ====
section
/-! DEFINITION. Conversions (R335, R380 to R383), MX quantisation and expansion (R384, R385, R469, R470), planes
(R31, R32, R465, R466). -/
namespace Sys2Proof.Machine
open Sys2Proof

/-! ## Integer results (R381) -/

/-- FP32 to a 32-bit integer between lo and hi; `bad` is the result out of range without saturation. -/
def toIntW (lo hi : Int) (bad : Nat) (rm : Rm) (sat : Bool) (x : Nat) : Nat × Flags :=
  let bits := fun i : Int => (BitVec.ofInt 32 i).toNat
  let clamp := fun n : Bool => (if !sat then bad else bits (if n then lo else hi), flagNV)
  match fmtF32.decode x with
  | .nan _ => (if sat then 0 else bad, flagNV)
  | .inf n => clamp n
  | .zero _ => (0, 0)
  | .fin n m e =>
    let r := roundInt rm n m e
    if hi < r.1 ∨ r.1 < lo then clamp n else (bits r.1, if r.2 then flagNX else 0)

/-- .i8.i32 (R381). -/
def toI8 (sat : Bool) (x : Word) : Nat × Flags :=
  if !sat then (x.toNat % 256, 0)
  else if 127 < x.toInt then (127, flagOF)
  else if x.toInt < -128 then (128, flagOF)
  else (x.toNat % 256, 0)

/-! ## CVT by code (R335) -/

/-- A widened element: exact, NV for a signalling source (R382). -/
def widen (f : Fmt) (x : Nat) : Word × Flags := toWord (fmtF32.round .rne false (f.decode x))
/-- A narrowed element in field j of d (R324, R382). -/
def narrow (f : Fmt) (n j : Nat) (rm : Rm) (sat : Bool) (z x : Word) : Word × Flags :=
  let r := f.round rm sat (f32Of x)
  (putField z (n * j) n r.1, r.2)

/-- CVT of x, with v[d] = z for the codes that write part of it (R335, R381, R382). -/
def cvtW (k : Nat) (rm : Rm) (sat : Bool) (z x : Word) : Word × Flags :=
  if k = 0x00 then toWord (toIntW (-0x80000000) 0x7FFFFFFF 0x80000000 rm sat x.toNat)
  else if k = 0x01 then toWord (toIntW 0 0xFFFFFFFF 0xFFFFFFFF rm sat x.toNat)
  else if k = 0x02 then toWord (fmtF32.round rm false (Num.ofInt x.toInt 0 false))
  else if k = 0x03 then toWord (fmtF32.round rm false (Num.ofInt x.toNat 0 false))
  else if k ≤ 0x05 then narrow fmtBf16 16 (k - 0x04) rm sat z x
  else if k ≤ 0x07 then narrow fmtF16 16 (k - 0x06) rm sat z x
  else if k ≤ 0x09 then widen fmtBf16 (half x (k - 0x08))
  else if k ≤ 0x0B then widen fmtF16 (half x (k - 0x0A))
  else if k ≤ 0x13 then narrow fmtE4m3 8 (k - 0x10) rm sat z x
  else if k ≤ 0x17 then narrow fmtE5m2 8 (k - 0x14) rm sat z x
  else if k ≤ 0x1B then widen fmtE4m3 (byteOf x (k - 0x18))
  else if k ≤ 0x1F then widen fmtE5m2 (byteOf x (k - 0x1C))
  else if k ≤ 0x27 then narrow fmtE2m1 4 (k - 0x20) rm sat z x
  else if k ≤ 0x2F then widen fmtE2m1 (nibble x (k - 0x28))
  else if k ≤ 0x33 then
    let r := toI8 sat x
    (putField z (8 * (k - 0x30)) 8 r.1, r.2)
  else (BitVec.ofInt 32 (signedOf 8 (byteOf x (k - 0x34))), 0)

/-- CVT without a slot: immediate (R380). -/
def execCvt (d a : VReg) (k : Fin 64) (r : Rm) (t : Bool) (l : Fin 8) (s : State) : Host.Outcome State Fault Refusal :=
  laneOpF (.cvt d a k r t l) s fun x =>
    let q := cvtW k.val r t (x.getV d) (x.getV a)
    (x.setV d q.1, q.2)

/-! ## MX blocks -/

/-- Element j of a register in an MX element format (R26). -/
def mxElemBits (fmt : Nat) (w : Word) (j : Nat) : Nat := if fmt = 5 then nibble w j else byteOf w j
/-- An MX element at its scale, rounded once to FP32: NV for a signalling E5M2 element whatever the scale (R28, R383,
R385). -/
def mxToF32 (fmt : Nat) (rm : Rm) (w : Word) (j scale : Nat) : Word × Flags :=
  let x := elemNum fmt true (mxElemBits fmt w j)
  let r := fmtF32.round rm false (x.mxScale scale)
  (BitVec.ofNat 32 r.1, r.2 ||| (if x.isSig then flagNV else 0))

/-- CVT .f32.mx (R383): deferred; the scale is read from v[d]. -/
def execCvtF32Mx (d a : VReg) (j : Fin 4) (r : Rm) (l : Fin 8) (s : State) : Host.Outcome State Fault Refusal :=
  deferOp (.cvtF32Mx d a j r l) s fun x =>
    let w := s.laneSlot x l
    let q := mxToF32 (slotA w) r (x.getV a) j.val (byteOf (x.getV d) 0)
    ([(d.val, q.1)], q.2)

/-- DQMX (R384, R385). -/
def execDqmx (d a b : VReg) (l : Fin 8) (s : State) : Host.Outcome State Fault Refusal :=
  deferOp (.dqmx d a b l) s fun x =>
    let w := s.laneSlot x l
    let n := dqmxRegs (slotA w)
    let q := (List.range n).map fun j => mxToF32 (slotA w) .rne (x.getV a) j (byteOf (x.getV b) 0)
    (q.mapIdx fun j r => (d.val + j, r.1), (q.map (·.2)).foldl (· ||| ·) 0)

/-- emax of a QMX element format (R469). -/
def qmxEmax (fmt : Nat) : Int := if fmt = 3 then 8 else if fmt = 4 then 15 else if fmt = 5 then 2 else 0
/-- The exponent of a non-zero number, floor(log2 |x|). -/
def expOf : Num → Option Int
  | .fin _ m e => some ((Nat.log2 m : Int) + e)
  | _ => none
/-- One quantised element (R470). -/
def qmxElem (w : Word) (y : Num) : Nat × Flags :=
  match slotFmt (slotA w) with
  | some f => f.round (slotRm w) (slotSat w) y
  | none =>
    match y.scale 6 with
    | .fin n m e =>
      let r := roundInt (slotRm w) n m e
      if 127 < r.1 then (127, flagOF ||| flagNX)
      else if r.1 < -128 then (128, flagOF ||| flagNX)
      else ((BitVec.ofInt 8 r.1).toNat, if r.2 then flagNX else 0)
    | _ => (0, 0)
/-- A block of 32 values quantised: scale, elements, flags (R470). -/
def qmxBlock (w : Word) (xs : List Num) : Nat × List Nat × Flags :=
  if xs.any fun x => match x with | .nan _ => true | .inf _ => true | _ => false then (0xFF, xs.map fun _ => 0, flagNV)
  else
    let scale : Nat :=
      match (xs.filterMap expOf).max? with
      | none => 127
      | some e => (min 254 (max 0 (e - qmxEmax (slotA w) + 127))).toNat
    let q := xs.map fun x => qmxElem w (x.scale (127 - (scale : Int)))
    (scale, q.map (·.1), (q.map (·.2)).foldl (· ||| ·) 0)
/-- Pack elements of n bits into words (R26). -/
def packElems (n : Nat) (xs : List Nat) (regs : Nat) : List Word :=
  (List.range regs).map fun r =>
    BitVec.ofNat 32 (((xs.drop (32 / n * r)).take (32 / n)).mapIdx fun i x => x % 2 ^ n * 2 ^ (n * i)).sum

/-- QMX (R469, R470). -/
def execQmx (d a b : VReg) (l : Fin 8) (s : State) : Host.Outcome State Fault Refusal :=
  deferOp (.qmx d a b l) s fun x =>
    let w := s.laneSlot x l
    let q := qmxBlock w ((x.vs a 32).map f32Of)
    let n := qmxRegs (slotA w)
    ((b.val, BitVec.ofNat 32 q.1) :: (packElems (if slotA w = 5 then 4 else 8) q.2.1 n).mapIdx fun i v => (d.val + i, v), q.2.2)

/-! ## Planes (R31, R32) -/

/-- Element i of an octet of INT8 (R26). -/
def octetElem (ws : List Word) (i : Nat) : Nat := byteOf ((ws[i / 4]?).getD 0) (i % 4)
/-- Plane j of an octet (R31). -/
def planeOf (ws : List Word) (j : Nat) : Word :=
  BitVec.ofNat 32 (((List.range 32).map fun i => fld (octetElem ws i) (7 - j) 1 * 2 ^ i).sum)
/-- The weight of plane j (R31). -/
def planeWeight (j : Nat) : Int := if j = 0 then -128 else 2 ^ (7 - j)
/-- The value of element i read from the planes (R32). -/
def planeValue (planes : List Word) (i : Nat) : Int :=
  (planes.mapIdx fun j w => planeWeight j * fld w.toNat i 1).sum

/-- Write consecutive registers from d. -/
def Lane.setVs (l : Lane) (d : VReg) (ws : List Word) : Lane :=
  (ws.mapIdx fun j w => (d.val + j, w)).foldl (fun l e => l.setV! e.1 e.2) l

/-- PSLICE (R466). -/
def execPslice (d a : VReg) (s : State) : Host.Outcome State Fault Refusal :=
  laneOp (.pslice d a) s fun l => l.setVs d ((List.range 8).map (planeOf (l.vs a 8)))
/-- PMERGE (R466). -/
def execPmerge (d a : VReg) (p : Fin 16) (s : State) : Host.Outcome State Fault Refusal :=
  laneOp (.pmerge d a p) s fun l =>
    l.setVs d (packElems 8 ((List.range 32).map fun i => (BitVec.ofInt 8 (planeValue (l.vs a p.val) i)).toNat) 8)

end Sys2Proof.Machine
end

