-- ==== Sys2Proof/Machine/KAcc.lean ====
section
/-! DEFINITION. Operations on k registers (R422 to R440). KLD and KST are in GlobalMem.lean. -/
namespace Sys2Proof.Machine
open Sys2Proof

/-- Elements per register of an fs format (R423). -/
def fsCount (f : Fs) : Nat := 32 / (fsFmt f).width
/-- Element i of a register in an fs format (R423). -/
def fsElem (f : Fs) (w : Word) (i : Nat) : Num := (fsFmt f).decode (fld w.toNat ((fsFmt f).width * i) (fsFmt f).width)
/-- Add elements 0 to n - 1. -/
def addElems (a : LA) (f : Nat → Num) : Nat → LA
  | 0 => a
  | n + 1 => laAdd (addElems a f n) (f n)
/-- k[k] := f k[k]. -/
def kOp (i : Instr) (s : State) (k : KReg) (f : Lane → LA → LA) : Host.Outcome State Fault Refusal :=
  laneOp i s fun l => l.setK k (f l (l.getK k))
/-- The product of element i of two words (R47). -/
def prodElem (f : Fs) (x y : Word) (i : Nat) : Num := laProduct (fsElem f x i) (fsElem f y i)

/-- KCLR (R426). -/
def execKclr (k : KReg) (s : State) : Host.Outcome State Fault Refusal := laneOp (.kclr k) s fun l => l.setKC k LA0 0
/-- KADD (R425). -/
def execKadd (k : KReg) (a : VReg) (f : Fs) (s : State) : Host.Outcome State Fault Refusal :=
  kOp (.kadd k a f) s k fun l x => addElems x (fsElem f (l.getV a)) (fsCount f)
/-- KFMA (R428). -/
def execKfma (k : KReg) (a b : VReg) (f : Fs) (s : State) : Host.Outcome State Fault Refusal :=
  kOp (.kfma k a b f) s k fun l x => laAdd x (prodElem f (l.getV a) (l.getV b) 0)
/-- KDOT2 (R427). -/
def execKdot2 (k : KReg) (a b : VReg) (f : Fs) (s : State) : Host.Outcome State Fault Refusal :=
  kOp (.kdot2 k a b f) s k fun l x => addElems x (prodElem f (l.getV a) (l.getV b)) 2
/-- KDOT4 (R427). -/
def execKdot4 (k : KReg) (a b : VReg) (f : Fs) (s : State) : Host.Outcome State Fault Refusal :=
  kOp (.kdot4 k a b f) s k fun l x => addElems x (prodElem f (l.getV a) (l.getV b)) 4
/-- The addend of KIADD (R429). -/
def kiaddNum (x sc : Int) : Num := if sc < -298 ∨ 309 < sc then .nan false else Num.ofInt x sc false
/-- KIADD (R429). -/
def execKiadd (k : KReg) (a b : VReg) (s : State) : Host.Outcome State Fault Refusal :=
  kOp (.kiadd k a b) s k fun l x => laAdd x (kiaddNum (l.getV a).toInt (l.getV b).toInt)
/-- KMRG (R434). -/
def execKmrg (k m : KReg) (s : State) : Host.Outcome State Fault Refusal :=
  kOp (.kmrg k m) s k fun l x => laMerge x (l.getK m) false
/-- KMRG.neg (R434). -/
def execKmrgNeg (k m : KReg) (s : State) : Host.Outcome State Fault Refusal :=
  kOp (.kmrgNeg k m) s k fun l x => laMerge x (l.getK m) true
/-- KNORM leaves value and status, and no pending carry (R435). -/
def execKnorm (k : KReg) (s : State) : Host.Outcome State Fault Refusal := laneOp (.knorm k) s fun l => l.setKC k (l.getK k) 0
/-- KSCL's value (R438). -/
def ksclVal (v : BitVec 640) (sh : Int) : BitVec 640 :=
  let c := max (-640) (min 640 sh)
  if 0 ≤ c then BitVec.ofInt 640 (v.toInt * 2 ^ c.toNat) else BitVec.ofInt 640 (v.toInt / 2 ^ (-c).toNat)
/-- KSCL (R438). -/
def execKscl (k : KReg) (a : VReg) (s : State) : Host.Outcome State Fault Refusal :=
  kOp (.kscl k a) s k fun l x => { x with val := ksclVal x.val (l.getV a).toInt }
/-- KSEG (R439). -/
def execKseg (k : KReg) (a : VReg) (b : Fin 64) (s : State) : Host.Outcome State Fault Refusal :=
  deferOp (.kseg k a b) s fun l => ([(a.val, BitVec.ofNat 32 (fld (l.getK k).val.toNat (32 * b.val) 32))], 0)
/-- KSTAT (R440). -/
def execKstat (k : KReg) (a : VReg) (s : State) : Host.Outcome State Fault Refusal :=
  deferOp (.kstat k a) s fun l => ([(a.val, BitVec.ofNat 32 (laStatus (l.getK k)))], 0)
/-- KRND (R436, R437). -/
def execKrnd (k : KReg) (a : VReg) (t : Bool) (r : Rm) (f : Fs) (s : State) : Host.Outcome State Fault Refusal :=
  deferOp (.krnd k a t r f) s fun l =>
    let q := toWord (roundLa (l.getK k) (fsFmt f) r t)
    ([(a.val, q.1)], q.2)

end Sys2Proof.Machine
end

