-- ==== Sys2Proof/Machine/Issue.lean ====
section
/-! DEFINITION. Issue: which lanes are ready (R70), how bundles form (R71) and are chosen (R75, R94), fetching and
checking a packet's words (R309 to R313), and what follows an issued word: markers, pruning, steps, counters. -/
namespace Sys2Proof.Machine
open Sys2Proof

/-! ## Ready lanes -/

/-- Is a group of the lane's team holding the other groups (FRZ, R242): a lane of it is in a STEP or BKPT handler? -/
def State.frzHeld (s : State) (l : Lane) : Bool :=
  match s.team? l.id.tid with
  | some t =>
    t.groups.any fun g => g.idx != l.id.grp && g.dbgctl.getLsbD 1 &&
      s.lanes.any fun m => m.id.tid == l.id.tid && m.id.grp == g.idx && m.park != .exited && !m.dbg.isEmpty
  | none => false

/-- Lanes that such a group held in state `s0` and holds no longer become ready now (R75). -/
def State.thaw (s s0 : State) : State :=
  { s with lanes := s.lanes.map fun l =>
      if (s0.lane? l.id).elim false s0.frzHeld && !s.frzHeld l then { l with since := max l.since (s.cycle + 1) } else l }

def State.isFrozen (s : State) (q : Nat) : Bool := s.frozen.any fun e => e.quarter == q

/-! ### The object a lane executes within (R310, R313) -/

/-- The object a lane executes within: address of its first packet and its bytes (R192, R313). -/
def State.objOf (s : State) (l : Lane) : Nat × Nat :=
  match l.obj with
  | .handler => ((s.part l.part).tvec.toNat + 64, (s.part l.part).tvecSize)
  | .launched =>
    let r := s.laneRec l
    match (s.part l.part).admitted.find? fun o => o.code == recCode r && o.ctx == recCtx r % 16 with
    | some o => (recCode r + 64, o.size)
    | none => (recCode r + 64, 0)
/-- Is an address a packet start of an object (R313)? -/
def packetIn (o : Nat × Nat) (a : Nat) : Bool := o.1 ≤ a && a < o.1 + o.2 && (a - o.1) % 12 == 0
def State.packetOf (s : State) (l : Lane) (a : Nat) : Bool := packetIn (s.objOf l) a
/-- The slot of the word at the lane's PC within its packet, and the packet's address (R310). -/
def State.slotOf (s : State) (l : Lane) : Nat := (l.pc.toNat - (s.objOf l).1) / 4 % 3
def State.packetBase (s : State) (l : Lane) : Nat := l.pc.toNat - 4 * s.slotOf l

/-- The target of BRA and CALL (R312): P + 12 x disp18. -/
def State.dispTarget (s : State) (l : Lane) (d : BitVec 18) : DWord :=
  BitVec.ofNat 64 (s.packetBase l) + BitVec.ofInt 64 (12 * d.toInt)

/-- Is a lane stopped by a freeze: its quarter is frozen, and it stands at a packet boundary (R243)? -/
def State.frozenLane (s : State) (l : Lane) : Bool := s.isFrozen l.quarter && s.slotOf l == 0

/-- Does a save stop the lane at its packet boundary (R246): the guest's for its contexts, or the hypervisor's? -/
def State.saving (s : State) (l : Lane) : Bool :=
  let x := s.part l.part
  x.hypStep == 2 || (x.pre.step == 2 && fld x.pre.ctxmask (s.laneCtx l) 1 == 1)
/-- Does the lane's partition run (R237, R255), and has no save stopped the lane (R246)? -/
def State.running (s : State) (l : Lane) : Bool :=
  s.serving l.part && !(s.slotOf l == 0 && s.saving l)

/-- A lane that can issue but for the choice of bundle (R70). -/
def State.ready (s : State) (l : Lane) : Bool :=
  l.park == .ready && !l.marker && l.trap.isNone && l.pfault.isNone && !s.frozenLane l &&
    !(s.slotOf l == 0 && s.frzHeld l) && s.running l

/-- A lane parked at a switch point of R94. -/
def Park.switchPoint : Park → Bool
  | .barrier _ | .cbar | .gbar | .waitph _ _ | .evwait _ _ | .conv _ => true
  | _ => false
/-- A lane that has neither exited nor arrived at a switch point (R94). -/
def Lane.runnable (l : Lane) : Bool := l.park != .exited && !l.park.switchPoint

/-- The running group of a D-mode launch on a quarter (R94): the lowest (team index, group index) runnable and not
yielded. -/
def State.runningGroup (s : State) (q p seq : Nat) : Option (Nat × Nat) :=
  let ls := s.lanes.filter fun l => l.quarter == q && l.part == p && l.seq == seq && l.runnable &&
    !((s.group? l.id).elim false (·.yielded))
  let key := fun l : Lane => ((s.team? l.id.tid).elim 0 (·.index)) * 64 + l.id.grp
  match ls with
  | [] => none
  | a :: r =>
    let b := r.foldl (fun a l => if key l < key a then l else a) a
    some (b.id.tid, b.id.grp)

/-! ## Fetch (R310, R313) -/

/-- Fetch the word at an address: user code in the launch's context, or through the translation recorded for the
handler (R191, R223). -/
def State.fetch (s : State) (l : Lane) (a : Nat) : State × Res :=
  match l.obj with
  | .handler =>
    match (s.part l.part).tvecMap.find? fun e => e.1 == a / 4096 with
    | some e =>
      let dpa := e.2 % 2 ^ 48 * 4096 + a % 4096
      if 2 ^ 48 ≤ e.2 then
        match s.hostHas dpa 4 false with
        | some h => (s.askHost h false, .busy)
        | none => (s, .data (s.hostRead dpa 4))
      else if inCap dpa then
        (if (s.extentOf l.part dpa).isNone then (s, .page { reason := 5, va := a, write := false, fetch := true })
         else let q := s.capRead l.part dpa 4; (q.1, .data q.2))
      else if s.ownCheck l.part dpa false != .performed then
        (s.record l.part { s.laneRecd l 2 with va := a, paddr := dpa, detail := fotOwner (s.fotOf (dpa / 65536)) }, .data (zeros 4))
      else if s.poison.contains (dpa / 128) then (s, .ue false)
      else
        let r := s.homeRead dpa 4
        (r.1, r.2.elim .busy .data)
    | none => (s, .page { reason := 1, va := a, write := false, fetch := true })
  | .launched =>
    let v := s.via l
    let r := s.reach v a 4 .fetch
    match r.2 with
    | .page f => (r.1, .page f)
    | .busy => (r.1, .busy)
    | .peer d => (r.1, .peer d)
    | .void => (r.1, .data (zeros 4))
    | .host h => (r.1, .data (r.1.hostRead h 4))
    | .at x =>
      let q := r.1.readAt v x 4
      match q.2 with
      | some bs => (q.1, .data bs)
      | none => (q.1, .ue false)

/-- The pipe on which the words of a major issue (R74). -/
def pipeOf (major : Nat) : Pipe :=
  if major ≤ 0x07 ∨ major = 0x38 then .ctl
  else if major ≤ 0x0F then .alu
  else if major = 0x11 then .sfu
  else if major ≤ 0x13 then .fpu
  else if major = 0x14 then .lane
  else if major = 0x30 then .kacc
  else if major = 0x34 then .mxq
  else .mem
/-- A decoded word: its C and S bits, its instruction, its length and its pipe. -/
structure Fetched where
  hdr : Hdr
  instr : Instr
  len : Nat
  pipe : Pipe
  deriving DecidableEq, Repr

/-- What fetching and decoding the instruction at an address gives. -/
inductive FetchRes where
  | word (f : Fetched)
  | illegal
  | other (r : Res)
  deriving DecidableEq, Repr

/-- Decode a head word in a packet slot with its second word (R310, R311): a form of two words may not start in slot 2,
and the instruction that occupies slot 2 has C = 0. -/
def decodeAt (slot w ext : Nat) : Option Fetched :=
  let two := isTwoWord w
  if two && slot == 2 then none
  else
    match decodeInstr w ext with
    | .error _ => none
    | .ok i =>
      let h := decodeHdr w
      let len := if two then 8 else 4
      if h.c && slot * 4 + len == 12 then none else some { hdr := h, instr := i, len := len, pipe := pipeOf (majorOf w) }

/-- Fetch and decode at an address in a packet slot. -/
def State.fetchAt (s : State) (l : Lane) (a slot : Nat) : State × FetchRes :=
  let r := s.fetch l a
  match r.2 with
  | .data bs =>
    let w := leNat bs
    if isTwoWord w && slot < 2 then
      let q := r.1.fetch l (a + 4)
      match q.2 with
      | .data bs' =>
        match decodeAt slot w (leNat bs') with
        | some f => (q.1, .word f)
        | none => (q.1, .illegal)
      | o => (q.1, .other o)
    else
      match decodeAt slot w 0 with
      | some f => (r.1, .word f)
      | none => (r.1, .illegal)
  | o => (r.1, .other o)

/-! ## Formation (R71, R483) -/

/-- A word of major 0x14 (R326). -/
def isExchange : Instr → Bool
  | .shfl .. | .shflImm .. | .voteOr .. | .voteAnd .. | .voteMask .. | .voteCount .. | .voteFirst .. | .vmatch .. => true
  | _ => false
/-- Is a lane's next word of major 0x14? -/
def State.nextExchange (s : State) (l : Lane) : Bool :=
  match (s.fetchAt l l.pc.toNat (s.slotOf l)).2 with
  | .word f => isExchange f.instr
  | _ => false
/-- Is lane m behind lane l on one path: it has passed the packets that l has passed, but not all of them or of the present one's words? -/
def Lane.behind (m l : Lane) : Bool :=
  m.way == l.way && m.trail.isPrefixOf l.trail && (decide (m.trail.length < l.trail.length) || decide (m.pc.toNat < l.pc.toNat))
/-- A park whose end the lane that waits need not bring about (log entry 59). -/
def Park.returns : Park → Bool
  | .ready | .fault _ | .queue | .drain _ _ | .collw _ _ | .smode | .orderedAtom | .stall => true
  | .exited | .barrier _ | .cbar | .gbar | .conv _ | .mxaWait _ | .waitph _ _ | .evwait _ _ => false
/-- Lanes of the group which a bundle waits for before it issues a word of major 0x14 (R483): those before the same word, ready, at a
switch marker or at a page fault, and those that are behind on the same path. A lane about to enter a trap is not waited for. -/
def State.absent (s : State) (l : Lane) : Bool :=
  s.lanes.any fun m =>
    m.id.tid == l.id.tid && m.id.grp == l.id.grp && !m.issuing && m.trap.isNone &&
      ((m.pc == l.pc && m.obj == l.obj && (m.pfault.isSome || (match m.park with | .ready => true | .fault _ => true | _ => false))) ||
        (m.behind l && m.park.returns))

/-- May a D-mode lane's bundle be chosen (R94): it holds the running group's lowest lane that is neither exited nor at a switch point, and
that lane is ready? A lane that waits at a word of major 0x14 for others of its group leaves the choice to the next (R483, log entry 59). -/
def State.dmodeOk (s : State) (l : Lane) (mates : List Lane) : Bool :=
  if !l.dm then true
  else
    match s.runningGroup l.quarter l.part l.seq with
    | none => false
    | some g =>
      let own := s.lanes.filter fun m => m.id.tid == g.1 && m.id.grp == g.2 && m.runnable && !(s.absent m && s.nextExchange m)
      match own with
      | [] => false
      | a :: r =>
        let low := r.foldl (fun a m => if m.id.slot < a.id.slot then m else a) a
        s.ready low && mates.any fun m => m.id == low.id

/-- Place one lane into the first bundle of its key whose slot is free; a lane before a word of major 0x14 bundles with
its own group only (R483). -/
def placeLane (acc : List (Bool × List Lane)) (xl : Bool × Lane) : List (Bool × List Lane) :=
  let l := xl.2
  let fits := fun b : Bool × List Lane =>
    match b.2 with
    | [] => false
    | a :: _ =>
      a.id.tid == l.id.tid && a.role == l.role && a.pc == l.pc && a.obj == l.obj && (!b.1 || a.id.grp == l.id.grp) &&
        !b.2.any (fun m => m.id.slot == l.id.slot)
  let rec go : List (Bool × List Lane) → List (Bool × List Lane)
    | [] => [(xl.1, [l])]
    | b :: r => if fits b then (b.1, b.2 ++ [l]) :: r else b :: go r
  go acc

/-- The bundles of a quarter from its ready lanes, older teams and lower groups first. -/
def State.bundles (s : State) (q : Nat) : List (List Lane) :=
  (((s.lanes.filter fun l => l.quarter == q && s.ready l).map fun l => (s.nextExchange l, l)).foldl placeLane []).map (·.2)

/-- Re-form the bundles of a quarter; a D-mode launch with no runnable group that is not yielded has its yielded
groups runnable again (R94). -/
def State.form (s : State) (q : Nat) : State :=
  let bs := s.bundles q
  let ids := bs.mapIdx fun i b => (i, b.map (·.id))
  let num := fun l : Lane => (ids.find? fun e => e.2.contains l.id).map (·.1)
  { s with lanes := s.lanes.map fun l => if l.quarter = q then { l with bundle := num l } else l,
           formed := tset q (s.cycle / 4 + 1) s.formed }
/-- Is the formation of the present group of four cycles still to be made (R71)? -/
def State.formDue (s : State) (q : Nat) : Bool := decide (tget 0 q s.formed ≤ s.cycle / 4)

/-- The groups of a D-mode launch that has no runnable group which is not yielded on the quarter: none of them is yielded (R94). -/
def State.unyield (s : State) (q : Nat) : State :=
  let ds := s.lanes.filter fun l => l.quarter == q && l.dm && (s.runningGroup q l.part l.seq).isNone
  ds.foldl (fun s l => s.modGroup l.id.tid l.id.grp fun g => { g with yielded := false }) s

/-! ## Choice (R75) -/

def lexLt : List Nat → List Nat → Bool
  | [], _ => false
  | _, [] => false
  | a :: r, b :: r' => a < b || (a == b && lexLt r r')

def roleRank (prio : Bool) : Role → Nat
  | .con => if prio then 1 else 0
  | .pro => if prio then 0 else 1

/-- The rank of a bundle: bypassing bundles first, then the role, then the age, then the older-resident group and the
lower slot (R75). -/
def State.rank (s : State) (b : List Lane) : List Nat :=
  match b with
  | [] => []
  | a :: r =>
    let age := r.foldl (fun x l => min x l.since) a.since
    let bypass := 256 < s.cycle - age
    [if bypass then 0 else 1, if bypass then 0 else roleRank (recPrio (s.laneRec a)) a.role, age, a.id.tid, a.id.grp, a.id.slot]

def State.best (s : State) (bs : List (List Lane)) : Option (List Lane) :=
  match bs with
  | [] => none
  | a :: r => some (r.foldl (fun x b => if lexLt (s.rank b) (s.rank x) then b else x) a)

/-- The bundles of a quarter that may be chosen: formed and still ready. -/
def State.eligible (s : State) (q : Nat) : List (List Lane) :=
  let ls := s.lanes.filter fun l => l.quarter == q && s.ready l && l.bundle.isSome
  let ks := (ls.filterMap (·.bundle)).eraseDups
  (ks.map fun k => ls.filter fun l => l.bundle == some k).filter fun b =>
    match b with
    | [] => false
    | a :: _ => s.dmodeOk a b

/-- Begin to issue a bundle: its lanes are active; words, bundles and bypasses are counted (R267). -/
def State.begin (s : State) (b : List Lane) : State :=
  let ids := b.map (·.id)
  let s1 : State :=
    { s with lanes := s.lanes.map fun l => if ids.contains l.id then { l with issuing := true } else l,
             latch := { latch0 with chained := false } }
  match b with
  | [] => s1
  | a :: r =>
    let age := r.foldl (fun x l => min x l.since) a.since
    let s2 := (s1.countLane a evBundles 1).countLane a evBundleLanes b.length
    if 256 < s.cycle - age then s2.countLane a evBypass 1 else s2

/-- The first quarter from `turn` on with a ready lane. -/
def State.nextQuarter (s : State) : Option Nat :=
  let qs := (s.lanes.filter s.ready).map (·.quarter)
  match qs.filter (s.turn ≤ ·) with
  | [] => qs.min?
  | r => r.min?

/-- Choose a bundle (R75), with the quarter's bundles formed once in each four cycles (R71); a lane that became ready since waits for
the next formation. -/
def State.choose (s : State) : Option State :=
  match s.nextQuarter with
  | none => none
  | some q =>
    let s0 := s.unyield q
    let s1 := if s0.formDue q then s0.form q else s0
    let s2 : State := { s1 with turn := q + 1 }
    match s2.best (s2.eligible q) with
    | some b => some (s2.begin b)
    | none => some s2

/-! ## Chains (R311) -/

/-- The words that chain after a word, as far as they are legal, or what fetching one of them gives. -/
inductive ChainRes where
  | words (is : List Instr)
  | illegal
  | other (r : Res) (a : Nat)
  deriving DecidableEq, Repr
/-- Fetch the words that chain after a word, before any issues (R311). -/
def State.chainWords (s : State) (l : Lane) (f : Fetched) (a slot : Nat) : Nat → State × ChainRes
  | 0 => (s, .words [])
  | k + 1 =>
    if !f.hdr.c then (s, .words [])
    else
      let a' := a + f.len
      let slot' := slot + f.len / 4
      let r := s.fetchAt l a' slot'
      match r.2 with
      | .word g =>
        if (s.illegalAt l g.instr).isSome then (r.1, .words [g.instr])
        else
          let q := r.1.chainWords l g a' slot' k
          match q.2 with
          | .words is => (q.1, .words (g.instr :: is))
          | o => (q.1, o)
      | .illegal => (r.1, .illegal)
      | .other x => (r.1, .other x a')
/-- What a later word of a chain raises in a lane before the chain issues (R311, R336), as cause, AUX and %tval. The target of a BRA with a
predicate is checked where the lane takes it (R363). -/
def State.chainCause (s : State) (l : Lane) (i : Instr) : Option (Nat × Nat × DWord) :=
  match s.illegalAt l i with
  | some x => some (causeIllegal, x, 0)
  | none =>
    match i with
    | .mfs _ r => if sysMfsOk r.toNat l.sup then none else some (causePriv, 1, r.setWidth 64)
    | .mts _ r => if sysMtsOk r.toNat l.sup then none else some (causePriv, 1, r.setWidth 64)
    | .tret => if l.sup then none else some (causePriv, 0, 0)
    | .bra _ p _ d => if p.val != 0 || s.packetOf l (s.dispTarget l d).toNat then none else some (causeIllegal, 2, 0)
    | .call _ d => if s.packetOf l (s.dispTarget l d).toNat then none else some (causeIllegal, 2, 0)
    | _ => none
/-- The lanes in which a later word of the chain raises a cause take it at the chain's first word (R311). -/
def State.chainTraps (s : State) (is : List Instr) : State :=
  eachActive s fun s l => (is.findSome? (s.chainCause l)).elim s fun c => s.raise l (l.causeHere c.1 c.2.1 c.2.2)
/-- A word at address a that could not be fetched for a lane: a page fault, a data error (R224), or a wait. -/
def State.laneFetch (s : State) (l : Lane) (r : Res) (a : Nat) : State :=
  match r with
  | .page f => s.setLane (l.pageHere f)
  | .ue _ => s.raise l (l.causeHere causeDataUe 3 (BitVec.ofNat 64 a))
  | _ => s.setLane l.stall
/-- The same for the active lanes. -/
def State.noFetch (s : State) (r : Res) (a : Nat) : State := eachActive s fun s l => s.laneFetch l r a

/-! ## What follows a word -/

/-- Words that behave as marked whatever their S bit holds, and act at issue (R79). -/
def implicitMarker : Instr → Bool
  | .bar _ _ | .barw _ | .waitph _ _ _ | .evwait _ _ | .yield => true
  | .exit | .trap _ | .tret | .cbar | .gbar | .fence _ _ => true
  | _ => false

/-- A lane that performed the word: its marker, its step (R242: one that had SS set when it issued the word), whether the breakpoint at its PC is passed (R361: it is kept by a TRET, which sets it), its
readiness. -/
def Lane.after (l : Lane) (marked keeps stepped : Bool) (pc : DWord) (cycle : Nat) : Lane :=
  if l.skipped then { l with skipped := false, issuing := false, since := cycle + 1 }
  else
    { l with noBreak := l.noBreak && keeps, marker := l.marker || (marked && l.park != .exited), repeats := 0,
             stepPend := if stepped then some pc else l.stepPend, since := max l.since (cycle + 1) }

/-- Did the word raise a cause, a fault or a stall in the lane? -/
def State.stoppedAt (s : State) (id : LaneId) : Bool := (s.lane? id).elim true (·.skipped)

/-! ### The path of a lane (R483) -/

/-- The lanes of a way go on together: once all of them have entered a packet more, those that entered one packet keep one way and those
that entered another take one of their own. -/
def State.sortWay (s : State) (tid grp w : Nat) : State :=
  let mine := fun l : Lane => l.id.tid == tid && l.id.grp == grp && l.way == w && l.park != .exited
  let heads := (s.lanes.filter mine).map fun l => l.trail.head?
  if heads.contains none then s
  else
    let hs := heads.eraseDups
    let num := fun h => if hs.length ≤ 1 then w else s.nextId + hs.findIdx (· == h)
    { s with lanes := s.lanes.map fun l => if mine l then { l with way := num l.trail.head?, trail := l.trail.tail } else l,
             nextId := if hs.length ≤ 1 then s.nextId else s.nextId + hs.length }
/-- Sort the ways of a group. -/
def State.sortWays (s : State) (tid grp : Nat) : State :=
  (((s.lanes.filter fun l => l.id.tid == tid && l.id.grp == grp).map (·.way)).eraseDups).foldl (fun s w => s.sortWay tid grp w) s
/-- The lanes that have performed a word note the packet that it took them to. -/
def State.noteTrail (s : State) (f : Fetched) (ids : List LaneId) : State :=
  let enters := fun l : Lane => ids.contains l.id && l.park != .exited && (f.instr == .tret || s.slotOf l == 0)
  let gs := ((s.lanes.filter enters).map fun l => (l.id.tid, l.id.grp)).eraseDups
  gs.foldl (fun s g => s.sortWays g.1 g.2)
    { s with lanes := s.lanes.map fun l => if enters l then { l with trail := l.trail ++ [l.pc] } else l }

/-- At a marker the group's flags take in those of the results that its earlier words have outstanding (R40). -/
def State.markFlags (s : State) (tid grp : Nat) : State :=
  (s.lanes.filter fun l => l.id.tid == tid && l.id.grp == grp).foldl
    (fun s l => l.deferred.foldl (fun s d => if d.flags = 0 then s else s.modGroup tid grp fun g => { g with fflags := g.fflags ||| d.flags }) s) s
/-- The groups of lanes that have issued a marker word. -/
def State.markAll (s : State) (ids : List LaneId) : State := ((ids.map fun i => (i.tid, i.grp)).eraseDups).foldl (fun s g => s.markFlags g.1 g.2) s

/-- After a word of a bundle, on its quarter (R94). -/
def State.unyieldFor (s : State) (ids : List LaneId) : State := (ids.findSome? s.lane?).elim s fun l => s.unyield l.quarter
/-- After a word: markers park (R79), lanes that left the common path leave the bundle (R72), the chain goes on or
ends (R73, R242), and whatever is due at once is settled, R94's yielded groups among it. -/
def State.afterWord (s : State) (f : Fetched) (ids stepped : List LaneId) (pc : DWord) : State :=
  let marked := f.hdr.s || implicitMarker f.instr
  let did := ids.filter fun i => !s.stoppedAt i
  let s0 := (if marked then s.markAll did else s).noteTrail f did
  let s1 : State :=
    { s0 with lanes := s0.lanes.map fun l => if ids.contains l.id then l.after marked (f.instr == .tret) (stepped.contains l.id) pc s.cycle else l }
  let on := fun l : Lane => ids.contains l.id && l.issuing && l.park == .ready && !l.marker && l.trap.isNone
  let next := pc + BitVec.ofNat 64 f.len
  let keepPc := ((List.range 32).findSome? fun n => s1.lanes.find? fun l => l.id.slot == n && on l).map (·.pc)
  let goesOn := fun l : Lane => f.hdr.c && on l && l.pc == next && !l.ss
  let upd := fun l : Lane =>
    if ids.contains l.id then
      { l with issuing := goesOn l, bundle := if on l && some l.pc == keepPc then l.bundle else none }
    else l
  let s2 : State := { s1 with lanes := s1.lanes.map upd, latch := { s1.latch with chained := f.hdr.c } }
  (s2.settle ids).unyieldFor ids

/-- The lanes that could not perform the word leave the bundle. -/
def State.endIssue (s : State) (ids : List LaneId) : State :=
  let s1 : State :=
    { s with lanes := s.lanes.map fun l => if ids.contains l.id then { l with skipped := false, issuing := false, bundle := none, since := s.cycle + 1 } else l }
  (s1.settle ids).unyieldFor ids

/-- The breakpoint a PC matches, numbered from 1 (R241, R243). -/
def State.breakAt (s : State) (l : Lane) : Option Nat :=
  ((List.range 4).find? fun k =>
    let b := (tget 0 k (s.part l.part).brk).toNat
    fld b 63 1 == 1 && fld b 0 57 == l.pc.toNat).map (· + 1)

/-- Stop a quarter at a breakpoint (R243): it freezes until QRESUME; a fix is triggered (R276). -/
def State.quarterStop (s : State) (l : Lane) : State :=
  let w := s.laneWho l l.pc
  let join := fun e : Freeze =>
    if e.quarter = l.quarter ∧ e.who.launch = w.launch ∧ e.who.team = w.team ∧ e.who.group = w.group ∧ e.who.pc = w.pc then
      { e with who := { w with lanes := e.who.lanes.lor w.lanes } }
    else e
  let s1 : State :=
    { s with frozen := if s.isFrozen l.quarter then s.frozen.map join else s.frozen ++ [{ quarter := l.quarter, dumped := false, who := w }] }
  s1.modPart l.part fun x => x.trigger 2

/-- A breakpoint of a lane: BKPT, or a quarter stop if its group's QSTOP is set (R243): at a packet boundary before the word, within a
packet at the end of the packet. -/
def State.breakLane (s : State) (l : Lane) (aux : Nat) : State :=
  if (s.group? l.id).elim false (·.dbgctl.getLsbD 2) then
    (s.setLane { (if s.slotOf l = 0 then l.stall else l) with noBreak := true }).quarterStop l
  else s.raise l (l.causeHere causeBkpt aux l.pc)

/-- Did a lane hold the word back, to issue it again, with no cause and no fault of its own (R81)? -/
def State.heldAt (s : State) (l : Lane) : Bool :=
  (s.lane? l.id).elim false fun m => m.skipped && m.pc == l.pc && m.depth == l.depth && m.trap.isNone && m.pfault.isNone
/-- Count an issued word (R267): one that every lane held back has not issued (R81). -/
def State.countWord (s : State) (ls : List Lane) (l : Lane) : State :=
  if ls.all s.heldAt then s else s.countLane l evWords 1

/-- Words that access global memory, for soundings (R272). -/
def soundable : Instr → Bool
  | .ldB8 .. | .ldB16 .. | .ldB32 .. | .ldB64 .. | .ldB128 .. | .stB8 .. | .stB16 .. | .stB32 .. | .stB64 .. | .stB128 ..
  | .atom .. | .atomNr .. | .cas .. | .aacc .. | .aaccMul .. | .amrg .. | .amrgNeg .. | .kld .. | .kst .. => true
  | _ => false

/-- Is a line in its home slice (R121)? -/
def State.inL3 (s : State) (ln : Nat) : Bool := (tget [] (l3Key ln) s.l3).contains ln
/-- The stations that a lane's access passes, as FLAGS bits (R273): the L1 alone on a hit; else the crossbar and the return path, the L2
slice of a line with tokens, and beyond an L2 that lacks the tokens the die's link, the home and, on an L3 miss, memory. -/
def State.stations (s : State) (l : Lane) (i : Instr) (srcs : List Word) : Nat :=
  match (s.translate (s.who l) (eaSrc i srcs) (if readOnly i then .read else .write)).2 with
  | .fault _ | .wait => 0
  | .ok x =>
    let ln := x.addr / 128
    let a : Fin 10 := Fin.ofNat 10 (l.die % 4)
    let h := s.line ln
    let l1 := anyLoad i && x.attr == .normal && inHbm x.addr && (s.cluster l.cluster).cacheWays != 0
    let memory := if inHbm x.addr && !s.inL3 ln then 0x60 else 0
    if l1 && (s.cluster l.cluster).l1.any (fun e => e.line == ln && e.mask.getLsbD l.core) then 0x81
    else if x.attr = .hostc ∨ inPeer x.addr then 0x8A
    else if x.attr = .device ∨ inCap x.addr then 0x9A + memory
    else
      let held := match i with
        | .aacc .. | .aaccMul .. | .amrg .. | .amrgNeg .. => h.mayWrite a || h.holds[a].partialLA.isSome
        | _ => !h.mash && (if readOnly i then h.mayRead a else h.mayWrite a)
      bit l1 + 0x86 + (if held then 0 else 0x18 + if h.holds[home].owner then memory else 0)

/-- The queueing times of a sounding's stations, 24 bits each, zero at those it did not pass (R273, R274). -/
def stationTimes (flags times : Nat) : Nat :=
  ((List.range 8).map fun i => if fld flags i 1 = 1 then fld times (24 * i) 24 * 2 ^ (24 * i) else 0).sum
/-- Write a SOUNDING record of a returned access to the streams that sound it, and count it (R274). `sel` holds the streams in bits 1 and
0 and the stations from bit 2; the queueing times and the total are free (log entry 12). -/
def State.sound (s : State) (l : Lane) (sel : Nat) : State :=
  let d := s.draw
  let flags := sel / 4
  (d.2.traceLane l 4 flags (stationTimes flags d.1 + fld (d.1 / 2 ^ 192) 0 32 * 2 ^ 192) (sel % 4)).countLane l evSndTaken 1

/-- Count a bundle word for one stream's soundings, of rate m; every 2^m-th word carries one (R272). Answers whether this does. -/
def State.soundOne (s : State) (l : Lane) (stream m : Nat) : State × Bool :=
  let k := 2 * l.quarter + stream
  let c := tget 0 k (s.part l.part).snd + 1
  if m = 0 then (s, false) else (s.modPart l.part fun x => { x with snd := tset k (c % 2 ^ m) x.snd }, c % 2 ^ m == 0)
/-- Count a bundle word for both streams; answers those that sound it, guest in bit 0 and operator in bit 1. -/
def State.soundCount (s : State) (l : Lane) : State × Nat :=
  let x := s.part l.part
  let g := s.soundOne l 0 (tget (ring0 6) l.die x.gtrace).sndrate
  let o := g.1.soundOne l 1 (tget (ring0 6) l.die x.otrace).sndrate
  (o.1, bit g.2 + 2 * bit o.2)
/-- The access a sounding rides on: one that faults and is lost (R275), the deferred one the word left, or one that has returned. -/
def State.soundWord (s : State) (l : Lane) (sel : Nat) : State :=
  if s.stoppedAt l.id then s.countLane l evSndLost 1
  else
    match (s.lane? l.id).bind fun m => m.deferred.getLast? with
    | some d =>
      if d.n < l.nextDef then s.sound l sel
      else if d.faulted then s.countLane l evSndLost 1
      else s.modLane l.id fun m => { m with deferred := m.deferred.map fun e => if e.n = d.n then { e with sounded := sel } else e }
    | none => s.sound l sel
/-- A returned result is written with its flags (R40, R523): at the lane's marker, where a register that later words have written takes the
result or keeps what they left (R80; a free choice, log entry 55), or before it. A sounded access writes its record (R274). -/
def State.writeResult (s : State) (l : Lane) (d : Deferred) : State :=
  let q := if (l.marker || l.trap.isSome) && !d.touched.isEmpty then s.draw else (allTake, s)
  let s1 := (q.2.setLane (if l.marker || l.trap.isSome then l.writeBack d q.1 else l.writeEarly d)).orFlags l.id d.flags
  if d.sounded = 0 then s1 else s1.sound { l with pc := d.pc } d.sounded
/-- Count an issued word that accesses global memory, and sound it where its turn has come, for the lowest of the lanes that it issued
for (R272). A replayed access is not sounded (R275), and it is not counted again towards the 2^m: the spec does not say whether a precise
word that issues again is (DESIGN CHOICE, log entry 57). `s` is the state before the word. -/
def State.sounded (done s : State) (i : Instr) : State :=
  match s.actives.find? fun l => !done.heldAt l && !onScratch i (srcsOf l i) with
  | none => done
  | some l =>
    if !soundable i || l.repeats != 0 then done
    else
      let q := done.soundCount l
      if q.2 = 0 then q.1 else q.1.soundWord l (q.2 + 4 * s.stations l i (srcsOf l i))

/-- A word at a breakpoint (R225, R243): lanes in which it raises another cause take that, and lanes that resume at it
issue it (R361); the others break before it. -/
def State.runBroken (run : Instr → State → Host.Outcome State Fault Refusal) (i : Instr) (aux : Nat) (s : State) :
    Host.Outcome State Fault Refusal :=
  match run i s with
  | .next s1 =>
    let good := (s.actives.filter fun l => !s1.stoppedAt l.id && !l.noBreak).map (·.id)
    let broken := good.foldl (fun s id => s.onLane id fun s l => s.breakLane l aux) s
    if broken.actives.isEmpty then .next broken else run i broken
  | o => o

/-- The chain's next word needs a pipe that the chain has used: it issues when the bundle is chosen again (R73). -/
def State.splitChain (s : State) : State := mapActive s fun l => { l with issuing := false }

/-- The acquire at device scope of the first word of every team placed on a cluster (R195): the four cores' presence bits are cleared
(R118, R182). -/
def State.firstAcquire (s : State) (cluster : Nat) : State := (List.range 4).foldl (fun s c => s.clearL1 cluster c) s
/-- A team's first word since it was placed. -/
def State.beginTeam (s : State) (l : Lane) : State :=
  match s.team? l.id.tid with
  | some t => if t.begun then s else (s.firstAcquire t.cluster).modTeam t.tid fun t => { t with begun := true }
  | none => s

/-- Issue the next word of the active bundle: fetch, check, run its meaning, and settle what follows. -/
def State.issueWord (run : Instr → State → Host.Outcome State Fault Refusal) (s : State) :
    Host.Outcome State Fault Refusal :=
  match s.lead with
  | none => .next s
  | some l =>
    let ids := s.actives.map (·.id)
    let o := s.objOf l
    if l.pc.toNat < o.1 ∨ o.1 + o.2 ≤ l.pc.toNat then .next ((raiseIllegal s 2).endIssue ids)
    else
      let slot := s.slotOf l
      let r := s.fetchAt l l.pc.toNat slot
      let s1 := r.1
      match r.2 with
      | .illegal => .next ((raiseIllegal s1 0).endIssue ids)
      | .other x => .next ((s1.noFetch x l.pc.toNat).endIssue ids)
      | .word f =>
        let c := if s.latch.chained then (s1, .words []) else s1.chainWords l f l.pc.toNat slot 2
        match c.2 with
        | .illegal => .next ((raiseIllegal c.1 0).endIssue ids)
        | .other x a => .next ((c.1.noFetch x a).endIssue ids)
        | .words is =>
          let s2 := c.1.chainTraps is
          if s2.actives.isEmpty then .next (s2.endIssue ids) else
          if s.latch.pipes.contains f.pipe then .next s2.splitChain else
          let s3 : State :=
            { s2.beginTeam l with
              latch := { c := f.hdr.c, s := f.hdr.s, chained := s.latch.chained, pc := l.pc, len := f.len,
                         pipes := f.pipe :: s.latch.pipes, raised := s.latch.raised },
              lastWord := tset l.quarter { tid := l.id.tid, seq := l.seq, index := (s.team? l.id.tid).elim 0 (·.index), pc := l.pc } s2.lastWord }
          let res := match s3.breakAt l with
            | some k => s3.runBroken run f.instr k
            | none => run f.instr s3
          match res with
          | .next done =>
            .next (((done.countWord s3.actives l).sounded s3 f.instr).afterWord f ids ((s.actives.filter (·.ss)).map (·.id)) l.pc)
          | e => e

end Sys2Proof.Machine
end

