-- ==== Sys2Proof/Machine/Place.lean ====
section
/-! DEFINITION. Placing a team on a cluster (R63, R110, R197 to R200, R202), and the placement of one instruction as
a running program (log entry 15). -/
namespace Sys2Proof.Machine
open Sys2Proof

/-- A lane as its launch starts it (R104, R200, R222). -/
def newLane (p : Nat) (L : Launch) (tid index cluster grp slot : Nat) : Lane :=
  let r := L.lrec
  let con := grp < recNc r
  { id := { tid := tid, grp := grp, slot := slot }, part := p, seq := L.seq, role := if con then .con else .pro,
    gid := (index * 32 + grp) * 32 + slot, cluster := cluster, quarter := quarterOf cluster grp,
    vb := if con then recVcon r else recVpro r, kb := if con then recKcon r else recKpro r,
    v := Vector.replicate 64 0, p := 1, k := Vector.replicate 16 LA0, kc := Vector.replicate 16 (some 0),
    pc := BitVec.ofNat 64 (recCode r + 64 + recEntry r), obj := .launched, rnd := 1, depth := 0, sup := false,
    ss := false, dm := recDmode r, ssw := 0, dbg := [], epc := 0, fpc := 0, tval := 0, ctxsel := 0, replay := none, deferred := [], early := [], later := [],
    nextDef := 0, evw := none, qmac := none, rels := [], fetched := [], way := 0, trail := [], park := .ready, marker := false, trap := none, pfault := none, repeats := 0, lastArr := [], arrived := [], errs := [],
    stepPend := none, skipped := false, noBreak := false, bundle := none, issuing := false, since := 0 }

/-- A group as its launch starts it (R38, R200). -/
def newGroup (r grp : Nat) : Group :=
  { idx := grp, role := if grp < recNc r then .con else .pro, g := Vector.ofFn fun i : Fin 16 => recGinit r i.val,
    fflags := 0, dbgctl := 0, yielded := false, retired := false }

def bar0 : Bar := { phase := 0, mask := 0 }

/-- The lowest n numbers below `bound` that are free. -/
def firstFree (bound n : Nat) (used : Nat → Bool) : List Nat := ((List.range bound).filter fun i => !used i).take n

/-- The mode of a macro: the highest-numbered ones are the CACHE macros (R109, R116). -/
def Cluster.modeOf (c : Cluster) (m : Nat) : MacroMode := if 32 - c.cacheWays ≤ m then .cache else (c.macro' m).mode
/-- A macro a team may receive: not a CACHE macro, nor one that a pending %l1ways makes one, and held by no team (R116,
R197). -/
def Cluster.freeMacro (c : Cluster) (ways m : Nat) : Bool :=
  c.modeOf m != .cache && decide (m < 32 - ways) && (c.macro' m).owner.isNone
def Cluster.cvOf (c : Cluster) (i : Nat) : CvReg := tget cv0 i c.cv
def Cluster.modCv (c : Cluster) (i : Nat) (f : CvReg → CvReg) : Cluster := { c with cv := tmod cv0 i f c.cv }
/-- The cell of a tile (R56). -/
def cellKey (tile row col : Nat) : Nat := tile * 4096 + row * 64 + col
def Cluster.cell (c : Cluster) (tile row col : Nat) : LA := tget LA0 (cellKey tile row col) c.cells
/-- Zero a tile: every cell V = 0, status 0x10, window form (R200, R461). -/
def Cluster.zeroTile (c : Cluster) (tile : Nat) : Cluster :=
  { c with cells := c.cells.filter fun e => e.1 / 4096 != tile, forms := c.forms.filter fun e => e.1 / 4096 != tile }

/-- Place the next team of a launch on a cluster with its resources cleared (R83, R110, R199, R200). -/
def State.placeTeam (s : State) (p : Nat) (L : Launch) (cluster : Nat) : State :=
  let r := L.lrec
  let c := s.cluster cluster
  let macros := firstFree 32 (recNs r + recNq r) fun m => !c.freeMacro (s.part p).l1ways m
  let cvs := firstFree 16 (recNcv r) fun i => (c.cvOf i).tid.isSome
  let tiles := firstFree 8 (recNt r) fun t => c.tileOwner.any fun e => e.1 == t
  let tid := s.nextTid
  let n := recGroups r
  let c1 := macros.foldl (fun c m =>
    c.modMacro m fun _ => { sram0 with mode := if (macros.take (recNs r)).contains m then .scratch else .queue, owner := some tid }) c
  let c2 := cvs.foldl (fun c i => c.modCv i fun _ => { cv0 with tid := some tid }) c1
  let c3 := tiles.foldl (fun c t => let z := c.zeroTile t; { z with tileOwner := tset t tid z.tileOwner }) c2
  let team : Team :=
    { tid := tid, part := p, seq := L.seq, index := L.placed, cluster := cluster, set := cluster,
      groups := (List.range n).map (newGroup r), macros := macros, cvs := cvs, tiles := tiles,
      bars := List.replicate 4 bar0, handles := List.replicate 4 .unused, smode := [], ordered := [], begun := false }
  let lanes := (List.range n).flatMap fun g =>
    (List.range 32).map fun k => { newLane p L tid L.placed cluster g k with since := s.cycle }
  let s1 : State :=
    { (s.modCluster cluster fun _ => c3) with lanes := s.lanes ++ lanes, teams := s.teams ++ [team], nextTid := tid + 1 }
  let t := (s1.readChron p).1
  (s1.readChron p).2.modLaunch p L.seq fun L =>
    { L with placed := L.placed + 1, clusterCnt := tmod 0 cluster (· + 1) L.clusterCnt,
             dieCnt := tmod 0 (cluster / 48) (· + 1) L.dieCnt, held := false, since := s.time, tstart := if L.placed = 0 then t else L.tstart }

/-- A launch just taken into the window. -/
def newLaunch (seq r prio : Nat) (queue : Option Nat) (cls : Nat) (waits : List Nat) (ct : Bool) : Launch :=
  { seq := seq, lrec := r, prio := prio, queue := queue, cls := cls, waits := waits, placed := 0, retired := 0, clusterCnt := [],
    dieCnt := [], doneClusters := [], doneDies := [], tstart := 0, nfault := 0, handler := false, failed := false,
    held := false, since := 0, gphase := 0, cphase := [], ctOnly := ct, restore := [] }

/-- The launch record of the placed program: one cooperative team of one CON group with every budget at its largest,
eight scratch and eight queue macros, all convergence registers, four tiles, slots of E4M3 operands. -/
def programRecord : Nat :=
  0x10000 + 2 ^ 97 + 2 ^ 128 + 2 ^ 144 + 2 ^ 160 + 2 ^ 192 + 64 * 2 ^ 208 + 16 * 2 ^ 224 + 8 * 2 ^ 240 + 8 * 2 ^ 248 +
    16 * 2 ^ 256 + 4 * 2 ^ 264 + 0xFFFF * 2 ^ 384 +
    (0x33 + 0x33 * 2 ^ 32 + 0x33 * 2 ^ 64 + 0x33 * 2 ^ 96 + 0x33 * 2 ^ 128 + 0x33 * 2 ^ 160 + 0x33 * 2 ^ 192 + 0x33 * 2 ^ 224) * 2 ^ 512

/-- From reset, the state in which partition 0 is active with a heap window on the first two frames, the second of
which holds a code object of one packet that starts with the given words, and its first group is about to issue. -/
def State.placeProgram (s : State) (w0 w1 : Word) : State :=
  let L := newLaunch 1 programRecord 0 none 0 [] false
  let ctx := 0x20000 * 2 ^ 128 + 0x38 * 2 ^ 288
  let obj : Admit :=
    { ctx := 0, code := 0x10000, size := 12, base := 0, timing := false, barriers := false, orderedForms := false, slots := [],
      mxaSlots := [], declared := 0, frames := [1], releasing := false }
  let pt : Part :=
    { part0 with triples := 1, state := .active, ctxs := [(0, ctx)], window := [L], nextSeq := 2, admitted := [obj] }
  let s1 : State :=
    { s with boot := .ready, parts := [(0, pt)], fot := [(0, 0x100), (1, 0x100)],
             mem := writeBytes s.mem 0x10040 (bytesOfWord w0 ++ bytesOfWord w1) }
  let s2 := s1.placeTeam 0 L 0
  { s2 with lanes := s2.lanes.map fun l => { l with issuing := true, bundle := some 0 } }

end Sys2Proof.Machine
end

