-- ==== Sys2Proof/Machine/Barrier.lean ====
section
/-! DEFINITION. Barriers (R214 to R217), events that lanes wait for (R204), and what an acquire does to the L1 (R118). -/
namespace Sys2Proof.Machine
open Sys2Proof

/-! ## Acquires (R118, R180) -/

def Scope.rank : Scope → Nat
  | .lane => 0 | .group => 1 | .team => 2 | .cluster => 3 | .die => 4 | .device => 5 | .system => 6
/-- Is a scope cluster or wider? -/
def wide (e : Scope) : Bool := 3 ≤ Scope.rank e
/-- An acquire by a lane: at cluster scope or wider it clears its core's presence bits (R118). -/
def State.acquire (s : State) (l : Lane) (e : Scope) : State := if wide e then s.clearL1 l.cluster l.core else s
/-- An acquire by each of the lanes that satisfy f. -/
def State.acquireAll (s : State) (f : Lane → Bool) (e : Scope) : State :=
  if wide e then ((s.lanes.filter f).map fun l => (l.cluster, l.core)).eraseDups.foldl (fun s c => s.clearL1 c.1 c.2) s
  else s

/-! ## Arrival and completion -/

/-- The number under which a lane notes its arrival at CBAR and at GBAR. -/
def cbarKey : Nat := 4
def gbarKey : Nat := 5
/-- The bit of a role in a mask (R357). -/
def roleBit : Role → Nat
  | .con => 1
  | .pro => 2
/-- Has a lane arrived: by its word, or by having exited (R214, R391)? -/
def Lane.atBar (l : Lane) (key : Nat) : Bool := l.park == .exited || l.arrived.contains key
/-- Forget the arrival at a completed phase. -/
def Lane.unarrive (l : Lane) (key : Nat) : Lane := { l with arrived := l.arrived.filter (· != key) }

def Team.bar (t : Team) (b : Nat) : Bar := (t.bars[b]?).getD { phase := 0, mask := 0 }
def Team.setBar (t : Team) (b : Nat) (x : Bar) : Team := { t with bars := t.bars.set b x }

/-- Complete team barrier b if every participating group has arrived (R214): the phase rises, the waiting lanes go on. -/
def State.completeBar (s : State) (t : Team) (b : Nat) : State :=
  let x := t.bar b
  let mine := fun l : Lane => l.id.tid == t.tid
  if x.mask ≠ 0 ∧ (s.lanes.all fun l => !(mine l && fld x.mask (roleBit l.role - 1) 1 == 1) || l.atBar b) then
    let s1 := s.modTeam t.tid fun t => t.setBar b { phase := (x.phase + 1) % 65536, mask := 0 }
    let s2 : State := { s1 with lanes := s1.lanes.map fun l => if mine l then l.unarrive b else l }
    (s2.together fun l => mine l && l.park == .barrier b).release fun l =>
      mine l && (match l.park with | .barrier c => c == b | .waitph c _ => c == b | _ => false)
  else s

/-- The cluster set of a lane's team (R216). -/
def State.setOf (s : State) (l : Lane) : Nat := (s.team? l.id.tid).elim l.cluster (·.set)
/-- Complete the cluster barrier of a cluster set, which is fixed at placement (R216), once every team of it is resident. -/
def State.completeCbar (s : State) (p seq cluster : Nat) : State :=
  let mine := fun l : Lane => l.part == p && l.seq == seq && s.setOf l == cluster
  let whole := (s.launch? p seq).elim true fun L => L.restore.all fun v => v.team.set != cluster
  if whole && (s.lanes.any fun l => mine l && l.arrived.contains cbarKey) && (s.lanes.all fun l => !mine l || l.atBar cbarKey) then
    let s1 := s.modLaunch p seq fun L => { L with cphase := tmod 0 cluster (fun n => (n + 1) % 65536) L.cphase }
    let s2 : State := { s1 with lanes := s1.lanes.map fun l => if mine l then l.unarrive cbarKey else l }
    let waits := fun l : Lane => mine l && l.park == .cbar
    ((s2.acquireAll waits .cluster).together waits).release waits
  else s

/-- Complete the grid barrier of a launch whose teams are all placed (R217). -/
def State.completeGbar (s : State) (p seq : Nat) : State :=
  let mine := fun l : Lane => l.part == p && l.seq == seq
  let whole := (s.launch? p seq).elim false fun L => L.placed == recTeams L.lrec && L.restore.isEmpty
  if whole && (s.lanes.any fun l => mine l && l.arrived.contains gbarKey) && (s.lanes.all fun l => !mine l || l.atBar gbarKey) then
    let s1 := s.modLaunch p seq fun L => { L with gphase := (L.gphase + 1) % 65536 }
    let s2 : State := { s1 with lanes := s1.lanes.map fun l => if mine l then l.unarrive gbarKey else l }
    let waits := fun l : Lane => mine l && (match l.park with | .gbar => true | .waitph c _ => c == 4 | _ => false)
    ((s2.acquireAll waits .device).together fun l => mine l && l.park == .gbar).release waits
  else s

/-- Complete whatever barrier a lane's arrival or exit completes. -/
def State.completeAll (s : State) (l : Lane) : State :=
  let s1 := (List.range 4).foldl (fun s b => match s.team? l.id.tid with | some t => s.completeBar t b | none => s) s
  (s1.completeCbar l.part l.seq (s1.setOf l)).completeGbar l.part l.seq

/-- A lane that arrives again before its phase completes: it parks at the word and issues it again (R215, R412). -/
def Lane.parkAgain (l : Lane) (k : Park) : Lane := { l.parked k with skipped := true }

/-! ## Events -/

/-- The lanes among those that satisfy f whose event has reached its target go on (R204, R390), those that wait for it behind a marker's park
among them. -/
def State.retest (s : State) (f : Lane → Bool) : State :=
  let waits := fun l : Lane => f l && (match l.park with | .evwait x m => s.eventReached l.part x m | _ => false)
  let marked := fun l : Lane => f l && l.evw.elim false fun x => s.eventReached l.part x.1 x.2
  let s1 : State :=
    if s.lanes.any marked then { s.acquireAll marked .device with lanes := s.lanes.map fun l => if marked l then { l with evw := none } else l } else s
  if s1.lanes.any waits then (s1.acquireAll waits .device).release waits else s1
/-- Add to an event, and let the lanes go whose target it has reached. -/
def State.bumpEvent (s : State) (p e : Nat) (n : Word) : State :=
  (s.addEvent p e n).retest fun l =>
    l.part == p && ((match l.park with | .evwait x _ => x == e % 256 | _ => false) || l.evw.elim false fun x => x.1 == e % 256)

/-! ## Random numbers (R104) -/

/-- One draw. -/
def rndDraw (seed gid : DWord) (c : DWord) : DWord :=
  let s := (seed ^^^ (gid * 0xD1B54A32D192ED03)) + c * 0x9E3779B97F4A7C15
  let z := (s ^^^ (s >>> 30)) * 0xBF58476D1CE4E5B9
  let z := (z ^^^ (z >>> 27)) * 0x94D049BB133111EB
  z ^^^ (z >>> 31)

end Sys2Proof.Machine
end

