-- ==== Sys2Proof/Machine/Sync.lean ====
section
/-! DEFINITION. Barriers, events and fences (R214 to R217, R357, R358, R369, R388 to R390, R407, R408, R410 to R412,
R493, R494). -/
namespace Sys2Proof.Machine
open Sys2Proof

/-- Is the lane's launch cooperative (R198)? -/
def State.coop (s : State) (l : Lane) : Bool := recCoop (s.laneRec l)
/-- The phase a lane sees of team barrier b, and of the grid barrier. -/
def State.barPhase (s : State) (l : Lane) (b : Nat) : Nat := (s.team? l.id.tid).elim 0 fun t => (t.bar b).phase
def State.gridPhase (s : State) (l : Lane) : Nat := (s.launch? l.part l.seq).elim 0 (·.gphase)

/-! ## Team barriers -/

/-- Arrive at a team barrier with a mask (R214, R358): BARSTATE for a mask without the group's own role, or other than the
mask of the phase; a second arrival in one phase parks first. `go` acts in a lane that arrives. -/
def State.arrive (s : State) (l : Lane) (m b : Fin 4) (go : Nat → Lane → Lane) : State :=
  match s.team? l.id.tid with
  | none => s
  | some t =>
    let x := t.bar b.val
    if fld m.val (roleBit l.role - 1) 1 = 0 then s.raise l (l.causeHere causeBarState b.val 0)
    else if l.arrived.contains b.val then s.setLane (l.parkAgain (.barrier b.val))
    else if x.mask ≠ 0 ∧ x.mask ≠ m.val then s.raise l (l.causeHere causeBarState b.val 0)
    else
      let l1 : Lane :=
        { l with arrived := l.arrived ++ [b.val], lastArr := (b.val, x.phase) :: l.lastArr.filter (fun e => e.1 != b.val) }
      let s1 := (s.modTeam t.tid fun t => t.setBar b.val { x with mask := m.val }).setLane ((go x.phase l1).adv 4)
      match s1.team? t.tid with
      | some t => s1.completeBar t b.val
      | none => s1

/-- BAR: arrive and park until the phase completes (R215). -/
def execBar (m b : Fin 4) (s : State) : Host.Outcome State Fault Refusal :=
  guarded (.bar m b) s fun s => waitFirst s fun s => releaseFirst s fun s => eachActive s fun s l =>
    s.arrive l m b fun _ l => l.parked (.barrier b.val)
/-- BARA: arrive, take the phase as a token and go on (R215). -/
def execBara (d : VReg) (m b : Fin 4) (s : State) : Host.Outcome State Fault Refusal :=
  guarded (.bara d m b) s fun s => releaseFirst s fun s => eachActive s fun s l =>
    s.arrive l m b fun ph l => l.setV d (BitVec.ofNat 32 ph)
/-- BARW: park until the phase of the lane's last arrival completes (R215). -/
def execBarw (b : Fin 4) (s : State) : Host.Outcome State Fault Refusal :=
  guarded (.barw b) s fun s => waitFirst s fun s => mapActive s fun l =>
    if l.arrived.contains b.val then (l.adv 4).parked (.barrier b.val) else l.adv 4

/-! ## Cluster and grid barriers -/

/-- CBAR (R216, R369). -/
def execCbar (s : State) : Host.Outcome State Fault Refusal :=
  guarded .cbar s fun s => waitFirst s fun s => releaseFirst s fun s => eachActive s fun s l =>
    if !s.coop l then s.raise l (l.causeHere causeIllegal 0 0)
    else if l.arrived.contains cbarKey then s.setLane (l.parkAgain .cbar)
    else (s.setLane (({ l with arrived := l.arrived ++ [cbarKey] }.adv 4).parked .cbar)).completeCbar l.part l.seq (s.setOf l)
/-- GBAR (R217, R410 to R412). -/
def execGbar (s : State) : Host.Outcome State Fault Refusal :=
  guarded .gbar s fun s => waitFirst s fun s => releaseFirst s fun s => eachActive s fun s l =>
    if !s.coop l then s.raise l (l.causeHere causeIllegal 0 0)
    else if l.arrived.contains gbarKey then s.setLane (l.parkAgain .gbar)
    else (s.setLane (({ l with arrived := l.arrived ++ [gbarKey] }.adv 4).parked .gbar)).completeGbar l.part l.seq

/-- WAITPH (R494): the age of the token; it parks at age 0, and the predicate says STALE at age 2 or more. -/
def execWaitph (p : PReg) (a : VReg) (b : Fin 8) (s : State) : Host.Outcome State Fault Refusal :=
  guarded (.waitph p a b) s fun s => waitFirst s fun s => eachActive s fun s l =>
    if b.val = 4 ∧ !s.coop l then s.raise l (l.causeHere causeIllegal 0 0)
    else
      let ph := if b.val = 4 then s.gridPhase l else s.barPhase l b.val
      let token := fld (l.getV a).toNat 0 16
      let age := (ph + 65536 - token) % 65536
      let l1 := (l.setP p (2 ≤ age)).adv 4
      if age = 0 then s.setLane (l1.parked (.waitph b.val token))
      else (s.setLane l1).acquire l (if b.val = 4 then .device else .team)

/-! ## Events -/

/-- EVSIG (R389): each active lane adds its amount, and goes on. While accesses before it are not performed, the addition waits for them;
so does one behind another of its lane that waits. -/
def execEvsig (a b : VReg) (s : State) : Host.Outcome State Fault Refusal :=
  guarded (.evsig a b) s fun s => eachActive (mapActive s fun l => l.adv 4) fun s l =>
    let e := fld (l.getV a).toNat 0 8
    let x := s.boundOf l
    if x.free && l.rels.isEmpty then s.bumpEvent l.part e (l.getV b)
    else s.setLane { l with rels := l.rels ++ [{ after := x, event := e, amount := l.getV b }] }
/-- The additions of EVSIGs of a lane whose earlier accesses are performed by now are made. -/
def State.doRels (s : State) (l : Lane) : State :=
  let rs := l.rels.takeWhile fun r => s.passed l.id r.after
  rs.foldl (fun s r => s.bumpEvent l.part r.event r.amount) (s.modLane l.id fun m => { m with rels := m.rels.drop rs.length })
/-- EVWAIT (R390): each active lane tests its event as it issues the word, and waits until it has reached its target; a lane with results
outstanding parks at the marker first, and a count that comes true meanwhile lets it go on after that. -/
def execEvwait (a b : VReg) (s : State) : Host.Outcome State Fault Refusal :=
  guarded (.evwait a b) s fun s => eachActive s fun s l =>
    let e := fld (l.getV a).toNat 0 8
    let m := l.adv 4
    if s.eventReached l.part e (l.getV b) then (s.setLane m).acquire l .device
    else if l.deferred.isEmpty then s.setLane (m.parked (.evwait e (l.getV b)))
    else s.setLane { m with evw := some (e, l.getV b) }

/-! ## Fences -/

def Order.acquires : Order → Bool
  | .acq | .ar => true
  | .rlx | .rel => false
def Order.releases : Order → Bool
  | .rel | .ar => true
  | .rlx | .acq => false

/-- Does a word order earlier accesses before it (R180)? At lane scope it orders none. -/
def releasesAt (e : Scope) (o : Order) : Bool := Order.releases o && e != .lane
/-- Does it order later accesses after it? -/
def acquiresAt (e : Scope) (o : Order) : Bool := Order.acquires o && e != .lane
/-- Must a release wait: for a held ordered atomic, and at system scope for a peer write not yet acknowledged (R180, R408)? -/
def State.releaseWaits (s : State) (l : Lane) (e : Scope) (o : Order) : Bool :=
  releasesAt e o && (s.holdsAtom l || e == .system && s.peerStores l)
/-- Write the partition's dirty capacity-tier lines back (R147). -/
def State.capFlush (s : State) (p : Nat) : State :=
  ((s.capLines.map (·.1)).filter fun ln => (s.extents.map (·.2)).any fun e =>
    e.owner == p && decide (2 ^ 44 + e.off ≤ 128 * ln) && decide (128 * ln < 2 ^ 44 + e.off + e.len)).foldl State.capBack s

/-- FENCE (R408). The lane's deferred accesses are performed by then and its other accesses where they issue (log entry 3), so what
remains is its held atomics, the L1, the capacity tier and the acknowledgements of peer writes. -/
def execFence (e : Scope) (o : Order) (s : State) : Host.Outcome State Fault Refusal :=
  guarded (.fence e o) s fun s => waitFirst s fun s => eachActive s fun s l =>
    if s.releaseWaits l e o then s.setLane l.stall
    else
      let s1 := if Order.acquires o then s.acquire l e else s
      let s2 := if e = .system then s1.capFlush l.part else s1
      s2.setLane (l.adv 4)

end Sys2Proof.Machine
end

