-- ==== Sys2Proof/Machine/Scratch.lean ====
section
/-! DEFINITION. A team's SRAM macros (R109 to R115, R212): swizzled scratch addresses, reads and writes of words, rings. -/
namespace Sys2Proof.Machine
open Sys2Proof

/-! ## The scratch space -/

/-- The team's macros in a mode, in ascending number (R109, R212). -/
def State.macrosIn (s : State) (t : Team) (m : MacroMode) : List Nat :=
  t.macros.filter fun x => ((s.cluster t.cluster).macro' x).mode == m
def State.scratchList (s : State) (t : Team) : List Nat := s.macrosIn t .scratch
def State.queueList (s : State) (t : Team) : List Nat := s.macrosIn t .queue
/-- The team of a lane; an empty one if it has none. -/
def State.teamOf (s : State) (l : Lane) : Team :=
  (s.team? l.id.tid).getD
    { tid := l.id.tid, part := l.part, seq := l.seq, index := 0, cluster := l.cluster, set := l.cluster, groups := [], macros := [], cvs := [], tiles := [],
      bars := [], handles := [], smode := [], ordered := [], begun := false }
def State.modMacro (s : State) (cluster m : Nat) (f : Sram → Sram) : State := s.modCluster cluster fun c => c.modMacro m f

/-- Scratch word w of n macros under a swizzle code: macro position and word offset (R114). -/
def swizzle (code n w : Nat) : Nat × Nat :=
  let p := Nat.log2 n
  let r := w / 2 ^ p
  let c := w % n
  if code = 0 then (c, r)
  else if code = 1 then (c.xor (r % n), r)
  else if code = 2 then (c.xor (2 * r % n), r)
  else if code = 3 then (c.xor (4 * r % n), r)
  else if code = 4 then ((c + r) % n, r)
  else if code = 5 then ((w + r) % n, (w + r) / 2 ^ p)
  else if code = 6 then ((w + w / 2 ^ (p + 1)) % n, (w + w / 2 ^ (p + 1)) / 2 ^ p)
  else (r % n, w / 2 ^ (2 * p) * n + c)

/-- Bytes of a macro, and eight-byte words of it (R109). -/
def macroBytes : Nat := 49152
def macroWords : Nat := 6144

/-- A part of an access within one word: macro number, word offset, first byte in the word, bytes. -/
structure Piece where
  mac : Nat
  word : Nat
  byte : Nat
  len : Nat
  deriving DecidableEq, Repr

/-- The words an access of n bytes at scratch address A falls on (R114); none outside the scratch space (R109). -/
def pieces (list : List Nat) (code : Nat) (a : Int) (n : Nat) : Option (List Piece) :=
  if a < 0 ∨ list.length * macroBytes < a.toNat + n then none
  else
    let x := a.toNat
    let ps := (List.range ((x + n + 7) / 8 - x / 8)).map fun i =>
      let w := x / 8 + i
      let q := swizzle code list.length w
      let lo := max x (8 * w)
      let hi := min (x + n) (8 * w + 8)
      ({ mac := (list[q.1]?).getD 0, word := q.2, byte := lo - 8 * w, len := hi - lo } : Piece)
    if ps.any (fun p => macroWords ≤ p.word) then none else some ps

/-! ## Reads and writes of pieces -/

/-- Read pieces: their bytes; none where a word is poisoned (R236). -/
def State.readPieces (s : State) (cluster : Nat) (ps : List Piece) : Option (List Byte) :=
  let c := s.cluster cluster
  if ps.any fun p => (c.macro' p.mac).poison.contains p.word then none
  else some (ps.flatMap fun p => readBytes (c.macro' p.mac).data (8 * p.word + p.byte) p.len)
/-- The first poisoned word of an access. -/
def State.poisonedPiece (s : State) (cluster : Nat) (ps : List Piece) : Option Piece :=
  ps.find? fun p => ((s.cluster cluster).macro' p.mac).poison.contains p.word

/-- Write pieces, tagging their words; a whole word clears its poison (R115, R489). -/
def State.writePieces (s : State) (cluster code : Nat) : List Piece → List Byte → State
  | [], _ => s
  | p :: r, bs =>
    let s1 := s.modMacro cluster p.mac fun m =>
      { m with data := writeBytes m.data (8 * p.word + p.byte) (bs.take p.len), tags := tset p.word code m.tags,
               poison := if p.len = 8 then m.poison.filter (· != p.word) else m.poison }
    s1.writePieces cluster code r (bs.drop p.len)

/-- Is a conversion in progress that SMODE has asked for? Accesses issued meanwhile wait for it, since it changes where every scratch
address lies (R111). -/
def Team.converting (t : Team) : Bool := !t.smode.isEmpty

/-! ## Counting (R113, R115) -/

/-- The distinct words of a bundle's accesses, as macro and word. -/
def distinctWords (ps : List Piece) : List (Nat × Nat) := (ps.map fun p => (p.mac, p.word)).eraseDups
/-- Conflict cycles of a bundle's access (R113). -/
def conflictCycles (ps : List Piece) (ns : Nat) : Nat :=
  let ws := distinctWords ps
  let d := ((ws.map fun w => (ws.filter fun x => x.1 == w.1).length).max?).getD 0
  d - (ws.length + ns - 1) / max ns 1
/-- Cross-swizzle events of a bundle's load (R115). -/
def State.crossWords (s : State) (cluster code : Nat) (ps : List Piece) : Nat :=
  ((distinctWords ps).filter fun w =>
    let t := tget 8 w.2 ((s.cluster cluster).macro' w.1).tags
    t != 8 && t != code).length

/-! ## Rings (R212) -/

/-- Entries of a queue macro. -/
def queueEntries : Nat := 3072
/-- The two words of a ring entry. -/
def entryPieces (mac i : Nat) : List Piece :=
  [{ mac := mac, word := 2 * (i % queueEntries), byte := 0, len := 8 }, { mac := mac, word := 2 * (i % queueEntries) + 1, byte := 0, len := 8 }]
/-- Append an entry of 16 bytes; tags stay (R115). -/
def Sram.push (m : Sram) (bs : List Byte) : Sram :=
  let i := (m.qhead + m.qcount) % queueEntries
  { m with data := writeBytes m.data (16 * i) bs, qcount := m.qcount + 1,
           poison := m.poison.filter fun w => w != 2 * i && w != 2 * i + 1 }
/-- Remove the oldest entry. -/
def Sram.pop (m : Sram) : Sram := { m with qhead := (m.qhead + 1) % queueEntries, qcount := m.qcount - 1 }

end Sys2Proof.Machine
end

