-- ==== Sys2Proof/Machine/Perform.lean ====
section
/-! DEFINITION. Performing an access of a lane from the operand words it read at issue: what a deferred load, atomic or
queue read returns, at issue and when it is executed again alone (R82, R228, R233). -/
namespace Sys2Proof.Machine
open Sys2Proof

/-! ## Causes at the word -/

/-- ALIGN at the word (R108). -/
def alignCause (i : Instr) (a : Int) : Option (Nat × Nat × DWord) :=
  if a % 2 ^ alignLog i ≠ 0 then some (causeAlign, alignLog i, BitVec.ofInt 64 a) else none
/-- SCRATCH_RANGE at the word (R109). -/
def rangeCause (ps : Option (List Piece)) (a : Int) : Option (Nat × Nat × DWord) :=
  if ps.isNone then some (causeScratch, 0, BitVec.ofInt 64 a) else none

/-- The words a scratch access of an instruction falls on. -/
def State.scratchPieces (s : State) (l : Lane) (i : Instr) (srcs : List Word) : Option (List Piece) :=
  let list := s.scratchList (s.teamOf l)
  match i with
  | .lds _ _ z w k | .sts _ _ z w k => pieces list w.val (scratchAddr (srcAt srcs 0) k z) z.bytes
  | .atom _ _ _ _ z _ _ _ _ | .atomNr _ _ _ z _ _ _ _ | .cas _ _ _ _ z _ _ _ _ => pieces list 0 (atomScratchAddr i srcs) z.bytes
  | _ => none

/-- The cause an access raises at the word, before any part of it is performed (R108, R109, R225). -/
def State.accessCause (s : State) (l : Lane) (i : Instr) (srcs : List Word) : Option (Nat × Nat × DWord) :=
  match i with
  | .lds _ _ z _ k | .sts _ _ z _ k =>
    let a := scratchAddr (srcAt srcs 0) k z
    (alignCause i a).orElse fun _ => rangeCause (s.scratchPieces l i srcs) a
  | .atom .. | .atomNr .. | .cas .. =>
    if atomScratch srcs then
      let a := atomScratchAddr i srcs
      (alignCause i a).orElse fun _ => if fld (srcAt srcs 1).toNat 0 31 = 0 then rangeCause (s.scratchPieces l i srcs) a else none
    else alignCause i (eaSrc i srcs)
  | _ => alignCause i (eaSrc i srcs)

/-! ## Order among a lane's accesses (R180 to R183) -/

/-- Has a lane the data error of an abandoned peer write to take before it releases at system scope (R299)? -/
def Lane.lostStore (l : Lane) : Bool := l.deferred.any fun d => match d.wait with | .dataUe 0 _ false => true | _ => false

/-- The scope and the order of an access (R17). An ATOM or CAS on scratch is performed as at cluster scope at the widest (R172). -/
def orderOf (i : Instr) (srcs : List Word) : Scope × Order :=
  match i with
  | .ldB8 _ _ e o _ _ | .ldB16 _ _ e o _ _ | .ldB32 _ _ e o _ _ | .ldB64 _ _ e o _ _ | .ldB128 _ _ e o _ _ | .kld _ _ e o _ _ => (e, o)
  | .stB8 _ _ e o _ | .stB16 _ _ e o _ | .stB32 _ _ e o _ | .stB64 _ _ e o _ | .stB128 _ _ e o _ | .kst _ _ e o _ => (e, o)
  | .aacc _ _ _ e o _ | .aaccMul _ _ _ _ e o _ | .amrg _ _ e o _ | .amrgNeg _ _ e o _ => (e, o)
  | .atom _ _ _ _ _ _ e o _ | .atomNr _ _ _ _ _ e o _ | .cas _ _ _ _ _ _ e o _ => (if atomScratch srcs && wide e then .cluster else e, o)
  | _ => (.lane, .rlx)
/-- Do two ranges share an address? -/
def meets (a n b m : Nat) : Bool := decide (a < b + m) && decide (b < a + n)

/-- An access of a lane whose point is still to come: its word, its sources, whether it has met a fault, and whether it is an acquire, so
that every later access comes after it (R180). The return of a QPOP is one (R472). -/
structure Pend where
  instr : Instr
  srcs : List Word
  faulted : Bool
  acquires : Bool
  deriving DecidableEq, Repr
/-- Is an access an acquire (R180)? -/
def acquiring (i : Instr) (srcs : List Word) : Bool := acquiresAt (orderOf i srcs).1 (orderOf i srcs).2
/-- The scope at which the answer to a peer access without a result acquires. -/
def acqScope (i : Instr) (srcs : List Word) : Option Scope := if acquiring i srcs then some (orderOf i srcs).1 else none
/-- A lane's accesses whose points are still to come: deferred ones not performed, held ordered atomics, and acquires without a result
that a peer has not answered. -/
def State.pendings (s : State) (l : Lane) : List Pend :=
  ((l.deferred.filter Deferred.unperformed).map fun d => { instr := d.instr, srcs := d.srcs, faulted := d.faulted, acquires := acquiring d.instr d.srcs }) ++
    (((s.teamOf l).ordered.filter fun a => a.lane == l.id).map fun a => { instr := a.instr, srcs := a.srcs, faulted := false, acquires := acquiring a.instr a.srcs }) ++
    (s.peers.filter fun r => r.lane == some l.id && r.acq.isSome).map fun _ => { instr := .nop, srcs := [], faulted := false, acquires := true }
/-- Does an access to global memory touch some of n bytes from an address? Two pages may be one in memory, so addresses are compared within
4 KiB unless it has faulted. -/
def Pend.touches (u : Pend) (a n : Nat) : Bool :=
  !onScratch u.instr u.srcs && (if u.faulted then meets a n (eaSrc u.instr u.srcs) (spanOf u.instr)
    else meets (a % 4096) n (eaSrc u.instr u.srcs % 4096) (spanOf u.instr))
/-- Do two accesses of a lane overlap (R180)? -/
def State.overlaps (s : State) (l : Lane) (i : Instr) (srcs : List Word) (u : Pend) : Bool :=
  if onScratch i srcs != onScratch u.instr u.srcs then false
  else if onScratch i srcs then
    match s.scratchPieces l i srcs, s.scratchPieces l u.instr u.srcs with
    | some ps, some qs => ps.any fun p => qs.any fun q => p.mac == q.mac && p.word == q.word
    | _, _ => false
  else u.touches (eaSrc i srcs) (spanOf i)
/-- Does an earlier access come before a later one (R180): the later is a release, the earlier an acquire, or they overlap (R182)? -/
def State.comesFirst (s : State) (l : Lane) (i : Instr) (srcs : List Word) (u : Pend) : Bool :=
  releasesAt (orderOf i srcs).1 (orderOf i srcs).2 || u.acquires ||
    (s.overlaps l i srcs u && !(anyLoad i && readOnly u.instr))
/-- A word that must come after some accesses: it waits for them, or has its effect k. -/
def State.awaiting (s : State) (l : Lane) (us : List Pend) (k : State) : State :=
  if us.isEmpty then k else s.setLane (l.hold (us.any (·.faulted)))
/-- A release at system scope waits for the lane's peer writes, and first takes the data error of one that was abandoned (R180, R299). -/
def systemRelease (s : State) (l : Lane) (e : Scope) (o : Order) (k : State) : State :=
  if e = .system ∧ Order.releases o then
    if l.lostStore then s.setLane (l.hold true) else if s.peerStores l then s.setLane l.stall else k
  else k
/-- An access in its order among the lane's own (R180). -/
def inOrder (s : State) (l : Lane) (i : Instr) (srcs : List Word) (k : State) : State :=
  s.awaiting l ((s.pendings l).filter (s.comesFirst l i srcs)) (systemRelease s l (orderOf i srcs).1 (orderOf i srcs).2 k)
/-- A word that releases the lane's earlier accesses at a scope (R183). -/
def withRelease (s : State) (l : Lane) (e : Scope) (k : State) : State :=
  s.awaiting l (if e = .lane then [] else s.pendings l) (systemRelease s l e .rel k)

/-! ## Records in another package's memory -/

/-- 64 bytes of a launch record or a descriptor in another package's memory: what a request has brought, nothing where it was abandoned; or the lane asks for it and
waits. -/
def State.farPart (s : State) (l : Lane) (va dpa : Nat) : State × Res :=
  match l.fetched.find? fun e => e.1 == va with
  | some e => (s, if e.2.isEmpty then .ue false else .data e.2)
  | none =>
    if s.peers.any fun r => r.lane == some l.id && r.va == va && r.op == .read 64 && r.n.isNone then (s, .busy)
    else ((s.askPeer l none dpa (.read 64) va false none).2, .busy)

/-! ## Results -/

/-- What performing a deferred access gives: the value read and what the result still waits for, or nothing yet. -/
inductive Perf where
  | got (x : Nat) (w : Wait)
  | busy
  deriving DecidableEq, Repr

/-- The v registers a returned value goes to. -/
def retV (i : Instr) (x : Nat) : List (Nat × Word) :=
  match i with
  | .ldB8 d .. | .ldB16 d .. | .ldB32 d .. => regsFrom d 1 x
  | .ldB64 d .. => regsFrom d 2 x
  | .ldB128 d .. | .qpop d _ => regsFrom d 4 x
  | .lds d _ z _ _ => regsFrom d (regsOf z) x
  | .atom d _ _ _ z _ _ _ _ | .cas d _ _ _ z _ _ _ _ => regsFrom d (regsOf z) x
  | _ => []
/-- The k registers a returned value goes to (R432). -/
def retK (i : Instr) (x : Nat) : List (Nat × LA) :=
  match i with
  | .kld k .. => [(k.val, laOfImage x)]
  | _ => []
/-- The pending carries of the k register (R45). -/
def retC (i : Instr) (x : Nat) : BitVec 80 :=
  match i with
  | .kld .. => BitVec.ofNat 80 (fld x 640 80)
  | _ => 0
/-- A deferred instruction with the value that it returned and what it still waits for. -/
def Deferred.returned (d : Deferred) (x : Nat) (w : Wait) : Deferred :=
  { d with vdst := retV d.instr x, kdst := retK d.instr x, kcar := retC d.instr x, wait := w }

/-- The result of a global access as a deferred one. -/
def perfOf (s : State) (l : Lane) (n : Nat) (op : PeerOp) (ea aux : Nat) (rpl : Bool) (r : Res) : State × Perf :=
  match r with
  | .data bs => (s, .got (leNat bs) .ready)
  | .page f => (s, .got 0 (.page f 0))
  | .ue fold => (s, .got 0 (.dataUe (if fold then 2 else aux) (BitVec.ofNat 64 ea) rpl))
  | .peer a =>
    let q := s.askPeer l (some n) a op ea false none
    (q.2, .got 0 (.peer q.1))
  | .busy => (s, .busy)

/-- What an access acquires (R118, R180). -/
def State.acquireFor (s : State) (l : Lane) (i : Instr) (srcs : List Word) : State :=
  if Order.acquires (orderOf i srcs).2 then s.acquire l (orderOf i srcs).1 else s
/-- A result that acquires. -/
def acquired (l : Lane) (i : Instr) (srcs : List Word) (r : State × Perf) : State × Perf :=
  match r.2 with
  | .got x w => (r.1.acquireFor l i srcs, .got x w)
  | .busy => r

/-- LD (R445). -/
def performLd (s : State) (l : Lane) (n : Nat) (i : Instr) (srcs : List Word) : State × Perf :=
  let ea := eaSrc i srcs
  let r := s.load l ea (spanOf i) (anyLoad i)
  acquired l i srcs (perfOf r.1 l n (.read (spanOf i)) ea 0 true r.2)

/-! ## Atomics (R353, R354, R368) -/

/-- The new value of ATOM (R354), of w bits. -/
def atomNew (op : AtomOp) (w old x : Nat) : Nat :=
  let so := signedOf w old
  let sx := signedOf w x
  match op with
  | .add => (old + x) % 2 ^ w
  | .min => if so ≤ sx then old else x
  | .max => if so ≥ sx then old else x
  | .minu => if old ≤ x then old else x
  | .maxu => if old ≥ x then old else x
  | .and => old.land x
  | .or => old.lor x
  | .xor => old.xor x
  | .exch => x
/-- What CAS writes: nothing where the comparison fails (R368). -/
def casNew (old cmp new : Nat) : Option Nat := if old = cmp then some new else none

/-- What an atomic writes over the old value, and the request that asks a peer for it. -/
def atomFn (i : Instr) (srcs : List Word) : (Nat → Option Nat) × PeerOp :=
  match i with
  | .atom _ _ _ op z _ _ _ _ | .atomNr _ _ op z _ _ _ _ =>
    let x := wordsNat (srcs.drop 2)
    (fun old => some (atomNew op (8 * z.bytes) old x), .atomic op z.bytes x)
  | .cas _ _ _ _ z _ _ _ _ =>
    let c := wordsNat ((srcs.drop 2).take (regsOf z))
    let x := wordsNat (srcs.drop (2 + regsOf z))
    (fun old => casNew old c x, .cas z.bytes c x)
  | _ => (some, .read 0)

/-- A read-modify-write of a scratch word (R353): old bytes, or poison; the word that it writes takes tag 0. -/
def State.scratchRmw (s : State) (cluster : Nat) (ps : List Piece) (n : Nat) (f : Nat → Option Nat) : State × Option (List Byte) :=
  match s.readPieces cluster ps with
  | none => (s, none)
  | some bs => ((f (leNat bs)).elim s fun x => s.writePieces cluster 0 ps (leBytes x n), some bs)

/-- The bytes of an atomic. -/
def atomBytes : Instr → Nat
  | .atom _ _ _ _ z _ _ _ _ | .atomNr _ _ _ z _ _ _ _ | .cas _ _ _ _ z _ _ _ _ => z.bytes
  | _ => 0

/-- An atomic where R353 places it: its old bytes. -/
def State.atomic (s : State) (l : Lane) (i : Instr) (srcs : List Word) : State × Res :=
  let n := atomBytes i
  let f := (atomFn i srcs).1
  if atomScratch srcs then
    if fld (srcAt srcs 1).toNat 0 31 ≠ 0 then (s, .page (pageFault 4 (eaSrc i srcs) .write))
    else
      match s.scratchPieces l i srcs with
      | none => (s, .busy)
      | some ps =>
        let q := s.scratchRmw l.cluster ps n f
        match q.2 with
        | some bs => (q.1, .data bs)
        | none => (q.1, .ue false)
  else s.rmw l (eaSrc i srcs) n f

/-- A returning atomic (R355): DATA_UE has AUX 1 and is not executed again (R175). -/
def performAtom (s : State) (l : Lane) (n : Nat) (i : Instr) (srcs : List Word) : State × Perf :=
  let r := s.atomic l i srcs
  acquired l i srcs (perfOf r.1 l n (atomFn i srcs).2 (if atomScratch srcs then (atomScratchAddr i srcs).toNat else eaSrc i srcs) 1 false r.2)

/-! ## The deferred accesses -/

/-- The word where LDS or QPOP meets poison, for %tval (R224). -/
def State.scratchUe (s : State) (cluster : Nat) (ps : List Piece) (tval : Piece → DWord) : Wait :=
  .dataUe 4 ((s.poisonedPiece cluster ps).elim 0 tval) true

/-- Perform a deferred access with the words it read at issue. QPOP's are its queue, its macro and the position of its
entry in the ring. -/
def State.perform (s : State) (l : Lane) (n : Nat) (i : Instr) (srcs : List Word) : State × Perf :=
  match i with
  | .ldB8 .. | .ldB16 .. | .ldB32 .. | .ldB64 .. | .ldB128 .. => performLd s l n i srcs
  | .kld .. =>
    let ea := eaSrc i srcs
    let r := s.loadVia (s.via l) ea 96
    match r.2 with
    | .peer _ => (r.1, .got 0 (.page (pageFault 2 ea .read) 0))
    | q => acquired l i srcs (perfOf r.1 l n (.read 96) ea 0 true q)
  | .lds _ _ z _ k =>
    match s.scratchPieces l i srcs with
    | none => (s, .busy)
    | some ps =>
      if (s.teamOf l).converting then (s, .busy)
      else
        match s.readPieces l.cluster ps with
        | some bs => (s, .got (leNat bs) .ready)
        | none => (s, .got 0 (s.scratchUe l.cluster ps fun _ => BitVec.ofInt 64 (scratchAddr (srcAt srcs 0) k z)))
  | .qpop _ _ =>
    let ps := entryPieces (srcAt srcs 1).toNat (srcAt srcs 2).toNat
    match s.readPieces l.cluster ps with
    | some bs => (s, .got (leNat bs) .ready)
    | none => (s, .got 0 (s.scratchUe l.cluster ps fun p => BitVec.ofNat 64 ((srcAt srcs 0).toNat % 256 * 2 ^ 32 + 8 * p.word)))
  | .atom .. | .cas .. => performAtom s l n i srcs
  | _ => (s, .got 0 .ready)

/-! ## Issue of an access -/

/-- Note a deferred access of a lane, which goes on. -/
def Lane.noted (l : Lane) (i : Instr) (srcs : List Word) (x : Nat) (w : Wait) : Lane :=
  (l.deferK i srcs (retV i x) (retK i x) (retC i x) 0 w).adv (instrLen i)
/-- Perform and note a deferred access; it issues again later while it cannot be performed. -/
def State.noteAccess (s : State) (l : Lane) (i : Instr) (srcs : List Word) : State :=
  let r := s.perform l l.nextDef i srcs
  match r.2 with
  | .got x w => r.1.setLane (l.noted i srcs x w)
  | .busy => r.1.setLane l.stall

/-- The fault of an immediate access that is taken at the lane's next marker (R82, R175). -/
def Lane.lateUe (l : Lane) (i : Instr) (srcs : List Word) (aux ea : Nat) : Lane :=
  l.defer i srcs [] [] 0 (.dataUe aux (BitVec.ofNat 64 ea) false)

/-- What follows an immediate access: the lane goes on, faults at the word, waits, or will take a data error at its next
marker. -/
def State.endAccess (s : State) (l : Lane) (i : Instr) (srcs : List Word) (op : PeerOp) (ea aux : Nat) (r : Res) : State :=
  match r with
  | .data _ => s.setLane (l.adv (instrLen i))
  | .page f => s.setLane (l.pageHere f)
  | .ue fold => s.setLane ((l.lateUe i srcs (if fold then 2 else aux) ea).adv (instrLen i))
  | .busy => s.setLane l.stall
  | .peer a => ((s.askPeer l none a op ea true (acqScope i srcs)).2).setLane (l.adv (instrLen i))

/-- Words whose lanes' points fall in ascending slot (R488). -/
def inSlotOrder : Instr → Bool
  | .stB8 .. | .stB16 .. | .stB32 .. | .stB64 .. | .stB128 .. | .sts .. | .kst .. => true
  | _ => false
/-- Has a lane of the word in a lower slot that stores to bytes of this lane's store not stored yet, because it waits or faults (R488)? `s0`
is the state in which the word issued. -/
def State.behindStore (s s0 : State) (l : Lane) (i : Instr) (srcs : List Word) : Bool :=
  inSlotOrder i && s0.actives.any fun m =>
    decide (m.id.slot < l.id.slot) && (s.lane? m.id).elim false (fun x => x.skipped && x.pc == m.pc && x.trap.isNone) &&
      s.overlaps l i srcs { instr := i, srcs := srcsOf m i, faulted := false, acquires := false }

/-- A memory word: each active lane raises the cause its address deserves, or goes on with k in its order among the lane's accesses;
an access to scratch waits for a conversion of its team (R111), a store for the lanes in lower slots that store to the same bytes
(R488). -/
def accessWord (i : Instr) (s : State) (k : State → Lane → List Word → State) : Host.Outcome State Fault Refusal :=
  guarded i s fun s0 => eachActive s0 fun s l =>
    let srcs := srcsOf l i
    if (onScratch i srcs && (s.teamOf l).converting) || s.behindStore s0 l i srcs then s.setLane l.stall
    else
      match s.accessCause l i srcs with
      | some c => s.raise l (l.causeHere c.1 c.2.1 c.2.2)
      | none => inOrder s l i srcs (k s l srcs)

end Sys2Proof.Machine
end

