-- ==== Sys2Proof/Machine/Atomic.lean ====
section
/-! DEFINITION. Atomics and merges (R96, R347 to R350, R352 to R356, R367, R368). -/
namespace Sys2Proof.Machine
open Sys2Proof

/-! ## Order within a bundle (R355) -/

/-- The slots in an order the spec does not define, drawn from free values (log entry 18). -/
def shuffle : Nat → Nat → List Nat → List Nat
  | 0, _, xs => xs
  | _, _, [] => []
  | k + 1, seed, x :: r =>
    let xs := x :: r
    let i := Config.freeNat seed % xs.length
    (xs[i]?).getD x :: shuffle k (seed + 1) (xs.eraseIdx i)
/-- Act lane by lane in a free order of the slots. -/
def eachFree (s : State) (f : State → Lane → State) : State :=
  (shuffle 32 s.free (List.range 32)).foldl (fun s n => match s.activeAt n with | some l => f s l | none => s)
    { s with free := s.free + 32 }

/-! ## Ordered forms (R356) -/

/-- May an ordered atomic of a lane's group be performed: every group of the launch with a smaller team index, or the same
team and a smaller group index, has retired, those of the teams that a pre-emption has saved among them (R356)? -/
def State.orderedTurn (s : State) (l : Lane) : Bool :=
  let L := s.launch? l.part l.seq
  let idx := (s.teamOf l).index
  let placed := L.elim 0 (·.placed)
  let live := (s.teams.filter fun t => t.part == l.part && t.seq == l.seq) ++ L.elim [] fun L => L.restore.map (·.team)
  decide (idx < placed) &&
    live.all fun t => t.groups.all fun g => g.retired || !(decide (t.index < idx) || (t.index == idx && decide (g.idx < l.id.grp)))
/-- Hold an ordered atomic for its turn: a 257th of the team stalls at issue; one that is not in D-mode is ILLEGAL (R96). -/
def State.holdOrdered (s : State) (l : Lane) (i : Instr) (srcs : List Word) (returns : Bool) : State :=
  let t := s.teamOf l
  if 256 ≤ t.ordered.length || (returns && !l.room) then s.setLane l.stall
  else
    let oa : OrderedAtom := { id := s.nextId, lane := l.id, instr := i, srcs := srcs, n := if returns then some l.nextDef else none, pc := l.pc, sent := none }
    let s1 := ({ s with nextId := s.nextId + 1 } : State).modTeam t.tid fun t => { t with ordered := t.ordered ++ [oa] }
    s1.setLane (if returns then l.noted i srcs 0 .ordered else l.adv 8)

/-- An ATOM or CAS word: ordered forms wait for their turn in ascending slot, the others are performed in a free order. -/
def atomWord (i : Instr) (s : State) (ord returns : Bool) : Host.Outcome State Fault Refusal :=
  guarded i s fun s =>
    let act := fun (s : State) (l : Lane) =>
      let srcs := srcsOf l i
      if ord && !l.dm then s.raise l (l.causeHere causeIllegal 0 0)
      else if atomScratch srcs && (s.teamOf l).converting then s.setLane l.stall
      else
        match s.accessCause l i srcs with
        | some c => s.raise l (l.causeHere c.1 c.2.1 c.2.2)
        | none =>
          inOrder s l i srcs
            (if ord then s.holdOrdered l i srcs returns
             else if returns then (if l.room then s.noteAccess l i srcs else s.setLane l.stall)
             else
               let r := s.atomic l i srcs
               let s1 := match r.2 with | .data _ => r.1.acquireFor l i srcs | _ => r.1
               s1.endAccess l i srcs (atomFn i srcs).2 (if atomScratch srcs then (atomScratchAddr i srcs).toNat else eaSrc i srcs) 1 r.2)
    if ord then eachActive s act else eachFree s act

/-- ATOM, returning (R352). -/
def execAtom (d a b : VReg) (op : AtomOp) (z : Size) (ord : Bool) (e : Scope) (o : Order) (i : BitVec 16) (s : State) :
    Host.Outcome State Fault Refusal := atomWord (.atom d a b op z ord e o i) s ord true
/-- ATOM.nr (R352). -/
def execAtomNr (a b : VReg) (op : AtomOp) (z : Size) (ord : Bool) (e : Scope) (o : Order) (i : BitVec 16) (s : State) :
    Host.Outcome State Fault Refusal := atomWord (.atomNr a b op z ord e o i) s ord false
/-- CAS (R367, R368). -/
def execCas (d a b c : VReg) (z : Size) (ord : Bool) (e : Scope) (o : Order) (i : BitVec 16) (s : State) :
    Host.Outcome State Fault Refusal := atomWord (.cas d a b c z ord e o i) s ord true

/-- Give a deferred result its value and what it still waits for; a sounding on an access that faults is lost (R275). -/
def State.fill (s : State) (l : Lane) (n x : Nat) (w : Wait) : State :=
  let give := fun d : Deferred => { d.returned x w with sounded := if (d.returned x w).faulted then 0 else d.sounded }
  let s1 := s.setLane { l with deferred := l.deferred.map fun d => if d.n = n then give d else d }
  if l.deferred.any fun d => d.n == n && d.sounded != 0 && (give d).sounded == 0 then s1.countLane l evSndLost 1 else s1
/-- Ordered atomics whose page fault is resolved, or which a peer has answered, are performed. -/
def State.pruneOrdered (s : State) (tid : Nat) : State :=
  s.modTeam tid fun t => { t with ordered := t.ordered.filter fun a => !a.sent.elim false (s.passed a.lane) }
/-- The ordered atomic of a team to be performed next: the first of its group, its turn come (R356). -/
def State.nextOrdered (s : State) (t : Team) : Option OrderedAtom :=
  t.ordered.find? fun a =>
    a.sent.isNone && (t.ordered.find? fun b => b.lane.grp == a.lane.grp) == some a && (s.lane? a.lane).elim false fun l => s.orderedTurn l

/-- ORDERED_ATOM_RELEASE: the team's first held ordered atomic whose turn it is, is performed (R356). An atomic without a
result meets its faults at its lane's next marker; one that faults on its page or goes to a peer keeps the later ones of its group
waiting. -/
def execOrderedAtomRelease (tid : Nat) (s : State) : Host.Outcome State Fault Refusal :=
  let s := s.pruneOrdered tid
  match (s.team? tid).bind s.nextOrdered with
  | none => .next s
  | some a =>
    match s.lane? a.lane with
    | none => .next s
    | some l =>
      let done := fun s : State => s.modTeam tid fun t => { t with ordered := t.ordered.erase a }
      let held := fun (s : State) (b : Bound) =>
        s.modTeam tid fun t => { t with ordered := t.ordered.map fun x => if x.id = a.id then { x with sent := some b } else x }
      let defs := fun n : Nat => ({ defs := [n], atoms := [], reqs := [] } : Bound)
      let ea := if atomScratch a.srcs then (atomScratchAddr a.instr a.srcs).toNat else eaSrc a.instr a.srcs
      match a.n with
      | some n =>
        let r := performAtom s l n a.instr a.srcs
        match r.2 with
        | .busy => .next r.1
        | .got x w =>
          let s1 := r.1.fill l n x w
          .next ((match w with | .page _ _ | .peer _ => held s1 (defs n) | _ => done s1).settle [l.id])
      | none =>
        let r := s.atomic l a.instr a.srcs
        match r.2 with
        | .busy => .next r.1
        | .data _ => .next (done (r.1.acquireFor l a.instr a.srcs))
        | .peer dpa =>
          let q := r.1.askPeer l none dpa (atomFn a.instr a.srcs).2 ea true (acqScope a.instr a.srcs)
          .next (held q.2 { defs := [], atoms := [], reqs := [q.1] })
        | .ue fold => .next ((done (r.1.setLane (l.lateUe a.instr a.srcs (if fold then 2 else 1) ea))).settle [l.id])
        | .page f => .next ((held (r.1.setLane (l.defer a.instr a.srcs [] [] 0 (.page f 0))) (defs l.nextDef)).settle [l.id])

/-! ## Merges (R347 to R350) -/

/-- A merge word: one merge into an accumulator line, relaxed or releasing (R185, R349). -/
def mergeWord (i : Instr) (s : State) (f : Lane → LA → LA) : Host.Outcome State Fault Refusal :=
  accessWord i s fun s l srcs =>
    let ea := eaSrc i srcs
    let r := s.mergeVia (s.via l) ea (f l)
    r.1.endAccess l i srcs (.write []) ea 2 r.2

/-- AACC (R347, R348). -/
def execAacc (a b : VReg) (f : Fs) (e : Scope) (o : Order) (i : BitVec 16) (s : State) : Host.Outcome State Fault Refusal :=
  mergeWord (.aacc a b f e o i) s fun l x => addElems x (fsElem f (l.getV b)) (fsCount f)
/-- AACC.mul (R347, R348). -/
def execAaccMul (a b c : VReg) (f : Fs) (e : Scope) (o : Order) (i : BitVec 16) (s : State) : Host.Outcome State Fault Refusal :=
  mergeWord (.aaccMul a b c f e o i) s fun l x =>
    addElems x (prodElem f (l.getV b) (l.getV c)) (fsCount f)
/-- AMRG (R350). -/
def execAmrg (a : VReg) (k : KReg) (e : Scope) (o : Order) (i : BitVec 16) (s : State) : Host.Outcome State Fault Refusal :=
  mergeWord (.amrg a k e o i) s fun l x => laMerge x (l.getK k) false
/-- AMRG.neg (R350). -/
def execAmrgNeg (a : VReg) (k : KReg) (e : Scope) (o : Order) (i : BitVec 16) (s : State) : Host.Outcome State Fault Refusal :=
  mergeWord (.amrgNeg a k e o i) s fun l x => laMerge x (l.getK k) true

end Sys2Proof.Machine
end

