-- ==== Sys2Proof/Machine/HostMem.lean ====
section
/-! DEFINITION. The host's accesses to device memory, performed at the home (R168, R169). -/
namespace Sys2Proof.Machine
open Sys2Proof

/-- A host access to a MASH line folds it (R166); partials discarded over poison are recorded (R175). -/
def State.hostFold (s : State) (ln : Nat) : State := let q := s.fold ln none; q.1.foldLost ln q.2
/-- The tokens that the host proxy holds come home with the host's own request for the line, which answers a back-invalidate snoop of
the line (R168, the conflict flow); data comes with the owner token alone (R152). -/
def State.hostGives (s : State) (ln : Nat) : State :=
  let h := s.hold ln 9
  if h.t = 0 then s
  else
    let s1 : State := { s with out := s.out.filter fun o => o != .bisnp ln true && o != .bisnp ln false }
    s1.modLine ln fun l =>
      let g := l.holds[home]
      let g' : Hold := { g with t := g.t + h.t, owner := g.owner || h.owner, valid := g.valid || h.owner, dirty := false }
      { l with holds := (l.holds.set 9 h.spent).set home g' }
/-- The bytes a host read returns: zero at or beyond a scrub front (R145). -/
def State.hostSees (s : State) (a : Nat) : Nat → List Byte
  | 0 => []
  | n + 1 =>
    let frame := a / 65536
    let b := if fotState (s.fotOf frame) = 2 ∧ s.frontOf frame ≤ a / 128 % 512 then 0 else readByte s.mem a
    b :: s.hostSees (a + 1) n
/-- The home holds a token with valid data for a host read. -/
def State.homeShared (s : State) (ln : Nat) : State := ((s.hostFold ln).hostGives ln).homeObtain ln (s.lineOwner ln) none
/-- Tokens a host read leaves with the host proxy, as the host asks: none, one for a shared copy, all for an exclusive one (R168). -/
def State.leaveHost (s : State) (ln : Nat) (how : Nat) : State :=
  if how = 1 then s.modLine ln fun l => l.grantShared home 9
  else if how = 2 then (s.homeTake ln).modLine ln fun l => l.grantAll 9
  else s

/-- The partition whose admitted object a frame belongs to, and the object (R193). -/
def State.codeOwner (s : State) (a : Nat) : Option (Nat × Nat) :=
  (s.parts.map (·.1)).findSome? fun p => (s.codeFrame p a).map fun c => (p, c)
/-- The host writes bytes of one line (R169): the home gathers every token; a frame of an admitted object discards the write with a
record (R193); a write beyond a scrub front is performed once the front has passed (R145). -/
def State.hostStore (s : State) (a : Nat) (bs : List Byte) : State :=
  let ln := a / 128
  match s.codeOwner a with
  | some pc => s.record pc.1 { rec0 with kind := 3, flags := 1, paddr := a, detail := pc.2 }
  | none =>
    let s1 := (((s.hostFold ln).hostGives ln).passFront a).homeTake ln
    let s2 : State := { s1 with mem := writeBytes s1.mem a bs }
    (if !s2.poison.contains ln then s2
     else if fillsLine a bs.length then { s2 with poison := s2.poison.filter (· != ln) }
     else s2.record (s.lineOwner ln) { rec0 with kind := 5, flags := 1, paddr := a, detail := 1 }).serveWaiting ln
/-- Write the bytes that fall on each line. -/
def State.hostStores (s : State) (a : Nat) : Nat → List Byte → State
  | 0, _ => s
  | k + 1, bs =>
    let n := 128 - a % 128
    if bs.isEmpty then s else (s.hostStore a (bs.take n)).hostStores (a + n) k (bs.drop n)
/-- Perform a host access (R168, R169): a read line by line, leaving the host what it asks for; a write line by line. -/
def State.hostOp (s : State) (o : HostOp) : State :=
  match o.data, o.sync with
  | some bs, _ => s.hostStores o.addr bs.length bs
  | none, some f => s.emit (.mmioData f.1 f.2 0)
  | none, none =>
    let s1 := (linesOf o.addr o.n).foldl (fun s ln => s.homeShared ln) s
    let s2 := s1.emit (.hostData (s1.hostSees o.addr o.n))
    (linesOf o.addr o.n).foldl (fun s ln => let q := s.draw; (q.2.leaveHost ln (q.1 % 3)).serveWaiting ln) s2
/-- Must a host access wait: a persistent request is active on a line of it, an engine holds one for writing, or an earlier access of the
host to one waits (R159, R169, R174)? Is the HBM in self-refresh (R308)? A PTSYNC read waits for every write that the host issued before
(R142). -/
def State.hostMust (s : State) (o : HostOp) : Bool :=
  if o.sync.isSome then s.hostWait.any fun w => w.data.isSome
  else
    s.d3 || (linesOf o.addr o.n).any fun ln =>
      (s.line ln).active.isSome || (s.heldBy ln).isSome || s.hostWait.any fun w => w.sync.isNone && (linesOf w.addr w.n).contains ln
/-- A host access: performed, or it waits. -/
def State.hostAccess (s : State) (o : HostOp) : State :=
  if s.hostMust o then { s with hostWait := s.hostWait ++ [o] } else s.hostOp o
/-- The host accesses that wait are tried again, in order of arrival. -/
def State.serveHost (s : State) : State := s.hostWait.foldl State.hostAccess { s with hostWait := [] }

end Sys2Proof.Machine
end

