-- ==== Sys2Proof/Machine/CoherenceEv.lean ====
section
/-! DEFINITION. The messages of the token protocol, one by one (R151 to R166), and the loss of a die (R162, R240). A message event takes
its message out of the network, or sends and delivers it where the network does not hold it and its sender can send it. -/
namespace Sys2Proof.Machine
open Sys2Proof

/-! ## Persistent requests at the home (R158, R159) -/

def State.setReq (s : State) (ln : Nat) (r : TokReq) : State :=
  s.modLine ln fun l => { l with reqs := l.reqs.map fun q => if q.agent = r.agent then r else q }
/-- The requester whose persistent request is oldest, ties to the lower agent. -/
def nextPersist : List (Fin 10 × Nat × Bool) → Option (Fin 10 × Nat × Bool)
  | [] => none
  | e :: r =>
    match nextPersist r with
    | none => some e
    | some f => some (if f.2.1 < e.2.1 ∨ (f.2.1 = e.2.1 ∧ f.1 < e.1) then f else e)
/-- Activate the next persistent request of a line: PACT to all nine others; a line in the merge state folds, the host's tokens are asked
for, and the home forwards its own (R159). -/
def State.activate (s : State) (ln : Nat) : State :=
  let l := s.line ln
  match l.active, nextPersist l.persist with
  | none, some e =>
    let s1 := s.modLine ln fun l => { l with active := some e.1, acks := [], holds := l.holds.set home { l.holds[home] with pact := some e.1 } }
    let s2 := if 0 < l.holds[9].t then s1.snoopHost ln true else s1
    let s3 := notHome.foldl (fun s a => s.post (msg0 .pact ln home a)) s2
    let s4 := if (s3.line ln).mash && !(s3.line ln).folding then s3.beginFold ln ((l.reqs.find? fun r => r.agent == e.1).bind (·.ctx)) else s3
    if (s4.line ln).mash then s4 else (s4.sendAllTok ln home e.1).checkDone ln home
  | _, _ => s
/-- Once every agent has acknowledged a deactivation, the host accesses that wait are served and the next request is activated (R159,
R169). -/
def State.ackDone (s : State) (ln : Nat) : State :=
  let l := s.line ln
  if l.active.isSome && (l.holds[home].pact).isNone && l.acks.isEmpty then
    ((s.modLine ln fun l => { l with active := none }).serveHost).activate ln
  else s

/-- The physical requester behind an agent's request for a line (R158). -/
def requester (ln : Nat) (a : Fin 10) : Nat := if a.val ≤ 3 then 100 + 48 * a.val + l2Slice ln else if a = home then 1000 + l3Home ln else a.val
/-- May an agent enter a persistent request: at most one of its requester outstanding at a home slice and 16 in the device, those whose
PREQ is on its way included (R158)? -/
def State.persistOk (s : State) (ln : Nat) (a : Fin 10) : Bool :=
  let own := s.lines.flatMap fun e => (e.2.reqs.filter fun r => r.persistent && requester e.1 r.agent == requester ln a).map fun _ => e.1
  own.length < 16 && !own.any fun n => l3Home n == l3Home ln
/-- Count an event of an agent's request for a line, in the context of the launch whose access it serves (R265). -/
def State.countReq (s : State) (ln : Nat) (a : Fin 10) (ev : Nat) : State :=
  s.count (s.lineOwner ln) ((s.reqOf ln a).bind (·.ctx)) ev 1
/-- A persistent request enters the home's table; the oldest is made active (R158, R159). -/
def State.enterPersist (s : State) (ln : Nat) (a : Fin 10) (age : Nat) (excl : Bool) : State :=
  if (s.line ln).persist.any (fun e => e.1 == a) then s
  else ((s.modLine ln fun l => { l with persist := l.persist ++ [(a, age, excl)] }).countReq ln a evPersistent).activate ln
/-- An agent's request becomes persistent: PREQ to the home; the home's own is entered at once (R157, R158). -/
def State.goPersistent (s : State) (ln : Nat) (r : TokReq) : State :=
  let s1 := s.setReq ln { r with failed := true, persistent := true }
  if r.agent = home then s1.enterPersist ln home r.age r.excl
  else s1.post { msg0 .preq ln r.agent home with age := r.age, excl := r.excl }

/-! ## Receiving (R152, R155, R156, R159) -/

/-- An agent receives tokens: it keeps them, an L2 slice in a line of its set (R119), or forwards them to an active persistent requester. A
transient request that they satisfy has succeeded (R157); the home serves what waits. -/
def State.receive (s : State) (ln : Nat) (a : Fin 10) (n : Nat) (own data dirty : Bool) : State :=
  let h := s.hold ln a
  let h' : Hold := { h with t := h.t + n, owner := h.owner || own, valid := h.valid || data, dirty := a != home && (h.dirty || dirty) }
  let s1 := s.setHold ln a h'
  if h.pact.elim false (· != a) then s1.sendAllTok ln a ((h.pact).getD a)
  else
    let s2 := (s1.l2Arrive a ln).satisfied ln a
    if a = home then s2.serveWaiting ln else s2
/-- A transient request reaches an agent; it is ignored while another's persistent request is active (R159). -/
def State.getArrives (s : State) (m : Msg) : State :=
  if (s.hold m.line m.dst).pact.elim false (· != m.src) then s
  else if m.dst = 9 then s
  else if m.dst = home then s.homeAnswer m.line m.src (m.kind == .getx) m.ctx
  else s.answer m.line m.dst m.src (m.kind == .getx)
/-- The home copy takes a partial (R165, R166), or discards it over poison (R175); the holder leaves the set. A fold whose set is empty
ends: an active persistent requester receives the home's tokens, and the home serves what waits. -/
def State.takePartial (s : State) (ln : Nat) (a : Fin 10) (p : Option LA) : State :=
  let s1 := match p with
    | none => s
    | some x =>
      if s.poison.contains ln then s.modLine ln fun l => { l with lostParts := l.lostParts + 1 }
      else s.setLineLa ln (laMerge (s.lineLa ln) x false)
  let s2 := s1.modLine ln fun l => { l with holders := l.holders.filter (· != a) }
  let l := s2.line ln
  if l.folding && l.holders.isEmpty then
    let s3 := s2.endFold ln none
    let s4 := match l.holds[home].pact with
      | some b => (s3.sendAllTok ln home b).checkDone ln home
      | none => s3
    s4.serveWaiting ln
  else s2

/-! ## Delivery -/

/-- Is a message a recall of a line that its receiver, an engine, holds for writing? The engine answers it only after its write (R174). -/
def State.recalls (s : State) (m : Msg) : Bool :=
  (m.kind == .gets || m.kind == .getx || m.kind == .pact) && s.heldBy m.line == some m.dst
/-- Perform a message: it leaves the network, or is sent now if its sender can send it. -/
def State.deliver (s : State) (m : Msg) (kind : MsgKind) (send : State → Option State) (act : State → State) : State :=
  if m.kind ≠ kind ∨ m.src = m.dst ∨ s.recalls m then s
  else if s.net.contains m then act { s with net := s.net.erase m }
  else match send s with
    | some s1 => act { s1 with net := s1.net.erase { m with epoch := s.epochOf m.line } }
    | none => s
/-- The tokens that an agent's answer to a GETS or GETX, or its forwarding to an active persistent requester, carries: how many, whether the
owner token and data go with them (R152, R155, R159). -/
def Hold.due (h : Hold) (all : Bool) : Option (Nat × Bool × Bool) :=
  if h.t = 0 then none
  else if all then some (h.t, h.owner, h.owner)
  else if !h.owner then none
  else some (1, decide (h.t < 2), true)
/-- Can an agent send these tokens now: all of them to its own active requester, or its answer to a request outstanding at the receiver,
and is its data whole (R152, R155)? -/
def State.maySend (s : State) (m : Msg) : Bool :=
  let h := s.hold m.line m.src
  let due := if h.pact == some m.dst then h.due true else (s.reqOf m.line m.dst).bind fun r => h.due r.excl
  decide (m.epoch = s.epochOf m.line) && m.src != 9 && due == some (m.tokens, m.owner, m.data) && m.dirty == (m.owner && h.dirty)
/-- May an agent give its whole holding to the home: data and the dirty bit travel with the owner token and with it alone (R152)? -/
def Hold.whole (h : Hold) (m : Msg) : Bool :=
  m.tokens == h.t && m.owner == h.owner && m.data == h.owner && m.dirty == (h.owner && h.dirty)
/-- The sender's holding after its tokens have left. -/
def State.parted (s : State) (m : Msg) : State :=
  let h := s.hold m.line m.src
  s.setHold m.line m.src
    (if h.t ≤ m.tokens then h.spent else { h with t := h.t - m.tokens, owner := h.owner && !m.owner, dirty := h.dirty && !m.owner })

/-- GETS (R155). -/
def execGets (m : Msg) (s : State) : Host.Outcome State Fault Refusal :=
  .next (s.deliver m .gets (fun s => if m.src = 9 then none else some (s.request m.line m.src false m.ctx)) fun s => s.getArrives m)
/-- GETX (R155). -/
def execGetx (m : Msg) (s : State) : Host.Outcome State Fault Refusal :=
  .next (s.deliver m .getx (fun s => if m.src = 9 then none else some (s.request m.line m.src true m.ctx)) fun s => s.getArrives m)
/-- GETM: the requester's tokens come with it (R164); an agent in M, or with a partial, merges without one. Tokens of an older epoch
are discarded (R162). -/
def execGetm (m : Msg) (s : State) : Host.Outcome State Fault Refusal :=
  .next (s.deliver m .getm
    (fun s =>
      let h := s.hold m.line m.src
      if m.dst = home ∧ m.src.val ≤ 7 ∧ m.epoch = s.epochOf m.line ∧ h.whole m ∧ !h.satisfies true ∧ h.partialLA.isNone then some (s.setHold m.line m.src h.spent) else none)
    fun s =>
      let s1 := if m.tokens = 0 ∨ m.epoch ≠ s.epochOf m.line then s else s.receive m.line home m.tokens m.owner m.data m.dirty
      s1.homeMerge m.line m.src)
/-- TOK: tokens of an older epoch are discarded (R152, R162). -/
def execTok (m : Msg) (s : State) : Host.Outcome State Fault Refusal :=
  .next (s.deliver m .tok (fun s => if s.maySend m then some (s.parted m) else none) fun s =>
    if m.epoch = s.epochOf m.line then s.receive m.line m.dst m.tokens m.owner m.data m.dirty else s)
/-- PUT: all the sender's tokens come home (R154). -/
def execPut (m : Msg) (s : State) : Host.Outcome State Fault Refusal :=
  .next (s.deliver m .put
    (fun s => if m.dst = home ∧ m.src.val ≤ 7 ∧ m.tokens ≠ 0 ∧ m.epoch = s.epochOf m.line ∧ (s.hold m.line m.src).whole m then some (s.parted m)
      else none)
    fun s => if m.epoch = s.epochOf m.line then s.receive m.line home m.tokens m.owner m.data m.dirty else s)
/-- PUTP: an evicted partial is merged into the home copy (R165). -/
def execPutp (m : Msg) (s : State) : Host.Outcome State Fault Refusal :=
  .next (s.deliver m .putp
    (fun s => if m.dst = home ∧ m.la.isSome ∧ (s.hold m.line m.src).partialLA = m.la then
        some (s.setHold m.line m.src { s.hold m.line m.src with partialLA := none }) else none)
    fun s => s.takePartial m.line m.src m.la)
/-- FOLD: the holder sends its partial, or an empty reply (R155, R166). -/
def execFoldMsg (m : Msg) (s : State) : Host.Outcome State Fault Refusal :=
  .next (s.deliver m .fold
    (fun s =>
      let l := s.line m.line
      if m.src = home ∧ l.mash ∧ !l.folding ∧ l.holders.contains m.dst then some (s.beginFold m.line m.ctx) else none)
    fun s =>
      let h := s.hold m.line m.dst
      (s.setHold m.line m.dst { h with partialLA := none }).post { msg0 .part m.line m.dst home with la := h.partialLA })
/-- PART (R166). -/
def execPart (m : Msg) (s : State) : Host.Outcome State Fault Refusal :=
  .next (s.deliver m .part
    (fun s => if m.dst = home ∧ (s.line m.line).folding ∧ (s.hold m.line m.src).partialLA = m.la then
        some (s.setHold m.line m.src { s.hold m.line m.src with partialLA := none }) else none)
    fun s => s.takePartial m.line m.src m.la)

/-- PREQ: a persistent request enters the home's table, and the oldest is made active (R158, R159). It is sent for a request whose
fourth attempt has failed, where R158 lets its requester enter. -/
def execPreq (m : Msg) (s : State) : Host.Outcome State Fault Refusal :=
  .next (s.deliver m .preq
    (fun s => match s.reqOf m.line m.src with
      | some r =>
        if m.dst = home ∧ r.failed ∧ !r.persistent ∧ 4 ≤ r.attempt ∧ m.age = r.age ∧ m.excl = r.excl ∧ s.persistOk m.line m.src then
          some (s.setReq m.line { r with persistent := true })
        else none
      | none => none)
    fun s => s.enterPersist m.line m.src m.age m.excl)
/-- PDONE: the home deactivates the request (R159). It is sent by the active requester whose attempt condition holds. -/
def execPdone (m : Msg) (s : State) : Host.Outcome State Fault Refusal :=
  .next (s.deliver m .pdone
    (fun s =>
      let h := s.hold m.line m.src
      if m.dst = home ∧ h.pact = some m.src ∧ (s.reqOf m.line m.src).elim false (fun r => h.satisfies r.excl) then some s else none)
    fun s => s.persistDone m.line m.src)
/-- PACT: the agent sends every token it holds to the active requester, and will forward what arrives; the requester itself ignores the
transient requests of others from now on, and the home answers for the host proxy (R156, R159). -/
def execPact (m : Msg) (s : State) : Host.Outcome State Fault Refusal :=
  .next (s.deliver m .pact (fun s => if m.src = home ∧ (s.line m.line).active.isSome then some s else none) fun s =>
    let s1 := s.post (msg0 .ack m.line m.dst home)
    match (s.line m.line).active with
    | some b =>
      if m.dst = 9 ∨ !(s.line m.line).persist.any (fun e => e.1 == b) then s1
      else
        let s2 := s1.setHold m.line m.dst { s1.hold m.line m.dst with pact := some b }
        if b = m.dst then s2.checkDone m.line b else s2.sendAllTok m.line m.dst b
    | none => s1)
/-- PDEACT (R159). -/
def execPdeact (m : Msg) (s : State) : Host.Outcome State Fault Refusal :=
  .next (s.deliver m .pdeact (fun s => if m.src = home ∧ (s.line m.line).acks.contains m.dst then some s else none) fun s =>
    (s.setHold m.line m.dst { s.hold m.line m.dst with pact := none }).post { msg0 .ack m.line m.dst home with excl := true })
/-- An acknowledgement; after the last one of a deactivation the next request is activated (R159). -/
def execPersistentAck (m : Msg) (s : State) : Host.Outcome State Fault Refusal :=
  .next (s.deliver m .ack (fun _ => none) fun s =>
    if !m.excl then s else (s.modLine m.line fun l => { l with acks := l.acks.filter (· != m.src) }).ackDone m.line)

/-! ## Attempts (R157, R158) -/

/-- The back-off after failed attempt n, drawn below 64 × 2^n cycles; the last interval from the third attempt on (R157, R158). -/
def backoff (draw n : Nat) : Nat := draw % (64 * 2 ^ min n 3)
/-- TOKEN_ATTEMPT_TIMEOUT: 1,024 cycles after its sending an attempt that has not succeeded has failed; the fourth failure makes the
request persistent, if R158 lets the requester enter; otherwise it is sent again after a back-off. -/
def execTokenAttemptTimeout (ln : Nat) (a : Fin 10) (s : State) : Host.Outcome State Fault Refusal :=
  match s.reqOf ln a with
  | none => .next s
  | some r =>
    if r.failed ∨ r.persistent ∨ s.cycle < r.sent + 1024 then .next s
    else if (s.hold ln a).satisfies r.excl then
      let s1 := s.modLine ln fun l => { l with reqs := l.reqs.filter fun q => q.agent != a }
      .next (if a = home then s1.serveWaiting ln else s1)
    else
      let s1 := s.countReq ln a evTokenRetry
      if 4 ≤ r.attempt ∧ s.persistOk ln a then .next (s1.goPersistent ln r)
      else
        let q := s1.draw
        .next (q.2.setReq ln { r with failed := true, retryAt := s.cycle + backoff q.1 r.attempt })
/-- TOKEN_RETRY: the back-off has ended, and the request is sent again, or enters as a persistent one where R158 now lets it (R157,
R158). -/
def execTokenRetry (ln : Nat) (a : Fin 10) (s : State) : Host.Outcome State Fault Refusal :=
  match s.reqOf ln a with
  | none => .next s
  | some r =>
    if !r.failed ∨ r.persistent ∨ s.cycle < r.retryAt then .next s
    else if 4 ≤ r.attempt ∧ s.persistOk ln a then .next (s.goPersistent ln r)
    else .next ((s.setReq ln { r with failed := false, attempt := r.attempt + 1, sent := s.cycle }).broadcast ln a r.excl r.ctx)

/-! ## The loss of a die (R162, R240) -/

/-- An agent of a die. -/
def ofDie (d : Nat) (a : Fin 10) : Bool := a.val == d || a.val == d + 4
/-- Did the lost die hold what the home cannot recover of a line: its owner token over dirty data, or a partial? -/
def Line.lostWith (l : Line) (d : Nat) (fly : List Msg) : Bool :=
  ((List.finRange 10).any fun a => ofDie d a && ((l.holds[a].owner && l.holds[a].dirty) || (l.mash && l.holds[a].partialLA.isSome))) ||
    fly.any fun m => (ofDie d m.src || ofDie d m.dst) && m.owner && m.dirty
/-- Did a line lose something with the die that the home cannot recover (R162)? -/
def State.lostLine (s : State) (d ln : Nat) : Bool := (s.line ln).lostWith d (s.net.filter fun m => m.line == ln)
/-- The sweep of one line: tokens recalled, those of the host proxy by a back-invalidate snoop, and sixteen in all minted at the home. The
merge state of a line stays with the partials that survive. What the surviving agents have asked for stays (R162). -/
def State.sweepLine (s : State) (d ln : Nat) : State :=
  let l := s.line ln
  let s1 := if l.holds[9].t = 0 then s else s.snoopHost ln true
  let s2 := s1.modLine ln fun l =>
    let g := l.gathered.holds
    { l with
      holds := Vector.ofFn fun a : Fin 10 =>
        if ofDie d a then hold0 else g[a]
      holders := l.holders.filter fun a => !ofDie d a
      reqs := l.reqs.filter fun r => !ofDie d r.agent, persist := l.persist.filter fun e => !ofDie d e.1 || l.active == some e.1
      acks := l.acks.filter fun a => !ofDie d a
      waiting := l.waiting.filter fun w => match w with | .req a _ _ | .merge a => !ofDie d a | .write _ _ => true }
  match l.active with
  | some b => if ofDie d b then s2.persistDone ln b else s2
  | none => s2
/-- After the sweep the home goes on with its line: an active persistent requester receives the tokens, a fold or a deactivation that
waited for the lost die ends, and what waits is served (R159, R162, R166). -/
def State.afterSweep (s : State) (ln : Nat) : State :=
  let s1 := if (s.line ln).folding && (s.line ln).holders.isEmpty then s.endFold ln none else s
  let s2 := match (s1.line ln).holds[home].pact with
    | some b => if (s1.line ln).mash then s1 else (s1.sendAllTok ln home b).checkDone ln home
    | none => s1
  (s2.serveWaiting ln).ackDone ln
/-- A compute die is lost: its partitions fault, its clusters are withdrawn, and every home slice sweeps (R162, R240). Partials on their
way reach the home first (R154); tokens in flight belong to the older epoch and are gone; a line whose data may be stale is poisoned. -/
def State.loseDie (s : State) (d : Nat) : State :=
  if s.lostDies.contains d then s
  else
    let s1 : State := { s with lostDies := s.lostDies ++ [d] }
    let s2 := (List.range 48).foldl (fun s i => s.modCluster (48 * d + i) fun c => { c with lost := true }) s1
    let s3 := (s2.parts.filter fun e => e.2.dies.contains d).foldl (fun s e => s.halt e.1 0x25 d none) s2
    let s4 := (s3.net.filter fun m => m.kind == .putp || m.kind == .part).foldl
      (fun s m => ({ s with net := s.net.erase m } : State).takePartial m.line m.src m.la) s3
    let lns := s4.lines.map (·.1)
    let bad := lns.filter fun ln => s4.lostLine d ln
    let s5 := lns.foldl (fun s ln => s.sweepLine d ln) s4
    let gone := fun m : Msg => m.kind == .tok || m.kind == .put || ofDie d m.src || (ofDie d m.dst && m.kind != .pdeact)
    let s6 : State :=
      { s5 with epochs := (List.range 128).map (fun h => (h, tget 0 h s5.epochs + 1)),
                net := (s5.net.filter fun m => !gone m).map fun m => { m with tokens := 0, owner := false, data := false, dirty := false } }
    lns.foldl State.afterSweep (bad.foldl (fun s ln => let q := s.draw; q.2.poisonLine ln (q.1 % 3 + 1)) s6)
/-- DIE_LOST (R240). -/
def execDieLost (d : Nat) (s : State) : Host.Outcome State Fault Refusal := .next (s.loseDie (d % 4))

end Sys2Proof.Machine
end

