-- ==== Sys2Proof/Machine/Engine.lean ====
section
/-! DEFINITION. The copy engine: CPY, GTHR and DRAIN, and the completion of a transfer (R173, R174, R183, R208 to R211, R377,
R386, R387, R414 to R417). -/
namespace Sys2Proof.Machine
open Sys2Proof

/-! ## Descriptors (R208, R210) -/

def dw (d : List Word) (i : Nat) : Nat := ((d[i]?).getD 0).toNat
def dSrc (d : List Word) : Nat := dw d 0 + dw d 1 * 2 ^ 32
def dDst (d : List Word) : Nat := dw d 2 + dw d 3 * 2 ^ 32
def dSigned (d : List Word) (i : Nat) : Int := signedOf 32 (dw d i)
def cpyRows (d : List Word) : Nat := fld (dw d 5) 0 16
def cpySswz (d : List Word) : Nat := fld (dw d 5) 16 3
def cpyDswz (d : List Word) : Nat := fld (dw d 5) 19 3
def cpyPath (d : List Word) : Path :=
  match fld (dw d 5) 22 2 with
  | 0 => .g2s | 1 => .s2g | 2 => .g2g | _ => .s2ps
def gthCount (d : List Word) : Nat := fld (dw d 7) 0 16
def gthBytes (d : List Word) : Nat := 2 ^ (fld (dw d 5) 6 3 + 2)
def gthGlobal (d : List Word) : Bool := fld (dw d 5) 9 1 == 1
def gthDswz (d : List Word) : Nat := fld (dw d 5) 10 3
def gthIswz (d : List Word) : Nat := fld (dw d 5) 13 3

def Path.srcScratch : Path → Bool
  | .s2g | .s2ps => true
  | .g2s | .g2g => false
def Path.dstScratch : Path → Bool
  | .g2s | .s2ps => true
  | .s2g | .g2g => false

/-- What makes a copy descriptor unusable, but for the peer team (R209). -/
def cpyBad (d : List Word) : Bool :=
  let p := cpyPath d
  let off := fun n : Nat => n % 16 != 0
  fld (dw d 5) 24 8 != 0 || cpyRows d == 0 || dw d 4 == 0 || off (dw d 4) || decide (65536 < dw d 4 * cpyRows d) ||
    (Path.srcScratch p && dw d 1 != 0) || (p == .g2s && dw d 3 != 0) || off (dw d 0) || off (dw d 2) || off (dw d 6) || off (dw d 7)
/-- What makes a gather descriptor unusable (R415). -/
def gthBad (d : List Word) : Bool :=
  let n := gthCount d
  let es := gthBytes d
  let dst := dw d 2
  fld (dw d 5) 16 16 != 0 || fld (dw d 5) 0 6 != 0 || fld (dw d 7) 16 16 != 0 || n == 0 || decide (4096 < n) || decide (5 < fld (dw d 5) 6 3) ||
    decide (65536 < n * es) || dw d 6 % es != 0 || dSrc d % es != 0 || dDst d % es != 0 || dw d 4 % 4 != 0 ||
    (!gthGlobal d && (dw d 3 != 0 || (decide (dst < dw d 4 + 4 * n) && decide (dw d 4 < dst + n * es))))

/-- Address of row r on one side of a copy. -/
def cpyRow (d : List Word) (dst scratch : Bool) (r : Nat) : Int :=
  let base : Int := if dst then (if scratch then dw d 2 else dDst d) else (if scratch then dw d 0 else dSrc d)
  let a := base + r * dSigned d (if dst then 7 else 6)
  if scratch then a else a % 2 ^ 64

/-- The first scratch address of a copy or gather that leaves its scratch space (R209, R415); `own` and `peer` are the scratch
lists of the lane's team and of the destination's. -/
def xferRange (gather : Bool) (d : List Word) (own peer : List Nat) : Option Int :=
  let out := fun (list : List Nat) (code : Nat) (a : Int) (n : Nat) => if (pieces list code a n).isNone then some a else none
  if gather then
    ((List.range (gthCount d)).findSome? fun (i : Nat) => out own (gthIswz d) ((dw d 4 : Int) + 4 * i) 4).orElse fun _ =>
      if gthGlobal d then none else (List.range (gthCount d)).findSome? fun (i : Nat) => out own (gthDswz d) ((dw d 2 : Int) + i * gthBytes d) (gthBytes d)
  else
    let p := cpyPath d
    (if Path.srcScratch p then (List.range (cpyRows d)).findSome? fun (r : Nat) => out own (cpySswz d) (cpyRow d false true r) (dw d 4) else none).orElse fun _ =>
      if Path.dstScratch p then (List.range (cpyRows d)).findSome? fun (r : Nat) => out peer (cpyDswz d) (cpyRow d true true r) (dw d 4) else none

/-! ## Starting a transfer -/

/-- Transfers a core has outstanding. -/
def State.coreXfers (s : State) (l : Lane) : List Xfer := s.xfers.filter fun x => x.cluster == l.cluster && x.core == l.core
/-- The resident team of the lane's cooperative launch with a team index (R209). -/
def State.peerTeam (s : State) (l : Lane) (index : Nat) : Option Team :=
  if s.coop l then s.teams.find? fun t => t.part == l.part && t.seq == l.seq && t.index == index else none

/-- The cause a descriptor raises at issue (R209, R415). -/
def State.xferCause (s : State) (l : Lane) (gather : Bool) (d : List Word) : Option (Nat × Nat × DWord) :=
  let s2ps := !gather && cpyPath d == .s2ps
  let bad := if gather then gthBad d else cpyBad d || (s2ps && (s.peerTeam l (dw d 3)).isNone)
  if bad then some (causeDesc, 0, BitVec.ofNat 64 (dw d 5))
  else
    let own := s.scratchList (s.teamOf l)
    let peer := if s2ps then (s.peerTeam l (dw d 3)).elim [] s.scratchList else own
    (xferRange gather d own peer).map fun a => (causeScratch, 0, BitVec.ofInt 64 a)

/-- Does a transfer move a word of scratch? -/
def usesScratch (gather : Bool) (d : List Word) : Bool := gather || cpyPath d != .g2g
/-- The scratch macros of a team, as cluster x 32 + macro. -/
def State.scratchTags (s : State) (t : Team) : List Nat := (s.scratchList t).map (t.cluster * 32 + ·)

/-- A CPY or GTHR word: each lane starts its own transfer, a release of its earlier accesses (R183, R377, R414). One that moves scratch
words waits for a conversion of its team, or of the team it writes to (R111). -/
def xferWord (i : Instr) (s : State) (a : VReg) (e : Scope) (gather : Bool) : Host.Outcome State Fault Refusal :=
  guarded i s fun s => eachActive s fun s l =>
    let d := l.vs a 8
    let peer := if !gather && cpyPath d == .s2ps then s.peerTeam l (dw d 3) else none
    if usesScratch gather d && ((s.teamOf l).converting || peer.elim false Team.converting) then s.setLane l.stall
    else
      match s.xferCause l gather d with
      | some c => s.raise l (l.causeHere c.1 c.2.1 c.2.2)
      | none =>
        if 32 ≤ (s.coreXfers l).length then s.setLane l.stall
        else
          withRelease s l e
            (let path : Path := if gather then (if gthGlobal d then .g2g else .g2s) else cpyPath d
             let x : Xfer :=
               { id := s.nextId, lane := l.id, part := l.part, ctx := s.laneCtx l, sup := l.sup, pc := l.pc, cluster := l.cluster,
                 core := l.core, gather := gather, path := path, tile := none, desc := d,
                 scratch := if usesScratch gather d then s.scratchTags (s.teamOf l) else [],
                 peerTid := peer.elim 0 (·.tid), peerScratch := peer.elim [] s.scratchTags, done := 0, repeats := 0, fid := none, wait := none,
                 got := [], gath := none, aborted := false }
             { s with xfers := s.xfers ++ [x], nextId := s.nextId + 1 }.setLane (l.adv 8))

/-- CPY (R377). -/
def execCpy (a : VReg) (e : Scope) (s : State) : Host.Outcome State Fault Refusal := xferWord (.cpy a e) s a e false
/-- GTHR (R414, R415). -/
def execGthr (a : VReg) (e : Scope) (s : State) : Host.Outcome State Fault Refusal := xferWord (.gthr a e) s a e true

/-! ## DRAIN (R211, R387) -/

/-- Has a core transfers on a path begun before number `bound`? -/
def State.pathBusy (s : State) (cluster core : Nat) (p : Path) (bound : Nat) : Bool :=
  s.xfers.any fun x => x.cluster == cluster && x.core == core && x.path == p && decide (x.id < bound)
/-- A data error or abort that a transfer left for the lane's DRAIN of a path (R233, R417). -/
def Lane.drainErr (l : Lane) (p : Path) : Option (Path × Nat × Nat × DWord) := l.errs.find? fun e => e.1 == p
/-- Take the trap of such an error at the DRAIN word, at pc. -/
def State.drainTrap (s : State) (l : Lane) (pc : DWord) (e : Path × Nat × Nat × DWord) : State :=
  s.raise { l with errs := l.errs.erase e, park := .ready }
    { cause := e.2.1, aux := e.2.2.1, tval := e.2.2.2, fpc := pc, epc := pc, rpl := false }

/-- DRAIN (R386, R387). -/
def execDrain (p : Path) (s : State) : Host.Outcome State Fault Refusal :=
  guarded (.drain p) s fun s => eachActive s fun s l =>
    if s.pathBusy l.cluster l.core p s.nextId then s.setLane ((l.adv 4).parked (.drain p s.nextId))
    else
      match l.drainErr p with
      | some e => s.drainTrap l l.pc e
      | none => (s.setLane (l.adv 4)).acquire l .device

/-- Lanes whose DRAIN has nothing left to wait for go on, or take the trap their transfer left. -/
def State.drained (s : State) : State :=
  let free := fun (s : State) (l : Lane) =>
    match l.park with
    | .drain p bound => !s.pathBusy l.cluster l.core p bound
    | _ => false
  let err := fun l : Lane => match l.park with | .drain p _ => l.drainErr p | _ => none
  let s1 := (s.lanes.filter fun l => free s l && (err l).isSome).foldl
    (fun s l => match err l with | some e => s.drainTrap l (l.pc - 4) e | none => s) s
  let go := fun l : Lane => free s1 l
  if s1.lanes.any go then (s1.acquireAll go .device).release go else s1

/-! ## The transfer (R173, R209, R416) -/

/-- One side of a move. -/
inductive Side where
  | mem (va : Nat)
  | scr (cluster : Nat) (list : List Nat) (code : Nat) (a : Int)
  deriving DecidableEq, Repr

/-- What moving a piece gives. -/
inductive Move where
  | done
  | page (f : PageFault)
  | ue (va : Nat)
  | wait
  deriving DecidableEq, Repr

/-- The engine agent of a transfer's die, accessing for its lane (R149). -/
def State.xferVia (s : State) (x : Xfer) : Via :=
  { who := { part := x.part, ctx := x.ctx, die := x.cluster / 48, core := some (x.cluster, x.core), sup := x.sup, quiet := false }, agent := Fin.ofNat 10 (4 + x.cluster / 48 % 4),
    recd := match s.lane? x.lane with
      | some l => { s.laneRecd l 2 with flags := 4, pc := x.pc.toNat }
      | none => { rec0 with kind := 2, flags := 4, group := x.lane.grp, lanes := 2 ^ x.lane.slot, pc := x.pc.toNat } }
def State.setXfer (s : State) (x : Xfer) : State := { s with xfers := s.xfers.map fun y => if y.id = x.id then x else y }

/-- Send a peer package a request of a transfer, which waits for the answer (R299). -/
def State.askPeerX (s : State) (x : Xfer) (dpa : Nat) (op : PeerOp) (va : Nat) : State × Xfer :=
  let r : PeerReq :=
    { id := s.nextId, since := s.time, pc := x.pc, part := x.part, lane := none, n := none, dpa := dpa, op := op, va := va,
      store := PeerOp.writes op, acq := none, xfer := some x.id }
  (({ s with peers := s.peers ++ [r], nextId := s.nextId + 1 } : State).sendPeer r, { x with wait := some s.nextId })

/-! ### What a transfer moves -/

/-- A run of bytes that a transfer moves into one destination line: destination address, length, and the source or, of a gather, the
number of its element. -/
structure XPiece where
  dst : Nat
  len : Nat
  src : Side ⊕ Nat
  deriving DecidableEq, Repr

/-- The cuts of n bytes at the 128-byte boundaries of two addresses (R173): offset and length. -/
def cuts (src dst n : Nat) : Nat → Nat → List (Nat × Nat)
  | 0, _ => []
  | k + 1, off =>
    if n ≤ off then []
    else
      let len := min (n - off) (min (128 - (src + off) % 128) (128 - (dst + off) % 128))
      (off, len) :: cuts src dst n k (off + len)

/-- The macros of a list of tags. -/
def macsOf (tags : List Nat) : List Nat := tags.map (· % 32)
/-- The pieces of a copy, row by row. Those of a copy to a peer team's scratch are dropped once that team has retired: the spec gives them
no fate (R209; DESIGN CHOICE, log entry 57). -/
def cpyPieces (x : Xfer) : List XPiece :=
  let d := x.desc
  let ss := Path.srcScratch x.path
  (List.range (cpyRows d)).flatMap fun r =>
    let a := (cpyRow d false ss r).toNat
    let b := (cpyRow d true (Path.dstScratch x.path) r).toNat
    (cuts a b (dw d 4) (dw d 4 / 8 + 2) 0).map fun c =>
      { dst := (b + c.1) % 2 ^ 64, len := c.2,
        src := .inl (if ss then .scr x.cluster (macsOf x.scratch) (cpySswz d) ((a + c.1 : Nat) : Int) else .mem ((a + c.1) % 2 ^ 64)) }
/-- The pieces of a gather: one for each element. -/
def gthPieces (x : Xfer) : List XPiece :=
  let d := x.desc
  (List.range (gthCount d)).map fun i =>
    { dst := ((if gthGlobal d then dDst d else dw d 2) + i * gthBytes d) % 2 ^ 64, len := gthBytes d, src := .inr i }
def xferPieces (x : Xfer) : List XPiece := if x.gather then gthPieces x else cpyPieces x
/-- Does a transfer write scratch? -/
def Xfer.toScratch (x : Xfer) : Bool := if x.gather then !gthGlobal x.desc else Path.dstScratch x.path
/-- A number in its place in a rising list, once. -/
def insertUp (n : Nat) : List Nat → List Nat
  | [] => [n]
  | a :: r => if n < a then n :: a :: r else if n = a then a :: r else a :: insertUp n r
/-- The destination lines of a transfer, in ascending address (R173). -/
def xferLines (x : Xfer) : List Nat := ((xferPieces x).map fun p => p.dst / 128).foldr insertUp []

/-- The index word of a gather's element (R416). -/
def indexPieces (x : Xfer) (i : Nat) : Option (List Piece) := pieces (macsOf x.scratch) (gthIswz x.desc) ((dw x.desc 4 : Int) + 4 * i) 4
/-- Where a piece's bytes come from; an element's index is read from scratch when it is moved. Of a poisoned word the spec gives no index:
it is free (R210, R236; DESIGN CHOICE, log entry 57). -/
def State.sideOf (s : State) (x : Xfer) (p : XPiece) : Side :=
  match p.src with
  | .inl a => a
  | .inr i =>
    let ix := match indexPieces x i with
      | some ps => (s.readPieces x.cluster ps).elim (Config.freeNat s.free % 2 ^ 32) leNat
      | none => 0
    .mem (((dSrc x.desc : Int) + ix * dSigned x.desc 6) % 2 ^ 64).toNat
/-- The team that a transfer between teams writes to is resident. -/
def State.peerHere (s : State) (x : Xfer) : Bool := x.path != .s2ps || (s.team? x.peerTid).isSome
/-- A scratch destination: its cluster, its macros and its swizzle. -/
def Xfer.dstScr (x : Xfer) : Nat × List Nat × Nat :=
  if x.gather then (x.cluster, macsOf x.scratch, gthDswz x.desc)
  else if x.path = .s2ps then ((x.peerScratch.head?).elim 0 (· / 32), macsOf x.peerScratch, cpyDswz x.desc)
  else (x.cluster, macsOf x.scratch, cpyDswz x.desc)
/-- The macros, as cluster x 32 + macro, in which a transfer still has words to read or to write (R111). -/
def Xfer.macsLeft (x : Xfer) : List Nat :=
  if x.scratch.isEmpty then []
  else
    let left := (xferLines x).drop x.done
    let ps := (xferPieces x).filter fun p => left.contains (p.dst / 128)
    let tag := fun (c : Nat) (q : Option (List Piece)) => (q.getD []).map fun w => 32 * c + w.mac
    (ps.flatMap fun p =>
      (match p.src with
       | .inl (.scr c list code a) => tag c (pieces list code a p.len)
       | .inl (.mem _) => []
       | .inr i => tag x.cluster (indexPieces x i)) ++
      (if x.toScratch then tag x.dstScr.1 (pieces x.dstScr.2.1 x.dstScr.2.2 p.dst p.len) else [])).eraseDups

/-! ### One destination line -/

/-- The engine gathers all 16 tokens of the destination line that n bytes fall on (R173), of host memory the cache lines of the runs
`hs`; the line that it holds for writing from then on, and what stops it. -/
def State.gatherLine (s : State) (v : Via) (va n : Nat) (hs : List (Nat × Nat)) : State × Option Nat × Option Move :=
  let r := s.reach v va n .write
  match r.2 with
  | .page f => (r.1, none, some (.page f))
  | .busy => (r.1, none, some .wait)
  | .at y =>
    if inCap y.addr || y.attr == .device then (r.1, none, none)
    else
      let q := r.1.foldFor v (y.addr / 128)
      if q.2 then (q.1, none, some (.ue va))
      else (q.1.takeAll (y.addr / 128) v.agent v.who.part (some v.who.ctx), some (y.addr / 128), none)
  | .host a =>
    match hs.findSome? fun q => r.1.hostHas (a + q.1 - va) q.2 true with
    | some h => (r.1.askHost h true, none, some .wait)
    | none => (r.1, none, none)
  | .peer _ | .void => (r.1, none, none)
/-- A transfer gathers a destination line, that of its pieces `ps`, before it reads the source data for it (R173). -/
def State.gatherDst (s : State) (x : Xfer) (p : XPiece) (ps : List XPiece) : State × Option Nat × Option Move :=
  if x.toScratch then (s, none, none) else s.gatherLine (s.xferVia x) p.dst p.len (ps.map fun q => (q.dst, q.len))

/-- The engine's token of a source line goes back to the home once the line is read (R173), unless it held one before. -/
def State.giveBack (s : State) (ln : Nat) (a : Fin 10) : State :=
  let h := s.hold ln a
  s.modLine ln fun l =>
    { l with holds := l.holds.set a h.spent }.land
      { msg0 .put ln a home with tokens := h.t, owner := h.owner, data := h.owner && h.valid, dirty := h.dirty }
/-- An engine agent reads one whole line by GETS, at one point, and holds its token no longer (R173, R178). -/
def State.wholeLine (s : State) (v : Via) (va : Nat) : State × Res :=
  let r := s.reach v va 128 .read
  match r.2 with
  | .page f => (r.1, .page f)
  | .busy => (r.1, .busy)
  | .void => (r.1, .data (zeros 128))
  | .host a => (r.1, .data (r.1.hostRead a 128))
  | .peer a => (r.1, .peer a)
  | .at y =>
    let ln := y.addr / 128
    let had := decide (0 < (r.1.hold ln v.agent).t)
    let q := r.1.readAt v y 128
    (if had || y.attr == .device || inCap y.addr then q.1 else q.1.giveBack ln v.agent, q.2.elim (.ue (r.1.mashed y)) .data)
/-- Read one whole source line of a transfer, which waits for one of a peer. -/
def State.readLine (s : State) (x : Xfer) (va : Nat) : State × Xfer × (List Byte ⊕ Move) :=
  match x.got.find? fun e => e.1 == va with
  | some e => (s, x, .inl e.2)
  | none =>
    let r := s.wholeLine (s.xferVia x) va
    match r.2 with
    | .page f => (r.1, x, .inr (.page f))
    | .busy => (r.1, x, .inr .wait)
    | .data bs => (r.1, x, .inl bs)
    | .ue _ => (r.1, x, .inr (.ue va))
    | .peer a => let q := r.1.askPeerX x a (.read 128) va; (q.1, q.2, .inr .wait)
/-- The bytes of a piece; a source line is read once for all the pieces of one destination line, and kept in `got`. -/
def State.readPiece (s : State) (x : Xfer) (p : XPiece) : State × Xfer × (List Byte ⊕ Move) :=
  match s.sideOf x p with
  | .scr c list code a =>
    match pieces list code a p.len with
    | none => (s, x, .inl (zeros p.len))
    | some ps =>
      match s.readPieces c ps with
      | some bs => (s, x, .inl bs)
      | none => (s, x, .inr (.ue a.toNat))
  | .mem va =>
    if 2 ^ 57 ≤ va then (s, x, .inr (.page (pageFault 4 va .read)))
    else
      let q := s.readLine x (va / 128 * 128)
      match q.2.2 with
      | .inl bs =>
        let x1 := if x.got.any (fun e => e.1 == va / 128 * 128) then q.2.1 else { q.2.1 with got := q.2.1.got ++ [(va / 128 * 128, bs)] }
        (q.1, x1, .inl ((bs.drop (va % 128)).take p.len))
      | .inr (.ue _) => (q.1, q.2.1, .inr (.ue va))
      | .inr (.page f) => (q.1, q.2.1, .inr (.page { f with va := va }))
      | .inr m => (q.1, q.2.1, .inr m)
/-- Read the pieces of one destination line in order, up to one that cannot be read: what was read, with its place. -/
def State.readAll (s : State) (x : Xfer) : List XPiece → List (Nat × List Byte) → State × Xfer × List (Nat × List Byte) × Option Move
  | [], acc => (s, x, acc, none)
  | p :: r, acc =>
    let q := s.readPiece x p
    match q.2.2 with
    | .inl bs => q.1.readAll q.2.1 r (acc ++ [(p.dst, bs)])
    | .inr m => (q.1, q.2.1, acc, some m)

/-- The bytes that writes in order leave at one address, if any. -/
def byteAt (ws : List (Nat × List Byte)) (a : Nat) : Option Byte :=
  ws.foldl (fun r w => if w.1 ≤ a ∧ a < w.1 + w.2.length then w.2[a - w.1]? else r) none
/-- The runs of neighbouring bytes of a line that some writes in order leave. -/
def runsOf (ws : List (Nat × List Byte)) (line : Nat) : List (Nat × List Byte) :=
  (List.range 128).foldr
    (fun i acc =>
      match byteAt ws (128 * line + i), acc with
      | none, _ => acc
      | some b, (a, bs) :: r => if a = 128 * line + i + 1 then (128 * line + i, b :: bs) :: r else (128 * line + i, [b]) :: acc
      | some b, [] => [(128 * line + i, [b])]) []
/-- Write the runs of a destination line: at one instant (R173), or by requests to a peer. -/
def State.writeRuns (s : State) (x : Xfer) : List (Nat × List Byte) → State × Xfer × Move
  | [] => (s, x, .done)
  | w :: r =>
    let q := s.storeVia (s.xferVia x) w.1 w.2
    match q.2 with
    | .data _ => q.1.writeRuns x r
    | .page f => (q.1, x, .page f)
    | .ue _ => (q.1, x, .ue w.1)
    | .busy => (q.1, x, .wait)
    | .peer a => let z := q.1.askPeerX x a (.write w.2) w.1; z.1.writeRuns z.2 r
/-- Write what was read for one destination line. -/
def State.writeLine (s : State) (x : Xfer) (line : Nat) (ws : List (Nat × List Byte)) : State × Xfer × Move :=
  if x.toScratch then
    (if s.peerHere x then
      ws.foldl (fun s w => (pieces x.dstScr.2.1 x.dstScr.2.2 w.1 w.2.length).elim s fun ps => s.writePieces x.dstScr.1 x.dstScr.2.2 ps w.2) s
     else s, x, .done)
  else s.writeRuns x (runsOf ws line)

/-- Count the index words of a line's elements whose tag is another swizzle's (R416). -/
def State.countIndex (s : State) (x : Xfer) (ps : List XPiece) : State :=
  let n := (ps.map fun p => match p.src with
    | .inr i => (indexPieces x i).elim 0 fun q => s.crossWords x.cluster (gthIswz x.desc) q
    | .inl _ => 0).sum
  if n = 0 then s else s.count x.part (some x.ctx) evScrXswz n
/-- Move one destination line (R173, R174): its tokens, its source data, its write. A transfer that stops keeps the destination line; the
source lines that it has read from its own device are read again, for it keeps no token of them. Of an uncorrectable error, what was read
before it is written (R417). -/
def State.moveLine (s : State) (x : Xfer) (line : Nat) (ps : List XPiece) : State × Xfer × Move :=
  match ps with
  | [] => (s, x, .done)
  | p :: _ =>
    let g := s.gatherDst x p ps
    match g.2.2 with
    | some m => (g.1, { x with gath := none }, m)
    | none =>
      let r := g.1.readAll x ps []
      let n := (r.2.2.1.map (·.2.length)).sum
      match r.2.2.2 with
      | some (.ue va) =>
        let w := (r.1.countIndex x (ps.take (r.2.2.1.length + 1))).writeLine r.2.1 line r.2.2.1
        (w.1.count x.part (some x.ctx) evCopyBytes n, w.2.1, .ue va)
      | some m => (r.1, { r.2.1 with got := x.got, gath := g.2.1 }, m)
      | none =>
        let w := (r.1.countIndex x ps).writeLine r.2.1 line r.2.2.1
        match w.2.2 with
        | .done => (w.1.count x.part (some x.ctx) evCopyBytes n, { w.2.1 with done := x.done + 1, repeats := 0, got := [], gath := none }, .done)
        | m => (w.1, w.2.1, m)

/-- Move destination lines from the first that is not done, until one cannot be moved or the transfer waits for a peer's answer. -/
def State.runXfer (ps : List XPiece) : List Nat → State → Xfer → State × Xfer × Move
  | [], s, x => (s, x, if x.wait.isSome then .wait else .done)
  | line :: r, s, x =>
    if x.wait.isSome then (s, x, .wait)
    else
      let q := s.moveLine x line (ps.filter fun p => p.dst / 128 == line)
      match q.2.2 with
      | .done => State.runXfer ps r q.1 q.2.1
      | m => q

/-- A transfer has ended: the waits for it may end. -/
def State.endXfer (s : State) (id : Nat) : State := ({ s with xfers := s.xfers.filter fun y => y.id != id }).drained
/-- Leave an error for the lane's next DRAIN of the path (R233, R417). -/
def State.leaveErr (s : State) (x : Xfer) (cause aux : Nat) (tval : DWord) : State :=
  s.modLane x.lane fun l => { l with errs := l.errs ++ [(x.path, cause, aux, tval)] }

/-- A translation fault suspends the transfer with an engine record (R209, R229); with 4,096 records outstanding it waits
(R230). -/
def State.suspendXfer (s : State) (x : Xfer) (f : PageFault) : State :=
  if 4096 ≤ (s.part x.part).faults.length then s.setXfer x
  else
    let q := s.enginePage x.part ((s.xferVia x).recd) f x.lane (some x.id) none x.repeats
    q.1.setXfer { x with fid := q.2 }

/-- COPY_COMPLETE: the transfer moves what it has left and ends (R173, R209, R211); it is performed here as a whole, or up
to the line that stops it (log entry 14). -/
def execCopyComplete (id : Nat) (s : State) : Host.Outcome State Fault Refusal :=
  match s.xfers.find? fun x => x.id == id with
  | none => .next s
  | some x =>
    if x.tile.isSome || !s.serving x.part then .next s
    else if x.aborted then .next (s.endXfer id)
    else if x.fid.isSome || x.wait.isSome then .next s
    else
      let r := State.runXfer (xferPieces x) ((xferLines x).drop x.done) s x
      match r.2.2 with
      | .done => .next (r.1.endXfer id)
      | .wait => .next (r.1.setXfer r.2.1)
      | .page f => .next (r.1.suspendXfer r.2.1 f)
      | .ue va => .next ((r.1.leaveErr r.2.1 causeDataUe 0 (BitVec.ofNat 64 va)).endXfer id)

end Sys2Proof.Machine
end

