-- ==== Sys2Proof/Machine/Float.lean ====
section
/-! DEFINITION. Floating-point arithmetic (R36, R392 to R399, R409): FP32, and BF16 and FP16 in pairs. -/
namespace Sys2Proof.Machine
open Sys2Proof

/-! ## Shapes -/

/-- v[d] := f v[d] v[a] v[b], flags raised. -/
def fpOp (i : Instr) (s : State) (d a b : VReg) (f : Word → Word → Word → Word × Flags) : Host.Outcome State Fault Refusal :=
  laneOpF i s fun l =>
    let r := f (l.getV d) (l.getV a) (l.getV b)
    (l.setV d r.1, r.2)

/-- NV for a signalling operand (R38). -/
def sigNv (x y : Word) : Flags := if (f32Of x).isSig || (f32Of y).isSig then flagNV else 0
/-- FMIN and FMAX: one of the two operands' bit patterns, or the canonical NaN (R36, R409). -/
def minMaxW (isMax : Bool) (x y : Word) : Word × Flags :=
  let a := f32Of x
  let b := f32Of y
  let w : Word :=
    if a.isNan && b.isNan then 0x7FC00000
    else if a.isNan then y
    else if b.isNan then x
    else
      match Num.cmp a b with
      | .lt => if isMax then y else x
      | .gt => if isMax then x else y
      | .eq => if a.sign == isMax then y else x
  (w, sigNv x y)

/-- The bit of FCLASS (R397). -/
def classBit : Word → Nat := fun w =>
  match f32Of w with
  | .inf n => if n then 0 else 7
  | .zero n => if n then 3 else 4
  | .fin n m _ => if m < 2 ^ 23 then (if n then 2 else 5) else (if n then 1 else 6)
  | .nan sig => if sig then 8 else 9

/-- Does a condition raise NV for a quiet NaN (R398)? -/
def FCond.signals : FCond → Bool
  | .lt | .le | .gt | .ge => true
  | .eq | .un | .ne | .or => false
/-- FCMP: the condition and the flags (R398, R399). -/
def fcmpW (k : FCond) (x y : Word) : Bool × Flags :=
  let a := f32Of x
  let b := f32Of y
  if a.isNan || b.isNan then
    (k == .ne || k == .un, if FCond.signals k then flagNV else sigNv x y)
  else
    let o := Num.cmp a b
    (match k with
     | .eq => o == .eq
     | .lt => o == .lt
     | .le => o != .gt
     | .un => false
     | .ne => o != .eq
     | .gt => o == .gt
     | .ge => o != .lt
     | .or => true, 0)

/-! ## The instructions -/

/-- FADD (R392 to R394). -/
def execFadd (d a b : VReg) (r : Rm) (s : State) : Host.Outcome State Fault Refusal :=
  fpOp (.fadd d a b r) s d a b fun _ x y => toWord (addF fmtF32 r x.toNat y.toNat)
/-- FSUB (R392 to R394). -/
def execFsub (d a b : VReg) (r : Rm) (s : State) : Host.Outcome State Fault Refusal :=
  fpOp (.fsub d a b r) s d a b fun _ x y => toWord (subF fmtF32 r x.toNat y.toNat)
/-- FMUL (R392 to R394). -/
def execFmul (d a b : VReg) (r : Rm) (s : State) : Host.Outcome State Fault Refusal :=
  fpOp (.fmul d a b r) s d a b fun _ x y => toWord (mulF fmtF32 r x.toNat y.toNat)
/-- FFMA: a x b + d, rounded once (R392 to R394). -/
def execFfma (d a b : VReg) (r : Rm) (s : State) : Host.Outcome State Fault Refusal :=
  fpOp (.ffma d a b r) s d a b fun z x y => toWord (fmaF fmtF32 r x.toNat y.toNat z.toNat)
/-- FMIN (R409). -/
def execFmin (d a b : VReg) (s : State) : Host.Outcome State Fault Refusal :=
  fpOp (.fmin d a b) s d a b fun _ x y => minMaxW false x y
/-- FMAX (R409). -/
def execFmax (d a b : VReg) (s : State) : Host.Outcome State Fault Refusal :=
  fpOp (.fmax d a b) s d a b fun _ x y => minMaxW true x y
/-- FCMP (R398, R399). -/
def execFcmp (p : PReg) (a b : VReg) (k : FCond) (s : State) : Host.Outcome State Fault Refusal :=
  laneOpF (.fcmp p a b k) s fun l =>
    let r := fcmpW k (l.getV a) (l.getV b)
    (l.setP p r.1, r.2)
/-- FCLASS (R397). -/
def execFclass (d a : VReg) (s : State) : Host.Outcome State Fault Refusal :=
  laneOp (.fclass d a) s fun l => l.setV d (BitVec.ofNat 32 (2 ^ classBit (l.getV a)))
/-- FADD2.bf16 (R395, R396). -/
def execFadd2Bf16 (d a b : VReg) (r : Rm) (s : State) : Host.Outcome State Fault Refusal :=
  fpOp (.fadd2Bf16 d a b r) s d a b fun _ x y => halves fun j => addF fmtBf16 r (half x j) (half y j)
/-- FMA2.bf16 (R395, R396). -/
def execFma2Bf16 (d a b : VReg) (r : Rm) (s : State) : Host.Outcome State Fault Refusal :=
  fpOp (.fma2Bf16 d a b r) s d a b fun z x y => halves fun j => fmaF fmtBf16 r (half x j) (half y j) (half z j)
/-- FADD2.f16 (R395, R396). -/
def execFadd2F16 (d a b : VReg) (r : Rm) (s : State) : Host.Outcome State Fault Refusal :=
  fpOp (.fadd2F16 d a b r) s d a b fun _ x y => halves fun j => addF fmtF16 r (half x j) (half y j)
/-- FMA2.f16 (R395, R396). -/
def execFma2F16 (d a b : VReg) (r : Rm) (s : State) : Host.Outcome State Fault Refusal :=
  fpOp (.fma2F16 d a b r) s d a b fun z x y => halves fun j => fmaF fmtF16 r (half x j) (half y j) (half z j)

end Sys2Proof.Machine
end

