-- ==== Sys2Proof/Machine/Collective.lean ====
section
/-! DEFINITION. Collectives: COLL, COLLW, the requests of other members, completion and timeout (R218 to R221, R300, R301, R375,
R376, R525). -/
namespace Sys2Proof.Machine
open Sys2Proof

/-! ## The descriptor (R218) -/

def dOp (d : Nat) : Nat := fld d 0 8
def dType (d : Nat) : Nat := fld d 8 8
def dSet (d : Nat) : Nat := fld d 16 8
def dCksum (d : Nat) : Bool := fld d 24 1 == 1
def dResid (d : Nat) : Bool := fld d 25 1 == 1
def dCount (d : Nat) : Nat := fld d 32 32
def dBuf (d : Nat) : Nat := fld d 64 64
def dOut (d : Nat) : Nat := fld d 128 64
def dRes (d : Nat) : Nat := fld d 192 64
def dRoot (d : Nat) : Nat := fld d 256 16
def dQw (d : Nat) : Nat := fld d 288 8
def dCid (d : Nat) : Nat := fld d 320 32
/-- Bytes of an element of BUF. -/
def dElem (d : Nat) : Nat := if dOp d = 0 then 128 else 4

/-- A device-set entry's fields (R300). -/
def setEn (e : Nat) : Bool := fld e 0 1 == 1
def setRank (e : Nat) : Nat := fld e 16 10
def setN (e : Nat) : Nat := fld e 32 11
def setBad (e : Nat) : Bool := !setEn e || setN e == 0 || decide (setN e ≤ setRank e)

def overlaps (a n b m : Nat) : Bool := decide (a < b + m) && decide (b < a + n)
/-- What makes a descriptor unusable, but for its pages (R221): `n` is the set's member count. -/
def collBad (d e : Nat) : Bool :=
  let n := setN e
  let sz := dElem d
  fld d 26 6 != 0 || fld d 272 16 != 0 || fld d 296 24 != 0 || d / 2 ^ 352 != 0 || decide (5 < dOp d) || decide (1 < dType d) ||
    (dType d == 1 && decide (dOp d ≤ 1)) || (dOp d == 1 && dQw d != 16 && dQw d != 24 && dQw d != 32) || decide (63 < dSet d) || setBad e ||
    (dOp d == 4 && decide (n ≤ dRoot d)) || dCount d == 0 || decide ((if dOp d = 0 then 4096 else 2 ^ 26) < dCount d) ||
    (dOp d == 0 && overlaps (dBuf d) (sz * dCount d) (dOut d) (sz * dCount d)) ||
    (dOp d == 5 && overlaps (dBuf d) (sz * dCount d) (dOut d) (sz * dCount d * n)) || dBuf d % sz != 0 || dOut d % sz != 0 ||
    (dOp d == 1 && dResid d && dRes d % 4 != 0)

/-! ## Handles and ends -/

def setHandle (t : Team) (h : Nat) (x : Handle) : Team := { t with handles := t.handles.set h x }
def Team.handle (t : Team) (h : Nat) : Handle := (t.handles[h]?).getD .unused
/-- Set a handle of a team, resident or saved (R246). -/
def State.setHandle (s : State) (p tid h : Nat) (x : Handle) : State :=
  let go := fun L : Launch =>
    { L with restore := L.restore.map fun y => if y.team.tid = tid then { y with team := Sys2Proof.Machine.setHandle y.team h x } else y }
  (s.modTeam tid fun t => Sys2Proof.Machine.setHandle t h x).modPart p fun q =>
    { q with window := q.window.map go, saved := q.saved.map fun v => { v with launches := v.launches.map go } }
/-- Lanes that wait for a handle receive its status; the wait is an acquire at device scope and frees the handle (R376). -/
def State.wakeCollw (s : State) (p tid h st : Nat) : State :=
  let waits := fun l : Lane => l.id.tid == tid && (match l.park with | .collw k _ => k == h | _ => false)
  if s.lanes.any waits then
    let s1 : State := { s with lanes := s.lanes.map fun l => match l.park with
      | .collw _ d => if waits l then l.setV! d (BitVec.ofNat 32 st) else l
      | _ => l }
    ((s1.setHandle p tid h (.free st)).acquireAll waits .device).release waits
  else s
/-- The collective of a handle ends with a status. -/
def State.handleDone (s : State) (p tid h st : Nat) : State := (s.setHandle p tid h (.done st)).wakeCollw p tid h st

/-- Send a request to the members of a set, through a port of any plane (R298). -/
def State.sendColl (s : State) (pkgs : List Nat) (r : CollReq) : State :=
  let d := s.draw
  d.2.emit (.coll (d.1 % 48) pkgs r)
/-- The PKGIDs of a set's list in rank order, 16 bits each (R300): none where the list is not in frames that the partition owns. No answer
while a line of the list is away from its home. -/
def State.setPkgs (s : State) (p e : Nat) : State × Option (Option (List Nat)) :=
  let a := fld e 64 64
  let n := 2 * setN e
  if (linesOf a n).all fun ln => s.owned p (128 * ln) then
    let q := s.homeRead a n
    (q.1, q.2.map fun bs => some ((List.range (setN e)).map fun i => leNat ((bs.drop (2 * i)).take 2)))
  else (s, some none)
/-- Is a line of a set's list poisoned? -/
def State.setPoisoned (s : State) (e : Nat) : Bool := (linesOf (fld e 64 64) (2 * setN e)).any s.poison.contains
/-- A request about a collective to the other members (R301). -/
def State.collReq (s : State) (p d : Nat) (elem n : Nat) (pay : CollPay) : CollReq :=
  { ftag := (s.part p).ftag, setId := dSet d, cid := dCid d, op := dOp d, type := dType d, count := dCount d, qw := dQw d, elem := elem,
    members := n, pay := pay }
/-- A collective ends at this member. -/
def State.endColl (s : State) (c : Coll) (st : Nat) : State :=
  let s1 : State :=
    { s with colls := s.colls.filter fun x => x.id != c.id,
             collIn := s.collIn.filter fun r => !(r.ftag == (s.part c.part).ftag && r.setId == dSet c.desc && r.cid == dCid c.desc) }
  let s2 := (s1.modPart c.part fun x => { x with faults := x.faults.filter fun f => f.coll != some c.id }).count c.part (some c.ctx) evColl 1
  s2.handleDone c.part c.tid c.handle st
/-- A collective ends at every member with a status (R221, R525). -/
def State.abortColl (s : State) (c : Coll) (st : Nat) : State :=
  (s.sendColl c.pkgs (s.collReq c.part c.desc 0 0 (.abort st))).endColl c st
def State.setColl (s : State) (c : Coll) : State := { s with colls := s.colls.map fun x => if x.id = c.id then c else x }

/-! ## Contributions (R219, R220) -/

/-- The magnitude word of a finite contribution, rounded toward zero; the infinity code stands for 2^128 and above. -/
def magWord (x : LA) : Nat :=
  if x.nv || x.pi || x.ni then 0
  else
    let n := x.val.toInt.natAbs
    if 2 ^ (128 + 298) ≤ n then fmtF32.infCode else (fmtF32.roundFin .rz false false n (-298) false).1
/-- E: the least integer with |c| < 2^E (R220). -/
def magExp (w : Nat) : Int :=
  if w = fmtF32.infCode then 129
  else match fmtF32.decode w with
    | .fin _ m e => (Nat.log2 m : Int) + e + 1
    | _ => 0
/-- u = 2^(E - w + 1), as its exponent. -/
def unitExp (e : Int) (qw : Nat) : Int := e - qw + 1
/-- Is a contribution NaN or infinite? -/
def isSpecial (x : LA) : Bool := x.nv || x.pi || x.ni
/-- q of a contribution: c / u rounded to nearest even, clamped (R220). -/
def quant (x : LA) (e : Int) (qw : Nat) : Int :=
  if isSpecial x then 0
  else
    let r := (roundInt .rne (decide (x.val.toInt < 0)) x.val.toInt.natAbs (-298 - unitExp e qw)).1
    max (-(2 ^ (qw - 1))) (min (2 ^ (qw - 1) - 1) r)
/-- An integer times u, to FP32. -/
def timesUnit (q : Int) (u : Int) : Nat := (fmtF32.round .rne false (Num.ofInt q u false)).1
/-- OUT of an isum element (R220). -/
def isumOut (q : Int) (sp : LA) (u : Int) : Word :=
  BitVec.ofNat 32 (if isSpecial sp then (roundLa sp fmtF32 .rne false).1 else timesUnit q u)
/-- RES of an isum element: c - q u to FP32 (R220). -/
def isumRes (x : LA) (q u : Int) : Word :=
  if isSpecial x then 0
  else BitVec.ofNat 32 (roundLa { LA0 with em := false, nz := true, val := x.val - BitVec.ofInt 640 (scaleTo q u (-298)) } fmtF32 .rne false).1

/-- Two members' contributions to one element combined (R219, R301). -/
def combine (op type : Nat) (a b : CollPay) : CollPay :=
  match a, b with
  | .la x, .la y => .la (laMerge x y false)
  | .isum q c sp, .isum q' c' sp' => .isum (q + q') (c + c') (laMerge sp sp' false)
  | .word x, .word y =>
    if op = 2 ∨ op = 3 then
      (if type = 1 then .word (if (op = 2) = (y.toInt ≤ x.toInt) then x else y) else .word (minMaxW (op == 2) x y).1)
    else .word x
  | x, _ => x
/-- Add a request's contributions to an element. -/
def Coll.add (c : Coll) (elem n : Nat) (pay : CollPay) : Coll :=
  { c with got := tset elem (match c.got.find? fun e => e.1 == elem with
      | some e => (e.2.1 + n, combine (dOp c.desc) (dType c.desc) e.2.2 pay)
      | none => (n, pay)) c.got }
/-- Add a magnitude of the max round. -/
def Coll.addMag (c : Coll) (n w : Nat) : Coll := { c with mag := (c.mag.1 + n, max c.mag.2 w) }
/-- A combining switch's one request for every member's contribution, this member's among them, stands for the element alone (R301). -/
def Coll.whole (c : Coll) (elem : Nat) (pay : CollPay) : Coll := { c with got := tset elem (c.members, pay) c.got }
/-- Has a switch said that it combines (R301)? -/
def State.combining (s : State) : Bool := s.links.any (·.2)
/-- Is a request one that a switch has combined of all members? -/
def State.wholeReq (s : State) (c : Coll) (r : CollReq) : Bool := s.combining && r.members == c.members

/-- Elements of OUT. -/
def Coll.outs (c : Coll) : Nat := if dOp c.desc = 5 then dCount c.desc * c.members else dCount c.desc
/-- Does an operation place elements and combine none: a broadcast or an all-gather? -/
def Coll.places (c : Coll) : Bool := dOp c.desc == 4 || dOp c.desc == 5
/-- Has element i of OUT all its contributions? -/
def Coll.elemFull (c : Coll) (i : Nat) : Bool := decide ((if c.places then 1 else c.members) ≤ (tget (0, .word 0) i c.got).1)
/-- May elements be written: every member has begun, and of isum every element has all its contributions (R220, R221)? -/
def Coll.mayWrite (c : Coll) : Bool :=
  if c.places then decide (c.members ≤ c.ready)
  else dOp c.desc != 1 || (c.stage == .combining && (List.range c.outs).all c.elemFull)
def Coll.exp (c : Coll) : Int := magExp c.mag.2

/-! ## The engine's work at this member -/

/-- The engine's access for a collective. -/
def State.collVia (s : State) (c : Coll) : Via :=
  { who := { part := c.part, ctx := c.ctx, die := c.die, core := none, sup := c.sup, quiet := false }, agent := Fin.ofNat 10 (4 + c.die % 4),
    recd := match s.lane? c.lane with
      | some l => { s.laneRecd l 2 with flags := 4, pc := c.pc.toNat }
      | none => { rec0 with kind := 2, flags := 4, group := c.lane.grp, lanes := 2 ^ c.lane.slot, pc := c.pc.toNat } }
/-- A translation fault suspends the collective (R525). -/
def State.suspendColl (s : State) (c : Coll) (f : PageFault) : State :=
  if 4096 ≤ (s.part c.part).faults.length then s.setColl c
  else
    let q := s.enginePage c.part (s.collVia c).recd f c.lane none (some c.id) c.repeats
    q.1.setColl { c with fid := q.2 }

/-! ### Destination lines (R173) -/

/-- The lines that n bytes from a virtual address fall on: the first and how many. -/
def lineSpan (va n : Nat) : Nat × Nat := if n = 0 then (va / 128, 0) else (va / 128, (va + n - 1) / 128 + 1 - va / 128)
/-- The lines of OUT, and those of RES where isum updates it. -/
def Coll.outSpan (c : Coll) : Nat × Nat := lineSpan (dOut c.desc) (dElem c.desc * c.outs)
def Coll.resSpan (c : Coll) : Nat × Nat := lineSpan (dRes c.desc) (if dOp c.desc = 1 ∧ dResid c.desc then 4 * dCount c.desc else 0)
/-- The destination lines in ascending address (R173), a line of both once: the span that begins first, then what the other has beyond it. -/
def Coll.spans (c : Coll) : (Nat × Nat) × (Nat × Nat) :=
  let x := c.outSpan
  let y := c.resSpan
  let lo := if y.2 = 0 ∨ x.1 ≤ y.1 then x else y
  let hi := if y.2 = 0 ∨ x.1 ≤ y.1 then y else x
  let b := max hi.1 (lo.1 + lo.2)
  (lo, (b, hi.1 + hi.2 - b))
def Coll.dests (c : Coll) : Nat := c.spans.1.2 + c.spans.2.2
/-- Destination line number k. -/
def Coll.destLine (c : Coll) (k : Nat) : Nat := if k < c.spans.1.2 then c.spans.1.1 + k else c.spans.2.1 + (k - c.spans.1.2)
/-- The elements of sz bytes at a base that fall on a line. -/
def elemsOn (base sz n line : Nat) : List Nat :=
  let lo := (128 * line - base + sz - 1) / sz
  List.range' lo (min n ((128 * (line + 1) - base + sz - 1) / sz) - lo)
/-- The elements of OUT on a line, and those of RES. -/
def Coll.outsOn (c : Coll) (line : Nat) : List Nat := elemsOn (dOut c.desc) (dElem c.desc) c.outs line
def Coll.resOn (c : Coll) (line : Nat) : List Nat :=
  if dOp c.desc = 1 ∧ dResid c.desc then elemsOn (dRes c.desc) 4 (dCount c.desc) line else []
/-- The runs of bytes of a line that a collective writes: address and length. -/
def Coll.runsOn (c : Coll) (line : Nat) : List (Nat × Nat) :=
  let run := fun (base sz : Nat) (is : List Nat) => match is with
    | [] => []
    | i :: _ => [((base + sz * i) % 2 ^ 64, sz * is.length)]
  run (dOut c.desc) (dElem c.desc) (c.outsOn line) ++ run (dRes c.desc) 4 (c.resOn line)

/-- Gather destination lines from number k on, as many as the engine may hold (R173): the lines that it holds by number, and what stops it. -/
def State.gatherDests (s : State) (c : Coll) : Nat → Nat → State × List (Nat × Nat) × Nat × Option Move
  | 0, k => (s, [], k, none)
  | n + 1, k =>
    match c.runsOn (c.destLine k) with
    | [] => (s, [], k, none)
    | (va, len) :: r =>
      let g := s.gatherLine (s.collVia c) va len ((va, len) :: r)
      match g.2.2 with
      | some m => (g.1, [], k, some m)
      | none =>
        let q := g.1.gatherDests c n (k + 1)
        (q.1, g.2.1.toList.map (fun ln => (k, ln)) ++ q.2.1, q.2.2)
/-- The lines that a collective holds for writing: at most 4,096. kacc merges and holds none. -/
def State.gatherOuts (s : State) (c : Coll) : State × List (Nat × Nat) × Nat × Option Move :=
  if dOp c.desc = 0 then (s, [], c.dests, none) else s.gatherDests c (min 4096 (c.dests - c.done)) c.done

/-! ### Contributions -/

/-- The bytes of one line of BUF or RES, read as a whole (R178) and kept while elements of it are read. -/
def State.collLine (s : State) (c : Coll) (va : Nat) : State × Coll × (List Byte ⊕ Move) :=
  match c.src.find? fun e => e.1 == va with
  | some e => (s, c, .inl e.2)
  | none =>
    let r := s.wholeLine (s.collVia c) va
    match r.2 with
    | .data bs => (r.1, { c with src := (va, bs) :: c.src.take 1 }, .inl bs)
    | .page f => (r.1, c, .inr (.page f))
    | .ue _ => (r.1, c, .inr (.ue va))
    | .busy => (r.1, c, .inr .wait)
    | .peer _ => (r.1, c, .inr (.page (pageFault 2 va .read)))
/-- A number of n bytes of BUF or RES. -/
def State.collRead (s : State) (c : Coll) (va n : Nat) : State × Coll × (Nat ⊕ Move) :=
  let q := s.collLine c (va / 128 * 128)
  (q.1, q.2.1, match q.2.2 with
    | .inl bs => .inl (leNat ((bs.drop (va % 128)).take n))
    | .inr (.page f) => .inr (.page { f with va := va })
    | .inr (.ue _) => .inr (.ue va)
    | .inr m => .inr m)
/-- One element of BUF as a contribution; isum adds RES exactly. -/
def State.readElem (s : State) (c : Coll) (i : Nat) : State × Coll × (CollPay ⊕ Move) :=
  let d := c.desc
  let r := s.collRead c ((dBuf d + dElem d * i) % 2 ^ 64) (if dOp d = 0 then 96 else 4)
  match r.2.2 with
  | .inr m => (r.1, r.2.1, .inr m)
  | .inl x =>
    if dOp d = 0 then (r.1, r.2.1, .inl (.la (laOfImage x)))
    else if dOp d ≠ 1 then (r.1, r.2.1, .inl (.word (BitVec.ofNat 32 x)))
    else
      let c0 := laAdd LA0 (fmtF32.decode x)
      if !dResid d then (r.1, r.2.1, .inl (.la c0))
      else
        let q := r.1.collRead r.2.1 ((dRes d + 4 * i) % 2 ^ 64) 4
        match q.2.2 with
        | .inr m => (q.1, q.2.1, .inr m)
        | .inl y => (q.1, q.2.1, .inl (.la (laAdd c0 (fmtF32.decode y))))

/-- How many elements of BUF this member reads: of a broadcast the root reads them alone (R219). -/
def Coll.toRead (c : Coll) : Nat := if dOp c.desc = 4 ∧ c.rank ≠ dRoot c.desc then 0 else dCount c.desc
/-- The place in OUT of this member's element i: an all-gather's are placed by rank. -/
def Coll.placeOf (c : Coll) (i : Nat) : Nat := (if dOp c.desc = 5 then c.rank * dCount c.desc else 0) + i
/-- Are the tokens of element i's destination gathered, so that it may be read (R173): its line comes before number `k`? An isum reads every
element for its max round, once its first lines are gathered, as many as may be held at once (log entry 34). -/
def Coll.gathered (c : Coll) (k i : Nat) : Bool :=
  if dOp c.desc = 1 then decide (min c.dests (c.done + 4096) ≤ k)
  else decide (dOut c.desc / 128 + k > (dOut c.desc + dElem c.desc * c.placeOf i) / 128)
/-- Read the contributions from the first that is not read, whose destinations are gathered up to line number `k`. -/
def State.readOwn (k : Nat) : Nat → State → Coll → State × Coll × Move
  | 0, s, c => (s, c, .done)
  | n + 1, s, c =>
    if !c.gathered k c.own.length then (s, c, .wait)
    else
      let r := s.readElem c c.own.length
      match r.2.2 with
      | .inl p => r.1.readOwn k n { r.2.1 with own := c.own ++ [p], repeats := 0 }
      | .inr m => (r.1, r.2.1, m)

/-- The contributions to send from element i on. -/
def Coll.contribs (c : Coll) (i : Nat) : List (Nat × CollPay) := (c.own.drop i).mapIdx fun j p => (c.placeOf (i + j), p)
/-- The quantised contributions of isum. -/
def Coll.quants (c : Coll) : List (Nat × CollPay) :=
  c.own.mapIdx fun i p => (i, match p with
    | .la x =>
      let q := quant x c.exp (dQw c.desc)
      .isum (BitVec.ofInt 64 q) (BitVec.ofInt 64 q) (if isSpecial x then { x with val := 0 } else LA0)
    | o => o)
/-- Send contributions and count them here. -/
def State.sendAll (s : State) (c : Coll) (xs : List (Nat × CollPay)) : State × Coll :=
  (xs.foldl (fun s x => if c.members = 1 then s else s.sendColl c.pkgs (s.collReq c.part c.desc x.1 1 x.2)) s,
   xs.foldl (fun c x => c.add x.1 1 x.2) c)

/-- After the max round, the integers are sent (R220). -/
def State.afterMag (s : State) (c : Coll) : State × Coll :=
  if c.stage = .maxRound ∧ c.mag.1 = c.members then s.sendAll { c with stage := .combining } c.quants else (s, c)
/-- Contributions have been read, those from element i on in this step: they are sent, for isum after a max round. -/
def State.sendRead (s : State) (c : Coll) (i : Nat) : State × Coll :=
  let all := c.stage == .reading && c.own.length == c.toRead
  if dOp c.desc = 1 then
    if !all then (s, c)
    else
      let w := (c.own.map fun p => match p with | .la x => magWord x | _ => 0).foldl max 0
      let c1 := { c with stage := .maxRound }.addMag 1 w
      let s1 := if c.members = 1 then s else s.sendColl c.pkgs (s.collReq c.part c.desc 0 1 (.word (BitVec.ofNat 32 w)))
      s1.afterMag c1
  else
    let q := s.sendAll c (c.contribs i)
    (q.1, if all then { q.2 with stage := .combining } else q.2)

/-- Does a request disagree with the descriptor (R221)? -/
def Coll.mismatch (c : Coll) (r : CollReq) : Bool :=
  r.op != dOp c.desc || r.type != dType c.desc || r.count != dCount c.desc || (dOp c.desc == 1 && r.qw != dQw c.desc)
/-- Take a request into a collective (R219, R301). -/
def State.takeReq (s : State) (c : Coll) (r : CollReq) : State :=
  match r.pay with
  | .abort st => s.endColl c st
  | pay =>
    if c.mismatch r then s.abortColl c 3
    else
      match pay, dOp c.desc with
      | .none, _ => s.setColl { c with ready := if s.wholeReq c r then c.members else c.ready + r.members }
      | .word w, 1 =>
        let q := s.afterMag (if s.wholeReq c r then { c with mag := (c.members, w.toNat) } else c.addMag r.members w.toNat)
        q.1.setColl q.2
      | _, _ => s.setColl (if s.wholeReq c r then c.whole r.elem pay else c.add r.elem r.members pay)
/-- Take the requests that came before this member's COLL. -/
def State.takeEarly (s : State) (id : Nat) : List CollReq → State
  | [] => s
  | r :: rs =>
    match s.colls.find? fun c => c.id == id with
    | some c => (s.takeReq c r).takeEarly id rs
    | none => s

/-! ## OUT and RES -/

/-- Element i of OUT. -/
def Coll.outPay (c : Coll) (i : Nat) : CollPay := (tget (0, .word 0) i c.got).2
/-- The sum of the integer results and of the checksums agree (R220). -/
def Coll.cksumOk (c : Coll) : Bool :=
  let ps := (List.range (dCount c.desc)).map c.outPay
  let q := (ps.map fun p => match p with | .isum q _ _ => q.toNat | _ => 0).sum
  let k := (ps.map fun p => match p with | .isum _ k _ => k.toNat | _ => 0).sum
  !(dOp c.desc == 1 && dCksum c.desc) || BitVec.ofNat 64 q == BitVec.ofNat 64 k
/-- The bytes of element i of OUT, and of RES. -/
def Coll.outBytes (c : Coll) (i : Nat) : List Byte :=
  match c.outPay i with
  | .isum q _ sp => leBytes (isumOut q.toInt sp (unitExp c.exp (dQw c.desc))).toNat 4
  | .word w => leBytes w.toNat 4
  | .la _ | .none | .abort _ => []
def Coll.resBytes (c : Coll) (i : Nat) : List Byte :=
  match (c.own[i]?).getD (.word 0) with
  | .la x => leBytes (isumRes x (quant x c.exp (dQw c.desc)) (unitExp c.exp (dQw c.desc))).toNat 4
  | _ => []
/-- What is written on a destination line: OUT, and RES of isum where its checksum agrees (R220). -/
def Coll.lineRuns (c : Coll) (line : Nat) : List (Nat × List Byte) :=
  let run := fun (base sz : Nat) (f : Nat → List Byte) (is : List Nat) => match is with
    | [] => []
    | i :: _ => [((base + sz * i) % 2 ^ 64, is.flatMap f)]
  run (dOut c.desc) (dElem c.desc) c.outBytes (c.outsOn line) ++ if c.cksumOk then run (dRes c.desc) 4 c.resBytes (c.resOn line) else []
/-- What an access of the engine gives. -/
def Res.move (va : Nat) (u : Use) : Res → Move
  | .data _ => .done
  | .page f => .page f
  | .ue _ => .ue va
  | .busy => .wait
  | .peer _ => .page (pageFault 2 va u)
/-- Write the runs of one line, at one instant (R173). -/
def State.putRuns (s : State) (c : Coll) : List (Nat × List Byte) → State × Move
  | [] => (s, .done)
  | w :: r =>
    let q := s.storeVia (s.collVia c) w.1 w.2
    match q.2 with
    | .data _ => q.1.putRuns c r
    | m => (q.1, m.move w.1 .write)
/-- Write destination line number k: kacc merges into its LA. -/
def State.writeDest (s : State) (c : Coll) (k : Nat) : State × Move :=
  let line := c.destLine k
  if dOp c.desc = 0 then
    let va := 128 * line % 2 ^ 64
    match c.outPay k with
    | .la x => let q := s.mergeVia (s.collVia c) va fun y => laMerge y x false; (q.1, q.2.move va .write)
    | _ => (s, .done)
  else s.putRuns c (c.lineRuns line)
/-- Write the destination lines from the first that is not written, before number `k`, while their elements have all their contributions. -/
def State.writeDests (k : Nat) : Nat → State → Coll → State × Coll × Move
  | 0, s, c => (s, c, .done)
  | n + 1, s, c =>
    if k ≤ c.done || !c.mayWrite || !(c.outsOn (c.destLine c.done)).all c.elemFull then (s, c, .wait)
    else
      let r := s.writeDest c c.done
      match r.2 with
      | .done => r.1.writeDests k n { c with done := c.done + 1, repeats := 0 }
      | m => (r.1, c, m)

/-- The work of a collective at this member, as far as it goes now (R173, R219, R376): destination lines are gathered, contributions whose
destinations are gathered are read and sent, lines whose contributions are here are written. Answers what stops it. -/
def State.workColl (s : State) (c : Coll) : State × Coll × Move :=
  let g := s.gatherOuts c
  let k := g.2.2.1
  let keep := fun c : Coll => { c with gath := (g.2.1.filter fun e => decide (c.done ≤ e.1)).map (·.2) }
  match g.2.2.2 with
  | some (.page f) => (g.1, keep c, .page f)
  | some (.ue va) => (g.1, keep c, .ue va)
  | _ =>
    let r := State.readOwn k (c.toRead - c.own.length) g.1 c
    let q := r.1.sendRead r.2.1 c.own.length
    match r.2.2 with
    | .page f => (q.1, keep q.2, .page f)
    | .ue va => (q.1, keep q.2, .ue va)
    | _ => let w := State.writeDests k (c.dests - c.done) q.1 q.2; (w.1, keep w.2.1, w.2.2)
/-- Do what a collective has to do now: it waits, is suspended, ends with FAULT (R525), or is complete. The engine reads nothing before the
earlier accesses of the lane that issued it are performed (R218). -/
def State.runColl (s : State) (c : Coll) : State :=
  if c.fid.isSome || !s.serving c.part || !s.passed c.lane c.after then s
  else
    let r := s.workColl c
    match r.2.2 with
    | .done => r.1.endColl r.2.1 (if r.2.1.cksumOk then 0 else 1)
    | .wait => r.1.setColl r.2.1
    | .page f => r.1.suspendColl r.2.1 f
    | .ue _ => r.1.abortColl r.2.1 6

/-- COLL_COMPLETE: the member goes on with its work, and completes once OUT and RES are written (R219). -/
def execCollComplete (id : Nat) (s : State) : Host.Outcome State Fault Refusal :=
  .next ((s.colls.find? fun c => c.id == id).elim s s.runColl)

/-- COLL_TIMEOUT: the time of %colltmo since this member's COLL is up (R221). -/
def execCollTimeout (id : Nat) (s : State) : Host.Outcome State Fault Refusal :=
  match s.colls.find? fun c => c.id == id with
  | none => .next s
  | some c => if (s.part c.part).colltmo * 1000 ≤ s.time - c.start then .next (s.abortColl c 5) else .next s

/-! ## Requests of other members (R301) -/

/-- A request arrives: it is taken, or kept for a collective that this member has yet to start. -/
def State.collArrives (s : State) (r : CollReq) : State :=
  match s.colls.find? fun c => (s.part c.part).ftag == r.ftag && dSet c.desc == r.setId && dCid c.desc == r.cid with
  | some c => s.takeReq c r
  | none => if s.parts.any (fun e => e.2.ftag == r.ftag && r.ftag != 0) then { s with collIn := s.collIn ++ [r] } else s

/-- VKACC: LAs. -/
def execVkacc (r : CollReq) (s : State) : Host.Outcome State Fault Refusal := .next (s.collArrives { r with op := 0 })
/-- VISUM: integer sums and checksums. -/
def execVisum (r : CollReq) (s : State) : Host.Outcome State Fault Refusal := .next (s.collArrives { r with op := 1 })
/-- VMAXR: the max round of isum. -/
def execVmaxr (r : CollReq) (s : State) : Host.Outcome State Fault Refusal := .next (s.collArrives { r with op := 1, elem := 0 })
/-- VMAX. -/
def execVmax (r : CollReq) (s : State) : Host.Outcome State Fault Refusal := .next (s.collArrives { r with op := 2 })
/-- VMIN. -/
def execVmin (r : CollReq) (s : State) : Host.Outcome State Fault Refusal := .next (s.collArrives { r with op := 3 })
/-- VBCAST. -/
def execVbcast (r : CollReq) (s : State) : Host.Outcome State Fault Refusal := .next (s.collArrives { r with op := 4 })
/-- VGATH. -/
def execVgath (r : CollReq) (s : State) : Host.Outcome State Fault Refusal := .next (s.collArrives { r with op := 5 })

/-! ## COLL and COLLW (R218, R376) -/

/-- Does a BUF or OUT line of kacc lie outside an ACC page (R221)? Lines that do not translate are met later. No answer while a line of the
page tables is away from its home. -/
def State.kaccPages (s : State) (w : Who) (d : Nat) : State × Option Bool :=
  ((List.range (dCount d)).flatMap fun i => [((dBuf d + 128 * i) % 2 ^ 64, Use.read), ((dOut d + 128 * i) % 2 ^ 64, Use.write)]).foldl
    (fun r a =>
      let q := r.1.translate w a.1 a.2
      (q.1, match q.2 with
        | .wait => none
        | .ok x => r.2.map (· || x.attr != .acc || !inHbm x.addr)
        | .fault _ => r.2)) (s, some false)

/-- A collective that ends at this member's COLL with a status, and so at every member whose PKGID is known. -/
def State.refuseColl (s : State) (l : Lane) (h d : Nat) (pkgs : Option (List Nat)) (st : Nat) : State :=
  (match pkgs with
   | some ps => if 2 ≤ ps.length then s.sendColl ps (s.collReq l.part d 0 0 (.abort st)) else s
   | none => s).handleDone l.part l.id.tid h st
/-- What a member checks at its COLL beside its descriptor (R221): whether pages of kacc are unusable, and the PKGIDs of the set, of an entry
that is not usable too, so far as it names members. No answer while a line that it must read is away from its home. -/
def State.collChecks (s : State) (l : Lane) (d : Nat) : State × Option (Bool × Option (List Nat)) :=
  let e := tget 0 (dSet d) (s.part l.part).sets
  let k := if dOp d = 0 ∧ !collBad d e then s.kaccPages (s.who l) d else (s, some false)
  let ps := if dSet d ≤ 63 ∧ setN e ≠ 0 then k.1.setPkgs l.part e else (k.1, some none)
  (ps.1, k.2.bind fun b => ps.2.map fun p => (b, p))
/-- Start the collective of a lane on a handle with the results of those checks, or end it at once with DESC, FAULT or DUP (R221). At no
scope wider than the lane's is it a release (R376). A member of a broadcast or an all-gather tells the others that it has begun, so that none
writes OUT before every member has checked its descriptor (R221; DESIGN CHOICE, log entry 34). -/
def State.startColl (s : State) (l : Lane) (h : Nat) (d : Nat) (e : Scope) (aligned : Bool) (bad : Bool × Option (List Nat)) : State :=
  let set := tget 0 (dSet d) (s.part l.part).sets
  if !aligned || collBad d set || bad.1 || bad.2.isNone then s.refuseColl l h d bad.2 2
  else if s.setPoisoned set then s.refuseColl l h d bad.2 6
  else if s.colls.any fun c => c.part == l.part && dCid c.desc == dCid d then s.handleDone l.part l.id.tid h 4
  else
    let c : Coll :=
      { id := s.nextId, part := l.part, tid := l.id.tid, handle := h, lane := l.id, ctx := s.laneCtx l, sup := l.sup, die := l.die, pc := l.pc,
        desc := d, members := setN set, rank := setRank set, pkgs := bad.2.getD [], start := s.time, stage := .reading, own := [], got := [],
        mag := (0, 0), done := 0, repeats := 0, fid := none, gath := [], src := [], ready := 1,
        after := if e = .lane then { defs := [], atoms := [], reqs := [] } else s.boundOf l }
    let mine := s.collIn.filter fun r => r.ftag == (s.part l.part).ftag && r.setId == dSet d && r.cid == dCid d
    let s1 := ({ s with colls := s.colls ++ [c], nextId := s.nextId + 1,
                        collIn := s.collIn.filter fun r => !mine.contains r }).setHandle l.part l.id.tid h (.pending c.id)
    let s2 := if c.places && c.members != 1 then s1.sendColl c.pkgs (s1.collReq c.part d 0 1 .none) else s1
    let s3 := s2.takeEarly c.id mine
    (s3.colls.find? fun x => x.id == c.id).elim s3 s3.runColl

/-- The 64 bytes of a descriptor, in two parts where it is misaligned and falls on two lines; the lane waits for one in another package's
memory. -/
def State.readDesc (s : State) (l : Lane) (va : Nat) : State × Res :=
  let n := min 64 (128 - va % 128)
  let r := s.loadVia (s.via l) va n
  match r.2 with
  | .data bs =>
    if n = 64 then r
    else
      let q := r.1.loadVia (s.via l) (va + n) (64 - n)
      (q.1, match q.2 with | .data bs' => .data (bs ++ bs') | o => o)
  | .peer a => if va % 64 = 0 then r.1.farPart l va a else r
  | _ => r
/-- Must the read of a descriptor or of a launch record come after an earlier access of the lane that is not performed: one that acquires,
or that writes to bytes of it (R180)? -/
def State.readWaits (s : State) (l : Lane) (va n : Nat) : List Pend :=
  (s.pendings l).filter fun u => u.acquires || (u.touches va n && !readOnly u.instr)

/-- COLL (R376): once for the bundle, with the lowest active lane; a release of that lane's earlier accesses. The bundle waits while the read
of the descriptor must; an access that has faulted, whose fault the lane takes at its next marker (R82), is not waited for (DESIGN CHOICE,
log entry 54). -/
def execColl (a : VReg) (h : Fin 4) (e : Scope) (s : State) : Host.Outcome State Fault Refusal :=
  guarded (.coll a h e) s fun s =>
    match s.lead with
    | none => s
    | some l =>
      let va := (l.pair a).toNat
      let busy := match (s.teamOf l).handle h.val with
        | .pending _ | .done _ => true
        | _ => false
      let go := fun s : State => mapActive s fun m => { m with marker := m.marker || (m.id == l.id && e == Scope.system && l.lostStore), fetched := [] }.adv 8
      if (s.readWaits l va 64).any fun u => !u.faulted then mapActive s Lane.stall
      else
        let r := s.readDesc l va
        match r.2 with
        | .page f => mapActive r.1 fun l => l.pageHere f
        | .busy => mapActive r.1 Lane.stall
        | o =>
          if busy then eachActive r.1 fun s l => s.raise l (l.causeHere causeCollBusy h.val 0)
          else
            match o with
            | .data bs =>
              let q := r.1.collChecks l (leNat bs)
              match q.2 with
              | none => mapActive q.1 Lane.stall
              | some b => go (q.1.startColl l h.val (leNat bs) e (va % 64 == 0) b)
            | .ue _ => go (r.1.handleDone l.part l.id.tid h.val 6)
            | _ => go (r.1.handleDone l.part l.id.tid h.val 2)

/-- COLLW (R376): the status at once, or the lane waits for it. -/
def execCollw (d : VReg) (h : Fin 4) (s : State) : Host.Outcome State Fault Refusal :=
  guarded (.collw d h) s fun s =>
    match s.lead with
    | none => s
    | some l0 =>
      let give := fun (s : State) (st : Nat) =>
        (mapActive s fun l => (l.setV d (BitVec.ofNat 32 st)).adv 8).acquireAll (fun l => l.issuing) .device
      match (s.teamOf l0).handle h.val with
      | .pending _ => mapActive s fun l => (l.adv 8).parked (.collw h.val d.val)
      | .done st => (give s st).setHandle l0.part l0.id.tid h.val (.free st)
      | .free st => give s st
      | .unused => give s 0

end Sys2Proof.Machine
end

