-- ==== Sys2Proof/Machine/Admission.lean ====
section
/-! DEFINITION. Code objects (R192), their admission and their class (R100, R193), and the handler object (R223). -/
namespace Sys2Proof.Machine
open Sys2Proof

/-! ## Reading by the launch unit -/

/-- The launch unit and the dispatcher access memory at the home, for a partition and a context. -/
def State.unitVia (s : State) (p ctx : Nat) (sup : Bool) : Via :=
  { who := { part := p, ctx := ctx, die := ((s.part p).dies.head?).getD 0, core := none, sup := sup, quiet := false }, agent := 8, recd := { rec0 with kind := 2 } }

/-- What a read of several words gives. -/
inductive Got where
  | bytes (bs : List Byte) (at' : List Phys)
  | fault
  | wait
  deriving DecidableEq, Repr

/-- Read one word at a place the translation gave. -/
def State.gotAt (s : State) (v : Via) : Reach → Nat → State × Option (List Byte)
  | .at x, n => s.readAt v x n
  | .host a, n => (s, some (s.hostRead a n))
  | .void, n => (s, some (zeros n))
  | _, _ => (s, none)

/-- Read n 4-byte words from va for use u: their bytes and where each lies. -/
def State.readWords (s : State) (v : Via) (u : Use) (va : Nat) : Nat → State × Got
  | 0 => (s, .bytes [] [])
  | n + 1 =>
    let r := s.reach v va 4 u
    match r.2 with
    | .busy => (r.1, .wait)
    | .page _ | .peer _ => (r.1, .fault)
    | at' =>
      let q := r.1.gotAt v at' 4
      match q.2 with
      | none => (q.1, .fault)
      | some bs =>
        let here : List Phys := match at' with | .at x => [x] | .host a => [{ attr := .hostc, addr := a }] | _ => [{ attr := .device, addr := 2 ^ 51 }]
        let m := q.1.readWords v u (va + 4) n
        match m.2 with
        | .bytes bs' l => (m.1, .bytes (bs ++ bs') (here ++ l))
        | o => (m.1, o)

/-! ## Code objects (R192) -/

def codeMagic : Nat := 0x314B5648

/-- A header is well formed: magic, size, class, zeros; answers SIZE and CLASS. -/
def headerOf (h : Nat) : Option (Nat × Nat) :=
  let size := fld h 32 32
  let cls := fld h 64 4
  if fld h 0 32 = codeMagic ∧ size % 12 = 0 ∧ 12 ≤ size ∧ size ≤ 2 ^ 24 ∧ cls ≤ 3 ∧ h / 2 ^ 68 = 0 then some (size, cls) else none

/-- The instructions of one packet; illegal words give none (R310, R336). -/
def packetInstrs (w0 w1 w2 : Nat) : List Instr :=
  let one := fun slot w ext => (decodeAt slot w ext).toList.map (·.instr)
  if isTwoWord w0 then one 0 w0 w1 ++ one 2 w2 0
  else one 0 w0 0 ++ (if isTwoWord w1 then one 1 w1 w2 else one 1 w1 0 ++ one 2 w2 0)

def packets : List Word → List Instr
  | a :: b :: c :: r => packetInstrs a.toNat b.toNat c.toNat ++ packets r
  | _ => []

/-- Is a system register marked timing (R337)? -/
def timingReg (r : Nat) : Bool :=
  r == 0x013 || r == 0x014 || sysKind r == some .bankCount || sysKind r == some .bankSnap
/-- The class a word implies (R100): 0 B, 1 S, 2 N. -/
def classOf : Instr → Nat
  | .atom _ _ _ op _ ord _ _ _ => if ord then 0 else if op = .exch then 2 else 1
  | .atomNr _ _ op _ ord _ _ _ => if ord then 0 else if op = .exch then 2 else 0
  | .cas _ _ _ _ _ ord _ _ _ => if ord then 0 else 2
  | _ => 0
def readsTiming : Instr → Bool
  | .clk _ | .cntrd _ _ | .rowqry _ _ => true
  | .mfs _ r => timingReg r.toNat
  | _ => false
def isGridBarrier : Instr → Bool
  | .cbar | .gbar => true
  | _ => false
def isOrdered : Instr → Bool
  | .atom _ _ _ _ _ ord _ _ _ | .atomNr _ _ _ _ ord _ _ _ | .cas _ _ _ _ _ ord _ _ _ => ord
  | _ => false
/-- The slot a matrix instruction names (R55). -/
def matrixSlot : Instr → List Nat
  | .mxa _ _ _ l _ | .mxz l _ | .mxrd _ l _ | .mxsp _ l _ | .mxfl _ l _ => [l.val]
  | _ => []
def mxaSlot : Instr → List Nat
  | .mxa _ _ _ l _ => [l.val]
  | _ => []

/-- The admission entry of a scanned object (R193). -/
def scanObject (ctx code size declared : Nat) (is : List Instr) (frames : List Nat) : Admit :=
  { ctx := ctx, code := code, size := size, base := is.foldl (fun c i => max c (classOf i)) 0, timing := is.any readsTiming,
    barriers := is.any isGridBarrier, orderedForms := is.any isOrdered, slots := (is.flatMap matrixSlot).eraseDups,
    mxaSlots := (is.flatMap mxaSlot).eraseDups, declared := declared, frames := frames, releasing := false }

/-- The frames and pages of a list of places. -/
def framesOf (l : List Phys) : List Nat := (l.map Phys.codeKey).eraseDups

/-- What reading a code object gives (R191 checks 1 and 3). -/
inductive ObjRead where
  | object (a : Admit) (places : List Phys)
  | malformed
  | fault
  | wait
  deriving DecidableEq, Repr

/-- Read a code object's header and words, as code of the given level; for a write of %tvec without fault records (R191, R223). -/
def State.readObject (s : State) (p ctx code : Nat) (sup : Bool) : State × ObjRead :=
  if code % 64 ≠ 0 then (s, .malformed)
  else
    let u := s.unitVia p ctx sup
    let v : Via := { u with who := { u.who with quiet := sup } }
    let h := s.readWords v .fetch code 16
    match h.2 with
    | .fault => (h.1, .fault)
    | .wait => (h.1, .wait)
    | .bytes hb hp =>
      match headerOf (leNat hb) with
      | none => (h.1, .malformed)
      | some (size, cls) =>
        let w := h.1.readWords v .fetch (code + 64) (size / 4)
        match w.2 with
        | .fault => (w.1, .fault)
        | .wait => (w.1, .wait)
        | .bytes wb wp => (w.1, .object (scanObject ctx code size cls (packets (wordsOf wb)) (framesOf (hp ++ wp))) (hp ++ wp))

/-- The entry of an object, if it is admitted (R193). -/
def Part.admission? (p : Part) (ctx code : Nat) : Option Admit := p.admitted.find? fun o => o.ctx == ctx && o.code == code
/-- Enter an object in the table; none where the table is full. -/
def State.enter (s : State) (p : Nat) (a : Admit) : Option State :=
  let x := s.part p
  if (x.admission? a.ctx a.code).isSome then some s
  else if 256 ≤ x.admitted.length then none
  else some (s.modPart p fun x => { x with admitted := x.admitted ++ [a] })

/-- An admission entry leaves once no launch of the window names its object; its frames become writable (R193). -/
def State.releaseAdmit (s : State) (p ctx code : Nat) : State :=
  let x := s.part p
  match x.admission? ctx code with
  | some o =>
    if o.releasing && !x.window.any (fun L => recCode L.lrec == code && recCtx L.lrec % 16 == ctx) then
      s.modPart p fun x => { x with admitted := x.admitted.filter fun o => !(o.ctx == ctx && o.code == code) }
    else s
  | none => s
/-- A write of %admitrel (R193). -/
def State.writeAdmitrel (s : State) (p ctx code : Nat) : State :=
  (s.modPart p fun x =>
    { x with admitted := x.admitted.map fun o => if o.ctx = ctx ∧ o.code = code then { o with releasing := true } else o }).releaseAdmit p ctx code

/-! ## The handler object (R223) -/

/-- The number of a 4 KiB page under which %tvec records it; host pages carry bit 48. -/
def tvecPage (x : Phys) : Nat := x.addr / 4096 + (if x.attr = .hostc then 2 ^ 48 else 0)

/-- The recorded translation: page by page, from the places of the object's words. -/
def tvecPages (code : Nat) (places : List Phys) : List (Nat × Nat) :=
  (places.mapIdx fun i x => ((code + 4 * i) / 4096, tvecPage x)).eraseDups

/-- A write of %tvec: it admits the object named in context 0 and records its translation; zero is left where the object
cannot be used (R223). Answers false while a line of the object is still with the host. -/
def State.writeTvec (s : State) (p : Nat) (v : DWord) : State × Bool :=
  let clear := fun s : State => s.modPart p fun x => { x with tvec := 0, tvecMap := [], tvecSize := 0 }
  if v = 0 then (clear s, true)
  else
    let r := s.readObject p 0 v.toNat true
    match r.2 with
    | .object a places =>
      match r.1.enter p a with
      | some s1 => (s1.modPart p fun x => { x with tvec := v, tvecMap := tvecPages v.toNat places, tvecSize := a.size }, true)
      | none => (clear r.1, true)
    | .wait => (r.1, false)
    | _ => (clear r.1, true)
/-- A write of %tvec by the driver: while a line of the object is with the host, the write is pending. -/
def State.tvecOrWait (s : State) (p : Nat) (v : DWord) : State :=
  let q := s.writeTvec p v
  q.1.modPart p fun x => { x with tvecPend := if q.2 then none else some v }
/-- Try the pending writes of %tvec again. -/
def State.retryTvec (s : State) : State :=
  s.parts.foldl (fun s e => match e.2.tvecPend with | some v => s.tvecOrWait e.1 v | none => s) s

end Sys2Proof.Machine
end

