-- ==== Sys2Proof/Machine/Completion.lean ====
section
/-! DEFINITION. Completion records, completion events (R202 to R204), and LAUNCH (R201, R442, R443). -/
namespace Sys2Proof.Machine
open Sys2Proof

/-! ## Status codes (R203) -/

def stOk : Nat := 0
def stBudget : Nat := 1
def stShape : Nat := 2
def stSlot : Nat := 3
def stDmode : Nat := 4
def stClass : Nat := 5
def stCoop : Nat := 6
def stRsvd : Nat := 7
def stCode : Nat := 8
def stAdmit : Nat := 9
def stQfull : Nat := 10
def stCancel : Nat := 11
def stFault : Nat := 12
def stFailed : Nat := 13

/-! ## The completion record -/

/-- The 512 bits of a completion record (R203). -/
def cmplBits (status cls teams tstart tend nfault : Nat) : Nat :=
  status % 256 + cls % 256 * 2 ^ 8 + teams % 2 ^ 32 * 2 ^ 32 + tstart % 2 ^ 64 * 2 ^ 64 + tend % 2 ^ 64 * 2 ^ 128 + nfault % 2 ^ 32 * 2 ^ 192

/-- Does the record's CMPL name a place for the completion record (R203)? A CMPL that is not aligned names none, whatever the status: the
spec says so of status RSVD, and not whether a launch that ends with another status first, FAULT or QFULL, writes one (DESIGN CHOICE, log
entry 57). -/
def cmplUsable (r : Nat) : Bool := recCmpl r % 64 == 0
/-! ## Completion events (R203, R204) -/

/-- The index of a cluster within its partition. -/
def Part.clusterIndex (p : Part) (c : Nat) : Nat := (p.clusters.findIdx? (· == c)).getD 0
/-- The launch completes on a cluster: its event, if LVL selects it. -/
def State.doneCluster (s : State) (p r c : Nat) : State :=
  if fld (recLvl r) 0 1 = 1 then s.bumpEvent p (recCevc r + (s.part p).clusterIndex c) 1 else s
/-- The launch completes on a die. -/
def State.doneDie (s : State) (p r d : Nat) : State := if fld (recLvl r) 1 1 = 1 then s.bumpEvent p (recCevd r + d) 1 else s
/-- The launch completes on the device: event and interrupt. -/
def State.doneDevice (s : State) (p r : Nat) (queue : Option Nat) : State :=
  let s1 := if fld (recLvl r) 2 1 = 1 then s.bumpEvent p (recCev r) 1 else s
  if fld (recLvl r) 3 1 = 1 then s1.msix ((s1.part p).fnOf queue) (recMsix r) else s1

/-- A launch that is complete raises its events and sends its interrupt (R203, R204). -/
def State.signalDone (s : State) (p : Nat) (x : Signal) : State :=
  let s1 := x.clusters.foldl (fun s c => s.doneCluster p x.lrec c) s
  let s2 := x.dies.foldl (fun s d => s.doneDie p x.lrec d) s1
  s2.doneDevice p x.lrec x.queue

/-! ## Writing the record -/

/-- Write bytes of host memory, in the host-line cache where a line is held. A unit of the device writes them there without asking the host
for ownership of the line: the spec says how a lane's stores reach host memory (R170), and not how a record of a unit does (DESIGN CHOICE, log
entry 57). -/
def State.hostDirect (s : State) (a : Nat) (bs : List Byte) : State :=
  { s with hostMem := writeBytes s.hostMem a bs,
           hostLines := s.hostLines.map fun e =>
             (e.1, { e.2 with data := e.2.data.mapIdx fun i b => if a ≤ 64 * e.1 + i then (bs[64 * e.1 + i - a]?).getD b else b }) }

/-- The launch unit writes a record at a virtual address of a context, as far as it can: none is left once it is written, or dropped where it
does not translate or where R144 or R193 forbids it (R443, R524). -/
def State.unitTry (s : State) (w : UnitWrite) : State × Option UnitWrite :=
  match w.sent with
  | some id => (s, if s.peers.any fun r => r.id == id then some w else none)
  | none =>
    let p := w.part
    let r := s.translate (s.unitVia p w.ctx true).who w.va .write
    match r.2 with
    | .wait => (r.1, some w)
    | .fault _ => (r.1, none)
    | .ok x =>
      if (r.1.codeAt p x.codeKey).isSome then (r.1, none)
      else if x.attr = .hostc then (r.1.hostDirect x.addr w.bytes, none)
      else if inPeer x.addr then
        let q : PeerReq :=
          { id := r.1.nextId, since := s.time, pc := 0, part := p, lane := none, n := none, dpa := x.addr, op := .write w.bytes, va := w.va, store := true,
            acq := none, xfer := none }
        (({ r.1 with peers := r.1.peers ++ [q], nextId := r.1.nextId + 1 } : State).sendPeer q, some { w with sent := some q.id })
      else if inCap x.addr then (r.1.capWrite p x.addr w.bytes, none)
      else if !r.1.mayWrite p x.addr then (r.1, none)
      else if r.1.homeBusy (x.addr / 128) then (r.1.recallHost (x.addr / 128) true, some w)
      else (r.1.putLine x.addr w.bytes, none)
/-- A completion record is written, and what it comes before is raised; or it waits. -/
def State.unitDo (s : State) (w : UnitWrite) : State :=
  let q := s.unitTry w
  match q.2 with
  | none => q.1.signalDone w.part w.signal
  | some w' => { q.1 with unitWait := q.1.unitWait ++ [w'] }
/-- The records that wait are tried again. -/
def State.serveUnit (s : State) : State := s.unitWait.foldl State.unitDo { s with unitWait := [] }
/-- Write the completion record of a launch, then raise its events (R203). -/
def State.writeCmpl (s : State) (p r : Nat) (status cls teams tstart nfault : Nat) (x : Signal) : State :=
  let q := s.readChron p
  if cmplUsable r then
    q.2.unitDo { part := p, ctx := recCtx r % 16, va := recCmpl r, bytes := leBytes (cmplBits status cls teams tstart q.1 nfault) 64, sent := none, signal := x }
  else s.signalDone p x

/-- What a launch of which nothing was placed raises: the spec does not say which clusters and dies it completes on; it is on every one of its
partition (DESIGN CHOICE, log entry 57). -/
def State.signalAll (s : State) (p r : Nat) (queue : Option Nat) : Signal :=
  { lrec := r, queue := queue, clusters := (s.part p).clusters, dies := (s.part p).dies }
/-- A launch of which nothing was placed is refused: its record, then its events and interrupt (R191, R203). The CLASS of its record is
free: the spec gives a refused launch none (DESIGN CHOICE, log entry 57). -/
def State.refuseLaunch (s : State) (p r : Nat) (queue : Option Nat) (status : Nat) : State :=
  let d := s.draw
  d.2.writeCmpl p r status (d.1 % 3) 0 0 0 (s.signalAll p r queue)

/-- The class a completed launch reports (R101, R226). -/
def Launch.report (L : Launch) : Nat := if L.handler then 2 else L.cls
/-- A launch ends: completion record, the events of every level not yet raised, interrupt; it leaves the window, launches
that waited for it go on, and its object may leave the table (R193, R195, R203). -/
def State.endLaunch (s : State) (p : Nat) (L : Launch) (status : Nat) : State :=
  let x : Signal :=
    if L.placed = 0 then s.signalAll p L.lrec L.queue
    else
      { lrec := L.lrec, queue := L.queue, clusters := (L.clusterCnt.map (·.1)).filter fun c => !L.doneClusters.contains c,
        dies := (L.dieCnt.map (·.1)).filter fun d => !L.doneDies.contains d }
  let s1 := s.writeCmpl p L.lrec status L.report L.retired L.tstart L.nfault x
  let s2 := s1.modPart p fun x =>
    { x with window := (x.window.filter fun M => M.seq != L.seq).map fun M =>
        if M.waits.contains L.seq then { M with waits := M.waits.filter (· != L.seq), since := s.time } else M }
  s2.releaseAdmit p (recCtx L.lrec % 16) (recCode L.lrec)

/-! ## LAUNCH (R201) -/

/-- What reading a launch record by a lane gives. -/
inductive RecRead where
  | ok (r : Nat)
  | page (f : PageFault)
  | ue
  | busy
  deriving DecidableEq, Repr

/-- Read n 64-byte parts of a record; `far` gives one that lies in another package's memory. -/
def State.readParts (far : State → Nat → Nat → State × Res) (v : State → Via) (s : State) (va : Nat) : Nat → State × RecRead
  | 0 => (s, .ok 0)
  | n + 1 =>
    let r0 := s.loadVia (v s) va 64
    let r := match r0.2 with
      | .peer a => far r0.1 va a
      | o => (r0.1, o)
    match r.2 with
    | .page f => (r.1, .page f)
    | .ue _ => (r.1, .ue)
    | .busy | .peer _ => (r.1, .busy)
    | .data bs =>
      let q := State.readParts far v r.1 (va + 64) n
      match q.2 with
      | .ok x => (q.1, .ok (leNat bs + 2 ^ 512 * x))
      | o => (q.1, o)
/-- A lane reads n parts of a launch record. -/
def State.readRecord (s : State) (l : Lane) (va n : Nat) : State × RecRead := s.readParts (fun s => s.farPart l) (fun s => s.via l) va n

/-- Enqueue a record in the device queue; a full queue writes QFULL (R201, R443). -/
def State.enqueueDq (s : State) (p ctx r : Nat) : State :=
  if 256 ≤ (s.part p).dq.length then s.refuseLaunch p r none stQfull
  else s.modPart p fun x => { x with dq := x.dq ++ [{ lrec := r, ctx := ctx }] }

/-- LAUNCH (R201, R442): each active lane enqueues its own record in ascending lane slot, a release at device scope of its earlier accesses.
A lane waits at the word for those, for the parts of a record that a peer holds, and for a lane of the bundle in a lower slot that waits. -/
def execLaunch (a : VReg) (s : State) : Host.Outcome State Fault Refusal :=
  guarded (.launch a) s fun s0 => eachActive s0 fun s l =>
    let va := l.pair a
    if va.toNat % 64 ≠ 0 then s.raise l (l.causeHere causeAlign 6 va)
    else if s0.actives.any fun m => decide (m.id.slot < l.id.slot) && s.heldAt m then s.setLane l.stall
    else
      withRelease s l .device
        (let r := s.readRecord l va.toNat 6
         let m : Lane := { l with fetched := [] }
         match r.2 with
         | .page f => r.1.setLane (m.pageHere f)
         | .ue => r.1.raise m (m.causeHere causeDataUe 0 va)
         | .busy => r.1.setLane l.stall
         | .ok x => (r.1.enqueueDq l.part (s.laneCtx l) x).setLane (m.adv 4))

end Sys2Proof.Machine
end

