-- ==== Sys2Proof/Machine/Control.lean ====
section
/-! DEFINITION. Control (R312, R313, R361 to R363, R365, R366, R391, R463, R473, R490, R496). -/
namespace Sys2Proof.Machine
open Sys2Proof

/-! ## Transfers of control -/

/-- The start of the next packet (R312). -/
def State.nextPacket (s : State) (l : Lane) : DWord := BitVec.ofNat 64 (s.packetBase l) + 12

/-- The BRANCH record of a bundle that sends a lane to a target other than the next packet (R270): the target of the
lowest active lane and the lanes that go there. -/
def State.branchRecord (s : State) (dest : Lane → Option DWord) : State :=
  let sent := s.actives.filter fun l => (dest l).elim false fun t => s.packetOf l t.toNat && t != s.nextPacket l
  match s.lead, sent with
  | some l, _ :: _ =>
    let t := (dest l).getD (l.pc + 4)
    let mask := ((s.actives.filter fun m => (dest m).getD (m.pc + 4) == t).map fun m => 2 ^ m.id.slot).sum
    s.traceLane l 2 0 (t.toNat + mask * 2 ^ 64) 3
  | _, _ => s

/-- Each active lane goes to its own target, or past the word if it has none; a target outside the lane's code object
is ILLEGAL with AUX 2 and leaves the PC (R72, R313). `link` acts in the lanes that go. -/
def transfer (i : Instr) (s : State) (dest : State → Lane → Option DWord) (link : State → Lane → Lane) :
    Host.Outcome State Fault Refusal :=
  guarded i s fun s =>
    eachActive (s.branchRecord (dest s)) fun s l =>
      match dest s l with
      | none => s.setLane (l.adv 4)
      | some t =>
        if s.packetOf l t.toNat then s.setLane { link s l with pc := t } else s.raise l (l.causeHere causeIllegal 2 0)

/-- BRA (R362, R363). A group-uniform hint that the active lanes of a group do not follow together counts HINT_MISS (R318). -/
def execBra (h : Hint) (p : PReg) (n : Bool) (d : BitVec 18) (s : State) : Host.Outcome State Fault Refusal :=
  let takes := fun l : Lane => l.getP p != n
  let split := h == .uniform && s.actives.any fun l => takes l && s.actives.any fun m => m.id.grp == l.id.grp && !takes m
  let miss := fun (s : State) (l : Lane) => if split && (s.illegalAt l (.bra h p n d)).isNone then s.countLane l evHintMiss 1 else s
  let s1 := s.lead.elim s fun l => miss s l
  transfer (.bra h p n d) s1 (fun s l => if takes l then some (s.dispTarget l d) else none) fun _ l => l
/-- CALL writes the next packet's address to the link pair (R366). -/
def execCall (d : VReg) (i : BitVec 18) (s : State) : Host.Outcome State Fault Refusal :=
  transfer (.call d i) s (fun s l => some (s.dispTarget l i)) fun s l => l.setPair d (s.nextPacket l)
/-- RET (R473). -/
def execRet (a : VReg) (s : State) : Host.Outcome State Fault Refusal :=
  transfer (.ret a) s (fun _ l => some (l.pair a)) fun _ l => l
/-- BRX (R365). -/
def execBrx (a : VReg) (s : State) : Host.Outcome State Fault Refusal :=
  transfer (.brx a) s (fun _ l => some (l.pair a)) fun _ l => l

/-! ## The rest -/

/-- NOP (R463). -/
def execNop (s : State) : Host.Outcome State Fault Refusal := laneOp .nop s fun l => l

/-- The end of one lane (R391): it counts as arrived at every barrier, and a group all of whose lanes have exited
retires (R66). -/
def State.exitLane (s : State) (l : Lane) : State :=
  let s1 := s.setLane { l.parked .exited with pc := l.pc + 4 }
  let own := fun m : Lane => m.id.tid == l.id.tid && m.id.grp == l.id.grp
  let s2 := if s1.lanes.all fun m => !own m || m.park == .exited then
      s1.modGroup l.id.tid l.id.grp fun g => { g with retired := true }
    else s1
  s2.completeAll l

/-- Does a gather or a tile load that the lane started still run, so that it may yet meet a data error (R417, R457)? -/
def State.mayErr (s : State) (l : Lane) : Bool :=
  s.xfers.any fun x => x.lane == l.id && (x.gather || x.tile.elim false (·.2))

/-- EXIT (R391): after the lane's deferred results, after the data error of a transfer it started, for which it waits
(R417, R457; DEDUCED, log entry 51), and after its held ordered atomics (R356; log entry 52). -/
def execExit (s : State) : Host.Outcome State Fault Refusal :=
  guarded .exit s fun s => waitFirst s fun s => eachActive s fun s l =>
    match l.errs.find? fun e => e.2.1 == causeDataUe with
    | some e => s.raise { l with errs := l.errs.filter (· != e) } (l.causeHere e.2.1 e.2.2.1 e.2.2.2)
    | none => if s.mayErr l || s.holdsAtom l then s.setLane l.stall else s.exitLane l

/-- YIELD (R496): in D-mode the lane's group becomes yielded (R94); otherwise the lane counts as ready from the next
formation point. -/
def execYield (s : State) : Host.Outcome State Fault Refusal :=
  guarded .yield s fun s => waitFirst s fun s =>
    let s1 := eachActive s fun s l => if l.dm then s.modGroup l.id.tid l.id.grp fun g => { g with yielded := true } else s
    mapActive s1 fun l => { l.adv 4 with since := if l.dm then l.since else (s.cycle / 4 + 1) * 4 }

/-- TRAP (R490): SOFT with the low byte as AUX, resuming at the next word. -/
def execTrap (i : BitVec 16) (s : State) : Host.Outcome State Fault Refusal :=
  guarded (.trap i) s fun s => waitFirst s fun s => eachActive s fun s l =>
    s.raise l { cause := causeSoft, aux := i.toNat % 256, tval := i.setWidth 64, fpc := l.pc, epc := l.pc + 4, rpl := false }

/-- BKPT (R361): a BKPT trap with AUX 0 at the word, or a quarter stop where the group's QSTOP is set (R243): the lane stops at the end of
its packet. -/
def execBkpt (s : State) : Host.Outcome State Fault Refusal :=
  guarded .bkpt s fun s => eachActive s fun s l =>
    if (s.group? l.id).elim false (·.dbgctl.getLsbD 2) then (s.setLane (l.adv 4)).quarterStop l
    else s.raise l (l.causeHere causeBkpt 0 l.pc)

end Sys2Proof.Machine
end

