-- ==== Sys2Proof/Machine/Convergence.lean ====
section
/-! DEFINITION. Convergence registers (R83 to R86, R378, R379). -/
namespace Sys2Proof.Machine
open Sys2Proof

/-! ## The state word (R83) -/

def cvGen (w : Word) : Bool := w.getLsbD 31
def cvArmed (w : Word) : Bool := w.getLsbD 30
def cvAction (w : Word) : Nat := fld w.toNat 28 2
def cvQheld (w : Word) : Nat := fld w.toNat 24 4
def cvCount (w : Word) : Nat := fld w.toNat 11 11
def cvSigned (w : Word) : Nat := fld w.toNat 0 11
/-- The word with the given fields. -/
def cvWordOf (gen armed : Bool) (action qheld count signed : Nat) : Word :=
  BitVec.ofNat 32 (bit gen * 2 ^ 31 + bit armed * 2 ^ 30 + action % 4 * 2 ^ 28 + qheld % 16 * 2 ^ 24 + count % 2048 * 2 ^ 11 + signed % 2048)
/-- The word with SIGNED and QHELD replaced. -/
def cvSign (w : Word) (qheld signed : Nat) : Word :=
  cvWordOf (cvGen w) (cvArmed w) (cvAction w) qheld (cvCount w) signed
/-- The word after firing (R85): GEN flips; ARMED, SIGNED and QHELD are cleared. -/
def cvFired (w : Word) : Word := cvWordOf (!cvGen w) false (cvAction w) 0 (cvCount w) 0

/-- The physical register of a team's cv name (R199). -/
def State.cvPhys (s : State) (l : Lane) (v : Nat) : Nat := ((s.team? l.id.tid).bind fun t => t.cvs[v]?).getD 0
def State.cvAt (s : State) (l : Lane) (v : Nat) : CvReg := (s.cluster l.cluster).cvOf (s.cvPhys l v)
def State.setCv (s : State) (l : Lane) (v : Nat) (x : CvReg) : State :=
  s.modCluster l.cluster fun c => c.modCv (s.cvPhys l v) fun _ => x
/-- CVSTATE names the register (R224). -/
def Lane.cvTrap (l : Lane) (v : Nat) : TrapReq := l.causeHere causeCvState v 0

/-! ## Declarations and signatures -/

/-- CVDECL (R84), once for the bundle: a fresh declaration, the same declaration again, or CVSTATE. -/
def execCvdecl (v : Fin 16) (t : Fin 4) (k : BitVec 11) (s : State) : Host.Outcome State Fault Refusal :=
  guarded (.cvdecl v t k) s fun s =>
    match s.lead with
    | none => s
    | some l =>
      let x := s.cvAt l v.val
      let n := k.toNat
      let bad := n == 0 || decide (1024 < n) || decide (2 ≤ t.val) || (t.val == 1 && n != 128)
      if bad then eachActive s fun s l => s.raise l (l.cvTrap v.val)
      else if !cvArmed x.word then
        let fresh : CvReg :=
          { x with word := cvWordOf (cvGen x.word) true t.val 0 n 0, held := [], form := none }
        mapActive (s.setCv l v.val fresh) fun l => l.adv 4
      else if cvSigned x.word = 0 ∧ cvCount x.word = n ∧ cvAction x.word = t.val then mapActive s fun l => l.adv 4
      else eachActive s fun s l => s.raise l (l.cvTrap v.val)

/-- Lanes of a team that wait for a register's generation (R86, R87). -/
def convWaits (tid v : Nat) (l : Lane) : Bool := l.id.tid == tid && l.park == .conv v

/-- One signature on a SIGNAL register (R85): it fires when SIGNED reaches COUNT, and releases the lanes that wait; of a CVSIGN.w the lane
that makes it fire goes on together with them (R483). -/
def State.signal (s : State) (l : Lane) (v : Nat) (w : Word) (waits : Bool) : State :=
  let x := s.cvAt l v
  if cvSigned w + 1 = cvCount w then
    ((s.setCv l v { x with word := cvFired w, held := [], form := none }).together fun m =>
      convWaits l.id.tid v m || (waits && m.id == l.id)).release (convWaits l.id.tid v)
  else s.setCv l v { x with word := cvSign w (cvQheld w) (cvSigned w + 1) }

/-- CVSIGN and CVSIGN.w (R85, R86, R379): each active lane signs in turn. -/
def signWord (i : Instr) (s : State) (v : Fin 16) (waits : Bool) : Host.Outcome State Fault Refusal :=
  guarded i s fun s => releaseFirst s fun s => eachActive s fun s l =>
    let w := (s.cvAt l v.val).word
    if !cvArmed w || cvAction w != 0 then s.raise l (l.cvTrap v.val)
    else
      let l1 := l.adv 4
      let last := cvSigned w + 1 = cvCount w
      (s.setLane (if waits && !last then l1.parked (.conv v.val) else l1)).signal l v.val w waits

/-- CVSIGN. -/
def execCvsign (v : Fin 16) (s : State) : Host.Outcome State Fault Refusal := signWord (.cvsign v) s v false
/-- CVSIGN.w. -/
def execCvsignW (v : Fin 16) (s : State) : Host.Outcome State Fault Refusal := signWord (.cvsignW v) s v true

end Sys2Proof.Machine
end

