-- ==== Sys2Proof/Machine/SysOps.lean ====
section
/-! DEFINITION. Writes and reads of the partition's registers that lanes, the driver and the hypervisor share: context
blocks (R135), %l1ways (R116), %lease (R140), counter banks (R262 to R266), %dbgctl and breakpoints (R241), trace marks
(R270). -/
namespace Sys2Proof.Machine
open Sys2Proof

/-! ## Contexts and small registers -/

/-- The writable bits of word w of a context block (R135). -/
def ctxMask : Nat → Nat
  | 0 => 2 ^ 52 - 2 ^ 21 + 1
  | 1 | 2 => 2 ^ 57 - 2 ^ 16
  | 3 => 2 ^ 64 - 2 ^ 16
  | 4 => 0xF8 * 2 ^ 32
  | _ => 0
/-- Word w of a context's block. -/
def State.ctxWord (s : State) (p ctx w : Nat) : DWord := BitVec.ofNat 64 (fld (s.ctxBlock p ctx) (64 * w) 64)
/-- Write word w of a context's block (R135). -/
def State.writeCtx (s : State) (p ctx w : Nat) (v : DWord) : State :=
  let old := s.ctxBlock p ctx
  let x := v.toNat &&& ctxMask w
  s.modPart p fun q => { q with ctxs := tset ctx (old - fld old (64 * w) 64 * 2 ^ (64 * w) + x * 2 ^ (64 * w)) q.ctxs }
/-- The context and the word that %ctxsel names (R337). -/
def ctxSel (w : Word) : Nat × Nat := (fld w.toNat 0 4, fld w.toNat 4 3)

/-- %lease: a code above 6 is discarded (R140). -/
def State.writeLease (s : State) (p : Nat) (w : Word) : State :=
  if w.toNat ≤ 6 then s.modPart p fun x => { x with lease := w.toNat } else s
/-- %colltmo: a write of 0 is discarded (R221). -/
def State.writeColltmo (s : State) (p : Nat) (w : Word) : State :=
  if w = 0 then s else s.modPart p fun x => { x with colltmo := w.toNat }
/-- A breakpoint register (R241). -/
def State.writeBrk (s : State) (p k : Nat) (v : DWord) : State :=
  s.modPart p fun x => { x with brk := tset k (v &&& 0x81FFFFFFFFFFFFFF) x.brk }

/-- The partition that a cluster belongs to. -/
def State.partOf (s : State) (cluster : Nat) : Option Nat :=
  ((s.parts.filter fun e => e.2.state != .inactive && fld e.2.triples (cluster / 3) 1 == 1).head?).map (·.1)
/-- A new %l1ways takes effect on a cluster once no resident team holds a macro that changes mode; the cluster's whole
L1 is invalidated (R116). -/
def State.l1waysTake (s : State) (cluster : Nat) : State :=
  match s.partOf cluster with
  | none => s
  | some p =>
    let c := s.cluster cluster
    let new := (s.part p).l1ways
    let changes := fun m => (decide (32 - new ≤ m)) != (decide (32 - c.cacheWays ≤ m))
    if new = c.cacheWays ∨ (List.range 32).any (fun m => changes m && (c.macro' m).owner.isSome) then s
    else s.modCluster cluster fun c => { c with cacheWays := new, l1 := [], sram := c.sram.filter fun e => !changes e.1 }
/-- %l1ways (R116): a value above 32 is discarded. -/
def State.writeL1ways (s : State) (p : Nat) (w : Word) : State :=
  if 32 < w.toNat then s
  else (s.part p).clusters.foldl State.l1waysTake (s.modPart p fun x => { x with l1ways := w.toNat })

/-- %dbgctl of a group (R241): SS arms every lane of the group at its next word, in a handler or not (log entry 23). -/
def State.writeDbgctl (s : State) (tid grp : Nat) (w : Word) : State :=
  let s1 := s.modGroup tid grp fun g => { g with dbgctl := w.setWidth 3 }
  if w.getLsbD 0 then
    { s1 with lanes := s1.lanes.map fun l =>
        if l.id.tid = tid ∧ l.id.grp = grp ∧ l.park ≠ .exited then { l with ss := true } else l }
  else s1

/-- %trmark (R270): a MARKER record. -/
def State.writeTrmark (s : State) (l : Lane) (w : Word) : State := s.traceLane l 3 0 w.toNat 3

/-- %fflags (R40): the written value, with the flags raised in the same cycle. -/
def State.writeFflags (s : State) (tid grp : Nat) (w : Word) (raised : BitVec 5) : State :=
  s.modGroup tid grp fun g => { g with fflags := w.setWidth 5 ||| raised }

/-! ## Counter banks -/

def partyNo : Party → Nat
  | .guest => 1
  | .hypervisor => 2
def State.bank (s : State) (p n : Nat) : CBank := tget bank0 n (s.part p).banks
def State.setBank (s : State) (p n : Nat) (b : CBank) : State :=
  s.modPart p fun x => { x with banks := tset n b x.banks }
/-- Set the STATUS of one writer (R262). -/
def CBank.status (b : CBank) (who : Party) (st : Nat) : CBank :=
  match who with
  | .guest => { b with statusGuest := st }
  | .hypervisor => { b with statusHyp := st }
/-- CLAIM (R264). -/
def CBank.claim (b : CBank) (who : Party) : CBank :=
  if b.owner = 0 then
    ({ bank0 with owner := partyNo who, statusGuest := b.statusGuest, statusHyp := b.statusHyp, snap := b.snap, pub := b.pub, snapOp := b.snapOp, snapPub := b.snapPub }).status who 0
  else if b.owner = partyNo who then b.status who 0
  else b.status who 1
/-- RELEASE (R264). -/
def CBank.release (b : CBank) (who : Party) : CBank :=
  if b.owner = partyNo who then ({ b with owner := 0 }).status who 0 else b.status who 2
/-- CLEAR (R264). -/
def CBank.clear (b : CBank) (who : Party) : CBank :=
  if b.owner = partyNo who then ({ b with cnt := Vector.replicate 16 0 }).status who 0 else b.status who 2
/-- A write of the control register with CMD 0 (R262, R264). -/
def CBank.config (b : CBank) (who : Party) (w : Word) : CBank :=
  let n := w.toNat
  if b.owner = partyNo who then
    ({ b with ctxen := fld n 20 1 == 1, ctx := fld n 16 4, fixen := fld n 12 1 == 1, tcnt := fld n 8 4, freeze := fld n 3 1 == 1,
              en := fld n 2 1 == 1 }).status who 0
  else b.status who 2
/-- A write of %cbctln: one command, or the fields (R264). -/
def CBank.writeCtl (b : CBank) (who : Party) (w : Word) : CBank :=
  match fld w.toNat 0 2 with
  | 1 => b.claim who
  | 2 => b.release who
  | 3 => b.clear who
  | _ => b.config who w
/-- The control register as a party reads it (R262). -/
def CBank.ctl (b : CBank) (who : Party) : Nat :=
  b.owner * 2 ^ 30 + (match who with | .guest => b.statusGuest | .hypervisor => b.statusHyp) * 2 ^ 28 + bit b.ctxen * 2 ^ 20 +
    b.ctx * 2 ^ 16 + bit b.fixen * 2 ^ 12 + b.tcnt * 2 ^ 8 + bit b.freeze * 8 + bit b.en * 4
/-- An event-select word with reserved codes stored as 0 (R263). -/
def evWord (w : Word) : Word :=
  BitVec.ofNat 32 (((List.range 4).map fun i => (if byteOf w i ≤ 0x20 then byteOf w i else 0) * 2 ^ (8 * i)).sum)
/-- Claimant-only writes (R263). -/
def CBank.owned (b : CBank) (who : Party) (f : CBank → CBank) : CBank :=
  if b.owner = partyNo who then (f b).status who 0 else b.status who 2
def CBank.writeEv (b : CBank) (who : Party) (j : Nat) (w : Word) : CBank :=
  b.owned who fun b => { b with ev := b.ev.setIfInBounds j (evWord w) }
def CBank.writeThr (b : CBank) (who : Party) (v : DWord) : CBank := b.owned who fun b => { b with thr := v }
def CBank.writeCnt (b : CBank) (who : Party) (i : Nat) (v : DWord) : CBank :=
  b.owned who fun b => { b with cnt := b.cnt.setIfInBounds i v }

/-- What lanes and the driver read of a bank's registers: zero where the hypervisor holds it, but for the control
register's OWNER and STATUS (R262, R263, log entry 24). `r` is the register number within the bank (R337). -/
def CBank.guestRead (b : CBank) (r : Nat) : DWord :=
  if r = 0 then BitVec.ofNat 64 (if b.owner = 2 then b.ctl .guest / 2 ^ 28 * 2 ^ 28 else b.ctl .guest)
  else if b.owner = 2 then 0
  else if r ≤ 4 then (b.ev[r - 1]!).setWidth 64
  else if r = 5 then b.thr
  else if r < 0x20 then b.cnt[r % 16]!
  else b.snap[r % 16]!
/-- CNTRD also reads a free bank as zero (R374). -/
def CBank.cntrd (b : CBank) (r : Nat) : DWord := if b.owner = 1 then b.guestRead r else 0
/-- A write of bank register r (R337). -/
def CBank.write (b : CBank) (who : Party) (r : Nat) (v : DWord) : CBank :=
  if r = 0 then b.writeCtl who (v.setWidth 32)
  else if r ≤ 4 then b.writeEv who (r - 1) (v.setWidth 32)
  else if r = 5 then b.writeThr who v
  else if 0x10 ≤ r ∧ r < 0x20 then b.writeCnt who (r - 0x10) v
  else b

end Sys2Proof.Machine
end

