-- ==== Sys2Proof/Machine/Matrix.lean ====
section
/-! DEFINITION. The matrix engine: MXA sets and their passes, MXZ, MXRD, MXSP and MXFL, the reservation table, self-tests (R56 to
R58, R85 to R92, R205 to R207, R454 to R461). -/
namespace Sys2Proof.Machine
open Sys2Proof

/-! ## Operands of a pass (R88 to R91) -/

/-- Bits of an element of a slot code (R26). -/
def codeBits (code : Nat) : Nat :=
  match slotFmt code with
  | some f => f.width
  | none => 8
/-- Elements of an operand in one lane: its K half (R89). -/
def halfK (code : Nat) : Nat := 256 / codeBits code
/-- Element e of a packed operand (R26). -/
def packedElem (code : Nat) (ws : List Word) (e : Nat) : Nat :=
  let n := codeBits code
  fld ((ws[e * n / 32]?).getD 0).toNat (e * n % 32) n
/-- The scale of element e of a lane's half, from its scale register (R91). -/
def halfScale (code : Nat) (w : Word) (e : Nat) : Nat := byteOf w (if code = 5 then e / 32 else 0)
/-- The elements of one operand of a lane, scaled (R89 to R91): `planes` for a plane-sliced A, the scale register after
the n operand registers where MX = 1. -/
def laneElems (code planes : Nat) (mx : Bool) (n : Nat) (ws : List Word) : List Num :=
  (List.range (halfK code)).map fun e =>
    let x := if planes ≠ 0 then Num.ofInt (planeValue (ws.take planes) e) (if mx then -6 else 0) false
      else elemNum code mx (packedElem code ws e)
    if mx then x.mxScale (halfScale code ((ws[n]?).getD 0) e) else x
/-- Registers of an A operand (R90). -/
def aRegs (w : Word) : Nat := if slotPlanes w = 0 then 8 else slotPlanes w

/-- The operands of core c in a set. -/
def setMember (held : List (Nat × Nat × List Operand)) (c : Nat) : List Operand :=
  match held.find? fun e => e.1 == c with
  | some e => e.2.2
  | none => []
/-- What lane slot k of a member supplied. -/
def memberLane (os : List Operand) (k : Nat) : Operand := (os.find? fun o => o.slot == k).getD { slot := k, a := [], b := [] }
/-- Row i of A: both K halves of the lanes that hold it (R89). -/
def rowA (w : Word) (held : List (Nat × Nat × List Operand)) (i : Nat) : List Num :=
  let os := setMember held (i / 16)
  let half := fun h => laneElems (slotA w) (slotPlanes w) (slotMx w) (aRegs w) (memberLane os (2 * (i % 16) + h)).a
  half 0 ++ half 1
/-- Column j of B (R89). -/
def colB (w : Word) (held : List (Nat × Nat × List Operand)) (j : Nat) : List Num :=
  let os := setMember held (j / 16)
  let half := fun h => laneElems (slotB w) 0 (slotMx w) 8 (memberLane os (2 * (j % 16) + h)).b
  half 0 ++ half 1
/-- A cell after a pass: every product of its row and column added (R56, R456). -/
def dotInto (x : LA) (a b : List Num) : LA := (a.zip b).foldl (fun x p => laAdd x (laProduct p.1 p.2)) x

/-! ## Cells and their forms (R56, R57) -/

def tileCells : Nat := 4096
/-- The tile's cells after cell n (row n / 64, column n % 64) becomes f n. -/
def Cluster.setTile (c : Cluster) (tile : Nat) (f : Nat → LA) : Cluster :=
  let new := ((List.range tileCells).map fun n => (tile * 4096 + n, f n)).filter fun e => e.2 != LA0
  { c with cells := (c.cells.filter fun e => e.1 / 4096 < tile) ++ new ++ c.cells.filter fun e => tile < e.1 / 4096 }
/-- Cell n of a tile. -/
def Cluster.cellN (c : Cluster) (tile n : Nat) : LA := tget LA0 (tile * 4096 + n) c.cells
/-- Does a value fit a window (R57)? -/
def fitsWindow (v : BitVec 640) : Bool :=
  (List.range 7).any fun w => v.toNat % 2 ^ (64 * w) == 0 && decide (-(2 ^ 255) ≤ v.toInt / 2 ^ (64 * w)) && decide (v.toInt / 2 ^ (64 * w) < 2 ^ 255)
def Cluster.formOf (c : Cluster) (key : Nat) : CellForm := tget .window key c.forms
/-- Cells of the engine in the extended store. -/
def Cluster.extended (c : Cluster) : List Nat := (c.forms.filter fun e => e.2 == .extended).map (·.1)
/-- Does a tile hold a widened cell? -/
def Cluster.widens (c : Cluster) (tile : Nat) : Bool := c.forms.any fun e => e.1 / 4096 == tile && e.2 == .widened
/-- Move a cell to the extended store; when it is full, a cell of it, which the engine chooses, moves to the widening
area (R57). -/
def Cluster.extend (pick : Nat) (c : Cluster) (key : Nat) : Cluster :=
  let ext := c.extended
  if ext.length < 512 then { c with forms := tset key .extended c.forms }
  else { c with forms := tset key .extended (tset ((ext[pick % 512]?).getD 0) .widened c.forms) }
/-- The forms after a pass: a changed cell that fits no window leaves window form, one that fits may leave it with the
engine's window base (free). -/
def Cluster.reform (free : Nat) (old new : Cluster) (tile : Nat) : Cluster :=
  let moves := (List.range tileCells).filter fun n =>
    new.formOf (tile * 4096 + n) == .window && (new.cellN tile n).val != (old.cellN tile n).val &&
      (!fitsWindow (new.cellN tile n).val || free.testBit n)
  moves.foldl (fun c n => c.extend (free / 2 ^ 4096) (tile * 4096 + n)) new
/-- The form of a cell that MXFL loads (R57). -/
def Cluster.loadForm (c : Cluster) (key : Nat) (v : BitVec 640) : Cluster :=
  let c1 := { c with forms := tdel key c.forms }
  if fitsWindow v then c1
  else { c1 with forms := tset key (if c1.extended.length < 512 then .extended else .widened) c1.forms }

/-! ## The reservation table (R205, R206, R454) -/

/-- Count an event of a team's launch. -/
def State.countTeam (s : State) (tid ev n : Nat) : State :=
  match s.team? tid with
  | some t => s.count t.part (some (recCtx (s.recOf t.part t.seq) % 16)) ev n
  | none => s
def State.clusterOfTeam (s : State) (tid : Nat) : Nat := (s.team? tid).elim 0 (·.cluster)

/-- Complete R85 for a firing that has entered the table: GEN flips, the register clears, its waiting lanes go on, and the
entries that follow it are free to enter. -/
def State.fired (s : State) (tid v : Nat) : State :=
  match s.team? tid with
  | none => s
  | some t =>
    let s1 := s.modCluster t.cluster fun c =>
      { c.modCv ((t.cvs[v]?).getD 0) fun x => { x with word := cvFired x.word, held := [], form := none } with
        waiting := c.waiting.map fun e => if e.tid = tid then { e with after := e.after.filter (· != v) } else e }
    s1.release fun l => l.id.tid == tid && l.park == .mxaWait v
/-- The first waiting entry that nothing but the table holds back. -/
def Cluster.nextEntry (c : Cluster) : Option MxEntry :=
  if 16 ≤ c.table.length then none else c.waiting.find? fun e => e.after.isEmpty
/-- A waiting entry takes a place in the table. -/
def State.enterEntry (s : State) (cluster : Nat) (e : MxEntry) : State :=
  let s1 := s.modCluster cluster fun c => { c with waiting := c.waiting.erase e, table := c.table ++ [{ e with age := s.cycle }] }
  match e.cv with
  | some v => s1.fired e.tid v
  | none => s1
/-- Entries enter while there are places. -/
def State.enterAll (cluster : Nat) : Nat → State → State
  | 0, s => s
  | k + 1, s =>
    match (s.cluster cluster).nextEntry with
    | some e => (s.enterEntry cluster e).enterAll cluster k
    | none => s
/-- Ask for a place in the table, behind the entries that wait. -/
def State.pushEntry (s : State) (cluster : Nat) (e : MxEntry) : State :=
  (s.modCluster cluster fun c => { c with waiting := c.waiting ++ [e] }).enterAll cluster 33

/-- The registers into whose present generation a group has signed (R454). -/
def State.signedBy (s : State) (t : Team) (grp : Nat) : List Nat :=
  (List.range t.cvs.length).filter fun v =>
    (((s.cluster t.cluster).cvOf ((t.cvs[v]?).getD 0)).held).any fun e => e.2.1 == grp
/-- An entry of a team. -/
def State.entryOf (s : State) (t : Team) (tile : Fin 4) (slot : Word) (op : MxOp) (cv : Option Nat) (after : List Nat) : MxEntry :=
  { op := op, tid := t.tid, tile := (t.tiles[tile.val]?).getD 0, slot := slot, prio := (s.launch? t.part t.seq).elim 0 (·.prio), age := s.cycle,
    cv := cv, after := after, granted := false }

/-! ## MXA (R87, R455, R456) -/

/-- Must a lane's MXA wait for the register to fire (R87)? -/
def mxaWaits (x : CvReg) (l : Lane) : Bool :=
  (cvQheld x.word).testBit l.core ||
    (match x.held.find? fun e => e.1 == l.core with
     | some e => e.2.1 != l.id.grp || e.2.2.any fun o => o.slot == l.id.slot
     | none => false)
/-- The operands held with a lane's added. -/
def addHeld (held : List (Nat × Nat × List Operand)) (core grp : Nat) (o : Operand) : List (Nat × Nat × List Operand) :=
  if held.any (fun e => e.1 == core) then held.map fun e => if e.1 = core then (e.1, e.2.1, e.2.2 ++ [o]) else e
  else held ++ [(core, grp, [o])]
/-- The operands a lane reads (R90, R91). -/
def mxaOperand (w : Word) (l : Lane) (a b : VReg) : Operand :=
  let scale := fun r : VReg => if slotMx w then [l.v! (r.val + 8)] else []
  { slot := l.id.slot, a := l.vs a (aRegs w) ++ scale a, b := l.vs b 8 ++ scale b }
/-- One MXA signature (R85, R87); the pass asks for its place when SIGNED reaches COUNT. -/
def State.mxaSign (s : State) (l : Lane) (v : Nat) (tile : Fin 4) (slot : Fin 8) (o : Operand) : State :=
  let x := s.cvAt l v
  let held := addHeld x.held l.core l.id.grp o
  let n := cvSigned x.word + 1
  let q := if (setMember held l.core).length = 32 then (cvQheld x.word).lor (2 ^ l.core) else cvQheld x.word
  let s1 := s.setCv l v { x with word := cvSign x.word q n, held := held, form := some (tile.val, slot.val) }
  if n = cvCount x.word then
    s1.pushEntry l.cluster (s1.entryOf (s1.teamOf l) tile (s1.laneSlot l slot) (.pass held) (some v) [])
  else s1

/-- MXA (R456): each active lane signs in turn. -/
def execMxa (v : Fin 16) (a b : VReg) (l : Fin 8) (t : Fin 4) (s : State) : Host.Outcome State Fault Refusal :=
  guarded (.mxa v a b l t) s fun s => eachActive s fun s x =>
    let r := s.cvAt x v.val
    if !cvArmed r.word || cvAction r.word != 1 || (r.form.isSome && r.form != some (t.val, l.val)) then s.raise x (x.cvTrap v.val)
    else if mxaWaits r x then s.setLane (x.parkAgain (.mxaWait v.val))
    else (s.setLane (x.adv 4)).mxaSign x v.val t l (mxaOperand (s.laneSlot x l) x a b)

/-! ## MXZ, MXRD, MXSP, MXFL: issue (R454, R457 to R461) -/

/-- Act once for each group of the bundle, with its lowest active lane and its active lanes. -/
def eachGroup (s : State) (f : State → Lane → List Lane → State) : State :=
  ((s.actives.map fun l => l.id.grp).eraseDups).foldl
    (fun s g =>
      let ls := s.actives.filter fun l => l.id.grp == g
      match ls with
      | a :: _ => f s a ls
      | [] => s) s

/-- MXZ (R461). -/
def execMxz (l : Fin 8) (t : Fin 4) (s : State) : Host.Outcome State Fault Refusal :=
  guarded (.mxz l t) s fun s =>
    mapActive (eachGroup s fun s a _ =>
      s.pushEntry a.cluster (s.entryOf (s.teamOf a) t (s.laneSlot a l) .zero none (s.signedBy (s.teamOf a) a.id.grp)))
      fun x => x.adv 4
/-- MXRD (R458, R459): deferred; the lanes with room take part. -/
def execMxrd (a : VReg) (l : Fin 8) (t : Fin 4) (s : State) : Host.Outcome State Fault Refusal :=
  guarded (.mxrd a l t) s fun s =>
    eachGroup (mapActive s fun x => if x.room then x else x.stall) fun s b ls =>
      let e := s.entryOf (s.teamOf b) t (s.laneSlot b l) (.read a.val (ls.map fun x => (x.id, x.nextDef))) none
        (s.signedBy (s.teamOf b) b.id.grp)
      let s1 := ls.foldl (fun s x => s.setLane ((x.defer (.mxrd a l t) [] [] [] 0 (.engine 0)).adv 4)) s
      s1.pushEntry b.cluster e
/-- MXSP and MXFL (R457, R460): a tile transfer at the address of the group's lowest active lane. -/
def tileWord (i : Instr) (s : State) (a : VReg) (l : Fin 8) (t : Fin 4) (fill : Bool) : Host.Outcome State Fault Refusal :=
  guarded i s fun s => eachGroup s fun s b ls =>
    let va := b.pair a
    if va.toNat % 128 ≠ 0 then ls.foldl (fun s x => s.raise x (x.causeHere causeAlign 7 va)) s
    else if ls.any s.outstanding then ls.foldl (fun s x => s.setLane (x.hold (x.deferred.any Deferred.faulted))) s
    else if 32 ≤ (s.coreXfers b).length then ls.foldl (fun s x => s.setLane x.stall) s
    else
      let e := s.entryOf (s.teamOf b) t (s.laneSlot b l) (.xfer s.nextId) none (s.signedBy (s.teamOf b) b.id.grp)
      let x : Xfer :=
        { id := s.nextId, lane := b.id, part := b.part, ctx := s.laneCtx b, sup := b.sup, pc := b.pc, cluster := b.cluster, core := b.core,
          gather := false, path := .g2g, tile := some (e.tile, fill), desc := b.vs a 2, scratch := [], peerTid := 0, peerScratch := [], done := 0, repeats := 0,
          fid := none, wait := none, got := [], gath := none, aborted := false }
      let s1 := ls.foldl (fun s x => s.setLane (x.adv 4)) s
      ({ s1 with xfers := s1.xfers ++ [x], nextId := s1.nextId + 1 }).pushEntry b.cluster e
/-- MXSP (R460). -/
def execMxsp (a : VReg) (l : Fin 8) (t : Fin 4) (s : State) : Host.Outcome State Fault Refusal := tileWord (.mxsp a l t) s a l t false
/-- MXFL (R457). -/
def execMxfl (a : VReg) (l : Fin 8) (t : Fin 4) (s : State) : Host.Outcome State Fault Refusal := tileWord (.mxfl a l t) s a l t true

/-! ## The engine (R206) -/

/-- Does the partition's halt or the engine's own loss stop it (R207, R237)? -/
def State.engineStopped (s : State) (cluster : Nat) : Bool :=
  (s.cluster cluster).out || (match s.partOf cluster with
    | some p => !s.serving p
    | none => false)
/-- The entries that may be granted: those whose tile has no older pending entry (R206). -/
def eligibleEntries (t : List MxEntry) : List MxEntry :=
  (t.zipIdx.filter fun e => !(t.take e.2).any fun o => o.tile == e.1.tile).map (·.1)
/-- The entry the engine grants next (R206). -/
def grantOf (cycle : Nat) (t : List MxEntry) : Option MxEntry :=
  let es := eligibleEntries t
  match es.filter fun e => decide (1024 < cycle - e.age) with
  | e :: r => some (r.foldl (fun b e => if e.age < b.age then e else b) e)
  | [] =>
    match es with
    | [] => none
    | e :: r => some (r.foldl (fun b e => if b.prio < e.prio then e else b) e)

/-- MXE_ENTRY_GRANT (R206). -/
def execMxeEntryGrant (cluster : Nat) (s : State) : Host.Outcome State Fault Refusal :=
  let c := s.cluster cluster
  if s.engineStopped cluster || c.table.any (·.granted) then .next s
  else
    match grantOf s.cycle c.table with
    | none => .next s
    | some e => .next (s.modCluster cluster fun c => { c with table := c.table.replace e { e with granted := true } })

/-- MXE_HELD_FIRING_ENTER (R205). -/
def execMxeHeldFiringEnter (cluster : Nat) (s : State) : Host.Outcome State Fault Refusal :=
  match (s.cluster cluster).nextEntry with
  | some e => .next (s.enterEntry cluster e)
  | none => .next s

/-! ### What an entry does -/

/-- A pass (R56, R57). -/
def State.runPass (s : State) (cluster : Nat) (e : MxEntry) (held : List (Nat × Nat × List Operand)) : State :=
  let d := s.draw
  let c := d.2.cluster cluster
  let rows := (List.range 64).map (rowA e.slot held)
  let cols := (List.range 64).map (colB e.slot held)
  let c1 := c.setTile e.tile fun n => dotInto (c.cellN e.tile n) ((rows[n / 64]?).getD []) ((cols[n % 64]?).getD [])
  let c2 := c.reform d.1 c1 e.tile
  let s1 := (d.2.modCluster cluster fun _ => c2).countTeam e.tid evMxPass 1
  if c.widens e.tile || c2.forms.any (fun f => f.2 == .widened && c.formOf f.1 != .widened) then s1.countTeam e.tid evMxWiden 1 else s1

/-- One cell as MXRD delivers it (R459). -/
def readCell (w : Word) (x : LA) : Nat × Flags :=
  match slotFmt (slotOut w) with
  | some f => roundLa x f (slotRm w) (slotSat w)
  | none => laToInt32 x (slotRm w)
/-- What the lane in a slot of core c receives of a tile (R459). -/
def Cluster.readOut (c : Cluster) (tile : Nat) (w : Word) (core slot : Nat) : List Word × Flags :=
  let i := 16 * core + slot / 2
  let cells := (List.range 32).map fun j => readCell w (c.cellN tile (64 * i + 32 * (slot % 2) + j))
  let fl := (cells.map (·.2)).foldl (· ||| ·) 0
  (packElems (if mxrdRegs w = 32 then 32 else 16) (cells.map (·.1)) (mxrdRegs w), fl)
/-- MXRD's results return (R459, R523). -/
def State.runRead (s : State) (cluster : Nat) (e : MxEntry) (a : Nat) (lanes : List (LaneId × Nat)) : State :=
  let c := s.cluster cluster
  let s1 := lanes.foldl (fun s x =>
    let r := c.readOut e.tile e.slot (x.1.grp % 4) x.1.slot
    s.modLane x.1 fun l =>
      { l with deferred := l.deferred.map fun d =>
          if d.n = x.2 then { d with vdst := r.1.mapIdx fun j w => (a + j, w), flags := r.2, wait := .ready } else d }) s
  if c.widens e.tile then s1.countTeam e.tid evMxWiden 1 else s1

/-- What keeps a tile transfer from one image: PERM outside NORMAL and ACC pages (R457, R460). -/
def State.tileReach (s : State) (x : Xfer) (va : Nat) (u : Use) : State × Option Move :=
  let r := s.translate (s.xferVia x).who va u
  match r.2 with
  | .fault f => (r.1, some (.page f))
  | .wait => (r.1, some .wait)
  | .ok q => (r.1, if q.attr = .normal ∨ q.attr = .acc then none else some (.page (pageFault 2 va u)))
/-- Move the images of a tile from the first that is not done, until one cannot be moved. -/
def State.runTile (tile : Nat) (fill : Bool) : Nat → State → Xfer → State × Xfer × Move
  | 0, s, x => (s, x, .done)
  | k + 1, s, x =>
    let va := (dSrc x.desc + 128 * x.done) % 2 ^ 64
    let r := s.tileReach x va (if fill then .read else .write)
    match r.2 with
    | some m => (r.1, x, m)
    | none =>
      if fill then
        let q := r.1.loadVia (r.1.xferVia x) va 96
        match q.2 with
        | .data bs =>
          let la := laOfImage (leNat bs)
          let key := tile * 4096 + x.done
          let s1 := q.1.modCluster x.cluster fun c => ({ c with cells := tset key la c.cells }).loadForm key la.val
          s1.runTile tile fill k { x with done := x.done + 1, repeats := 0 }
        | .page f => (q.1, x, .page f)
        | .ue _ => (q.1, x, .ue va)
        | _ => (q.1, x, .wait)
      else
        let q := r.1.storeVia (r.1.xferVia x) va (leBytes (laImage ((s.cluster x.cluster).cellN tile x.done)) 96)
        match q.2 with
        | .data _ => q.1.runTile tile fill k { x with done := x.done + 1, repeats := 0 }
        | .page f => (q.1, x, .page f)
        | .ue _ => (q.1, x, .ue va)
        | _ => (q.1, x, .wait)

/-- An operation has ended: its entry frees its place. -/
def State.endEntry (s : State) (cluster : Nat) (e : MxEntry) : State :=
  s.modCluster cluster fun c => { c with table := c.table.erase e }
/-- The tile transfer of an entry goes on; it ends, waits, or is suspended by a fault (R457). -/
def State.runTileEntry (s : State) (cluster : Nat) (e : MxEntry) (id : Nat) : State :=
  match s.xfers.find? fun x => x.id == id with
  | none => s.endEntry cluster e
  | some x =>
    if x.aborted then (s.endXfer id).endEntry cluster e
    else if x.fid.isSome then s
    else
      let fill := (x.tile.elim false (·.2))
      let s0 := if x.done = 0 && (s.cluster cluster).widens e.tile then s.countTeam e.tid evMxWiden 1 else s
      let r := s0.runTile e.tile fill (tileCells - x.done) x
      match r.2.2 with
      | .done => (r.1.endXfer id).endEntry cluster e
      | .wait => r.1.setXfer r.2.1
      | .page f => r.1.suspendXfer r.2.1 f
      | .ue va => ((r.1.leaveErr r.2.1 causeDataUe 0 (BitVec.ofNat 64 va)).endXfer id).endEntry cluster e

/-- MXE_ENTRY_COMPLETE: the granted operation is performed and frees its place (R206). -/
def execMxeEntryComplete (cluster : Nat) (s : State) : Host.Outcome State Fault Refusal :=
  match (s.cluster cluster).table.find? (·.granted) with
  | none => .next s
  | some e =>
    if s.engineStopped cluster then .next s else
    match e.op with
    | .pass held => .next ((s.runPass cluster e held).endEntry cluster e)
    | .zero => .next ((s.modCluster cluster fun c => c.zeroTile e.tile).endEntry cluster e)
    | .read a lanes => .next ((s.runRead cluster e a lanes).endEntry cluster e)
    | .xfer id => .next (s.runTileEntry cluster e id)

/-! ## Self-tests (R207) -/

/-- The launches whose teams hold a tile on a cluster, each with its partition. -/
def State.tileHolders (s : State) (cluster : Nat) : List (Nat × Nat) :=
  ((s.teams.filter fun t => t.cluster == cluster && !t.tiles.isEmpty).map fun t => (t.part, t.seq)).eraseDups
/-- The teams that hold tiles on an engine that is taken out of service take the fault MXE_OUT (R207): their partition halts, and each of
their launches fails (R239). -/
def State.mxeOut (s : State) (cluster : Nat) (hs : List (Nat × Nat)) : State :=
  hs.foldl (fun s h => (s.halt h.1 0x24 cluster (some (launchWho h.2))).modLaunch h.1 h.2 fun L => { L with failed := true }) s
/-- MXE_SELFTEST: a product between entries, at most once in 2^20 cycles; a failing one fences an array, and a second fence
takes the engine out of service. -/
def execMxeSelftest (cluster : Nat) (failed : Option (Fin 4)) (s : State) : Host.Outcome State Fault Refusal :=
  let c := s.cluster cluster
  if c.table.any (·.granted) || decide (s.cycle < c.nextTest) || c.out then .next s
  else
    let hs := s.tileHolders cluster
    let ps := (hs.map (·.1)).eraseDups
    let s1 := ps.foldl (fun s p => s.count p none evMxSelftest 1) (s.modCluster cluster fun c => { c with nextTest := s.cycle + 2 ^ 20 })
    match failed with
    | none => .next s1
    | some q =>
      if c.fenced.contains q then .next s1
      else
        let s2 := s1.modCluster cluster fun c => { c with fenced := c.fenced ++ [q], out := !c.fenced.isEmpty }
        let s3 := ps.foldl (fun s p => s.record p { rec0 with kind := 4, detail := Config.fenceDetail cluster q.val }) s2
        .next (if c.fenced.isEmpty then s3 else s3.mxeOut cluster hs)

end Sys2Proof.Machine
end

