-- ==== Sys2Proof/Machine/RowPin.lean ====
section
/-! DEFINITION. Row pins (R127 to R133, R475 to R477). A row is 1 KiB, named by its DPA / 1024 (R123). -/
namespace Sys2Proof.Machine
open Sys2Proof

/-! ## Pins -/

def rowOf (a : Nat) : Nat := a / 1024
/-- The bank of a row, and its subarray group (R123). -/
def rowBank (row : Nat) : Nat := bankKey (hbmPc (1024 * row)) (hbmBank (1024 * row))
def rowSag (row : Nat) : Nat := hbmSag (1024 * row)
def Pin.live (p : Pin) : Bool := p.state == .pinned
/-- A team's pin of a row. -/
def State.ownPin (s : State) (part tid row : Nat) : Option Pin := s.pins.find? fun p => p.part == part && p.row == row && p.tid == tid
/-- Does another team of the partition hold a pin of the row (R129, R130)? -/
def State.otherPin (s : State) (part tid row : Nat) : Bool := s.pins.any fun p => p.part == part && p.row == row && p.tid != tid
/-- Pins a partition holds, broken ones included (R128). -/
def State.pinCount (s : State) (part : Nat) : Nat := (s.pins.filter fun p => p.part == part).length
/-- Is another row of the row's subarray group pinned (R129)? -/
def State.pinConflict (s : State) (row : Nat) : Bool :=
  s.pins.any fun p => p.live && p.row != row && rowBank p.row == rowBank row && rowSag p.row == rowSag row
/-- Are two other subarray groups of the bank pinned (R128, R129)? -/
def State.pinBankFull (s : State) (row : Nat) : Bool :=
  decide (2 ≤ ((s.pins.filter fun p => p.live && rowBank p.row == rowBank row && rowSag p.row != rowSag row).map fun p => rowSag p.row).eraseDups.length)
/-- May the place be pinned at all (R128): a NORMAL or ACC page of an HBM frame the partition owns? -/
def State.pinnable (s : State) (part : Nat) (x : Phys) : Bool :=
  (x.attr == .normal || x.attr == .acc) && s.owned part x.addr

/-- The status of a ROWPIN by team tid (R129): the first that applies. -/
def State.pinStatus (s : State) (part tid : Nat) (x : Phys) : Nat :=
  let row := rowOf x.addr
  let own := s.ownPin part tid row
  if !s.pinnable part x then 6
  else if s.otherPin part tid row then 5
  else if own.elim false Pin.live then 1
  else if s.pinConflict row then 4
  else if s.pinBankFull row then 3
  else if own.isSome then 0
  else if 64 ≤ s.pinCount part then 2
  else 0

/-- Take a pin, or pin a broken row again. -/
def State.takePin (s : State) (part tid row : Nat) : State :=
  if (s.ownPin part tid row).isSome then
    { s with pins := s.pins.map fun p => if p.part = part ∧ p.row = row ∧ p.tid = tid then { p with state := .pinned } else p }
  else { s with pins := s.pins ++ [{ tid := tid, part := part, row := row, state := .pinned }] }
/-- The buffer of a row's subarray group is no longer held open. -/
def State.closeRow (s : State) (row : Nat) : State :=
  { s with banks := tmod dbank0 (rowBank row) (fun b => { b with openRow := tdel (rowSag row) b.openRow }) s.banks }
/-- The context of the launch of a pin's team (R265). -/
def State.pinCtx (s : State) (p : Pin) : Option Nat := (s.team? p.tid).bind fun t => s.seqCtx t.part t.seq
/-- Break the pins that satisfy f, with a reason (R132): each is counted, and its row is closed, so that the next access misses. -/
def State.breakPins (s : State) (f : Pin → Bool) (reason : Nat) : State :=
  let hit := s.pins.filter fun p => p.live && f p
  hit.foldl (fun s p => (s.closeRow p.row).count p.part (s.pinCtx p) evPinBreak 1)
    { s with pins := s.pins.map fun p => if p.live && f p then { p with state := .broken reason } else p }
/-- Release a team's pins that satisfy f (R131). -/
def State.releasePins (s : State) (tid : Nat) (f : Pin → Bool) : State :=
  { s with pins := s.pins.filter fun p => !(p.tid == tid && f p) }

/-- The row open in a subarray group of a bank. -/
def State.openRow (s : State) (bank sag : Nat) : Option Nat :=
  match tget 0 sag (tget dbank0 bank s.banks).openRow with
  | 0 => none
  | n + 1 => some n

/-- The word of ROWQRY (R130). -/
def State.pinWord (s : State) (part tid : Nat) (x : Phys) : Nat :=
  if !inHbm x.addr || x.attr == .hostc then 0
  else
    match s.ownPin part tid (rowOf x.addr) with
    | none => if s.otherPin part tid (rowOf x.addr) then 3 else 0
    | some p =>
      match p.state with
      | .pinned => 1
      | .broken r => 2 + 256 * r

/-! ## The instructions -/

/-- ROWPIN in a lane (R476): a refusal at once; OK when the row is open, which asks the controller for it (R129). Of the checks of a one-byte
load it makes those of the translation alone: an address in an admitted object, which is execute-only (R193), gives a status and no PERM, for
no data is read; the spec does not say (DESIGN CHOICE, log entry 57). -/
def State.performPin (s : State) (l : Lane) (va : Nat) : State × Perf :=
  let r := s.translate (s.who l) va .read
  match r.2 with
  | .fault f => (r.1, .got 0 (.page f 0))
  | .wait => (r.1, .busy)
  | .ok x =>
    let st := r.1.pinStatus l.part l.id.tid x
    if st ≠ 0 then (r.1, .got st .ready)
    else
      let row := rowOf x.addr
      let s1 := r.1.takePin l.part l.id.tid row
      if s1.openRow (rowBank row) (rowSag row) = some row then (s1, .got 0 .ready)
      else (s1.hbmEnqueue l.part (some (s1.laneCtx l)) (1024 * row), .got 0 (.engine row))
/-- ROWQRY in a lane, with the same checks. -/
def State.performQry (s : State) (l : Lane) (va : Nat) : State × Perf :=
  let r := s.translate (s.who l) va .read
  match r.2 with
  | .fault f => (r.1, .got 0 (.page f 0))
  | .wait => (r.1, .busy)
  | .ok x => (r.1, .got (r.1.pinWord l.part l.id.tid x) .ready)
/-- A row-pin instruction performed from its address words. -/
def State.performRow (s : State) (l : Lane) (i : Instr) (srcs : List Word) : State × Perf :=
  match i with
  | .rowqry _ _ => s.performQry l (eaOf (srcAt srcs 0) (srcAt srcs 1) 0)
  | _ => s.performPin l (eaOf (srcAt srcs 0) (srcAt srcs 1) 0)
/-- Note a row-pin instruction with its status register d. -/
def Lane.notedRow (l : Lane) (i : Instr) (srcs : List Word) (d : VReg) (x : Nat) (w : Wait) : Lane :=
  (l.defer i srcs (regsFrom d 1 x) [] 0 w).adv 8

/-- ROWPIN and ROWQRY: faults as for a one-byte load (R475). -/
def rowWord (i : Instr) (s : State) (d a : VReg) : Host.Outcome State Fault Refusal :=
  guarded i s fun s => eachActive s fun s l =>
    let srcs := l.vs a 2
    let va := (l.pair a).toNat
    if 2 ^ 57 ≤ va then s.setLane (l.pageHere (pageFault 4 va .read))
    else if !l.room then s.setLane l.stall
    else
      let r := s.performRow l i srcs
      match r.2 with
      | .got x w => r.1.setLane (l.notedRow i srcs d x w)
      | .busy => r.1.setLane l.stall

/-- ROWPIN (R129, R476). -/
def execRowpin (d a : VReg) (s : State) : Host.Outcome State Fault Refusal := rowWord (.rowpin d a) s d a
/-- ROWQRY (R130, R477). -/
def execRowqry (d a : VReg) (s : State) : Host.Outcome State Fault Refusal := rowWord (.rowqry d a) s d a
/-- ROWREL of one row (R131). -/
def execRowrel (a : VReg) (s : State) : Host.Outcome State Fault Refusal :=
  guarded (.rowrel a) s fun s => eachActive s fun s l =>
    let r := s.translate (s.who l) (l.pair a).toNat .read
    match r.2 with
    | .fault f => r.1.setLane (l.pageHere f)
    | .wait => r.1.setLane l.stall
    | .ok x => (if inHbm x.addr && x.attr != .hostc then r.1.releasePins l.id.tid (fun p => p.row == rowOf x.addr) else r.1).setLane (l.adv 8)
/-- ROWREL.all (R131). -/
def execRowrelAll (s : State) : Host.Outcome State Fault Refusal :=
  guarded .rowrelAll s fun s => eachActive s fun s l => (s.releasePins l.id.tid fun _ => true).setLane (l.adv 8)

end Sys2Proof.Machine
end

