-- ==== Sys2Proof/Machine/Replay.lean ====
section
/-! DEFINITION. Executing a deferred instruction again alone (R82, R228), TRET (R228, R491), REPLAY and its abort (R233, R234). -/
namespace Sys2Proof.Machine
open Sys2Proof

/-! ## A deferred instruction again -/

/-- Perform a deferred instruction again with the sources of its first issue (R82); one without a result is an ordered
atomic (R356), which acquires as it did (R182). -/
def State.redo (s : State) (l : Lane) (d : Deferred) : State × Perf :=
  match d.instr with
  | .rowpin _ _ | .rowqry _ _ => s.performRow l d.instr d.srcs
  | .atomNr .. => performAtom s l d.n d.instr d.srcs
  | _ => s.perform l d.n d.instr d.srcs
/-- A deferred result with the value its instruction returned. -/
def Deferred.filled (d : Deferred) (x : Nat) (w : Wait) : Deferred :=
  match d.instr with
  | .rowpin r _ | .rowqry r _ => { d with vdst := regsFrom r 1 x, wait := w }
  | _ => { d.returned x w with sounded := 0 }

/-! ## TRET -/

/-- Does the packet at `base` let a lane resume at the word of a slot: is it not the second word of a form of two words (R491)? Or what
fetching an earlier word of the packet gives, and its address. -/
def State.resumeSlot (s : State) (l : Lane) (base slot : Nat) : State × (Bool ⊕ (Res × Nat)) :=
  if slot = 0 then (s, .inl true)
  else
    let r := s.fetch l base
    match r.2 with
    | .data bs =>
      let two := isTwoWord (leNat bs)
      if slot = 1 ∨ two then (r.1, .inl (slot != 1 || !two))
      else
        let q := r.1.fetch l (base + 4)
        match q.2 with
        | .data bs' => (q.1, .inl (!isTwoWord (leNat bs')))
        | o => (q.1, .inr (o, base + 4))
    | o => (r.1, .inr (o, base))
/-- Is an address a word of the lane's object where it may resume (R491)? -/
def State.resumable (s : State) (l : Lane) (a : Nat) : State × (Bool ⊕ (Res × Nat)) :=
  let o := s.objOf l
  let slot := (a - o.1) / 4 % 3
  if o.1 ≤ a && decide (a < o.1 + o.2) && (a - o.1) % 4 == 0 then s.resumeSlot l (a - 4 * slot) slot else (s, .inl false)

/-- What a result waits for, a page fault with its repeat count (R234). -/
def Wait.counted (w : Wait) (n : Nat) : Wait :=
  match w with
  | .page f _ => .page f n
  | w => w
/-- TRET with the replay slot's instruction d: executed again, or its answer awaited; `back` is the lane after the return. A
fault is met at TRET, in the lane's present depth. -/
def State.tretReplay (s : State) (l back : Lane) (d : Deferred) : State :=
  match d.wait with
  | .peer _ | .engine _ => s.setLane l.stall
  | .ready => s.setLane { back.writeBack d allTake with replay := none }
  | _ =>
    let r := s.redo l d
    match r.2 with
    | .busy | .got _ (.again _) | .got _ .ordered => r.1.setLane l.stall
    | .got _ (.page f _) => r.1.setLane (l.pageHere f)
    | .got _ (.dataUe aux tval rpl) =>
      r.1.raise l { cause := causeDataUe, aux := aux, tval := tval, fpc := d.pc, epc := l.pc, rpl := rpl }
    | .got x .ready => r.1.setLane { back.writeBack (d.filled x .ready) allTake with replay := none }
    | .got x w => r.1.setLane { l.stall with replay := some (d.filled x w) }
/-- The lane after a return, with the faulting instructions that its trap left to be taken now, as at a marker (R82). -/
def Lane.resumed (l : Lane) : Lane :=
  match l.later.find? fun e => e.1 == l.depth with
  | some e => { l with deferred := e.2, marker := true, later := l.later.filter fun e => decide (e.1 < l.depth) }
  | none => l
/-- The return of one lane (R228, R491): what its saved word deserves, the replay-slot instruction if RPL is set, then the
state the word names. A word of the packet that TRET must look at and cannot fetch is met at TRET as one of its own (DESIGN CHOICE, log entry
36). -/
def State.tret (s : State) (l : Lane) : State :=
  match tretCause l with
  | some c => s.raise l (l.causeHere c.1 c.2.1 c.2.2)
  | none =>
    let back := l.return.resumed
    let q := s.resumable back l.epc.toNat
    match q.2 with
    | .inl false => q.1.raise l (l.causeHere causeIllegal 2 0)
    | .inr x => q.1.laneFetch l x.1 x.2
    | .inl true =>
      match (if fld l.ssw.toNat 3 1 = 1 then l.replay else none) with
      | none => q.1.setLane { back with replay := none }
      | some d => q.1.tretReplay l back d

/-- TRET in each active lane (R491), once its deferred results are written; groups that its group held go on (R242). -/
def execTret (s : State) : Host.Outcome State Fault Refusal :=
  guarded .tret s fun s => waitFirst s fun s => (eachActive s State.tret).thaw s

/-! ## REPLAY (R233, R234) -/

/-- A parked lane executes its faulting instruction again: a deferred one from its sources, another at its PC (R82, R233). -/
def State.replayLane (s : State) (fid repeats : Nat) (id : LaneId) : State :=
  match s.lane? id with
  | none => s
  | some l =>
    if l.park ≠ .fault fid then s
    else
      match l.marker, l.deferred with
      | true, d :: r =>
        if d.faulted then
          let q := s.redo l d
          match q.2 with
          | .busy => q.1.setLane { l with park := .ready, deferred := { d with wait := .again (repeats + 1) } :: r }
          | .got x w => q.1.setLane { l with park := .ready, deferred := d.filled x (w.counted (repeats + 1)) :: r, since := s.cycle }
        else s.setLane { l with park := .ready, repeats := repeats + 1, since := s.cycle }
      | _, _ => s.setLane { l with park := .ready, repeats := repeats + 1, since := s.cycle }
/-- A parked lane takes a PAGE trap instead (R233). -/
def State.abortLane (s : State) (fid reason : Nat) (x : LaneId × Nat) : State :=
  match s.lane? x.1 with
  | none => s
  | some l =>
    if l.park ≠ .fault fid then s
    else
      let tval : DWord := BitVec.ofNat 64 x.2
      match l.marker, l.deferred with
      | true, d :: r =>
        if d.faulted then
          s.trapEntry { l.setAside r with park := .ready }
            { cause := causePage, aux := reason, tval := tval, fpc := d.pc, epc := l.pc, rpl := false }
        else s.raise { l with park := .ready } (l.causeHere causePage reason tval)
      | _, _ => s.raise { l with park := .ready } (l.causeHere causePage reason tval)

/-- The engine transfer or the collective of a record goes on, or ends (R233, R525). -/
def State.resolveEngine (s : State) (f : FaultRec) (abort : Bool) : State :=
  let s1 := match f.xfer.bind fun id => s.xfers.find? fun x => x.id == id with
    | some x =>
      if abort then (s.leaveErr x causePage f.fault.reason (BitVec.ofNat 64 f.fault.va)).setXfer { x with fid := none, aborted := true }
      else s.setXfer { x with fid := none, repeats := f.repeats + 1 }
    | none => s
  match f.coll.bind fun id => s1.colls.find? fun c => c.id == id with
  | some c => if abort then s1.abortColl c 6 else s1.setColl { c with fid := none, repeats := f.repeats + 1 }
  | none => s1

/-- A write of REPLAY (R233). -/
def State.writeReplay (s : State) (p : Nat) (w : Word) : State :=
  let fid := fld w.toNat 0 24
  match (s.part p).faults.find? fun f => f.fid == fid with
  | none => s.modPart p fun x => { x with replaystat := true }
  | some f =>
    if fld w.toNat 24 7 ≠ 0 then s.modPart p fun x => { x with replaystat := true }
    else
      let s1 := s.modPart p fun x => { x with replaystat := false, faults := x.faults.filter fun f => f.fid != fid }
      let abort := w.getLsbD 31
      let s2 := if f.xfer.isSome || f.coll.isSome then s1.resolveEngine f abort
        else f.lanes.foldl (fun s x => if abort then s.abortLane fid f.fault.reason x else s.replayLane fid f.repeats x.1) s1
      s2.settle ((s2.lanes.filter fun l => l.part == p && l.marker).map (·.id))

/-- REPLAY: a write without ABORT (R233). -/
def execReplay (p : Nat) (w : Word) (s : State) : Host.Outcome State Fault Refusal :=
  if w.getLsbD 31 then .next s else .next (s.viaVf p 0x3020 4 (w.setWidth 64) fun s => s.writeReplay p w)
/-- REPLAY_ABORT: a write with ABORT (R233). -/
def execReplayAbort (p : Nat) (w : Word) (s : State) : Host.Outcome State Fault Refusal :=
  if w.getLsbD 31 then .next (s.viaVf p 0x3020 4 (w.setWidth 64) fun s => s.writeReplay p w) else .next s

end Sys2Proof.Machine
end

