-- ==== Sys2Proof/Machine/Restore.lean ====
section
/-! DEFINITION. Writing a saved team back to a cluster (R133, R250). -/
namespace Sys2Proof.Machine
open Sys2Proof

/-! ## The team under its new name and place -/

/-- The macro in the same position of the team's new list. -/
def macroMoved (old new : List Nat) (m : Nat) : Nat := (new[(old.findIdx? (· == m)).getD 0]?).getD m
/-- A deferred QPOP names its macro by number. -/
def Deferred.moved (old new : List Nat) (d : Deferred) : Deferred :=
  match d.instr with
  | .qpop _ _ => { d with srcs := d.srcs.set 1 (BitVec.ofNat 32 (macroMoved old new (srcAt d.srcs 1).toNat)) }
  | _ => d
/-- A lane of a saved team at its new place. -/
def Lane.moved (l : Lane) (tid cluster cycle : Nat) (old new : List Nat) : Lane :=
  { l with id := { l.id with tid := tid }, cluster := cluster, quarter := quarterOf cluster l.id.grp, bundle := none, issuing := false,
           skipped := false, since := cycle, qmac := l.qmac.map (macroMoved old new), deferred := l.deferred.map (Deferred.moved old new),
           replay := l.replay.map (Deferred.moved old new), later := l.later.map fun e => (e.1, e.2.map (Deferred.moved old new)) }
/-- The team at its new place. -/
def Team.moved (t : Team) (tid cluster : Nat) (macros cvs tiles : List Nat) : Team :=
  let lane := fun l : LaneId => { l with tid := tid }
  { t with tid := tid, cluster := cluster, macros := macros, cvs := cvs, tiles := tiles, begun := false,
           smode := t.smode.map fun q => { q with lanes := q.lanes.map lane },
           ordered := t.ordered.map fun o => { o with lane := lane o.lane } }
/-- Write a saved tile into a tile of a cluster. -/
def Cluster.putTile (c : Cluster) (tile : Nat) (cells : Tbl LA) : Cluster :=
  cells.foldl (fun c e => ({ c with cells := tset (tile * 4096 + e.1 % 4096) e.2 c.cells }).loadForm (tile * 4096 + e.1 % 4096) e.2.val)
    (c.zeroTile tile)

/-! ## Pins (R133) -/

/-- Take a recorded pin again; with 64 pins held it is dropped. -/
def State.restorePin (s : State) (part tid : Nat) (p : Pin) : State :=
  if 64 ≤ s.pinCount part then s
  else
    let x : Phys := { attr := .normal, addr := 1024 * p.row }
    match p.state with
    | .broken r => { s with pins := s.pins ++ [{ p with tid := tid, state := .broken r }] }
    | .pinned =>
      if s.pinStatus part tid x = 0 then (s.takePin part tid p.row).hbmEnqueue part (s.pinCtx { p with tid := tid }) x.addr
      else { s with pins := s.pins ++ [{ p with tid := tid, state := .broken 4 }] }

/-! ## Lanes that were parked (R250) -/

/-- A saved instruction executed again keeps its repeat count; one that cannot reach its line is tried again later. -/
def Deferred.redone (d : Deferred) (r : Perf) : Deferred :=
  let n := match d.wait with
    | .page _ n => n
    | _ => 0
  match r with
  | .busy => { d with wait := .again n }
  | .got x w => d.filled x (w.counted n)
/-- A fault-parked lane executes its saved instructions again, with their repeat counts; one that has signed and waits for a firing does so
in its park (R82, R250). -/
def State.resumeFault (s : State) (id : LaneId) : State :=
  match s.lane? id with
  | none => s
  | some l =>
    let s1 := match l.park with
      | .fault _ => s.setLane { l with park := .ready }
      | _ => s
    (l.deferred.filter Deferred.faulted).foldl (fun s d => s.onLane id fun s l =>
      let q := s.redo l d
      q.1.modLane id fun l => { l with deferred := l.deferred.map fun e => if e.n = d.n then d.redone q.2 else e }) s1

/-- Place a launch's first saved team on a cluster, with its state written back before its first word (R250). The last team ends a guest's
RESTORE step (R244). -/
def State.restoreTeam (s : State) (p : Nat) (L : Launch) (v : SavedTeam) (cluster : Nat) : State :=
  let c := s.cluster cluster
  let tid := s.nextTid
  let macros := firstFree 32 v.srams.length fun m => !c.freeMacro (s.part p).l1ways m
  let cvs := firstFree 16 v.cvregs.length fun i => (c.cvOf i).tid.isSome
  let tiles := firstFree 8 v.cells.length fun t => c.tileOwner.any fun e => e.1 == t
  let c1 := (macros.zip v.srams).foldl (fun c e => c.modMacro e.1 fun _ => { e.2 with owner := some tid }) c
  let c2 := (cvs.zip v.cvregs).foldl (fun c e => c.modCv e.1 fun _ => { e.2 with tid := some tid }) c1
  let c3 := (tiles.zip v.cells).foldl (fun c e => let z := c.putTile e.1 e.2; { z with tileOwner := tset e.1 tid z.tileOwner }) c2
  let old := v.team.tid
  let lane := fun l : LaneId => if l.tid = old then { l with tid := tid } else l
  let s1 : State :=
    { (s.modCluster cluster fun _ => c3) with
      lanes := s.lanes ++ v.lanes.map fun l => l.moved tid cluster s.cycle v.team.macros macros,
      teams := s.teams ++ [v.team.moved tid cluster macros cvs tiles],
      colls := s.colls.map (fun x => if x.tid = old then { x with tid := tid, lane := lane x.lane } else x), nextTid := tid + 1 }
  let s2 := s1.modLaunch p L.seq fun L =>
    { L with restore := L.restore.drop 1, clusterCnt := tmod 0 cluster (· + 1) L.clusterCnt,
             dieCnt := tmod 0 (cluster / 48) (· + 1) L.dieCnt, held := false, since := s.time }
  let allBack := fun x : Part => x.hypStep == 0 && x.pre.step == 3 && x.window.all (·.restore.isEmpty)
  let s2' := if allBack (s2.part p) then s2.modPart p fun x => { x with pre := { x.pre with step := 0 } } else s2
  let s3 := v.pins.foldl (fun s q => s.restorePin p tid q) s2'
  let ids := v.lanes.map fun l => ({ l.id with tid := tid } : LaneId)
  let s4 := ids.foldl State.resumeFault s3
  let s5 := (v.team.handles.zipIdx).foldl (fun s e => match e.1 with | .done st => s.wakeCollw p tid e.2 st | _ => s) s4
  let mine := fun l : Lane => l.id.tid == tid
  ((((s5.retest fun l => mine l).drained).completeCbar p L.seq v.team.set).completeGbar p L.seq).settle ids

end Sys2Proof.Machine
end

