-- ==== Sys2Proof/Machine/Dispatcher.lean ====
section
/-! DEFINITION. The dispatcher: submission queues (R186 to R189), checks of a launch record (R191 to R196), placement (R197 to R199)
and retirement (R202). -/
namespace Sys2Proof.Machine
open Sys2Proof

/-! ## Submission queues -/

def Part.sq (p : Part) (q : Nat) : Sq := tget sq0 q p.sqs
def State.modSq (s : State) (p q : Nat) (f : Sq → Sq) : State := s.modPart p fun x => { x with sqs := tmod sq0 q f x.sqs }
/-- Entries of a queue that the device has yet to consume. -/
def Sq.left (q : Sq) : Nat := (q.tail + 2 ^ 32 - q.head) % 2 ^ 32

/-- A doorbell value (R187). -/
def State.doorbell (s : State) (p q : Nat) (t : Word) : State :=
  let x := (s.part p).sq q
  let n := (t.toNat + 2 ^ 32 - x.head) % 2 ^ 32
  if 2 ^ x.log2n < n ∨ n < x.left then s.modSq p q fun x => { x with err := 1, en := false }
  else s.modSq p q fun x => { x with tail := t.toNat }
def execSqDoorbell (p q : Nat) (t : Word) (s : State) : Host.Outcome State Fault Refusal :=
  .next (s.viaVf p (8 * (q % 32)) 4 (t.setWidth 64) fun s => s.doorbell p (q % 32) t)

/-- What the device finds at a queue's head: an entry, the ERR it sets (R187, R188), or it waits for the line, which is away from its home. -/
inductive SqHead where
  | entry (e : Nat)
  | err (code : Nat)
  | wait
  deriving DecidableEq, Repr

def entType (e : Nat) : Nat := fld e 0 8
def entCtx (e : Nat) : Nat := fld e 8 4
def entEvent (e : Nat) : Nat := fld e 16 8
def entValue (e : Nat) : Word := BitVec.ofNat 32 (fld e 64 32)
def entAddr (e : Nat) : Nat := fld e 128 64
/-- Is an entry bad: reserved type or field, or a LAUNCH record that is not aligned (R187)? -/
def entBad (e : Nat) : Bool :=
  decide (3 < entType e) || fld e 12 4 != 0 || fld e 24 40 != 0 || fld e 96 32 != 0 || e / 2 ^ 192 != 0 ||
    (entType e == 1 && entAddr e % 64 != 0)
/-- Does the partition own the frame of an HBM address? -/
def State.ownsFrame (s : State) (p a : Nat) : Bool :=
  let e := s.fotOf (a / 65536)
  s.owned p a || (inHbm a && !s.reserved.contains (a / 65536) && fotOwner e == p && fotState e == 2 && !fotThenFree e)
/-- Read the entry at a queue's head. -/
def State.sqHead (s : State) (p q : Nat) : State × SqHead :=
  let x := (s.part p).sq q
  let a := x.base + 64 * (x.head % 2 ^ x.log2n)
  if !s.ownsFrame p a then (s, .err 3)
  else if s.poison.contains (a / 128) then (s, .err 4)
  else
    let r := s.homeRead a 64
    (r.1, match r.2 with
      | none => .wait
      | some bs => let e := if s.ownCheck p a false == .performed then leNat bs else 0; if entBad e then .err 2 else .entry e)

/-- The window has a free place (R195). -/
def Part.windowFree (p : Part) : Bool := p.window.length < 64
/-- May the dispatcher take a queue's next entry (R188, R189)? -/
def State.sqReady (s : State) (p q : Nat) : Bool :=
  let x := (s.part p).sq q
  x.en && x.left != 0 && (match (s.sqHead p q).2 with
    | .err _ | .wait => true
    | .entry e =>
      if entType e = 3 then s.eventReached p (entEvent e) (entValue e)
      else if entType e = 1 then (s.part p).windowFree
      else true)
/-- The number of the device queue in the round-robin (R189). -/
def dqNo : Nat := 32
def State.srcReady (s : State) (p q : Nat) : Bool :=
  if q = dqNo then !(s.part p).dq.isEmpty && (s.part p).windowFree else s.sqReady p q
def Part.srcPrio (x : Part) (q : Nat) : Nat := if q = dqNo then x.dqprio else (x.sq q).prio
/-- The queue the dispatcher serves next (R189): highest priority, then round-robin after the last one served. Before the first, the round
stands after SQ0: the spec does not say where it begins (DESIGN CHOICE, log entry 57). -/
def State.nextQueue (s : State) (p : Nat) : Option Nat :=
  let x := s.part p
  let rs := ((List.range 33).map fun i => (x.rr + 1 + i) % 33).filter (s.srcReady p)
  match rs with
  | [] => none
  | a :: r => some (r.foldl (fun b q => if x.srcPrio b < x.srcPrio q then q else b) a)

/-- Consume the entry at a queue's head. -/
def State.sqTaken (s : State) (p q : Nat) : State :=
  (s.modSq p q fun x => { x with head := (x.head + 1) % 2 ^ 32 }).modPart p fun x => { x with rr := q }
/-- An entry of type t at the head of the queue that is next is acted on; a bad one sets ERR and clears EN (R187). -/
def State.sqEntry (s : State) (p q t : Nat) (act : State → Nat → State) : State :=
  if s.serving p && s.nextQueue p == some q && decide (q < 32) then
    let r := s.sqHead p q
    match r.2 with
    | .err c => (r.1.modSq p q fun x => { x with err := c, en := false }).modPart p fun x => { x with rr := q }
    | .wait => r.1
    | .entry e => if entType e = t then act r.1 e else s
  else s

/-- SQ_ENTRY_NOP (R188). -/
def execSqEntryNop (p q : Nat) (s : State) : Host.Outcome State Fault Refusal := .next (s.sqEntry p q 0 fun s _ => s.sqTaken p q)
/-- SQ_ENTRY_EVSIG (R204). -/
def execSqEntryEvsig (p q : Nat) (s : State) : Host.Outcome State Fault Refusal :=
  .next (s.sqEntry p q 2 fun s e => (s.bumpEvent p (entEvent e) (entValue e)).sqTaken p q)
/-- SQ_ENTRY_EVWAIT: the event has reached its target (R188, R204). -/
def execSqEntryEvwait (p q : Nat) (s : State) : Host.Outcome State Fault Refusal := .next (s.sqEntry p q 3 fun s _ => s.sqTaken p q)

/-! ## The checks of a launch record (R191) -/

/-- Groups of a team's role on a quarter (R63): groups g with g mod 16 = the quarter's place. -/
def groupsOn (r place : Nat) : List Nat := (List.range (recGroups r)).filter fun g => g % 4 * 4 + g / 4 % 4 == place
def vOf (r g : Nat) : Nat := if g < recNc r then recVcon r else recVpro r
def kOf (r g : Nat) : Nat := if g < recNc r then recKcon r else recKpro r
/-- v entries, k columns and groups that one team takes on a quarter (R69). -/
def teamUse (r place : Nat) : Nat × Nat × Nat :=
  let gs := groupsOn r place
  ((gs.map (vOf r)).sum, (gs.map (kOf r)).sum, gs.length)

/-- Reserved fields of a record are zero (R190). -/
def rsvdOk (r : Nat) : Bool :=
  let m := recNs r + recNq r
  fld r 101 27 == 0 && fld r 176 16 == 0 && fld r 276 4 == 0 && fld r 284 4 == 0 && fld r 376 8 == 0 && fld r 400 112 == 0 &&
    (List.range 8).all (fun i => fld (recSlot r i).toNat 21 11 == 0) && recCmpl r % 64 == 0 && fld r 896 128 == 0 && r / 2 ^ 2560 == 0 &&
    decide (recQmp r < 2 ^ m) && decide (recQmc r < 2 ^ m)
/-- Budgets (R67). -/
def budgetOk (r : Nat) : Bool :=
  let ok := fun v k : Nat => [16, 24, 32, 40, 48, 56, 64].contains v && decide (k ≤ 16)
  (recNc r == 0 || ok (recVcon r) (recKcon r)) && (recNp r == 0 || ok (recVpro r) (recKpro r))
/-- Grid and team shape (R61, R62, R69, R109, R199). -/
def shapeOk (l1ways r : Nat) : Bool :=
  let dim := fun n : Nat => decide (1 ≤ n)
  dim (recNx r) && dim (recNy r) && dim (recNz r) && decide (recTeams r ≤ 2 ^ 32) && decide (1 ≤ recGroups r) && decide (recGroups r ≤ 32) &&
    [0, 8, 16, 32].contains (recNs r) && decide (recNt r ≤ 4) && decide (recNcv r ≤ 16) && decide (recNs r + recNq r ≤ 32 - l1ways) &&
    (List.range 16).all fun q => decide ((teamUse r q).1 ≤ 512) && decide ((teamUse r q).2.1 ≤ 16) && decide ((teamUse r q).2.2 ≤ 16)
/-- The launch's class (R101). -/
def launchClass (o : Admit) (r : Nat) : Nat :=
  let m := 2 ^ (recNs r + recNq r)
  if (o.timing && !recInstr r) || recQmp r % m != 0 || recQmc r % m != 0 then 2 else o.base
/-- Does an MXA of the object name a slot with CT = 1 (R199)? -/
def ctLaunch (o : Admit) (r : Nat) : Bool := o.mxaSlots.any fun i => slotCt (recSlot r i)

/-- A number divided, or a bound no grid reaches where nothing is asked for. -/
def perUse (have' use : Nat) : Nat := if use = 0 then 2 ^ 33 else have' / use
/-- Teams of a record that fit an empty cluster (R69, R197, R199). -/
def emptyFit (l1ways r : Nat) (ct out : Bool) : Nat :=
  let qs := (List.range 16).map fun q =>
    let u := teamUse r q
    min (perUse 512 u.1) (min (perUse 16 u.2.1) (perUse 16 u.2.2))
  let m := min (perUse (32 - l1ways) (recNs r + recNq r)) (min (perUse 16 (recNcv r)) (perUse (if out then 0 else if ct then recNt r else 8) (recNt r)))
  qs.foldl min m
/-- Could a cooperative grid be resident in the empty partition (R198)? -/
def State.gridFits (s : State) (p r : Nat) (ct : Bool) : Bool :=
  let cs := (s.part p).clusters.filter fun c => !(s.cluster c).lost
  decide (recTeams r ≤ (cs.map fun c => emptyFit (s.part p).l1ways r ct (s.cluster c).out).sum)

/-- Checks 5 to 10 of R191, for an admitted object: the first that fails. -/
def State.checkShape (s : State) (p r : Nat) (o : Admit) : Option Nat :=
  if !budgetOk r then some stBudget
  else if !shapeOk (s.part p).l1ways r then some stShape
  else if o.slots.any fun i => !slotLegal (recSlot r i) then some stSlot
  else if o.orderedForms && !recDmode r then some stDmode
  else if o.declared != 0 && decide (o.declared - 1 < o.base) then some stClass
  else if (o.barriers && !recCoop r) || (recCoop r && !s.gridFits p r (ctLaunch o r)) then some stCoop
  else none

/-- What checking a record gives: the admitted object, a refusal, or a wait for a line that the host holds. -/
inductive Checked where
  | ok (o : Admit)
  | refuse (status : Nat)
  | wait
  deriving DecidableEq, Repr

/-- The checks of R191 on a record that has been read. -/
def State.checkRecord (s : State) (p r : Nat) : State × Checked :=
  let ctx := recCtx r % 16
  let o := s.readObject p ctx (recCode r) false
  match o.2 with
  | .wait => (o.1, .wait)
  | .fault => (o.1, .refuse stFault)
  | .malformed => (o.1, .refuse (if rsvdOk r then stCode else stRsvd))
  | .object a _ =>
    if !rsvdOk r then (o.1, .refuse stRsvd)
    else if recEntry r % 12 ≠ 0 ∨ a.size ≤ recEntry r then (o.1, .refuse stCode)
    else
      match o.1.enter p a with
      | none => (o.1, .refuse stAdmit)
      | some s1 =>
        let a' := ((s1.part p).admission? ctx (recCode r)).getD a
        match s1.checkShape p r a' with
        | some st => (s1, .refuse st)
        | none => (s1, .ok a')

/-! ## Dependences (R194 to R196) -/

def rangeHit (a b : Nat × Nat) : Bool := a.2 != 0 && b.2 != 0 && decide (a.1 < b.1 + b.2) && decide (b.1 < a.1 + a.2)
def rangesHit (f g : Nat → Nat × Nat) : Bool := (List.range 4).any fun i => (List.range 4).any fun j => rangeHit (f i) (g j)
/-- Must a launch with record r wait for one with record e (R195)? -/
def dependsOn (r e : Nat) : Bool :=
  rangesHit (recRead r) (recWrite e) || rangesHit (recWrite r) (recRead e) || rangesHit (recWrite r) (recWrite e)
/-- The launches of the window that a new one waits for (R195, R196). -/
def Part.waitsOf (x : Part) (r : Nat) : List Nat :=
  if recIndep r then []
  else (x.window.filter fun E => recCtx E.lrec % 16 == recCtx r % 16 && dependsOn r E.lrec).map (·.seq)

/-- A record is taken: it enters the window with the next sequence number, or is refused (R191, R195). -/
def State.takeRecord (s : State) (p r prio : Nat) (queue : Option Nat) (c : Checked) : State :=
  let seq := (s.part p).nextSeq
  let s1 := s.modPart p fun x => { x with nextSeq := (seq + 1) % 2 ^ 32 }
  match c with
  | .wait => s
  | .refuse st => s1.refuseLaunch p r queue st
  | .ok o =>
    let L := newLaunch seq r prio queue (launchClass o r) ((s.part p).waitsOf r) (ctLaunch o r && recNt r != 0)
    s1.modPart p fun x => { x with window := x.window ++ [{ L with since := s.time }] }

/-- 64 bytes of a queue's launch record in another package's memory, as `State.farPart` has them for a lane. -/
def State.unitPart (s : State) (p va dpa : Nat) : State × Res :=
  match (s.part p).recIn.find? fun e => e.1 == dpa with
  | some e => (s, if e.2.isEmpty then .ue false else .data e.2)
  | none =>
    if s.peers.any fun r => r.part == p && r.lane.isNone && r.xfer.isNone && r.dpa == dpa && r.op == .read 64 then (s, .busy)
    else
      let q : PeerReq :=
        { id := s.nextId, since := s.time, pc := 0, part := p, lane := none, n := none, dpa := dpa, op := .read 64, va := va, store := false,
          acq := none, xfer := none }
      (({ s with peers := s.peers ++ [q], nextId := s.nextId + 1 } : State).sendPeer q, .busy)
/-- The record of a LAUNCH entry, read as data in the entry's context (R191). -/
def State.unitRecord (s : State) (p e : Nat) : State × RecRead :=
  s.readParts (fun s => s.unitPart p) (fun s => s.unitVia p (entCtx e) true) (entAddr e) 6
/-- SQ_ENTRY_LAUNCH (R191): the record is read in the entry's context, checked and admitted; the entry waits for what lies in another package's
memory. -/
def execSqEntryLaunch (p q : Nat) (s : State) : Host.Outcome State Fault Refusal :=
  .next (s.sqEntry p q 1 fun s e =>
    let g := s.unitRecord p e
    let done := fun s : State => (s.sqTaken p q).modPart p fun x => { x with recIn := [] }
    match g.2 with
    | .busy => g.1
    | .page _ | .ue => done (g.1.modPart p fun x => { x with nextSeq := (x.nextSeq + 1) % 2 ^ 32 })
    | .ok r =>
      let c := g.1.checkRecord p r
      match c.2 with
      | .wait => c.1
      | x => done (c.1.takeRecord p r ((s.part p).sq q).prio (some q) x))

/-- DQ_ENTRY_TAKE (R189, R443). -/
def execDqEntryTake (p : Nat) (s : State) : Host.Outcome State Fault Refusal :=
  if s.serving p && s.nextQueue p == some dqNo then
    match (s.part p).dq with
    | [] => .next s
    | e :: _ =>
      let pop := fun s : State => s.modPart p fun x => { x with dq := x.dq.tail, rr := dqNo }
      let c := s.checkRecord p e.lrec
      match c.2 with
      | .wait => .next c.1
      | x => .next (pop (c.1.takeRecord p e.lrec (s.part p).dqprio none x))
  else .next s

/-! ## Placement (R197 to R199) -/

/-- v entries, k columns and groups that resident, unretired groups take on a quarter of a cluster (R66, R69). -/
def State.quarterUse (s : State) (cluster place : Nat) : Nat × Nat × Nat :=
  let us := (s.teams.filter fun t => t.cluster == cluster).flatMap fun t =>
    (t.groups.filter fun g => !g.retired && g.idx % 4 * 4 + g.idx / 4 % 4 == place).map fun g =>
      (vOf (s.recOf t.part t.seq) g.idx, kOf (s.recOf t.part t.seq) g.idx)
  ((us.map (·.1)).sum, (us.map (·.2)).sum, us.length)
/-- Does a constant-time team hold tiles on a cluster (R199)? -/
def State.ctHeld (s : State) (cluster : Nat) : Bool :=
  s.teams.any fun t => t.cluster == cluster && !t.tiles.isEmpty && (s.launch? t.part t.seq).elim false (·.ctOnly)
/-- Can a cluster hold a team of the launch now (R197, R199)? -/
def State.fits (s : State) (p : Nat) (L : Launch) (cluster : Nat) : Bool :=
  let r := L.lrec
  let c := s.cluster cluster
  let room := fun q : Nat =>
    let a := s.quarterUse cluster q
    let b := teamUse r q
    decide (a.1 + b.1 ≤ 512) && decide (a.2.1 + b.2.1 ≤ 16) && decide (a.2.2 + b.2.2 ≤ 16)
  (s.part p).clusters.contains cluster && !c.lost && (List.range 16).all room &&
    decide (recNs r + recNq r ≤ ((List.range 32).filter (c.freeMacro (s.part p).l1ways)).length) &&
    decide (recNcv r ≤ ((List.range 16).filter fun i => (c.cvOf i).tid.isNone).length) &&
    (recNt r == 0 || (!c.out && decide (recNt r + c.tileOwner.length ≤ 8) && !s.ctHeld cluster && (!L.ctOnly || c.tileOwner.isEmpty)))
/-- Can any cluster hold a team of it? -/
def State.fitsSome (s : State) (p : Nat) (L : Launch) : Bool := (s.part p).clusters.any (s.fits p L)

/-- Does a pre-emption in progress keep the launch from placing teams (R245)? -/
def Part.preempted (x : Part) (L : Launch) : Bool :=
  x.hypStep != 0 || ((x.pre.step == 1 || x.pre.step == 2) && fld x.pre.ctxmask (recCtx L.lrec % 16) 1 == 1)
/-- Teams that a hypervisor's suspension took off their clusters return though a guest's pre-emption is in its DRAIN step (R251). -/
def Part.returns (x : Part) (L : Launch) : Bool := x.hypStep == 0 && x.pre.step == 1 && !L.restore.isEmpty
/-- The launches with a team to place, in the order of R197. -/
def Part.queue (x : Part) : List Launch :=
  let ls := x.window.filter fun L =>
    L.waits.isEmpty && (decide (L.placed < recTeams L.lrec) || !L.restore.isEmpty) && !L.failed && (!x.preempted L || x.returns L)
  (List.range 8).flatMap fun i => ls.filter fun L => L.prio == 7 - i
/-- Place a launch's next team: one that a pre-emption saved, before new ones (R197, R250). -/
def State.placeNext (s : State) (p : Nat) (L : Launch) (cluster : Nat) : State :=
  match L.restore with
  | v :: _ => s.restoreTeam p L v cluster
  | [] => s.placeTeam p L cluster
/-- Place a launch's next teams on clusters in turn, if each fits. -/
def State.placeAll (s : State) (p seq : Nat) : List Nat → Option State
  | [] => some s
  | c :: r =>
    match s.launch? p seq with
    | some L => if s.fits p L c then (s.placeNext p L c).placeAll p seq r else none
    | none => none
/-- May a launch place before those ahead of it in the order: none of them can place now, has waited 1 ms, or is
cooperative (R197, R198)? -/
def State.mayPass (s : State) (p : Nat) (ahead : List Launch) : Bool :=
  ahead.all fun L => !s.fitsSome p L && !L.held && !recCoop L.lrec

/-- TEAM_PLACE: the next team of a launch on one cluster, or every team of a cooperative grid, each on its own (R197, R198). -/
def execTeamPlace (p seq : Nat) (clusters : List Nat) (s : State) : Host.Outcome State Fault Refusal :=
  let q := (s.part p).queue
  match q.find? fun L => L.seq == seq with
  | none => .next s
  | some L =>
    let n := if recCoop L.lrec then recTeams L.lrec - L.placed + L.restore.length else 1
    if s.serving p && clusters.length == n && s.mayPass p (q.takeWhile fun M => M.seq != seq) then
      .next ((s.placeAll p seq clusters).getD s)
    else .next s

/-- PLACEMENT_HOLD_TIMEOUT: the head launch's next team has waited 1 ms (R197). -/
def execPlacementHoldTimeout (p : Nat) (s : State) : Host.Outcome State Fault Refusal :=
  match (s.part p).queue with
  | [] => .next s
  | L :: _ =>
    if s.fitsSome p L || decide (s.time - L.since < 1000000) then .next s
    else .next (s.modLaunch p L.seq fun L => { L with held := true })

/-! ## Retirement (R202) -/

/-- Free what a team holds on its cluster (R110, R131, R199). -/
def State.freeTeam (s : State) (t : Team) : State :=
  let s1 := (s.modCluster t.cluster fun c =>
    let c1 := t.macros.foldl (fun c m => c.modMacro m fun x => { x with owner := none }) c
    let c2 := t.cvs.foldl (fun c i => c.modCv i fun _ => cv0) c1
    let c3 := t.tiles.foldl (fun c i => c.zeroTile i) c2
    { c3 with tileOwner := c3.tileOwner.filter fun e => e.2 != t.tid,
              table := c3.table.filter fun e => e.tid != t.tid, waiting := c3.waiting.filter fun e => e.tid != t.tid }).releasePins t.tid fun _ => true
  { s1 with teams := s1.teams.filter fun u => u.tid != t.tid, lanes := s1.lanes.filter fun l => l.id.tid != t.tid }
/-- Has a team work that its retirement waits for (R202): transfers, collectives, matrix entries, unacknowledged stores, EVSIGs behind them? -/
def State.teamBusy (s : State) (t : Team) : Bool :=
  s.xfers.any (fun x => x.lane.tid == t.tid) || s.colls.any (fun c => c.tid == t.tid) ||
    ((s.cluster t.cluster).table ++ (s.cluster t.cluster).waiting).any (fun e => e.tid == t.tid) ||
    s.peers.any (fun r => r.lane.elim false fun l => l.tid == t.tid) || !t.smode.isEmpty || !t.ordered.isEmpty ||
    s.lanes.any fun l => l.id.tid == t.tid && !l.rels.isEmpty
/-- Lower a launch's counters for a team that has left, and complete what reaches zero (R202, R203). -/
def State.lowerCounters (s : State) (t : Team) : State :=
  let die := t.cluster / 48
  let s1 := s.modLaunch t.part t.seq fun L =>
    { L with retired := L.retired + 1, clusterCnt := tmod 0 t.cluster (· - 1) L.clusterCnt, dieCnt := tmod 0 die (· - 1) L.dieCnt }
  match s1.launch? t.part t.seq with
  | none => s1
  | some L =>
    if L.retired = recTeams L.lrec then s1.endLaunch t.part L stOk
    else if L.placed ≠ recTeams L.lrec ∨ !L.restore.isEmpty then s1
    else
      let c := tget 0 t.cluster L.clusterCnt == 0 && !L.doneClusters.contains t.cluster
      let d := tget 0 die L.dieCnt == 0 && !L.doneDies.contains die
      let s2 := s1.modLaunch t.part t.seq fun L =>
        { L with doneClusters := if c then L.doneClusters ++ [t.cluster] else L.doneClusters, doneDies := if d then L.doneDies ++ [die] else L.doneDies }
      let s3 := if c then s2.doneCluster t.part L.lrec t.cluster else s2
      if d then s3.doneDie t.part L.lrec die else s3
/-- TEAM_RETIRE (R66, R202). -/
def execTeamRetire (tid : Nat) (s : State) : Host.Outcome State Fault Refusal :=
  match s.team? tid with
  | none => .next s
  | some t =>
    if s.serving t.part && t.groups.all (·.retired) && !s.teamBusy t then .next ((s.freeTeam t).lowerCounters t) else .next s

end Sys2Proof.Machine
end

