-- ==== Sys2Proof/Machine/HostEv.lean ====
section
/-! DEFINITION. The host's accesses to device memory (R168, R169), its answers to back-invalidate snoops (R168), and the host-line
cache's traffic (R170). -/
namespace Sys2Proof.Machine
open Sys2Proof

/-! ## Host accesses (R169) -/

/-- HOST_MEM_READ (R168, R169): device memory answers once firmware is ready (R303). -/
def execHostMemRead (addr n : Nat) (s : State) : Host.Outcome State Fault Refusal :=
  whenReady s fun s => (if decide (addr + n ≤ 2 ^ 39) && decide (0 < n) then s.hostAccess { addr := addr, n := n, data := none, sync := none } else s)
/-- HOST_MEM_WRITE (R169, R193). -/
def execHostMemWrite (addr : Nat) (bytes : List Byte) (s : State) : Host.Outcome State Fault Refusal :=
  whenReady s fun s => (if decide (addr + bytes.length ≤ 2 ^ 39) && decide (0 < bytes.length) then
    s.hostAccess { addr := addr, n := bytes.length, data := some bytes, sync := none } else s)

/-! ## Back-invalidate (R168) -/

/-- BIRSP: the host has answered; its tokens come home, or for a request that only reads its owner token alone, the fewest that let the home
answer (how many a BISnpData takes the spec does not say; DESIGN CHOICE, log entry 57), with the line if the host held it alone and writes
it back. Data comes with the owner token and with it alone (R152). The home then serves what waits. -/
def execBirsp (r : BiRsp) (s : State) : Host.Outcome State Fault Refusal :=
  let ln := r.line
  let inv := s.out.contains (.bisnp ln true)
  if !inv && !s.out.contains (.bisnp ln false) then .next s
  else
    let s1 : State := { s with out := s.out.filter fun o => o != .bisnp ln true && o != .bisnp ln false }
    let h := s1.hold ln 9
    let s2 : State := match r.data with
      | some bs => if h.t = 16 then { s1 with mem := writeBytes s1.mem (128 * ln) ((bs ++ zeros 128).take 128) } else s1
      | none => s1
    let n := if inv || h.t ≤ 1 then h.t else 1
    let s3 := s2.setHold ln 9 (if n = h.t then h.spent else { h with t := h.t - n, owner := false, dirty := false })
    .next ((if n = 0 then s3 else s3.receive ln home n h.owner h.owner false).serveWaiting ln).retryTvec

/-! ## The host-line cache (R170) -/

def State.hostLine? (s : State) (h : Nat) : Option HostLine := (s.hostLines.find? fun e => e.1 == h).map (·.2)
/-- Write a dirty host line back to host memory. -/
def State.hostBack (s : State) (h : Nat) : State :=
  match s.hostLine? h with
  | some e => if e.dirty then { s with hostMem := writeBytes s.hostMem (64 * h) (e.data.take 64) } else s
  | none => s
/-- The host-line cache holds 8 MiB: a line that comes into a full cache sends another out, written back if dirty (log entry 13). -/
def State.evictHost (s : State) (h : Nat) : State :=
  if s.hostLines.length < 131072 ∨ (s.hostLine? h).isSome then s
  else
    match s.hostLines with
    | [] => s
    | e :: r => { s.hostBack e.1 with hostLines := r }
/-- SNPINV: the line is written back if dirty, and leaves. -/
def execSnpinv (hline : Nat) (s : State) : Host.Outcome State Fault Refusal :=
  match s.hostLine? hline with
  | none => .next (s.emit (.snoopReply hline []))
  | some e =>
    let s1 := s.hostBack hline
    .next ({ s1 with hostLines := tdel hline s1.hostLines }.emit (.snoopReply hline (if e.dirty then e.data else [])))
/-- SNPDATA: the line is written back if dirty, and stays shared. -/
def execSnpdata (hline : Nat) (s : State) : Host.Outcome State Fault Refusal :=
  match s.hostLine? hline with
  | none => .next (s.emit (.snoopReply hline []))
  | some e =>
    let s1 := s.hostBack hline
    .next ({ s1 with hostLines := tset hline { e with owned := false, dirty := false } s1.hostLines }.emit
      (.snoopReply hline (if e.dirty then e.data else [])))
/-- CXL_CACHE_RESPONSE: the host gives a line with its data, shared or owned as asked. -/
def execCxlCacheResponse (hline : Nat) (bytes : List Byte) (s : State) : Host.Outcome State Fault Refusal :=
  let own := s.out.contains (.cxlCache hline true)
  if !own && !s.out.contains (.cxlCache hline false) then .next s
  else
    let s1 : State := { s with out := s.out.filter fun o => o != .cxlCache hline true && o != .cxlCache hline false }
    let data := (bytes ++ zeros 64).take 64
    let s2 := s1.evictHost hline
    let s3 : State :=
      { s2 with hostMem := writeBytes s2.hostMem (64 * hline) data,
                hostLines := tset hline { owned := own, dirty := false, data := data } s2.hostLines }
    .next s3.retryTvec

end Sys2Proof.Machine
end

