-- ==== Sys2Proof/Machine/Fabric.lean ====
section
/-! DEFINITION. The scale-up fabric (R298, R299, R301): requests of other packages performed at this package's home, and the
answers to this package's own requests. -/
namespace Sys2Proof.Machine
open Sys2Proof

/-! ## Requests of other packages (R299) -/

/-- The partition whose FTAG matches a request's; an FTAG of 0 matches none. -/
def State.ftagPart (s : State) (ftag : Nat) : Option Nat := if ftag = 0 then none else (s.parts.find? fun e => e.2.ftag == ftag).map (·.1)
/-- A request names n bytes of one line of HBM. -/
def peerRange (a n : Nat) : Bool := decide (0 < n) && decide (a % 128 + n ≤ 128) && inHbm a
/-- No partition matches: an OWNERSHIP record goes to the operator's fault log. -/
def State.peerDenied (s : State) (a : Nat) (write : Bool) : State :=
  let w := s.opRing s.flog { rec0 with kind := 2, flags := bit write, paddr := a, detail := fotOwner (s.fotOf (a / 65536)) }.bits
  ({ w.1 with flog := w.2 } : State).msix .pf s.flog.msix
/-- The table refuses the partition the request is performed for (R144). -/
def State.peerRefused (s : State) (p a : Nat) (write : Bool) : State :=
  s.record p { rec0 with kind := 2, flags := bit write, paddr := a, detail := fotOwner (s.fotOf (a / 65536)) }

/-- What a request of another package gives: an answer, none where the line is poisoned, or it waits for a line that is away from its home
(R168, R174). -/
inductive UaRes where
  | answer (bs : List Byte)
  | lost
  | wait
  deriving DecidableEq, Repr
/-- Perform k on a line at its home, or ask the host for the tokens that it holds and wait. -/
def State.atHome (s : State) (ln : Nat) (write : Bool) (k : State → State × UaRes) : State × UaRes :=
  if (if write then s.homeBusy ln else s.away ln) then (s.recallHost ln write, .wait) else k s
/-- Read for a partition. -/
def State.peerRead (s : State) (p a n : Nat) : State × UaRes :=
  match s.ownCheck p a false with
  | .refused => (s.peerRefused p a false, .answer (zeros n))
  | .zeroQuiet => (s, .answer (zeros n))
  | .performed => s.atHome (a / 128) false fun s =>
    let s1 := (s.hostFold (a / 128)).homeObtain (a / 128) p none
    if s1.poison.contains (a / 128) then (s1, .lost) else (s1, .answer (readBytes s1.mem a n))
/-- Write for a partition: the rules of a write at the home, with the partial write of a poisoned line recorded (R175). -/
def State.peerWrite (s : State) (p a : Nat) (bs : List Byte) : State × UaRes :=
  match s.codeFrame p a, s.ownCheck p a true with
  | some c, _ => (s.record p { rec0 with kind := 3, flags := 1, paddr := a, detail := c }, .answer [])
  | none, .performed => s.atHome (a / 128) true fun s =>
    let s1 := (s.hostFold (a / 128)).putLine a bs
    (if s1.poison.contains (a / 128) then s1.record p { rec0 with kind := 5, flags := 1, paddr := a, detail := 1 } else s1, .answer [])
  | none, _ => (s.peerRefused p a true, .answer [])
/-- Read, modify and write for a partition; a CAS that fails writes nothing (R368). -/
def State.peerRmw (s : State) (p a n : Nat) (f : Nat → Option Nat) : State × UaRes :=
  match s.codeFrame p a, s.ownCheck p a true with
  | some c, _ => (s.record p { rec0 with kind := 3, flags := 1, paddr := a, detail := c }, .answer (zeros n))
  | none, .performed => s.atHome (a / 128) true fun s =>
    let s1 := (((s.hostFold (a / 128)).passFront a).l3Touch p none (a / 128)).homeTake (a / 128)
    if s1.poison.contains (a / 128) then (s1, .lost)
    else
      let old := readBytes s1.mem a n
      (match f (leNat old) with
       | some x => { s1 with mem := writeBytes s1.mem a (leBytes x n) }
       | none => s1, .answer old)
  | none, _ => (s.peerRefused p a true, .answer (zeros n))
/-- The bytes and the new value of an atomic request (R354, R368). -/
def peerAtomic : PeerOp → Option (Nat × (Nat → Option Nat))
  | .atomic op n x => some (n, fun old => some (atomNew op (8 * n) old x))
  | .cas n c x => some (n, fun old => casNew old c x)
  | _ => none
/-- The bytes that a request names. -/
def PeerOp.bytes : PeerOp → Nat
  | .read n | .atomic _ n _ | .cas n _ _ => n
  | .write bs => bs.length
/-- Perform a request for the partition that its FTAG names. -/
def State.uaPerform (s : State) (r : UaReq) : State × UaRes :=
  match s.ftagPart r.ftag, r.op with
  | none, .read n => (s.peerDenied r.addr false, .answer (zeros n))
  | none, .write _ => (s.peerDenied r.addr true, .answer [])
  | none, op => (s.peerDenied r.addr true, .answer (zeros (PeerOp.bytes op)))
  | some p, .read n => s.peerRead p r.addr n
  | some p, .write bs => s.peerWrite p r.addr bs
  | some p, op => (peerAtomic op).elim (s, .lost) fun o => s.peerRmw p r.addr o.1 o.2
/-- Serve a request: it is answered, or waits, also behind an earlier one for its line. -/
def State.uaServe (s : State) (r : UaReq) : State :=
  let later := fun s : State => ({ s with uaWait := s.uaWait ++ [r] } : State)
  if s.uaWait.any fun q => q.addr / 128 == r.addr / 128 then later s
  else
    let q := s.uaPerform r
    match q.2 with
    | .answer bs => q.1.emit (.peerReply r.pkg bs)
    | .lost => q.1
    | .wait => later q.1
/-- The requests that wait are tried again. -/
def State.serveUa (s : State) : State := s.uaWait.foldl State.uaServe { s with uaWait := [] }

/-- UALINK_READ. -/
def execUalinkRead (r : UaReq) (s : State) : Host.Outcome State Fault Refusal :=
  match r.op with
  | .read n => .next (if peerRange r.addr n then s.uaServe r else s)
  | _ => .next s
/-- UALINK_WRITE. -/
def execUalinkWrite (r : UaReq) (s : State) : Host.Outcome State Fault Refusal :=
  match r.op with
  | .write bs => .next (if peerRange r.addr bs.length then s.uaServe r else s)
  | _ => .next s
/-- UALINK_ATOMIC. -/
def execUalinkAtomic (r : UaReq) (s : State) : Host.Outcome State Fault Refusal :=
  match peerAtomic r.op with
  | some o => .next (if peerRange r.addr o.1 then s.uaServe r else s)
  | none => .next s

/-! ## Answers to this package's requests (R299) -/

def State.peerReq? (s : State) (id : Nat) : Option PeerReq := s.peers.find? fun r => r.id == id
def State.dropPeer (s : State) (id : Nat) : State := { s with peers := s.peers.filter fun r => r.id != id }
/-- Change the deferred results and the replay slot of a lane that wait for a request. -/
def Lane.onPeer (l : Lane) (id : Nat) (f : Deferred → Deferred) : Lane :=
  let g := fun d : Deferred => if d.wait = .peer id then f d else d
  { l with deferred := l.deferred.map g, replay := l.replay.map g }
/-- A part of a launch record comes to the lane that still waits for it at its LAUNCH; no bytes say that it was abandoned (R201). -/
def Lane.fetchedPart (l : Lane) (r : PeerReq) (bytes : List Byte) : Lane :=
  if l.pc = r.pc then { l with fetched := l.fetched ++ [(r.va, bytes)] } else l
/-- A lane's access is answered: its value is there, and its acquire takes effect (R118). -/
def State.laneAnswer (s : State) (l : Lane) (r : PeerReq) (bytes : List Byte) : State :=
  let s1 :=
    if r.n.isNone && !PeerOp.writes r.op then s.setLane (l.fetchedPart r bytes)
    else s.setLane (l.onPeer r.id fun d => { d.filled (leNat bytes) .ready with sounded := d.sounded })
  let s2 := match l.deferred.find? fun d => d.wait == .peer r.id, r.acq with
    | some d, _ => s1.acquireFor l d.instr d.srcs
    | none, some e => s1.acquire l e
    | none, none => s1
  s2.settle [l.id]
/-- A transfer's request is answered: the line it read is there, or what it wrote is done. It goes on after its last answer. -/
def State.xferAnswer (s : State) (x : Xfer) (r : PeerReq) (bytes : List Byte) : State :=
  let x1 := { x with wait := if x.wait = some r.id then none else x.wait }
  s.setXfer (if PeerOp.writes r.op then x1 else { x1 with got := x1.got ++ [(r.va, bytes)] })
/-- A part of a queue's launch record comes to the launch unit; no bytes say that it was abandoned (R191). -/
def State.unitAnswer (s : State) (r : PeerReq) (bytes : List Byte) : State :=
  if r.lane.isNone && r.xfer.isNone && r.op == .read 64 then s.modPart r.part fun x => { x with recIn := x.recIn ++ [(r.dpa, bytes)] } else s
/-- UALINK_RESPONSE. -/
def execUalinkResponse (req : Nat) (bytes : List Byte) (s : State) : Host.Outcome State Fault Refusal :=
  match s.peerReq? req with
  | none => .next s
  | some r =>
    let s1 := s.dropPeer req
    match r.xfer.bind fun id => s1.xfers.find? fun x => x.id == id with
    | some x => .next (s1.xferAnswer x r bytes)
    | none =>
      match r.lane.bind s1.lane? with
      | some l => .next (s1.laneAnswer l r bytes)
      | none => .next (s1.unitAnswer r bytes)

/-- The data error of an abandoned request, by its kind: a load is executed again at TRET, an atomic is not (R175, R299). -/
def PeerReq.lost (r : PeerReq) : Wait :=
  let va : DWord := BitVec.ofNat 64 r.va
  match r.op with
  | .read _ => .dataUe 0 va true
  | .write _ => .dataUe 0 va false
  | _ => .dataUe 1 va false
/-- A lane's access is abandoned: a result that waits for it becomes a fault, a sounding it carried is lost (R275), and a store leaves a
fault for the lane's next marker. -/
def State.laneLost (s : State) (l : Lane) (r : PeerReq) : State :=
  let s0 := if l.deferred.any (fun d => d.wait == .peer r.id && d.sounded != 0) then s.countLane l evSndLost 1 else s
  let s1 :=
    if r.store then
      let m := ({ l with pc := r.pc } : Lane).defer .nop [] [] [] 0 r.lost
      s0.setLane { m with pc := l.pc }
    else if r.n.isNone then s0.setLane (l.fetchedPart r [])
    else s0.setLane (l.onPeer r.id fun d => { d with wait := r.lost, sounded := 0 })
  s1.settle [l.id]
/-- PEER_REQUEST_TIMEOUT: a request not completed within 2 ms is abandoned. -/
def execPeerRequestTimeout (req : Nat) (s : State) : Host.Outcome State Fault Refusal :=
  match s.peerReq? req with
  | none => .next s
  | some r =>
    if s.time < r.since + 2000000 then .next s
    else
      let s1 := s.dropPeer req
      match r.xfer.bind fun id => s1.xfers.find? fun x => x.id == id with
      | some x => .next ((s1.leaveErr x causeDataUe 0 (BitVec.ofNat 64 r.va)).endXfer x.id)
      | none =>
        match r.lane.bind s1.lane? with
        | some l => .next (s1.laneLost l r)
        | none => .next (s1.unitAnswer r [])

end Sys2Proof.Machine
end

