-- ==== Sys2Proof/Machine/Keccak.lean ====
section
/-! DEFINITION. SHAKE256 of FIPS 202, the hash that R9 fixes by that standard. A state is 25 words of 64 bits, word x + 5y at place x, y. -/
namespace Sys2Proof.Machine
open Sys2Proof

/-- The words of a state. -/
abbrev Sponge := List (BitVec 64)
def Sponge.at (s : Sponge) (i : Nat) : BitVec 64 := s.getD i 0

/-- The rotation of each word, ρ. -/
def keccakRot : List Nat :=
  [0, 1, 62, 28, 27, 36, 44, 6, 55, 20, 3, 10, 43, 25, 39, 41, 45, 15, 21, 8, 18, 2, 61, 56, 14]
/-- The round constants, ι. -/
def keccakRc : List (BitVec 64) :=
  [0x0000000000000001, 0x0000000000008082, 0x800000000000808A, 0x8000000080008000, 0x000000000000808B, 0x0000000080000001,
   0x8000000080008081, 0x8000000000008009, 0x000000000000008A, 0x0000000000000088, 0x0000000080008009, 0x000000008000000A] ++
  [0x000000008000808B, 0x800000000000008B, 0x8000000000008089, 0x8000000000008003, 0x8000000000008002, 0x8000000000000080,
   0x000000000000800A, 0x800000008000000A, 0x8000000080008081, 0x8000000000008080, 0x0000000080000001, 0x8000000080008008]

/-- θ: each word takes the parities of two columns. -/
def keccakTheta (s : Sponge) : Sponge :=
  let c := (List.range 5).map fun x => (s.at x).xor ((s.at (x + 5)).xor ((s.at (x + 10)).xor ((s.at (x + 15)).xor (s.at (x + 20)))))
  let d := (List.range 5).map fun x => (Sponge.at c ((x + 4) % 5)).xor ((Sponge.at c ((x + 1) % 5)).rotateLeft 1)
  (List.range 25).map fun i => (s.at i).xor (Sponge.at d (i % 5))
/-- ρ and π: the word at x, y goes to y, 2x + 3y, rotated. -/
def keccakRhoPi (s : Sponge) : Sponge :=
  (List.range 25).map fun i =>
    let j := (i % 5 + 3 * (i / 5)) % 5 + 5 * (i % 5)
    (s.at j).rotateLeft (keccakRot.getD j 0)
/-- χ: each word takes the two that follow it in its row. -/
def keccakChi (s : Sponge) : Sponge :=
  (List.range 25).map fun i =>
    let y := 5 * (i / 5)
    (s.at i).xor ((~~~ (s.at (y + (i + 1) % 5))) &&& s.at (y + (i + 2) % 5))
def keccakRound (s : Sponge) (rc : BitVec 64) : Sponge :=
  match keccakChi (keccakRhoPi (keccakTheta s)) with
  | [] => []
  | w :: r => (w.xor rc) :: r
/-- Keccak-f[1600]. -/
def keccakF (s : Sponge) : Sponge := keccakRc.foldl keccakRound s

/-- The rate of SHAKE256 in bytes. -/
def shakeRate : Nat := 136
/-- The message with its suffix 1111 and the padding 10*1. -/
def shakePad (m : List Byte) : List Byte :=
  let k := shakeRate - m.length % shakeRate
  if k = 1 then m ++ [0x9F] else m ++ [0x1F] ++ zeros (k - 2) ++ [0x80]
/-- Take in the blocks of a padded message. -/
def shakeAbsorb : Nat → List Byte → Sponge → Sponge
  | 0, _, s => s
  | n + 1, m, s =>
    shakeAbsorb n (m.drop shakeRate)
      (keccakF (s.zipIdx.map fun e => if e.2 < 17 then e.1.xor (BitVec.ofNat 64 (leNat ((m.drop (8 * e.2)).take 8))) else e.1))
/-- Give out blocks. -/
def shakeSqueeze : Nat → Sponge → List Byte
  | 0, _ => []
  | n + 1, s => ((s.take 17).flatMap fun w => leBytes w.toNat 8) ++ shakeSqueeze n (keccakF s)
/-- SHAKE256 of a message, n bytes of output. -/
def shake256 (m : List Byte) (n : Nat) : List Byte :=
  let p := shakePad m
  (shakeSqueeze ((n + shakeRate - 1) / shakeRate) (shakeAbsorb (p.length / shakeRate) p (List.replicate 25 0))).take n
/-- The 512 bits of the hash that the device uses (R305). -/
def hash512 (m : List Byte) : BitVec 512 := BitVec.ofNat 512 (leNat (shake256 m 64))

end Sys2Proof.Machine
end

