-- ==== Sys2Proof/Machine/Slh.lean ====
section
/-! DEFINITION. SLH-DSA-SHAKE-256s of FIPS 205, the signature that R9 fixes by that standard: key generation, signing and verification, in
the standard's own steps and names. -/
namespace Sys2Proof.Machine
open Sys2Proof

/-! ## Parameters and addresses -/

/-- A parameter set: the bytes of a hash, the layers of the hypertree and the height of each, the height and the number of the FORS trees. -/
structure SlhParams where
  n : Nat
  d : Nat
  hp : Nat
  a : Nat
  k : Nat
  deriving DecidableEq, Repr
/-- SLH-DSA-SHAKE-256s: n 32, h 64, d 8, h' 8, a 14, k 22, lg w 4. -/
def slh256s : SlhParams := { n := 32, d := 8, hp := 8, a := 14, k := 22 }
/-- Chains of a one-time key: two for each byte, and three of checksum. -/
def SlhParams.len (q : SlhParams) : Nat := 2 * q.n + 3

/-- An address: layer, tree, type, and three words by type: key pair; chain or tree height; hash or tree index. -/
structure Adrs where
  layer : Nat
  tree : Nat
  type : Nat
  key : Nat
  high : Nat
  low : Nat
  deriving DecidableEq, Repr
def Adrs.zero : Adrs := { layer := 0, tree := 0, type := 0, key := 0, high := 0, low := 0 }
/-- Bytes of a number, most significant first. -/
def beBytes (x n : Nat) : List Byte := (leBytes x n).reverse
def beNat (bs : List Byte) : Nat := leNat bs.reverse
def Adrs.bytes (x : Adrs) : List Byte :=
  beBytes x.layer 4 ++ beBytes x.tree 12 ++ beBytes x.type 4 ++ beBytes x.key 4 ++ beBytes x.high 4 ++ beBytes x.low 4
/-- setTypeAndClear, with the key pair that follows it. -/
def Adrs.as (x : Adrs) (type key : Nat) : Adrs := { x with type := type, key := key, high := 0, low := 0 }
/-- setTreeHeight and setTreeIndex. -/
def Adrs.node (x : Adrs) (height index : Nat) : Adrs := { x with high := height, low := index }

/-- F, H and T: a tweakable hash. PRF is the same function of the secret seed. -/
def slhHash (q : SlhParams) (pkSeed : List Byte) (x : Adrs) (m : List Byte) : List Byte := shake256 (pkSeed ++ x.bytes ++ m) q.n
/-- base_2^b: n digits of b bits, the most significant first. -/
def slhDigits (bs : List Byte) (b n : Nat) : List Nat :=
  (List.range n).map fun i => beNat bs / 2 ^ (8 * bs.length - b * (i + 1)) % 2 ^ b

/-! ## One-time signatures -/

/-- chain: s steps from step i. -/
def slhChain (q : SlhParams) (pkSeed : List Byte) (x : Adrs) (m : List Byte) (i s : Nat) : List Byte :=
  (List.range s).foldl (fun m j => slhHash q pkSeed { x with low := i + j } m) m
/-- The digits of a message with their checksum. -/
def wotsDigits (q : SlhParams) (m : List Byte) : List Nat :=
  let ds := slhDigits m 4 (2 * q.n)
  ds ++ slhDigits (beBytes ((ds.map fun e => 15 - e).sum * 16) 2) 4 3
/-- The secret of a chain. -/
def wotsSecret (q : SlhParams) (skSeed pkSeed : List Byte) (x : Adrs) (i : Nat) : List Byte :=
  slhHash q pkSeed { x.as 5 x.key with high := i } skSeed
/-- The compressed public key from the ends of the chains. -/
def wotsPk (q : SlhParams) (pkSeed : List Byte) (x : Adrs) (ends : List (List Byte)) : List Byte :=
  slhHash q pkSeed (x.as 1 x.key) ends.flatten
/-- wots_pkGen. -/
def wotsGen (q : SlhParams) (skSeed pkSeed : List Byte) (x : Adrs) : List Byte :=
  wotsPk q pkSeed x ((List.range q.len).map fun i => slhChain q pkSeed { x with high := i } (wotsSecret q skSeed pkSeed x i) 0 15)
/-- wots_sign. -/
def wotsSign (q : SlhParams) (skSeed pkSeed : List Byte) (x : Adrs) (m : List Byte) : List Byte :=
  ((wotsDigits q m).zipIdx.map fun e => slhChain q pkSeed { x with high := e.2 } (wotsSecret q skSeed pkSeed x e.2) 0 e.1).flatten
/-- The n-byte string number i of a signature. -/
def SlhParams.piece (q : SlhParams) (sig : List Byte) (i : Nat) : List Byte := (sig.drop (q.n * i)).take q.n
/-- wots_pkFromSig. -/
def wotsFromSig (q : SlhParams) (pkSeed : List Byte) (x : Adrs) (sig m : List Byte) : List Byte :=
  wotsPk q pkSeed x ((wotsDigits q m).zipIdx.map fun e => slhChain q pkSeed { x with high := e.2 } (q.piece sig e.2) e.1 (15 - e.1))

/-! ## Trees -/

/-- Climb from node number idx with the siblings of a path, at heights from h up. -/
def slhClimb (q : SlhParams) (pkSeed : List Byte) (x : Adrs) : Nat → Nat → List Byte → List (List Byte) → List Byte
  | _, _, node, [] => node
  | h, idx, node, sib :: r =>
    slhClimb q pkSeed x (h + 1) (idx / 2)
      (slhHash q pkSeed (x.node (h + 1) (idx / 2)) (if idx % 2 = 0 then node ++ sib else sib ++ node)) r
/-- xmss_node: node i at height z. -/
def xmssNode (q : SlhParams) (skSeed pkSeed : List Byte) (x : Adrs) : Nat → Nat → List Byte
  | 0, i => wotsGen q skSeed pkSeed (x.as 0 i)
  | z + 1, i =>
    slhHash q pkSeed ((x.as 2 0).node (z + 1) i) (xmssNode q skSeed pkSeed x z (2 * i) ++ xmssNode q skSeed pkSeed x z (2 * i + 1))
/-- The sibling of a node's number. -/
def sibling (i : Nat) : Nat := if i % 2 = 0 then i + 1 else i - 1
/-- xmss_sign. -/
def xmssSign (q : SlhParams) (skSeed pkSeed : List Byte) (x : Adrs) (m : List Byte) (idx : Nat) : List Byte :=
  wotsSign q skSeed pkSeed (x.as 0 idx) m ++ ((List.range q.hp).map fun j => xmssNode q skSeed pkSeed x j (sibling (idx / 2 ^ j))).flatten
/-- xmss_pkFromSig. -/
def xmssFromSig (q : SlhParams) (pkSeed : List Byte) (x : Adrs) (idx : Nat) (sig m : List Byte) : List Byte :=
  slhClimb q pkSeed (x.as 2 0) 0 idx (wotsFromSig q pkSeed (x.as 0 idx) sig m) ((List.range q.hp).map fun j => q.piece sig (q.len + j))
/-- The address of a tree of the hypertree. -/
def htAdrs (layer tree : Nat) : Adrs := { Adrs.zero with layer := layer, tree := tree }
/-- ht_sign from layer j on, n layers. -/
def htSign (q : SlhParams) (skSeed pkSeed : List Byte) : Nat → Nat → List Byte → Nat → Nat → List Byte
  | 0, _, _, _, _ => []
  | n + 1, j, m, tree, leaf =>
    let sig := xmssSign q skSeed pkSeed (htAdrs j tree) m leaf
    sig ++ htSign q skSeed pkSeed n (j + 1) (xmssFromSig q pkSeed (htAdrs j tree) leaf sig m) (tree / 2 ^ q.hp) (tree % 2 ^ q.hp)
/-- The root that ht_verify computes. -/
def htRoot (q : SlhParams) (pkSeed : List Byte) : Nat → Nat → List Byte → List Byte → Nat → Nat → List Byte
  | 0, _, m, _, _, _ => m
  | n + 1, j, m, sig, tree, leaf =>
    htRoot q pkSeed n (j + 1) (xmssFromSig q pkSeed (htAdrs j tree) leaf sig m) (sig.drop (q.n * (q.len + q.hp))) (tree / 2 ^ q.hp)
      (tree % 2 ^ q.hp)

/-! ## Few-time signatures -/

def forsSecret (q : SlhParams) (skSeed pkSeed : List Byte) (x : Adrs) (i : Nat) : List Byte :=
  slhHash q pkSeed { x.as 6 x.key with low := i } skSeed
/-- fors_node. -/
def forsNode (q : SlhParams) (skSeed pkSeed : List Byte) (x : Adrs) : Nat → Nat → List Byte
  | 0, i => slhHash q pkSeed (x.node 0 i) (forsSecret q skSeed pkSeed x i)
  | z + 1, i =>
    slhHash q pkSeed (x.node (z + 1) i) (forsNode q skSeed pkSeed x z (2 * i) ++ forsNode q skSeed pkSeed x z (2 * i + 1))
/-- fors_sign. -/
def forsSign (q : SlhParams) (skSeed pkSeed : List Byte) (x : Adrs) (md : List Byte) : List Byte :=
  ((slhDigits md q.a q.k).zipIdx.map fun e =>
    forsSecret q skSeed pkSeed x (e.2 * 2 ^ q.a + e.1) ++
      ((List.range q.a).map fun j => forsNode q skSeed pkSeed x j (e.2 * 2 ^ (q.a - j) + sibling (e.1 / 2 ^ j))).flatten).flatten
/-- fors_pkFromSig. -/
def forsFromSig (q : SlhParams) (pkSeed : List Byte) (x : Adrs) (sig md : List Byte) : List Byte :=
  slhHash q pkSeed (x.as 4 x.key)
    ((slhDigits md q.a q.k).zipIdx.map fun e =>
      let at' := (q.a + 1) * e.2
      let idx := e.2 * 2 ^ q.a + e.1
      slhClimb q pkSeed x 0 idx (slhHash q pkSeed (x.node 0 idx) (q.piece sig at')) ((List.range q.a).map fun j => q.piece sig (at' + 1 + j))).flatten

/-! ## Keys, signatures, verification -/

/-- A key pair's halves: SK.seed, SK.prf, PK.seed, PK.root. -/
structure SlhKey where
  skSeed : List Byte
  skPrf : List Byte
  pkSeed : List Byte
  pkRoot : List Byte
  deriving DecidableEq, Repr
def SlhKey.publicHalf (x : SlhKey) : List Byte := x.pkSeed ++ x.pkRoot
/-- slh_keygen_internal of three seeds. -/
def slhKeygen (q : SlhParams) (seeds : List Byte) : SlhKey :=
  let sk := seeds.take q.n
  let pk := (seeds.drop (2 * q.n)).take q.n
  { skSeed := sk, skPrf := (seeds.drop q.n).take q.n, pkSeed := pk, pkRoot := xmssNode q sk pk (htAdrs (q.d - 1) 0) q.hp 0 }
/-- What the message's digest selects: the FORS digits' bytes, the tree and the leaf. -/
def slhDigest (q : SlhParams) (r pkSeed pkRoot m : List Byte) : List Byte × Nat × Nat :=
  let n1 := (q.k * q.a + 7) / 8
  let ht := (q.d - 1) * q.hp
  let n2 := (ht + 7) / 8
  let n3 := (q.hp + 7) / 8
  let dg := shake256 (r ++ pkSeed ++ pkRoot ++ m) (n1 + n2 + n3)
  (dg.take n1, beNat ((dg.drop n1).take n2) % 2 ^ ht, beNat (dg.drop (n1 + n2)) % 2 ^ q.hp)
/-- The message of the pure signature with an empty context (FIPS 205, slh_sign). -/
def slhPure (m : List Byte) : List Byte := [0, 0] ++ m
/-- slh_sign with the random string `rand`. -/
def slhSign (q : SlhParams) (x : SlhKey) (rand m : List Byte) : List Byte :=
  let r := shake256 (x.skPrf ++ rand ++ slhPure m) q.n
  let d := slhDigest q r x.pkSeed x.pkRoot (slhPure m)
  let adr := (htAdrs 0 d.2.1).as 3 d.2.2
  let fors := forsSign q x.skSeed x.pkSeed adr d.1
  r ++ fors ++ htSign q x.skSeed x.pkSeed q.d 0 (forsFromSig q x.pkSeed adr fors d.1) d.2.1 d.2.2
/-- slh_verify of a signature over a message under a public key. -/
def slhVerify (q : SlhParams) (pub m sig : List Byte) : Bool :=
  let pkSeed := pub.take q.n
  let pkRoot := pub.drop q.n
  let d := slhDigest q (sig.take q.n) pkSeed pkRoot (slhPure m)
  let fors := q.n * (q.k * (q.a + 1))
  let body := sig.drop q.n
  pub.length == 2 * q.n && sig.length == q.n * (1 + q.k * (q.a + 1) + q.d * (q.len + q.hp)) &&
    htRoot q pkSeed q.d 0 (forsFromSig q pkSeed ((htAdrs 0 d.2.1).as 3 d.2.2) (body.take fors) d.1) (body.drop fors) d.2.1 d.2.2 == pkRoot

end Sys2Proof.Machine
end

