-- ==== Sys2Proof/Machine/Save.lean ====
section
/-! DEFINITION. The bytes of a save area (R246 to R249) and of a quarter dump's group blocks (R243). Bytes whose place or content the spec
does not give are free (log entry 16). -/
namespace Sys2Proof.Machine
open Sys2Proof

/-! ## Sizes (R244, R248, R254) -/

/-- What one cluster's largest resident set takes in a save area: 16 teams, the most that fit since each has a group on the first
quarter (R63, R69), with 256 groups, every v entry, k column, macro, convergence register and tile, and 33 replay entries a lane. -/
def clusterSaveMax : Nat :=
  16 * (512 + 1024) + 256 * 2304 + 16 * (128 * 512 + 4096 * 16) + 32 * 52224 + 16 * 10368 + 8 * 524288 + 64 * (256 * 32 * 33)
/-- Round up to whole 64 KiB frames. -/
def framesFor (n : Nat) : Nat := (n + 65535) / 65536
/-- SAVEMAX of a guest save (R244) and what SAVEMAXH takes of a hypervisor save, with its 192 KiB partition block (R254). -/
def Part.saveMax (x : Part) : Nat := framesFor (256 + 64 * 512 + x.clusters.length * clusterSaveMax)
def Part.saveMaxFor (x : Part) : Nat := framesFor (256 + 192 * 1024 + 64 * 512 + x.clusters.length * clusterSaveMax)

/-! ## Group blocks (R249) -/

/-- The park kind of R249; a lane at CBAR counts as at a barrier, and one whose MXA waits as in convergence. -/
def Lane.parkCode (l : Lane) : Nat :=
  match l.park with
  | .exited => 1
  | .barrier _ | .cbar => 3
  | .conv _ | .mxaWait _ => 4
  | .gbar => 5
  | .waitph _ _ => 6
  | .evwait _ _ => 7
  | .fault _ => 8
  | .queue => 9
  | .drain _ _ => 10
  | .collw _ _ => 11
  | .ready | .smode | .orderedAtom | .stall => if l.marker then 2 else 0
def Lane.fidOf (l : Lane) : Nat :=
  match l.park with
  | .fault f => f
  | _ => 0
/-- A deferred instruction that a lane is to execute again (R82, R248): one that faulted, or an ordered atomic that waits for its turn. -/
def Deferred.again (d : Deferred) : Bool := d.faulted || d.wait == .ordered
/-- The deferred instructions a lane is to execute again, each with its kind and its FID, in program order (R82, R248): its RPL slot, those
that its traps left to be taken after their returns, the outermost first, and those that its park holds. -/
def Lane.replays (l : Lane) : List (Nat × Nat × Deferred) :=
  (l.replay.toList.map fun d => (2, 0, d)) ++ ((l.later.reverse.flatMap (·.2)).map fun d => (1, 0, d)) ++
    ((l.deferred.filter Deferred.again).map fun d => (1, l.fidOf, d))

/-- The lanes of a group in slot order. -/
def State.groupLanes (s : State) (tid grp : Nat) : List Lane :=
  (List.range 32).filterMap fun k => s.lane? { tid := tid, grp := grp, slot := k }
/-- The carry-save image of an LA with the pending carries c (R43, R45). -/
def carryImage (a : LA) (c : Nat) : Nat :=
  let carried : Int := carrySum (c * 2 ^ 640) 10
  (a.val - BitVec.ofInt 640 carried).toNat + c * 2 ^ 640 + laStatus a * 2 ^ 720
/-- The image of a k register in a save area: the pending carries that the spec gives it, else free ones (R43, R246; log entry 4). -/
def Lane.kImage (l : Lane) (k : KReg) (d : Nat) : Nat := carryImage (l.getK k) ((l.kc[k]).elim (fld d 0 80) BitVec.toNat)

/-- The v registers, register-major. -/
def vBytes (ls : List Lane) (n : Nat) : List Byte := (List.range n).flatMap fun i => ls.flatMap fun l => leBytes (l.v! i).toNat 4
/-- The k registers, in the layout of R45 at a stride of 128 bytes: canonical images in a dump (`free` none), carry-save ones in a save area
(R43, R44, R246). -/
def kBytes (ls : List Lane) (n : Nat) (free : Option Nat) : List Byte :=
  (List.range n).flatMap fun i => (ls.zipIdx).flatMap fun e =>
    let k : KReg := Fin.ofNat 16 i
    leBytes (free.elim (laImage (e.1.getK k)) fun d => e.1.kImage k (d / 2 ^ (80 * (32 * i + e.2)))) 128

/-- The 2,304-byte head of a group block. -/
def groupHead (g : Group) (ls : List Lane) : List Byte :=
  (ls.flatMap fun l => leBytes l.pc.toNat 8) ++ (ls.flatMap fun l => leBytes l.rnd.toNat 8) ++
    (ls.flatMap fun l =>
      leBytes l.epc.toNat 8 ++ leBytes l.fpc.toNat 8 ++ leBytes l.tval.toNat 8 ++ leBytes l.ssw.toNat 4 ++
        leBytes (l.depth * 16 + bit l.dm * 4 + bit l.ss * 2 + bit l.sup) 4) ++
    (ls.flatMap fun l => leBytes (l.p.toNat / 2 * 2) 1) ++ (ls.flatMap fun l => leBytes l.parkCode 1) ++
    (g.g.toList.flatMap fun w => leBytes w.toNat 4) ++ leBytes g.fflags.toNat 4 ++ zeros 124 ++
    (ls.flatMap fun l => (List.range 4).flatMap fun b => leBytes (((l.lastArr.find? fun e => e.1 == b).map (·.2)).getD 0) 2) ++
    (ls.flatMap fun l => leBytes l.fidOf 4) ++
    (ls.flatMap fun l => leBytes (l.replays.length + 64 * bit l.replay.isSome) 4)
/-- A group block, of a dump or with the free value of a save area. The results that a lane took before its marker are written (R246). -/
def State.groupBlock (s : State) (t : Team) (g : Group) (d : Option Nat) : List Byte :=
  let ls := (s.groupLanes t.tid g.idx).map fun l => if d.isSome then l.landed else l
  let r := s.recOf t.part t.seq
  groupHead g ls ++ vBytes ls (vOf r g.idx) ++ kBytes ls (kOf r g.idx) d

/-! ## Team blocks (R248) -/

/-- The tag section of a macro: four bits a word, bit 3 set for none. -/
def tagBytes (m : Sram) : List Byte :=
  (List.range 3072).map fun i =>
    let nib := fun w => tget 8 w m.tags % 16
    BitVec.ofNat 8 (nib (2 * i) + 16 * nib (2 * i + 1))
def scratchSection (m : Sram) : List Byte := readBytes m.data 0 49152 ++ tagBytes m
/-- Data, then 128 bytes of ring state (free). -/
def queueSection (m : Sram) (d : Nat) : List Byte := readBytes m.data 0 49152 ++ leBytes d 128
/-- The operand registers that a lane supplied, without the scale register after them (R90, R91). -/
def Operand.regsA (o : Operand) : Nat := if o.b.length = 9 then o.a.length - 1 else o.a.length
/-- The word of a register of one operand in one lane slot of a member. -/
def slotWord (os : List Operand) (k : Nat) (f : Operand → Option Word) : Option Word := (os.find? fun o => o.slot == k).bind f
/-- The words of a member slot, register-major (R248): A octet, B octet, A scales, B scales; none where no lane supplied one. -/
def memberWords (os : List Operand) : List (Option Word) :=
  let row := fun f : Operand → Option Word => (List.range 32).map fun k => slotWord os k f
  ((List.range 8).flatMap fun i => row fun o => if i < o.regsA then o.a[i]? else none) ++ ((List.range 8).flatMap fun i => row fun o => o.b[i]?) ++
    (row fun o => if o.b.length = 9 then o.a[o.regsA]? else none) ++ row fun o => o.b[8]?
/-- What a core's member of a set holds. -/
def CvReg.memberOf (c : CvReg) (core : Nat) : List Operand := ((c.held.find? fun e => e.1 == core).map (·.2.2)).getD []
/-- The state word, then the four member slots; bytes that no lane supplied are free. -/
def cvSection (c : CvReg) (d : Nat) : List Byte :=
  leBytes (c.word.toNat + 2 ^ 32 * d) 128 ++
    (List.range 4).flatMap fun i =>
      ((memberWords (c.memberOf i)).zipIdx.flatMap fun e => leBytes (e.1.elim (d / 2 ^ (992 + 18432 * i + 32 * e.2)) BitVec.toNat) 4) ++ zeros 256
def tileSection (c : Cluster) (tile : Nat) : List Byte :=
  (List.range 64).flatMap fun i => (List.range 64).flatMap fun j => leBytes (laImage (c.cell tile i j)) 96 ++ zeros 32

def pinReason : PinState → Nat
  | .pinned => 0
  | .broken r => r
def pinSection (ps : List Pin) : List Byte :=
  let es := (ps.take 64).flatMap fun p => leBytes (Config.pinEntry (1024 * p.row) (bit p.live) (pinReason p.state)) 16
  es ++ zeros (1024 - es.length)

/-- The head word and the extension word at the PC of a deferred instruction (R248); free where they can no longer be read. -/
def State.wordsAt (s : State) (l : Lane) (d : Deferred) (free : Nat) : Nat × Nat :=
  let own : Lane := { l with obj := .launched }
  let l1 := if s.packetOf own (d.pc.toNat - d.pc.toNat % 4) || (s.objOf own).1 ≤ d.pc.toNat && d.pc.toNat < (s.objOf own).1 + (s.objOf own).2
    then own else { l with obj := .handler }
  let word := fun a => match (s.fetch l1 a).2 with
    | .data bs => leNat bs
    | _ => free
  let w := word d.pc.toNat
  (w, if isTwoWord w then word (d.pc.toNat + 4) else 0)
/-- The source values that an instruction read from registers: a QPOP reads none (R472). -/
def Deferred.sources (d : Deferred) : List Word :=
  match d.instr with
  | .qpop _ _ => []
  | _ => d.srcs
/-- One entry of the replay section. -/
def State.replayEntry (s : State) (l : Lane) (free : Nat) (x : Nat × Nat × Deferred) : List Byte :=
  let d := x.2.2
  let w := s.wordsAt l d free
  leBytes l.id.grp 2 ++ leBytes l.id.slot 1 ++ leBytes x.1 1 ++ leBytes x.2.1 4 ++ leBytes d.pc.toNat 8 ++
    leBytes w.1 4 ++ leBytes w.2 4 ++ ((List.range 8).flatMap fun i => leBytes (srcAt d.sources i).toNat 4) ++ zeros 8
/-- Bytes padded with zeros to whole lines (R247). -/
def padLine (bs : List Byte) : List Byte := bs ++ zeros ((128 - bs.length % 128) % 128)

/-- Is a launch chosen by the save in progress? -/
def Part.chosen (x : Part) (L : Launch) : Bool :=
  if x.hypStep ≠ 0 then true else fld x.pre.ctxmask (recCtx L.lrec % 16) 1 == 1
/-- The code of a collective handle in a team header. -/
def Handle.code : Handle → List Nat
  | .unused => [0, 0]
  | .pending c => [1, c]
  | .done st => [2, st]
  | .free st => [3, st]
/-- The fields of a saved team's header (R248), its launch's position among the saved launches the second. How the header holds them is the
device's own (log entry 16). -/
def SavedTeam.headFields (v : SavedTeam) (pos r : Nat) : List Nat :=
  let t := v.team
  let arrived := v.lanes.flatMap fun l => [l.id.grp, l.id.slot, (l.arrived.map fun b => 2 ^ b).sum]
  let queues := (v.srams.filter fun m => m.mode == .queue).flatMap fun m => [m.qhead, m.qcount, m.prod.elim 0 (· + 1), m.cons.elim 0 (· + 1)]
  let nrepl := (v.lanes.map fun l => l.replays.length).sum
  [t.index, pos, nrepl, v.pins.length, recNc r, recNp r, recVcon r, recVpro r, recKcon r, recKpro r,
   (v.srams.filter fun m => m.mode == .scratch).length, (v.srams.filter fun m => m.mode == .queue).length, v.cvregs.length, v.cells.length] ++
    (t.bars.flatMap fun b => [b.phase, b.mask]) ++ (t.handles.flatMap Handle.code) ++ queues ++ arrived
/-- A saved team in the order in which its launch places teams (R93, R197). -/
def restoreAt (v : SavedTeam) : List SavedTeam → List SavedTeam
  | [] => [v]
  | u :: r => if v.team.index < u.team.index then v :: u :: r else u :: restoreAt v r
/-- A saved team whose block has its header, written when the save ends. -/
def SavedTeam.headed (pos r : Nat) (v : SavedTeam) : SavedTeam :=
  { v with block := leBytes (Config.saveBlock (v.headFields pos r)) 512 ++ v.block.drop 512 }

/-- A team block: header, groups, scratch, queues, convergence registers, tiles, pins, replay section; the next block begins at a line
(R247). Its header is zero till the save ends. -/
def State.teamBlock (s : State) (t : Team) (d : Nat) : List Byte :=
  let c := s.cluster t.cluster
  let r := s.recOf t.part t.seq
  let scr := t.macros.filter fun m => (c.macro' m).mode == .scratch
  let que := t.macros.filter fun m => (c.macro' m).mode == .queue
  padLine <| zeros 512 ++ (t.groups.flatMap fun g => s.groupBlock t g (some d)) ++ (scr.flatMap fun m => scratchSection (c.macro' m)) ++
    (que.flatMap fun m => queueSection (c.macro' m) d) ++ ((t.cvs.take (recNcv r)).flatMap fun i => cvSection (c.cvOf i) d) ++
    (t.tiles.flatMap fun i => tileSection c i) ++ pinSection (s.pins.filter fun p => p.tid == t.tid) ++
    ((t.groups.flatMap fun g => s.groupLanes t.tid g.idx).flatMap fun l => l.replays.flatMap (s.replayEntry l d))

/-! ## The header (R247) -/

/-- The fields after the record of a launch block (R247): sequence number, teams placed and retired, the mask of the saved launches that it waits
for, by position, the completion counters. How the block holds them is the device's own (log entry 16). -/
def launchFields (ls : List Launch) (L : Launch) : List Nat :=
  [L.seq, L.placed, L.retired, (ls.zipIdx.map fun e => if L.waits.contains e.1.seq then 2 ^ e.2 else 0).sum] ++
    ((L.clusterCnt ++ L.dieCnt).flatMap fun e => [e.1, e.2]) ++ L.doneClusters ++ L.doneDies
/-- A launch block: the record, then 128 bytes of such fields. -/
def launchBlock (L : Launch) (tail : List Byte) : List Byte := leBytes L.lrec 384 ++ tail
def saveMagic : Nat := 0x56534148
/-- The header but for its digest, as a number. -/
def saveHeader (p kind ctxmask nlaunch nteam length time : Nat) : Nat :=
  saveMagic + 2 ^ 32 + p % 256 * 2 ^ 256 + kind % 256 * 2 ^ 264 + ctxmask % 65536 * 2 ^ 272 + nlaunch % 2 ^ 32 * 2 ^ 288 +
    nteam % 2 ^ 32 * 2 ^ 320 + length % 2 ^ 32 * 2 ^ 352 + time % 2 ^ 64 * 2 ^ 384
/-- Bytes of the header before the digest. -/
def digestAt : Nat := 192
/-- The digest of an area: SHAKE256 over every byte but its own (R247). -/
def areaDigest (bs : List Byte) : BitVec 512 := hash512 (bs.take digestAt ++ bs.drop 256)

end Sys2Proof.Machine
end

