-- ==== Sys2Proof/Machine/FaultEv.lean ====
section
/-! DEFINITION. Held fault records (R231), the halt line and the stop of a partition's units (R237 to R239), quarter stops (R243). -/
namespace Sys2Proof.Machine
open Sys2Proof

/-! ## Held records -/

/-- FAULT_QUEUE_HELD_WRITE: the oldest held PAGE record is written once the ring has space (R231). -/
def execFaultQueueHeldWrite (p : Nat) (s : State) : Host.Outcome State Fault Refusal :=
  match (s.part p).heldRecs with
  | [] => .next s
  | b :: r => if (s.part p).fq.room then .next ((s.modPart p fun x => { x with heldRecs := r }).fqPush p b) else .next s

/-! ## The halt -/

/-- PARTITION_HALT: the hypervisor's HALT command (R224, R237, R255); a state that does not take it answers STATE. -/
def State.cmdHalt (s : State) (p : Nat) : State :=
  let x := s.part p
  if s.serving p then (s.modPart p fun x => { x with status := 0 }).halt p 0x27 0 none
  else s.modPart p fun x => { x with status := 7 }
def execPartitionHalt (p : Nat) (s : State) : Host.Outcome State Fault Refusal := whenReady s fun s => s.cmdHalt (p % 64)

/-- Every resident team of a partition is cancelled with all it holds (R131, R239): lanes, tiles, transfers, collectives, faults, stops. Soundings
in flight are lost (R275). PAGE records that are held stay so (R524). -/
def State.dropTeams (s : State) (p : Nat) : State :=
  let s0 := (s.lanes.filter fun l => l.part == p).foldl
    (fun s l => let n := (l.deferred.filter fun d => d.sounded != 0).length; if n = 0 then s else s.countLane l evSndLost n) s
  let s1 := (s0.teams.filter fun t => t.part == p).foldl State.freeTeam s0
  let qs := (s.part p).clusters
  { s1.modPart p fun x => { x with faults := [], unitsLeft := [], haltCause := none, haltWho := none, halting := false } with
    xfers := s1.xfers.filter fun x => x.part != p, colls := s1.colls.filter fun c => c.part != p,
    peers := s1.peers.filter fun r => r.part != p, frozen := s1.frozen.filter fun e => !qs.contains (e.quarter / 16) }

/-- The operator's copy of a stop record: the category keeps or zeroes its identity fields (R286, R288). -/
def State.opStop (s : State) (p : Nat) (pend team launch pc time skid cause unitId unit : Nat) : State :=
  let x := s.part p
  match (x.cat 5).gran with
  | 0 => s
  | 1 => s.modPart p fun x => { x with aggStop := x.aggStop + 1 }
  | g =>
    let fine := decide (4 ≤ g)
    s.stopRing (stopBits pend (if 3 ≤ g then team else 0) launch (if fine then pc else 0) (x.opTime 5 time) skid cause
      (if fine || unit != 1 then unitId else 0) unit)
/-- What a unit discards, and the team it ran: PEND, TEAM, LAUNCH, PC (R238). -/
def State.stopOf (s : State) (p : Nat) (u : Nat × Nat) : Nat × Nat × Nat × Nat :=
  if u.1 = 1 then
    let pend := ((s.lanes.filter fun l => l.part == p && l.quarter == u.2).map fun l =>
      (l.deferred.filter fun d => !immediateAccess d.instr).length).sum
    match s.lastWord.find? fun e => e.1 == u.2 with
    | some e =>
      if (s.team? e.2.tid).elim false (fun t => t.part == p) then (pend, e.2.index, e.2.seq, e.2.pc.toNat) else (pend, 0xFFFFFFFF, 0, e.2.pc.toNat)
    | none => (pend, 0xFFFFFFFF, 0, 0)
  else if u.1 = 2 then
    let c := s.cluster u.2
    match (c.table.find? (·.granted)).bind fun e => s.team? e.tid with
    | some t => (c.table.length + (c.waiting.filter fun e => e.cv.isSome).length, t.index, t.seq, 0)
    | none => (c.table.length + (c.waiting.filter fun e => e.cv.isSome).length, 0xFFFFFFFF, 0, 0)
  else (0, 0xFFFFFFFF, 0, 0)
/-- A unit writes its stop record to the stop area, if there is one, and to the PF (R238, R524). How many cycles it took is free (log
entry 12). -/
def State.stopUnit (s : State) (p : Nat) (u : Nat × Nat) : State :=
  let x := s.part p
  let n := x.units.length - x.unitsLeft.length
  let q := s.stopOf p u
  let c := s.readChron p
  let d := c.2.draw
  let skid := d.1 % 97
  let cause := x.haltCause.elim 0 (·.1)
  let t := c.1
  let rec' := stopBits q.1 q.2.1 q.2.2.1 q.2.2.2 t skid cause u.2 u.1
  let s1 := if x.stopbase = 0 then d.2 else (d.2.devWrite p (x.stopbase + 64 * n) (leBytes rec'.toNat 64)).1
  s1.opStop p q.1 q.2.1 q.2.2.1 q.2.2.2 t skid cause u.2 u.1
/-- After the last stop record (R239): the partition is HALTED; the PFAULT record; every launch of the window ends, FAILED for the one whose
team raised the cause and CANCEL for the others; lane, tile and scratch state is lost. -/
def State.haltDone (s : State) (p : Nat) : State :=
  let x := s.part p
  let c := x.haltCause.getD (0, 0)
  let w := x.haltWho.getD (launchWho 0)
  let s1 := (s.modPart p fun x => { x with state := .halted, halting := false }).record p
    { rec0 with kind := 6, reason := c.1, detail := c.2, launch := w.launch, team := w.team, quarter := w.quarter, group := w.group,
                lanes := w.lanes, pc := w.pc }
  let s2 := (s1.part p).window.foldl
    (fun s L => match s.launch? p L.seq with
      | some L => s.endLaunch p L (if L.failed || x.haltWho.elim false (fun w => w.launch == L.seq) then stFailed else stCancel)
      | none => s) s1
  (s2.dropTeams p).modPart p fun x => { x with pre := { x.pre with step := 0, checking := false }, hypStep := 0 }
/-- UNIT_STOP: the next unit of a halted partition stops (R237, R238). -/
def execUnitStop (p : Nat) (s : State) : Host.Outcome State Fault Refusal :=
  match (s.part p).unitsLeft with
  | [] => .next s
  | u :: r =>
    let s1 := (s.stopUnit p u).modPart p fun x => { x with unitsLeft := r }
    .next (if r.isEmpty then s1.haltDone p else s1)

/-- The stop of a halting partition runs to its end before a hypervisor's command acts (R239; log entry 56). -/
def State.finishHalt (s : State) (p : Nat) : State :=
  if (s.part p).halting then
    ((s.part p).unitsLeft.foldl (fun s u => (s.stopUnit p u).modPart p fun x => { x with unitsLeft := x.unitsLeft.drop 1 }) s).haltDone p
  else s

/-! ## Quarter stops (R243) -/

/-- The register results that a lane's frozen quarter holds back. -/
def Lane.pending (l : Lane) : List Deferred := l.deferred.filter fun d => d.wait == .ready
/-- The pending entries of a group with the images of its k results, each numbered from n on. -/
def pendEntries (dbgbase : Nat) (n : Nat) : List (Lane × Deferred) → List Byte × List (Nat × List Byte)
  | [] => ([], [])
  | e :: r =>
    let vs := e.2.vdst.flatMap fun x => leBytes (Config.pendingEntry e.1.id.slot x.1 0 x.2.toNat) 16
    let ks := (e.2.kdst.zipIdx).map fun x => (dbgbase + Config.imagePlace (n + x.2), x.1)
    let kb := ks.flatMap fun x => leBytes (Config.pendingEntry e.1.id.slot x.2.1 1 x.1) 16
    let m := pendEntries dbgbase (n + ks.length) r
    (vs ++ kb ++ m.1, (ks.map fun x => (x.1, leBytes (laImage x.2.2) 96)) ++ m.2)
/-- The dump of a quarter: each resident group's block and pending list, and the images, canonical all (R44, R243). -/
def State.dumpOf (s : State) (quarter dbgbase : Nat) : List Byte × List (Nat × List Byte) :=
  let gs := s.teams.flatMap fun t => (t.groups.filter fun g => !g.retired && quarterOf t.cluster g.idx == quarter).map fun g => (t, g)
  gs.foldl (fun acc e =>
    let ls := (s.groupLanes e.1.tid e.2.idx).flatMap fun l => l.pending.map fun x => (l, x)
    let q := pendEntries dbgbase acc.2.length ls
    (acc.1 ++ s.groupBlock e.1 e.2 none ++ q.1, acc.2 ++ q.2)) ([], [])
/-- Has everything returned to a frozen quarter, and has every lane of it stopped at its boundary? -/
def State.quarterStill (s : State) (quarter : Nat) : Bool :=
  s.lanes.all fun l => l.quarter != quarter ||
    (!l.issuing && !s.ready l && l.deferred.all fun d => d.wait == .ready || d.faulted)
/-- The device writes bytes that may span frames, line by line; dropped where R524 says. -/
def State.devWrites (s : State) (p a : Nat) : Nat → List Byte → State
  | 0, _ => s
  | k + 1, bs => if bs.isEmpty then s else ((s.devWrite p a (bs.take (128 - a % 128))).1).devWrites p (a + (128 - a % 128)) k (bs.drop (128 - a % 128))
/-- QSTOP_DUMP: once every outstanding result has returned, the dump and the QSTOP record are written (R243). -/
def execQstopDump (quarter : Nat) (s : State) : Host.Outcome State Fault Refusal :=
  if !s.quarterStill quarter then .next s
  else
    match s.frozen.find? (fun e => e.quarter == quarter && !e.dumped), s.partOf (quarter / 16) with
    | none, _ | _, none => .next s
    | some f, some p =>
      let base := (s.part p).dbgbase
      let q := s.dumpOf quarter base
      let s1 := s.devWrites p base q.1.length q.1
      let s2 := q.2.foldl (fun s e => s.devWrites p e.1 e.2.length e.2) s1
      let s3 : State := { s2 with frozen := s2.frozen.map fun e => if e.quarter = quarter then { e with dumped := true } else e }
      .next (s3.record p
        { rec0 with kind := 7, quarter := quarter, detail := base, launch := f.who.launch, team := f.who.team, group := f.who.group,
                    lanes := f.who.lanes, pc := f.who.pc })
/-- Write a lane's results that have returned, with their flags. -/
def State.writePending (s : State) (l : Lane) : State :=
  l.pending.foldl
    (fun s d => s.onLane l.id fun s l => s.writeResult l d) s
/-- A write of QRESUME: the pending list is written and the quarter goes on; its lanes are ready from now on (R75, R243). -/
def State.resumeQuarter (s : State) (p quarter : Nat) : State :=
  if s.isFrozen quarter && (s.part p).clusters.contains (quarter / 16) then
    let s1 : State :=
      { s with frozen := s.frozen.filter fun e => e.quarter != quarter,
               lanes := s.lanes.map fun l => if l.quarter = quarter then { l with since := max l.since s.cycle } else l }
    let ls := s1.lanes.filter fun l => l.quarter == quarter
    let s2 := ls.foldl State.writePending s1
    s2.settle (ls.map (·.id))
  else s
/-- QRESUME. -/
def execQresume (p : Nat) (quarter : Word) (s : State) : Host.Outcome State Fault Refusal :=
  .next (s.viaVf p 0x3070 4 (quarter.setWidth 64) fun s => s.resumeQuarter p quarter.toNat)

end Sys2Proof.Machine
end

