-- ==== Sys2Proof/Machine/Frames.lean ====
section
/-! DEFINITION. Leases of translations (R140, R141), the frame ownership table and its scrub (R143 to R146), capacity extents (R147,
R148), PTSYNC (R142). -/
namespace Sys2Proof.Machine
open Sys2Proof

/-! ## Translations -/

/-- TLB_LEASE_EXPIRY: a cached translation whose lease has ended is gone (R140, R141). -/
def execTlbLeaseExpiry (n : Nat) (s : State) : Host.Outcome State Fault Refusal :=
  .next { s with tlb := s.tlb.filter fun e => !(e.n == n && decide (e.ends ≤ 7 * s.time)) }
/-- A read of PTSYNC through a function: it returns zero once every write that the host issued before is performed (R142). -/
def State.ptsync (s : State) (f : Fn) (width : Nat) : State := s.hostAccess { addr := 0, n := 0, data := none, sync := some (f, width) }
/-- PTSYNC_READ. -/
def execPtsyncRead (p : Nat) (s : State) : Host.Outcome State Fault Refusal := .next (s.ptsync (s.part p).primary 4)

/-! ## The frame ownership table -/

def fotFrames : Nat := 8388608
/-- The colour of a frame (R120). -/
def frameColour (frame : Nat) : Nat := frame % 64
/-- What is wrong with a write of an entry (R146): 3 RANGE, 2 SEQUENCE, 1 COLOUR, 0 OK. -/
def State.fotStatus (s : State) (frame : Nat) (v : BitVec 16) : Nat :=
  let old := s.fotOf frame
  let badColour := fld (s.part (fotOwner v)).colours (frameColour frame) 1 == 0
  if fotFrames ≤ frame ∨ s.reserved.contains frame then 3
  else if fotState old = 2 ∨ (fotState old = 1 ∧ fotState v ≠ 2 ∧ fotOwner v ≠ fotOwner old) ∨ (fotState old = 1 ∧ fotState v = 0) then 2
  else if badColour ∧ ((fotState old = 0 ∧ (fotState v = 1 ∨ fotState v = 3)) ∨ (fotState v = 2 ∧ !fotThenFree v)) then 1
  else 0
/-- The recall that begins a scrub (R145): every token comes home, data, partials and cached copies are discarded, pins break. -/
def State.recall (s : State) (frame : Nat) : State :=
  let here := fun ln : Nat => ln / 512 == frame
  let s1 := ((s.lines.filter fun e => here e.1 && decide (0 < e.2.holds[9].t)).map (·.1)).foldl (fun s ln => s.emit (.bisnp ln true)) s
  let s2 : State :=
    { s1 with lines := s1.lines.filter (fun e => !here e.1), net := s1.net.filter (fun m => !here m.line),
              clusters := s1.clusters.map fun e => (e.1, { e.2 with l1 := e.2.l1.filter fun x => !here x.line }),
              fronts := tdel frame s1.fronts }
  s2.breakPins (fun p => p.row / 64 == frame) 3
/-- Write SCRUB into a frame's entry (R145). -/
def State.scrub (s : State) (frame : Nat) (v : BitVec 16) : State :=
  { s.recall frame with fot := tset frame v s.fot }
/-- A write of FOTDATA (R143, R146). -/
def State.writeFot (s : State) (v : BitVec 16) : State :=
  let frame := s.fotidx
  let st := s.fotStatus frame v
  let e := v &&& 0xFF80
  let s1 : State := { s with fotstat := st }
  if st ≠ 0 then s1
  else if fotState v = 2 then s1.scrub frame e
  else { s1 with fot := tset frame e s1.fot }
/-- FOTDATA_WRITE. -/
def execFotdataWrite (v : BitVec 16) (s : State) : Host.Outcome State Fault Refusal := whenReady s fun s => s.writeFot v

/-- The entry of a frame whose scrub has ended (R145). -/
def fotEnded (e : BitVec 16) : BitVec 16 :=
  BitVec.ofNat 16 (fotOwner e * 2 ^ 10 + (if fotThenFree e then 0 else 2 ^ 8))
/-- SCRUB_FRONT_ADVANCE: the front writes zeros to its line and moves on; after the last line the frame is OWNED or FREE (R145). -/
def execScrubFrontAdvance (frame : Nat) (s : State) : Host.Outcome State Fault Refusal :=
  let e := s.fotOf frame
  if fotState e ≠ 2 ∨ s.reserved.contains frame ∨ s.d3 = true then .next s
  else
    let f := s.frontOf frame
    let s1 := if f < 512 then s.passFront (65536 * frame + 128 * f) else s
    if f < 511 then .next s1
    else .next { s1 with fot := tset frame (fotEnded e) s1.fot, fronts := tdel frame s1.fronts }

/-! ## Capacity extents -/

def State.extent? (s : State) (n : Nat) : Option Extent := (s.extents.find? fun e => e.1 == n).map (·.2)
/-- Does the extent hold this line? -/
def Extent.covers (x : Extent) (ln : Nat) : Bool := decide (2 ^ 44 + x.off ≤ 128 * ln) && decide (128 * ln < 2 ^ 44 + x.off + x.len)
/-- An extent's offset and length are multiples of 2 MiB (R147). -/
def Extent.fitted (x : Extent) : Extent := { x with off := floorTo 21 x.off, len := floorTo 21 x.len, owner := x.owner % 64 }
/-- The number of an extent's state. -/
def extentCode : ExtState → Nat
  | .free => 0
  | .live => 1
  | .draining => 2
/-- An entry takes a value; the bits it then reads as are the model's free value (log entry 16). -/
def State.setExtent (s : State) (n : Nat) (x : Extent) : State :=
  { s with extents := tset n x s.extents, extRaw := tset n (Config.extentRaw x.off x.hpa x.len x.owner (extentCode x.state) % 2 ^ 256) s.extRaw }
/-- EXTENT_ENTRY_WRITE: the entry takes the value written (R147). Clean lines that the L3 holds of an entry rewritten while it is LIVE stay
there, under the aperture addresses they were filled at: the spec has an extent drained first (R148) and says nothing of this (DESIGN CHOICE,
log entry 57). -/
def execExtentEntryWrite (n : Nat) (x : Extent) (s : State) : Host.Outcome State Fault Refusal :=
  whenReady s fun s => if n < 256 then s.setExtent n (Extent.fitted x) else s
/-- EXTENT_DRAIN: a LIVE entry is set DRAINING; accesses to it fault from now on (R148). -/
def execExtentDrain (n : Nat) (s : State) : Host.Outcome State Fault Refusal :=
  whenReady s fun s =>
    match s.extent? n with
    | some x => if x.state = .live then s.setExtent n { x with state := .draining } else s
    | none => s
/-- Every line of an extent leaves its home slice with what is known of its poison (R148). -/
def State.dropExtent (s : State) (x : Extent) : State :=
  let s1 := ((s.capLines.map (·.1)).filter (Extent.covers x)).foldl State.capDrop s
  { s1 with l3 := s1.l3.map fun e => (e.1, e.2.filter fun ln => !Extent.covers x ln), poison := s1.poison.filter fun ln => !Extent.covers x ln }
/-- EXTENT_DRAIN_COMPLETE: the homes have written back the extent's dirty lines and dropped its lines; the entry reads FREE (R148). -/
def execExtentDrainComplete (n : Nat) (s : State) : Host.Outcome State Fault Refusal :=
  match s.extent? n with
  | some x =>
    if x.state = .draining then
      .next ((s.dropExtent x).setExtent n { x with state := .free })
    else .next s
  | none => .next s
/-- The entry that a register write makes of an entry x and its 256 bits: a field whose bits the write has not changed keeps its value; where
a field's bits lie is the model's free value (log entry 16). -/
def extentOfRaw (x : Extent) (old raw : Nat) : Extent :=
  let pick := fun (i keep : Nat) => if Config.extentField i raw = Config.extentField i old then keep else Config.extentField i raw
  { off := pick 0 x.off, hpa := pick 1 x.hpa, len := pick 2 x.len, owner := pick 3 x.owner,
    state := match pick 4 (extentCode x.state) % 3 with | 0 => .free | 1 => .live | _ => .draining }

end Sys2Proof.Machine
end

