-- ==== Sys2Proof/Machine/GlobalMem.lean ====
section
/-! DEFINITION. Global loads and stores, k fills and spills, prefetch and cache operations (R370, R371, R430 to R433, R444,
R445, R468, R486 to R488). -/
namespace Sys2Proof.Machine
open Sys2Proof

/-! ## LD (R444, R445) -/

/-- LD: an address at or above 2^57 is refused at the word; other faults are deferred. -/
def ldWord (i : Instr) (s : State) : Host.Outcome State Fault Refusal :=
  accessWord i s fun s l srcs =>
    if 2 ^ 57 ≤ eaSrc i srcs then s.setLane (l.pageHere (pageFault 4 (eaSrc i srcs) .read))
    else if !l.room then s.setLane l.stall
    else s.noteAccess l i srcs

/-- LD.b8. -/
def execLdB8 (d a : VReg) (e : Scope) (o : Order) (f : Bool) (i : BitVec 6) (s : State) : Host.Outcome State Fault Refusal :=
  ldWord (.ldB8 d a e o f i) s
/-- LD.b16. -/
def execLdB16 (d a : VReg) (e : Scope) (o : Order) (f : Bool) (i : BitVec 6) (s : State) : Host.Outcome State Fault Refusal :=
  ldWord (.ldB16 d a e o f i) s
/-- LD.b32. -/
def execLdB32 (d a : VReg) (e : Scope) (o : Order) (f : Bool) (i : BitVec 6) (s : State) : Host.Outcome State Fault Refusal :=
  ldWord (.ldB32 d a e o f i) s
/-- LD.b64. -/
def execLdB64 (d a : VReg) (e : Scope) (o : Order) (f : Bool) (i : BitVec 6) (s : State) : Host.Outcome State Fault Refusal :=
  ldWord (.ldB64 d a e o f i) s
/-- LD.b128. -/
def execLdB128 (d a : VReg) (e : Scope) (o : Order) (f : Bool) (i : BitVec 6) (s : State) : Host.Outcome State Fault Refusal :=
  ldWord (.ldB128 d a e o f i) s

/-! ## ST (R486 to R488) -/

/-- ST of the low bytes of the registers from d: precise faults; lanes of one bundle in ascending slot (R488). -/
def stWord (i : Instr) (s : State) (d : VReg) : Host.Outcome State Fault Refusal :=
  accessWord i s fun s l srcs =>
    let ea := eaSrc i srcs
    let bs := leBytes (wordsNat (l.vs d ((spanOf i + 3) / 4))) (spanOf i)
    let r := s.store l ea bs
    r.1.endAccess l i srcs (.write bs) ea 0 r.2

/-- ST.b8. -/
def execStB8 (d a : VReg) (e : Scope) (o : Order) (i : BitVec 6) (s : State) : Host.Outcome State Fault Refusal :=
  stWord (.stB8 d a e o i) s d
/-- ST.b16. -/
def execStB16 (d a : VReg) (e : Scope) (o : Order) (i : BitVec 6) (s : State) : Host.Outcome State Fault Refusal :=
  stWord (.stB16 d a e o i) s d
/-- ST.b32. -/
def execStB32 (d a : VReg) (e : Scope) (o : Order) (i : BitVec 6) (s : State) : Host.Outcome State Fault Refusal :=
  stWord (.stB32 d a e o i) s d
/-- ST.b64. -/
def execStB64 (d a : VReg) (e : Scope) (o : Order) (i : BitVec 6) (s : State) : Host.Outcome State Fault Refusal :=
  stWord (.stB64 d a e o i) s d
/-- ST.b128. -/
def execStB128 (d a : VReg) (e : Scope) (o : Order) (i : BitVec 6) (s : State) : Host.Outcome State Fault Refusal :=
  stWord (.stB128 d a e o i) s d

/-! ## KLD and KST (R430 to R433) -/

/-- KLD. -/
def execKld (k : KReg) (a : VReg) (e : Scope) (o : Order) (f : Bool) (i : BitVec 7) (s : State) : Host.Outcome State Fault Refusal :=
  accessWord (.kld k a e o f i) s fun s l srcs =>
    if !l.room then s.setLane l.stall else s.noteAccess l (.kld k a e o f i) srcs
/-- KST writes the canonical image, past the L1 (R117, R433); a peer page denies it (R299). -/
def execKst (k : KReg) (a : VReg) (e : Scope) (o : Order) (i : BitVec 7) (s : State) : Host.Outcome State Fault Refusal :=
  accessWord (.kst k a e o i) s fun s l srcs =>
    let ea := eaSrc (.kst k a e o i) srcs
    let bs := leBytes (laImage (l.getK k)) 96
    let r := s.storeVia (s.via l) ea bs
    match r.2 with
    | .peer _ => r.1.setLane (l.pageHere (pageFault 2 ea .write))
    | q => r.1.endAccess l (.kst k a e o i) srcs (.write bs) ea 0 q

/-! ## PREF (R468) -/

/-- Fetch a line to a level: nothing is refused aloud, and no value changes. -/
def State.prefetch (s : State) (l : Lane) (ea level : Nat) : State :=
  if 2 ^ 57 ≤ ea then s
  else
    let r := s.translate { s.who l with quiet := true } ea .read
    let s1 := r.1
    match r.2 with
    | .fault _ | .wait => s1
    | .ok x =>
      let ln := x.addr / 128
      let p := l.part
      let ctx := some (s1.laneCtx l)
      let agent : Fin 10 := Fin.ofNat 10 (l.die % 4)
      if x.attr = .device ∨ x.attr = .hostc ∨ !inHbm x.addr then s1
      else if s1.ownCheck p x.addr false != .performed || (s1.codeFrame p x.addr).isSome || s1.poisoned x ||
          s1.lineBusy ln agent false then s1
      else if level = 2 then s1.l3Touch p ctx ln
      else
        let s2 := s1.takeShared ln agent p ctx
        if level = 0 ∧ x.attr = .normal then s2.fillL1 l.cluster l.core ln (readNat s2.mem (128 * ln) 128) else s2

/-- PREF. -/
def execPref (a : VReg) (l : Fin 8) (s : State) : Host.Outcome State Fault Refusal :=
  guarded (.pref a l) s fun s => eachActive s fun s x => (s.prefetch x (x.pair a).toNat l.val).setLane (x.adv 4)

/-! ## CINV and CFLUSH (R370, R371) -/

/-- Clear presence bits of one line: the core's, or at cluster scope or wider all four. -/
def State.dropL1 (s : State) (l : Lane) (ln : Nat) (e : Scope) : State :=
  if (s.cluster l.cluster).l1.any (fun x => x.line == ln) then
    s.modCluster l.cluster fun c =>
      { c with l1 := c.l1.map fun x =>
          if x.line = ln then { x with mask := if wide e then 0 else x.mask &&& ~~~ BitVec.twoPow 4 l.core } else x }
  else s
/-- The host port writes a dirty line back to host memory and drops it (R170, R371). -/
def State.hostDrop (s : State) (h : Nat) : State :=
  match s.hostLines.find? fun e => e.1 == h with
  | none => s
  | some e =>
    let s1 : State := { s with hostLines := tdel h s.hostLines }
    if e.2.dirty then { s1 with hostMem := writeBytes s1.hostMem (64 * h) e.2.data } else s1
/-- The write-back of CFLUSH at device or system scope; it waits while the line's tokens are with the host, and takes DATA_UE where its fold
discards partials (R175). -/
def State.writeBackLine (s : State) (l : Lane) (x : Phys) (e : Scope) : State × Res :=
  let done := Res.data []
  match x.attr with
  | .device => (s, done)
  | .hostc => (if e = .system then (s.hostDrop (x.addr / 64)) else s, done)
  | _ =>
    let ln := x.addr / 128
    if inCap x.addr then (if e = .system then s.capBack ln else s, done)
    else if !inHbm x.addr || s.ownCheck l.part x.addr false != .performed then (s, done)
    else if s.away ln || s.lineBusy ln home false then (s.askTokens ln false, .busy)
    else
      let ctx := some (s.laneCtx l)
      let q := s.foldFor (s.via l) ln
      if q.2 then (q.1, .ue true) else ((q.1.homeObtain ln l.part ctx).hbmEnqueue l.part ctx x.addr, done)

/-- CINV and CFLUSH translate as a one-byte load: a page of an admitted object denies them (R193). Presence bits go whatever attribute the
page that names the line has. -/
def cacheWord (i : Instr) (s : State) (a : VReg) (e : Scope) (flush : Bool) : Host.Outcome State Fault Refusal :=
  guarded i s fun s => eachActive s fun s l =>
    let ea := (l.pair a).toNat
    let r := s.translate (s.who l) ea .read
    match r.2 with
    | .fault f => r.1.setLane (l.pageHere f)
    | .wait => r.1.setLane l.stall
    | .ok x =>
      if (r.1.codeAt l.part x.codeKey).isSome then r.1.setLane (l.pageHere (pageFault 2 ea .read))
      else
        let s1 := if x.attr = .hostc then r.1 else r.1.dropL1 l (x.addr / 128) e
        let q := if flush && (e == .device || e == .system) then s1.writeBackLine l x e else (s1, .data [])
        q.1.endAccess l i [] (.read 1) ea 2 q.2

/-- CINV. -/
def execCinv (a : VReg) (e : Scope) (s : State) : Host.Outcome State Fault Refusal := cacheWord (.cinv a e) s a e false
/-- CFLUSH. -/
def execCflush (a : VReg) (e : Scope) (s : State) : Host.Outcome State Fault Refusal := cacheWord (.cflush a e) s a e true

end Sys2Proof.Machine
end

