-- ==== Sys2Proof/Machine/Hbm.lean ====
section
/-! DEFINITION. The HBM controllers (R123 to R127, R132): which request is served, refresh, hot rows, the age cap. Times within the
DRAM are not modelled (log entry 19). -/
namespace Sys2Proof.Machine
open Sys2Proof

def State.dbank (s : State) (k : Nat) : Bank := tget dbank0 k s.banks
def State.modBank (s : State) (k : Nat) (f : Bank → Bank) : State := { s with banks := tmod dbank0 k f s.banks }
def HbmReq.row (r : HbmReq) : Nat := rowOf r.dpa
def HbmReq.bank (r : HbmReq) : Nat := bankKey (hbmPc r.dpa) (hbmBank r.dpa)
def HbmReq.sag (r : HbmReq) : Nat := hbmSag r.dpa

/-- Is another row of the request's subarray group pinned, so that it waits (R132)? -/
def State.heldOff (s : State) (r : HbmReq) : Bool := s.pinConflict r.row
/-- Is the row the request names pinned (R127)? -/
def State.rowPinned (s : State) (row : Nat) : Bool := s.pins.any fun p => p.live && p.row == row
/-- A request that finds its row open (R124, R127). -/
def State.rowHit (s : State) (r : HbmReq) : Bool := s.openRow r.bank r.sag == some r.row
/-- Has a request waited longer than the cap (R124)? -/
def State.overAge (s : State) (r : HbmReq) : Bool := r.expired || decide (s.agecap < s.cycle - r.age)

/-- Open a row: an activation, counted, and added to the row's hot count unless it is pinned (R126, R127). -/
def State.openRowFor (s : State) (r : HbmReq) : State :=
  let s1 := s.modBank r.bank fun b =>
    { b with openRow := tset r.sag (r.row + 1) b.openRow, acts := if s.rowPinned r.row then b.acts else tmod 0 r.row (· + 1) b.acts }
  s1.count r.part r.ctx evHbmAct 1
/-- A ROWPIN that waits for its row has its status written once the row is open (R129). -/
def Deferred.opened (row : Nat) (d : Deferred) : Deferred :=
  match d.instr with
  | .rowpin _ _ => if d.wait = .engine row then { d with wait := .ready } else d
  | _ => d
def State.rowOpened (s : State) (row : Nat) : State :=
  { s with lanes := s.lanes.map fun l =>
      { l with deferred := l.deferred.map (Deferred.opened row), replay := l.replay.map (Deferred.opened row) } }
/-- A row whose count has passed the threshold is hot: its requests move to the bank's side queue (R126). -/
def State.heatRow (s : State) (k row : Nat) : State :=
  let b := s.dbank k
  if s.hotthr < tget 0 row b.acts ∧ !b.hot.contains row then
    let q := tget [] (k / 16) s.hbmq
    let hot := q.filter fun r => r.bank == k && r.row == row
    { s.modBank k fun b => { b with hot := b.hot ++ [row] } with
      hbmq := tset (k / 16) (q.filter fun r => !(r.bank == k && r.row == row)) s.hbmq,
      sideq := tmod [] k (· ++ hot) s.sideq }
  else s
/-- Serve a request. -/
def State.serveReq (s : State) (r : HbmReq) : State :=
  let s1 := if s.rowHit r then s.count r.part r.ctx evHbmHit 1 else s.openRowFor r
  (s1.rowOpened r.row).heatRow r.bank r.row
/-- Serve a side queue's request (R126): one activation of its row, after a mitigation refresh of the neighbours; a row that a pin holds
open is a row hit with neither (R127). -/
def State.serveSide (s : State) (r : HbmReq) : State :=
  let s1 : State := { s with sideq := tmod [] r.bank (fun q => q.filter fun x => x.id != r.id) s.sideq }
  if s1.heldRow r.dpa then s1.serveReq r
  else
    let s2 := (s1.openRowFor r).count r.part r.ctx evHotThrottle 1
    (s2.modBank r.bank fun b => { b with refreshes := b.refreshes + 1 }).rowOpened r.row
/-- The pin that holds a request off breaks, with reason AGE (R132). -/
def State.breakFor (s : State) (r : HbmReq) : State :=
  s.breakPins (fun p => p.row != r.row && rowBank p.row == r.bank && rowSag p.row == r.sag) 2
/-- Serve a request, breaking the pin that holds it off. -/
def State.serveFreed (s : State) (r : HbmReq) : State := (s.breakFor r).serveReq r
def State.dropReq (s : State) (pc id : Nat) : State := { s with hbmq := tmod [] pc (fun q => q.filter fun r => r.id != id) s.hbmq }

/-! ## The order of service (R124) -/

/-- The request of a list that comes first: row hits before row misses, then the older. -/
def State.firstReq (s : State) : List HbmReq → Option HbmReq
  | [] => none
  | r :: rest =>
    match s.firstReq rest with
    | none => some r
    | some q => some (if s.rowHit q && !s.rowHit r then q else if s.rowHit r && !s.rowHit q then r else if q.age < r.age then q else r)
/-- The oldest request of a list. -/
def oldestReq : List HbmReq → Option HbmReq
  | [] => none
  | r :: rest =>
    match oldestReq rest with
    | none => some r
    | some q => some (if q.age < r.age then q else r)

def deficitKey (pc p : Nat) : Nat := pc * 64 + p
/-- The weight of a partition in the round-robin: its share, in units of 1/256. -/
def State.weight (s : State) (p : Nat) : Nat := max (s.part p).share 1
/-- Rounds a partition needs until it has the credit of one request. -/
def State.roundsFor (s : State) (pc p : Nat) : Nat := (256 - tget 0 (deficitKey pc p) s.deficits + s.weight p - 1) / s.weight p
/-- The deficit round-robin (R124): the partition served next, and the credits after; every partition with a request gains its
weight in each round, and a request costs one unit of 256. -/
def State.nextShare (s : State) (pc : Nat) (ps : List Nat) : Option (Nat × Tbl Nat) :=
  match ps with
  | [] => none
  | a :: r =>
    let rounds := r.foldl (fun n p => min n (s.roundsFor pc p)) (s.roundsFor pc a)
    let t := ps.foldl (fun t p => tmod 0 (deficitKey pc p) (· + rounds * s.weight p) t) s.deficits
    (ps.find? fun p => decide (256 ≤ tget 0 (deficitKey pc p) t)).map fun p => (p, tmod 0 (deficitKey pc p) (· - 256) t)

/-- Does an older request past the cap bar a request of its bank: a row hit, or one past the cap too (R124)? -/
def State.barred (s : State) (q : List HbmReq) (r : HbmReq) : Bool :=
  (s.rowHit r || s.overAge r) &&
    q.any fun e => s.overAge e && e.bank == r.bank && (decide (e.age < r.age) || (e.age == r.age && decide (e.id < r.id)))
/-- The request a controller serves next, and the credits after: by shares among those that nothing bars; one past the cap is served
whether a pin holds it off or not (R132). -/
def State.pickReq (s : State) (pc : Nat) : Option (HbmReq × Tbl Nat) :=
  let all := tget [] pc s.hbmq
  let q := all.filter fun r => (!s.heldOff r || s.overAge r) && !s.barred all r
  match s.nextShare pc (q.map (·.part)).eraseDups with
  | none => none
  | some d => (s.firstReq (q.filter fun r => r.part == d.1)).map fun r => (r, d.2)
/-- What a controller does while the HBM is not in self-refresh (R308). -/
def whenAwake (s : State) (f : State → Host.Outcome State Fault Refusal) : Host.Outcome State Fault Refusal := if s.d3 then .next s else f s

/-! ## The events -/

/-- HBM_REQUEST_SERVED (R124, R126, R127). -/
def execHbmRequestServed (pc : Nat) (s : State) : Host.Outcome State Fault Refusal :=
  whenAwake s fun s => match s.pickReq (pc % 512) with
  | none => .next s
  | some r => .next (({ s with deficits := r.2 }.dropReq (pc % 512) r.1.id).serveFreed r.1)
/-- A request found in a set of queues by its number, with its queue's key. -/
def findReq (req : Nat) (qs : Tbl (List HbmReq)) : Option (Nat × HbmReq) :=
  qs.findSome? fun e => (e.2.find? fun r => r.id == req).map fun r => (e.1, r)
/-- AGECAP_EXPIRY: a request has waited longer than the cap. The oldest such of its bank that a pin holds off, in the main queue or the
side queue, breaks the pin and is served; another goes before the younger ones of its bank from now on (R124, R132). -/
def execAgecapExpiry (req : Nat) (s : State) : Host.Outcome State Fault Refusal :=
  whenAwake s fun s => match findReq req s.hbmq, findReq req s.sideq with
  | some x, _ =>
    if s.cycle - x.2.age ≤ s.agecap then .next s
    else if s.heldOff x.2 ∧ (oldestReq (((tget [] x.1 s.hbmq).filter fun r => r.bank == x.2.bank).filter s.overAge)).map (·.id) = some req then
      .next ((s.dropReq x.1 req).serveFreed x.2)
    else .next { s with hbmq := tmod [] x.1 (fun q => q.map fun y => if y.id = req then { y with expired := true } else y) s.hbmq }
  | none, some x =>
    if s.cycle - x.2.age ≤ s.agecap then .next s
    else if s.heldOff x.2 ∧ (oldestReq ((tget [] x.1 s.sideq).filter s.overAge)).map (·.id) = some req then
      .next ((s.breakFor x.2).serveSide x.2)
    else .next { s with sideq := tmod [] x.1 (fun q => q.map fun y => if y.id = req then { y with expired := true } else y) s.sideq }
  | none, none => .next s
/-- BANK_REFRESH (R125, R132): a bank with a pin owes it; the eighth owed breaks the bank's pins and performs all that are owed. In
self-refresh the HBM refreshes itself (R308). -/
def execBankRefresh (pc bank : Nat) (s : State) : Host.Outcome State Fault Refusal :=
  whenAwake s fun s =>
  let k := bankKey (pc % 512) (bank % 16)
  let b := s.dbank k
  let pinned := s.pins.any fun p => p.live && rowBank p.row == k
  if pinned && decide (b.owed + 1 < 8) then .next (s.modBank k fun b => { b with owed := b.owed + 1 })
  else
    .next ((s.breakPins (fun p => rowBank p.row == k) 1).modBank k fun b =>
      { b with owed := 0, refreshes := b.refreshes + b.owed + 1, openRow := [] })
/-- HOT_SIDE_ACTIVATION (R126): the side queue's oldest request is served; one past the cap breaks a pin that holds it off (R132). -/
def execHotSideActivation (pc bank : Nat) (s : State) : Host.Outcome State Fault Refusal :=
  whenAwake s fun s =>
  let k := bankKey (pc % 512) (bank % 16)
  match oldestReq ((tget [] k s.sideq).filter fun r => !s.heldOff r || s.overAge r) with
  | none => .next s
  | some r => .next ((s.breakFor r).serveSide r)
/-- HOT_WINDOW_END (R126): counts begin afresh, and the side queues' requests return to the main queue. -/
def execHotWindowEnd (pc : Nat) (s : State) : Host.Outcome State Fault Refusal :=
  .next ((List.range 16).foldl
    (fun s i =>
      let k := bankKey (pc % 512) i
      { s.modBank k fun b => { b with acts := [], hot := [] } with
        hbmq := tmod [] (pc % 512) (· ++ tget [] k s.sideq) s.hbmq, sideq := tdel k s.sideq }) s)

end Sys2Proof.Machine
end

