-- ==== Sys2Proof/Machine/Integer.lean ====
section
/-! DEFINITION. The integer instructions (R351, R359, R360, R364, R373, R418 to R421, R441, R448, R452, R453, R464,
R467, R478 to R480, R495): each a function of the lane's words, immediate, without flags. -/
namespace Sys2Proof.Machine
open Sys2Proof

/-! ## Word functions -/

/-- Signed quotient and remainder with the corners of R421. -/
def divS (a b : Word) : Word × Word :=
  if b = 0 then (0xFFFFFFFF, a)
  else if a = 0x80000000 ∧ b = 0xFFFFFFFF then (0x80000000, 0)
  else (BitVec.ofInt 32 (a.toInt.tdiv b.toInt), BitVec.ofInt 32 (a.toInt.tmod b.toInt))
/-- Unsigned quotient and remainder (R421). -/
def divU (a b : Word) : Word × Word :=
  if b = 0 then (0xFFFFFFFF, a) else (BitVec.ofNat 32 (a.toNat / b.toNat), BitVec.ofNat 32 (a.toNat % b.toNat))
/-- |a| as signed; 0x80000000 stays (R418). -/
def absW (a : Word) : Word := if a.toInt < 0 then 0 - a else a
/-- The number of set bits (R467). -/
def popcW (a : Word) : Word := BitVec.ofNat 32 ((List.range 32).filter a.getLsbD).length
/-- The number of zero bits above the highest set bit (R373). -/
def clzW (a : Word) : Word := if a = 0 then 32 else BitVec.ofNat 32 (31 - Nat.log2 a.toNat)
/-- Bit i of the result is bit 31 - i of a (R364). -/
def brevW (a : Word) : Word := BitVec.ofNat 32 (((List.range 32).map fun i => if a.getLsbD i then 2 ^ (31 - i) else 0).sum)
/-- Start and length of a bit field (R359). -/
def fieldOf (b : Word) : Nat × Nat :=
  let p := min (fld b.toNat 0 8) 32
  (p, min (fld b.toNat 8 8) (32 - p))
/-- An extracted bit field, sign-extended or not (R359). -/
def bfeW (sign : Bool) (a b : Word) : Word :=
  let q := fieldOf b
  let f := fld a.toNat q.1 q.2
  if sign then BitVec.ofInt 32 (if q.2 = 0 then 0 else signedOf q.2 f) else BitVec.ofNat 32 f
/-- Insert the low n bits of a into d at p (R360). -/
def bfiW (d a b : Word) : Word :=
  let q := fieldOf b
  let mask : Word := BitVec.ofNat 32 (2 ^ q.2 - 1) <<< q.1
  (d &&& ~~~ mask) ||| ((a <<< q.1) &&& mask)
def shlW (a : Word) (s : Nat) : Word := BitVec.ofNat 32 (a.toNat * 2 ^ min s 32)
def shrW (a : Word) (s : Nat) : Word := BitVec.ofNat 32 (a.toNat / 2 ^ min s 32)
def sarW (a : Word) (s : Nat) : Word := BitVec.ofInt 32 (a.toInt / 2 ^ min s 31)
def shfW (d a : Word) (s : Nat) : Word := BitVec.ofNat 32 ((a.toNat * 2 ^ 32 + d.toNat) / 2 ^ min s 32)
/-- A compare condition (R420). -/
def condHolds (k : Cond) (a b : Word) : Bool :=
  match k with
  | .eq => a == b
  | .ne => a != b
  | .lt => decide (a.toInt < b.toInt)
  | .le => decide (a.toInt ≤ b.toInt)
  | .gt => decide (a.toInt > b.toInt)
  | .ge => decide (a.toInt ≥ b.toInt)
  | .lo => decide (a.toNat < b.toNat)
  | .hs => decide (a.toNat ≥ b.toNat)
/-- A sign-extended immediate. -/
def sx {w : Nat} (i : BitVec w) : Word := i.signExtend 32

/-! ## Shapes -/

/-- v[d] := f v[a] v[b]. -/
def binOp (i : Instr) (s : State) (d a b : VReg) (f : Word → Word → Word) : Host.Outcome State Fault Refusal :=
  laneOp i s fun l => l.setV d (f (l.getV a) (l.getV b))
/-- v[d] := f v[d] v[a] v[b]. -/
def triOp (i : Instr) (s : State) (d a b : VReg) (f : Word → Word → Word → Word) : Host.Outcome State Fault Refusal :=
  laneOp i s fun l => l.setV d (f (l.getV d) (l.getV a) (l.getV b))
/-- v[d] := f v[a]. -/
def unOp (i : Instr) (s : State) (d a : VReg) (f : Word → Word) : Host.Outcome State Fault Refusal :=
  laneOp i s fun l => l.setV d (f (l.getV a))

/-! ## The instructions -/

/-- IADD (R419). -/
def execIadd (d a b : VReg) (s : State) : Host.Outcome State Fault Refusal :=
  binOp (.iadd d a b) s d a b (fun x y => x + y)
/-- ISUB (R419). -/
def execIsub (d a b : VReg) (s : State) : Host.Outcome State Fault Refusal :=
  binOp (.isub d a b) s d a b (fun x y => x - y)
/-- IMUL (R419). -/
def execImul (d a b : VReg) (s : State) : Host.Outcome State Fault Refusal :=
  binOp (.imul d a b) s d a b (fun x y => x * y)
/-- IMULH .i32 (R419). -/
def execImulhI32 (d a b : VReg) (s : State) : Host.Outcome State Fault Refusal :=
  binOp (.imulhI32 d a b) s d a b (fun x y => BitVec.ofInt 32 (x.toInt * y.toInt / 2 ^ 32))
/-- IMULH .n32 (R419). -/
def execImulhN32 (d a b : VReg) (s : State) : Host.Outcome State Fault Refusal :=
  binOp (.imulhN32 d a b) s d a b (fun x y => BitVec.ofNat 32 (x.toNat * y.toNat / 2 ^ 32))
/-- IDIV .i32 (R421). -/
def execIdivI32 (d a b : VReg) (s : State) : Host.Outcome State Fault Refusal :=
  binOp (.idivI32 d a b) s d a b (fun x y => (divS x y).1)
/-- IDIV .n32 (R421). -/
def execIdivN32 (d a b : VReg) (s : State) : Host.Outcome State Fault Refusal :=
  binOp (.idivN32 d a b) s d a b (fun x y => (divU x y).1)
/-- IREM .i32 (R421). -/
def execIremI32 (d a b : VReg) (s : State) : Host.Outcome State Fault Refusal :=
  binOp (.iremI32 d a b) s d a b (fun x y => (divS x y).2)
/-- IREM .n32 (R421). -/
def execIremN32 (d a b : VReg) (s : State) : Host.Outcome State Fault Refusal :=
  binOp (.iremN32 d a b) s d a b (fun x y => (divU x y).2)
/-- IMIN .i32 (R418). -/
def execIminI32 (d a b : VReg) (s : State) : Host.Outcome State Fault Refusal :=
  binOp (.iminI32 d a b) s d a b (fun x y => if x.toInt ≤ y.toInt then x else y)
/-- IMIN .n32 (R418). -/
def execIminN32 (d a b : VReg) (s : State) : Host.Outcome State Fault Refusal :=
  binOp (.iminN32 d a b) s d a b (fun x y => if x.toNat ≤ y.toNat then x else y)
/-- IMAX .i32 (R418). -/
def execImaxI32 (d a b : VReg) (s : State) : Host.Outcome State Fault Refusal :=
  binOp (.imaxI32 d a b) s d a b (fun x y => if x.toInt ≥ y.toInt then x else y)
/-- IMAX .n32 (R418). -/
def execImaxN32 (d a b : VReg) (s : State) : Host.Outcome State Fault Refusal :=
  binOp (.imaxN32 d a b) s d a b (fun x y => if x.toNat ≥ y.toNat then x else y)
/-- AND (R351). -/
def execAnd (d a b : VReg) (s : State) : Host.Outcome State Fault Refusal :=
  binOp (.and d a b) s d a b (fun x y => x &&& y)
/-- OR (R464). -/
def execOr (d a b : VReg) (s : State) : Host.Outcome State Fault Refusal :=
  binOp (.or d a b) s d a b (fun x y => x ||| y)
/-- XOR (R495). -/
def execXor (d a b : VReg) (s : State) : Host.Outcome State Fault Refusal :=
  binOp (.xor d a b) s d a b (fun x y => x ^^^ y)
/-- SHL (R479). -/
def execShl (d a b : VReg) (s : State) : Host.Outcome State Fault Refusal :=
  binOp (.shl d a b) s d a b (fun x y => shlW x y.toNat)
/-- SHR (R479). -/
def execShr (d a b : VReg) (s : State) : Host.Outcome State Fault Refusal :=
  binOp (.shr d a b) s d a b (fun x y => shrW x y.toNat)
/-- SAR (R479). -/
def execSar (d a b : VReg) (s : State) : Host.Outcome State Fault Refusal :=
  binOp (.sar d a b) s d a b (fun x y => sarW x y.toNat)
/-- BFE .i32 (R359). -/
def execBfeI32 (d a b : VReg) (s : State) : Host.Outcome State Fault Refusal :=
  binOp (.bfeI32 d a b) s d a b (bfeW true)
/-- BFE .n32 (R359). -/
def execBfeN32 (d a b : VReg) (s : State) : Host.Outcome State Fault Refusal :=
  binOp (.bfeN32 d a b) s d a b (bfeW false)
/-- IMAD reads v[d] (R419). -/
def execImad (d a b : VReg) (s : State) : Host.Outcome State Fault Refusal :=
  triOp (.imad d a b) s d a b (fun z x y => x * y + z)
/-- SHF reads v[d] (R479). -/
def execShf (d a b : VReg) (s : State) : Host.Outcome State Fault Refusal :=
  triOp (.shf d a b) s d a b (fun z x y => shfW z x y.toNat)
/-- BFI reads v[d] (R360). -/
def execBfi (d a b : VReg) (s : State) : Host.Outcome State Fault Refusal :=
  triOp (.bfi d a b) s d a b (bfiW)
/-- IABS (R418). -/
def execIabs (d a : VReg) (s : State) : Host.Outcome State Fault Refusal := unOp (.iabs d a) s d a absW
/-- POPC (R467). -/
def execPopc (d a : VReg) (s : State) : Host.Outcome State Fault Refusal := unOp (.popc d a) s d a popcW
/-- CLZ (R373). -/
def execClz (d a : VReg) (s : State) : Host.Outcome State Fault Refusal := unOp (.clz d a) s d a clzW
/-- BREV (R364). -/
def execBrev (d a : VReg) (s : State) : Host.Outcome State Fault Refusal := unOp (.brev d a) s d a brevW
/-- SEL: v[a] where p is true, v[b] elsewhere (R480). -/
def execSel (d a b : VReg) (p : PReg) (s : State) : Host.Outcome State Fault Refusal :=
  laneOp (.sel d a b p) s fun l => l.setV d (if l.getP p then l.getV a else l.getV b)
/-- ICMP (R420); a result for p0 is discarded. -/
def execIcmp (p : PReg) (a b : VReg) (k : Cond) (s : State) : Host.Outcome State Fault Refusal :=
  laneOp (.icmp p a b k) s fun l => l.setP p (condHolds k (l.getV a) (l.getV b))
/-- LADD (R441). -/
def execLadd (d a b : VReg) (s : State) : Host.Outcome State Fault Refusal :=
  laneOp (.ladd d a b) s fun l => l.setPair d (l.pair a + (l.getV b).signExtend 64)
/-- MOV between v and g registers (R452); a g register is written once for each group, with the value of the group's
lowest active lane (R65). -/
def execMov (d a : VReg) (ag dg : Bool) (s : State) : Host.Outcome State Fault Refusal :=
  guarded (.mov d a ag dg) s fun s =>
    let src := fun l : Lane => if ag then (s.group? l.id).elim 0 (fun g => g.g[a.val % 16]!) else l.getV a
    let s1 :=
      if dg then
        s.actives.reverse.foldl (fun t l => t.modGroup l.id.tid l.id.grp fun g => { g with g := g.g.setIfInBounds (d.val % 16) (src l) }) s
      else s
    mapActive s1 fun l => (if dg then l else l.setV d (src l)).adv 4
/-- IADDI (R419). -/
def execIaddi (d a : VReg) (i : BitVec 12) (s : State) : Host.Outcome State Fault Refusal :=
  laneOp (.iaddi d a i) s fun l => l.setV d (l.getV a + sx i)
/-- ANDI (R351). -/
def execAndi (d a : VReg) (i : BitVec 12) (s : State) : Host.Outcome State Fault Refusal :=
  laneOp (.andi d a i) s fun l => l.setV d (l.getV a &&& sx i)
/-- ORI (R464). -/
def execOri (d a : VReg) (i : BitVec 12) (s : State) : Host.Outcome State Fault Refusal :=
  laneOp (.ori d a i) s fun l => l.setV d (l.getV a ||| sx i)
/-- XORI (R495). -/
def execXori (d a : VReg) (i : BitVec 12) (s : State) : Host.Outcome State Fault Refusal :=
  laneOp (.xori d a i) s fun l => l.setV d (l.getV a ^^^ sx i)
/-- SHL with an immediate amount (R479). -/
def execShlImm (d a : VReg) (i : BitVec 5) (s : State) : Host.Outcome State Fault Refusal :=
  laneOp (.shlImm d a i) s fun l => l.setV d (shlW (l.getV a) i.toNat)
/-- SHR with an immediate amount (R479). -/
def execShrImm (d a : VReg) (i : BitVec 5) (s : State) : Host.Outcome State Fault Refusal :=
  laneOp (.shrImm d a i) s fun l => l.setV d (shrW (l.getV a) i.toNat)
/-- SAR with an immediate amount (R479). -/
def execSarImm (d a : VReg) (i : BitVec 5) (s : State) : Host.Outcome State Fault Refusal :=
  laneOp (.sarImm d a i) s fun l => l.setV d (sarW (l.getV a) i.toNat)
/-- MOVI (R453). -/
def execMovi (d : VReg) (i : BitVec 16) (s : State) : Host.Outcome State Fault Refusal :=
  laneOp (.movi d i) s fun l => l.setV d (sx i)
/-- MOVH keeps the low half (R453). -/
def execMovh (d : VReg) (i : BitVec 16) (s : State) : Host.Outcome State Fault Refusal :=
  laneOp (.movh d i) s fun l => l.setV d (i ++ (l.getV d).setWidth 16)
/-- LADDI (R441). -/
def execLaddi (d a : VReg) (i : BitVec 12) (s : State) : Host.Outcome State Fault Refusal :=
  laneOp (.laddi d a i) s fun l => l.setPair d (l.pair a + i.signExtend 64)
/-- LIT (R448). -/
def execLit (d : VReg) (w : Word) (s : State) : Host.Outcome State Fault Refusal :=
  laneOp (.lit d w) s fun l => l.setV d w

end Sys2Proof.Machine
end

