-- ==== Sys2Proof/Machine/LaneX.lean ====
section
/-! DEFINITION. Exchange between the lanes of a group (R449, R481 to R483, R492). -/
namespace Sys2Proof.Machine
open Sys2Proof

/-- The participating set of a lane's group (R449): its active lanes, in ascending slot. -/
def State.mates (s : State) (l : Lane) : List Lane :=
  s.actives.filter fun m => m.id.tid == l.id.tid && m.id.grp == l.id.grp

/-- A word of major 0x14, group by group: each active lane gets a function of its participating set; it waits for the lanes that the rule
has it wait for (R483). -/
def exchange (i : Instr) (s : State) (f : List Lane → Lane → Lane) : Host.Outcome State Fault Refusal :=
  guarded i s fun s => mapActive s fun l => if s.absent l then l.stall else (f (s.mates l) l).adv 4

/-- The segment width of a code (R481). -/
def segWidth (w : Fin 4) : Nat := 32 / 2 ^ w.val

/-- The source slot of SHFL (R482), which may lie outside the segment. -/
def shflSource (m : ShflMode) (w : Nat) (slot : Nat) (δ : Int) : Option Nat :=
  let r := slot % w
  let t : Int :=
    match m with
    | .src => δ % w
    | .rot => (r + δ) % w
    | .flip => (Nat.xor r (δ % w).toNat : Nat)
    | .edge => r + δ
  if 0 ≤ t ∧ t < w then some (slot - r + t.toNat) else none

/-- SHFL in one lane: the source lane's v[a] if it participates, else the lane's own (R482). -/
def shflLane (set : List Lane) (l : Lane) (d a : VReg) (m : ShflMode) (w : Fin 4) (δ : Int) : Lane :=
  let own := l.getV a
  l.setV d
    (match shflSource m (segWidth w) l.id.slot δ with
     | some t => (set.find? fun x => x.id.slot == t).elim own fun x => x.getV a
     | none => own)

/-- δ from a register (R481): 5 bits unsigned, or 6 bits signed for .edge. -/
def shflDelta (m : ShflMode) (x : Word) : Int :=
  match m with
  | .edge => signedOf 6 (fld x.toNat 0 6)
  | _ => fld x.toNat 0 5

/-- SHFL with δ in v[b] (R481). -/
def execShfl (d a b : VReg) (m : ShflMode) (w : Fin 4) (s : State) : Host.Outcome State Fault Refusal :=
  exchange (.shfl d a b m w) s fun set l => shflLane set l d a m w (shflDelta m (l.getV b))
/-- SHFL with an immediate δ (R481). -/
def execShflImm (d a : VReg) (i : BitVec 6) (m : ShflMode) (w : Fin 4) (s : State) : Host.Outcome State Fault Refusal :=
  exchange (.shflImm d a i m w) s fun set l => shflLane set l d a m w (shflDelta m (i.setWidth 32))

/-- The slots of participating lanes whose predicate is true (R492). -/
def votes (set : List Lane) (q : PReg) : List Nat := (set.filter fun l => l.getP q).map (·.id.slot)
/-- A mask with the given slots set. -/
def slotMask (slots : List Nat) : Word := BitVec.ofNat 32 (slots.map fun n => 2 ^ n).sum

/-- VOTE.or (R492). -/
def execVoteOr (p q : PReg) (s : State) : Host.Outcome State Fault Refusal :=
  exchange (.voteOr p q) s fun set l => l.setP p (set.any fun x => x.getP q)
/-- VOTE.and (R492). -/
def execVoteAnd (p q : PReg) (s : State) : Host.Outcome State Fault Refusal :=
  exchange (.voteAnd p q) s fun set l => l.setP p (set.all fun x => x.getP q)
/-- VOTE.mask (R492). -/
def execVoteMask (d : VReg) (q : PReg) (s : State) : Host.Outcome State Fault Refusal :=
  exchange (.voteMask d q) s fun set l => l.setV d (slotMask (votes set q))
/-- VOTE.count (R492). -/
def execVoteCount (d : VReg) (q : PReg) (s : State) : Host.Outcome State Fault Refusal :=
  exchange (.voteCount d q) s fun set l => l.setV d (BitVec.ofNat 32 (votes set q).length)
/-- VOTE.first: the lowest slot, or 32 (R492). -/
def execVoteFirst (d : VReg) (q : PReg) (s : State) : Host.Outcome State Fault Refusal :=
  exchange (.voteFirst d q) s fun set l => l.setV d (BitVec.ofNat 32 ((votes set q).head?.getD 32))
/-- MATCH (R449): the slots of participating lanes with an equal v[a]. -/
def execVmatch (d a : VReg) (s : State) : Host.Outcome State Fault Refusal :=
  exchange (.vmatch d a) s fun set l => l.setV d (slotMask ((set.filter fun x => x.getV a == l.getV a).map (·.id.slot)))

end Sys2Proof.Machine
end

