-- ==== Sys2Proof/Machine/Observe.lean ====
section
/-! DEFINITION. Counter-bank commands (R264), fixes and snapshots (R276 to R278), PC samples (R270), the end of a policy period (R286,
R287), COMMIT of the chronometer (R281). -/
namespace Sys2Proof.Machine
open Sys2Proof

/-! ## Counter banks (R264) -/

/-- A party's write of a bank's control register. -/
def State.bankCtl (s : State) (p n : Nat) (who : Party) (w : Word) : State := s.setBank p (n % 8) ((s.bank p (n % 8)).writeCtl who w)
/-- CB_CLAIM. -/
def execCbClaim (p n : Nat) (who : Party) (s : State) : Host.Outcome State Fault Refusal := whenReady s fun s => s.bankCtl p n who 1
/-- CB_RELEASE. -/
def execCbRelease (p n : Nat) (who : Party) (s : State) : Host.Outcome State Fault Refusal := whenReady s fun s => s.bankCtl p n who 2
/-- CB_CLEAR. -/
def execCbClear (p n : Nat) (who : Party) (s : State) : Host.Outcome State Fault Refusal := whenReady s fun s => s.bankCtl p n who 3
/-- CB_CONFIG: a write whose CMD is 0. -/
def execCbConfig (p n : Nat) (who : Party) (w : Word) (s : State) : Host.Outcome State Fault Refusal :=
  whenReady s fun s => if fld w.toNat 0 2 = 0 then s.bankCtl p n who w else s

/-! ## Fixes (R276 to R278) -/

/-- The lowest lane of a group that has not exited. -/
def State.lowLane (s : State) (tid grp : Nat) : Option Lane := (s.groupLanes tid grp).find? fun l => l.park != .exited
/-- The lanes of a group that are ready, as a mask. -/
def State.readyMask (s : State) (tid grp : Nat) : Nat := ((s.groupLanes tid grp).map fun l => if s.ready l then 2 ^ l.id.slot else 0).sum
/-- A partition's requests queued at a pseudo-channel, side queues included (R126, R278). -/
def State.queuedAt (s : State) (p pc : Nat) : Nat :=
  let mine := fun q : List HbmReq => (q.filter fun r => r.part == p).length
  mine (tget [] pc s.hbmq) + ((s.sideq.filter fun e => e.1 / 16 == pc).map fun e => mine e.2).sum
/-- The snapshot registers outside the banks. -/
def State.snapshot (s : State) (p : Nat) : Snap :=
  let x := s.part p
  let gs := (s.teams.filter fun t => t.part == p).flatMap fun t => (t.groups.filter fun g => !g.retired).map fun g => (t, g)
  { quarters := gs.map fun e =>
      let l := s.lowLane e.1.tid e.2.idx
      { quarter := quarterOf e.1.cluster e.2.idx, tid := e.1.tid, grp := e.2.idx, pc := l.elim 0 (·.pc),
        ready := s.readyMask e.1.tid e.2.idx, park := l.elim 1 Lane.parkCode },
    engines := x.clusters.map fun c =>
      let k := s.cluster c
      (c, k.table.length, (k.fenced.map fun q => 2 ^ q.val).sum, k.extended.length, (k.forms.filter fun e => e.2 == .widened).length),
    hbm := ((List.range 512).map fun pc => (pc, s.queuedAt p pc)).filter fun e => e.2 != 0,
    chron := s.chron p }
/-- The operator's copy of a snapshot (R287): nothing under WITHHELD; identity fields zeroed as R286 says, its time floored (R288). -/
def Snap.filtered (sn : Snap) (x : Part) : Snap :=
  let g := (x.cat 6).gran
  if g = 0 then snap0
  else
    { sn with chron := x.opTime 6 sn.chron,
              quarters := sn.quarters.map fun q =>
                let q1 := if g ≤ 3 then { q with quarter := 0, grp := 0, pc := 0, ready := 0 } else q
                if g ≤ 2 then { q1 with tid := 0 } else q1 }
/-- May an operator's fix latch the operator snapshot now (R277, R287)? -/
def Part.fixAllowed (x : Part) : Bool := decide (2 ≤ (x.cat 6).gran) || !x.fixHypDone
/-- Take a partition's fix with a source (R277): the operator's snapshot shows it now, or under AGGREGATE when the period ends (R287). -/
def State.takeFix (s : State) (p src : Nat) : State :=
  let x := s.part p
  let op := src != 3 && src != 5 || x.fixAllowed
  let sn := s.snapshot p
  let shown := decide ((x.cat 6).gran ≠ 0)
  let s1 := (s.readChron p).2.modPart p fun x =>
    { x with fixPend := none, fixno := x.fixno + 1, snapGuest := sn, snapHyp := if op && (x.cat 6).gran != 1 then sn.filtered x else x.snapHyp,
             snapNext := if op then sn.filtered x else x.snapNext,
             fixHypDone := x.fixHypDone || src == 3 || src == 5,
             banks := x.banks.map fun e => (e.1, { e.2 with snap := e.2.cnt, snapOp := if op && shown then e.2.cnt else e.2.snapOp }) }
  (s1.part p).dies.foldl
    (fun s d => s.trace p d { kind := 5, flags := 0, group := 0, quarter := 0, pc := 0, launch := 0, team := 0, time := 0,
                              payload := (s.part p).fixno.toNat + src * 2 ^ 64 } 3) s1
/-- FIX_LATCH: a triggered fix is taken (R277). -/
def execFixLatch (p : Nat) (s : State) : Host.Outcome State Fault Refusal :=
  match (s.part p).fixPend with
  | some src => .next (s.takeFix p src)
  | none => .next s
/-- FIXIN: the external pin triggers a fix in every partition in ACTIVE (R276): one that is SUSPENDING or HALTED the spec leaves open (DESIGN
CHOICE, log entry 57). -/
def execFixin (s : State) : Host.Outcome State Fault Refusal :=
  .next (((s.parts.filter fun e => e.2.state == .active).map (·.1)).foldl (fun s p => s.modPart p fun x => x.trigger 3) s)
/-- FIX_REGISTER_WRITE: the PF triggers a fix in the partition (R276), in ACTIVE only (DESIGN CHOICE, log entry 57). -/
def execFixRegisterWrite (p : Nat) (s : State) : Host.Outcome State Fault Refusal :=
  whenReady s fun s => if (s.part (p % 64)).state = .active then s.modPart (p % 64) fun x => x.trigger 5 else s

/-! ## PC samples (R270) -/

/-- The resident groups of a partition on a quarter, older teams first. -/
def State.groupsHere (s : State) (p q : Nat) : List (Team × Group) :=
  (s.teams.filter fun t => t.part == p).flatMap fun t => (t.groups.filter fun g => !g.retired && quarterOf t.cluster g.idx == q).map fun g => (t, g)
/-- One sample of a quarter for a stream, 0 the guest's and 1 the operator's: the next of its groups in turn. -/
def State.sampleQuarter (s : State) (p die stream q : Nat) : State :=
  let gs := s.groupsHere p q
  if gs.isEmpty then s
  else
    let i := tget 0 (2 * q + stream) (s.part p).pcrr % gs.length
    let s1 := s.modPart p fun x => { x with pcrr := tset (2 * q + stream) (i + 1) x.pcrr }
    match gs[i]? with
    | none => s1
    | some e =>
      let l := s.lowLane e.1.tid e.2.idx
      s1.trace p die
        { kind := 1, flags := 0, group := e.2.idx, quarter := q, pc := l.elim 0 (·.pc.toNat), launch := e.1.seq, team := e.1.index, time := 0,
          payload := s.readyMask e.1.tid e.2.idx + l.elim 1 Lane.parkCode * 2 ^ 32 } (stream + 1)
/-- Has a period of 2^PCPER cycles of a stream begun since its last sample (R268)? -/
def State.sampleDue (s : State) (p die stream : Nat) : Bool :=
  let x := s.part p
  let per := (tget (ring0 6) die (if stream = 0 then x.gtrace else x.otrace)).pcper
  per != 0 && s.cycle / 2 ^ per != tget 0 (2 * die + stream) x.pclast / 2 ^ per
/-- A stream's sample of a die, if a period of it has begun. -/
def State.sampleStream (s : State) (p die stream : Nat) : State :=
  if s.sampleDue p die stream then
    let qs := ((s.part p).clusters.filter fun c => c / 48 == die).flatMap fun c => (List.range 16).map fun q => 16 * c + q
    qs.foldl (fun s q => s.sampleQuarter p die stream q) (s.modPart p fun x => { x with pclast := tset (2 * die + stream) s.cycle x.pclast })
  else s
/-- TRACE_PC_SAMPLE: each of a die's streams takes the sample that its own period asks for (R268, R270). -/
def execTracePcSample (p die : Nat) (s : State) : Host.Outcome State Fault Refusal :=
  .next ((s.sampleStream p die 0).sampleStream p die 1)

/-! ## The end of a period (R286, R287) -/

/-- The number of nanoseconds of a period. -/
def periodNs : Nat := 2 ^ 20
/-- Has the present period ended? -/
def State.periodDue (s : State) : Bool := decide ((s.period + 1) * periodNs ≤ s.time)
/-- A partition's chronometer at the end of the present period, recorded as a value returned (R281, R286). -/
def State.periodTime (s : State) (p : Nat) : Nat × State :=
  let v := (s.part p).chron.now ((s.period + 1) * periodNs)
  (v, s.modPart p fun x => { x with chron := { x.chron with last := v } })
/-- The fault log's summary of a period: counts of kinds 1 to 7, one byte each. -/
def State.faultSummary (s : State) (p time : Nat) : State :=
  let x := s.part p
  if (x.cat 4).gran ≠ 1 then s
  else
    let counts := ((List.range 7).map fun i => min (tget 0 (i + 1) x.aggFault) 255 * 2 ^ (8 * i)).sum
    let w := s.opRing s.flog ({ rec0 with kind := 0xFF, time := x.opTime 4 time, detail := counts }).bits
    (({ w.1 with flog := w.2 } : State).msix .pf s.flog.msix).modPart p fun x => { x with aggFault := [] }
/-- The summary of a period on a die's operator stream. -/
def State.traceSummary (s : State) (p time die : Nat) : State :=
  let x := s.part p
  let o := tget (ring0 6) die x.otrace
  if ((x.cat 1).gran ≠ 1 ∧ (x.cat 2).gran ≠ 1) ∨ !o.takes 6 then s
  else
    let counts := ((List.range 5).map fun i => tget 0 (8 * die + i + 1) x.aggTrace % 2 ^ 32 * 2 ^ (32 * i)).sum
    let r : TraceRec :=
      { kind := 6, flags := 0, group := 0, quarter := 0, pc := 0, launch := 0, team := 0, time := x.opTime 1 time, payload := counts }
    let w := s.opRing o r.bits
    w.1.modPart p fun x => { x with otrace := tset die w.2 x.otrace }
/-- The summary of a period in the stop-record ring; its payload is free (log entry 16). -/
def State.stopSummary (s : State) (p time : Nat) : State :=
  let x := s.part p
  if (x.cat 5).gran ≠ 1 then s
  else
    let d := s.draw
    (d.2.stopRing ({ kind := 6, flags := 0, group := 0, quarter := 0, pc := 0, launch := 0, team := 0, time := x.opTime 5 time, payload := d.1 } : TraceRec).bits).modPart p
      fun x => { x with aggStop := 0 }
/-- What a period's end does for one partition; the banks and the power monitor publish (R287, R290). -/
def State.periodEnd (s : State) (p : Nat) : State :=
  let t := s.periodTime p
  let s1 := (List.range 4).foldl (fun s d => s.traceSummary p t.1 d) ((t.2.faultSummary p t.1).stopSummary p t.1)
  s1.modPart p fun x =>
    { x with aggTrace := [], fixHypDone := false, snapHyp := if (x.cat 6).gran = 1 then x.snapNext else x.snapHyp, energyPub := x.energy, banks := x.banks.map fun e => (e.1, { e.2 with pub := e.2.cnt, snapPub := e.2.snapOp }) }
/-- POLICY_PERIOD_END: a multiple of 2^20 ns of device time has passed, the same for every partition and category (R286). -/
def execPolicyPeriodEnd (s : State) : Host.Outcome State Fault Refusal :=
  if s.periodDue then
    let s1 := ((s.parts.filter fun e => e.2.state != .inactive).map (·.1)).foldl State.periodEnd s
    .next { s1 with period := s1.period + 1 }
  else .next s

/-! ## COMMIT (R281) -/

/-- The written OFFSET and SCALE take effect together; the last value returned stays, below which no read goes. -/
def State.chronTake (s : State) (p : Nat) : State :=
  s.modPart p fun x => { x with chron := { x.chron with offsetF := x.chron.offset, scaleF := x.chron.scale } }
/-- CHRON_COMMIT. -/
def execChronCommit (p : Nat) (s : State) : Host.Outcome State Fault Refusal := whenReady s fun s => s.chronTake (p % 64)

end Sys2Proof.Machine
end

