-- ==== Sys2Proof/Machine/Resume.lean ====
section
/-! DEFINITION. Reading a save area back (R67, R69, R109, R247 to R250): the bytes that the spec places are what the teams resume with.
What it leaves to the device's own arrangement is known from the save that wrote it (log entry 43). -/
namespace Sys2Proof.Machine
open Sys2Proof

/-! ## Cutting bytes -/

/-- Consecutive pieces of given lengths. -/
def cutBytes : List Nat → List Byte → List (List Byte)
  | [], _ => []
  | n :: r, bs => bs.take n :: cutBytes r (bs.drop n)
/-- k pieces of n bytes. -/
def chunks (n k : Nat) (bs : List Byte) : List (List Byte) := cutBytes (List.replicate k n) bs
/-- A little-endian number of n bytes at an offset. -/
def numAt (bs : List Byte) (off n : Nat) : Nat := leNat ((bs.drop off).take n)
def piece (ps : List (List Byte)) (i : Nat) : List Byte := (ps[i]?).getD []
/-- Bytes as a memory from address 0. -/
def memOf (bs : List Byte) : Memory := (bs.zipIdx.filter fun e => e.1 != memDefault).map fun e => (e.2, e.1)

/-! ## Groups (R249) -/

/-- The park of a lane whose saved kind an area repeats is the saved one; a kind that says all is taken as it stands. -/
def Lane.withPark (l : Lane) (code fid : Nat) : Lane :=
  if code = l.parkCode then (match l.park with | .fault _ => { l with park := .fault fid } | _ => l)
  else if code = 0 then { l with park := .ready, marker := false }
  else if code = 1 then { l with park := .exited }
  else if code = 2 then { l with park := .ready, marker := true }
  else l
/-- A k register of a lane whose block shows it as an image: where that is what the lane had with the results it took before its marker, they
are still to stand there (R80). -/
def Lane.kFrom (l : Lane) (k : KReg) (image : Nat) : LA := let a := laOfImage image; if a = l.landed.getK k then l.getK k else a
/-- A lane with what its group block holds: `vs` and `ks` are the rows of its registers. -/
def Lane.fromBlock (l : Lane) (head : List Byte) (vs ks : List (List Byte)) : Lane :=
  let k := l.id.slot
  let st := numAt head (512 + 32 * k + 28) 4
  let l1 : Lane :=
    { l with pc := BitVec.ofNat 64 (numAt head (8 * k) 8), rnd := BitVec.ofNat 64 (numAt head (256 + 8 * k) 8),
             epc := BitVec.ofNat 64 (numAt head (512 + 32 * k) 8), fpc := BitVec.ofNat 64 (numAt head (520 + 32 * k) 8),
             tval := BitVec.ofNat 64 (numAt head (528 + 32 * k) 8), ssw := BitVec.ofNat 32 (numAt head (536 + 32 * k) 4),
             sup := st.testBit 0, ss := st.testBit 1, dm := st.testBit 2, depth := fld st 4 4,
             p := BitVec.ofNat 8 (numAt head (1536 + k) 1 / 2 * 2) ||| l.p &&& 1,
             lastArr := (List.range 4).filterMap fun b =>
               let n := numAt head (1792 + 8 * k + 2 * b) 2
               if n = 0 ∧ !(l.lastArr.any fun e => e.1 == b) then none else some (b, n) }
  let l2 : Lane :=
    { l1 with v := Vector.ofFn fun i : Fin 64 => (vs[i.val]?).elim l1.v[i] fun b => BitVec.ofNat 32 (numAt b (4 * k) 4),
              k := Vector.ofFn fun i : Fin 16 => (ks[i.val]?).elim l1.k[i] fun b => l1.kFrom i (numAt b (128 * k) 96),
              kc := Vector.ofFn fun i : Fin 16 => (ks[i.val]?).elim l1.kc[i] fun b =>
                if laOfImage (numAt b (128 * k) 96) = l1.landed.getK i then l1.kc[i] else some (BitVec.ofNat 80 (numAt b (128 * k + 80) 10)) }
  l2.withPark (numAt head (1568 + k) 1) (numAt head (2048 + 4 * k) 4)
/-- The bytes of a group block. -/
def groupSize (r g : Nat) : Nat := 2304 + 128 * vOf r g + 4096 * kOf r g
/-- A group's own registers from its block. -/
def Group.fromBlock (g : Group) (bs : List Byte) : Group :=
  { g with g := Vector.ofFn fun i : Fin 16 => BitVec.ofNat 32 (numAt bs (1600 + 4 * i.val) 4), fflags := BitVec.ofNat 5 (numAt bs 1664 4) }
/-- The lanes of a group with what its block holds. -/
def lanesFrom (r : Nat) (ls : List Lane) (e : Group × List Byte) : List Lane :=
  let g := e.1.idx
  let ps := cutBytes [2304, 128 * vOf r g, 4096 * kOf r g] e.2
  let vs := chunks 128 (vOf r g) (piece ps 1)
  let ks := chunks 4096 (kOf r g) (piece ps 2)
  ls.map fun l => if l.id.grp = g then l.fromBlock (piece ps 0) vs ks else l

/-! ## Macros, convergence registers, tiles (R248) -/

/-- The tags of a macro: bit 3 of a word's four bits means none. -/
def tagsOf (bs : List Byte) : Tbl Nat :=
  ((bs.zipIdx.flatMap fun e => [(2 * e.2, fld e.1.toNat 0 4), (2 * e.2 + 1, fld e.1.toNat 4 4)]).filter fun e => decide (e.2 < 8))
/-- A macro with the data and the tags of its section; a queue has no tags. -/
def Sram.fromSection (m : Sram) (bs : List Byte) : Sram :=
  { m with data := memOf (bs.take 49152), tags := if m.mode = .scratch then tagsOf ((bs.drop 49152).take 3072) else m.tags }
/-- The macros with their sections: those of scratch macros first, then those of queues. -/
def sramsFrom : List Sram → List (List Byte) → List (List Byte) → List Sram
  | [], _, _ => []
  | m :: r, ss, qs =>
    if m.mode = .scratch then (ss.head?.elim m m.fromSection) :: sramsFrom r ss.tail qs
    else if m.mode = .queue then (qs.head?.elim m m.fromSection) :: sramsFrom r ss qs.tail
    else m :: sramsFrom r ss qs
/-- A register's word from row i of a member slot's octets and scales, 128 bytes a row. -/
def slotRow (bs : List Byte) (i slot : Nat) : Word := BitVec.ofNat 32 (numAt bs (128 * i + 4 * slot) 4)
/-- What a lane supplied, from its member's slot. -/
def Operand.fromSlot (o : Operand) (bs : List Byte) : Operand :=
  { o with a := (List.range o.a.length).map fun i => slotRow bs (if i < o.regsA then i else 16) o.slot,
           b := (List.range o.b.length).map fun i => slotRow bs (if i < 8 then 8 + i else 17) o.slot }
/-- A convergence register from its section. -/
def CvReg.fromSection (c : CvReg) (bs : List Byte) : CvReg :=
  let ps := cutBytes [128, 2560, 2560, 2560, 2560] bs
  { c with word := BitVec.ofNat 32 (numAt (piece ps 0) 0 4),
           held := c.held.map fun e => (e.1, e.2.1, e.2.2.map fun o => o.fromSlot (piece ps (e.1 % 4 + 1))) }
/-- The cells of a tile from its images. -/
def cellsFrom (bs : List Byte) : Tbl LA :=
  (((chunks 128 4096 bs).map fun c => laOfImage (numAt c 0 96)).zipIdx.map fun e => (e.2, e.1)).filter fun e => e.2 != LA0

/-! ## The replay section (R248, R250) -/

/-- An instruction that a replay entry may name: a deferred one that can fault (R82, log entry 43). -/
def replayable (i : Instr) : Bool :=
  !(retV i 0).isEmpty || !(retK i 0).isEmpty || match i with
    | .rowpin .. | .rowqry .. => true
    | _ => false
/-- A deferred instruction as a replay entry gives it: `old` is the entry that the save wrote. None for one that is not deferred. -/
def Deferred.fromEntry (d : Deferred) (old bs : List Byte) : Option Deferred :=
  let srcs := d.srcs.mapIdx fun i w => if i < d.sources.length then BitVec.ofNat 32 (numAt bs (24 + 4 * i) 4) else w
  let d1 : Deferred := { d with srcs := srcs, pc := BitVec.ofNat 64 (numAt bs 8 8) }
  if (old.drop 16).take 8 = (bs.drop 16).take 8 then some d1
  else
    match decodeInstr (numAt bs 16 4) (numAt bs 20 4) with
    | .ok i => if replayable i then some { d1 with instr := i } else none
    | .error _ => none
/-- The deferred instructions in `ds` that satisfy f take the entries of a list in turn: the entries as the save wrote them and as they are
read. Answers the instructions and the entries left. -/
def takeEntries (f : Deferred → Bool) : List Deferred → List (List Byte × List Byte) → Option (List Deferred × List (List Byte × List Byte))
  | [], es => some ([], es)
  | d :: ds, es =>
    if !f d then (takeEntries f ds es).map fun q => (d :: q.1, q.2)
    else
      match es with
      | [] => none
      | e :: r => (d.fromEntry e.1 e.2).bind fun d' => (takeEntries f ds r).map fun q => (d' :: q.1, q.2)
/-- What a lane's traps left to be taken, the outermost first. -/
def takeLater : List (Nat × List Deferred) → List (List Byte × List Byte) → Option (List (Nat × List Deferred) × List (List Byte × List Byte))
  | [], es => some ([], es)
  | x :: r, es =>
    (takeEntries (fun _ => true) x.2 es).bind fun q => (takeLater r q.2).map fun t => ((x.1, q.1) :: t.1, t.2)
/-- A lane with its entries (R250): RPL slot, those left by traps, those its park holds. -/
def Lane.withEntries (l : Lane) (es : List (List Byte × List Byte)) : Option Lane :=
  (takeEntries (fun _ => true) l.replay.toList es).bind fun a =>
    (takeLater l.later.reverse a.2).bind fun b =>
      (takeEntries Deferred.again l.deferred b.2).bind fun c =>
        if c.2.isEmpty then some { l with replay := a.1.head?, later := b.1.reverse, deferred := c.1 } else none
/-- The group and the slot that an entry names. -/
def entryLane (bs : List Byte) : Nat × Nat := (numAt bs 0 2, numAt bs 2 1)

/-! ## A team (R250) -/

/-- Entries of a saved team's replay section. -/
def SavedTeam.nrepl (v : SavedTeam) : Nat := ((v.team.groups.flatMap fun g => v.lanes.filter fun l => l.id.grp == g.idx).map fun l => l.replays.length).sum
/-- The lengths of a team block's sections, one piece for each group, macro, register and tile. -/
def SavedTeam.sections (v : SavedTeam) (r : Nat) : List (List Nat) :=
  let n := fun m : MacroMode => (v.srams.filter fun x => x.mode == m).length
  [[512], v.team.groups.map fun g => groupSize r g.idx, List.replicate (n .scratch) 52224, List.replicate (n .queue) 49280,
   List.replicate (min v.cvregs.length (recNcv r)) 10368, List.replicate v.cells.length 524288, [1024], List.replicate v.nrepl 64]
/-- The pieces of each section. -/
def sectionsOf : List (List Nat) → List Byte → List (List (List Byte))
  | [], _ => []
  | ns :: r, bs => cutBytes ns bs :: sectionsOf r (bs.drop ns.sum)
/-- A saved team as its block in an area has it; none where an entry of its replay section is bad. -/
def SavedTeam.fromBlock (v : SavedTeam) (r : Nat) (bs : List Byte) : Option SavedTeam :=
  let at' := fun i => ((sectionsOf (v.sections r) bs)[i]?).getD []
  let old := ((sectionsOf (v.sections r) v.block)[7]?).getD []
  let es := old.zip (at' 7)
  let lane := fun l : Lane => l.withEntries (es.filter fun e => entryLane e.2 == (l.id.grp, l.id.slot))
  let ls := (v.team.groups.zip (at' 1)).foldl (lanesFrom r) v.lanes
  let outside := es.any fun e => !(v.lanes.any fun l => entryLane e.2 == (l.id.grp, l.id.slot))
  let back := ls.filterMap lane
  if outside ∨ back.length ≠ ls.length then none
  else
    some { v with
      team := { v.team with groups := (v.team.groups.zip (at' 1)).map fun e => e.1.fromBlock e.2 }, lanes := back,
      srams := sramsFrom v.srams (at' 2) (at' 3), cvregs := v.cvregs.mapIdx fun i c => (at' 4)[i]?.elim c c.fromSection,
      cells := v.cells.mapIdx fun i t => (at' 5)[i]?.elim t cellsFrom, block := bs }

/-! ## Launches -/

/-- What of a record fixes the sections of its teams. -/
def shapeKey (r : Nat) : Nat × Nat := (fld r 192 80, fld r 128 48)
/-- A launch with its block's record and its teams' blocks: `mine` says which of its saved teams the area holds. A record of a shape that
R67, R69 or R109 forbids is bad. -/
def Launch.fromArea (L : Launch) (l1ways : Nat) (mine : SavedTeam → Bool) (block : List Byte) (teams : List (List Byte)) : Option Launch :=
  let r := numAt block 0 384
  if !budgetOk r || !shapeOk l1ways r then none
  else
    let vs := (L.restore.filter mine).zip teams
    let back := vs.filterMap fun e => e.1.fromBlock r e.2
    if back.length ≠ (L.restore.filter mine).length then none
    else some { L with lrec := r, restore := back ++ L.restore.filter fun v => !mine v }
/-- Launches with what their area holds: launch blocks first, then the teams' blocks launch by launch. -/
def launchesFrom (l1ways : Nat) (mine : SavedTeam → Bool) : List Launch → List (List Byte) → List (List Byte) → Option (List Launch)
  | [], _, _ => some []
  | L :: r, bs, ts =>
    let n := (L.restore.filter mine).length
    (L.fromArea l1ways mine (bs.head?.getD []) (ts.take n)).bind fun L' =>
      (launchesFrom l1ways mine r bs.tail (ts.drop n)).map fun q => L' :: q
/-- The team blocks of launches. -/
def teamBlocks (mine : SavedTeam → Bool) (ls : List Launch) : List (List Byte) := ls.flatMap fun L => (L.restore.filter mine).map (·.block)
/-- The bytes of a hypervisor save's partition block (R251). -/
def partBlockBytes : Nat := 192 * 1024
/-- Is an area the one that a save of these launches wrote, by the shapes of its records and the bytes whose arrangement is the device's own:
those of the launch blocks and the team headers (log entry 43)? -/
def areaMatches (extra : Nat) (tails : List (List Byte)) (mine : SavedTeam → Bool) (ls : List Launch) (bs : List Byte) : Bool :=
  let blocks := teamBlocks mine ls
  let body := bs.drop (256 + extra)
  (chunks 512 ls.length body).map (·.drop 384) == tails && tails.length == ls.length &&
    (chunks 512 ls.length body).map (fun b => shapeKey (numAt b 0 384)) == ls.map (fun L => shapeKey L.lrec) &&
    (cutBytes (blocks.map List.length) (body.drop (512 * ls.length))).map (·.take 512) == blocks.map (·.take 512) &&
    bs.length == 256 + extra + 512 * ls.length + (blocks.map List.length).sum
/-- The launches of a save as its area has them. -/
def areaLaunches (extra l1ways : Nat) (mine : SavedTeam → Bool) (ls : List Launch) (bs : List Byte) : Option (List Launch) :=
  let body := bs.drop (256 + extra)
  launchesFrom l1ways mine ls (chunks 512 ls.length body) (cutBytes ((teamBlocks mine ls).map List.length) (body.drop (512 * ls.length)))

/-! ## An area that no save of the partition has left (R250; log entry 43) -/

/-- The park of a lane by its saved kind; what the kind does not say is read from the header. -/
def parkFrom (code fid head i : Nat) : Park :=
  let f := fun n : Nat => Config.saveField (100 + 4 * i + n) head
  match code with
  | 1 => .exited
  | 3 => .barrier (f 0 % 4)
  | 4 => .conv (f 0 % 16)
  | 5 => .gbar
  | 6 => .waitph (f 0 % 4) (f 1)
  | 7 => .evwait (f 0 % 256) (BitVec.ofNat 32 (f 1))
  | 8 => .fault fid
  | 9 => .queue
  | 10 => .drain (if f 0 % 2 = 0 then .g2s else .s2g) (f 1)
  | 11 => .collw (f 0 % 4) (f 1 % 64)
  | _ => .ready
/-- The deferred instruction of a replay entry, as one that has met a page fault; none for one that is not deferred. -/
def entryDeferred (n : Nat) (bs : List Byte) : Option Deferred :=
  match decodeInstr (numAt bs 16 4) (numAt bs 20 4) with
  | .ok i =>
    if replayable i then
      some { n := n, pc := BitVec.ofNat 64 (numAt bs 8 8), instr := i, srcs := (List.range 8).map fun k => BitVec.ofNat 32 (numAt bs (24 + 4 * k) 4),
             vdst := [], kdst := [], touched := [], kcar := 0, flags := 0, sounded := 0, wait := .page { reason := 1, va := 0, write := false, fetch := false } 0 }
    else none
  | .error _ => none
/-- The entries of one lane: those of its park in order, and the one of its RPL slot. -/
def Lane.takeReplays (l : Lane) (es : List (List Byte)) : Option Lane :=
  let mine := es.filter fun b => entryLane b == (l.id.grp, l.id.slot)
  let rpl := mine.filter fun b => numAt b 3 1 == 2
  let own := mine.filter fun b => numAt b 3 1 != 2
  let ds := (own.zipIdx.filterMap fun e => entryDeferred e.2 e.1)
  if ds.length ≠ own.length ∨ 1 < rpl.length then none
  else
    match rpl with
    | [] => some { l with deferred := ds, nextDef := ds.length }
    | b :: _ => (entryDeferred ds.length b).map fun d => { l with deferred := ds, replay := some d, nextDef := ds.length + 1 }
/-- A team as a block names it, with the shape of its record; then the block's sections. None where an entry of its replay section is bad. -/
def SavedTeam.fresh (L : Launch) (p : Nat) (guest : Bool) (bs : List Byte) : Option SavedTeam :=
  let r := L.lrec
  let head := numAt bs 0 512
  let f := fun n : Nat => Config.saveField n head
  let index := f 0
  let n := recGroups r
  let lanes := (List.range n).flatMap fun g => (List.range 32).map fun k => newLane p L 0 index 0 g k
  let q := fun i : Nat => ({ sram0 with mode := .queue, qhead := f (20 + 4 * i) % 3072, qcount := f (21 + 4 * i) % 3073,
                                        prod := (List.range n)[f (22 + 4 * i)]?, cons := (List.range n)[f (23 + 4 * i)]? } : Sram)
  let team : Team :=
    { tid := 0, part := p, seq := L.seq, index := index, cluster := 0, set := 0, groups := (List.range n).map (newGroup r),
      macros := List.range (recNs r + recNq r), cvs := List.range (recNcv r), tiles := List.range (recNt r),
      bars := (List.range 4).map fun i => { phase := f (4 + 2 * i) % 2 ^ 16, mask := f (5 + 2 * i) % 2 ^ 32 },
      handles := List.replicate 4 .unused, smode := [], ordered := [], begun := false }
  let v : SavedTeam :=
    { guest := guest, team := team, lanes := lanes, srams := List.replicate (recNs r) sram0 ++ (List.range (recNq r)).map q,
      cvregs := List.replicate (recNcv r) cv0, cells := List.replicate (recNt r) [], pins := [], block := bs }
  let fixed := (v.sections r).flatten.sum
  let es := chunks 64 (f 2) ((bs.drop fixed).take (64 * f 2))
  let back := v.lanes.filterMap fun l => l.takeReplays es
  let outside := es.any fun e => !(v.lanes.any fun l => entryLane e == (l.id.grp, l.id.slot))
  if outside ∨ back.length ≠ v.lanes.length then none
  else
    (({ v with lanes := back } : SavedTeam).fromBlock r bs).map fun w =>
      { w with lanes := w.lanes.map fun l =>
          let g := (bs.drop (512 + ((List.range l.id.grp).map (groupSize r)).sum)).take 2304
          { l with park := parkFrom (numAt g (1568 + l.id.slot) 1) (numAt g (2048 + 4 * l.id.slot) 4) head (32 * l.id.grp + l.id.slot),
                   obj := if l.depth = 0 then .launched else .handler } }
/-- The bytes of a team's block. -/
def freshSize (r nrepl : Nat) : Nat :=
  let n := 512 + ((List.range (recGroups r)).map (groupSize r)).sum + 52224 * recNs r + 49280 * recNq r + 10368 * recNcv r + 524288 * recNt r + 1024 +
    64 * nrepl
  (n + 127) / 128 * 128
/-- The n teams whose blocks begin at some bytes, each with the position of its launch. -/
def freshTeams (p : Nat) (guest : Bool) (ls : List Launch) : Nat → List Byte → Option (List (Nat × SavedTeam))
  | 0, _ => some []
  | n + 1, bs =>
    let head := numAt bs 0 512
    let pos := Config.saveField 1 head
    (ls[pos]?).bind fun L =>
      let len := freshSize L.lrec (Config.saveField 2 head)
      (SavedTeam.fresh L p guest (bs.take len)).bind fun v => (freshTeams p guest ls n (bs.drop len)).map fun r => (pos, v) :: r
/-- The launches of an area by its bytes alone: records of legal shapes, with the teams of their blocks. -/
def freshLaunches (extra p l1ways : Nat) (bs : List Byte) : Option (List Launch) :=
  let head := numAt bs 0 256
  let n := fld head 288 32
  let body := bs.drop (256 + extra)
  let blocks := chunks 512 n body
  let tail := fun b : List Byte => numAt b 384 128
  let seqs := blocks.map fun b => Config.saveField 0 (tail b) % 2 ^ 32
  let ls := blocks.map fun b =>
    let t := tail b
    let r := numAt b 0 384
    let waits := (seqs.zipIdx.filter fun e => (Config.saveField 3 t).testBit e.2).map (·.1)
    { newLaunch (Config.saveField 0 t % 2 ^ 32) r (Config.saveField 4 t % 8) none (Config.saveField 5 t % 3) waits (Config.saveField 6 t % 2 == 1) with
      placed := Config.saveField 1 t, retired := Config.saveField 2 t }
  if n > 64 || body.length < 512 * n || ls.any fun L => !budgetOk L.lrec || !shapeOk l1ways L.lrec then none
  else
    (freshTeams p (extra == 0) ls (fld head 320 32) (body.drop (512 * n))).map fun ts =>
      ls.mapIdx fun i L => { L with restore := (ts.filter fun e => e.1 == i).foldl (fun r e => restoreAt e.2 r) [] }

end Sys2Proof.Machine
end

