-- ==== Sys2Proof/Machine/Preempt.lean ====
section
/-! DEFINITION. Pre-emption (R244 to R247, R250 to R252) and what RESETTING clears (R258). -/
namespace Sys2Proof.Machine
open Sys2Proof

/-! ## What RESETTING clears (R12, R258) -/

/-- A cluster as RESETTING leaves it: what the hardware has fenced, lost or taken out stays. -/
def Cluster.cleared (c : Cluster) : Cluster :=
  { cluster0 with fenced := c.fenced, nextTest := c.nextTest, out := c.out, lost := c.lost }
/-- A partition as RESETTING leaves it: the registers of the PF, its saves and its state stay. -/
def Part.cleared (x : Part) : Part :=
  { part0 with triples := x.triples, colours := x.colours, saveres := x.saveres, savefr := x.savefr, vfp := x.vfp, vfs := x.vfs,
               share := x.share, saveMaxH := x.saveMaxH, status := x.status, cmdPend := x.cmdPend, state := x.state, thenInactive := x.thenInactive, saved := x.saved, chron := x.chron,
               otrace := x.otrace, aggFault := x.aggFault, aggTrace := x.aggTrace, aggStop := x.aggStop, poladdr := x.poladdr,
               policy := x.policy, polhash := x.polhash, energy := x.energy, energyPub := x.energyPub, ftag := x.ftag, peers := x.peers, snapHyp := x.snapHyp, snapNext := x.snapNext,
               fixHypDone := x.fixHypDone, pre := { part0.pre with status := x.pre.status } }
/-- The interrupt tables of a partition's functions return to their reset state: every vector masked, its words 0 (log entry 10). -/
def State.resetMsix (s : State) (fs : List Nat) : State :=
  { s with msixOpen := s.msixOpen.filter (fun e => !fs.contains e.1), msixPend := s.msixPend.filter (fun e => !fs.contains e.1),
           msixTable := s.msixTable.filter fun e => !fs.contains (e.1 / 2048) }
def Part.fnKeys (x : Part) : List Nat := [x.vfp, x.vfs].filter (· != 0)
/-- Everything that R258 clears. -/
def State.clearPart (s : State) (p : Nat) : State :=
  let x := s.part p
  let s1 := s.dropTeams p
  let s2 := x.clusters.foldl (fun s c => s.modCluster c Cluster.cleared) s1
  let s3 := (s2.modPart p Part.cleared).resetMsix x.fnKeys
  { s3 with unitWait := s3.unitWait.filter (fun w => w.part != p), tlb := s3.tlb.filter (fun e => e.part != p), pins := s3.pins.filter (fun q => q.part != p),
            lastWord := s3.lastWord.filter fun e => !x.clusters.contains (e.1 / 16) }

/-! ## Commands of a guest (R244) -/

/-- Are all frames of an area OWNED by the partition? -/
def State.ownsArea (s : State) (p base frames : Nat) : Bool := (List.range frames).all fun i => s.owned p (base + 65536 * i)
/-- What refuses a command: BUSY, SPACE, OWNER (R244). -/
def State.preRefusal (s : State) (p : Nat) : Option Nat :=
  let x := s.part p
  if x.pre.step ≠ 0 then some 1
  else if x.pre.savefr < x.saveMax then some 2
  else if !s.ownsArea p x.pre.savebase x.pre.savefr then some 3
  else none
def State.modPre (s : State) (p : Nat) (f : Preempt → Preempt) : State := s.modPart p fun x => { x with pre := f x.pre }
/-- PREEMPT (R244, R245): the DRAIN step begins. -/
def State.cmdPreempt (s : State) (p : Nat) : State :=
  match s.preRefusal p with
  | some st => s.modPre p fun q => { q with status := st }
  | none => s.modPre p fun q => { q with status := 0, step := 1, since := s.time }
def execPreempt (p : Nat) (s : State) : Host.Outcome State Fault Refusal :=
  .next (s.viaVf p 0x3040 4 1 fun s => if s.serving p then s.cmdPreempt p else s)

/-! ## Saving a team (R246) -/

/-- The resident teams that a save has yet to save. -/
def State.toSave (s : State) (p : Nat) : List Team :=
  s.teams.filter fun t => t.part == p && (s.launch? p t.seq).elim false (s.part p).chosen
/-- Has a lane stopped with every result written that can be: what is left of its deferred instructions has faulted, and is known to the
driver unless the lane has signed and waits for a firing, or waits for its turn (R86, R246, R356)? -/
def State.laneStill (s : State) (l : Lane) : Bool :=
  !l.issuing && !s.ready l && l.trap.isNone && l.pfault.isNone && l.deferred.all Deferred.again &&
    (!l.deferred.any Deferred.faulted || l.deferred.any (fun d => d.wait == .ordered) ||
      match l.park with
      | .fault _ | .conv _ => true
      | _ => false)
/-- Does a transfer write to a team's scratch (R209)? -/
def Xfer.writesTo (x : Xfer) (tid : Nat) : Bool := x.tile.isNone && !x.gather && x.path == .s2ps && x.peerTid == tid
/-- Has a team stopped with every result written and every operation of its engines done, those that write to its scratch too? -/
def State.teamStill (s : State) (t : Team) : Bool :=
  (s.lanes.all fun l => l.id.tid != t.tid || s.laneStill l) && t.smode.isEmpty &&
    !(s.xfers.any fun x => x.lane.tid == t.tid || x.writesTo t.tid) && !(((s.cluster t.cluster).table ++ (s.cluster t.cluster).waiting).any fun e => e.tid == t.tid) &&
    !(s.peers.any fun r => r.lane.elim false fun l => l.tid == t.tid)
/-- A lane that leaves a park for the marker at which its fault is taken: it issues the word of the park again afterwards. None for a park
that its word cannot enter twice. -/
def Lane.unparked (l : Lane) : Option Lane :=
  match l.park with
  | .ready | .queue | .mxaWait _ => some { l with park := .ready, marker := true }
  | .drain _ _ => some { l with park := .ready, marker := true, pc := l.pc - 4 }
  | .collw _ _ => some { l with park := .ready, marker := true, pc := l.pc - 8 }
  | _ => none
/-- A fault revealed while results are written parks its lane now (R246): the lane goes to its marker. -/
def State.revealFaults (s : State) (t : Team) : State :=
  let hit := (s.lanes.filter fun l => l.id.tid == t.tid && !l.issuing && !s.ready l && l.trap.isNone && l.pfault.isNone &&
    !l.deferred.isEmpty && l.deferred.all Deferred.faulted).filterMap Lane.unparked
  (hit.foldl State.setLane s).settle (hit.map (·.id))
/-- Soundings on accesses that a save leaves to be executed again are lost: they are counted and sounded no more (R275). -/
def State.lostSounds (s : State) (t : Team) : State :=
  let hit := fun d : Deferred => d.again && d.sounded != 0
  (s.lanes.filter fun l => l.id.tid == t.tid && l.deferred.any hit).foldl
    (fun s l => (s.countLane l evSndLost (l.deferred.filter hit).length).modLane l.id fun l =>
      { l with deferred := l.deferred.map fun d => if hit d then { d with sounded := 0 } else d }) s
/-- Save a team: its sections, and its place in its launch; then its resources are free (R131, R133, R246). What a lane took before its marker
stays with it, to stand at the marker (R80, R432). A poisoned scratch word is an error in state being saved. -/
def State.saveTeam (s : State) (t : Team) : State :=
  let c := s.cluster t.cluster
  if t.macros.any fun m => !(c.macro' m).poison.isEmpty then s.halt t.part 0x26 0 (some (launchWho t.seq))
  else
    let d := (s.lostSounds t).draw
    let ls := d.2.lanes.filter fun l => l.id.tid == t.tid
    let cells := t.tiles.map fun i => (c.cells.filter fun e => e.1 / 4096 == i).map fun e => (e.1 % 4096, e.2)
    let v : SavedTeam :=
      { guest := (s.part t.part).hypStep == 0, team := t, lanes := ls, srams := t.macros.map c.macro', cvregs := t.cvs.map c.cvOf, cells := cells,
        pins := s.pins.filter fun p => p.tid == t.tid, block := d.2.teamBlock t d.1 }
    let s1 := d.2.freeTeam t
    let gone := fun e : LaneId × Nat => e.1.tid == t.tid
    let s2 := s1.modPart t.part fun x =>
      { x with faults := (x.faults.map fun f => { f with lanes := f.lanes.filter fun e => !gone e }).filter fun f =>
          !f.lanes.isEmpty || f.xfer.isSome || f.coll.isSome }
    s2.modLaunch t.part t.seq fun L =>
      { L with restore := restoreAt v L.restore, clusterCnt := if tget 0 t.cluster L.clusterCnt ≤ 1 then tdel t.cluster L.clusterCnt else tmod 0 t.cluster (· - 1) L.clusterCnt,
               dieCnt := if tget 0 (t.cluster / 48) L.dieCnt ≤ 1 then tdel (t.cluster / 48) L.dieCnt else tmod 0 (t.cluster / 48) (· - 1) L.dieCnt }
/-- Save every team that has stopped. -/
def State.saveStill (s : State) (p : Nat) : State :=
  let s1 := (s.toSave p).foldl State.revealFaults s
  (s1.toSave p).foldl (fun s t => if s.serving p && s.teamStill t then s.saveTeam t else s) s1

/-! ## The end of a save (R245, R247) -/

/-- The chosen launches, in the window's order. -/
def Part.chosenLaunches (x : Part) : List Launch := x.window.filter x.chosen
/-- The bytes of each launch block whose arrangement is the device's own. -/
def launchTails (ls : List Launch) : List (List Byte) := ls.map fun L => leBytes (Config.saveBlock (launchFields ls L)) 128
/-- Launches whose saved teams have their headers. -/
def headTeams (ls : List Launch) : List Launch := ls.mapIdx fun i L => { L with restore := L.restore.map (SavedTeam.headed i L.lrec) }
/-- The bytes of a save area, digest included, with the teams that `mine` selects; `extra` is the partition block of a hypervisor save. -/
def areaBytes (p kind ctxmask time : Nat) (extra : List Byte) (mine : SavedTeam → Bool) (ls : List Launch) (tails : List (List Byte)) : List Byte :=
  let teams := teamBlocks mine ls
  let blocks := extra ++ ((ls.zip tails).flatMap fun e => launchBlock e.1 e.2) ++ teams.flatten
  let head := leBytes (saveHeader p kind ctxmask ls.length teams.length (256 + blocks.length) time) 256
  let bs := head ++ blocks
  bs.take digestAt ++ leBytes (areaDigest bs).toNat 64 ++ bs.drop 256
/-- The digest field of such an area. -/
def digestField (bs : List Byte) : BitVec 512 := BitVec.ofNat 512 (leNat ((bs.drop digestAt).take 64))
/-- A save holds every team of the launches, or those that are not in the guest's own area (R251). -/
def everyTeam : SavedTeam → Bool := fun _ => true
def hypTeam : SavedTeam → Bool := fun v => !v.guest
/-- A guest save is done: the area is written, the launches leave the window (R245). -/
def State.endGuestSave (s : State) (p : Nat) : State :=
  let x := s.part p
  let ls := headTeams x.chosenLaunches
  let tails := launchTails ls
  let t := s.readChron p
  let bs := areaBytes p 1 x.pre.ctxmask t.1 [] everyTeam ls tails
  let s1 := t.2.devWrites p x.pre.savebase bs.length bs
  s1.modPart p fun x =>
    { x with window := x.window.filter fun L => !x.chosen L, pre := { x.pre with step := 0, status := 0 },
             saved := x.saved ++ [{ hyp := false, forced := false, tails := tails, launches := ls }] }
/-- A hypervisor save is done (R251): the partition keeps its registers and its window, to be taken up at RESUME; teams that a guest's
pre-emption has saved stay in the guest's area. -/
def State.endHypSave (s : State) (p : Nat) : State :=
  let x := s.part p
  let d := s.draw
  let ls := headTeams x.window
  let tails := launchTails ls
  let t := d.2.readChron p
  let bs := areaBytes p 2 0xFFFF t.1 (leBytes d.1 partBlockBytes) hypTeam ls tails
  (t.2.homeWrite x.saveres bs).modPart p fun x =>
    { x with state := .suspended, hypStep := 0, chron := if x.chron.hide then { x.chron with stopped := some s.time } else x.chron,
             window := ls, saved := x.saved ++ [{ hyp := true, forced := false, tails := tails, launches := [] }] }

/-- The deadline of a guest's step has passed: both count from the command (R245). -/
def State.preDue (s : State) (p micros : Nat) : Bool := decide ((s.part p).pre.since + 1000 * micros ≤ s.time)

/-- DRAINT_EXPIRY (R245): the SAVE step begins, and every team that stands still is saved. The hypervisor's deadline is not in the
partition's registers. -/
def execDraintExpiry (p : Nat) (s : State) : Host.Outcome State Fault Refusal :=
  let x := s.part p
  if !s.serving p then .next s
  else if x.hypStep = 1 then .next ((s.modPart p fun x => { x with hypStep := 2 }).saveStill p)
  else if x.hypStep = 0 ∧ x.pre.step = 1 ∧ s.preDue p x.pre.draint then
    .next ((s.modPre p fun q => { q with step := 2 }).saveStill p)
  else .next s
/-- Have all teams of the chosen launches retired or been saved; in DRAIN, those that a hypervisor's suspension took off their clusters
are still to run (R245, R251)? -/
def State.saveOver (s : State) (p : Nat) : Bool :=
  (s.toSave p).isEmpty && ((s.part p).pre.step != 1 || (s.part p).chosenLaunches.all (·.restore.isEmpty))
/-- PREEMPT_SAVE_COMPLETE (R245): teams that have come to a stop are saved; once none of the chosen launches is resident, the save is
done. -/
def execPreemptSaveComplete (p : Nat) (s : State) : Host.Outcome State Fault Refusal :=
  let x := s.part p
  if !s.serving p || x.hypStep != 0 || (x.pre.step != 1 && x.pre.step != 2) then .next s
  else
    let s1 := if x.pre.step = 2 then s.saveStill p else s
    .next (if s1.serving p && s1.saveOver p then s1.endGuestSave p else s1)

/-! ## A deadline that passes (R252) -/

/-- Every launch of the window ends with CANCEL. -/
def State.cancelAll (s : State) (p : Nat) : State :=
  (s.part p).window.foldl
    (fun s L => match s.launch? p L.seq with
      | some L => s.endLaunch p L stCancel
      | none => s) s
/-- The forced reset: launches end with CANCEL, the area's header is made invalid, the partition is reset; STATUS reads FORCED. -/
def State.forceReset (s : State) (p : Nat) : State :=
  let x := s.part p
  let s1 := s.cancelAll p
  let s2 := s1.devWrites p x.pre.savebase 256 (zeros 256)
  s2.modPart p fun x => { x with state := .resetting, thenInactive := false, pre := { x.pre with status := 5 } }
/-- The forced end of a hypervisor save: SUSPENDED with a partition block, no valid header and no teams; STATUS reads FORCED. Writes held
for the resume stay held (R251, R297). -/
def State.forceHyp (s : State) (p : Nat) : State :=
  let x := s.part p
  let d := ((s.cancelAll p).clearPart p).draw
  (d.2.homeWrite x.saveres (zeros 256 ++ leBytes d.1 partBlockBytes)).modPart p fun y =>
    { y with state := .suspended, hypStep := 0, chron := if x.chron.hide then { x.chron with stopped := some s.time } else x.chron,
             saved := y.saved ++ [{ hyp := true, forced := true, tails := [], launches := [] }], heldWrites := x.heldWrites,
             pre := { y.pre with status := 5 } }
/-- SAVET_EXPIRY (R252). -/
def execSavetExpiry (p : Nat) (s : State) : Host.Outcome State Fault Refusal :=
  let x := s.part p
  if !s.serving p then .next s
  else if x.hypStep = 2 then .next (s.forceHyp p)
  else if x.hypStep = 0 ∧ x.pre.step = 2 ∧ s.preDue p x.pre.savet then .next (s.forceReset p)
  else .next s

/-! ## Resume (R250) -/

/-- The bytes of the area at `base`, if they can be read and its header is that of the partition's save of a kind, whole within the area
and with its digest. -/
def State.areaAt (s : State) (p base frames : Nat) (hyp : Bool) : Option (List Byte) :=
  let head := leNat (readBytes s.mem base 256)
  let len := fld head 352 32
  let bs := readBytes s.mem base len
  if fld head 0 32 = saveMagic ∧ fld head 32 32 = 1 ∧ fld head 256 8 = p ∧ fld head 264 8 = (if hyp then 2 else 1) ∧ 256 ≤ len ∧ len ≤ 65536 * frames ∧
      digestField bs = areaDigest bs ∧ !((linesOf base len).any s.poison.contains) then some bs
  else none
/-- The lines of the area at `base` that a resume reads come home first, those in the merge state folded (R166, R167): the header's, then as many
bytes as it says. False while one of them is away. -/
def State.bringArea (s : State) (base frames : Nat) : State × Bool :=
  let h := s.homeRead base 256
  match h.2 with
  | none => (h.1, false)
  | some bs =>
    let len := fld (leNat bs) 352 32
    if 65536 * frames < len then (h.1, true)
    else
      let q := h.1.homeRead base len
      (q.1, q.2.isSome)
/-- The launches of a guest's save as its area has them. -/
def State.savedAt (s : State) (p base frames : Nat) : Option (List Launch) :=
  let x := s.part p
  (s.areaAt p base frames false).bind fun bs =>
    match x.saved.reverse.find? fun v => !v.hyp && areaMatches 0 v.tails everyTeam v.launches bs with
    | some v => areaLaunches 0 x.l1ways everyTeam v.launches bs
    | none => freshLaunches 0 p x.l1ways bs
/-- The window of a suspended partition with its teams as the reserve has them. -/
def State.windowAt (s : State) (p : Nat) : Option (List Launch) :=
  let x := s.part p
  (s.areaAt p x.saveres x.savefr true).bind fun bs =>
    match x.saved.reverse.find? fun v => v.hyp && !v.forced && areaMatches partBlockBytes v.tails hypTeam x.window bs with
    | some _ => areaLaunches partBlockBytes x.l1ways hypTeam x.window bs
    | none => freshLaunches partBlockBytes p x.l1ways bs
/-- A launch with another sequence number, its saved teams with it. -/
def Launch.renumber (L : Launch) (seq : Nat) : Launch :=
  { L with seq := seq, restore := L.restore.map fun v =>
      { v with team := { v.team with seq := seq }, lanes := v.lanes.map fun l => { l with seq := seq } } }
/-- The launches re-enter the window ahead of the others, which wait for those they depend on (R195, R250). One whose sequence number is
in use takes the next. -/
def Part.reenter (x : Part) (ls : List Launch) (now : Nat) : Part :=
  let used := fun n : Nat => x.window.any fun L => L.seq == n
  let q := ls.foldl
    (fun (acc : List (Nat × Launch) × Nat) L =>
      if used L.seq then (acc.1 ++ [(L.seq, L.renumber acc.2)], (acc.2 + 1) % 2 ^ 32) else (acc.1 ++ [(L.seq, L)], acc.2)) ([], x.nextSeq)
  let new := fun n : Nat => ((q.1.find? fun e => e.1 == n).map (·.2.seq)).getD n
  let back := q.1.map fun e => { e.2 with waits := e.2.waits.map new, since := now, held := false }
  let later := x.window.map fun M =>
    if recIndep M.lrec then M
    else { M with waits := M.waits ++ (back.filter fun E => recCtx E.lrec % 16 == recCtx M.lrec % 16 && dependsOn M.lrec E.lrec).map (·.seq) }
  { x with window := back ++ later, nextSeq := q.2 }
/-- A guest's RESUME reads and checks its area: refused, or its launches re-enter the window and RESTORE goes on to the placement of the last of
their teams; while a line of the area is away it waits (R244, R250). -/
def State.resumeCheck (s : State) (p : Nat) : State :=
  let q := (s.part p).pre
  let g := s.bringArea q.savebase q.savefr
  if !g.2 then g.1.modPre p fun q => { q with status := 0, step := 3, checking := true }
  else
    match g.1.savedAt p q.savebase q.savefr with
    | none => g.1.modPre p fun q => { q with status := 4, step := 0, checking := false }
    | some ls =>
      (g.1.modPart p fun x => x.reenter ls s.time).modPre p fun q =>
        { q with status := 0, step := if ls.all (·.restore.isEmpty) then 0 else 3, checking := false }
/-- RESUME (R244, R250). -/
def State.cmdResume (s : State) (p : Nat) : State :=
  match s.preRefusal p with
  | some st => s.modPre p fun q => { q with status := st }
  | none => s.resumeCheck p
/-- A RESUME that waits is tried again. -/
def State.retryResume (s : State) (p : Nat) : State :=
  if s.serving p && (s.part p).hypStep == 0 && (s.part p).pre.checking then s.resumeCheck p else s
/-- PREEMPT_RESUME. -/
def execPreemptResume (p : Nat) (s : State) : Host.Outcome State Fault Refusal :=
  .next (s.viaVf p 0x3040 4 2 fun s => if s.serving p then s.cmdResume p else s)

end Sys2Proof.Machine
end

