-- ==== Sys2Proof/Machine/VfRegs.lean ====
section
/-! DEFINITION. The register space of a virtual function (R294, R257) and the registers it writes. -/
namespace Sys2Proof.Machine
open Sys2Proof

/-! ## Writing part of a block -/

/-- A block of bytes with `width` bytes at `off` replaced by the low bytes of v. -/
def overlay (old off width v : Nat) : Nat :=
  old - fld old (8 * off) (8 * width) * 2 ^ (8 * off) + v % 2 ^ (8 * width) * 2 ^ (8 * off)
/-- Does an access of a block touch byte `n`? -/
def touches (off width n : Nat) : Bool := decide (off ≤ n) && decide (n < off + width)

/-! ## Rings (R231, R268) -/

/-- A fault-queue or operator ring block as a number (R231). -/
def Ring.faultBlock (r : Ring) : Nat :=
  bit r.en + r.log2n * 2 ^ 8 + r.msix * 2 ^ 80 + r.lost * 2 ^ 96 + r.head * 2 ^ 128 + r.tail * 2 ^ 160 + r.base * 2 ^ 192
/-- Write such a block: LOG2N from 4 to 16, BASE aligned to 4 KiB, TAIL and LOST read-only. -/
def Ring.writeFault (r : Ring) (off width v : Nat) : Ring :=
  let n := overlay r.faultBlock off width v
  { r with en := fld n 0 1 == 1, log2n := if 4 ≤ fld n 8 5 ∧ fld n 8 5 ≤ 16 then fld n 8 5 else 4, msix := fld n 80 16, head := fld n 128 32,
           base := fld n 204 52 * 2 ^ 12 }
/-- A trace block as a number (R268). -/
def Ring.traceBlock (r : Ring) : Nat :=
  bit r.en + r.log2n * 2 ^ 8 + r.kinds * 2 ^ 64 + r.pcper * 2 ^ 72 + r.sndrate * 2 ^ 80 + r.lost * 2 ^ 96 + r.head * 2 ^ 128 + r.tail * 2 ^ 160 +
    r.base * 2 ^ 192
/-- Write a trace block. -/
def Ring.writeTrace (r : Ring) (off width v : Nat) : Ring :=
  let n := overlay r.traceBlock off width v
  { r with en := fld n 0 1 == 1, log2n := if 6 ≤ fld n 8 5 ∧ fld n 8 5 ≤ 20 then fld n 8 5 else 6, kinds := fld n 64 8,
           pcper := if 8 ≤ fld n 72 8 ∧ fld n 72 8 ≤ 24 then fld n 72 8 else 0,
           sndrate := if 4 ≤ fld n 80 8 ∧ fld n 80 8 ≤ 20 then fld n 80 8 else 0, head := fld n 128 32, base := fld n 204 52 * 2 ^ 12 }
/-- A write of SNDRATE begins the count of a stream's words afresh on the die's quarters (R272). -/
def Part.restartSnd (x : Part) (die stream off width : Nat) : Part :=
  if touches off width 10 then { x with snd := x.snd.filter fun e => !(e.1 % 2 == stream && e.1 / 2 / 768 == die) } else x
def State.writeGuestTrace (s : State) (p die off width v : Nat) : State :=
  s.modPart p fun x =>
    ({ x with gtrace := tmod (ring0 6) die (fun r => r.writeTrace off width v) x.gtrace } : Part).restartSnd die 0 off width

/-! ## Submission queues (R186, R187) -/

def Sq.block (q : Sq) : Nat := bit q.en + q.prio * 2 ^ 4 + q.log2n * 2 ^ 8 + q.base * 2 ^ 64 + q.tail * 2 ^ 128 + q.head * 2 ^ 160 + q.err * 2 ^ 192
/-- Write a queue's block: a rewrite that enables it ends its error; TAIL acts as the doorbell. A PRIO of 8 to 15, for which the spec gives
no rule, is stored as 7 (DESIGN CHOICE, log entry 57). -/
def State.writeSq (s : State) (p q off width v : Nat) : State :=
  let n := overlay ((s.part p).sq q).block off width v
  let s1 := s.modSq p q fun x =>
    { x with en := fld n 0 1 == 1, prio := min (fld n 4 4) 7, log2n := if 4 ≤ fld n 8 5 ∧ fld n 8 5 ≤ 16 then fld n 8 5 else 4,
             base := fld n 76 52 * 2 ^ 12, err := if touches off width 0 && fld n 0 1 == 1 then 0 else x.err }
  if touches off width 16 then s1.doorbell p q (BitVec.ofNat 32 (fld n 128 32)) else s1

/-! ## Contexts (R135) -/

/-- Write bytes of a context's block. -/
def State.writeCtxBlock (s : State) (p ctx off width v : Nat) : State :=
  let old := s.ctxBlock p ctx
  let n := overlay old off width v
  (List.range 8).foldl (fun s w => if touches off width (8 * w) || fld n (64 * w) 64 != fld old (64 * w) 64 then s.writeCtx p ctx w (BitVec.ofNat 64 (fld n (64 * w) 64)) else s) s

/-! ## PREEMPT (R244) -/

/-- The block as a number, SAVEMAX among its fields (R244). -/
def Preempt.block (q : Preempt) (saveMax : Nat) : Nat :=
  q.step * 2 ^ 20 + q.status * 2 ^ 24 + q.savet * 2 ^ 32 + q.draint * 2 ^ 64 + saveMax % 2 ^ 32 * 2 ^ 96 + q.ctxmask * 2 ^ 144 + q.savefr * 2 ^ 160 + q.savebase * 2 ^ 192
/-- Write the PREEMPT block: discarded whole while a command is in progress, but that a command is then refused with BUSY; a command that
is refused changes nothing but STATUS. -/
def State.writePreempt (s : State) (p off width v : Nat) : State :=
  let q := (s.part p).pre
  let n := overlay (q.block (s.part p).saveMax) off width v
  let cmd := if touches off width 0 then fld n 0 4 else 0
  if q.step ≠ 0 then (if cmd = 1 ∨ cmd = 2 then s.modPre p fun q => { q with status := 1 } else s)
  else
    let s1 := s.modPre p fun q =>
      { q with savet := fld n 32 32, draint := fld n 64 32, ctxmask := fld n 144 16, savefr := fld n 160 32, savebase := fld n 208 48 * 2 ^ 16 }
    if cmd = 1 ∨ cmd = 2 then
      (if !s1.serving p then s1
       else
         match s1.preRefusal p with
         | some st => s.modPre p fun q => { q with status := st }
         | none => if cmd = 1 then s1.cmdPreempt p else s1.cmdResume p)
    else s1

/-! ## Debug (R241) -/

/-- The group that DBGSEL names: of the oldest resident team with that index. -/
def State.dbgGroup (s : State) (p : Nat) : Option (Nat × Nat) :=
  let sel := (s.part p).dbgsel
  match s.teams.find? fun t => t.part == p && t.index == fld sel 0 32 with
  | some t => if t.groups.any fun g => g.idx == fld sel 32 5 && !g.retired then some (t.tid, fld sel 32 5) else none
  | none => none
def State.writeDbg (s : State) (p : Nat) (w : Word) : State :=
  match s.dbgGroup p with
  | some g => s.writeDbgctl g.1 g.2 w
  | none => s

/-! ## Counter banks (R262, R263, R294) -/

/-- The register of a bank at an offset of its space, with the byte it begins at: control, events, threshold, counters, snapshots. -/
def bankReg (off : Nat) : Option (Nat × Nat) :=
  if off < 4 then some (0, 0)
  else if 0x10 ≤ off ∧ off < 0x20 then some (1 + (off - 0x10) / 4, (off - 0x10) / 4 * 4 + 0x10)
  else if 0x20 ≤ off ∧ off < 0x28 then some (5, 0x20)
  else if 0x80 ≤ off ∧ off < 0x100 then some (0x10 + (off - 0x80) / 8, (off - 0x80) / 8 * 8 + 0x80)
  else none
/-- The value a bank register holds, for a write of part of it. Of the control register a write of one or two bytes takes the bytes that it does
not cover as zero, so that it acts as a command or a configuration of its own: the spec states no access widths (DESIGN CHOICE, log entry 57). -/
def CBank.held (b : CBank) (r : Nat) : Nat :=
  if r = 0 then 0 else if r ≤ 4 then (b.ev[r - 1]!).toNat else if r = 5 then b.thr.toNat else (b.cnt[r % 16]!).toNat
/-- A party writes bytes of one register of a bank's space. -/
def State.writeBankReg (s : State) (p n : Nat) (who : Party) (off width v : Nat) : State :=
  match bankReg off with
  | none => s
  | some (r, at') =>
    let b := s.bank p n
    s.setBank p n (b.write who r (BitVec.ofNat 64 (overlay (b.held r) (off - at') width v)))
/-- A party writes bytes of a bank's space: eight bytes at two registers of four write both (R294). -/
def State.writeBank (s : State) (p n : Nat) (who : Party) (off width v : Nat) : State :=
  if width = 8 ∧ off < 0x20 then (s.writeBankReg p n who off 4 v).writeBankReg p n who (off + 4) 4 (v / 2 ^ 32)
  else s.writeBankReg p n who off width v

/-! ## Device sets (R300) and interrupts (R296) -/

/-- The writable bits of a device-set entry. -/
def setMask : Nat := (2 ^ 58 - 1) * 2 ^ 70 + 0x7FF * 2 ^ 32 + 0x3FF * 2 ^ 16 + 1
def State.writeSet (s : State) (p n off width v : Nat) : State :=
  s.modPart p fun x => { x with sets := tmod 0 n (fun e => overlay e off width v &&& setMask) x.sets }

/-- Unmask a vector: one message for a pending bit (R296). -/
def State.unmask (s : State) (f : Fn) (vec : Nat) : State :=
  let k := (fnKey f, vec)
  let s1 : State := if s.msixOpen.contains k then s else { s with msixOpen := s.msixOpen ++ [k] }
  if s1.msixPend.contains k then ({ s1 with msixPend := s1.msixPend.filter (· != k) }).emit (.msix f vec) else s1
/-- Mask a vector. -/
def State.mask (s : State) (f : Fn) (vec : Nat) : State := { s with msixOpen := s.msixOpen.filter (· != (fnKey f, vec)) }
/-- Write bytes of an MSI-X table, 16 bytes a vector (log entry 10): the mask is bit 0 of byte 12. -/
def State.writeMsix (s : State) (f : Fn) (off width v : Nat) : State :=
  let vec := off / 16
  let k := fnKey f * 2048 + vec
  let s1 : State := { s with msixTable := tmod 0 k (fun e => overlay e (off % 16) width v % 2 ^ 96) s.msixTable }
  if touches (off % 16) width 12 then
    (if fld v (8 * (12 - off % 16)) 1 = 0 then s1.unmask f vec else s1.mask f vec)
  else s1
/-- MSIX_UNMASK (R296) of a function that exists (R293). -/
def execMsixUnmask (f : Fn) (vec : Nat) (s : State) : Host.Outcome State Fault Refusal :=
  whenReady s fun s => if fnExists f && decide (vec < 2048) then s.unmask f vec else s

/-! ## The space of a VF (R294) -/

/-- Does the secondary VF carry the block at an offset (R257, R294)? -/
def secondaryHas (off : Nat) : Bool :=
  (decide (0x80 ≤ off) && decide (off < 0x100)) || (decide (0x1200 ≤ off) && decide (off < 0x1400)) || (decide (0x4000 ≤ off) && decide (off < 0x4400)) ||
    (decide (0x5000 ≤ off) && decide (off < 0x6000)) || (decide (0x10000 ≤ off) && decide (off < 0x18100))
/-- A write to a VF's register space, for the partition it is bound to. -/
def State.vfWrite (s : State) (p fn off width : Nat) (v : DWord) : State :=
  let n := v.toNat
  let lo : Word := v.setWidth 32
  let secondary := fn != (s.part p).vfp
  if secondary && !secondaryHas off then s
  else if off < 0x100 then (if off % 8 = 0 then s.doorbell p (off / 8) lo else s)
  else if 0x1000 ≤ off ∧ off < 0x1400 then s.writeSq p ((off - 0x1000) / 32) (off % 32) width n
  else if 0x2000 ≤ off ∧ off < 0x2400 then s.writeCtxBlock p ((off - 0x2000) / 64) (off % 64) width n
  else if 0x3000 ≤ off ∧ off < 0x3020 then s.modPart p fun x => { x with fq := x.fq.writeFault (off % 32) width n }
  else if off = 0x3020 then s.writeReplay p lo
  else if 0x3040 ≤ off ∧ off < 0x3060 then s.writePreempt p (off % 32) width n
  else if 0x3060 ≤ off ∧ off < 0x3068 then s.modPart p fun x => { x with stopbase := overlay x.stopbase (off % 8) width n / 4096 % 2 ^ 52 * 4096 }
  else if 0x3068 ≤ off ∧ off < 0x3070 then s.modPart p fun x => { x with dbgbase := overlay x.dbgbase (off % 8) width n % 2 ^ 64 }
  else if off = 0x3070 then s.resumeQuarter p lo.toNat
  else if 0x3078 ≤ off ∧ off < 0x3080 then s.tvecOrWait p (BitVec.ofNat 64 (overlay (s.part p).tvec.toNat (off % 8) width n))
  else if 0x3088 ≤ off ∧ off < 0x3090 then s.modPart p fun x => { x with dbgsel := overlay x.dbgsel (off % 8) width n % 2 ^ 37 }
  else if off = 0x3090 then s.writeDbg p lo
  else if 0x4000 ≤ off ∧ off < 0x4400 ∧ off % 4 = 0 then
    let s1 := s.bumpEvent p ((off - 0x4000) / 4) lo
    if width = 8 then s1.bumpEvent p ((off - 0x4000) / 4 + 1) ((v >>> 32).setWidth 32) else s1
  else if 0x5000 ≤ off ∧ off < 0x6000 then s.writeBank p ((off - 0x5000) / 0x200) .guest ((off - 0x5000) % 0x200) width n
  else if 0x6000 ≤ off ∧ off < 0x6080 then s.writeGuestTrace p ((off - 0x6000) / 32) (off % 32) width n
  else if 0x7000 ≤ off ∧ off < 0x7400 then s.writeSet p ((off - 0x7000) / 16) (off % 16) width n
  else if 0x10000 ≤ off ∧ off < 0x18000 then s.writeMsix (.vf fn) (off - 0x10000) width n
  else s

/-! ## Registers with rows of their own -/

/-- TVEC_WRITE (R223). -/
def execTvecWrite (p : Nat) (v : DWord) (s : State) : Host.Outcome State Fault Refusal := .next (s.viaVf p 0x3078 8 v fun s => s.tvecOrWait p v)
/-- EVENT_MMIO_WRITE (R204, R294). -/
def execEventMmioWrite (p e : Nat) (n : Word) (s : State) : Host.Outcome State Fault Refusal :=
  .next (s.viaVf p (0x4000 + 4 * (e % 256)) 4 (n.setWidth 64) fun s => s.bumpEvent p e n)
/-- L1WAYS_WRITE (R116). -/
def execL1waysWrite (p : Nat) (w : Word) (s : State) : Host.Outcome State Fault Refusal := .next (s.writeL1ways p w)
/-- L1WAYS_TAKE_EFFECT (R116). -/
def execL1waysTakeEffect (cluster : Nat) (s : State) : Host.Outcome State Fault Refusal := .next (s.l1waysTake cluster)
/-- ADMITREL_WRITE (R193). -/
def execAdmitrelWrite (p ctx : Nat) (v : DWord) (s : State) : Host.Outcome State Fault Refusal := .next (s.writeAdmitrel p ctx v.toNat)
/-- ADMITREL_TAKE_EFFECT (R193). -/
def execAdmitrelTakeEffect (p ctx code : Nat) (s : State) : Host.Outcome State Fault Refusal := .next (s.releaseAdmit p ctx code)
/-- TRMARK_WRITE (R270). -/
def execTrmarkWrite (id : LaneId) (w : Word) (s : State) : Host.Outcome State Fault Refusal :=
  match s.lane? id with
  | some l => .next (s.writeTrmark l w)
  | none => .next s
/-- FFLAGS_WRITE: the written value with the flags raised in the same cycle (R40). -/
def execFflagsWrite (tid grp : Nat) (w : Word) (raised : BitVec 5) (s : State) : Host.Outcome State Fault Refusal :=
  .next (s.writeFflags tid grp w raised)
/-- LEASE_WRITE (R140, R141). -/
def execLeaseWrite (p : Nat) (w : Word) (s : State) : Host.Outcome State Fault Refusal := .next (s.writeLease p w)
/-- CTXREG_WRITE: the word of the context block that a %ctxsel value names (R135, R337). -/
def execCtxregWrite (p sel : Nat) (v : DWord) (s : State) : Host.Outcome State Fault Refusal :=
  .next (s.writeCtx p (ctxSel (BitVec.ofNat 32 sel)).1 (ctxSel (BitVec.ofNat 32 sel)).2 v)

end Sys2Proof.Machine
end

