-- ==== Sys2Proof/Machine/Partition.lean ====
section
/-! DEFINITION. The hypervisor's commands to a partition and its states (R251, R252, R254 to R259, R282, R285, R297). -/
namespace Sys2Proof.Machine
open Sys2Proof

/-- Set the STATUS a command leaves (R254): 7 STATE. -/
def State.setStatus (s : State) (p st : Nat) : State := s.modPart p fun x => { x with status := st }

/-! ## The disclosure policy (R283 to R285) -/

/-- The identity key, made from the device secret (R304). -/
def identityKey : SlhKey := slhKeygen slh256s (leBytes Config.deviceSecret.toNat 96)
def identityPublic : List Byte := identityKey.publicHalf

/-- The entries of a policy body. -/
def policyCats (body : Nat) : List Cat :=
  (List.range 8).map fun c => { gran := fld body (512 + 64 * c) 8, q := fld body (520 + 64 * c) 8, addrp := fld body (528 + 64 * c) 8 }
/-- Is a body well formed, its codes in range, and bound to this device or any? -/
def policyOk (body : Nat) : Bool :=
  fld body 0 32 == 0x50445648 && fld body 32 16 == 1 && fld body 48 16 == 0 && fld body 384 128 == 0 && body / 2 ^ 1024 == 0 &&
    (fld body 128 256 == 0 || fld body 128 256 == (hash512 identityPublic).toNat % 2 ^ 256) &&
    (List.range 8).all fun c => decide (fld body (512 + 64 * c) 8 ≤ 4) && decide (fld body (520 + 64 * c) 8 ≤ 40) &&
      decide (fld body (528 + 64 * c) 8 ≤ 4) && fld body (536 + 64 * c) 40 == 0
/-- The lines of the policy come home, folded (R166); false while one is away. -/
def State.bringPolicy (s : State) (p : Nat) : State × Bool :=
  let a := (s.part p).poladdr
  if s.d3 then (s, false)
  else if a = 0 ∨ !inHbm (a + 30111) then (s, true)
  else let q := s.homeRead a 30112; (q.1, q.2.isSome)
/-- Read and verify the policy that POLADDR names: its entries and its hash; none refuses the activation. A POLADDR that is not aligned to a
line, that reaches outside the HBM or that names poisoned lines is refused as a policy that fails its checks is: the rule's list of checks does
not name these cases (DESIGN CHOICE, log entry 57). -/
def State.readPolicy (s : State) (p : Nat) : Option (List Cat × BitVec 512) :=
  let a := (s.part p).poladdr
  if a = 0 then some (openPolicy, 0)
  else if a % 128 ≠ 0 ∨ !inHbm (a + 30111) then none
  else
    let bs := readBytes s.mem a 30112
    let body := bs.take 256
    let key := (bs.drop 256).take 64
    if (linesOf a 30112).any s.poison.contains ∨ !policyOk (leNat body) ∨ !slhVerify slh256s key body (bs.drop 320) then none
    else some (policyCats (leNat body), hash512 (body ++ key))

/-! ## ACTIVATE (R256) -/

/-- The other partitions that hold resources: those not INACTIVE. -/
def State.others (s : State) (p : Nat) : List Part := (s.parts.filter fun e => e.1 != p && e.2.state != .inactive).map (·.2)
/-- The first check of ACTIVATE but for the policy that fails (R256). A number above 128, which names no VF, is refused with VF: the spec gives the fields'
values 1 to 128 and no fate for others (R7, R254; DESIGN CHOICE, log entry 57). -/
def State.activateFails (s : State) (p : Nat) : Option Nat :=
  let x := s.part p
  let os := s.others p
  if x.triples = 0 ∨ os.any (fun o => o.triples &&& x.triples != 0) then some 2
  else if x.share < 1 ∨ 256 < x.share ∨ 256 < x.share + (os.map (·.share)).sum then some 3
  else if x.colours = 0 then some 4
  else if x.vfp = 0 ∨ 128 < x.vfp ∨ 128 < x.vfs ∨ os.any (fun o => o.fnKeys.contains x.vfp || (x.vfs != 0 && o.fnKeys.contains x.vfs)) then some 5
  else if x.savefr < x.saveMaxH ∨ !s.ownsArea p x.saveres x.savefr then some 8
  else none
/-- A command of the hypervisor that waits for what it reads answers BUSY until it has its effect (R254). -/
def State.pendCmd (s : State) (p code : Nat) : State := s.modPart p fun x => { x with status := 1, cmdPend := some code }
/-- A command that another which waits turns away with BUSY (R254). -/
def State.cmdFree (s : State) (p : Nat) (k : State) : State := if (s.part p).cmdPend.isSome then s.setStatus p 1 else k
/-- ACTIVATE once the other checks hold: the policy is read at its home and verified, or the command waits for its lines (R166 to R168, R285)
and for the HBM (R308). -/
def State.activateNow (s : State) (p : Nat) : State :=
  let g := s.bringPolicy p
  if !g.2 then g.1.pendCmd p 1
  else
    match g.1.readPolicy p with
    | none => g.1.setStatus p 6
    | some q => g.1.modPart p fun x => { x with status := 0, state := .active, policy := q.1, polhash := q.2 }
/-- ACTIVATE. -/
def State.cmdActivate (s : State) (p : Nat) : State :=
  s.cmdFree p <|
    if (s.part p).state ≠ .inactive then s.setStatus p 7
    else
      match s.activateFails p with
      | some st => s.setStatus p st
      | none => s.activateNow p
def execPartitionActivate (p : Nat) (s : State) : Host.Outcome State Fault Refusal := whenReady s fun s => s.cmdActivate (p % 64)

/-! ## RESET and DEACTIVATE (R255, R258, R259) -/

/-- The units of the partition stop, and RESETTING begins. -/
def State.beginReset (s : State) (p : Nat) (inactive : Bool) : State :=
  ({ s with lanes := s.lanes.map fun l => if l.part = p then { l with issuing := false, bundle := none } else l } : State).modPart p fun x =>
    { x with status := 0, state := .resetting, thenInactive := inactive, pre := { x.pre with status := 0 } }
/-- RESET: from ACTIVE or HALTED. -/
def State.cmdReset (s0 : State) (p : Nat) : State :=
  let s := s0.finishHalt p
  let st := (s.part p).state
  if st = .active ∨ st = .halted then s.beginReset p false else s.setStatus p 7
def execPartitionReset (p : Nat) (s : State) : Host.Outcome State Fault Refusal := whenReady s fun s => s.cmdReset (p % 64)
/-- Write every frame a partition owns, or is to own, to SCRUB with THENFREE (R259). -/
def State.scrubOwned (s : State) (p : Nat) : State :=
  (s.fot.filter fun e => fotOwner e.2 == p && fotState e.2 != 0).foldl
    (fun s e =>
      let v := BitVec.ofNat 16 (p * 2 ^ 10 + 2 * 2 ^ 8 + 2 ^ 7)
      if fotState e.2 = 2 then { s with fot := tset e.1 v s.fot } else s.scrub e.1 v) s
/-- What a partition is once it is INACTIVE: its VFs unbound, its policy, its saves and what was measured or aggregated under that policy
discarded, so that none of it shows under another (R7, R259, R260, R286). -/
def State.unbind (s : State) (p : Nat) : State :=
  s.modPart p fun x =>
    { x with state := .inactive, thenInactive := false, vfp := 0, vfs := 0, policy := openPolicy, polhash := 0, saved := [], aggFault := [],
             aggTrace := [], aggStop := 0, energy := 0, energyPub := 0, snapHyp := snap0, snapNext := snap0 }
/-- DEACTIVATE: through RESETTING, or from SUSPENDED, whose save is discarded. -/
def State.cmdDeactivate (s0 : State) (p : Nat) : State :=
  s0.cmdFree p <|
  let s := s0.finishHalt p
  let st := (s.part p).state
  if st = .active ∨ st = .halted then s.beginReset p true
  else if st = .suspended then (((s.clearPart p).scrubOwned p).unbind p).setStatus p 0
  else s.setStatus p 7
def execPartitionDeactivate (p : Nat) (s : State) : Host.Outcome State Fault Refusal := whenReady s fun s => s.cmdDeactivate (p % 64)
/-- PARTITION_RESET_DONE: RESETTING has cleared what R258 names; the partition is ACTIVE or INACTIVE. -/
def execPartitionResetDone (p : Nat) (s : State) : Host.Outcome State Fault Refusal :=
  if (s.part p).state ≠ .resetting then .next s
  else
    let inactive := (s.part p).thenInactive
    let s1 := s.clearPart p
    .next (if inactive then (s1.scrubOwned p).unbind p else s1.modPart p fun x => { x with state := .active })

/-! ## SUSPEND and RESUME (R251, R255) -/

/-- SUSPEND: from ACTIVE; the DRAIN step begins, and a guest pre-emption stands still. -/
def State.cmdSuspend (s0 : State) (p : Nat) : State :=
  let s := s0.finishHalt p
  if (s.part p).state = .active then
    s.modPart p fun x => { x with status := 0, state := .suspending, hypStep := 1, hypSince := s.time }
  else s.setStatus p 7
def execPartitionSuspend (p : Nat) (s : State) : Host.Outcome State Fault Refusal := whenReady s fun s => s.cmdSuspend (p % 64)
/-- PARTITION_SUSPEND_DONE: teams that have come to a stop are saved; once none is resident the partition is SUSPENDED. -/
def execPartitionSuspendDone (p : Nat) (s : State) : Host.Outcome State Fault Refusal :=
  let x := s.part p
  if x.state ≠ .suspending ∨ x.hypStep = 0 then .next s
  else
    let s1 := if x.hypStep = 2 then s.saveStill p else s
    .next (if (s1.part p).state = .suspending && (s1.toSave p).isEmpty then s1.endHypSave p else s1)

/-- A function-level reset of a partition's VF, as the state of the partition has it (R297). One that is held while the partition is SUSPENDING
stays held if the partition is HALTED instead, and its RESET drops it: the spec does not say what becomes of it (DESIGN CHOICE, log entry
57). -/
def flrMark : Nat := 2 ^ 32
def State.flr (s0 : State) (p fn : Nat) : State :=
  let s := s0.finishHalt p
  match (s.part p).state with
  | .active | .halted => s.beginReset p false
  | .suspending | .suspended => s.modPart p fun x => { x with heldWrites := x.heldWrites ++ [(fn, flrMark, 0, 0)] }
  | .resetting | .inactive => s
/-- The held writes take effect in order (R251). -/
def State.releaseHeld (s : State) (p : Nat) : State :=
  let hs := (s.part p).heldWrites
  hs.foldl
    (fun s w => if w.2.1 = flrMark then s.flr p w.1
      else s.viaMmio p w.1 w.2.1 w.2.2.1 w.2.2.2 fun s => s.vfWrite p w.1 w.2.1 w.2.2.1 w.2.2.2)
    (s.modPart p fun x => { x with heldWrites := [] })
/-- Time that a hidden suspension withholds (R282). -/
def Chron.resumed (c : Chron) (time : Nat) : Chron :=
  match c.stopped with
  | some t =>
    let dt := time - t
    { c with stopped := none, offset := (c.offset + dt) % 2 ^ 64, offsetF := (c.offsetF + dt) % 2 ^ 64, hidden := c.hidden + dt }
  | none => c
/-- A suspended partition with this window is ACTIVE again, its guest's pre-emption goes on with its deadlines moved, and held writes take effect
(R251). -/
def State.resumeWith (s : State) (p : Nat) (ls : List Launch) : State :=
  let dt := s.time - (s.part p).hypSince
  (s.modPart p fun x =>
    { x with status := 0, state := .active, hypStep := 0, chron := x.chron.resumed s.time, saved := x.saved.filter fun v => !v.hyp,
             pre := { x.pre with since := x.pre.since + dt }, window := ls.map fun L => { L with since := s.time, held := false } }).releaseHeld p
/-- RESUME: the save is read at its home and checked, or the command waits for its lines (R166 to R168, R251). -/
def State.cmdResumePart (s : State) (p : Nat) : State :=
  let x := s.part p
  s.cmdFree p <|
    if x.state ≠ .suspended then s.setStatus p 7
    else if (x.saved.getLast?).elim false fun v => v.hyp && v.forced then s.resumeWith p x.window
    else
      let g := s.bringArea x.saveres x.savefr
      if !g.2 then g.1.pendCmd p 5
      else
        match g.1.windowAt p with
        | none => g.1.setStatus p 9
        | some ls => g.1.resumeWith p ls
/-- A command that waits is tried again. -/
def State.retryCmd (s : State) (p : Nat) : State :=
  let s1 := s.modPart p fun x => { x with cmdPend := none }
  match (s.part p).cmdPend with
  | some 1 => s1.cmdActivate p
  | some 5 => s1.cmdResumePart p
  | _ => s
def execPartitionResume (p : Nat) (s : State) : Host.Outcome State Fault Refusal := whenReady s fun s => s.cmdResumePart (p % 64)

end Sys2Proof.Machine
end

