-- ==== Sys2Proof/Machine/Registers.lean ====
section
/-! DEFINITION. The register space of the physical function (R295) and REGISTER_WRITE (R294, R295, R257). -/
namespace Sys2Proof.Machine
open Sys2Proof

/-! ## Partition blocks (R254) -/

def PartState.code : PartState → Nat
  | .inactive => 0 | .active => 1 | .suspending => 2 | .suspended => 3 | .halted => 4 | .resetting => 5
/-- A partition block as a number. -/
def Part.block (x : Part) : Nat :=
  x.state.code * 2 ^ 28 + x.status * 2 ^ 40 + x.saveMaxH % 2 ^ 32 * 2 ^ 48 + x.share * 2 ^ 263 + x.vfs * 2 ^ 272 + x.vfp * 2 ^ 280 + x.savefr * 2 ^ 288 +
    x.saveres * 2 ^ 320 + x.colours * 2 ^ 384 + x.triples * 2 ^ 448
/-- A command (R254). -/
def State.command (s : State) (p : Nat) : Nat → State
  | 1 => s.cmdActivate p
  | 2 => s.cmdHalt p
  | 3 => s.cmdReset p
  | 4 => s.cmdSuspend p
  | 5 => s.cmdResumePart p
  | 6 => s.cmdDeactivate p
  | _ => s
/-- Write bytes of a partition block: its fields in INACTIVE only, SAVEMAXH with TRIPLES, a command where the access reaches CMD. -/
def State.writePartBlock (s : State) (p off width v : Nat) : State :=
  let n := overlay (s.part p).block off width v
  let s1 :=
    if off + width ≤ 32 then s
    else if (s.part p).state = .inactive then
      s.modPart p fun x =>
        { x with share := fld n 263 9, vfs := fld n 272 8, vfp := fld n 280 8, savefr := fld n 288 32, saveres := fld n 336 48 * 2 ^ 16,
                 colours := fld n 384 64, triples := fld n 448 64,
                 saveMaxH := if 56 < off + width then ({ x with triples := fld n 448 64 } : Part).saveMaxFor else x.saveMaxH }
    else s.setStatus p 7
  if touches off width 3 then s1.command p (fld v (8 * (3 - off)) 4) else s1

/-- A chronometer block as a number (R280). -/
def Chron.block (c : Chron) : Nat := bit c.hide + c.scale * 2 ^ 64 + c.offset * 2 ^ 128 + c.hidden * 2 ^ 192
def State.writeChron (s : State) (p off width v : Nat) : State :=
  let n := overlay (s.part p).chron.block off width v
  let s1 := s.modPart p fun x => { x with chron := { x.chron with hide := fld n 0 1 == 1, scale := fld n 64 64, offset := fld n 128 64 } }
  if touches off width 0 && fld n 1 1 == 1 then s1.chronTake p else s1

/-! ## The space of the PF (R295) -/

/-- A value that a register of a stated range takes; another is discarded. -/
def inRange (lo hi v old : Nat) : Nat := if lo ≤ v ∧ v ≤ hi then v else old
/-- Bytes of a peer-enable mask: bit i for package i (R298, R299). -/
def peerBits (off v : Nat) (t : Tbl Nat) (n : Nat) : Tbl Nat :=
  (List.range n).foldl (fun t i => let k := 8 * off + i; if fld v i 1 = 1 then tset k 1 t else tdel k t) t
def State.writeOpTrace (s : State) (p die off width v : Nat) : State :=
  s.modPart p fun x =>
    ({ x with otrace := tmod (ring0 6) die (fun r => r.writeTrace off width v) x.otrace } : Part).restartSnd die 1 off width
/-- FTAGs that an access covers, each writable in INACTIVE only (R295). -/
def State.writeFtags (s : State) (p v n : Nat) : State :=
  (List.range n).foldl (fun s i => if (s.part (p + i)).state = .inactive then s.modPart (p + i) fun x => { x with ftag := fld v (16 * i) 16 } else s) s
def State.writeFixes (s : State) (p n : Nat) : State :=
  (List.range n).foldl (fun s i => if (s.part (p + i)).state = .active then s.modPart (p + i) fun x => x.trigger 5 else s) s
def State.writeExtent (s : State) (n off width v : Nat) : State :=
  let old := tget 0 n s.extRaw
  let raw := overlay old off width v
  let x := (s.extent? n).getD { off := 0, hpa := 0, len := 0, owner := 0, state := .free }
  { s with extRaw := tset n raw s.extRaw, extents := tset n (Extent.fitted (extentOfRaw x old raw)) s.extents }

/-- A write to the PF's register space. The spec states no access widths: a write of one or two bytes at AGECAP or HOTTHR is taken as the whole
value, those registers read 0 at their inner bytes, and a write of one byte at an FTAG is ignored (DESIGN CHOICE, log entry 57). -/
def State.pfWrite (s : State) (off width : Nat) (v : DWord) : State :=
  let n := v.toNat
  if off < 8 then { s with pkgid := overlay s.pkgid off width n % 1024 }
  else if off = 0x1000 ∨ off = 0x1004 then
    let s1 : State := if off = 0x1000 then { s with agecap := inRange 256 65535 (fld n 0 32) s.agecap } else { s with hotthr := inRange 256 65535 (fld n 0 32) s.hotthr }
    if off = 0x1000 ∧ width = 8 then { s1 with hotthr := inRange 256 65535 (fld n 32 32) s1.hotthr } else s1
  else if 0x10000 ≤ off ∧ off < 0x11000 then s.writePartBlock ((off - 0x10000) / 64) (off % 64) width n
  else if 0x11000 ≤ off ∧ off < 0x11200 then s.modPart ((off - 0x11000) / 8) fun x => { x with poladdr := overlay x.poladdr (off % 8) width n % 2 ^ 64 }
  else if 0x13000 ≤ off ∧ off < 0x13800 then s.writeChron ((off - 0x13000) / 32) (off % 32) width n
  else if 0x13800 ≤ off ∧ off < 0x13900 then s.writeFixes ((off - 0x13800) / 4) ((width + 3) / 4)
  else if 0x13900 ≤ off ∧ off < 0x13980 then s.writeFtags ((off - 0x13900) / 2) n (width / 2)
  else if 0x14000 ≤ off ∧ off < 0x14008 then { s with fotidx := overlay s.fotidx (off - 0x14000) width n % 2 ^ 64 }
  else if off = 0x14008 then s.writeFot (v.setWidth 16)
  else if 0x15000 ≤ off ∧ off < 0x17000 then s.writeExtent ((off - 0x15000) / 32) (off % 32) width n
  else if 0x20000 ≤ off ∧ off < 0x22000 then s.writeOpTrace ((off - 0x20000) / 128) ((off - 0x20000) / 32 % 4) (off % 32) width n
  else if 0x30000 ≤ off ∧ off < 0x70000 then
    s.writeBank ((off - 0x30000) / 4096) (off / 0x200 % 8) .hypervisor (off % 0x200) width n
  else if 0x70000 ≤ off ∧ off < 0x70020 then { s with flog := s.flog.writeFault (off % 32) width n }
  else if 0x70020 ≤ off ∧ off < 0x70040 then { s with slog := s.slog.writeFault (off % 32) width n }
  else if 0x72000 ≤ off ∧ off < 0x74000 then
    s.modPart ((off - 0x72000) / 128) fun x => { x with peers := peerBits (off % 128) n x.peers (8 * width) }
  else if 0x200000 ≤ off ∧ off < 0x208000 then s.writeMsix .pf (off - 0x200000) width n
  else s

/-! ## REGISTER_WRITE -/

/-- The partition that a VF is bound to (R257). -/
def State.boundTo (s : State) (fn : Nat) : Option Nat :=
  (s.parts.find? fun e => e.2.state != .inactive && e.2.fnKeys.contains fn).map (·.1)
/-- An aligned write of 1, 2, 4 or 8 bytes. -/
def mmioOk (off width : Nat) : Bool := [1, 2, 4, 8].contains width && off % width == 0
/-- REGISTER_WRITE: through the PF, or through a VF for the partition it is bound to. Nothing is written before firmware is ready (R303). -/
def execRegisterWrite (f : Fn) (off width : Nat) (v : DWord) (s : State) : Host.Outcome State Fault Refusal :=
  if s.boot ≠ .ready ∨ !mmioOk off width then .next s
  else
    match f with
    | .pf => .next (s.pfWrite off width v)
    | .vf n =>
      match s.boundTo n with
      | some p => .next (s.viaMmio p n off width v fun s => s.vfWrite p n off width v)
      | none => .next s

end Sys2Proof.Machine
end

