-- ==== Sys2Proof/Machine/Platform.lean ====
section
/-! DEFINITION. Function-level reset (R297), device reset and boot (R303), identity and attestation (R304, R305), power and cooling
(R290, R306 to R308), and the fabric's links (R301). -/
namespace Sys2Proof.Machine
open Sys2Proof

/-! ## Resets (R297, R303) -/

/-- VF_FLR: RESET of the partition the VF is bound to; an unbound VF's own registers reset. VFs are disabled until firmware is ready. -/
def execVfFlr (vf : Nat) (s : State) : Host.Outcome State Fault Refusal :=
  whenReady s fun s =>
    if !fnExists (.vf vf) then s
    else
      match s.boundTo vf with
      | some p => s.flr p vf
      | none => s.resetMsix [vf]
/-- DEVICE_RESET: every register, partition and array of the device is as after reset; host memory, what has left the device and what the
outside is to do are outside it. -/
def execDeviceReset (s : State) : Host.Outcome State Fault Refusal :=
  .next { State.reset with hostMem := s.hostMem, out := s.out, sched := s.sched, inputs := s.inputs, free := s.free }
/-- The value of the rollback counter: the fuses that are blown. -/
def rollbackValue : Nat := ((List.range 64).filter fun i => Config.rollbackFuses.getLsbD i).length
/-- The boot ROM's checks of an image: its key against the fused hash, the signature, its version against the rollback counter. -/
def imageVerified (img : Image) : Bool :=
  hash512 img.key == Config.fusedHash && slhVerify slh256s img.key img.body img.sig && decide (rollbackValue ≤ Config.imageVersion img.body)
/-- The entry of a frame that firmware reserves: free but for its state, which is not FREE (R143, log entry 20). -/
def reservedEntry (frame : Nat) : BitVec 16 :=
  Config.reservedEntry frame &&& 0xFF80 ||| (if fotState (Config.reservedEntry frame) = 0 then 0x100 else 0)
/-- Firmware is verified: the HBM is zeroed and every frame is FREE, but for those it reserves (R143). -/
def State.bootDone (s : State) (img : Image) : State :=
  { s with boot := .ready, firmware := img.body, mem := [], poison := [], reserved := Config.reservedFrames,
           fot := Config.reservedFrames.foldl (fun t f => tset f (reservedEntry f) t) [], fronts := [] }
/-- FIRMWARE_READY: the boot ROM's check of an image slot succeeds, or fails and the second slot is tried, then recovery. -/
def execFirmwareReady (img : Image) (s : State) : Host.Outcome State Fault Refusal :=
  if s.boot ≠ .booting then .next s
  else if imageVerified img then .next (s.bootDone img)
  else if s.slotTried = 0 then .next { s with slotTried := 1 }
  else .next { s with boot := .recovery }
/-- FIRMWARE_RECOVERY_LOAD: a new image comes through the PF's mailbox; one that verifies starts the device. -/
def execFirmwareRecoveryLoad (img : Image) (s : State) : Host.Outcome State Fault Refusal :=
  if s.boot = .recovery ∧ imageVerified img then .next (s.bootDone img) else .next s

/-! ## Identity (R304) -/

/-- The measurements 1 to 4 of the firmware that runs (R305). -/
def State.fwMeasured (s : State) : List Byte := ([1, 2, 3, 4].map fun i => leBytes (Config.measurement i s.firmware).toNat 64).flatten
/-- The alias key: its seeds are SHAKE256 of the secret and the measurements (R304; DEDUCED, log entry 11). -/
def State.aliasKey (s : State) : SlhKey := slhKeygen slh256s (shake256 (leBytes Config.deviceSecret.toNat 96 ++ s.fwMeasured) 96)
/-- The alias certificate: its body with the identity key's signature. -/
def State.aliasCert (s : State) : List Byte :=
  let body := Config.aliasBody s.aliasKey.publicHalf
  body ++ slhSign slh256s identityKey (Config.aliasRand body) body
/-- A signature with the alias key; its random string is free. -/
def State.aliasSign (s : State) (m : List Byte) : List Byte × State :=
  let d := s.draw
  (slhSign slh256s s.aliasKey (leBytes d.1 32) m, d.2)

/-! ## SPDM over the mailbox of each function (R305) -/

/-- Answer a request of a function that exists (R293): Request Retry Status until firmware is ready, for 1.0 s at most, and then nothing till it
is; in recovery only the PF has a mailbox (R303). -/
def State.spdmAnswer (s : State) (f : Fn) (o : Out) : State :=
  if !fnExists f then s
  else
    match s.boot, f with
    | .booting, _ => if s.retries then s.emit (.retryStatus f) else s
    | .recovery, .vf _ => s
    | .recovery, .pf | .ready, _ | .down, _ => s.emit o
/-- The codes of the requests the device supports (log entry 11). -/
def spdmRequests : List Byte := [0x84, 0xE1, 0xE3, 0x81, 0x82, 0x83, 0xE0]
/-- GET_VERSION: 1.3. -/
def execGetVersion (f : Fn) (s : State) : Host.Outcome State Fault Refusal := .next (s.spdmAnswer f (.spdm f [0x13]))
/-- GET_CAPABILITIES: the requests of R305, and no session. -/
def execGetCapabilities (f : Fn) (s : State) : Host.Outcome State Fault Refusal := .next (s.spdmAnswer f (.spdm f spdmRequests))
/-- The algorithms of R305. -/
def spdmAlgorithms : SpdmAlgorithms := { registry := .pciSig, vendor := 0x1F7D, algorithm := 0x0001, hash := .shake256, hashBits := 512 }
/-- NEGOTIATE_ALGORITHMS. -/
def execNegotiateAlgorithms (f : Fn) (s : State) : Host.Outcome State Fault Refusal :=
  .next (s.spdmAnswer f (.spdmAlgorithms f spdmAlgorithms))
/-- The certificates: of the identity key, and of the alias key. -/
def State.certificate (s : State) : List Byte := Config.identityCert ++ s.aliasCert
/-- GET_DIGESTS. -/
def execGetDigests (f : Fn) (s : State) : Host.Outcome State Fault Refusal :=
  .next (s.spdmAnswer f (.spdm f (leBytes (hash512 s.certificate).toNat 64)))
/-- GET_CERTIFICATE. -/
def execGetCertificate (f : Fn) (s : State) : Host.Outcome State Fault Refusal := .next (s.spdmAnswer f (.spdm f s.certificate))
/-- A measurement: firmware components, or a partition's policy hash and block; a VF sees its own partition only. -/
def State.measured (s : State) (f : Fn) (index : Nat) : List Byte :=
  if 1 ≤ index ∧ index ≤ 4 then leBytes (Config.measurement index s.firmware).toNat 64
  else if 0x10 ≤ index ∧ index < 0x10 + 64 then
    let p := index - 0x10
    let own := match f with
      | .pf => true
      | .vf n => s.boundTo n == some p
    if own then leBytes (s.part p).polhash.toNat 64 ++ leBytes (s.part p).block 64 else []
  else []
/-- CHALLENGE: signed with the alias key. -/
def execChallenge (f : Fn) (nonce : Nat) (s : State) : Host.Outcome State Fault Refusal :=
  let q := s.aliasSign (leBytes nonce 32 ++ leBytes (hash512 s.certificate).toNat 64)
  .next (q.2.spdmAnswer f (.spdm f q.1))
/-- GET_MEASUREMENTS. -/
def execGetMeasurements (f : Fn) (index : Nat) (s : State) : Host.Outcome State Fault Refusal :=
  let m := s.measured f index
  let q := s.aliasSign m
  .next (q.2.spdmAnswer f (.spdm f (m ++ q.1)))

/-! ## Power and cooling (R290, R306 to R308) -/

/-- A change of the core clock counts one event of power telemetry (R306). -/
def State.setClock (s : State) (mhz : Nat) : State := if mhz = s.clock then s else { s with clock := mhz }.emit (.powerEvent mhz)
/-- One step of 25 MHz down, not below 350 MHz. -/
def State.slower (s : State) : State := s.setClock (max 350 (s.clock - 25))
/-- Is a throttle temperature reached that lowers the clock (R307)? -/
def State.throttled (s : State) : Bool :=
  s.thermal.any fun t => match t with
    | .dieThrottle _ | .baseThrottle => true
    | _ => false
/-- POWER_CLOCK_STEP: the average of 1 ms against PLIM (R306). -/
def execPowerClockStep (avgMilliwatts : Nat) (s : State) : Host.Outcome State Fault Refusal :=
  if s.plim * 1000 < avgMilliwatts then .next s.slower
  else if avgMilliwatts < s.plim * 1000 ∧ !s.throttled then .next (s.setClock (min 700 (s.clock + 25)))
  else .next s
/-- The energy of every partition grows by its units' activity, an amount that is free (R290, log entry 21). -/
def State.addEnergy (s : State) : State :=
  (s.parts.map (·.1)).foldl
    (fun s p => { s with free := s.free + 1 }.modPart p fun x => { x with energy := (x.energy + Config.energyOf s.free) % 2 ^ 64 }) s
/-- PACKAGE_POWER_REPORT (R290). -/
def execPackagePowerReport (milliwatts : Nat) (s : State) : Host.Outcome State Fault Refusal :=
  .next ({ s.addEnergy with power := milliwatts }.emit (.packagePower milliwatts))
/-- The conditions that a crossing ends: what the sensor reported before. -/
def Thermal.sameSensor : Thermal → Thermal → Bool
  | .dieThrottle a, .dieThrottle b | .dieThrottle a, .dieCool b | .dieThrottle a, .dieCritical b
  | .dieCritical a, .dieThrottle b | .dieCritical a, .dieCool b | .dieCritical a, .dieCritical b
  | .dieCool a, .dieThrottle b | .dieCool a, .dieCool b | .dieCool a, .dieCritical b => a == b
  | .hbmHot a, .hbmHot b | .hbmHot a, .hbmThrottle b | .hbmHot a, .hbmCool b | .hbmHot a, .hbmCritical b
  | .hbmThrottle a, .hbmHot b | .hbmThrottle a, .hbmThrottle b | .hbmThrottle a, .hbmCool b | .hbmThrottle a, .hbmCritical b
  | .hbmCool a, .hbmHot b | .hbmCool a, .hbmThrottle b | .hbmCool a, .hbmCool b | .hbmCool a, .hbmCritical b
  | .hbmCritical a, .hbmHot b | .hbmCritical a, .hbmThrottle b | .hbmCritical a, .hbmCool b | .hbmCritical a, .hbmCritical b => a == b
  | .baseThrottle, .baseThrottle | .baseThrottle, .baseCool | .baseThrottle, .baseCritical
  | .baseCool, .baseThrottle | .baseCool, .baseCool | .baseCool, .baseCritical
  | .baseCritical, .baseThrottle | .baseCritical, .baseCool | .baseCritical, .baseCritical => true
  | _, _ => false
/-- Firmware halts every partition with cause EXTERNAL and asks the board controller to remove power; device reset is then needed (R307). -/
def State.thermalHalt (s : State) : State :=
  ({ (s.parts.map (·.1)).foldl (fun s p => s.halt p 0x27 0 none) s with boot := if s.boot = .ready then .down else s.boot } : State).emit .powerOff
/-- THERMAL_SENSOR_EVENT (R307). -/
def execThermalSensorEvent (t : Thermal) (s : State) : Host.Outcome State Fault Refusal :=
  let s1 : State := { s with thermal := s.thermal.filter (fun u => !Thermal.sameSensor u t) ++ [t] }
  match t with
  | .dieThrottle _ | .baseThrottle => .next s1.slower
  | .dieCritical d => .next (s1.loseDie (d % 4))
  | .hbmCritical _ | .baseCritical => .next s1.thermalHalt
  | .dieCool _ | .hbmHot _ | .hbmThrottle _ | .hbmCool _ | .baseCool => .next s1
/-- D3HOT_REQUEST: ignored while a partition is not INACTIVE; the HBM is in self-refresh from now on, and what asks for it waits (R308). -/
def execD3hotRequest (s : State) : Host.Outcome State Fault Refusal :=
  if s.parts.all fun e => e.2.state == .inactive then .next { s with d3 := true } else .next s
/-- D0_REQUEST (R308): what has waited for the HBM is served. -/
def execD0Request (s : State) : Host.Outcome State Fault Refusal := .next (({ s with d3 := false } : State).serveHost)
/-- PLIM_WRITE (R306): a value outside 800 W to 2,600 W is discarded (DEDUCED, log entry 25). -/
def execPlimWrite (watts : Word) (s : State) : Host.Outcome State Fault Refusal :=
  .next { s with plim := inRange 800 2600 watts.toNat s.plim }
/-- LINK_UP: a port's link comes up, and its switch says whether it combines (R301). -/
def execLinkUp (port : Nat) (combine : Bool) (s : State) : Host.Outcome State Fault Refusal :=
  if port < 48 then .next { s with links := tset port combine s.links } else .next s

end Sys2Proof.Machine
end

