-- ==== Sys2Proof/Machine/Quarter.lean ====
section
/-! DEFINITION. The quarters' own events: bundle formation, the write of a deferred result, trap entry (R71, R82, R226, R523). -/
namespace Sys2Proof.Machine
open Sys2Proof

/-- BUNDLE_FORMATION: a quarter between words re-forms its bundles from its ready lanes (R71). -/
def execBundleFormation (quarter : Nat) (s : State) : Host.Outcome State Fault Refusal :=
  if s.lanes.any (fun l => l.quarter == quarter && l.issuing) then .next s else .next ((s.unyield quarter).form quarter)

/-- May a returned result be written now: not into a frozen quarter (R243), and a k register only where the lane waits for it (R432) or a
save has stopped it (R246)? -/
def State.writable (s : State) (l : Lane) (d : Deferred) : Bool :=
  d.wait == .ready && !s.isFrozen l.quarter && (d.kdst.isEmpty || l.marker || l.trap.isSome || !l.room || s.saving l)
/-- DEFERRED_RESULT_WRITE: a result with its flags is written; a sounded access writes its record (R40, R274, R523). The lane's
marker park may end, or its deferred fault is taken (R79, R82). An access executed again that could not reach its line is tried again. -/
def execDeferredResultWrite (id : LaneId) (n : Nat) (s : State) : Host.Outcome State Fault Refusal :=
  match s.lane? id with
  | none => .next s
  | some l =>
    match l.deferred.find? fun d => d.n == n with
    | none => .next s
    | some d =>
      if s.writable l d then
        .next ((s.writeResult l d).settle [id])
      else match d.wait with
        | .again k =>
          let q := s.redo l d
          match q.2 with
          | .busy => .next q.1
          | .got x w =>
            .next ((q.1.modLane id fun l => { l with deferred := l.deferred.map fun e => if e.n = n then d.filled x (w.counted k) else e }).settle [id])
        | _ => .next s

/-- TRAP_ENTRY: a lane whose deferred results have all been written enters its handler (R226). -/
def execTrapEntry (id : LaneId) (s : State) : Host.Outcome State Fault Refusal :=
  match s.lane? id with
  | none => .next s
  | some l =>
    match l.trap with
    | some t => if l.deferred.isEmpty then .next (s.trapEntry l t) else .next (s.settle [id])
    | none => .next s

end Sys2Proof.Machine
end

