-- ==== Sys2Proof/Machine/ScratchMem.lean ====
section
/-! DEFINITION. Scratch loads and stores, queue macros and mode changes (R111 to R115, R212, R213, R446, R447, R471, R472,
R484, R485, R489). -/
namespace Sys2Proof.Machine
open Sys2Proof

/-! ## LDS and STS -/

/-- STS is immediate (R77). -/
def immediateScratch : Instr → Bool
  | .sts .. => true
  | _ => false

/-- Does a lane perform a scratch access at this issue: no cause, nothing to wait for (R81, R111, R180)? -/
def State.performsScratch (s : State) (i : Instr) (l : Lane) : Bool :=
  let srcs := srcsOf l i
  (s.accessCause l i srcs).isNone && !((s.pendings l).any (s.comesFirst l i srcs)) && (immediateScratch i || l.room) &&
    !(s.teamOf l).converting
/-- The words of a bundle's scratch access: those of the lanes that perform it. -/
def State.bundlePieces (s : State) (i : Instr) : List Piece :=
  (s.actives.filter (s.performsScratch i)).flatMap fun l => (s.scratchPieces l i (srcsOf l i)).getD []
/-- Count a bundle's conflict cycles, and for a load its cross-swizzle events (R113, R115). -/
def State.countScratch (s : State) (i : Instr) (load : Option Nat) : State :=
  match s.lead with
  | none => s
  | some l =>
    let ps := s.bundlePieces i
    let c := conflictCycles ps (s.scratchList (s.teamOf l)).length
    let x := load.elim 0 fun code => s.crossWords l.cluster code ps
    let s1 := if c = 0 then s else s.countLane l evScrConflict c
    if x = 0 then s1 else s1.countLane l evScrXswz x

/-- LDS (R446, R447). -/
def execLds (d a : VReg) (z : Size) (w : Fin 8) (i : BitVec 5) (s : State) : Host.Outcome State Fault Refusal :=
  match s.lead with
  | none => .next s
  | some l =>
    accessWord (.lds d a z w i) (if (s.illegalAt l (.lds d a z w i)).isNone then s.countScratch (.lds d a z w i) (some w.val) else s)
      fun s l srcs => if !l.room then s.setLane l.stall else s.noteAccess l (.lds d a z w i) srcs
/-- STS (R489); a macro in conversion makes it wait (R111). -/
def execSts (d a : VReg) (z : Size) (w : Fin 8) (i : BitVec 5) (s : State) : Host.Outcome State Fault Refusal :=
  match s.lead with
  | none => .next s
  | some l =>
    accessWord (.sts d a z w i) (if (s.illegalAt l (.sts d a z w i)).isNone then s.countScratch (.sts d a z w i) none else s)
      fun s l srcs =>
        match s.scratchPieces l (.sts d a z w i) srcs with
        | none => s
        | some ps =>
            (s.writePieces l.cluster w.val ps (leBytes (wordsNat (l.vs d (regsOf z))) z.bytes)).setLane (l.adv 4)

/-! ## QPUSH and QPOP -/

/-- The queue trap of a group that may not use a side of a queue (R213): a group other than the bound one, or a bundle that
lacks a lane of it. `free` says that the side's QMP or QMC bit is set. -/
def State.queueCause (s : State) (l : Lane) (bound : Option Nat) (free : Bool) : Option Nat :=
  if free then none
  else if (match bound with | some g => g != l.id.grp | none => false) then some causeQrole
  else if s.lanes.any fun m => m.id.tid == l.id.tid && m.id.grp == l.id.grp && m.park != .exited && !m.issuing then some causeQdiverge
  else none

/-- The macro of the queue that a lane's word names: that at which it has waited, if it still is a queue (R485). -/
def State.queueOf (s : State) (l : Lane) (q : Fin 64) : Option Nat :=
  match l.qmac with
  | some m => if (s.queueList (s.teamOf l)).contains m then some m else none
  | none => (s.queueList (s.teamOf l))[q.val]?
/-- A lane parked at a queue word for room or for entries. -/
def Lane.parkedQueue (l : Lane) (m : Nat) : Lane := { l.parked .queue with skipped := true, qmac := some m }

/-- A queue word: traps group by group, then `go` acts for the bundle with the queue's macro (R212, R213); it waits for a conversion of the
team (R111). A side that is not free is bound to the first group that uses it. Where a lane must wait before it acts, as `wait` says, and
whether an access of it has faulted, the bundle issues the word again and binds nothing (R81). -/
def queueWord (i : Instr) (s : State) (q : Fin 64) (push : Bool) (wait : State → Lane → Option Bool) (go : State → Nat → State) :
    Host.Outcome State Fault Refusal :=
  guarded i s fun s =>
    match s.lead with
    | none => s
    | some l0 =>
      let t := s.teamOf l0
      if t.converting then mapActive s Lane.stall
      else
        let s0 := mapActive s fun l => if s.queueOf l q = s.queueOf l0 q then l else l.stall
        match s.queueOf l0 q with
        | none => eachActive s0 fun s l => s.raise l (l.causeHere causeQrole q.val 0)
        | some m =>
          let free := fld (if push then recQmp (s.laneRec l0) else recQmc (s.laneRec l0)) q.val 1 == 1
          let bound := fun s : State => if push then ((s.cluster t.cluster).macro' m).prod else ((s.cluster t.cluster).macro' m).cons
          let bind := fun (s : State) (g : Option Nat) => s.modMacro t.cluster m fun x => if push then { x with prod := g } else { x with cons := g }
          let s1 := eachActive s0 fun s' l =>
            match s.queueCause l (bound s') free with
            | some c => s'.raise l (l.causeHere c q.val 0)
            | none => if free then s' else bind s' (some l.id.grp)
          if s1.actives.isEmpty then s1
          else if s1.actives.any fun l => (wait s1 l).isSome then mapActive (bind s1 (bound s)) fun l => l.hold ((wait s1 l).getD false)
          else go s1 m

/-- QPUSH (R212, R471, R472): a release at team scope of the bundle's earlier accesses; then one entry for each active lane, or all park
while the ring lacks room. -/
def execQpush (d : VReg) (q : Fin 64) (s : State) : Host.Outcome State Fault Refusal :=
  queueWord (.qpush d q) s q true (fun s l => if (s.pendings l).isEmpty then none else some (l.deferred.any Deferred.faulted)) fun s m =>
    match s.lead with
    | none => s
    | some l0 =>
      if queueEntries < ((s.cluster l0.cluster).macro' m).qcount + s.actives.length then mapActive s fun l => l.parkedQueue m
      else
        let s1 := eachActive s fun s l => s.modMacro l.cluster m fun x => x.push (leBytes (wordsNat (l.vs d 4)) 16)
        mapActive s1 fun l => { l.adv 4 with qmac := none }
/-- QPOP (R212, R472): after earlier accesses that acquire (R180), one entry to each active lane, removed at issue, or all park while the ring holds too few. -/
def execQpop (d : VReg) (q : Fin 64) (s : State) : Host.Outcome State Fault Refusal :=
  queueWord (.qpop d q) s q false
    (fun s l => if !l.room then some false else if (s.pendings l).any Pend.acquires then some (l.deferred.any Deferred.faulted) else none) fun s m =>
    match s.lead with
    | none => s
    | some l0 =>
      if ((s.cluster l0.cluster).macro' m).qcount < s.actives.length then mapActive s fun l => l.parkedQueue m
      else
        eachActive s fun s l =>
          let i := ((s.cluster l.cluster).macro' m).qhead
          let srcs : List Word := [BitVec.ofNat 32 q.val, BitVec.ofNat 32 m, BitVec.ofNat 32 i]
          (s.noteAccess { l with qmac := none } (.qpop d q) srcs).modMacro l.cluster m Sram.pop

/-- QUEUE_WAIT_RESUME: the lanes of a team parked at a queue word issue it again (R212, R472). -/
def execQueueWaitResume (tid q : Nat) (s : State) : Host.Outcome State Fault Refusal :=
  let names := fun l : Lane =>
    match (s.fetchAt l l.pc.toNat (s.slotOf l)).2 with
    | .word f => (match f.instr with | .qpush _ x => x.val == q | .qpop _ x => x.val == q | _ => true)
    | _ => true
  .next (s.release fun l => l.id.tid == tid && l.park == .queue && names l)

/-! ## SMODE (R111, R112, R484, R485) -/

/-- The macros a mask of team-macro positions names. -/
def Team.named (t : Team) (mask : Nat) : List Nat := (t.macros.zipIdx.filter fun e => fld mask e.2 1 == 1).map (·.1)
/-- The team's scratch macros after a conversion. -/
def State.scratchAfter (s : State) (t : Team) (mask : Nat) (toQueue : Bool) : List Nat :=
  t.macros.filter fun m => if (t.named mask).contains m then !toQueue else (s.scratchList t).contains m
/-- May a conversion be made (R111)? -/
def State.smodeOk (s : State) (t : Team) (mask : Nat) (toQueue : Bool) : Bool :=
  mask < 2 ^ t.macros.length && [0, 8, 16, 32].contains (s.scratchAfter t mask toQueue).length
/-- A macro after its conversion (R112, R485). -/
def Sram.convert (m : Sram) (toQueue : Bool) : Sram :=
  let plain : Sram := { m with tags := [], qhead := 0, qcount := 0, prod := none, cons := none }
  if toQueue then (if m.mode = .queue then m else { plain with mode := .queue })
  else if m.mode = .scratch then m
  else
    let live := (List.range m.qcount).flatMap fun i => readBytes m.data (16 * ((m.qhead + i) % queueEntries)) 16
    let moved := (List.range (2 * m.qcount)).filter fun w => m.poison.contains ((2 * m.qhead + w) % macroWords)
    { plain with mode := .scratch, data := writeBytes m.data 0 live,
                 poison := m.poison.filter (fun w => 2 * m.qcount ≤ w) ++ moved }

/-- SMODE asks for a conversion and parks the bundle's lanes until it is made; SMODE_BAD names the mask (R484). -/
def smodeWord (i : Instr) (s : State) (a : VReg) (toQueue : Bool) : Host.Outcome State Fault Refusal :=
  guarded i s fun s =>
    match s.lead with
    | none => s
    | some l0 =>
      let mask := (l0.getV a).toNat
      let t := s.teamOf l0
      if mask = 0 then mapActive s fun l => l.adv 4
      else if !t.smode.isEmpty then mapActive s Lane.stall
      else if !s.smodeOk t mask toQueue then eachActive s fun s l => s.raise l (l.causeHere causeSmode 0 (BitVec.ofNat 64 mask))
      else
        let ids := s.actives.map (·.id)
        mapActive (s.modTeam t.tid fun t => { t with smode := t.smode ++ [{ mask := mask, toQueue := toQueue, lanes := ids }] })
          fun l => (l.adv 4).parked .smode

/-- SMODE.scratch. -/
def execSmodeScratch (a : VReg) (s : State) : Host.Outcome State Fault Refusal := smodeWord (.smodeScratch a) s a false
/-- SMODE.queue. -/
def execSmodeQueue (a : VReg) (s : State) : Host.Outcome State Fault Refusal := smodeWord (.smodeQueue a) s a true

/-- Has a transfer still words to move in one of these macros of a cluster (R111)? -/
def State.xferIn (s : State) (cluster : Nat) (macs : List Nat) : Bool :=
  s.xfers.any fun x => x.macsLeft.any fun m => m / 32 == cluster && macs.contains (m % 32)

/-- Does an ordered atomic that the team holds fall on one of these macros (R111, R356)? -/
def State.atomIn (s : State) (t : Team) (macs : List Nat) : Bool :=
  t.ordered.any fun a => atomScratch a.srcs && (s.lane? a.lane).elim false fun l =>
    ((s.scratchPieces l a.instr a.srcs).getD []).any fun p => macs.contains p.mac
/-- SMODE_CONVERT: the team's first conversion is made once no transfer works in its macros and no held atomic falls on them (R111). -/
def execSmodeConvert (tid : Nat) (s : State) : Host.Outcome State Fault Refusal :=
  match s.team? tid with
  | none => .next s
  | some t =>
    match t.smode with
    | [] => .next s
    | q :: r =>
      let macs := t.named q.mask
      if s.xferIn t.cluster macs || s.atomIn t macs then .next s
      else
        let s1 := macs.foldl (fun s m => s.modMacro t.cluster m fun x => x.convert q.toQueue) s
        let s2 := s1.modTeam tid fun t => { t with smode := r }
        .next (s2.release fun l => q.lanes.contains l.id && l.park == .smode)

end Sys2Proof.Machine
end

