-- ==== Sys2Proof/Machine/Sfu.lean ====
section
/-! DEFINITION. The special functions (R400 to R406). FSQRT, FDIV and FRED are exact with one rounding. The others
return what the hardware's tables give, which the spec bounds and does not state: a free value within the bound of
R401 (log entries 7 and 8). -/
namespace Sys2Proof.Machine
open Sys2Proof

/-! ## Exact square roots and quotients -/

/-- The integer square root of n, bits from 2^k down. -/
def isqrtFrom (n : Nat) : Nat → Nat → Nat
  | 0, r => r
  | k + 1, r => isqrtFrom n k (if (r + 2 ^ k) * (r + 2 ^ k) ≤ n then r + 2 ^ k else r)
def isqrt (n : Nat) : Nat := isqrtFrom n (Nat.log2 n / 2 + 1) 0

/-- The square root of m x 2^e scaled to at least 2 x 100 bits: quotient, exponent, and is it inexact? -/
def sqrtOf (m : Nat) (e : Int) : Nat × Int × Bool :=
  let odd := (e % 2).toNat
  let m' := m * 2 ^ (200 + odd)
  let s := isqrt m'
  (s, (e - odd - 200) / 2, s * s != m')

/-- FSQRT (R401, R402). -/
def sqrtW (rm : Rm) (x : Word) : Nat × Flags :=
  match f32Of x with
  | .nan sig => (fmtF32.nan, if sig then flagNV else 0)
  | .zero n => (fmtF32.signed n 0, 0)
  | .inf false => (fmtF32.infCode, 0)
  | .inf true => (fmtF32.nan, flagNV)
  | .fin true _ _ => (fmtF32.nan, flagNV)
  | .fin false m e =>
    let q := sqrtOf m e
    fmtF32.roundFin rm false false q.1 q.2.1 q.2.2

/-- m1 x 2^e1 over m2 x 2^e2 to 200 further bits: quotient, exponent, and is it inexact? -/
def quotOf (m1 : Nat) (e1 : Int) (m2 : Nat) (e2 : Int) : Nat × Int × Bool :=
  (m1 * 2 ^ 200 / m2, e1 - e2 - 200, m1 * 2 ^ 200 % m2 != 0)

/-- FDIV (R401, R402). -/
def divW (rm : Rm) (x y : Word) : Nat × Flags :=
  let a := f32Of x
  let b := f32Of y
  let n := a.sign != b.sign
  match a, b with
  | .nan _, _ => (fmtF32.nan, if a.isSig || b.isSig then flagNV else 0)
  | _, .nan sig => (fmtF32.nan, if sig then flagNV else 0)
  | .inf _, .inf _ => (fmtF32.nan, flagNV)
  | .zero _, .zero _ => (fmtF32.nan, flagNV)
  | .inf _, _ => (fmtF32.signed n fmtF32.infCode, 0)
  | .fin _ _ _, .zero _ => (fmtF32.signed n fmtF32.infCode, flagDZ)
  | _, .inf _ => (fmtF32.signed n 0, 0)
  | .zero _, _ => (fmtF32.signed n 0, 0)
  | .fin _ m1 e1, .fin _ m2 e2 =>
    let q := quotOf m1 e1 m2 e2
    fmtF32.roundFin rm false n q.1 q.2.1 q.2.2

/-! ## Constants and series in fixed point -/

/-- The sum of ± 2^P / ((2k + 1) x^(2k + 1)) from term k on, with t = 2^P / x^(2k + 1): arctan(1/x) where the signs
alternate, artanh(1/x) where they do not. -/
def invSeries (alt : Bool) (x : Nat) : Nat → Nat → Nat → Int
  | 0, _, _ => 0
  | n + 1, k, t =>
    let a : Int := (t / (2 * k + 1) : Nat)
    (if alt && k % 2 == 1 then -a else a) + invSeries alt x n (k + 1) (t / (x * x))

/-- π / 2 x 2^512, by Machin's formula. -/
def halfPi : Nat := ((16 * invSeries true 5 120 0 (2 ^ 528 / 5) - 4 * invSeries true 239 40 0 (2 ^ 528 / 239)) / 2 ^ 17).toNat
/-- ln 2 x 2^256 = 2 artanh(1/3) x 2^256. -/
def ln2 : Nat := (2 * invSeries false 3 90 0 (2 ^ 272 / 3) / 2 ^ 16).toNat

/-- The exponential series: sum of x^k / k! from term k on, t the term, in units of 2^-P. -/
def expSeries (P x : Nat) : Nat → Nat → Nat → Nat
  | 0, _, _ => 0
  | n + 1, k, t => t + expSeries P x n (k + 1) (t * x / 2 ^ P / (k + 1))
/-- The alternating series of sine and cosine: t, then - t x² / ((k + 1)(k + 2)) and so on, in units of 2^-P. -/
def trigSeries (P xx : Nat) : Nat → Nat → Nat → Int
  | 0, _, _ => 0
  | n + 1, k, t => (t : Int) - trigSeries P xx n (k + 2) (t * xx / 2 ^ P / ((k + 1) * (k + 2)))
/-- The odd powers of z: sum of z^(2k + 1) / (2k + 1), t = z^(2k + 1), in units of 2^-P. -/
def atanhSeries (P zz : Nat) : Nat → Nat → Nat → Nat
  | 0, _, _ => 0
  | n + 1, k, t => t / (2 * k + 1) + atanhSeries P zz n (k + 1) (t * zz / 2 ^ P)

/-- A real number known to a small relative error: (-1)^n x f x 2^e. -/
structure Approx where
  n : Bool
  f : Nat
  e : Int
  deriving DecidableEq, Repr

/-- 2^a for the number (-1)^n m 2^e, between -150 and 128. -/
def exp2Real (n : Bool) (m : Nat) (e : Int) : Approx :=
  let a : Int := sgn n m * 2 ^ (e + 256).toNat
  let whole := a / 2 ^ 256
  let frac := (a % 2 ^ 256).toNat
  { n := false, f := expSeries 256 (frac * ln2 / 2 ^ 256) 70 0 (2 ^ 256), e := whole - 256 }

/-- log2 of m x 2^e. -/
def log2Real (m : Nat) (e : Int) : Approx :=
  let top := Nat.log2 m
  let y := m * 2 ^ 256 / 2 ^ top
  let z := (y - 2 ^ 256) * 2 ^ 256 / (y + 2 ^ 256)
  let frac : Nat := 2 * atanhSeries 256 (z * z / 2 ^ 256) 90 0 z * 2 ^ 256 / ln2
  let v : Int := ((top : Int) + e) * 2 ^ 256 + frac
  { n := decide (v < 0), f := v.natAbs, e := -256 }

/-- The reduction of R405 for the magnitude m x 2^e: q and r x 2^512. -/
def reduce (m : Nat) (e : Int) : Nat × Int :=
  let a := m * 2 ^ (e + 512).toNat
  let q := (2 * a + halfPi) / (2 * halfPi)
  (q, (a : Int) - q * halfPi)

/-- Sine or cosine of r x 2^-512, |r| at most about π / 4. -/
def trigReal (cosine : Bool) (r : Int) : Approx :=
  let x := r.natAbs
  let xx := x * x / 2 ^ 512
  let v := if cosine then trigSeries 512 xx 60 0 (2 ^ 512) else trigSeries 512 xx 60 1 x
  { n := !cosine && decide (r < 0), f := v.toNat, e := -512 }

/-- Sine or cosine of r in quadrant q (R406). -/
def quadrant (cosine : Bool) (q : Nat) (r : Int) : Approx :=
  let c := cosine != (q % 2 == 1)
  let t := trigReal c r
  let flip := if cosine then q % 4 == 1 || q % 4 == 2 else 2 ≤ q % 4
  { t with n := t.n != flip }

/-! ## Results within a bound (R401) -/

/-- The exponent of the ulp of the exact result's binade, 2^-149 in the subnormal range. -/
def Approx.ulp (v : Approx) : Int := max ((Nat.log2 v.f : Int) + v.e) (-126) - 23
/-- Is a finite number certainly within k ulp of v? -/
def Approx.within (v : Approx) (k : Nat) (c : Num) : Bool :=
  let near := fun (i e : Int) =>
    let lo := min (min e v.e) v.ulp
    let d := (scaleTo i e lo - scaleTo (sgn v.n v.f) v.e lo).natAbs
    decide (d + (scaleTo 1024 v.e lo).natAbs ≤ (scaleTo k v.ulp lo).natAbs)
  match c with
  | .nan _ => false
  | .inf _ => false
  | .zero _ => near 0 0
  | .fin n m e => near (sgn n m) e

/-- A finite inexact result: what the device's function gives for the operand, known only to lie within k ulp of v
(log entry 7); NX, and UF where it is below the smallest normal (R401). -/
def sfuResult (op k : Nat) (x : Word) (v : Approx) : Nat × Flags :=
  let c := Config.sfu op x
  let bits := if v.within k (f32Of c) then c.toNat else (fmtF32.roundFin .rne false v.n v.f v.e true).1
  (bits, if bits % 2 ^ 31 < 2 ^ 23 then flagUF ||| flagNX else flagNX)

/-- An exact result that FP32 can represent. -/
def exactF32 (n : Bool) (m : Nat) (e : Int) : Nat := (fmtF32.roundFin .rne false n m e false).1
/-- Is m a power of two? -/
def pow2 (m : Nat) : Bool := m == 2 ^ Nat.log2 m
/-- NaN results (R401). -/
def sfuNan (sig : Bool) : Nat × Flags := (fmtF32.nan, if sig then flagNV else 0)

/-- FRCP (R401, R403). -/
def rcpW (x : Word) : Nat × Flags :=
  match f32Of x with
  | .nan sig => sfuNan sig
  | .zero n => (fmtF32.signed n fmtF32.infCode, flagDZ)
  | .inf n => (fmtF32.signed n 0, 0)
  | .fin n m e =>
    let top := (Nat.log2 m : Int) + e
    if top < -128 ∨ (top = -128 ∧ pow2 m) then (fmtF32.signed n fmtF32.infCode, flagOF ||| flagNX)
    else if pow2 m then (exactF32 n 1 (-top), 0)
    else sfuResult 0 1 x { n := n, f := 2 ^ 256 / m, e := -e - 256 }

/-- FRSQ (R401, R403). -/
def rsqW (x : Word) : Nat × Flags :=
  match f32Of x with
  | .nan sig => sfuNan sig
  | .zero n => (fmtF32.signed n fmtF32.infCode, 0)
  | .inf false => (0, 0)
  | .inf true => (fmtF32.nan, flagNV)
  | .fin true _ _ => (fmtF32.nan, flagNV)
  | .fin false m e =>
    let top := (Nat.log2 m : Int) + e
    if pow2 m && top % 2 == 0 then (exactF32 false 1 (-(top / 2)), 0)
    else
      let q := sqrtOf m e
      sfuResult 1 1 x { n := false, f := 2 ^ 256 / q.1, e := -q.2.1 - 256 }

/-- FEXP2 (R401, R404). -/
def exp2W (x : Word) : Nat × Flags :=
  match f32Of x with
  | .nan sig => sfuNan sig
  | .zero _ => (0x3F800000, 0)
  | .inf n => if n then (0, 0) else (fmtF32.infCode, 0)
  | .fin n m e =>
    let whole := decide (0 ≤ e) || m % 2 ^ (-e).toNat == 0
    let v : Int := if 0 ≤ e then sgn n m * 2 ^ e.toNat else sgn n (m / 2 ^ (-e).toNat)
    if !n && decide (128 ≤ v) then (fmtF32.infCode, flagOF ||| flagNX)
    else if n && decide (v ≤ -150) then (0, flagUF ||| flagNX)
    else if whole then (exactF32 false 1 v, 0)
    else sfuResult 4 2 x (exp2Real n m e)

/-- FLOG2 (R401, R404). -/
def log2W (x : Word) : Nat × Flags :=
  match f32Of x with
  | .nan sig => sfuNan sig
  | .zero _ => (fmtF32.signed true fmtF32.infCode, 0)
  | .inf false => (fmtF32.infCode, 0)
  | .inf true => (fmtF32.nan, flagNV)
  | .fin true _ _ => (fmtF32.nan, flagNV)
  | .fin false m e =>
    let top := (Nat.log2 m : Int) + e
    if pow2 m then (if top = 0 then 0 else exactF32 (decide (top < 0)) top.natAbs 0, 0)
    else sfuResult 5 2 x (log2Real m e)

/-- FRED (R405): the rounded reduced argument, the quadrant, the flags. -/
def redW (x : Word) : Nat × Nat × Flags :=
  match f32Of x with
  | .nan sig => (fmtF32.nan, 0, if sig then flagNV else 0)
  | .inf _ => (fmtF32.nan, 0, flagNV)
  | .zero n => (fmtF32.signed n 0, 0, 0)
  | .fin n m e =>
    let q := reduce m e
    let r := fmtF32.roundFin .rne false (n != decide (q.2 < 0)) q.2.natAbs (-512) (q.1 != 0)
    (r.1, (if n then (4 - q.1 % 4) % 4 else q.1 % 4), r.2 &&& flagNX)

/-- FSIN and FCOS of a finite non-zero operand (R401, R406): within 1 ulp for a small operand, 2 ulp below 2^24, and
beyond by FRED's rounded r and q, within 1 ulp. -/
def trigFin (cosine : Bool) (op : Nat) (x : Word) (n : Bool) (m : Nat) (e : Int) : Nat × Flags :=
  let mag := x.toNat % 2 ^ 31
  let q := reduce m e
  if (Nat.log2 m : Int) + e < 24 then
    let quad := if n then (4 - q.1 % 4) % 4 else q.1 % 4
    sfuResult op (if mag ≤ 0x3F490FDB then 1 else 2) x (quadrant cosine quad (if n then -q.2 else q.2))
  else
    let r := redW x
    match fmtF32.decode r.1 with
    | .fin n' m' e' => sfuResult op 1 x (quadrant cosine r.2.1 (sgn n' m' * 2 ^ (e' + 512).toNat))
    | _ => sfuResult op 1 x (quadrant cosine r.2.1 0)

/-- FSIN (R401, R406). -/
def sinW (x : Word) : Nat × Flags :=
  match f32Of x with
  | .nan sig => sfuNan sig
  | .inf _ => (fmtF32.nan, flagNV)
  | .zero n => (fmtF32.signed n 0, 0)
  | .fin n m e => trigFin false 6 x n m e
/-- FCOS (R401, R406). -/
def cosW (x : Word) : Nat × Flags :=
  match f32Of x with
  | .nan sig => sfuNan sig
  | .inf _ => (fmtF32.nan, flagNV)
  | .zero _ => (0x3F800000, 0)
  | .fin n m e => trigFin true 7 x n m e

/-! ## The instructions -/

/-- A special function of one word, deferred (R77, R400). -/
def sfuOp (i : Instr) (s : State) (d a : VReg) (f : Word → Nat × Flags) : Host.Outcome State Fault Refusal :=
  deferOp i s fun l =>
    let r := toWord (f (l.getV a))
    ([(d.val, r.1)], r.2)

/-- FRCP (R403). -/
def execFrcp (d a : VReg) (s : State) : Host.Outcome State Fault Refusal := sfuOp (.frcp d a) s d a rcpW
/-- FRSQ (R403). -/
def execFrsq (d a : VReg) (s : State) : Host.Outcome State Fault Refusal := sfuOp (.frsq d a) s d a rsqW
/-- FSQRT (R402). -/
def execFsqrt (d a : VReg) (r : Rm) (s : State) : Host.Outcome State Fault Refusal :=
  sfuOp (.fsqrt d a r) s d a (sqrtW r)
/-- FDIV (R402). -/
def execFdiv (d a b : VReg) (r : Rm) (s : State) : Host.Outcome State Fault Refusal :=
  deferOp (.fdiv d a b r) s fun l =>
    let q := toWord (divW r (l.getV a) (l.getV b))
    ([(d.val, q.1)], q.2)
/-- FEXP2 (R404). -/
def execFexp2 (d a : VReg) (s : State) : Host.Outcome State Fault Refusal := sfuOp (.fexp2 d a) s d a exp2W
/-- FLOG2 (R404). -/
def execFlog2 (d a : VReg) (s : State) : Host.Outcome State Fault Refusal := sfuOp (.flog2 d a) s d a log2W
/-- FSIN (R406). -/
def execFsin (d a : VReg) (s : State) : Host.Outcome State Fault Refusal := sfuOp (.fsin d a) s d a sinW
/-- FCOS (R406). -/
def execFcos (d a : VReg) (s : State) : Host.Outcome State Fault Refusal := sfuOp (.fcos d a) s d a cosW
/-- FRED writes its pair together (R405). -/
def execFred (d a : VReg) (s : State) : Host.Outcome State Fault Refusal :=
  deferOp (.fred d a) s fun l =>
    let r := redW (l.getV a)
    ([(d.val, BitVec.ofNat 32 r.1), (d.val + 1, BitVec.ofNat 32 r.2.1)], r.2.2)

end Sys2Proof.Machine
end

