-- ==== Sys2Proof/Machine/System.lean ====
section
/-! DEFINITION. System registers, the chronometer, counters and random numbers (R64, R83, R104, R222, R262, R280, R337,
R338, R372, R374, R411, R450, R451, R474). -/
namespace Sys2Proof.Machine
open Sys2Proof

/-! ## Reading -/

/-- %lstat (R222). -/
def Lane.lstat (l : Lane) : Nat := l.depth * 16 + bit l.dm * 4 + bit l.ss * 2 + bit l.sup
/-- %cvwN: the word of the team's cvN, zero at or above NCV (R83). -/
def State.cvWord (s : State) (l : Lane) (n : Nat) : Word :=
  match (s.team? l.id.tid).bind fun t => t.cvs[n]? with
  | some c => ((s.cluster l.cluster).cvOf c).word
  | none => 0
/-- The team's index, and its coordinates (R61). -/
def State.teamIndex (s : State) (l : Lane) : Nat := (s.team? l.id.tid).elim 0 (·.index)

/-- The value MFS reads of register r in a lane (R337). -/
def State.readSys (s : State) (l : Lane) (r : Nat) : DWord :=
  let rec' := s.laneRec l
  let x := s.part l.part
  let i := s.teamIndex l
  let n : Nat :=
    if r = 0x000 then l.id.slot
    else if r = 0x001 then l.id.grp
    else if r = 0x002 then recGroups rec'
    else if r = 0x003 then (match l.role with | .con => 0 | .pro => 1)
    else if r = 0x004 then i
    else if r = 0x005 then i % recNx rec'
    else if r = 0x006 then i / recNx rec' % recNy rec'
    else if r = 0x007 then i / recNx rec' / recNy rec'
    else if r = 0x008 then recNx rec'
    else if r = 0x009 then recNy rec'
    else if r = 0x00A then recNz rec'
    else if r = 0x00B then l.gid
    else if r = 0x00C then (s.launch? l.part l.seq).elim 0 (·.cls)
    else if r = 0x00D then l.lstat
    else if r = 0x010 then (s.group? l.id).elim 0 (·.fflags.toNat)
    else if r = 0x013 then x.fixno.toNat
    else if r = 0x014 then s.chron l.part
    else if 0x018 ≤ r ∧ r ≤ 0x01B then s.barPhase l (r - 0x018)
    else if r = 0x01C then s.gridPhase l
    else if 0x020 ≤ r ∧ r ≤ 0x027 then (recSlot rec' (r - 0x020)).toNat
    else if 0x030 ≤ r ∧ r ≤ 0x03F then (s.cvWord l (r - 0x030)).toNat
    else if r = 0x100 then l.ssw.toNat
    else if r = 0x101 then l.epc.toNat
    else if r = 0x102 then l.fpc.toNat
    else if r = 0x103 then l.tval.toNat
    else if r = 0x104 then x.tvec.toNat
    else if r = 0x105 then (s.group? l.id).elim 0 (·.dbgctl.toNat)
    else if 0x108 ≤ r ∧ r ≤ 0x10B then (tget 0 (r - 0x108) x.brk).toNat
    else if r = 0x110 then x.l1ways
    else if r = 0x111 then l.ctxsel.toNat
    else if r = 0x112 then (s.ctxWord l.part (ctxSel l.ctxsel).1 (ctxSel l.ctxsel).2).toNat
    else if r = 0x113 then x.lease
    else if r = 0x114 then x.dqprio
    else if r = 0x116 then x.colltmo
    else if 0x200 ≤ r ∧ r < 0x400 then ((s.bank l.part ((r - 0x200) / 0x40)).guestRead (r % 0x40)).toNat
    else 0
  BitVec.ofNat 64 n

def sysWide (r : Nat) : Bool :=
  match sysKind r with | some k => k.wide | none => false

/-- Lanes that may not access register r take PRIV with AUX 1 (R450). -/
def privLanes (s : State) (r : Nat) (ok : Lane → Bool) : State :=
  eachActive s fun s l => if ok l then s else s.raise l (l.causeHere causePriv 1 (BitVec.ofNat 64 r))

/-- Write a 32-bit or 64-bit value to d. -/
def Lane.setSys (l : Lane) (d : VReg) (wide : Bool) (v : DWord) : Lane :=
  if wide then l.setPair d v else l.setV d (v.setWidth 32)

/-- May a lane of the lane's group have flags outstanding that its MXRD has yet to raise (R40)? -/
def State.flagsDue (s : State) (l : Lane) : Bool :=
  s.lanes.any fun m => m.id.tid == l.id.tid && m.id.grp == l.id.grp && m.deferred.any fun d =>
    (match d.instr, d.wait with | .mxrd .., .engine _ => true | _, _ => false)
/-- MFS (R450): the value at issue. A read of the chronometer counts as one (R281). One of %fflags waits for the matrix engine's results of
the group (R40). -/
def execMfs (d : VReg) (r : BitVec 12) (s : State) : Host.Outcome State Fault Refusal :=
  guarded (.mfs d r) s fun s =>
    let n := r.toNat
    let s1 := privLanes s n fun l => sysMfsOk n l.sup
    let s2 := match s1.lead with
      | some l => if n = 0x014 then (s1.readChron l.part).2 else s1
      | none => s1
    mapActive s2 fun l => if n = 0x010 && s2.flagsDue l then l.stall else (l.setSys d (sysWide n) (s2.readSys l n)).adv 4

/-! ## Writing -/

/-- The groups that have an active lane. -/
def State.activeGroups (s : State) : List (Nat × Nat) := (s.actives.map fun l => (l.id.tid, l.id.grp)).eraseDups

/-- The effect of MTS on a register held per group or wider, with the value of the lowest active lane (R338, R451). -/
def State.writeSys (s : State) (l : Lane) (r : Nat) (v : DWord) : State :=
  let p := l.part
  let w : Word := v.setWidth 32
  if r = 0x010 then s.activeGroups.foldl (fun s g => s.writeFflags g.1 g.2 w (s.raisedIn g.1 g.2)) s
  else if r = 0x011 then s.writeTrmark l w
  else if r = 0x012 then s.modPart p fun x => x.trigger 4
  else if r = 0x105 then s.activeGroups.foldl (fun s g => s.writeDbgctl g.1 g.2 w) s
  else if 0x108 ≤ r ∧ r ≤ 0x10B then s.writeBrk p (r - 0x108) v
  else if r = 0x110 then s.writeL1ways p w
  else if r = 0x112 then s.writeCtx p (ctxSel l.ctxsel).1 (ctxSel l.ctxsel).2 v
  else if r = 0x113 then s.writeLease p w
  else if r = 0x114 then s.modPart p fun x => { x with dqprio := fld w.toNat 0 3 }
  else if r = 0x115 then s.writeAdmitrel p (ctxSel l.ctxsel).1 v.toNat
  else if r = 0x116 then s.writeColltmo p w
  else if 0x200 ≤ r ∧ r < 0x400 then
    s.setBank p ((r - 0x200) / 0x40) ((s.bank p ((r - 0x200) / 0x40)).write .guest (r % 0x40) v)
  else s

/-- The effect of MTS on a register held per lane (R223, R227, R337). -/
def Lane.writeSys (l : Lane) (r : Nat) (v : DWord) : Lane :=
  if r = 0x100 then { l with ssw := v.setWidth 32 }
  else if r = 0x101 then { l with epc := v }
  else if r = 0x102 then { l with fpc := v }
  else if r = 0x103 then { l with tval := v }
  else if r = 0x111 then { l with ctxsel := v.setWidth 32 &&& 0x7F }
  else l

/-- The value MTS writes: a register, or a pair for a 64-bit register (R338). -/
def Lane.getSys (l : Lane) (d : VReg) (wide : Bool) : DWord := if wide then l.pair d else (l.getV d).setWidth 64

/-- MTS (R450, R451). A write of %tvec waits while a line of the object is with the host. -/
def execMts (d : VReg) (r : BitVec 12) (s : State) : Host.Outcome State Fault Refusal :=
  guarded (.mts d r) s fun s =>
    let n := r.toNat
    let s1 := privLanes s n fun l => sysMtsOk n l.sup
    match s1.lead with
    | none => s1
    | some l =>
      let v := l.getSys d (sysWide n)
      if n = 0x104 then
        let q := s1.writeTvec l.part v
        mapActive q.1 fun l => if q.2 then l.adv 4 else l.stall
      else (mapActive (s1.writeSys l n v) fun l => (l.writeSys n (l.getSys d (sysWide n))).adv 4).thaw s1

/-! ## CLK, CNTRD, RND -/

/-- CLK (R372). -/
def execClk (d : VReg) (s : State) : Host.Outcome State Fault Refusal :=
  guarded (.clk d) s fun s =>
    match s.lead with
    | none => s
    | some l =>
      let q := s.readChron l.part
      mapActive q.2 fun l => (l.setPair d (BitVec.ofNat 64 q.1)).adv 4

/-- The two registers of a 64-bit result, low half first. -/
def pairOf (d : VReg) (v : DWord) : List (Nat × Word) := [(d.val, v.setWidth 32), (d.val + 1, (v >>> 32).setWidth 32)]

/-- CNTRD (R374): deferred, the bank's value at issue (R266). -/
def execCntrd (d : VReg) (r : BitVec 12) (s : State) : Host.Outcome State Fault Refusal :=
  deferOp (.cntrd d r) s fun l => (pairOf d ((s.bank l.part ((r.toNat - 0x200) / 0x40)).cntrd (r.toNat % 0x40)), 0)

/-- A draw and the counter's step (R104, R474). -/
def Lane.draw (l : Lane) (seed : Nat) : DWord × Lane :=
  (rndDraw (BitVec.ofNat 64 seed) (BitVec.ofNat 64 l.gid) l.rnd, { l with rnd := l.rnd + 1 })
/-- RND.lo (R474). -/
def execRndLo (d : VReg) (s : State) : Host.Outcome State Fault Refusal :=
  laneOp (.rndLo d) s fun l => let q := l.draw (recSeed (s.laneRec l)); q.2.setV d (q.1.setWidth 32)
/-- RND.hi (R474). -/
def execRndHi (d : VReg) (s : State) : Host.Outcome State Fault Refusal :=
  laneOp (.rndHi d) s fun l => let q := l.draw (recSeed (s.laneRec l)); q.2.setV d ((q.1 >>> 32).setWidth 32)

end Sys2Proof.Machine
end

