-- ==== Sys2Proof/Machine/Dispatch.lean ====
section
/-! DEFINITION. One arm per constructor of Instr, each one direct call of its meaning. -/
namespace Sys2Proof.Machine
open Sys2Proof

def exec (i : Instr) (s : State) : Host.Outcome State Fault Refusal :=
  match i with
  | .nop => Sys2Proof.Machine.execNop s
  | .exit => Sys2Proof.Machine.execExit s
  | .yield => Sys2Proof.Machine.execYield s
  | .ret a => Sys2Proof.Machine.execRet a s
  | .bra h p n d => Sys2Proof.Machine.execBra h p n d s
  | .call d i' => Sys2Proof.Machine.execCall d i' s
  | .trap i' => Sys2Proof.Machine.execTrap i' s
  | .tret => Sys2Proof.Machine.execTret s
  | .bkpt => Sys2Proof.Machine.execBkpt s
  | .bar m b => Sys2Proof.Machine.execBar m b s
  | .bara d m b => Sys2Proof.Machine.execBara d m b s
  | .barw b => Sys2Proof.Machine.execBarw b s
  | .cbar => Sys2Proof.Machine.execCbar s
  | .gbar => Sys2Proof.Machine.execGbar s
  | .waitph p a b => Sys2Proof.Machine.execWaitph p a b s
  | .evsig a b => Sys2Proof.Machine.execEvsig a b s
  | .evwait a b => Sys2Proof.Machine.execEvwait a b s
  | .fence e o => Sys2Proof.Machine.execFence e o s
  | .drain p => Sys2Proof.Machine.execDrain p s
  | .mfs d r => Sys2Proof.Machine.execMfs d r s
  | .mts d r => Sys2Proof.Machine.execMts d r s
  | .clk d => Sys2Proof.Machine.execClk d s
  | .cntrd d r => Sys2Proof.Machine.execCntrd d r s
  | .rndLo d => Sys2Proof.Machine.execRndLo d s
  | .rndHi d => Sys2Proof.Machine.execRndHi d s
  | .cvdecl v t k => Sys2Proof.Machine.execCvdecl v t k s
  | .cvsign v => Sys2Proof.Machine.execCvsign v s
  | .cvsignW v => Sys2Proof.Machine.execCvsignW v s
  | .brx a => Sys2Proof.Machine.execBrx a s
  | .iadd d a b => Sys2Proof.Machine.execIadd d a b s
  | .isub d a b => Sys2Proof.Machine.execIsub d a b s
  | .imul d a b => Sys2Proof.Machine.execImul d a b s
  | .imulhI32 d a b => Sys2Proof.Machine.execImulhI32 d a b s
  | .imulhN32 d a b => Sys2Proof.Machine.execImulhN32 d a b s
  | .imad d a b => Sys2Proof.Machine.execImad d a b s
  | .idivI32 d a b => Sys2Proof.Machine.execIdivI32 d a b s
  | .idivN32 d a b => Sys2Proof.Machine.execIdivN32 d a b s
  | .iremI32 d a b => Sys2Proof.Machine.execIremI32 d a b s
  | .iremN32 d a b => Sys2Proof.Machine.execIremN32 d a b s
  | .iminI32 d a b => Sys2Proof.Machine.execIminI32 d a b s
  | .iminN32 d a b => Sys2Proof.Machine.execIminN32 d a b s
  | .imaxI32 d a b => Sys2Proof.Machine.execImaxI32 d a b s
  | .imaxN32 d a b => Sys2Proof.Machine.execImaxN32 d a b s
  | .iabs d a => Sys2Proof.Machine.execIabs d a s
  | .and d a b => Sys2Proof.Machine.execAnd d a b s
  | .or d a b => Sys2Proof.Machine.execOr d a b s
  | .xor d a b => Sys2Proof.Machine.execXor d a b s
  | .shl d a b => Sys2Proof.Machine.execShl d a b s
  | .shr d a b => Sys2Proof.Machine.execShr d a b s
  | .sar d a b => Sys2Proof.Machine.execSar d a b s
  | .shf d a b => Sys2Proof.Machine.execShf d a b s
  | .popc d a => Sys2Proof.Machine.execPopc d a s
  | .clz d a => Sys2Proof.Machine.execClz d a s
  | .brev d a => Sys2Proof.Machine.execBrev d a s
  | .bfeI32 d a b => Sys2Proof.Machine.execBfeI32 d a b s
  | .bfeN32 d a b => Sys2Proof.Machine.execBfeN32 d a b s
  | .bfi d a b => Sys2Proof.Machine.execBfi d a b s
  | .sel d a b p => Sys2Proof.Machine.execSel d a b p s
  | .icmp p a b k => Sys2Proof.Machine.execIcmp p a b k s
  | .ladd d a b => Sys2Proof.Machine.execLadd d a b s
  | .mov d a ag dg => Sys2Proof.Machine.execMov d a ag dg s
  | .iaddi d a i' => Sys2Proof.Machine.execIaddi d a i' s
  | .andi d a i' => Sys2Proof.Machine.execAndi d a i' s
  | .ori d a i' => Sys2Proof.Machine.execOri d a i' s
  | .xori d a i' => Sys2Proof.Machine.execXori d a i' s
  | .shlImm d a i' => Sys2Proof.Machine.execShlImm d a i' s
  | .shrImm d a i' => Sys2Proof.Machine.execShrImm d a i' s
  | .sarImm d a i' => Sys2Proof.Machine.execSarImm d a i' s
  | .movi d i' => Sys2Proof.Machine.execMovi d i' s
  | .movh d i' => Sys2Proof.Machine.execMovh d i' s
  | .laddi d a i' => Sys2Proof.Machine.execLaddi d a i' s
  | .fadd d a b r => Sys2Proof.Machine.execFadd d a b r s
  | .fsub d a b r => Sys2Proof.Machine.execFsub d a b r s
  | .fmul d a b r => Sys2Proof.Machine.execFmul d a b r s
  | .ffma d a b r => Sys2Proof.Machine.execFfma d a b r s
  | .fmin d a b => Sys2Proof.Machine.execFmin d a b s
  | .fmax d a b => Sys2Proof.Machine.execFmax d a b s
  | .fcmp p a b k => Sys2Proof.Machine.execFcmp p a b k s
  | .fclass d a => Sys2Proof.Machine.execFclass d a s
  | .fadd2Bf16 d a b r => Sys2Proof.Machine.execFadd2Bf16 d a b r s
  | .fadd2F16 d a b r => Sys2Proof.Machine.execFadd2F16 d a b r s
  | .fma2Bf16 d a b r => Sys2Proof.Machine.execFma2Bf16 d a b r s
  | .fma2F16 d a b r => Sys2Proof.Machine.execFma2F16 d a b r s
  | .frcp d a => Sys2Proof.Machine.execFrcp d a s
  | .frsq d a => Sys2Proof.Machine.execFrsq d a s
  | .fsqrt d a r => Sys2Proof.Machine.execFsqrt d a r s
  | .fdiv d a b r => Sys2Proof.Machine.execFdiv d a b r s
  | .fexp2 d a => Sys2Proof.Machine.execFexp2 d a s
  | .flog2 d a => Sys2Proof.Machine.execFlog2 d a s
  | .fsin d a => Sys2Proof.Machine.execFsin d a s
  | .fcos d a => Sys2Proof.Machine.execFcos d a s
  | .fred d a => Sys2Proof.Machine.execFred d a s
  | .cvt d a k r t l => Sys2Proof.Machine.execCvt d a k r t l s
  | .cvtF32Mx d a j r l => Sys2Proof.Machine.execCvtF32Mx d a j r l s
  | .qmx d a b l => Sys2Proof.Machine.execQmx d a b l s
  | .dqmx d a b l => Sys2Proof.Machine.execDqmx d a b l s
  | .pslice d a => Sys2Proof.Machine.execPslice d a s
  | .pmerge d a p => Sys2Proof.Machine.execPmerge d a p s
  | .shfl d a b m w => Sys2Proof.Machine.execShfl d a b m w s
  | .shflImm d a i' m w => Sys2Proof.Machine.execShflImm d a i' m w s
  | .voteOr p q => Sys2Proof.Machine.execVoteOr p q s
  | .voteAnd p q => Sys2Proof.Machine.execVoteAnd p q s
  | .voteMask d q => Sys2Proof.Machine.execVoteMask d q s
  | .voteCount d q => Sys2Proof.Machine.execVoteCount d q s
  | .voteFirst d q => Sys2Proof.Machine.execVoteFirst d q s
  | .vmatch d a => Sys2Proof.Machine.execVmatch d a s
  | .ldB8 d a e o f i' => Sys2Proof.Machine.execLdB8 d a e o f i' s
  | .ldB16 d a e o f i' => Sys2Proof.Machine.execLdB16 d a e o f i' s
  | .ldB32 d a e o f i' => Sys2Proof.Machine.execLdB32 d a e o f i' s
  | .ldB64 d a e o f i' => Sys2Proof.Machine.execLdB64 d a e o f i' s
  | .ldB128 d a e o f i' => Sys2Proof.Machine.execLdB128 d a e o f i' s
  | .stB8 d a e o i' => Sys2Proof.Machine.execStB8 d a e o i' s
  | .stB16 d a e o i' => Sys2Proof.Machine.execStB16 d a e o i' s
  | .stB32 d a e o i' => Sys2Proof.Machine.execStB32 d a e o i' s
  | .stB64 d a e o i' => Sys2Proof.Machine.execStB64 d a e o i' s
  | .stB128 d a e o i' => Sys2Proof.Machine.execStB128 d a e o i' s
  | .lds d a z w i' => Sys2Proof.Machine.execLds d a z w i' s
  | .sts d a z w i' => Sys2Proof.Machine.execSts d a z w i' s
  | .qpush d q => Sys2Proof.Machine.execQpush d q s
  | .qpop d q => Sys2Proof.Machine.execQpop d q s
  | .pref a l => Sys2Proof.Machine.execPref a l s
  | .cinv a e => Sys2Proof.Machine.execCinv a e s
  | .cflush a e => Sys2Proof.Machine.execCflush a e s
  | .kclr k => Sys2Proof.Machine.execKclr k s
  | .kadd k a f => Sys2Proof.Machine.execKadd k a f s
  | .kfma k a b f => Sys2Proof.Machine.execKfma k a b f s
  | .kdot2 k a b f => Sys2Proof.Machine.execKdot2 k a b f s
  | .kdot4 k a b f => Sys2Proof.Machine.execKdot4 k a b f s
  | .kiadd k a b => Sys2Proof.Machine.execKiadd k a b s
  | .kmrg k m => Sys2Proof.Machine.execKmrg k m s
  | .kmrgNeg k m => Sys2Proof.Machine.execKmrgNeg k m s
  | .knorm k => Sys2Proof.Machine.execKnorm k s
  | .kscl k a => Sys2Proof.Machine.execKscl k a s
  | .kseg k a b => Sys2Proof.Machine.execKseg k a b s
  | .kstat k a => Sys2Proof.Machine.execKstat k a s
  | .krnd k a t r f => Sys2Proof.Machine.execKrnd k a t r f s
  | .kld k a e o f i' => Sys2Proof.Machine.execKld k a e o f i' s
  | .kst k a e o i' => Sys2Proof.Machine.execKst k a e o i' s
  | .mxa v a b l t => Sys2Proof.Machine.execMxa v a b l t s
  | .mxz l t => Sys2Proof.Machine.execMxz l t s
  | .mxrd a l t => Sys2Proof.Machine.execMxrd a l t s
  | .mxsp a l t => Sys2Proof.Machine.execMxsp a l t s
  | .mxfl a l t => Sys2Proof.Machine.execMxfl a l t s
  | .launch a => Sys2Proof.Machine.execLaunch a s
  | .smodeScratch a => Sys2Proof.Machine.execSmodeScratch a s
  | .smodeQueue a => Sys2Proof.Machine.execSmodeQueue a s
  | .lit d w => Sys2Proof.Machine.execLit d w s
  | .atom d a b op z ord e o i' => Sys2Proof.Machine.execAtom d a b op z ord e o i' s
  | .atomNr a b op z ord e o i' => Sys2Proof.Machine.execAtomNr a b op z ord e o i' s
  | .orderedAtomRelease tid => Sys2Proof.Machine.execOrderedAtomRelease tid s
  | .cas d a b c z ord e o i' => Sys2Proof.Machine.execCas d a b c z ord e o i' s
  | .aacc a b f e o i' => Sys2Proof.Machine.execAacc a b f e o i' s
  | .aaccMul a b c f e o i' => Sys2Proof.Machine.execAaccMul a b c f e o i' s
  | .amrg a k e o i' => Sys2Proof.Machine.execAmrg a k e o i' s
  | .amrgNeg a k e o i' => Sys2Proof.Machine.execAmrgNeg a k e o i' s
  | .cpy a e => Sys2Proof.Machine.execCpy a e s
  | .gthr a e => Sys2Proof.Machine.execGthr a e s
  | .coll a h e => Sys2Proof.Machine.execColl a h e s
  | .collw d h => Sys2Proof.Machine.execCollw d h s
  | .rowpin d a => Sys2Proof.Machine.execRowpin d a s
  | .rowrel a => Sys2Proof.Machine.execRowrel a s
  | .rowrelAll => Sys2Proof.Machine.execRowrelAll s
  | .rowqry d a => Sys2Proof.Machine.execRowqry d a s
  | .smodeConvert tid => Sys2Proof.Machine.execSmodeConvert tid s
  | .bundleFormation quarter => Sys2Proof.Machine.execBundleFormation quarter s
  | .deferredResultWrite l n => Sys2Proof.Machine.execDeferredResultWrite l n s
  | .trapEntry l => Sys2Proof.Machine.execTrapEntry l s
  | .queueWaitResume tid q => Sys2Proof.Machine.execQueueWaitResume tid q s
  | .mxeEntryGrant cluster => Sys2Proof.Machine.execMxeEntryGrant cluster s
  | .mxeEntryComplete cluster => Sys2Proof.Machine.execMxeEntryComplete cluster s
  | .mxeHeldFiringEnter cluster => Sys2Proof.Machine.execMxeHeldFiringEnter cluster s
  | .mxeSelftest cluster failed => Sys2Proof.Machine.execMxeSelftest cluster failed s
  | .copyComplete xfer => Sys2Proof.Machine.execCopyComplete xfer s
  | .collComplete coll => Sys2Proof.Machine.execCollComplete coll s
  | .collTimeout coll => Sys2Proof.Machine.execCollTimeout coll s
  | .sqDoorbell p q t => Sys2Proof.Machine.execSqDoorbell p q t s
  | .sqEntryNop p q => Sys2Proof.Machine.execSqEntryNop p q s
  | .sqEntryLaunch p q => Sys2Proof.Machine.execSqEntryLaunch p q s
  | .sqEntryEvsig p q => Sys2Proof.Machine.execSqEntryEvsig p q s
  | .sqEntryEvwait p q => Sys2Proof.Machine.execSqEntryEvwait p q s
  | .dqEntryTake p => Sys2Proof.Machine.execDqEntryTake p s
  | .teamPlace p seq clusters => Sys2Proof.Machine.execTeamPlace p seq clusters s
  | .placementHoldTimeout p => Sys2Proof.Machine.execPlacementHoldTimeout p s
  | .teamRetire tid => Sys2Proof.Machine.execTeamRetire tid s
  | .gets m => Sys2Proof.Machine.execGets m s
  | .getx m => Sys2Proof.Machine.execGetx m s
  | .getm m => Sys2Proof.Machine.execGetm m s
  | .tok m => Sys2Proof.Machine.execTok m s
  | .put m => Sys2Proof.Machine.execPut m s
  | .putp m => Sys2Proof.Machine.execPutp m s
  | .foldMsg m => Sys2Proof.Machine.execFoldMsg m s
  | .part m => Sys2Proof.Machine.execPart m s
  | .pact m => Sys2Proof.Machine.execPact m s
  | .pdeact m => Sys2Proof.Machine.execPdeact m s
  | .persistentAck m => Sys2Proof.Machine.execPersistentAck m s
  | .preq m => Sys2Proof.Machine.execPreq m s
  | .pdone m => Sys2Proof.Machine.execPdone m s
  | .tokenAttemptTimeout line a => Sys2Proof.Machine.execTokenAttemptTimeout line a s
  | .tokenRetry line a => Sys2Proof.Machine.execTokenRetry line a s
  | .hostMemRead addr n => Sys2Proof.Machine.execHostMemRead addr n s
  | .hostMemWrite addr bytes => Sys2Proof.Machine.execHostMemWrite addr bytes s
  | .birsp r => Sys2Proof.Machine.execBirsp r s
  | .snpinv hline => Sys2Proof.Machine.execSnpinv hline s
  | .snpdata hline => Sys2Proof.Machine.execSnpdata hline s
  | .dieLost d => Sys2Proof.Machine.execDieLost d s
  | .bankRefresh pc bank => Sys2Proof.Machine.execBankRefresh pc bank s
  | .hotSideActivation pc bank => Sys2Proof.Machine.execHotSideActivation pc bank s
  | .hotWindowEnd pc => Sys2Proof.Machine.execHotWindowEnd pc s
  | .agecapExpiry req => Sys2Proof.Machine.execAgecapExpiry req s
  | .tlbLeaseExpiry n => Sys2Proof.Machine.execTlbLeaseExpiry n s
  | .fotdataWrite v => Sys2Proof.Machine.execFotdataWrite v s
  | .scrubFrontAdvance frame => Sys2Proof.Machine.execScrubFrontAdvance frame s
  | .extentEntryWrite n x => Sys2Proof.Machine.execExtentEntryWrite n x s
  | .extentDrain n => Sys2Proof.Machine.execExtentDrain n s
  | .extentDrainComplete n => Sys2Proof.Machine.execExtentDrainComplete n s
  | .ptsyncRead p => Sys2Proof.Machine.execPtsyncRead p s
  | .replay p w => Sys2Proof.Machine.execReplay p w s
  | .replayAbort p w => Sys2Proof.Machine.execReplayAbort p w s
  | .faultQueueHeldWrite p => Sys2Proof.Machine.execFaultQueueHeldWrite p s
  | .preempt p => Sys2Proof.Machine.execPreempt p s
  | .preemptResume p => Sys2Proof.Machine.execPreemptResume p s
  | .draintExpiry p => Sys2Proof.Machine.execDraintExpiry p s
  | .savetExpiry p => Sys2Proof.Machine.execSavetExpiry p s
  | .preemptSaveComplete p => Sys2Proof.Machine.execPreemptSaveComplete p s
  | .partitionActivate p => Sys2Proof.Machine.execPartitionActivate p s
  | .partitionHalt p => Sys2Proof.Machine.execPartitionHalt p s
  | .partitionReset p => Sys2Proof.Machine.execPartitionReset p s
  | .partitionSuspend p => Sys2Proof.Machine.execPartitionSuspend p s
  | .partitionResume p => Sys2Proof.Machine.execPartitionResume p s
  | .partitionDeactivate p => Sys2Proof.Machine.execPartitionDeactivate p s
  | .partitionResetDone p => Sys2Proof.Machine.execPartitionResetDone p s
  | .partitionSuspendDone p => Sys2Proof.Machine.execPartitionSuspendDone p s
  | .unitStop p => Sys2Proof.Machine.execUnitStop p s
  | .qstopDump quarter => Sys2Proof.Machine.execQstopDump quarter s
  | .qresume p quarter => Sys2Proof.Machine.execQresume p quarter s
  | .cbClaim p n who => Sys2Proof.Machine.execCbClaim p n who s
  | .cbRelease p n who => Sys2Proof.Machine.execCbRelease p n who s
  | .cbClear p n who => Sys2Proof.Machine.execCbClear p n who s
  | .cbConfig p n who w => Sys2Proof.Machine.execCbConfig p n who w s
  | .fixLatch p => Sys2Proof.Machine.execFixLatch p s
  | .fixin => Sys2Proof.Machine.execFixin s
  | .fixRegisterWrite p => Sys2Proof.Machine.execFixRegisterWrite p s
  | .tracePcSample p die => Sys2Proof.Machine.execTracePcSample p die s
  | .policyPeriodEnd => Sys2Proof.Machine.execPolicyPeriodEnd s
  | .chronCommit p => Sys2Proof.Machine.execChronCommit p s
  | .tvecWrite p v => Sys2Proof.Machine.execTvecWrite p v s
  | .l1waysWrite p w => Sys2Proof.Machine.execL1waysWrite p w s
  | .l1waysTakeEffect cluster => Sys2Proof.Machine.execL1waysTakeEffect cluster s
  | .admitrelWrite p ctx v => Sys2Proof.Machine.execAdmitrelWrite p ctx v s
  | .admitrelTakeEffect p ctx code => Sys2Proof.Machine.execAdmitrelTakeEffect p ctx code s
  | .trmarkWrite l w => Sys2Proof.Machine.execTrmarkWrite l w s
  | .fflagsWrite tid grp w raised => Sys2Proof.Machine.execFflagsWrite tid grp w raised s
  | .leaseWrite p w => Sys2Proof.Machine.execLeaseWrite p w s
  | .ctxregWrite p sel v => Sys2Proof.Machine.execCtxregWrite p sel v s
  | .eventMmioWrite p e n => Sys2Proof.Machine.execEventMmioWrite p e n s
  | .msixUnmask f vec => Sys2Proof.Machine.execMsixUnmask f vec s
  | .registerWrite f off width v => Sys2Proof.Machine.execRegisterWrite f off width v s
  | .vfFlr vf => Sys2Proof.Machine.execVfFlr vf s
  | .deviceReset => Sys2Proof.Machine.execDeviceReset s
  | .firmwareRecoveryLoad img => Sys2Proof.Machine.execFirmwareRecoveryLoad img s
  | .getVersion f => Sys2Proof.Machine.execGetVersion f s
  | .getCapabilities f => Sys2Proof.Machine.execGetCapabilities f s
  | .negotiateAlgorithms f => Sys2Proof.Machine.execNegotiateAlgorithms f s
  | .getDigests f => Sys2Proof.Machine.execGetDigests f s
  | .getCertificate f => Sys2Proof.Machine.execGetCertificate f s
  | .challenge f nonce => Sys2Proof.Machine.execChallenge f nonce s
  | .getMeasurements f index => Sys2Proof.Machine.execGetMeasurements f index s
  | .powerClockStep avgMilliwatts => Sys2Proof.Machine.execPowerClockStep avgMilliwatts s
  | .packagePowerReport milliwatts => Sys2Proof.Machine.execPackagePowerReport milliwatts s
  | .thermalSensorEvent t => Sys2Proof.Machine.execThermalSensorEvent t s
  | .d3hotRequest => Sys2Proof.Machine.execD3hotRequest s
  | .linkUp port combine => Sys2Proof.Machine.execLinkUp port combine s
  | .ualinkRead r => Sys2Proof.Machine.execUalinkRead r s
  | .ualinkWrite r => Sys2Proof.Machine.execUalinkWrite r s
  | .ualinkAtomic r => Sys2Proof.Machine.execUalinkAtomic r s
  | .ualinkResponse req bytes => Sys2Proof.Machine.execUalinkResponse req bytes s
  | .peerRequestTimeout req => Sys2Proof.Machine.execPeerRequestTimeout req s
  | .vkacc r => Sys2Proof.Machine.execVkacc r s
  | .visum r => Sys2Proof.Machine.execVisum r s
  | .vmaxr r => Sys2Proof.Machine.execVmaxr r s
  | .vmax r => Sys2Proof.Machine.execVmax r s
  | .vmin r => Sys2Proof.Machine.execVmin r s
  | .vbcast r => Sys2Proof.Machine.execVbcast r s
  | .vgath r => Sys2Proof.Machine.execVgath r s
  | .hbmRequestServed pc => Sys2Proof.Machine.execHbmRequestServed pc s
  | .cxlCacheResponse hline bytes => Sys2Proof.Machine.execCxlCacheResponse hline bytes s
  | .d0Request => Sys2Proof.Machine.execD0Request s
  | .plimWrite watts => Sys2Proof.Machine.execPlimWrite watts s
  | .firmwareReady img => Sys2Proof.Machine.execFirmwareReady img s

end Sys2Proof.Machine
end

