-- ==== Sys2Proof/Machine/Mmio.lean ====
section
/-! DEFINITION. Reads of the register spaces (R294, R295): a virtual function's, and the physical function's under the disclosure policy of
each partition (R260, R261, R287, R288, R290). An offset that is not listed reads zero, and so does one whose register is for writing only
(log entry 58). -/
namespace Sys2Proof.Machine
open Sys2Proof

/-! ## Counter banks -/

/-- What the PF reads of a bank's register r (R262, R287): the hypervisor's own STATUS; the counters and their set-up under the counters
category, the snapshots under the fixes category: zero if withheld, the published copy, or the value. -/
def CBank.hypRead (b : CBank) (x : Part) (r : Nat) : DWord :=
  if r = 0 then BitVec.ofNat 64 (b.ctl .hypervisor)
  else
    match (x.cat (if r < 0x20 then 0 else 6)).gran with
    | 0 => 0
    | g =>
      if r ≤ 4 then (b.ev[r - 1]!).setWidth 64
      else if r = 5 then b.thr
      else if r < 0x20 then (if g = 1 then b.pub[r % 16]! else b.cnt[r % 16]!)
      else if g = 1 then b.snapPub[r % 16]! else b.snapOp[r % 16]!
/-- The eight bytes at 8k of a bank's space, from the register it reads (R294). -/
def bankWord (rd : Nat → DWord) (k : Nat) : Nat :=
  if k = 0 then (rd 0).toNat % 2 ^ 32
  else if k = 2 ∨ k = 3 then (rd (2 * k - 3)).toNat % 2 ^ 32 + (rd (2 * k - 2)).toNat % 2 ^ 32 * 2 ^ 32
  else if k = 4 then (rd 5).toNat
  else if 0x10 ≤ k ∧ k < 0x20 then (rd k).toNat
  else if 0x20 ≤ k ∧ k < 0x30 then (rd k).toNat
  else 0
/-- Bytes of a bank's space. -/
def bankBytes (rd : Nat → DWord) (off width : Nat) : Nat := fld (bankWord rd (off / 8)) (8 * (off % 8)) (8 * width)

/-! ## Interrupt tables (R296; log entry 10) -/

/-- The entry of a vector: its address and data words, and its mask bit. -/
def State.msixEntry (s : State) (f : Fn) (vec : Nat) : Nat :=
  tget 0 (fnKey f * 2048 + vec) s.msixTable + bit (!s.msixOpen.contains (fnKey f, vec)) * 2 ^ 96
/-- Eight bytes of a function's pending-bit array. -/
def State.msixPending (s : State) (f : Fn) (k : Nat) : Nat :=
  ((List.range 64).map fun i => bit (s.msixPend.contains (fnKey f, 64 * k + i)) * 2 ^ i).sum
/-- Bytes of a function's table, or of the array after it. -/
def State.readMsix (s : State) (f : Fn) (off width : Nat) : Nat :=
  if off < 0x8000 then fld (s.msixEntry f (off / 16)) (8 * (off % 16)) (8 * width)
  else if off < 0x8100 then fld (s.msixPending f ((off - 0x8000) / 8)) (8 * (off % 8)) (8 * width)
  else 0

/-! ## The space of a VF (R294) -/

/-- %dbgctl of the group that DBGSEL names (R241). -/
def State.readDbg (s : State) (p : Nat) : Nat :=
  match s.dbgGroup p with
  | some g => ((s.team? g.1).bind fun t => t.group? g.2).elim 0 (·.dbgctl.toNat)
  | none => 0
/-- The registers at 0x3000 to 0x30FF, but for the chronometer: fault queue, REPLAYSTAT, PTSYNC, which reads zero (R142), PREEMPT, STOPBASE,
DBGBASE, %tvec, DBGSEL, %dbgctl. -/
def State.readCtl (s : State) (p off width : Nat) : Nat :=
  let x := s.part p
  if off < 0x3020 then fld x.fq.faultBlock (8 * (off % 32)) (8 * width)
  else if off < 0x3040 then fld (bit x.replaystat * 2 ^ 32) (8 * (off % 32)) (8 * width)
  else if off < 0x3060 then fld (x.pre.block x.saveMax) (8 * (off % 32)) (8 * width)
  else if off < 0x3068 then fld x.stopbase (8 * (off % 8)) (8 * width)
  else if off < 0x3070 then fld x.dbgbase (8 * (off % 8)) (8 * width)
  else if off < 0x3078 then 0
  else if off < 0x3080 then fld x.tvec.toNat (8 * (off % 8)) (8 * width)
  else if off < 0x3088 then 0
  else if off < 0x3090 then fld x.dbgsel (8 * (off % 8)) (8 * width)
  else if off < 0x3094 then fld (s.readDbg p) (8 * (off % 8)) (8 * width)
  else 0
/-- A read of a VF's register space, for the partition it is bound to; a read of the chronometer is one (R281). -/
def State.vfRead (s : State) (p fn off width : Nat) : Nat × State :=
  let x := s.part p
  let v : Nat :=
    if fn ≠ x.vfp ∧ !secondaryHas off then 0
    else if off < 0x1000 then 0
    else if off < 0x1400 then fld (x.sq ((off - 0x1000) / 32)).block (8 * (off % 32)) (8 * width)
    else if 0x2000 ≤ off ∧ off < 0x2400 then fld (s.ctxBlock p ((off - 0x2000) / 64)) (8 * (off % 64)) (8 * width)
    else if 0x3000 ≤ off ∧ off < 0x3100 then s.readCtl p off width
    else if 0x4000 ≤ off ∧ off < 0x4400 then
      fld ((tget 0 ((off - 0x4000) / 8 * 2) x.ev).toNat + (tget 0 ((off - 0x4000) / 8 * 2 + 1) x.ev).toNat * 2 ^ 32) (8 * (off % 8)) (8 * width)
    else if 0x5000 ≤ off ∧ off < 0x6000 then bankBytes (s.bank p ((off - 0x5000) / 0x200)).guestRead (off % 0x200) width
    else if 0x6000 ≤ off ∧ off < 0x6080 then fld (tget (ring0 6) ((off - 0x6000) / 32) x.gtrace).traceBlock (8 * (off % 32)) (8 * width)
    else if 0x7000 ≤ off ∧ off < 0x7400 then fld (tget 0 ((off - 0x7000) / 16) x.sets) (8 * (off % 16)) (8 * width)
    else if 0x10000 ≤ off ∧ off < 0x20000 then s.readMsix (.vf fn) (off - 0x10000) width
    else 0
  if fn = x.vfp ∧ 0x3080 ≤ off ∧ off < 0x3088 then
    let q := s.readChron p
    (fld q.1 (8 * (off % 8)) (8 * width), q.2)
  else (v, s)

/-! ## The space of the PF (R295) -/

/-- The entry that FOTDATA reads (R143). -/
def State.fotRead (s : State) (frame : Nat) : BitVec 16 := if fotFrames ≤ frame then 0 else s.fotOf frame
/-- The energy that the operator reads of a partition (R287, R290). -/
def Part.energyRead (x : Part) : Nat :=
  match (x.cat 7).gran with
  | 0 => 0
  | 1 => x.energyPub
  | _ => x.energy
/-- FTAGs, 2 bytes each. -/
def State.readFtags (s : State) (p n : Nat) : Nat := ((List.range n).map fun i => (s.part (p + i)).ftag * 2 ^ (16 * i)).sum
/-- Bytes of a peer-enable mask. -/
def peerMask (t : Tbl Nat) (off width : Nat) : Nat := ((List.range (8 * width)).map fun i => bit (tget 0 (8 * off + i) t != 0) * 2 ^ i).sum
/-- A read of the PF's register space. -/
def State.pfRead (s : State) (off width : Nat) : Nat :=
  let at' := fun (block size : Nat) => fld block (8 * (off % size)) (8 * width)
  if off < 8 then at' s.pkgid 8
  else if off = 0x1000 ∨ off = 0x1004 then at' (s.agecap + s.hotthr * 2 ^ 32) 8
  else if 0x10000 ≤ off ∧ off < 0x11000 then at' (s.part ((off - 0x10000) / 64)).block 64
  else if 0x11000 ≤ off ∧ off < 0x11200 then at' (s.part ((off - 0x11000) / 8)).poladdr 8
  else if 0x12000 ≤ off ∧ off < 0x13000 then at' (s.part ((off - 0x12000) / 64)).polhash.toNat 64
  else if 0x13000 ≤ off ∧ off < 0x13800 then at' (s.part ((off - 0x13000) / 32)).chron.block 32
  else if 0x13900 ≤ off ∧ off < 0x13980 then at' (s.readFtags ((off - 0x13900) / 8 * 4) 4) 8
  else if 0x13A00 ≤ off ∧ off < 0x13C00 then at' (s.part ((off - 0x13A00) / 8)).energyRead 8
  else if 0x13C00 ≤ off ∧ off < 0x13C08 then at' s.power 8
  else if 0x14000 ≤ off ∧ off < 0x14010 then at' (s.fotidx + (s.fotRead s.fotidx).toNat * 2 ^ 64 + s.fotstat * 2 ^ 96) 16
  else if 0x15000 ≤ off ∧ off < 0x17000 then at' (tget 0 ((off - 0x15000) / 32) s.extRaw) 32
  else if 0x20000 ≤ off ∧ off < 0x22000 then
    at' (tget (ring0 6) ((off - 0x20000) / 32 % 4) (s.part ((off - 0x20000) / 128)).otrace).traceBlock 32
  else if 0x30000 ≤ off ∧ off < 0x70000 then
    let p := (off - 0x30000) / 4096
    bankBytes ((s.bank p (off / 0x200 % 8)).hypRead (s.part p)) (off % 0x200) width
  else if 0x70000 ≤ off ∧ off < 0x70020 then at' s.flog.faultBlock 32
  else if 0x70020 ≤ off ∧ off < 0x70040 then at' s.slog.faultBlock 32
  else if 0x72000 ≤ off ∧ off < 0x74000 then peerMask (s.part ((off - 0x72000) / 128)).peers (off % 128) width
  else if 0x200000 ≤ off ∧ off < 0x210000 then s.readMsix .pf (off - 0x200000) width
  else 0

/-! ## The access -/

/-- The identifiers of a function (R293): the vendor's 0x1F7D, and the device's. -/
def deviceId : Fn → Nat
  | .pf => 0x4A40
  | .vf _ => 0x4A41
/-- A read of a function's register space: zero before firmware is ready (R303); a VF that is bound to no partition does not answer (R257), and
PTSYNC answers when it can (R142). -/
def State.mmioRead (s : State) (f : Fn) (off width : Nat) : State :=
  if !fnExists f || !mmioOk off width then s
  else if s.boot = .booting ∨ s.boot = .recovery then s.emit (.mmioData f width 0)
  else
    match f with
    | .pf => s.emit (.mmioData f width (s.pfRead off width))
    | .vf n =>
      match s.boundTo n with
      | some p =>
        if n = (s.part p).vfp ∧ off ≤ 0x302B ∧ 0x3028 < off + width then s.ptsync f width
        else
          let q := s.vfRead p n off width
          q.2.emit (.mmioData f width q.1)
      | none => s
/-- A configuration read of a function's identifiers: Request Retry Status until firmware is ready, for 1.0 s after reset at most; VFs are
disabled in recovery (R303). -/
def State.configRead (s : State) (f : Fn) : State :=
  if !fnExists f then s
  else
    match s.boot, f with
    | .booting, _ => s.emit (if s.retries then .retryStatus f else .configData f (0x1F7D + deviceId f * 2 ^ 16))
    | .recovery, .vf _ => s
    | .recovery, .pf | .ready, _ | .down, _ => s.emit (.configData f (0x1F7D + deviceId f * 2 ^ 16))

end Sys2Proof.Machine
end

