-- ==== Sys2Proof/Machine/Input.lean ====
section
/-! DEFINITION. What the outside does that is no instruction of the table: reads of registers (R293 to R295) and errors of the arrays (R235). -/
namespace Sys2Proof.Machine
open Sys2Proof

/-- The partition that a line of memory belongs to: its frame's owner, or its extent's (R143, R147). -/
def State.holderOf (s : State) (ln : Nat) : Nat :=
  if inCap (128 * ln) then ((s.extents.map (·.2)).find? fun x => x.state != .free && Extent.covers x ln).elim 0 (·.owner) else s.lineOwner ln
/-- An uncorrectable error of a line (R235): poisoned, with a POISON record of its structure. -/
def State.upsetLine (s : State) (ln structure' : Nat) : State :=
  if (inHbm (128 * ln) || inCap (128 * ln)) && decide (1 ≤ structure') && decide (structure' ≤ 3) then
    ({ s with poison := if s.poison.contains ln then s.poison else ln :: s.poison } : State).record (s.holderOf ln)
      { rec0 with kind := 5, paddr := 128 * ln, detail := structure' }
  else s
/-- An L1 line is dropped, to be fetched again; counted only. -/
def State.upsetL1 (s : State) (cluster ln : Nat) : State :=
  { s.modCluster cluster fun c => { c with l1 := c.l1.filter fun e => e.line != ln } with softErrors := s.softErrors + 1 }
/-- A scratch or queue word of a team is poisoned, with a POISON record. -/
def State.upsetScratch (s : State) (cluster mac word : Nat) : State :=
  match ((s.cluster cluster).macro' mac).owner.bind s.team? with
  | none => s
  | some t =>
    if word < macroWords then
      (s.modCluster cluster fun c =>
        c.modMacro mac fun m => { m with poison := if m.poison.contains word then m.poison else word :: m.poison }).record t.part
        { rec0 with kind := 5, launch := t.seq, team := t.index, detail := 5 }
    else s
/-- Uncorrectable error in the lane or engine state of a team (R224, R235): STATE_UE, or SAVE_UE while its save is in progress (R246). -/
def State.upsetTeam (s : State) (tid aux : Nat) : State :=
  match s.team? tid with
  | none => s
  | some t =>
    let x := s.part t.part
    let saving := (if x.hypStep = 0 then x.pre.step = 2 else x.hypStep = 2) ∧ (s.toSave t.part).any fun u => u.tid == tid
    s.halt t.part (if saving then 0x26 else 0x23) (if saving then 0 else aux) (some { launchWho t.seq with team := t.index })
/-- An error strikes (R235). -/
def State.upset (s : State) : Upset → State
  | .corrected => { s with softErrors := s.softErrors + 1 }
  | .line ln k => s.upsetLine ln k
  | .l1 c ln => s.upsetL1 c ln
  | .scratch c m w => s.upsetScratch c m w
  | .tlb n => { s with tlb := s.tlb.filter fun e => e.n != n }
  | .lane id acc => s.upsetTeam id.tid (if acc then 2 else 1)
  | .tile c t => ((s.cluster c).tileOwner.find? fun e => e.1 == t).elim s fun e => s.upsetTeam e.2 3
  | .conv c n => (((s.cluster c).cvOf n).tid).elim s fun tid => s.upsetTeam tid 4
/-- The outside acts. -/
def State.input (s : State) : Input → State
  | .read f off width => s.mmioRead f off width
  | .config f => s.configRead f
  | .upset u => s.upset u

end Sys2Proof.Machine
end

