-- ==== Sys2Proof/Machine/Schedule.lean ====
section
/-! DEFINITION. What happens next when State.sched names no event (log entry 1): time and the counters of time pass, and the events
of the machine's own agents that are due take place. -/
namespace Sys2Proof.Machine
open Sys2Proof

/-! ## Time (R265, R267, R279) -/

/-- The context of a resident team. -/
def State.teamCtx (s : State) (t : Team) : Nat := recCtx (s.recOf t.part t.seq) % 16
/-- Is an instruction a global load? -/
def globalLoad : Instr → Bool
  | .ldB8 .. | .ldB16 .. | .ldB32 .. | .ldB64 .. | .ldB128 .. | .kld .. => true
  | _ => false
/-- How often the events that count time occur in one cycle, in one context or in all: CYCLES, MARKER_PARK, MX_WAIT, MEM_WAIT. -/
def State.cycleCount (s : State) (p : Nat) (ctx : Option Nat) (ev : Nat) : Nat :=
  let mine := fun t : Team => t.part == p && (ctx.elim true fun c => s.teamCtx t == c)
  let lanes := s.lanes.filter fun l => l.part == p && (ctx.elim true fun c => s.laneCtx l == c)
  if ev = evCycles then bit (s.teams.any mine)
  else if ev = evMarkerPark then (lanes.filter fun l => l.marker).length
  else if ev = evMxWait then
    ((s.clusters.map fun e => (e.2.table.filter (fun x => !x.granted) ++ e.2.waiting).filter fun x =>
      s.teams.any fun t => t.tid == x.tid && mine t).map (·.length)).sum
  else ((lanes.map fun l => (l.deferred.filter fun d => globalLoad d.instr).length)).sum
/-- One bank counts one cycle. -/
def State.bankCycle (s : State) (p : Nat) (x : Part) (b : CBank) : CBank :=
  let fine := decide (2 ≤ (x.cat 0).gran)
  let ctx := if b.ctxen && !(b.owner == 2 && !fine) then some b.ctx else none
  [evCycles, evMarkerPark, evMxWait, evMemWait].foldl (fun b ev => b.add fine (some b.ctx) ev (s.cycleCount p ctx ev)) b
/-- A partition's banks count one cycle; a counter that reaches its threshold triggers a fix. -/
def State.partCycle (s : State) (p : Nat) (x : Part) : Part :=
  let bs := x.banks.map fun e => (e.1, s.bankCycle p x e.2)
  let x' := { x with banks := bs }
  if x.banks.any (fun e => e.2.crosses (s.bankCycle p x e.2)) then x'.trigger 1 else x'
/-- Time passes: one cycle, and a number of nanoseconds that the model leaves free (R279, log entry 12). -/
def State.tick (s : State) : State :=
  { s with cycle := s.cycle + 1, time := s.time + Config.freeNat s.free, free := s.free + 1,
           parts := s.parts.map fun e => if e.2.banks.isEmpty then e else (e.1, s.partCycle e.1 e.2) }

/-! ## Events that come before the next word -/

/-- A deferred result that can be written (R523). -/
def Lane.due (l : Lane) : Option Nat := (l.deferred.find? fun d => d.wait == .ready).map (·.n)
/-- Trap entries, and results that parked or full lanes wait for. -/
def State.urgent (s : State) : Option Instr :=
  match s.lanes.find? fun l => l.trap.isSome && l.deferred.isEmpty && s.serving l.part with
  | some l => some (.trapEntry l.id)
  | none =>
    match s.lanes.find? fun l => (l.marker || l.trap.isSome || !l.room) && l.due.isSome && !s.isFrozen l.quarter && s.serving l.part with
    | some l => l.due.map fun n => .deferredResultWrite l.id n
    | none => none

/-! ## Events that are due at some time -/

/-- The delivery of a message (R154). -/
def deliverMsg (m : Msg) (s : State) : Host.Outcome State Fault Refusal :=
  match m.kind with
  | .gets => execGets m s
  | .getx => execGetx m s
  | .getm => execGetm m s
  | .tok => execTok m s
  | .put => execPut m s
  | .putp => execPutp m s
  | .fold => execFoldMsg m s
  | .part => execPart m s
  | .pact => execPact m s
  | .pdeact => execPdeact m s
  | .ack => execPersistentAck m s
  | .preq => execPreq m s
  | .pdone => execPdone m s

abbrev Event := State → Host.Outcome State Fault Refusal
/-- A lane's events: its result that can be written, the resumption of its queue word, its EVSIGs that wait. -/
def State.laneEvents (s : State) (l : Lane) : List Event :=
  ((l.deferred.filter fun d => s.writable l d || (match d.wait with | .again _ => true | _ => false)).take 1).map (fun d => execDeferredResultWrite l.id d.n) ++
    (if l.park = .queue then (List.range 32).map fun q => execQueueWaitResume l.id.tid q else []) ++
    (if l.rels.isEmpty then [] else [fun s => .next (s.onLane l.id State.doRels)])
/-- A team's events. -/
def teamEvents (t : Team) : List Event :=
  (if t.smode.isEmpty then [] else [execSmodeConvert t.tid]) ++ (if t.ordered.isEmpty then [] else [execOrderedAtomRelease t.tid]) ++
    (if t.groups.all (·.retired) then [execTeamRetire t.tid] else [])
/-- The engine's and the L1's events of a cluster. -/
def clusterEvents (c : Nat) (x : Cluster) : List Event :=
  (if x.table.any (·.granted) then [execMxeEntryComplete c] else if x.table.isEmpty then [] else [execMxeEntryGrant c]) ++
    (if x.waiting.isEmpty then [] else [execMxeHeldFiringEnter c])
/-- The clusters on which a launch's next team, or each team of its cooperative grid, can be placed; which of those that fit is
free (log entry 17). -/
def State.pick (p seq : Nat) : Nat → State → List Nat → List Nat
  | 0, _, acc => acc
  | k + 1, s, acc =>
    match s.launch? p seq with
    | none => acc
    | some L =>
      let cs := (s.part p).clusters.filter (s.fits p L)
      match cs[Config.freeNat s.free % max cs.length 1]? with
      | some c => State.pick p seq k ({ s with free := s.free + 1 }.placeNext p L c) (acc ++ [c])
      | none => acc
def State.placeEvents (s : State) (p : Nat) : List Event :=
  (s.part p).queue.map fun L =>
    let n := if recCoop L.lrec then recTeams L.lrec - L.placed + L.restore.length else 1
    execTeamPlace p L.seq (State.pick p L.seq n s [])
/-- The dispatcher's, the launch unit's and the other events of a partition. -/
def State.partEvents (s : State) (p : Nat) (x : Part) : List Event :=
  (match s.nextQueue p with
   | some q => if q = dqNo then [execDqEntryTake p] else [execSqEntryNop p q, execSqEntryLaunch p q, execSqEntryEvsig p q, execSqEntryEvwait p q]
   | none => []) ++
  s.placeEvents p ++ [execPlacementHoldTimeout p] ++
  (if x.fixPend.isSome then [execFixLatch p] else []) ++ (if x.heldRecs.isEmpty then [] else [execFaultQueueHeldWrite p]) ++
  (if x.unitsLeft.isEmpty then [] else [execUnitStop p]) ++
  (match x.state with
   | .resetting => [execPartitionResetDone p]
   | .suspending => [execDraintExpiry p, execPartitionSuspendDone p]
   | .active => if x.pre.step = 0 then [] else [execDraintExpiry p, execPreemptSaveComplete p, execSavetExpiry p]
   | .inactive | .suspended | .halted => []) ++
  x.clusters.map execL1waysTakeEffect ++ x.dies.map (execTracePcSample p) ++
  (x.admitted.filter (·.releasing)).map fun o => execAdmitrelTakeEffect p o.ctx o.code
/-- What waits at the homes of lines and is tried again: accesses of the host and of peers, requests and writes, completion records, commands
of the hypervisor and of guests (R159, R166 to R169, R174). -/
def State.homeEvents (s : State) : List Event :=
  (if s.hostWait.isEmpty then [] else [fun s => .next s.serveHost]) ++ (if s.uaWait.isEmpty then [] else [fun s => .next s.serveUa]) ++
    (if s.unitWait.isEmpty then [] else [fun s => .next s.serveUnit]) ++
    ((s.lines.filter fun e => !e.2.waiting.isEmpty).map fun e => fun s => .next (s.serveWaiting e.1)) ++
    ((s.parts.filter fun e => e.2.cmdPend.isSome).map fun e => fun s => .next (s.retryCmd e.1)) ++
    ((s.parts.filter fun e => e.2.pre.checking).map fun e => fun s => .next (s.retryResume e.1))
/-- The events that are due, or may be. -/
def State.events (s : State) : List Event :=
  s.homeEvents ++ s.lanes.flatMap s.laneEvents ++ s.teams.flatMap teamEvents ++ (s.clusters.flatMap fun e => clusterEvents e.1 e.2) ++
    (s.xfers.filter fun x => x.tile.isNone && x.fid.isNone && x.wait.isNone).map (fun x => execCopyComplete x.id) ++
    (s.colls.flatMap fun c => [execCollComplete c.id, execCollTimeout c.id]) ++
    ((s.parts.filter fun e => e.2.state != .inactive).flatMap fun e => s.partEvents e.1 e.2) ++
    s.net.map deliverMsg ++
    (s.lines.flatMap fun e => e.2.reqs.flatMap fun r => [execTokenAttemptTimeout e.1 r.agent, execTokenRetry e.1 r.agent]) ++ s.peers.map (fun r => execPeerRequestTimeout r.id) ++
    ((s.fot.filter fun e => fotState e.2 == 2).map fun e => execScrubFrontAdvance e.1) ++
    ((s.extents.filter fun e => e.2.state == .draining).map fun e => execExtentDrainComplete e.1) ++
    ((s.hbmq.filter fun e => !e.2.isEmpty).flatMap fun e => execHbmRequestServed e.1 :: e.2.map fun r => execAgecapExpiry r.id) ++
    ((s.sideq.filter fun e => !e.2.isEmpty).map fun e => execHotSideActivation (e.1 / 16) (e.1 % 16)) ++
    ((s.frozen.filter fun e => !e.dumped).map fun e => execQstopDump e.quarter)
/-- The first of some events that changes the machine. -/
def State.firstEvent (s : State) : List Event → Option (Host.Outcome State Fault Refusal)
  | [] => none
  | e :: r =>
    match e s with
    | .next s' => if s' = s then s.firstEvent r else some (.next s')
    | o => some o
/-- One of the events that are due; which of them is free. -/
def State.lazyEvent (s : State) : Option (Host.Outcome State Fault Refusal) :=
  let es := s.events
  let k := Config.freeNat s.free % max es.length 1
  { s with free := s.free + 1 }.firstEvent (es.drop k ++ es.take k)
/-- Does an event come before the next word? Free, so that neither waits for ever on the other. -/
def State.eventFirst (s : State) : Bool := Config.freeNat (s.free + 1) % 2 == 0

end Sys2Proof.Machine
end

