-- ==== Sys2Proof/Machine/Step.lean ====
section
/-! DEFINITION. One step of the machine: an event, or one word of one bundle; and how an instruction is placed where
the next step fetches. -/
namespace Sys2Proof.Machine
open Sys2Proof

/-- A word of the bundle the quarters choose, if one can issue. -/
def State.wordStep (s : State) : Option (Host.Outcome State Fault Refusal) := s.choose.map fun s' => s'.issueWord exec

/-- A step of the machine's own, with no event given and no bundle between two words: an event that cannot wait; else a word or an
event that is due, in a free order; else nothing but time. -/
def State.ownStep (s : State) : Host.Outcome State Fault Refusal :=
  match s.urgent with
  | some e => exec e s
  | none =>
    if s.eventFirst then (s.lazyEvent.orElse fun _ => s.wordStep).getD (.next s)
    else (s.wordStep.orElse fun _ => s.lazyEvent).getD (.next s)

/-- What happens in a step (log entry 1): what the outside does first; else the first event of State.sched if there is one; else the next word
of the active bundle; else a step of the machine's own. -/
def State.act (s : State) : Host.Outcome State Fault Refusal :=
  match s.inputs, s.sched with
  | i :: r, _ => .next ({ s with inputs := r }.input i)
  | [], e :: r => if e.isWord then .next { s with sched := r } else exec e { s with sched := r }
  | [], [] => if s.lead.isSome then s.issueWord exec else s.ownStep

/-- Time passes after what happens. -/
def ticked : Host.Outcome State Fault Refusal → Host.Outcome State Fault Refusal
  | .next s => .next s.tick
  | o => o
/-- One step: a policy period that has ended is closed before anything else happens (R286); else something happens, and then time passes. -/
def step (s : State) : Host.Outcome State Fault Refusal := if s.periodDue then execPolicyPeriodEnd s else ticked s.act

/-- The state after reset with one group running one instruction next (log entry 15). -/
def State.withFetchWord (s : State) (nbits w : Nat) : State :=
  s.placeProgram (tableWords nbits w).1 (tableWords nbits w).2

end Sys2Proof.Machine
end

