-- ==== Sys2Proof/Safety.lean ====
section
/-! DEFINITION. What counts as a safe run: every step answers a next state. No fault and no refusal exists that a step of this
machine answers: an error the spec describes is a state of the machine. -/
namespace Sys2Proof.Machine
open Sys2Proof

/-- The outcome goes on. -/
def Outcome.goesOn (o : Host.Outcome State Fault Refusal) : Prop :=
  match o with
  | .next _ => True
  | .fault _ => False
  | .refused _ => False

/-- A step from s goes on. -/
def State.safe (s : State) : Prop := Outcome.goesOn (step s)

/-- The invariant of the machine's two byte memories: the device's and the host's are in canonical form. -/
def State.memOk (s : State) : Prop := s.mem.wf = true ∧ s.hostMem.wf = true

end Sys2Proof.Machine
end

