-- ==== Sys2Proof/Certificates/Slice0/Obligations.lean ====
section
/-! DEFINITION. The statements for the provers. Each is a `def Obligations.<Name> : Prop`; the definitions before them are the
vocabulary they share. -/

namespace Sys2Proof.Claims
open Sys2Proof Sys2Proof.Machine

/-! ## Vocabulary -/

/-- A bundle issues and the word is legal in it (R336). -/
def Legal (s : State) (i : Instr) : Prop := ∃ l, s.lead = some l ∧ s.illegalAt l i = none

/-- The word completes as one function of each active lane; nothing else of the machine changes (R346). -/
def Lanewise (i : Instr) (f : Lane → Lane) : Prop := ∀ s, Legal s i → exec i s = .next (mapActive s f)

/-- The word writes v[d] in each active lane and the PC moves on by n bytes. -/
def WritesV (i : Instr) (n : Nat) (d : VReg) (f : Lane → Word) : Prop := Lanewise i fun l => (l.setV d (f l)).adv n

/-- The machine t with the flags that each active lane of s raises ORed into its group's %fflags (R39). -/
def raised (s : State) (fl : Lane → Flags) (t : State) : State := s.actives.foldl (fun u l => u.orFlags l.id (fl l)) t

/-- The word acts in each active lane and raises flags there; nothing else of the machine changes. -/
def LanewiseF (i : Instr) (f : Lane → Lane) (fl : Lane → Flags) : Prop :=
  ∀ s, Legal s i → exec i s = .next (raised s fl (mapActive s f))

/-- The word writes v[d] with a result and its flags in each active lane, and the PC moves on by 4. -/
def WritesVF (i : Instr) (d : VReg) (f : Lane → Word × Flags) : Prop :=
  LanewiseF i (fun l => (l.setV d (f l).1).adv 4) fun l => (f l).2

/-- The word is deferred (R78, R81): a lane with fewer than 32 deferred instructions outstanding notes the result, which is written later,
and goes on; another issues the word again. -/
def Defers (i : Instr) (f : State → Lane → List (Nat × Word)) (fl : State → Lane → Flags) : Prop :=
  ∀ s, Legal s i → exec i s =
    .next (mapActive s fun l => if l.room then (l.defer i [] (f s l) [] (fl s l) .ready).adv 4 else l.stall)

/-- A deferred word that writes one register with a result and its flags. -/
def DefersV (i : Instr) (d : VReg) (f : State → Lane → Nat × Flags) : Prop :=
  Defers i (fun s l => [(d.val, BitVec.ofNat 32 (f s l).1)]) fun s l => (f s l).2

/-- The word acts lane by lane in ascending slot (R346), and what it does in a lane is as `spec` says. -/
def Each (i : Instr) (spec : State → Lane → State → Prop) : Prop :=
  ∃ act : State → Lane → State,
    (∀ s, Legal s i → exec i s = .next (eachActive s act)) ∧ ∀ s l, spec s l (act s l)

end Sys2Proof.Claims

open Sys2Proof Sys2Proof.Machine Sys2Proof.Claims


/-! ## Integer words -/

/-- R419, R351, R464, R495, R480, R448, R453: sums, products, bitwise operations, SEL, LIT, MOVI and MOVH; all results modulo 2^32. -/
def Sys2Proof.Claims.IntegerSumsAndLogic : Prop :=
  ∀ (d a b : VReg) (p : PReg) (i : BitVec 12) (j : BitVec 16) (w : Word),
    WritesV (.iadd d a b) 4 d (fun l => l.getV a + l.getV b) ∧
    WritesV (.isub d a b) 4 d (fun l => l.getV a - l.getV b) ∧
    WritesV (.imul d a b) 4 d (fun l => l.getV a * l.getV b) ∧
    WritesV (.imad d a b) 4 d (fun l => l.getV a * l.getV b + l.getV d) ∧
    WritesV (.iaddi d a i) 4 d (fun l => l.getV a + i.signExtend 32) ∧
    WritesV (.and d a b) 4 d (fun l => l.getV a &&& l.getV b) ∧
    WritesV (.or d a b) 4 d (fun l => l.getV a ||| l.getV b) ∧
    WritesV (.xor d a b) 4 d (fun l => l.getV a ^^^ l.getV b) ∧
    WritesV (.andi d a i) 4 d (fun l => l.getV a &&& i.signExtend 32) ∧
    WritesV (.ori d a i) 4 d (fun l => l.getV a ||| i.signExtend 32) ∧
    WritesV (.xori d a i) 4 d (fun l => l.getV a ^^^ i.signExtend 32) ∧
    WritesV (.sel d a b p) 4 d (fun l => if l.getP p then l.getV a else l.getV b) ∧
    WritesV (.lit d w) 8 d (fun _ => w) ∧
    WritesV (.movi d j) 4 d (fun _ => j.signExtend 32) ∧
    WritesV (.movh d j) 4 d (fun l => j ++ (l.getV d).setWidth 16)

/-- R479: the shifts. The amount is the whole of v[b], or the immediate. -/
def Sys2Proof.Claims.Shifts : Prop :=
  ∀ (d a b : VReg) (i : BitVec 5),
    WritesV (.shl d a b) 4 d (fun l => l.getV a <<< (l.getV b).toNat) ∧
    WritesV (.shr d a b) 4 d (fun l => l.getV a >>> (l.getV b).toNat) ∧
    WritesV (.sar d a b) 4 d (fun l => (l.getV a).sshiftRight (min (l.getV b).toNat 31)) ∧
    WritesV (.shf d a b) 4 d (fun l => ((l.getV a ++ l.getV d) >>> min (l.getV b).toNat 32).setWidth 32) ∧
    WritesV (.shlImm d a i) 4 d (fun l => l.getV a <<< i.toNat) ∧
    WritesV (.shrImm d a i) 4 d (fun l => l.getV a >>> i.toNat) ∧
    WritesV (.sarImm d a i) 4 d (fun l => (l.getV a).sshiftRight i.toNat)

/-- R467, R373, R364: POPC counts the set bits, CLZ the zero bits above the highest set bit, BREV reverses the bits; their words. -/
def Sys2Proof.Claims.BitCounts : Prop :=
  (∃ f : Word → Word, (∀ d a, WritesV (.popc d a) 4 d fun l => f (l.getV a)) ∧
    ∀ x, (f x).toNat = ∑ i ∈ Finset.range 32, (x.getLsbD i).toNat) ∧
  (∃ f : Word → Word, (∀ d a, WritesV (.clz d a) 4 d fun l => f (l.getV a)) ∧ f 0 = 32 ∧
    ∀ x n, n < 32 → x.getLsbD n = true → (∀ j, n < j → x.getLsbD j = false) → (f x).toNat = 31 - n) ∧
  (∃ f : Word → Word, (∀ d a, WritesV (.brev d a) 4 d fun l => f (l.getV a)) ∧
    ∀ x i, i < 32 → (f x).getLsbD i = x.getLsbD (31 - i)) ∧
  ∀ d a : VReg, encodeBody (.popc d a) = some (0x08000018 + d.val * 2 ^ 18 + a.val * 2 ^ 12, none) ∧
    encodeBody (.clz d a) = some (0x08000019 + d.val * 2 ^ 18 + a.val * 2 ^ 12, none) ∧
    encodeBody (.brev d a) = some (0x0800001A + d.val * 2 ^ 18 + a.val * 2 ^ 12, none)

/-- R359, R360: BFE takes n bits from bit p of v[a], signed or not; BFI puts the low n bits of v[a] into v[d] at p. -/
def Sys2Proof.Claims.BitFields : Prop :=
  (∃ f : Word → Word → Word, (∀ d a b, WritesV (.bfeI32 d a b) 4 d fun l => f (l.getV a) (l.getV b)) ∧
    ∀ x y p n j, p = min (y.toNat % 256) 32 → n = min (y.toNat / 256 % 256) (32 - p) → j < 32 →
      (f x y).getLsbD j = if j < n then x.getLsbD (p + j) else decide (0 < n) && x.getLsbD (p + n - 1)) ∧
  (∃ f : Word → Word → Word, (∀ d a b, WritesV (.bfeN32 d a b) 4 d fun l => f (l.getV a) (l.getV b)) ∧
    ∀ x y p n j, p = min (y.toNat % 256) 32 → n = min (y.toNat / 256 % 256) (32 - p) → j < 32 →
      (f x y).getLsbD j = (decide (j < n) && x.getLsbD (p + j))) ∧
  (∃ f : Word → Word → Word → Word, (∀ d a b, WritesV (.bfi d a b) 4 d fun l => f (l.getV d) (l.getV a) (l.getV b)) ∧
    ∀ z x y p n j, p = min (y.toNat % 256) 32 → n = min (y.toNat / 256 % 256) (32 - p) → j < 32 →
      (f z x y).getLsbD j = if p ≤ j ∧ j < p + n then x.getLsbD (j - p) else z.getLsbD j)

/-- Together: BitCounts, BitFields. -/
def Obligations.BitCountsAndFields : Prop := Claims.BitCounts ∧ Claims.BitFields

/-- R418, R419: smaller and larger, signed and unsigned; the absolute value; the high half of the product. -/
def Sys2Proof.Claims.MinMaxAbsHigh : Prop :=
  ∀ d a b : VReg,
    WritesV (.iminI32 d a b) 4 d (fun l => BitVec.ofInt 32 (min (l.getV a).toInt (l.getV b).toInt)) ∧
    WritesV (.iminN32 d a b) 4 d (fun l => BitVec.ofNat 32 (min (l.getV a).toNat (l.getV b).toNat)) ∧
    WritesV (.imaxI32 d a b) 4 d (fun l => BitVec.ofInt 32 (max (l.getV a).toInt (l.getV b).toInt)) ∧
    WritesV (.imaxN32 d a b) 4 d (fun l => BitVec.ofNat 32 (max (l.getV a).toNat (l.getV b).toNat)) ∧
    WritesV (.iabs d a) 4 d (fun l => BitVec.ofNat 32 (l.getV a).toInt.natAbs) ∧
    WritesV (.imulhI32 d a b) 4 d (fun l => BitVec.ofInt 32 ((l.getV a).toInt * (l.getV b).toInt / 2 ^ 32)) ∧
    WritesV (.imulhN32 d a b) 4 d (fun l => BitVec.ofNat 32 ((l.getV a).toNat * (l.getV b).toNat / 2 ^ 32))

/-- Together: IntegerSumsAndLogic, Shifts, MinMaxAbsHigh. -/
def Obligations.IntegerArithmetic : Prop := Claims.IntegerSumsAndLogic ∧ Claims.Shifts ∧ Claims.MinMaxAbsHigh

/-- R421: quotient and remainder. A zero divisor gives 0xFFFFFFFF and the dividend, -2^31 by -1 gives -2^31 and 0; else the quotient is
truncated toward zero and the remainder takes the sign of the dividend. -/
def Obligations.Division : Prop :=
  (∃ q r : Word → Word → Word,
    (∀ d a b, WritesV (.idivI32 d a b) 4 d fun l => q (l.getV a) (l.getV b)) ∧
    (∀ d a b, WritesV (.iremI32 d a b) 4 d fun l => r (l.getV a) (l.getV b)) ∧
    (∀ x, q x 0 = 0xFFFFFFFF ∧ r x 0 = x) ∧ q 0x80000000 0xFFFFFFFF = 0x80000000 ∧ r 0x80000000 0xFFFFFFFF = 0 ∧
    ∀ x y, y ≠ 0 → ¬(x = 0x80000000 ∧ y = 0xFFFFFFFF) →
      x.toInt = (q x y).toInt * y.toInt + (r x y).toInt ∧ (r x y).toInt.natAbs < y.toInt.natAbs ∧ 0 ≤ x.toInt * (r x y).toInt) ∧
  (∃ q r : Word → Word → Word,
    (∀ d a b, WritesV (.idivN32 d a b) 4 d fun l => q (l.getV a) (l.getV b)) ∧
    (∀ d a b, WritesV (.iremN32 d a b) 4 d fun l => r (l.getV a) (l.getV b)) ∧
    (∀ x, q x 0 = 0xFFFFFFFF ∧ r x 0 = x) ∧
    ∀ x y, y ≠ 0 → x.toNat = (q x y).toNat * y.toNat + (r x y).toNat ∧ (r x y).toNat < y.toNat)

/-- R420, R16: ICMP writes the comparison to a predicate; for p0 the result is discarded. -/
def Sys2Proof.Claims.CompareIntegers : Prop :=
  ∀ (p : PReg) (a b : VReg) (k : Cond),
    Lanewise (.icmp p a b k) (fun l =>
      (l.setP p (match k with
        | .eq => decide (l.getV a = l.getV b)
        | .ne => decide (l.getV a ≠ l.getV b)
        | .lt => (l.getV a).slt (l.getV b)
        | .le => (l.getV a).sle (l.getV b)
        | .gt => (l.getV b).slt (l.getV a)
        | .ge => (l.getV b).sle (l.getV a)
        | .lo => (l.getV a).ult (l.getV b)
        | .hs => (l.getV b).ule (l.getV a))).adv 4) ∧
    ∀ (l : Lane) (x : Bool) (q : PReg), l.getP 0 = true ∧ l.setP 0 x = l ∧
      (l.setP p x).getP q = (if q = p ∧ p ≠ 0 then x else l.getP q) ∧ { l.setP p x with p := l.p } = l

/-- R441: LADD and LADDI add a signed quantity to a register pair, modulo 2^64; the low half is in the lower register. -/
def Sys2Proof.Claims.PairSums : Prop :=
  ∀ (d a b : VReg) (i : BitVec 12), pairOk d = true → pairOk a = true →
    Lanewise (.ladd d a b) (fun l => (l.setPair d (l.pair a + (l.getV b).signExtend 64)).adv 4) ∧
    Lanewise (.laddi d a i) (fun l => (l.setPair d (l.pair a + i.signExtend 64)).adv 4) ∧
    ∀ (l : Lane) (x : DWord) (r : VReg),
      (l.pair a).toNat = (l.getV a).toNat + 2 ^ 32 * (l.getV (a + 1)).toNat ∧
      (l.setPair d x).pair d = x ∧ (r ≠ d → r ≠ d + 1 → (l.setPair d x).getV r = l.getV r)

/-- R452, R65: MOV between v and g registers. A g register is written once for each group that has an active lane, with the value of the
group's lowest active lane; other groups keep theirs. -/
def Sys2Proof.Claims.MoveRegisters : Prop :=
  ∀ (d a : VReg) (s : State), 
    (Legal s (.mov d a false false) → exec (.mov d a false false) s = .next (mapActive s fun l => (l.setV d (l.getV a)).adv 4)) ∧
    (Legal s (.mov d a true false) →
      exec (.mov d a true false) s =
        .next (mapActive s fun l => (l.setV d ((s.group? l.id).elim 0 fun g => g.g[a.val % 16]!)).adv 4)) ∧
    ∀ ag, Legal s (.mov d a ag true) → ∃ t : State, exec (.mov d a ag true) s = .next t ∧
      { t with teams := s.teams } = mapActive s (fun l => l.adv 4) ∧
      ∀ id : LaneId, t.group? id = (s.group? id).map fun g =>
        match s.actives.find? fun l => l.id.tid == id.tid && l.id.grp == id.grp with
        | some l =>
          let x : Word := if ag then (s.group? l.id).elim 0 fun h => h.g[a.val % 16]! else l.getV a
          { g with g := g.g.setIfInBounds (d.val % 16) x }
        | none => g


/-- Together: CompareIntegers, PairSums, MoveRegisters. -/
def Obligations.ComparesPairsAndMoves : Prop := Claims.CompareIntegers ∧ Claims.PairSums ∧ Claims.MoveRegisters

/-! ## Floating point -/

namespace Sys2Proof.Claims

/-- The value of a finite element of a format (R22); none for a NaN or an infinity. -/
def finite? (f : Fmt) (bits : Nat) : Option ℚ :=
  match f.decode bits with
  | .zero _ => some 0
  | .fin n m e => some ((if n then -1 else 1) * m * (2 : ℚ) ^ e)
  | .nan _ => none
  | .inf _ => none

/-- u is a value that the format holds. -/
def Holds (f : Fmt) (u : ℚ) : Prop := ∃ c, c < 2 ^ f.width ∧ finite? f c = some u

/-- What R21 and R37 say of a format: its largest finite value and the value that comes after it as a rounding candidate, the smallest normal
magnitude, and its elements: the largest finite ones, what an overflow gives without and with sat, and what an infinity gives, each for + and
for -; and the NaN. -/
structure Limits where
  fmt : Fmt
  max : ℚ
  next : ℚ
  least : ℚ
  top : Nat × Nat
  ovf : Nat × Nat
  ovfSat : Nat × Nat
  inf : Nat × Nat
  infFlags : Flags
  nan : Nat

/-- FP32 (R21, R37). -/
def limF32 : Limits :=
  { fmt := fmtF32, max := (2 ^ 24 - 1) * 2 ^ 104, next := 2 ^ 128, least := 1 / 2 ^ 126, top := (0x7F7FFFFF, 0xFF7FFFFF),
    ovf := (0x7F800000, 0xFF800000), ovfSat := (0x7F800000, 0xFF800000), inf := (0x7F800000, 0xFF800000), infFlags := 0, nan := 0x7FC00000 }
/-- BF16. -/
def limBf16 : Limits :=
  { fmt := fmtBf16, max := (2 ^ 8 - 1) * 2 ^ 120, next := 2 ^ 128, least := 1 / 2 ^ 126, top := (0x7F7F, 0xFF7F),
    ovf := (0x7F80, 0xFF80), ovfSat := (0x7F80, 0xFF80), inf := (0x7F80, 0xFF80), infFlags := 0, nan := 0x7FC0 }
/-- FP16. -/
def limF16 : Limits :=
  { fmt := fmtF16, max := 65504, next := 65536, least := 1 / 2 ^ 14, top := (0x7BFF, 0xFBFF),
    ovf := (0x7C00, 0xFC00), ovfSat := (0x7C00, 0xFC00), inf := (0x7C00, 0xFC00), infFlags := 0, nan := 0x7E00 }
/-- E4M3: 480 is a candidate; an infinity has no element. -/
def limE4m3 : Limits :=
  { fmt := fmtE4m3, max := 448, next := 480, least := 1 / 2 ^ 6, top := (0x7E, 0xFE),
    ovf := (0x7F, 0x7F), ovfSat := (0x7E, 0xFE), inf := (0x7F, 0x7F), infFlags := flagNV, nan := 0x7F }
/-- E5M2. -/
def limE5m2 : Limits :=
  { fmt := fmtE5m2, max := 57344, next := 65536, least := 1 / 2 ^ 14, top := (0x7B, 0xFB),
    ovf := (0x7C, 0xFC), ovfSat := (0x7C, 0xFC), inf := (0x7C, 0xFC), infFlags := 0, nan := 0x7E }
/-- E2M1: neither an infinity nor a NaN has an element. -/
def limE2m1 : Limits :=
  { fmt := fmtE2m1, max := 6, next := 8, least := 1, top := (7, 0xF),
    ovf := (7, 0xF), ovfSat := (7, 0xF), inf := (7, 0xF), infFlags := flagOF ||| flagNX, nan := 0 }

/-- The element for a sign of a pair. -/
def bySign (x : Nat × Nat) (neg : Bool) : Nat := if neg then x.2 else x.1
/-- Does the mode round a value toward zero (R37)? -/
def TowardZero (rm : Rm) (neg : Bool) : Bool := rm == .rz || (rm == .ru && neg) || (rm == .rd && !neg)
/-- Rounded with an unbounded exponent, the value exceeds the largest finite one (R37): to nearest from half way on, where a tie goes to the
even element; toward zero from the next candidate on; away from zero at once. -/
def Overflows (t : Limits) (rm : Rm) (v : ℚ) : Prop :=
  if rm = .rne then (if t.top.1 % 2 = 0 then (t.max + t.next) / 2 < |v| else (t.max + t.next) / 2 ≤ |v|)
  else if TowardZero rm (decide (v < 0)) then t.next ≤ |v|
  else t.max < |v|
/-- Rounded to the format's precision with an unbounded exponent, the magnitude lies below the smallest normal one (R38, R39). -/
def Tiny (t : Limits) (rm : Rm) (v : ℚ) : Prop :=
  if rm = .rne then |v| < t.least - t.least / 2 ^ (t.fmt.w + 2)
  else if TowardZero rm (decide (v < 0)) then |v| < t.least
  else |v| ≤ t.least - t.least / 2 ^ (t.fmt.w + 1)

/-- r is the exact value v, not zero, rounded once into the format in the mode (R33, R35, R37 to R39, R394). On an overflow, OF and NX, and the largest finite
element where the mode rounds toward zero, else the format's overflow element. Otherwise the value of r is the one the mode names among all the
format holds, with the sign of v; NX says that it differs from v, and UF that it does and is tiny. -/
def RoundsTo (t : Limits) (rm : Rm) (sat : Bool) (r : Nat × Flags) (v : ℚ) : Prop :=
  let neg := decide (v < 0)
  (Overflows t rm v → r = (bySign (if TowardZero rm neg then t.top else if sat then t.ovfSat else t.ovf) neg, flagOF ||| flagNX)) ∧
  (¬ Overflows t rm v → ∃ w, finite? t.fmt r.1 = some w ∧ r.1.testBit (t.fmt.width - 1) = neg ∧
    (w = v → r.2 = 0) ∧ (w ≠ v → Tiny t rm v → r.2 = flagUF ||| flagNX) ∧ (w ≠ v → ¬ Tiny t rm v → r.2 = flagNX) ∧
    match rm with
    | .rne => ∀ u, Holds t.fmt u → |w - v| ≤ |u - v| ∧ (|w - v| = |u - v| → u ≠ w → r.1 % 2 = 0)
    | .rz => |w| ≤ |v| ∧ 0 ≤ w * v ∧ ∀ u, Holds t.fmt u → |u| ≤ |v| → 0 ≤ u * v → |u| ≤ |w|
    | .ru => v ≤ w ∧ ∀ u, Holds t.fmt u → v ≤ u → w ≤ u
    | .rd => w ≤ v ∧ ∀ u, Holds t.fmt u → u ≤ v → u ≤ w)

/-- i is the value u rounded to an integer in the mode (R33). -/
def RoundsInt (rm : Rm) (u : ℚ) (i : ℤ) : Prop :=
  match rm with
  | .rne => ∀ k : ℤ, |(i : ℚ) - u| ≤ |(k : ℚ) - u| ∧ (|(i : ℚ) - u| = |(k : ℚ) - u| → k ≠ i → i % 2 = 0)
  | .rz => |(i : ℚ)| ≤ |u| ∧ 0 ≤ (i : ℚ) * u ∧ ∀ k : ℤ, |(k : ℚ)| ≤ |u| → 0 ≤ (k : ℚ) * u → |k| ≤ |i|
  | .ru => u ≤ i ∧ ∀ k : ℤ, u ≤ k → i ≤ k
  | .rd => (i : ℚ) ≤ u ∧ ∀ k : ℤ, (k : ℚ) ≤ u → k ≤ i

/-- The formats of the lane's arithmetic and of its conversions (R21). -/
def formats : List Limits := [limF32, limBf16, limF16, limE4m3, limE5m2, limE2m1]

end Sys2Proof.Claims

/-- R392, R395: FADD, FSUB, FMUL, FFMA and the paired forms write their rounded result and raise its flags. -/
def Obligations.FloatArithmetic : Prop :=
  ∀ (d a b : VReg) (r : Rm),
    WritesVF (.fadd d a b r) d (fun l => toWord (addF fmtF32 r (l.getV a).toNat (l.getV b).toNat)) ∧
    WritesVF (.fsub d a b r) d (fun l => toWord (subF fmtF32 r (l.getV a).toNat (l.getV b).toNat)) ∧
    WritesVF (.fmul d a b r) d (fun l => toWord (mulF fmtF32 r (l.getV a).toNat (l.getV b).toNat)) ∧
    WritesVF (.ffma d a b r) d (fun l => toWord (fmaF fmtF32 r (l.getV a).toNat (l.getV b).toNat (l.getV d).toNat)) ∧
    WritesVF (.fadd2Bf16 d a b r) d (fun l => halves fun j => addF fmtBf16 r (half (l.getV a) j) (half (l.getV b) j)) ∧
    WritesVF (.fadd2F16 d a b r) d (fun l => halves fun j => addF fmtF16 r (half (l.getV a) j) (half (l.getV b) j)) ∧
    WritesVF (.fma2Bf16 d a b r) d
      (fun l => halves fun j => fmaF fmtBf16 r (half (l.getV a) j) (half (l.getV b) j) (half (l.getV d) j)) ∧
    WritesVF (.fma2F16 d a b r) d
      (fun l => halves fun j => fmaF fmtF16 r (half (l.getV a) j) (half (l.getV b) j) (half (l.getV d) j))

/-- R35, R393, R396: on finite operands the sum, difference, product and fused product-and-sum that the arithmetic uses are the exact value
rounded once, in FP32, BF16 and FP16. -/
def Obligations.RoundedOnceFromExact : Prop :=
  ∀ t ∈ [limF32, limBf16, limF16], ∀ (rm : Rm) (x y z : Nat) (u v w : ℚ), let f := t.fmt
    x < 2 ^ f.width → y < 2 ^ f.width → z < 2 ^ f.width →
    finite? f x = some u → finite? f y = some v → finite? f z = some w →
    (u + v ≠ 0 → RoundsTo t rm false (addF f rm x y) (u + v)) ∧
    (u - v ≠ 0 → RoundsTo t rm false (subF f rm x y) (u - v)) ∧
    (u * v ≠ 0 → RoundsTo t rm false (mulF f rm x y) (u * v)) ∧
    (u * v + w ≠ 0 → RoundsTo t rm false (fmaF f rm x y z) (u * v + w))

/-- R33, R37 to R39, R394: rounding a non-zero real to any format of the lane in any mode, with its result, its overflows and its flags; and
rounding NaNs, infinities and zeros. -/
def Obligations.RoundingIsCorrect : Prop :=
  (∀ t ∈ formats, ∀ (rm : Rm) (sat n : Bool) (m : Nat) (e : Int), 0 < m →
    RoundsTo t rm sat (t.fmt.round rm sat (.fin n m e)) ((if n then -1 else 1) * m * (2 : ℚ) ^ e)) ∧
  (∀ t ∈ formats, Holds t.fmt t.max ∧ (∀ u, Holds t.fmt u → |u| ≤ t.max) ∧ finite? t.fmt t.top.1 = some t.max ∧ finite? t.fmt t.top.2 = some (-t.max)) ∧
  ∀ t ∈ formats, ∀ (rm : Rm) (sat n : Bool),
    t.fmt.round rm sat (.nan n) = (t.nan, if n || t.nan = 0 then flagNV else 0) ∧
    t.fmt.round rm sat (.inf n) = (bySign t.inf n, t.infFlags) ∧
    t.fmt.round rm sat (.zero n) = (if n then 2 ^ (t.fmt.width - 1) else 0, 0)

/-- R394: an element that is not a NaN and whose format holds it rounds to itself, without flags; E4M3 and E2M1 hold no infinity. -/
def Sys2Proof.Claims.RoundingKeepsElements : Prop :=
  ∀ t ∈ formats, ∀ (rm : Rm) (sat : Bool) (bits : Nat), bits < 2 ^ t.fmt.width → (t.fmt.decode bits).isNan = false →
    t.fmt.round rm sat (t.fmt.decode bits) = (bits, 0)

/-- R393, R394, R35: special operands of FADD and FMUL: NaNs, infinities, zeros. -/
def Sys2Proof.Claims.ArithmeticSpecialCases : Prop :=
  ∀ (rm : Rm) (x y : Nat), x < 2 ^ 32 → y < 2 ^ 32 →
    (((fmtF32.decode x).isNan ∨ (fmtF32.decode y).isNan) →
      ∀ r ∈ [addF fmtF32 rm x y, subF fmtF32 rm x y, mulF fmtF32 rm x y], r.1 = 0x7FC00000 ∧
        (r.2 = if (fmtF32.decode x).isSig || (fmtF32.decode y).isSig then flagNV else 0)) ∧
    addF fmtF32 rm 0x7F800000 0xFF800000 = (0x7FC00000, flagNV) ∧ subF fmtF32 rm 0x7F800000 0x7F800000 = (0x7FC00000, flagNV) ∧
    mulF fmtF32 rm 0x7F800000 0 = (0x7FC00000, flagNV) ∧ mulF fmtF32 rm 0x80000000 0xFF800000 = (0x7FC00000, flagNV) ∧
    (∀ u, finite? fmtF32 x = some u → addF fmtF32 rm 0x7F800000 x = (0x7F800000, 0) ∧ addF fmtF32 rm x 0xFF800000 = (0xFF800000, 0)) ∧
    (∀ u, finite? fmtF32 x = some u → u ≠ 0 → addF fmtF32 rm x (x ^^^ 0x80000000) = (if rm = .rd then 0x80000000 else 0, 0))

/-- Together: RoundingKeepsElements, ArithmeticSpecialCases. -/
def Obligations.RoundingCorners : Prop := Claims.RoundingKeepsElements ∧ Claims.ArithmeticSpecialCases

/-- R36, R409, R397: FMIN, FMAX and FCLASS. -/
def Sys2Proof.Claims.FloatMinMaxClass : Prop :=
  (∃ lo hi : Word → Word → Word, ∃ nv : Word → Word → Flags,
    (∀ d a b, WritesVF (.fmin d a b) d fun l => (lo (l.getV a) (l.getV b), nv (l.getV a) (l.getV b))) ∧
    (∀ d a b, WritesVF (.fmax d a b) d fun l => (hi (l.getV a) (l.getV b), nv (l.getV a) (l.getV b))) ∧
    (∀ x y, nv x y = if (fmtF32.decode x.toNat).isSig || (fmtF32.decode y.toNat).isSig then flagNV else 0) ∧
    (∀ x y, (fmtF32.decode x.toNat).isNan = true → (fmtF32.decode y.toNat).isNan = true → lo x y = 0x7FC00000 ∧ hi x y = 0x7FC00000) ∧
    (∀ x y, (fmtF32.decode x.toNat).isNan = true → (fmtF32.decode y.toNat).isNan = false →
      lo x y = y ∧ lo y x = y ∧ hi x y = y ∧ hi y x = y) ∧
    (∀ x y u v, finite? fmtF32 x.toNat = some u → finite? fmtF32 y.toNat = some v → u < v →
      lo x y = x ∧ lo y x = x ∧ hi x y = y ∧ hi y x = y) ∧
    (∀ x, (fmtF32.decode x.toNat).isNan = false → lo x x = x ∧ hi x x = x ∧ lo x 0x7F800000 = x ∧ lo 0x7F800000 x = x ∧ hi x 0x7F800000 = 0x7F800000 ∧
      hi 0x7F800000 x = 0x7F800000 ∧ lo x 0xFF800000 = 0xFF800000 ∧ lo 0xFF800000 x = 0xFF800000 ∧ hi x 0xFF800000 = x ∧ hi 0xFF800000 x = x) ∧
    lo 0 0x80000000 = 0x80000000 ∧ lo 0x80000000 0 = 0x80000000 ∧ hi 0 0x80000000 = 0 ∧ hi 0x80000000 0 = 0) ∧
  (∃ c : Word → Nat, (∀ d a, WritesV (.fclass d a) 4 d fun l => BitVec.ofNat 32 (2 ^ c (l.getV a))) ∧
    ∀ x : Word, c x =
      (let n := x.getLsbD 31
       let e := x.toNat / 2 ^ 23 % 256
       let m := x.toNat % 2 ^ 23
       if e = 255 then (if m = 0 then (if n then 0 else 7) else if x.getLsbD 22 then 9 else 8)
       else if e = 0 then (if m = 0 then (if n then 3 else 4) else (if n then 2 else 5))
       else if n then 1 else 6))

/-- R398, R399: FCMP writes a predicate; an unordered comparison makes every condition false except NE and UN, and raises NV for LT, LE, GT,
GE and for a signalling NaN. -/
def Sys2Proof.Claims.CompareFloats : Prop :=
  ∃ c : FCond → Word → Word → Bool, ∃ nv : FCond → Word → Word → Flags,
    (∀ p a b k, LanewiseF (.fcmp p a b k) (fun l => (l.setP p (c k (l.getV a) (l.getV b))).adv 4) fun l => nv k (l.getV a) (l.getV b)) ∧
    (∀ (l : Lane) b, l.setP 0 b = l) ∧
    (∀ x y, (fmtF32.decode x.toNat).isNan = false → (fmtF32.decode y.toNat).isNan = false → (∀ k, nv k x y = 0) ∧
      c .ne x y = !c .eq x y ∧ c .le x y = (c .lt x y || c .eq x y) ∧ c .gt x y = c .lt y x ∧ c .ge x y = c .le y x ∧ c .or x y = true ∧ c .un x y = false ∧
      c .lt 0xFF800000 y = decide (y ≠ 0xFF800000) ∧ c .lt y 0xFF800000 = false ∧ c .lt y 0x7F800000 = decide (y ≠ 0x7F800000) ∧
      c .lt 0x7F800000 y = false ∧ c .eq y 0x7F800000 = decide (y = 0x7F800000) ∧ c .eq y 0xFF800000 = decide (y = 0xFF800000)) ∧
    ∀ k x y,
      (((fmtF32.decode x.toNat).isNan ∨ (fmtF32.decode y.toNat).isNan) →
        c k x y = decide (k = .ne ∨ k = .un) ∧
        nv k x y = if k = .lt ∨ k = .le ∨ k = .gt ∨ k = .ge ∨ (fmtF32.decode x.toNat).isSig ∨ (fmtF32.decode y.toNat).isSig then flagNV else 0) ∧
      ∀ u v, finite? fmtF32 x.toNat = some u → finite? fmtF32 y.toNat = some v → nv k x y = 0 ∧
        (c k x y = true ↔ match k with
          | .eq => u = v
          | .lt => u < v
          | .le => u ≤ v
          | .un => False
          | .ne => u ≠ v
          | .gt => v < u
          | .ge => v ≤ u
          | .or => True)

/-- Together: FloatMinMaxClass, CompareFloats. -/
def Obligations.FloatOrderAndClass : Prop := Claims.FloatMinMaxClass ∧ Claims.CompareFloats

/-- R335, R380 to R382: CVT with codes below 0x38: the word completes with the result and flags of its code. Integer codes round to an integer, and clamp or
answer the out-of-range value; narrowing rounds once and writes its own position of v[d]; widening is exact. -/
def Obligations.Conversions : Prop :=
  ∃ f : Nat → Rm → Bool → Word → Word → Word × Flags,
    (∀ d a k r t l, reservedUse (.cvt d a k r t l) = false →
      WritesVF (.cvt d a k r t l) d fun x => f k.val r t (x.getV d) (x.getV a)) ∧
    (∀ rm sat z x, (fmtF32.decode x.toNat).isNan = true →
      f 0 rm sat z x = (if sat then 0 else 0x80000000, flagNV) ∧ f 1 rm sat z x = (if sat then 0 else 0xFFFFFFFF, flagNV)) ∧
    (∀ rm sat z, f 0 rm sat z 0x7F800000 = (if sat then 0x7FFFFFFF else 0x80000000, flagNV) ∧ f 0 rm sat z 0xFF800000 = (0x80000000, flagNV) ∧
      f 1 rm sat z 0x7F800000 = (0xFFFFFFFF, flagNV) ∧ f 1 rm sat z 0xFF800000 = (if sat then 0 else 0xFFFFFFFF, flagNV)) ∧
    (∀ rm sat z x u i, finite? fmtF32 x.toNat = some u → RoundsInt rm u i → let nx := if (i : ℚ) = u then 0 else flagNX
      f 0 rm sat z x = (if i < -2 ^ 31 then (0x80000000, flagNV) else if 2 ^ 31 ≤ i then (if sat then 0x7FFFFFFF else 0x80000000, flagNV)
        else (BitVec.ofInt 32 i, nx)) ∧
      f 1 rm sat z x = (if i < 0 then (if sat then 0 else 0xFFFFFFFF, flagNV) else if 2 ^ 32 ≤ i then (0xFFFFFFFF, flagNV) else (BitVec.ofInt 32 i, nx))) ∧
    (∀ rm z x, (x ≠ 0 → RoundsTo limF32 rm false ((f 2 rm false z x).1.toNat, (f 2 rm false z x).2) x.toInt ∧
      RoundsTo limF32 rm false ((f 3 rm false z x).1.toNat, (f 3 rm false z x).2) x.toNat) ∧ f 2 rm false z 0 = (0, 0) ∧ f 3 rm false z 0 = (0, 0)) ∧
    (∀ e ∈ [(fmtBf16, 16, 4, 2), (fmtF16, 16, 6, 2), (fmtE4m3, 8, 0x10, 4), (fmtE5m2, 8, 0x14, 4), (fmtE2m1, 4, 0x20, 8)], ∀ j < e.2.2.2, ∀ rm sat z x,
      sat = false ∨ e.1 = fmtE4m3 → let w : Nat := e.2.1; let r := e.1.round rm sat (fmtF32.decode x.toNat); let q := f (e.2.2.1 + j) rm sat z x
      q.2 = r.2 ∧ ∀ k < 32, q.1.getLsbD k = if w * j ≤ k ∧ k < w * j + w then r.1.testBit (k - w * j) else z.getLsbD k) ∧
    (∀ e ∈ [(fmtBf16, 16, 8, 2), (fmtF16, 16, 0xA, 2), (fmtE4m3, 8, 0x18, 4), (fmtE5m2, 8, 0x1C, 4), (fmtE2m1, 4, 0x28, 8)], ∀ j < e.2.2.2, ∀ z x,
      let y := e.1.decode (x.toNat / 2 ^ (e.2.1 * j) % 2 ^ e.2.1); let q := f (e.2.2.1 + j) .rne false z x
      (y.isNan = true → q = (0x7FC00000, if y.isSig then flagNV else 0)) ∧
      (∀ n, y = .inf n → q = (if n then 0xFF800000 else 0x7F800000, 0)) ∧ (∀ n, y = .zero n → q = (if n then 0x80000000 else 0, 0)) ∧
      ∀ u, finite? e.1 (x.toNat / 2 ^ (e.2.1 * j) % 2 ^ e.2.1) = some u → q.2 = 0 ∧ finite? fmtF32 q.1.toNat = some u) ∧
    (∀ j < 4, ∀ z x, let put := fun b : BitVec 8 => fun k : Nat => if 8 * j ≤ k ∧ k < 8 * j + 8 then b.getLsbD (k - 8 * j) else z.getLsbD k
      (∀ k < 32, (f (0x30 + j) .rne true z x).1.getLsbD k = put (BitVec.ofInt 8 (max (-128) (min 127 x.toInt))) k) ∧
      (f (0x30 + j) .rne true z x).2 = (if x.toInt < -128 ∨ 127 < x.toInt then flagOF else 0) ∧
      (∀ k < 32, (f (0x30 + j) .rne false z x).1.getLsbD k = put (x.setWidth 8) k) ∧ (f (0x30 + j) .rne false z x).2 = 0 ∧
      f (0x34 + j) .rne false z x = (((x >>> (8 * j)).setWidth 8).signExtend 32, 0))


/-! ## Deferred results -/

/-- R319, R323, R401 to R406: the special functions are deferred; each notes its result and flags. That a deferred
word computes where it issues and writes later is the model's choice (log entry 3). -/
def Sys2Proof.Claims.SpecialFunctionsDefer : Prop :=
  ∀ (d a b : VReg) (r : Rm),
    DefersV (.frcp d a) d (fun _ l => rcpW (l.getV a)) ∧ DefersV (.frsq d a) d (fun _ l => rsqW (l.getV a)) ∧
    DefersV (.fsqrt d a r) d (fun _ l => sqrtW r (l.getV a)) ∧ DefersV (.fdiv d a b r) d (fun _ l => divW r (l.getV a) (l.getV b)) ∧
    DefersV (.fexp2 d a) d (fun _ l => exp2W (l.getV a)) ∧ DefersV (.flog2 d a) d (fun _ l => log2W (l.getV a)) ∧
    DefersV (.fsin d a) d (fun _ l => sinW (l.getV a)) ∧ DefersV (.fcos d a) d (fun _ l => cosW (l.getV a)) ∧
    Defers (.fred d a)
      (fun _ l => [(d.val, BitVec.ofNat 32 (redW (l.getV a)).1), (d.val + 1, BitVec.ofNat 32 (redW (l.getV a)).2.1)])
      (fun _ l => (redW (l.getV a)).2.2)

/-- R402 to R406, R401: the results of the special functions at their special operands, and for a NaN. -/
def Obligations.SpecialFunctionCorners : Prop :=
  (∀ f ∈ [rcpW, rsqW, exp2W, log2W, sinW, cosW, sqrtW .rne, sqrtW .rz, sqrtW .ru, sqrtW .rd], ∀ x : Word,
    (fmtF32.decode x.toNat).isNan = true → f x = (0x7FC00000, if (fmtF32.decode x.toNat).isSig then flagNV else 0)) ∧
  (∀ rm, sqrtW rm 0 = (0, 0) ∧ sqrtW rm 0x80000000 = (0x80000000, 0) ∧ sqrtW rm 0x7F800000 = (0x7F800000, 0)) ∧
  (∀ rm (x : Word), x.getLsbD 31 = true → x ≠ 0x80000000 → x.toNat ≤ 0xFF800000 → sqrtW rm x = (0x7FC00000, flagNV)) ∧
  (∀ rm (x : Word) u, finite? fmtF32 x.toNat = some u → u ≠ 0 →
    divW rm x 0 = (if 0 < u then 0x7F800000 else 0xFF800000, flagDZ) ∧ divW rm x 0x7F800000 = (if 0 < u then 0 else 0x80000000, 0) ∧
    divW rm 0 x = (if 0 < u then 0 else 0x80000000, 0) ∧ divW rm 0x7F800000 x = (if 0 < u then 0x7F800000 else 0xFF800000, 0)) ∧
  (∀ rm, divW rm 0 0x80000000 = (0x7FC00000, flagNV) ∧ divW rm 0xFF800000 0x7F800000 = (0x7FC00000, flagNV)) ∧
  rcpW 0 = (0x7F800000, flagDZ) ∧ rcpW 0x80000000 = (0xFF800000, flagDZ) ∧ rcpW 0x7F800000 = (0, 0) ∧ rcpW 0xFF800000 = (0x80000000, 0) ∧
  (∀ (x : Word) u, finite? fmtF32 x.toNat = some u → u ≠ 0 → |u| ≤ (2 : ℚ) ^ (-128 : Int) →
    rcpW x = (if 0 < u then 0x7F800000 else 0xFF800000, flagOF ||| flagNX)) ∧
  rsqW 0 = (0x7F800000, 0) ∧ rsqW 0x80000000 = (0xFF800000, 0) ∧ rsqW 0x7F800000 = (0, 0) ∧
  (∀ x : Word, x.getLsbD 31 = true → x ≠ 0x80000000 → x.toNat ≤ 0xFF800000 →
    rsqW x = (0x7FC00000, flagNV) ∧ log2W x = (0x7FC00000, flagNV)) ∧
  (∀ (x : Word) u, finite? fmtF32 x.toNat = some u → (128 ≤ u → exp2W x = (0x7F800000, flagOF ||| flagNX)) ∧
    (u ≤ -150 → exp2W x = (0, flagUF ||| flagNX))) ∧
  exp2W 0x7F800000 = (0x7F800000, 0) ∧ exp2W 0xFF800000 = (0, 0) ∧ exp2W 0 = (0x3F800000, 0) ∧ exp2W 0x80000000 = (0x3F800000, 0) ∧
  log2W 0 = (0xFF800000, 0) ∧ log2W 0x80000000 = (0xFF800000, 0) ∧ log2W 0x7F800000 = (0x7F800000, 0) ∧ log2W 0x3F800000 = (0, 0) ∧
  sinW 0x7F800000 = (0x7FC00000, flagNV) ∧ cosW 0xFF800000 = (0x7FC00000, flagNV) ∧ sinW 0 = (0, 0) ∧ sinW 0x80000000 = (0x80000000, 0) ∧
  cosW 0 = (0x3F800000, 0) ∧ cosW 0x80000000 = (0x3F800000, 0) ∧
  redW 0 = (0, 0, 0) ∧ redW 0x80000000 = (0x80000000, 0, 0) ∧ redW 0x7F800000 = (0x7FC00000, 0, flagNV) ∧ redW 0xFF800000 = (0x7FC00000, 0, flagNV) ∧
  (∀ x : Word, (fmtF32.decode x.toNat).isNan = true → redW x = (0x7FC00000, 0, if (fmtF32.decode x.toNat).isSig then flagNV else 0))

/-- R401, R402: FDIV is correctly rounded; FSQRT too, said of squares; FRCP lies within one ulp of the exact reciprocal, whatever the value
that the model leaves free (log entry 7). -/
def Obligations.QuotientAndRootRounded : Prop :=
  (∀ rm (x y : Word) u v, finite? fmtF32 x.toNat = some u → finite? fmtF32 y.toNat = some v → u ≠ 0 → v ≠ 0 →
    RoundsTo limF32 rm false (divW rm x y) (u / v)) ∧
  (∀ rm (x : Word) u, finite? fmtF32 x.toNat = some u → 0 < u → ∃ w, finite? fmtF32 (sqrtW rm x).1 = some w ∧ 0 ≤ w ∧
    ((sqrtW rm x).2 = if w * w = u then 0 else flagNX) ∧
    match rm with
    | .rne => ∀ p, Holds fmtF32 p → 0 ≤ p → (p < w → (p + w) * (p + w) ≤ 4 * u) ∧ (w < p → 4 * u ≤ (p + w) * (p + w))
    | .ru => u ≤ w * w ∧ ∀ p, Holds fmtF32 p → 0 ≤ p → u ≤ p * p → w ≤ p
    | .rz | .rd => w * w ≤ u ∧ ∀ p, Holds fmtF32 p → 0 ≤ p → p * p ≤ u → p ≤ w) ∧
  ∀ (x : Word) u (e : Int), finite? fmtF32 x.toNat = some u → (2 : ℚ) ^ e ≤ |1 / u| → |1 / u| < (2 : ℚ) ^ (e + 1) → e < 128 →
    ∃ w, finite? fmtF32 (rcpW x).1 = some w ∧ |w - 1 / u| ≤ (2 : ℚ) ^ (max e (-126) - 23) ∧ ((rcpW x).2 &&& flagNX = 0 ↔ w = 1 / u)

/-- R383 to R385, R469, R470, R436 to R440, R374: the other words that compute are deferred: MX conversion, expansion and quantisation by the
slot, rounding, segments and status of an accumulator, counters. -/
def Sys2Proof.Claims.SlotAndCounterDefers : Prop :=
  ∀ (d a b : VReg) (l : Fin 8) (j : Fin 4) (r : Rm) (k : KReg) (t : Bool) (f : Fs) (h : Fin 64) (n : BitVec 12),
    Defers (.cvtF32Mx d a j r l)
      (fun s x => [(d.val, (mxToF32 (slotA (s.laneSlot x l)) r (x.getV a) j.val ((x.getV d).toNat % 256)).1)])
      (fun s x => (mxToF32 (slotA (s.laneSlot x l)) r (x.getV a) j.val ((x.getV d).toNat % 256)).2) ∧
    Defers (.dqmx d a b l)
      (fun s x => (List.range (dqmxRegs (slotA (s.laneSlot x l)))).map fun i =>
        (d.val + i, (mxToF32 (slotA (s.laneSlot x l)) .rne (x.getV a) i ((x.getV b).toNat % 256)).1))
      (fun s x => ((List.range (dqmxRegs (slotA (s.laneSlot x l)))).map fun i =>
        (mxToF32 (slotA (s.laneSlot x l)) .rne (x.getV a) i ((x.getV b).toNat % 256)).2).foldl (· ||| ·) 0) ∧
    Defers (.qmx d a b l)
      (fun s x =>
        let w := s.laneSlot x l
        let q := qmxBlock w ((x.vs a 32).map f32Of)
        (b.val, BitVec.ofNat 32 q.1) :: (packElems (if slotA w = 5 then 4 else 8) q.2.1 (qmxRegs (slotA w))).mapIdx fun i v => (d.val + i, v))
      (fun s x => (qmxBlock (s.laneSlot x l) ((x.vs a 32).map f32Of)).2.2) ∧
    Defers (.kseg k a h) (fun _ x => [(a.val, ((x.getK k).val >>> (32 * h.val)).setWidth 32)]) (fun _ _ => 0) ∧
    Defers (.kstat k a) (fun _ x => [(a.val, BitVec.ofNat 32 (laStatus (x.getK k)))]) (fun _ _ => 0) ∧
    DefersV (.krnd k a t r f) a (fun _ x => roundLa (x.getK k) (fsFmt f) r t) ∧
    Defers (.cntrd d n)
      (fun s x => pairOf d ((s.bank x.part ((n.toNat - 0x200) / 0x40)).cntrd (n.toNat % 0x40))) (fun _ _ => 0)

/-- Together: SpecialFunctionsDefer, SlotAndCounterDefers. -/
def Obligations.DeferredWords : Prop := Claims.SpecialFunctionsDefer ∧ Claims.SlotAndCounterDefers

/-- R470, R28: the scale of a quantised block follows its largest magnitude; a block with a NaN or an infinity has scale 0xFF, zero elements
and raises NV; an all-zero block has scale 127. -/
def Sys2Proof.Claims.QuantisedBlockScale : Prop :=
  ∀ (w : Word) (xs : List Machine.Num),
    ((xs.any fun x => match x with | .nan _ => true | .inf _ => true | _ => false) = true →
      qmxBlock w xs = (0xFF, xs.map fun _ => 0, flagNV)) ∧
    (xs ≠ [] → (∀ x ∈ xs, ∃ n, x = .zero n) → (qmxBlock w xs).1 = 127) ∧
    (∀ n m e, .fin n m e ∈ xs → 0 < m → (∀ x ∈ xs, match x with
        | .zero _ => True
        | .fin _ m' e' => 0 < m' ∧ (Nat.log2 m' : Int) + e' ≤ (Nat.log2 m : Int) + e
        | .nan _ | .inf _ => False) →
      ((qmxBlock w xs).1 : Int) = min 254 (max 0 ((Nat.log2 m : Int) + e - qmxEmax (slotA w) + 127)))

/-- R523, R82, R40, R432, R80, R246: a deferred result that has returned is written with its flags, and its instruction is outstanding no more; one
of a k register only where the lane waits for it or a save has stopped the lane, and nothing in a frozen quarter. Before the lane's marker the
write of v registers is remembered, and stands again at the marker, where a k register is written; at the marker each register that a later word has written takes the result or keeps what the word left, a free choice (log
entry 55); the last result to return ends the park. -/
def Obligations.DeferredResultReturns : Prop :=
  (∀ (s : State) (id : LaneId) (n : Nat) (l : Lane) (d : Deferred),
    s.lane? id = some l → l.id = id → l.deferred.find? (fun e => e.n == n) = some d → d.wait = .ready → d.sounded = 0 →
    ((s.isFrozen l.quarter = true ∨ (d.kdst ≠ [] ∧ l.marker = false ∧ l.trap = none ∧ l.room = true ∧ s.saving l = false)) →
      exec (.deferredResultWrite id n) s = .next s) ∧
    (s.isFrozen l.quarter = false → l.stepPend = none → (∀ m ∈ s.lanes, m.pfault = none) →
      (l.marker = false → l.trap = none → (d.kdst = [] ∨ l.room = false ∨ s.saving l = true) →
        exec (.deferredResultWrite id n) s = .next ((s.setLane (l.writeEarly d)).orFlags id d.flags)) ∧
      (l.marker = true ∨ l.trap.isSome = true → (∃ e ∈ l.deferred, e.n ≠ n ∧ e.faulted = false) →
        (d.touched = [] → exec (.deferredResultWrite id n) s = .next ((s.setLane (l.writeBack d allTake)).orFlags id d.flags)) ∧
        ∃ (pick free : Nat), exec (.deferredResultWrite id n) s =
          .next ((({ s with free := free } : State).setLane (l.writeBack d pick)).orFlags id d.flags)) ∧
      (l.marker = true → l.trap = none → l.deferred = [d] → d.touched = [] → let m := l.writeBack d allTake
        exec (.deferredResultWrite id n) s = .next (((s.setLane m).orFlags id d.flags).setLane (m.unmarked s.cycle))))) ∧
  ∀ (l : Lane) (d : Deferred) (pick : Nat),
    (l.writeBack d pick).deferred.map (·.n) = (l.deferred.filter fun e => e.n != d.n).map (·.n) ∧
    (∀ r, (l.writeBack d pick).getV r = if r.val ∈ d.touched ∧ pick.testBit r.val = false then l.getV r
      else ((d.vdst.reverse.find? fun e => e.1 % 64 == r.val).map (·.2)).getD (l.getV r)) ∧
    (∀ k, (l.writeBack d pick).getK k = if 64 + k.val ∈ d.touched ∧ pick.testBit (64 + k.val) = false then l.getK k
      else ((d.kdst.reverse.find? fun e => e.1 % 16 == k.val).map (·.2)).getD (l.getK k)) ∧
    { l.writeBack d pick with v := l.v, k := l.k, kc := l.kc, deferred := l.deferred } = l ∧
    (∀ r, r < 80 → allTake.testBit r = true) ∧
    l.writeEarly d = { l.writeBack { d with kdst := [] } allTake with early := l.early ++ [d] } ∧ (l.writeEarly d).k = l.k ∧
    (l.early = [d] → (∀ r, l.landed.getV r = ((d.vdst.reverse.find? fun e => e.1 % 64 == r.val).map (·.2)).getD (l.getV r)) ∧
      ∀ k, l.landed.getK k = ((d.kdst.reverse.find? fun e => e.1 % 16 == k.val).map (·.2)).getD (l.getK k)) ∧
    (l.early = [] → l.landed = l)

/-! ## Long accumulators and planes -/

/-- R425 to R429, R434, R435, R438: the immediate words on k registers. KCLR and KNORM leave no pending carry (R44); what the others leave of carries is
free (log entry 4). -/
def Obligations.LaneAccumulators : Prop :=
  ∀ (k m : KReg) (a b : VReg) (f : Fs),
    LA0 = { val := 0, em := true, nz := false, ni := false, pi := false, nv := false } ∧
    (∀ (l : Lane) (x : LA) (c : BitVec 80) (j : KReg), (l.setK k x).getK j = (if j = k then x else l.getK j) ∧
      (l.setKC k x c).getK j = (if j = k then x else l.getK j) ∧ (l.setKC k x c).kc[k] = some c ∧ (l.setKC k x c).v = l.v ∧ (l.setK k x).v = l.v) ∧
    Lanewise (.kclr k) (fun l => (l.setKC k LA0 0).adv 4) ∧
    Lanewise (.kadd k a f) (fun l => (l.setK k ((List.range (32 / (fsFmt f).width)).foldl (fun x i =>
      laAdd x ((fsFmt f).decode (fld (l.getV a).toNat ((fsFmt f).width * i) (fsFmt f).width))) (l.getK k))).adv 4) ∧
    Lanewise (.kfma k a b f) (fun l => (l.setK k (laAdd (l.getK k) (laProduct (fsElem f (l.getV a) 0) (fsElem f (l.getV b) 0)))).adv 4) ∧
    Lanewise (.kdot2 k a b f) (fun l => (l.setK k ((List.range 2).foldl (fun x i =>
      laAdd x (laProduct (fsElem f (l.getV a) i) (fsElem f (l.getV b) i))) (l.getK k))).adv 4) ∧
    Lanewise (.kdot4 k a b f) (fun l => (l.setK k ((List.range 4).foldl (fun x i =>
      laAdd x (laProduct (fsElem f (l.getV a) i) (fsElem f (l.getV b) i))) (l.getK k))).adv 4) ∧
    Lanewise (.kiadd k a b) (fun l =>
      let sc := (l.getV b).toInt
      (l.setK k (laAdd (l.getK k) (if sc < -298 ∨ 309 < sc then .nan false else Num.ofInt (l.getV a).toInt sc false))).adv 4) ∧
    Lanewise (.kmrg k m) (fun l => (l.setK k (laMerge (l.getK k) (l.getK m) false)).adv 4) ∧
    Lanewise (.kmrgNeg k m) (fun l => (l.setK k (laMerge (l.getK k) (l.getK m) true)).adv 4) ∧
    Lanewise (.knorm k) (fun l => (l.setKC k (l.getK k) 0).adv 4) ∧
    Lanewise (.kscl k a) (fun l =>
      let n := max (-640) (min 640 (l.getV a).toInt)
      let x := l.getK k
      (l.setK k { x with val := if 0 ≤ n then x.val <<< n.toNat else x.val.sshiftRight (-n).toNat }).adv 4)

/-- R47, R48, R49: adding an addend to an accumulator, and the exact product of two; sums in an accumulator do not depend on order: merging is associative and commutative, KCLR's value is neutral, and
adding addends before or after a merge gives the same value and status. The largest and the smallest of a collective's words (R219) combine in any
order too. -/
def Obligations.AccumulatorAlgebra : Prop :=
  (∀ (a : LA) (s : Bool), laAdd a (.nan s) = { a with em := false, nv := true }) ∧
  (∀ (a : LA) (n : Bool), laAdd a (.inf n) =
    { a with em := false, pi := a.pi || !n, ni := a.ni || n, nv := a.nv || ((a.pi || !n) && (a.ni || n)) }) ∧
  (∀ (a : LA) (n : Bool), laAdd a (.zero n) = { a with em := false, nz := a.nz || !n, nv := a.nv || (a.pi && a.ni) }) ∧
  (∀ (a : LA) (n : Bool) (m : Nat) (e X : Int), 0 < m → -298 ≤ e → (X : ℚ) = (if n then -1 else 1) * m * (2 : ℚ) ^ e * (2 : ℚ) ^ (298 : Nat) →
    laAdd a (.fin n m e) = { a with em := false, nz := true, val := a.val + BitVec.ofInt 640 X, nv := a.nv || (a.pi && a.ni) }) ∧
  (∀ x y : Machine.Num, (x.isNan = true ∨ y.isNan = true → (laProduct x y).isNan = true) ∧ ∀ n k : Bool,
    (laProduct (.inf n) (.zero k)).isNan = true ∧ (laProduct (.zero k) (.inf n)).isNan = true ∧
    (y.isNan = false → (∀ j, y ≠ .zero j) → laProduct (.inf n) y = .inf (n != y.sign) ∧ laProduct y (.inf n) = .inf (y.sign != n)) ∧
    (y.isNan = false → (∀ j, y ≠ .inf j) → laProduct (.zero n) y = .zero (n != y.sign) ∧ laProduct y (.zero n) = .zero (y.sign != n))) ∧
  (∀ (n k : Bool) (m j : Nat) (e f : Int), ∃ q w g, laProduct (.fin n m e) (.fin k j f) = .fin q w g ∧
    (if q then -1 else 1) * (w : ℚ) * (2 : ℚ) ^ g = (if n then -1 else 1) * (m : ℚ) * (2 : ℚ) ^ e * ((if k then -1 else 1) * (j : ℚ) * (2 : ℚ) ^ f)) ∧
  (∀ a b c, laMerge (laMerge a b false) c false = laMerge a (laMerge b c false) false) ∧
  (∀ a b, laMerge a b false = laMerge b a false) ∧
  (∀ a x y, laAdd (laAdd a x) y = laAdd (laAdd a y) x) ∧
  (∀ a b x, laMerge (laAdd a x) b false = laAdd (laMerge a b false) x) ∧
  (∀ xs ys : List Machine.Num, xs.Perm ys → xs.foldl laAdd LA0 = ys.foldl laAdd LA0) ∧
  (∀ xs ys : List Machine.Num, laMerge (xs.foldl laAdd LA0) (ys.foldl laAdd LA0) false = (xs ++ ys).foldl laAdd LA0) ∧
  ∀ op ∈ [2, 3], ∀ type ∈ [0, 1], ∀ x y z : Word,
    combine op type (.word x) (.word y) = combine op type (.word y) (.word x) ∧
    combine op type (combine op type (.word x) (.word y)) (.word z) = combine op type (.word x) (combine op type (.word y) (.word z))

/-- R41, R43 to R46, R50: the 96-byte image: its value in the low 640 bits, no pending carry, the status in byte 90, and zeros after it; an image
with carries stands for the value of its segments and carries. Rounding an accumulator rounds V x 2^-298 once, and its special cases follow
the status, in each format. -/
def Obligations.AccumulatorImageAndRounding : Prop :=
  (∀ a : LA, laOfImage (laImage a) = a ∧ laImage a < 2 ^ 768 ∧ laImage a % 2 ^ 640 = a.val.toNat ∧ laImage a / 2 ^ 640 % 2 ^ 80 = 0 ∧
    laImage a / 2 ^ 720 = a.em.toNat * 16 + a.nz.toNat * 8 + a.ni.toNat * 4 + a.pi.toNat * 2 + a.nv.toNat) ∧
  (∀ img : Nat, (laOfImage img).val =
      BitVec.ofInt 640 ((img % 2 ^ 640 : Nat) + ∑ i ∈ Finset.range 10, (BitVec.ofNat 8 (img / 2 ^ (640 + 8 * i))).toInt * 2 ^ (64 * (i + 1))) ∧
    (laOfImage img).em = img.testBit 724 ∧ (laOfImage img).nz = img.testBit 723 ∧ (laOfImage img).ni = img.testBit 722 ∧
    (laOfImage img).pi = img.testBit 721 ∧ (laOfImage img).nv = img.testBit 720) ∧
  (∀ (a : LA) (rm : Rm) (sat : Bool), ∀ t ∈ formats, a.nv = false → a.pi = false → a.ni = false → a.val ≠ 0 →
    RoundsTo t rm sat (roundLa a t.fmt rm sat) ((a.val.toInt : ℚ) * (2 : ℚ) ^ (-298 : Int))) ∧
  ∀ (a : LA) (rm : Rm) (sat : Bool), ∀ t ∈ formats,
    (a.nv = true ∨ (a.pi = true ∧ a.ni = true) → roundLa a t.fmt rm sat = (t.nan, flagNV)) ∧
    (a.nv = false → a.pi = true → a.ni = false → roundLa a t.fmt rm sat = (bySign t.inf false, t.infFlags)) ∧
    (a.nv = false → a.pi = false → a.ni = true → roundLa a t.fmt rm sat = (bySign t.inf true, t.infFlags)) ∧
    (a.nv = false → a.pi = false → a.ni = false → a.val = 0 →
      roundLa a t.fmt rm sat = (if a.em then 0 else if a.nz && rm != .rd then 0 else 2 ^ (t.fmt.width - 1), 0))

/-- R31, R32, R466: PSLICE and PMERGE complete; PMERGE with p planes of what PSLICE wrote gives each INT8 element with its low 8 - p bits
cleared. -/
def Sys2Proof.Claims.PlaneSlicing : Prop :=
  (∀ d a, Lanewise (.pslice d a) (fun l => (l.setVs d ((List.range 8).map (planeOf (l.vs a 8)))).adv 4)) ∧
  (∀ d a p, Lanewise (.pmerge d a p) (fun l =>
    (l.setVs d (packElems 8 ((List.range 32).map fun i => (BitVec.ofInt 8 (planeValue (l.vs a p.val) i)).toNat) 8)).adv 4)) ∧
  ∀ (ws : List Word), ws.length = 8 → ∀ p i, 2 ≤ p → p ≤ 8 → i < 32 →
    (∀ j < 8, (planeOf ws j).getLsbD i = (((ws[i / 4]?).getD 0) >>> (8 * (i % 4))).getLsbD (7 - j)) ∧
    planeValue ((List.range p).map (planeOf ws)) i =
      (BitVec.ofNat 8 (byteOf ((ws[i / 4]?).getD 0) (i % 4))).toInt / 2 ^ (8 - p) * 2 ^ (8 - p)


/-- Together: QuantisedBlockScale, PlaneSlicing. -/
def Obligations.BlocksAndPlanes : Prop := Claims.QuantisedBlockScale ∧ Claims.PlaneSlicing

/-! ## Exchange between lanes -/

namespace Sys2Proof.Claims

/-- Every lane of the group that a word of major 0x14 waits for has joined the bundle (R483). -/
def Joined (s : State) : Prop := ∀ l ∈ s.lanes, l.issuing = true → s.absent l = false
/-- The participating set: the active lanes of a lane's group, ascending (R449). -/
def mates (s : State) (l : Lane) : List Lane := s.actives.filter fun m => m.id.tid == l.id.tid && m.id.grp == l.id.grp
/-- The word completes as a function of each lane's participating set. -/
def Exchanges (i : Instr) (f : List Lane → Lane → Lane) : Prop :=
  ∀ s, Legal s i → Joined s → exec i s = .next (mapActive s fun l => (f (mates s l) l).adv 4)
/-- v[a] of the participating lane at a slot, else the lane's own. -/
def fromSlot (set : List Lane) (l : Lane) (a : VReg) (slot : Int) : Word :=
  match set.find? fun m => (m.id.slot : Int) == slot with
  | some m => m.getV a
  | none => l.getV a
/-- SHFL of a lane at position r of a segment of w lanes that starts at slot b, for a distance (R482). -/
def shuffled (set : List Lane) (l : Lane) (a : VReg) (m : ShflMode) (w : Nat) (dist : Int) : Word :=
  let r : Int := l.id.slot % w
  let b : Int := l.id.slot - r
  match m with
  | .src => fromSlot set l a (b + dist % w)
  | .rot => fromSlot set l a (b + (r + dist) % w)
  | .flip => fromSlot set l a (b + ((l.id.slot % w) ^^^ (dist % w).toNat : Nat))
  | .edge => if 0 ≤ r + dist ∧ r + dist < w then fromSlot set l a (b + (r + dist)) else l.getV a

end Sys2Proof.Claims

/-- R449, R481 to R483, R492: SHFL, VOTE and MATCH over the participating set of each lane's group. -/
def Obligations.LaneExchange : Prop :=
  ∀ (d a b : VReg) (p q : PReg) (m : ShflMode) (w : Fin 4) (i : BitVec 6),
    Exchanges (.shfl d a b m w) (fun set l => l.setV d (shuffled set l a m (32 / 2 ^ w.val)
      (if m = .edge then ((l.getV b).setWidth 6).toInt else (l.getV b).toNat % 32))) ∧
    (m = .edge ∨ i.toNat < 32 → Exchanges (.shflImm d a i m w) fun set l => l.setV d (shuffled set l a m (32 / 2 ^ w.val)
      (if m = .edge then i.toInt else i.toNat))) ∧
    Exchanges (.voteOr p q) (fun set l => l.setP p (set.any fun x => x.getP q)) ∧
    Exchanges (.voteAnd p q) (fun set l => l.setP p (set.all fun x => x.getP q)) ∧
    Exchanges (.voteMask d q) (fun set l => l.setV d (BitVec.ofNat 32 ((set.filter fun x => x.getP q).map fun x => 2 ^ x.id.slot).sum)) ∧
    Exchanges (.voteCount d q) (fun set l => l.setV d (BitVec.ofNat 32 (set.filter fun x => x.getP q).length)) ∧
    Exchanges (.voteFirst d q) (fun set l => l.setV d (match set.find? fun x => x.getP q with
      | some x => BitVec.ofNat 32 x.id.slot
      | none => 32)) ∧
    Exchanges (.vmatch d a) (fun set l => l.setV d
      (BitVec.ofNat 32 ((set.filter fun x => x.getV a == l.getV a).map fun x => 2 ^ x.id.slot).sum)) ∧
    ∀ s, Legal s (.vmatch d a) → (∀ l ∈ s.lanes, l.issuing = true → s.absent l = true) →
      exec (.vmatch d a) s = .next (mapActive s Lane.stall)

/-! ## System registers -/

namespace Sys2Proof.Claims

/-- The only active lane of the machine is l. -/
def Sole (s : State) (l : Lane) : Prop :=
  l ∈ s.lanes ∧ l.issuing = true ∧ l.id.slot < 32 ∧ ∀ m ∈ s.lanes, (m.issuing = true ∨ m.id = l.id) → m = l

/-- Every active lane satisfies c. -/
def Actives (s : State) (c : Lane → Prop) : Prop := ∀ l ∈ s.lanes, l.issuing = true → c l

end Sys2Proof.Claims

/-- R64, R222, R223, R337, R450: MFS of a register that the level may read writes its value to v[d], or to the pair for a 64-bit register,
and the machine keeps all else; a read of %chron is the one that the chronometer remembers (R281), one of %fflags waits for the flags of the group's
MXRD results (R40). -/
def Sys2Proof.Claims.SystemRegisterReads : Prop :=
  (∀ (d : VReg) (r : BitVec 12) (s : State), Legal s (.mfs d r) → r ≠ 0x014 → r ≠ 0x010 → Actives s (fun l => sysMfsOk r.toNat l.sup = true) →
    exec (.mfs d r) s = .next (mapActive s fun l =>
      (if sysWide r.toNat then l.setPair d (s.readSys l r.toNat) else l.setV d ((s.readSys l r.toNat).setWidth 32)).adv 4)) ∧
  (∀ (d : VReg) (s : State), Legal s (.mfs d 0x010) → exec (.mfs d 0x010) s = .next (mapActive s fun l =>
    if s.flagsDue l then l.stall else (l.setV d ((s.group? l.id).elim 0 fun g => g.fflags.setWidth 32)).adv 4)) ∧
  (∀ (s : State) (l : Lane), s.flagsDue l = true ↔ ∃ m ∈ s.lanes, m.id.tid = l.id.tid ∧ m.id.grp = l.id.grp ∧ ∃ x ∈ m.deferred,
    (∃ a f t, x.instr = .mxrd a f t) ∧ ∃ n, x.wait = .engine n) ∧
  (∀ (d : VReg) (s : State) (l : Lane), Legal s (.mfs d 0x014) → s.lead = some l →
    exec (.mfs d 0x014) s = .next (mapActive (s.readChron l.part).2 fun m =>
      (m.setPair d (BitVec.ofNat 64 ((s.readChron l.part).2.chron m.part))).adv 4)) ∧
  (∀ (d : VReg) (s : State) (l : Lane), Legal s (.clk d) → s.lead = some l →
    exec (.clk d) s = .next (mapActive (s.readChron l.part).2 fun m => (m.setPair d (BitVec.ofNat 64 (s.readChron l.part).1)).adv 4)) ∧
  (∀ (s : State) (l : Lane), s.readSys l 0x000 = BitVec.ofNat 64 l.id.slot ∧ s.readSys l 0x001 = BitVec.ofNat 64 l.id.grp ∧
    s.readSys l 0x003 = (match l.role with | .con => 0 | .pro => 1) ∧ s.readSys l 0x00B = BitVec.ofNat 64 l.gid ∧
    s.readSys l 0x00D = BitVec.ofNat 64 (l.depth * 16 + bit l.dm * 4 + bit l.ss * 2 + bit l.sup) ∧
    s.readSys l 0x010 = ((s.group? l.id).elim 0 (·.fflags)).setWidth 64 ∧ s.readSys l 0x011 = 0 ∧ s.readSys l 0x012 = 0 ∧
    s.readSys l 0x013 = (s.part l.part).fixno ∧ s.readSys l 0x100 = l.ssw.setWidth 64 ∧ s.readSys l 0x101 = l.epc ∧
    s.readSys l 0x102 = l.fpc ∧ s.readSys l 0x103 = l.tval ∧ s.readSys l 0x104 = (s.part l.part).tvec ∧
    s.readSys l 0x105 = ((s.group? l.id).elim 0 (·.dbgctl)).setWidth 64 ∧
    (∀ k < 4, s.readSys l (0x108 + k) = tget 0 k (s.part l.part).brk) ∧ s.readSys l 0x111 = l.ctxsel.setWidth 64 ∧
    s.readSys l 0x115 = 0 ∧ (∀ k < 8, s.readSys l (0x020 + k) = (recSlot (s.laneRec l) k).setWidth 64)) ∧
  ∀ (c : Chron) (t t' : Nat), c.now t ≤ { c with last := c.now t }.now t'

/-- R223, R337, R450, R228: an access above the lane's level, or an MTS where there is none, traps with PRIV, AUX 1 and the register's number;
TRET at user level with PRIV, AUX 0. Nothing else of the word happens. -/
def Sys2Proof.Claims.PrivilegeTraps : Prop :=
  ∀ (s : State) (l : Lane), Sole s l →
    (∀ (d : VReg) (r : BitVec 12), Legal s (.mfs d r) → sysMfsOk r.toNat l.sup = false →
      exec (.mfs d r) s = .next (s.raise l (l.causeHere 0x02 1 (r.setWidth 64)))) ∧
    (∀ (d : VReg) (r : BitVec 12), Legal s (.mts d r) → sysMtsOk r.toNat l.sup = false →
      exec (.mts d r) s = .next (s.raise l (l.causeHere 0x02 1 (r.setWidth 64)))) ∧
    (Legal s .tret → l.deferred = [] → l.sup = false → exec .tret s = .next (s.raise l (l.causeHere 0x02 0 0))) ∧
    (∀ r, 0x100 ≤ r → r < 0x200 → sysMfsOk r false = false ∧ sysMtsOk r false = false) ∧
    ∀ r ∈ [0x000, 0x00B, 0x00D, 0x013, 0x014, 0x020, 0x220], sysMtsOk r true = false

/-- R338, R450, R451, R40: MTS. A register of the lane is written in each lane from its own v[d]; one held per group or wider takes the value of the
lowest active lane, %fflags with the flags that the group's words raise in the cycle. -/
def Sys2Proof.Claims.SystemRegisterWrites : Prop :=
  ∀ (d : VReg) (s : State) (l : Lane), s.lead = some l →
    (Legal s (.mts d 0x100) → Actives s (fun l => l.sup = true) →
      exec (.mts d 0x100) s = .next (mapActive s fun m => { m with ssw := m.getV d }.adv 4)) ∧
    (Legal s (.mts d 0x101) → Actives s (fun l => l.sup = true) →
      exec (.mts d 0x101) s = .next (mapActive s fun m => { m with epc := m.pair d }.adv 4)) ∧
    (Legal s (.mts d 0x111) → Actives s (fun l => l.sup = true) →
      exec (.mts d 0x111) s = .next (mapActive s fun m => { m with ctxsel := m.getV d &&& 0x7F }.adv 4)) ∧
    (Legal s (.mts d 0x010) → exec (.mts d 0x010) s = .next (mapActive
      (s.activeGroups.foldl (fun t g => t.modGroup g.1 g.2 fun x => { x with fflags := (l.getV d).setWidth 5 ||| s.raisedIn g.1 g.2 }) s) fun m => m.adv 4)) ∧
    (Legal s (.mts d 0x012) → exec (.mts d 0x012) s = .next (mapActive (s.modPart l.part fun x => x.trigger 4) fun m => m.adv 4)) ∧
    (∀ k : Fin 4, Legal s (.mts d (0x108 + BitVec.ofNat 12 k.val)) → Actives s (fun l => l.sup = true) →
      exec (.mts d (0x108 + BitVec.ofNat 12 k.val)) s = .next (mapActive
        (s.modPart l.part fun x => { x with brk := tset k.val (l.pair d &&& 0x81FFFFFFFFFFFFFF) x.brk }) fun m => m.adv 4)) ∧
    (Legal s (.mts d 0x113) → Actives s (fun l => l.sup = true) → exec (.mts d 0x113) s = .next (mapActive
      (if (l.getV d).toNat ≤ 6 then s.modPart l.part fun x => { x with lease := (l.getV d).toNat } else s) fun m => m.adv 4)) ∧
    (Legal s (.mts d 0x116) → Actives s (fun l => l.sup = true) → exec (.mts d 0x116) s = .next (mapActive
      (if l.getV d = 0 then s else s.modPart l.part fun x => { x with colltmo := (l.getV d).toNat }) fun m => m.adv 4)) ∧
    (Legal s (.mts d 0x104) → Actives s (fun l => l.sup = true) → l.pair d = 0 → exec (.mts d 0x104) s = .next (mapActive
      (s.modPart l.part fun x => { x with tvec := 0, tvecMap := [], tvecSize := 0 }) fun m => m.adv 4))

/-- Together: PrivilegeTraps, SystemRegisterWrites. -/
def Obligations.PrivilegeAndSystemWrites : Prop := Claims.PrivilegeTraps ∧ Claims.SystemRegisterWrites

/-- R104, R474: a lane is launched with its counter at 1; RND writes the low or the high half of a draw and steps the lane's counter. -/
def Sys2Proof.Claims.RandomDraws : Prop :=
  ∃ draw : DWord → DWord → DWord → DWord,
    (∀ seed gid c : DWord, draw seed gid c =
      let z0 := (seed ^^^ (gid * 0xD1B54A32D192ED03)) + c * 0x9E3779B97F4A7C15
      let z1 := (z0 ^^^ (z0 >>> 30)) * 0xBF58476D1CE4E5B9
      let z2 := (z1 ^^^ (z1 >>> 27)) * 0x94D049BB133111EB
      z2 ^^^ (z2 >>> 31)) ∧
    (∀ (s : State) (p c : Nat) (L : Launch), ∀ l ∈ (s.placeTeam p L c).lanes, l ∈ s.lanes ∨ l.rnd = 1) ∧
    ∀ (d : VReg) (s : State), (Legal s (.rndLo d) → exec (.rndLo d) s = .next (mapActive s fun l =>
        ({ l with rnd := l.rnd + 1 }.setV d ((draw (BitVec.ofNat 64 (recSeed (s.laneRec l))) (BitVec.ofNat 64 l.gid) l.rnd).setWidth 32)).adv 4)) ∧
      (Legal s (.rndHi d) → exec (.rndHi d) s = .next (mapActive s fun l =>
        ({ l with rnd := l.rnd + 1 }.setV d ((draw (BitVec.ofNat 64 (recSeed (s.laneRec l))) (BitVec.ofNat 64 l.gid) l.rnd >>> 32).setWidth 32)).adv 4))


/-- Together: SystemRegisterReads, RandomDraws. -/
def Obligations.SystemRegisterReadsAndDraws : Prop := Claims.SystemRegisterReads ∧ Claims.RandomDraws

/-! ## Control -/

namespace Sys2Proof.Claims

/-- Each active lane goes to its target, or past the word where it has none, and `link` acts in the lanes that go; a target outside the
lane's code object raises ILLEGAL with AUX 2 and leaves the PC (R313). A BRANCH record is made first where a trace asks for it (R270). -/
def Transfers (i : Instr) (dest : State → Lane → Option DWord) (link : State → Lane → Lane) : Prop :=
  ∀ s, Legal s i → exec i s = .next (eachActive (s.branchRecord (dest s)) fun s l =>
    match dest s l with
    | none => s.setLane (l.adv 4)
    | some t => if s.packetOf l t.toNat then s.setLane { link s l with pc := t } else s.raise l (l.causeHere 0x01 2 0))

/-- The active lanes have no deferred instruction outstanding. -/
def Settled (s : State) : Prop := Actives s fun l => l.deferred = []
/-- No active lane has an ordered atomic that waits for its turn (R356). -/
def Unheld (s : State) : Prop := Actives s fun l => s.holdsAtom l = false
/-- Every access of the active lanes has been performed (R180). -/
def Performed (s : State) : Prop := Actives s fun l => s.outstanding l = false
/-- The machine with the active lanes at a marker: the results written before it stand (R80). -/
def landing (s : State) : State := mapActive s Lane.landed

/-- As `Each`, for a word that behaves as marked: where the active lanes have nothing outstanding (R79). -/
def EachSettled (i : Instr) (spec : State → Lane → State → Prop) : Prop :=
  ∃ act : State → Lane → State,
    (∀ s, Legal s i → Settled s → exec i s = .next (eachActive (landing s) act)) ∧ ∀ s l, spec s l (act s l)
/-- The same for a word that is also a release: the lanes' ordered atomics have had their turns as well (R180). -/
def EachArrived (i : Instr) (spec : State → Lane → State → Prop) : Prop :=
  ∃ act : State → Lane → State,
    (∀ s, Legal s i → Settled s → Unheld s → exec i s = .next (eachActive (landing s) act)) ∧ ∀ s l, spec s l (act s l)
/-- As `Each`, for a word that is a release and does not behave as marked: where the lanes' accesses have been performed. -/
def EachReleased (i : Instr) (spec : State → Lane → State → Prop) : Prop :=
  ∃ act : State → Lane → State,
    (∀ s, Legal s i → Performed s → exec i s = .next (eachActive s act)) ∧ ∀ s l, spec s l (act s l)

end Sys2Proof.Claims

/-- R312, R313, R362, R365, R366, R463, R473: NOP; BRA to P + 12 x disp18 where its condition holds; CALL writes the next packet's address to
the link pair; RET and BRX go to a pair. A branch hinted uniform that the active lanes of a group do not follow together counts one HINT_MISS (R318). -/
def Obligations.ControlTransfers : Prop :=
  Lanewise .nop (fun l => l.adv 4) ∧
  ∀ (h : Hint) (p : PReg) (n : Bool) (d : BitVec 18) (a : VReg),
    (h ≠ .uniform → Transfers (.bra h p n d)
      (fun s l => if l.getP p != n then some (BitVec.ofNat 64 (s.packetBase l) + BitVec.ofInt 64 (12 * d.toInt)) else none) fun _ l => l) ∧
    (∀ s l, Legal s (.bra .uniform p n d) → s.lead = some l →
      (∃ a ∈ s.actives, ∃ b ∈ s.actives, a.id.grp = b.id.grp ∧ a.getP p ≠ n ∧ b.getP p = n) →
      exec (.bra .uniform p n d) s = exec (.bra .none p n d) (s.countLane l 0x07 1)) ∧
    (∀ s, Legal s (.bra .uniform p n d) → (∀ a ∈ s.actives, ∀ b ∈ s.actives, a.id.grp = b.id.grp → (a.getP p = n ↔ b.getP p = n)) →
      exec (.bra .uniform p n d) s = exec (.bra .none p n d) s) ∧
    Transfers (.call a d) (fun s l => some (BitVec.ofNat 64 (s.packetBase l) + BitVec.ofInt 64 (12 * d.toInt)))
      (fun s l => l.setPair a (BitVec.ofNat 64 (s.packetBase l) + 12)) ∧
    Transfers (.ret a) (fun _ l => some (l.pair a)) (fun _ l => l) ∧
    Transfers (.brx a) (fun _ l => some (l.pair a)) (fun _ l => l)

/-- R391, R417, R496, R94: EXIT ends the lane, which counts as arrived at every barrier, and retires a group all of whose lanes have exited;
a data error that a transfer left is taken first, and a gather or tile load of the lane that still runs and its ordered atomics that wait for
their turn are waited for (the model's reading, log entries 51 and 52). YIELD makes a D-mode group yielded; otherwise the lane counts as ready from the next
formation point. -/
def Sys2Proof.Claims.ExitAndYield : Prop :=
  EachSettled .exit (fun s l t =>
    (∀ e, l.errs.find? (fun e => e.2.1 == 0x07) = some e →
      t = s.raise { l with errs := l.errs.filter (· != e) } (l.causeHere 0x07 e.2.2.1 e.2.2.2)) ∧
    (l.errs.find? (fun e => e.2.1 == 0x07) = none →
      (s.holdsAtom l = true ∨ ∃ x ∈ s.xfers, x.lane = l.id ∧ (x.gather = true ∨ ∃ n, x.tile = some (n, true))) → t = s.setLane l.stall) ∧
    (l.errs.find? (fun e => e.2.1 == 0x07) = none → s.holdsAtom l = false →
      (∀ x ∈ s.xfers, x.lane = l.id → x.gather = false ∧ ∀ n, x.tile ≠ some (n, true)) →
      let s1 := s.setLane { l with park := .exited, bundle := none, issuing := false, pc := l.pc + 4 }
      t = ((if s1.lanes.all fun m => !(m.id.tid == l.id.tid && m.id.grp == l.id.grp) || m.park == .exited then
          s1.modGroup l.id.tid l.id.grp fun g => { g with retired := true }
        else s1) : State).completeAll l)) ∧
  (∀ s, Legal s .yield → Settled s → Actives s (fun l => l.dm = false) →
    exec .yield s = .next (mapActive (landing s) fun l => { l.adv 4 with since := (s.cycle / 4 + 1) * 4 })) ∧
  ∀ s, Legal s .yield → Settled s → Actives s (fun l => l.dm = true) →
    exec .yield s = .next (mapActive
      (eachActive (landing s) fun s l => s.modGroup l.id.tid l.id.grp fun g => { g with yielded := true }) fun l => l.adv 4)

/-- R79, R180, R225, R391, R410: a word that behaves as marked and finds deferred instructions outstanding in its lanes does not act: the lanes
park at the marker before it, and issue it again when their results are written and their faults raised; for BAR, BARW, CBAR, GBAR, WAITPH and
YIELD that is the model's reading (log entry 30). A word that is a release and no marker, BARA or CVSIGN, is issued again while accesses of its lanes
are still to be performed, and takes the faults of such accesses first: the model's choice (log entry 54). -/
def Sys2Proof.Claims.MarkerWordsWait : Prop :=
  ∀ (s : State) (m b : Fin 4) (p : PReg) (a : VReg) (n : Fin 8) (j : BitVec 16) (e : Scope) (o : Order) (v : Fin 16),
    (Actives s (fun l => l.deferred ≠ []) →
      ∀ i ∈ [.bar m b, .barw b, .cbar, .gbar, .waitph p a n, .exit, .yield, .trap j, .tret, .fence e o],
        Legal s i → exec i s = .next (mapActive s fun l => { l.stall with marker := true })) ∧
    (Settled s → Actives s (fun l => s.holdsAtom l = true) → ∀ i ∈ [.bar m b, .cbar, .gbar],
      Legal s i → exec i s = .next (mapActive s fun l => l.landed.stall)) ∧
    (Actives s (fun l => s.outstanding l = true) → ∀ i ∈ [.bara a m b, .cvsign v, .cvsignW v],
      Legal s i → exec i s = .next (mapActive s fun l => { l.stall with marker := l.marker || l.deferred.any Deferred.faulted }))

/-- Together: ExitAndYield, MarkerWordsWait. -/
def Obligations.ExitYieldAndMarkers : Prop := Claims.ExitAndYield ∧ Claims.MarkerWordsWait

/-- R226, R227, R236 to R239, R276: trap entry. The lane's status is saved in %ssw, %epc, %fpc and %tval are written, the level rises, the depth
grows by one, SS clears, and the lane goes to the first packet of the %tvec object; at depth 15 or without a handler the partition halts
with DEPTH or NOHANDLER and the cause as AUX. Entry waits for the lane's outstanding deferred results. -/
def Obligations.TrapEntrySavesState : Prop :=
  ∀ (s : State) (l : Lane) (t : TrapReq),
    (l.deferred = [] → s.raise l t = s.trapEntry l t) ∧
    (l.deferred ≠ [] → s.raise l t = s.setLane { l with trap := some t, bundle := none, issuing := false, skipped := l.issuing }) ∧
    (∀ id, s.lane? id = some l → l.trap = some t → l.deferred = [] → exec (.trapEntry id) s = .next (s.trapEntry l t)) ∧
    (l.depth < 15 → (s.part l.part).tvec ≠ 0 →
      ∃ l' : Lane, s.trapEntry l t = (let u := (s.setLane l').modLaunch l.part l.seq fun L => { L with handler := true }
          if t.cause = 0x10 then u.modPart l.part fun x => x.trigger 2 else u) ∧
        l'.ssw = BitVec.ofNat 32 (t.cause * 2 ^ 24 + t.aux % 256 * 2 ^ 16 + l.depth * 2 ^ 4 + bit t.rpl * 8 + bit l.dm * 4 + bit l.ss * 2 + bit l.sup) ∧
        l'.epc = t.epc ∧ l'.fpc = t.fpc ∧ l'.tval = t.tval ∧ l'.depth = l.depth + 1 ∧ l'.sup = true ∧ l'.ss = false ∧
        l'.pc = (s.part l.part).tvec + 64 ∧ l'.obj = .handler ∧ l'.issuing = false ∧ l'.id = l.id ∧ l'.v = l.landed.v ∧ l'.p = l.p ∧
        l'.k = l.landed.k ∧ l'.dm = l.dm ∧ l'.rnd = l.rnd ∧ l'.ctxsel = l.ctxsel ∧ l'.replay = l.replay ∧ l'.since = s.cycle + 1 ∧
        l'.skipped = l.issuing) ∧
    (let who : HaltWho := { launch := l.seq, team := (s.team? l.id.tid).elim 0 (·.index), quarter := l.quarter, group := l.id.grp,
                            lanes := 2 ^ l.id.slot, pc := t.fpc.toNat }
     (l.depth = 15 → ∃ l' : Lane, l'.id = l.id ∧ l'.issuing = false ∧ s.trapEntry l t = (s.setLane l').halt l.part 0x22 t.cause (some who)) ∧
     (l.depth < 15 → (s.part l.part).tvec = 0 →
       ∃ l' : Lane, l'.id = l.id ∧ l'.issuing = false ∧ s.trapEntry l t = (s.setLane l').halt l.part 0x21 t.cause (some who))) ∧
    ∀ p c a q, let u := s.halt p c a q
      (s.serving p = false → u = s) ∧
      (s.serving p = true → u.part p = { s.part p with halting := true, haltCause := some (c, a), haltWho := q, unitsLeft := (s.part p).units } ∧
        u.serving p = false ∧ u.teams = s.teams ∧ u.mem = s.mem ∧
        u.lanes = s.lanes.map fun l => if l.part = p then { l with issuing := false, bundle := none } else l)

/-- R490, R361, R243: TRAP raises SOFT with its code, resuming at the next word; BKPT raises a BKPT trap at the word, or where the group's QSTOP is
set goes on and stops the quarter, which freezes its lanes at the end of the packet. -/
def Sys2Proof.Claims.SoftTrapAndBreakpoint : Prop :=
  (∀ (j : BitVec 16) (s : State), Legal s (.trap j) → Settled s → exec (.trap j) s = .next (eachActive (landing s) fun s l =>
    s.raise l { cause := 0x0F, aux := j.toNat % 256, tval := j.setWidth 64, fpc := l.pc, epc := l.pc + 4, rpl := false })) ∧
  Each .bkpt (fun s l t =>
    ((s.group? l.id).elim false (·.dbgctl.getLsbD 2) = false →
      t = s.raise l { cause := 0x10, aux := 0, tval := l.pc, fpc := l.pc, epc := l.pc, rpl := false }) ∧
    ((s.group? l.id).elim false (·.dbgctl.getLsbD 2) = true →
      t = (s.setLane (l.adv 4)).quarterStop l)) ∧
  ∀ (s : State) (l : Lane), (s.quarterStop l).isFrozen l.quarter = true ∧ ((s.quarterStop l).part l.part).fixPend.isSome = true ∧
    ∀ m, s.isFrozen m.quarter = true → s.slotOf m = 0 → s.ready m = false

/-- R228, R491: TRET. From a lane at supervisor level and depth 1 or more whose %ssw names its own DM and the next lower depth, with the
reserved bits clear, and whose %epc is a word to resume at: level, step flag and depth are restored and the lane goes to %epc; RPL is answered
from the replay slot; faulting instructions that the trap left are outstanding again (log entry 33); otherwise nothing is restored and TRET traps. What
RPL does with an empty slot, that RPL = 0 drops the slot's instruction, and that a word of the packet which TRET cannot fetch is met as one of
its own, are the model's choices (log entry 36). Lanes that the group held become ready in the next cycle (R242). -/
def Sys2Proof.Claims.TrapReturnRestoresState : Prop :=
  (∀ s s0 : State, (∀ l ∈ s.lanes, (s0.lane? l.id).elim false s0.frzHeld = false) → s.thaw s0 = s) ∧
  (∀ (s : State) (l : Lane) (a : Nat), let o := s.objOf l
    ((a < o.1 ∨ o.1 + o.2 ≤ a ∨ (a - o.1) % 4 ≠ 0) → s.resumable l a = (s, .inl false)) ∧
    (o.1 ≤ a → a < o.1 + o.2 → (a - o.1) % 12 = 0 → s.resumable l a = (s, .inl true)) ∧
    (o.1 ≤ a → a < o.1 + o.2 → (a - o.1) % 12 = 4 → ∀ u bs, s.fetch l (a - 4) = (u, .data bs) → s.resumable l a = (u, .inl (!isTwoWord (leNat bs))))) ∧
  (∃ act : State → Lane → State,
    (∀ s, Legal s .tret → Settled s → exec .tret s = .next ((eachActive (landing s) act).thaw (landing s))) ∧ ∀ s l, (fun s l t =>
    (l.sup = true → l.depth = 0 → t = s.raise l (l.causeHere 0x01 4 0)) ∧
    (l.sup = true → l.depth ≠ 0 →
      (fld l.ssw.toNat 8 8 ≠ 0 ∨ l.ssw.getLsbD 2 ≠ l.dm ∨ fld l.ssw.toNat 4 4 ≠ l.depth - 1 ∨ (l.ssw.getLsbD 0 = false ∧ fld l.ssw.toNat 4 4 ≠ 0)) →
      t = s.raise l (l.causeHere 0x03 0 (l.ssw.setWidth 64))) ∧
    (l.sup = true → l.depth ≠ 0 → fld l.ssw.toNat 8 8 = 0 → l.ssw.getLsbD 2 = l.dm → fld l.ssw.toNat 4 4 = l.depth - 1 →
      (l.ssw.getLsbD 0 = true ∨ fld l.ssw.toNat 4 4 = 0) →
      ∃ back : Lane, back.sup = l.ssw.getLsbD 0 ∧ back.ss = l.ssw.getLsbD 1 ∧ back.depth = l.depth - 1 ∧ back.pc = l.epc ∧
        back.obj = (if l.depth = 1 then .launched else .handler) ∧ back.id = l.id ∧ back.v = l.v ∧ back.p = l.p ∧ back.k = l.k ∧
        back.ssw = l.ssw ∧ back.epc = l.epc ∧ back.fpc = l.fpc ∧ back.tval = l.tval ∧
        (∀ u, s.resumable back l.epc.toNat = (u, .inl false) → t = u.raise l (l.causeHere 0x01 2 0)) ∧
        (∀ u r a, s.resumable back l.epc.toNat = (u, .inr (r, a)) → t = u.laneFetch l r a) ∧
        (∀ u, s.resumable back l.epc.toNat = (u, .inl true) → (l.ssw.getLsbD 3 = false ∨ l.replay = none) →
          t = u.setLane { back with replay := none }) ∧
        (∀ u, s.resumable back l.epc.toNat = (u, .inl true) → l.ssw.getLsbD 3 = true → ∀ d, l.replay = some d → d.wait = .ready →
          t = u.setLane { back.writeBack d allTake with replay := none }) ∧
        (l.later = [] → back.deferred = l.deferred ∧ back.marker = l.marker) ∧
        ∀ r, l.later = [(l.depth - 1, r)] → back.deferred = r ∧ back.marker = true)) s l (act s l))


/-- Together: SoftTrapAndBreakpoint, TrapReturnRestoresState. -/
def Obligations.SoftTrapsAndTrapReturn : Prop := Claims.SoftTrapAndBreakpoint ∧ Claims.TrapReturnRestoresState

/-! ## Barriers, events and fences -/

namespace Sys2Proof.Claims

/-- No lane stands at a marker, nor waits for an event behind one, owes a step or has a trap or a page fault to take. -/
def Calm (s : State) : Prop := ∀ l ∈ s.lanes, l.marker = false ∧ l.evw = none ∧ l.stepPend = none ∧ l.trap = none ∧ l.pfault = none
/-- A lane without the record of the path that it has taken, which no word reads (R483). -/
def unled (l : Lane) : Lane := { l with way := 0, trail := [] }
/-- The lanes are these, but for the record of their paths: lanes that resume together go on together. -/
def LanesAre (t : State) (ls : List Lane) : Prop := t.lanes.map unled = ls.map unled
/-- A lane whose barrier phase has completed: it has arrived no more, and goes on if it waited for it. -/
def passed (s : State) (key : Nat) (waits : Bool) (l : Lane) : Lane :=
  let m : Lane := { l with arrived := l.arrived.filter (· != key) }
  if waits then { m with park := .ready, since := s.cycle } else m

end Sys2Proof.Claims

/-- R214, R215, R357, R358: BAR and BARA arrive, BARW waits. A mask without the group's own role, or other than the phase's, is BARSTATE; a
second arrival in one phase parks first; the phase rises, its mask clears and its waiters go on once every participating lane has
arrived. -/
def Sys2Proof.Claims.TeamBarriers : Prop :=
  (∀ (m b : Fin 4) (d : VReg),
    let arrives := fun (go : Nat → Lane → Lane) (s : State) (l : Lane) (t : State) =>
      (s.team? l.id.tid = none → t = s) ∧
      ∀ tm, s.team? l.id.tid = some tm →
        (m.val.testBit (match l.role with | .con => 0 | .pro => 1) = false → t = s.raise l (l.causeHere 0x0C b.val 0)) ∧
        (m.val.testBit (match l.role with | .con => 0 | .pro => 1) = true →
          (b.val ∈ l.arrived → t = s.setLane { l with park := .barrier b.val, bundle := none, issuing := false, skipped := true }) ∧
          (b.val ∉ l.arrived → (tm.bar b.val).mask ≠ 0 → (tm.bar b.val).mask ≠ m.val → t = s.raise l (l.causeHere 0x0C b.val 0)) ∧
          (b.val ∉ l.arrived → ((tm.bar b.val).mask = 0 ∨ (tm.bar b.val).mask = m.val) →
            let l1 : Lane := { l with arrived := l.arrived ++ [b.val],
                                      lastArr := (b.val, (tm.bar b.val).phase) :: l.lastArr.filter (fun e => e.1 != b.val) }
            let s1 := (s.modTeam tm.tid fun x => x.setBar b.val { tm.bar b.val with mask := m.val }).setLane ((go (tm.bar b.val).phase l1).adv 4)
            t = match s1.team? tm.tid with
              | some x => s1.completeBar x b.val
              | none => s1))
    EachArrived (.bar m b) (arrives fun _ l => { l with park := .barrier b.val, bundle := none, issuing := false }) ∧
    EachReleased (.bara d m b) (arrives fun ph l => l.setV d (BitVec.ofNat 32 ph)) ∧
    ∀ s, Legal s (.barw b) → Settled s → exec (.barw b) s = .next (mapActive (landing s) fun l =>
      if b.val ∈ l.arrived then { l.adv 4 with park := .barrier b.val, bundle := none, issuing := false } else l.adv 4)) ∧
  ∀ (s : State) (t : Team) (b : Nat), s.team? t.tid = some t → b < t.bars.length → (t.bar b).mask ≠ 0 →
    let takesPart := fun l : Lane => l.id.tid = t.tid ∧ (t.bar b).mask.testBit (match l.role with | .con => 0 | .pro => 1) = true
    ((∃ l ∈ s.lanes, takesPart l ∧ l.park ≠ .exited ∧ b ∉ l.arrived) → s.completeBar t b = s) ∧
    ((∀ l ∈ s.lanes, takesPart l → l.park = .exited ∨ b ∈ l.arrived) →
      ((s.completeBar t b).team? t.tid).map (fun x => x.bar b) = some { phase := ((t.bar b).phase + 1) % 65536, mask := 0 } ∧
      (Calm s → (s.completeBar t b).mem = s.mem ∧ LanesAre (s.completeBar t b) (s.lanes.map fun l =>
        if l.id.tid = t.tid then passed s b (l.park == .barrier b || (match l.park with | .waitph c _ => c == b | _ => false)) l else l)))

/-- R216, R369: CBAR needs a cooperative launch and parks the lane; the phase of a cluster set rises, its waiters go on and their cores' L1
lines are theirs no more once every lane of the set's teams has arrived and none of those teams is saved. -/
def Sys2Proof.Claims.ClusterBarrier : Prop :=
  EachArrived .cbar (fun s l t =>
    (s.coop l = false → t = s.raise l (l.causeHere 0x01 0 0)) ∧
    (s.coop l = true → 4 ∈ l.arrived → t = s.setLane { l with park := .cbar, bundle := none, issuing := false, skipped := true }) ∧
    (s.coop l = true → 4 ∉ l.arrived →
      t = (s.setLane { l.adv 4 with arrived := l.arrived ++ [4], park := .cbar, bundle := none, issuing := false }).completeCbar l.part l.seq
        (s.setOf l))) ∧
  ∀ (s : State) (p seq c : Nat), let mine := fun l : Lane => l.part = p ∧ l.seq = seq ∧ s.setOf l = c
    ((∃ l ∈ s.lanes, mine l ∧ l.park ≠ .exited ∧ 4 ∉ l.arrived) → s.completeCbar p seq c = s) ∧
    ∀ L, s.launch? p seq = some L →
      ((∃ v ∈ L.restore, v.team.set = c) → s.completeCbar p seq c = s) ∧
      ((∀ v ∈ L.restore, v.team.set ≠ c) → (∃ l ∈ s.lanes, mine l ∧ 4 ∈ l.arrived) → (∀ l ∈ s.lanes, mine l → l.park = .exited ∨ 4 ∈ l.arrived) →
        Calm s → let t := s.completeCbar p seq c
          t.launch? p seq = some { L with cphase := tset c ((tget 0 c L.cphase + 1) % 65536) L.cphase } ∧ t.mem = s.mem ∧ t.teams = s.teams ∧
          LanesAre t (s.lanes.map fun l => if l.part = p ∧ l.seq = seq ∧ s.setOf l = c then passed s 4 (l.park == .cbar) l else l) ∧
          ∀ l ∈ s.lanes, mine l → l.park = .cbar → ∀ x ∈ (t.cluster l.cluster).l1, x.mask.getLsbD l.core = false)

/-- R217, R410 to R412: GBAR needs a cooperative launch and parks the lane; the phase of the grid rises and its waiters go on once every team
has been placed, none is saved and every lane has arrived. -/
def Sys2Proof.Claims.GridBarrier : Prop :=
  EachArrived .gbar (fun s l t =>
    (s.coop l = false → t = s.raise l (l.causeHere 0x01 0 0)) ∧
    (s.coop l = true → 5 ∈ l.arrived → t = s.setLane { l with park := .gbar, bundle := none, issuing := false, skipped := true }) ∧
    (s.coop l = true → 5 ∉ l.arrived →
      t = (s.setLane { l.adv 4 with arrived := l.arrived ++ [5], park := .gbar, bundle := none, issuing := false }).completeGbar l.part l.seq)) ∧
  ∀ (s : State) (p seq : Nat), let mine := fun l : Lane => l.part = p ∧ l.seq = seq
    ((∃ l ∈ s.lanes, mine l ∧ l.park ≠ .exited ∧ 5 ∉ l.arrived) → s.completeGbar p seq = s) ∧
    (s.launch? p seq = none → s.completeGbar p seq = s) ∧
    ∀ L, s.launch? p seq = some L →
      (L.placed ≠ recTeams L.lrec ∨ L.restore ≠ [] → s.completeGbar p seq = s) ∧
      (L.placed = recTeams L.lrec → L.restore = [] → (∃ l ∈ s.lanes, mine l ∧ 5 ∈ l.arrived) →
        (∀ l ∈ s.lanes, mine l → l.park = .exited ∨ 5 ∈ l.arrived) → Calm s → let t := s.completeGbar p seq
          t.launch? p seq = some { L with gphase := (L.gphase + 1) % 65536 } ∧ t.mem = s.mem ∧ t.teams = s.teams ∧
          LanesAre t (s.lanes.map fun l => if l.part = p ∧ l.seq = seq then
            passed s 5 (l.park == .gbar || (match l.park with | .waitph k _ => k == 4 | _ => false)) l else l))

/-- R494: WAITPH compares the low 16 bits of v[a] with the phase of a team barrier, or of the grid barrier (4): age 0 parks the lane, age 2 or
more is STALE in the predicate. -/
def Sys2Proof.Claims.PhaseTokens : Prop :=
  ∀ (p : PReg) (a : VReg) (b : Fin 8), EachSettled (.waitph p a b) (fun s l t =>
    (b.val = 4 → s.coop l = false → t = s.raise l (l.causeHere 0x01 0 0)) ∧
    ((b.val ≠ 4 ∨ s.coop l = true) → ∀ ph age,
      ph = (if b.val = 4 then (s.launch? l.part l.seq).elim 0 (·.gphase) else (s.team? l.id.tid).elim 0 fun t => (t.bar b.val).phase) →
      age = (ph + 65536 - (l.getV a).toNat % 65536) % 65536 →
      (age = 0 → t = s.setLane { (l.setP p false).adv 4 with park := .waitph b.val ((l.getV a).toNat % 65536), bundle := none, issuing := false }) ∧
      (age ≠ 0 → t = (s.setLane ((l.setP p (decide (2 ≤ age))).adv 4)).acquire l (if b.val = 4 then .device else .team))))

/-- Together: TeamBarriers, ClusterBarrier, GridBarrier, PhaseTokens. -/
def Obligations.Barriers : Prop := Claims.TeamBarriers ∧ Claims.ClusterBarrier ∧ Claims.GridBarrier ∧ Claims.PhaseTokens

/-- R204, R388 to R390, R180: EVSIG never parks: each active lane goes on, and its amount is added to its event, modulo 2^32, which lets the lanes go
whose target it reaches; where accesses of the lane before it are still to be performed, the addition comes after them, and after those of its
EVSIGs that wait already. EVWAIT tests its event as it issues: it goes on, acquiring, if the event has reached the target in the circle of 2^32; else it
parks, behind the marker if results of the lane are outstanding (log entry 30). -/
def Sys2Proof.Claims.Events : Prop :=
  (∀ (a b : VReg), ∃ act : State → Lane → State,
    (∀ s, Legal s (.evsig a b) → exec (.evsig a b) s = .next (eachActive (mapActive s fun l => l.adv 4) act)) ∧
    ∀ s l, ((s.boundOf l).free = true → l.rels = [] → act s l = s.bumpEvent l.part ((l.getV a).toNat % 256) (l.getV b)) ∧
      (((s.boundOf l).free = false ∨ l.rels ≠ []) →
        act s l = s.setLane { l with rels := l.rels ++ [{ after := s.boundOf l, event := (l.getV a).toNat % 256, amount := l.getV b }] })) ∧
  (∀ (s : State) (l : Lane), (s.boundOf l).free = true ↔ s.holdsAtom l = false ∧ (∀ r ∈ s.peers, r.lane = some l.id → r.n ≠ none) ∧
    ∀ d ∈ l.deferred ++ l.replay.toList ++ l.later.flatMap (·.2), d.unperformed = false) ∧
  (∀ (s : State) (l : Lane) (r : Rel) (rest : List Rel), l.rels = r :: rest → s.passed l.id r.after = false →
    s.doRels l = s) ∧
  (∀ (s : State) (l : Lane) (r : Rel), l.rels = [r] → s.passed l.id r.after = true →
    s.doRels l = (s.modLane l.id fun m => { m with rels := m.rels.drop 1 }).bumpEvent l.part r.event r.amount) ∧
  (∀ (s : State) (p e : Nat) (n : Word), e < 256 → let v := tget 0 e (s.part p).ev + n
    ((∀ l ∈ s.lanes, l.part = p → l.evw = none ∧ ∀ m, l.park = .evwait e m → 2 ^ 31 ≤ (v - m).toNat) →
      s.bumpEvent p e n = s.modPart p fun x => { x with ev := tset e (tget 0 e x.ev + n) x.ev }) ∧
    ((∀ l ∈ s.lanes, ∀ x m, l.park ≠ .evwait x m) → (s.bumpEvent p e n).lanes = s.lanes.map fun l =>
      match l.evw with
      | some x => if l.part = p ∧ x.1 = e ∧ (v - x.2).toNat < 2 ^ 31 then { l with evw := none } else l
      | none => l) ∧
    (Calm s → let t := s.bumpEvent p e n
      tget 0 e (t.part p).ev = v ∧ t.mem = s.mem ∧ t.teams = s.teams ∧ t.lanes = s.lanes.map fun l =>
        match l.park with
        | .evwait x m => if l.part = p ∧ x = e ∧ (v - m).toNat < 2 ^ 31 then { l with park := .ready, since := s.cycle } else l
        | _ => l)) ∧
  ∀ a b : VReg, Each (.evwait a b) (fun s l t =>
    ((tget 0 ((l.getV a).toNat % 256) (s.part l.part).ev - l.getV b).toNat < 2 ^ 31 → t = (s.setLane (l.adv 4)).acquire l .device) ∧
    (2 ^ 31 ≤ (tget 0 ((l.getV a).toNat % 256) (s.part l.part).ev - l.getV b).toNat →
      (l.deferred = [] → t = s.setLane { l.adv 4 with park := .evwait ((l.getV a).toNat % 256) (l.getV b), bundle := none, issuing := false }) ∧
      (l.deferred ≠ [] → t = s.setLane { l.adv 4 with evw := some ((l.getV a).toNat % 256, l.getV b) })))

/-- R118, R180, R407, R408, R386, R387: FENCE, and DRAIN of a copy path. A release waits for the lane's ordered atomics that wait for their turn,
and at system scope for its peer writes; an acquire at cluster scope or wider clears the core's presence bits in its cluster's L1. -/
def Sys2Proof.Claims.FenceAndDrain : Prop :=
  (∀ (e : Scope) (o : Order), EachSettled (.fence e o) (fun s l t =>
    let waits := (o = .rel ∨ o = .ar) ∧ e ≠ .lane ∧ (s.holdsAtom l = true ∨ (e = .system ∧ s.peerStores l = true))
    (waits → t = s.setLane l.stall) ∧
    (¬ waits → e ≠ .system → t = (if o = .acq ∨ o = .ar then s.acquire l e else s).setLane (l.adv 4)) ∧
    (¬ waits → e = .system → t = ((if o = .acq ∨ o = .ar then s.acquire l e else s).capFlush l.part).setLane (l.adv 4)))) ∧
  (∀ p : Path, Each (.drain p) (fun s l t =>
    (s.pathBusy l.cluster l.core p s.nextId = true →
      t = s.setLane { l.adv 4 with park := .drain p s.nextId, bundle := none, issuing := false }) ∧
    (s.pathBusy l.cluster l.core p s.nextId = false → (∀ e ∈ l.errs, e.1 ≠ p) → t = (s.setLane (l.adv 4)).acquire l .device) ∧
    ∀ e, s.pathBusy l.cluster l.core p s.nextId = false → l.errs.find? (fun x => x.1 == p) = some e →
      t = s.raise { l with errs := l.errs.erase e, park := .ready }
        { cause := e.2.1, aux := e.2.2.1, tval := e.2.2.2, fpc := l.pc, epc := l.pc, rpl := false })) ∧
  ∀ (s : State) (l : Lane) (e : Scope),
    (e = .lane ∨ e = .group ∨ e = .team → s.acquire l e = s) ∧
    (e = .cluster ∨ e = .die ∨ e = .device ∨ e = .system →
      ∀ x ∈ ((s.acquire l e).cluster l.cluster).l1, x.mask.getLsbD l.core = false)



/-- Together: Events, FenceAndDrain. -/
def Obligations.EventsAndFences : Prop := Claims.Events ∧ Claims.FenceAndDrain

/-! ## Convergence registers and the matrix engine -/

namespace Sys2Proof.Claims

/-- The state word of a convergence register, field by field (R83). -/
def CvWord (w : Word) (gen armed : Bool) (action qheld count signed : Nat) : Prop :=
  w.getLsbD 31 = gen ∧ w.getLsbD 30 = armed ∧ fld w.toNat 28 2 = action ∧ fld w.toNat 24 4 = qheld ∧ fld w.toNat 11 11 = count ∧ fld w.toNat 0 11 = signed

end Sys2Proof.Claims

/-- R83 to R86, R378, R379: CVDECL arms a register that is not armed, confirms the same declaration while nothing is signed, and raises CVSTATE
otherwise; CVSIGN signs an armed SIGNAL register in each lane, the last signature fires it, and .w waits for that. That CVSTATE is raised before the lane
parks is the model's choice (log entry 35), and so is the wait of a lane whose accesses are still to be performed (log entry 54). -/
def Sys2Proof.Claims.ConvergenceSignatures : Prop :=
  (∀ (v : Fin 16) (t : Fin 4) (k : BitVec 11) (s : State) (l : Lane), Legal s (.cvdecl v t k) → s.lead = some l →
    let w := (s.cvAt l v.val).word
    let good := k ≠ 0 ∧ k.toNat ≤ 1024 ∧ (t = 0 ∨ (t = 1 ∧ k = 128))
    (good → w.getLsbD 30 = false → ∃ w', CvWord w' (w.getLsbD 31) true t.val 0 k.toNat 0 ∧
      exec (.cvdecl v t k) s =
        .next (mapActive (s.setCv l v.val { s.cvAt l v.val with word := w', held := [], form := none }) fun l => l.adv 4)) ∧
    (∀ g q, good → CvWord w g true t.val q k.toNat 0 → exec (.cvdecl v t k) s = .next (mapActive s fun l => l.adv 4)) ∧
    (∀ g a q c n, (¬ good ∨ (CvWord w g true a q c n ∧ (n ≠ 0 ∨ c ≠ k.toNat ∨ a ≠ t.val))) →
      exec (.cvdecl v t k) s = .next (eachActive s fun s l => s.raise l (l.causeHere 0x08 v.val 0)))) ∧
  (∀ (v : Fin 16) (waits : Bool), EachReleased (if waits then .cvsignW v else .cvsign v) fun s l t =>
    let x := s.cvAt l v.val
    ∀ g a act q c n, CvWord x.word g a act q c n →
      ((a = false ∨ act ≠ 0) → t = s.raise l (l.causeHere 0x08 v.val 0)) ∧
      (a = true → act = 0 → n + 1 < c → ∃ w', CvWord w' g true 0 q c (n + 1) ∧
        t = (s.setLane (if waits then { l.adv 4 with park := .conv v.val, bundle := none, issuing := false } else l.adv 4)).setCv l v.val
          { x with word := w' }) ∧
      (a = true → act = 0 → n + 1 = c → ∃ w', CvWord w' (!g) false 0 0 c 0 ∧
        t = (((s.setLane (l.adv 4)).setCv l v.val { x with word := w', held := [], form := none }).together fun m =>
            (m.id.tid == l.id.tid && m.park == .conv v.val) || (waits && m.id == l.id)).release fun m =>
          m.id.tid == l.id.tid && m.park == .conv v.val)) ∧
  ∀ (s : State) (f : Lane → Bool), LanesAre (s.together f) s.lanes ∧ { s.together f with lanes := s.lanes, nextId := s.nextId } = s

/-- R85, R87, R88, R454 to R461: MXA signs an MXA register in each lane with the operands read there, and its last signature asks for a place in
the reservation table; MXZ, MXRD, MXSP and MXFL ask for one for each group of the bundle, behind the firings that the group has signed. MXRD's
results are deferred; MXSP and MXFL start a tile transfer at a 128-byte aligned address once the group's accesses have been performed; that a
misaligned one raises ALIGN in every lane of the group, and that CVSTATE comes before the park, are the model's choices (log entry 35). -/
def Sys2Proof.Claims.MatrixWords : Prop :=
  (∀ (v : Fin 16) (a b : VReg) (f : Fin 8) (t : Fin 4), Each (.mxa v a b f t) fun s l u =>
    let x := s.cvAt l v.val
    ((cvArmed x.word = false ∨ cvAction x.word ≠ 1 ∨ (∃ y, x.form = some y ∧ y ≠ (t.val, f.val))) → u = s.raise l (l.causeHere 0x08 v.val 0)) ∧
    (cvArmed x.word = true → cvAction x.word = 1 → (x.form = none ∨ x.form = some (t.val, f.val)) →
      ((cvQheld x.word).testBit l.core = true ∨
          (∃ e, x.held.find? (fun e => e.1 == l.core) = some e ∧ (e.2.1 ≠ l.id.grp ∨ ∃ o ∈ e.2.2, o.slot = l.id.slot)) →
        u = s.setLane { l with park := .mxaWait v.val, bundle := none, issuing := false, skipped := true }) ∧
      ((cvQheld x.word).testBit l.core = false →
        (∀ e ∈ x.held, e.1 = l.core → e.2.1 = l.id.grp ∧ ∀ o ∈ e.2.2, o.slot ≠ l.id.slot) →
        let w := s.laneSlot l f
        let o : Operand :=
          { slot := l.id.slot, a := l.vs a (aRegs w) ++ (if slotMx w then [l.v! (a.val + 8)] else []),
            b := l.vs b 8 ++ (if slotMx w then [l.v! (b.val + 8)] else []) }
        let held := addHeld x.held l.core l.id.grp o
        let s1 := s.setLane (l.adv 4)
        let q := if (setMember held l.core).length = 32 then (cvQheld x.word).lor (2 ^ l.core) else cvQheld x.word
        let x' : CvReg := { x with word := cvSign x.word q (cvSigned x.word + 1), held := held, form := some (t.val, f.val) }
        (cvSigned x.word + 1 ≠ cvCount x.word → u = s1.setCv l v.val x') ∧
        (cvSigned x.word + 1 = cvCount x.word →
          let s2 := s1.setCv l v.val x'
          u = s2.pushEntry l.cluster (s2.entryOf (s2.teamOf l) t (s2.laneSlot l f) (.pass held) (some v.val) []))))) ∧
  ∀ (s : State) (a : VReg) (f : Fin 8) (t : Fin 4),
    (Legal s (.mxz f t) → exec (.mxz f t) s = .next (mapActive (eachGroup s fun s b _ =>
      s.pushEntry b.cluster (s.entryOf (s.teamOf b) t (s.laneSlot b f) .zero none (s.signedBy (s.teamOf b) b.id.grp))) fun x => x.adv 4)) ∧
    (Legal s (.mxrd a f t) → exec (.mxrd a f t) s = .next
      (eachGroup (mapActive s fun x => if x.room then x else x.stall) fun s b ls =>
        (ls.foldl (fun s x => s.setLane ((x.defer (.mxrd a f t) [] [] [] 0 (.engine 0)).adv 4)) s).pushEntry b.cluster
          (s.entryOf (s.teamOf b) t (s.laneSlot b f) (.read a.val (ls.map fun x => (x.id, x.nextDef))) none (s.signedBy (s.teamOf b) b.id.grp)))) ∧
    ∀ (i : Instr) (fill : Bool), (i = .mxsp a f t ∧ fill = false) ∨ (i = .mxfl a f t ∧ fill = true) → Legal s i →
      exec i s = .next (eachGroup s fun s b ls =>
        let va := b.pair a
        if va.toNat % 128 ≠ 0 then ls.foldl (fun s x => s.raise x (x.causeHere 0x04 7 va)) s
        else if ls.any s.outstanding then ls.foldl (fun s x => s.setLane { x.stall with marker := x.marker || x.deferred.any Deferred.faulted }) s
        else if 32 ≤ (s.xfers.filter fun x => x.cluster == b.cluster && x.core == b.core).length then ls.foldl (fun s x => s.setLane x.stall) s
        else
          let e := s.entryOf (s.teamOf b) t (s.laneSlot b f) (.xfer s.nextId) none (s.signedBy (s.teamOf b) b.id.grp)
          let x : Xfer :=
            { id := s.nextId, lane := b.id, part := b.part, ctx := s.laneCtx b, sup := b.sup, pc := b.pc, cluster := b.cluster,
              core := b.core, gather := false, path := .g2g, tile := some (e.tile, fill), desc := b.vs a 2, scratch := [], peerTid := 0,
              peerScratch := [], done := 0, repeats := 0, fid := none, wait := none, got := [], gath := none, aborted := false }
          let s1 := ls.foldl (fun s x => s.setLane (x.adv 4)) s
          ({ s1 with xfers := s1.xfers ++ [x], nextId := s1.nextId + 1 }).pushEntry b.cluster e)

/-- Together: ConvergenceSignatures, MatrixWords. -/
def Obligations.ConvergenceAndMatrixWords : Prop := Claims.ConvergenceSignatures ∧ Claims.MatrixWords

/-- R56, R85, R205 to R207, R456, R459, R461: an entry enters the table where there is room, its register firing; the engine grants one entry at a
time; a pass adds the exact products of each row and column to each cell of its tile and to no other; MXZ zeroes the tile; MXRD delivers its cells;
a self-test that fails fences an array, and a second fence takes the engine out. -/
def Obligations.MatrixEngine : Prop :=
  (∀ (s : State) (c : Nat) (e : MxEntry), (s.cluster c).table.length < 16 → (s.cluster c).waiting.find? (fun e => e.after.isEmpty) = some e →
    exec (.mxeHeldFiringEnter c) s = .next
      (let s1 := s.modCluster c fun c => { c with waiting := c.waiting.erase e, table := c.table ++ [{ e with age := s.cycle }] }
       match e.cv with
       | some v => s1.fired e.tid v
       | none => s1)) ∧
  (∀ (s : State) (c : Nat), 16 ≤ (s.cluster c).table.length → exec (.mxeHeldFiringEnter c) s = .next s) ∧
  (∀ (s : State) (c : Nat) (e : MxEntry), s.engineStopped c = false → (∀ x ∈ (s.cluster c).table, x.granted = false) →
    grantOf s.cycle (s.cluster c).table = some e →
    exec (.mxeEntryGrant c) s = .next (s.modCluster c fun c => { c with table := c.table.replace e { e with granted := true } })) ∧
  (∀ (cycle : Nat) (t : List MxEntry) (e : MxEntry), grantOf cycle t = some e → e ∈ t ∧
    (∃ i, t[i]? = some e ∧ ∀ o ∈ t.take i, o.tile ≠ e.tile) ∧
    ((∀ o ∈ t, cycle - o.age ≤ 1024) → ∀ o ∈ eligibleEntries t, o.prio ≤ e.prio)) ∧
  (∀ (s : State) (c : Nat) (e : MxEntry), s.engineStopped c = false → (s.cluster c).table.find? (·.granted) = some e →
    (∀ held, e.op = .pass held → ∃ t, exec (.mxeEntryComplete c) s = .next t ∧ (t.cluster c).table = (s.cluster c).table.erase e ∧
      (∀ n < 4096, (t.cluster c).cellN e.tile n =
        dotInto ((s.cluster c).cellN e.tile n) (rowA e.slot held (n / 64)) (colB e.slot held (n % 64))) ∧
      (∀ tile n, n < 4096 → tile ≠ e.tile → (t.cluster c).cellN tile n = (s.cluster c).cellN tile n) ∧
      t.lanes = s.lanes ∧ t.mem = s.mem ∧ t.teams = s.teams) ∧
    (e.op = .zero → ∃ t, exec (.mxeEntryComplete c) s = .next t ∧ (t.cluster c).table = (s.cluster c).table.erase e ∧
      (∀ n < 4096, (t.cluster c).cellN e.tile n = LA0) ∧
      (∀ tile n, n < 4096 → tile ≠ e.tile → (t.cluster c).cellN tile n = (s.cluster c).cellN tile n) ∧ t.lanes = s.lanes ∧ t.mem = s.mem) ∧
    (∀ a id n, e.op = .read a [(id, n)] → ∃ t, exec (.mxeEntryComplete c) s = .next t ∧ (t.cluster c).table = (s.cluster c).table.erase e ∧
      (t.cluster c).cells = (s.cluster c).cells ∧
      t.lanes = s.lanes.map fun l => if l.id = id then
        { l with deferred := l.deferred.map fun d =>
            if d.n = n then
              { d with vdst := ((s.cluster c).readOut e.tile e.slot (id.grp % 4) id.slot).1.mapIdx fun j w => (a + j, w),
                       flags := ((s.cluster c).readOut e.tile e.slot (id.grp % 4) id.slot).2, wait := .ready }
            else d } else l)) ∧
  (∀ (s : State) (c : Nat) (q : Fin 4), (∀ x ∈ (s.cluster c).table, x.granted = false) → (s.cluster c).nextTest ≤ s.cycle →
    (s.cluster c).out = false → ∃ t u : State, exec (.mxeSelftest c none) s = .next t ∧ exec (.mxeSelftest c (some q)) s = .next u ∧
      (t.cluster c).nextTest = s.cycle + 2 ^ 20 ∧ (t.cluster c).fenced = (s.cluster c).fenced ∧ (t.cluster c).out = false ∧
      (q ∉ (s.cluster c).fenced → (u.cluster c).fenced = (s.cluster c).fenced ++ [q] ∧ (u.cluster c).out = !(s.cluster c).fenced.isEmpty))


/-! ## Global memory -/

namespace Sys2Proof.Claims

/-- An access of n bytes at va by an agent that holds tokens for w, once translated (the machine is then u), reaches bytes x.addr .. x.addr + n - 1
of one line of an HBM frame that w's partition owns, and nothing there makes it wait, fold, trap or be dropped; memory has its canonical form. -/
def ReachesAt (s u : State) (w : Who) (agent : Fin 10) (va n : Nat) (use : Use) (x : Phys) : Prop :=
  s.translate w va use = (u, .ok x) ∧ x.attr ≠ .hostc ∧ inHbm x.addr = true ∧ x.addr % 128 + n ≤ 128 ∧
    u.codeFrame w.part x.addr = none ∧ x.addr / 65536 ∉ u.reserved ∧ fotState (u.fotOf (x.addr / 65536)) = 1 ∧
    fotOwner (u.fotOf (x.addr / 65536)) = w.part ∧
    (x.attr ≠ .device → u.lineBusy (x.addr / 128) agent (use == .write) = false) ∧
    (x.attr = .device → (if use = .write then u.homeBusy (x.addr / 128) else u.away (x.addr / 128)) = false) ∧
    (u.line (x.addr / 128)).mash = false ∧ u.mem.wf = true

/-- The same of an access by lane l, which its die's L2 slice makes. -/
def PlaceAt (s u : State) (l : Lane) (va n : Nat) (use : Use) (x : Phys) : Prop :=
  ReachesAt s u (s.who l) (Fin.ofNat 10 (l.die % 4)) va n use x

/-- The same, and the line is not poisoned. -/
def PlainAt (s u : State) (l : Lane) (va n : Nat) (use : Use) (x : Phys) : Prop :=
  PlaceAt s u l va n use x ∧ x.addr / 128 ∉ u.poison

/-- What an access keeps: the teams with their groups' registers and flags, of the partitions all but the counts of their banks and a fix that a
count triggers, and host memory where the device holds no dirty line of it. -/
def Kept (s t : State) : Prop :=
  t.teams = s.teams ∧ ((∀ e ∈ s.capLines, e.2.dirty = false) → t.hostMem = s.hostMem) ∧
    ∀ p, ∃ b f, t.part p = { s.part p with banks := b, fixPend := f }

/-- Every byte of memory reads as before. -/
def SameMem (s t : State) : Prop := ∀ a, readByte t.mem a = readByte s.mem a

/-- Memory reads as before but for the bytes bs, which stand at address a. -/
def Stored (s t : State) (a : Nat) (bs : List Byte) : Prop :=
  ∀ b, readByte t.mem b = if a ≤ b ∧ b < a + bs.length then bs[b - a]! else readByte s.mem b

/-- The n bytes that a read past the L1 sees at a place: in an ACC page those of the canonical image of the LA that the line holds, with zeros
from byte 96 (R44, R45, R163). -/
def shown (s : State) (x : Phys) (n : Nat) : Nat :=
  if x.attr = .acc then laImage (s.lineLa (x.addr / 128)) / 256 ^ (x.addr % 128) % 256 ^ n else readNat s.mem x.addr n

/-- The L1 line that serves a load of a lane at a place: present for its core, in a NORMAL page (R117). -/
def l1Line (s : State) (l : Lane) (x : Phys) : Option L1Line :=
  if x.attr = .normal ∧ (s.cluster l.cluster).cacheWays ≠ 0 then
    (s.cluster l.cluster).l1.find? fun e => e.line == x.addr / 128 && e.mask.getLsbD l.core
  else none

/-- The page fault of an access, taken at its word (R82). -/
def faultsHere (l : Lane) (f : PageFault) : Lane :=
  { l with pfault := some (f, l.pc, l.repeats), bundle := none, issuing := false, skipped := true }

/-- A lane's accesses that must come before a word's own: those still to be performed that precede it in its order (R180, R182). -/
def firsts (s : State) (l : Lane) (i : Instr) : List Pend := (s.pendings l).filter (s.comesFirst l i (srcsOf l i))
/-- Does a word release at system scope? -/
def SystemRelease (l : Lane) (i : Instr) : Prop :=
  (orderOf i (srcsOf l i)).1 = .system ∧ ((orderOf i (srcsOf l i)).2 = .rel ∨ (orderOf i (srcsOf l i)).2 = .ar)
/-- A word of the lane may be performed now: no access of the lane must come first, and a release at system scope finds no peer write of the
lane unanswered or lost (R180, R299). -/
def InTurn (s : State) (l : Lane) (i : Instr) : Prop :=
  firsts s l i = [] ∧ (SystemRelease l i → l.lostStore = false ∧ s.peerStores l = false)
/-- What a word does that must wait: the lane issues it again, as at a marker where an access that comes first has met a fault. -/
def Waits (s : State) (l : Lane) (i : Instr) (t : State) : Prop :=
  (firsts s l i ≠ [] → t = s.setLane { l.stall with marker := l.marker || (firsts s l i).any (·.faulted) }) ∧
  (firsts s l i = [] → SystemRelease l i → (l.lostStore = true → t = s.setLane { l.stall with marker := true }) ∧
    (l.lostStore = false → s.peerStores l = true → t = s.setLane l.stall))

/-- An acquire at cluster scope or wider leaves the core no line of its cluster's L1 (R118). -/
def Acquired (t : State) (l : Lane) (e : Scope) (o : Order) : Prop :=
  (o = .acq ∨ o = .ar) → (e = .cluster ∨ e = .die ∨ e = .device ∨ e = .system) →
    ∀ y ∈ (t.cluster l.cluster).l1, y.mask.getLsbD l.core = false

/-- The loads: the instruction, its bytes, destination, order and freshness. -/
def loads (d a : VReg) (e : Scope) (o : Order) (f : Bool) (i : BitVec 6) : List (Instr × Nat × Nat) :=
  [(.ldB8 d a e o f i, 0, 1), (.ldB16 d a e o f i, 1, 1), (.ldB32 d a e o f i, 2, 1), (.ldB64 d a e o f i, 3, 2), (.ldB128 d a e o f i, 4, 4)]
/-- The stores, with log2 of their bytes. -/
def stores (d a : VReg) (e : Scope) (o : Order) (i : BitVec 6) : List (Instr × Nat) :=
  [(.stB8 d a e o i, 0), (.stB16 d a e o i, 1), (.stB32 d a e o i, 2), (.stB64 d a e o i, 3), (.stB128 d a e o i, 4)]

/-- As `Each`, for a word whose lanes look at how those in lower slots have fared: s0 is the state in which the word issues. -/
def EachAfter (i : Instr) (spec : State → State → Lane → State → Prop) : Prop :=
  ∃ act : State → State → Lane → State,
    (∀ s, Legal s i → exec i s = .next (eachActive s (act s))) ∧ ∀ s0 s l, spec s0 s l (act s0 s l)
/-- A lane of the word in a lower slot waits or has met a page fault, and its store meets bytes of this lane's (R488). -/
def StoresLate (s0 s : State) (l : Lane) (i : Instr) : Prop :=
  ∃ m ∈ s0.actives, m.id.slot < l.id.slot ∧ (∃ x, s.lane? m.id = some x ∧ x.skipped = true ∧ x.pc = m.pc ∧ x.trap = none) ∧
    s.overlaps l i (srcsOf l i) { instr := i, srcs := srcsOf m i, faulted := false, acquires := false } = true

/-- A load of n bytes at ea, in its turn: it is issued again while a line of the page tables is away; a translation fault and poisoned data are
noted with the deferred result and taken at the lane's marker; a relaxed .any load is served by the L1 line that is there; else the bytes that memory holds are noted. Memory and every register
keep their values. -/
def LoadsAt (s : State) (l : Lane) (t : State) (ea n : Nat) (e : Scope) (o : Order) (any : Bool) (note : Nat → Wait → Lane) : Prop :=
  (∀ u f, s.translate (s.who l) ea .read = (u, .fault f) → t.lanes = (u.setLane (note 0 (.page f 0))).lanes ∧ t.mem = u.mem) ∧
  (∀ u, s.translate (s.who l) ea .read = (u, .wait) → t = u.setLane l.stall) ∧
  ∀ u x, PlaceAt s u l ea n .read x → SameMem u t ∧ Kept u t ∧ Acquired t l e o ∧
    (∀ y, any = true → l1Line u l x = some y → t.lanes = (u.setLane (note (y.data.toNat / 256 ^ (x.addr % 128) % 256 ^ n) .ready)).lanes) ∧
    ((any = false ∨ l1Line u l x = none) →
      (x.addr / 128 ∉ u.poison → t.lanes = (u.setLane (note (shown u x n) .ready)).lanes) ∧
      (x.addr / 128 ∈ u.poison → t.lanes = (u.setLane (note 0 (.dataUe 0 (BitVec.ofNat 64 ea) true))).lanes))

/-- A store of bytes at ea, in its turn: a translation fault is taken at the word; else the bytes stand in memory where ea translates to, but
for those beyond byte 95 of an ACC line, every other byte and every register keep their values, and the lane goes on. -/
def StoresAt (s : State) (l : Lane) (t : State) (ea : Nat) (bs : List Byte) : Prop :=
  (∀ u f, s.translate (s.who l) ea .write = (u, .fault f) → t = u.setLane (faultsHere l f)) ∧
  (∀ u, s.translate (s.who l) ea .write = (u, .wait) → t = u.setLane l.stall) ∧
  ∀ u x, PlainAt s u l ea bs.length .write x →
    t.lanes = (u.setLane (l.adv 4)).lanes ∧ Kept u t ∧
      Stored u t x.addr (if x.attr = .acc then bs.take (96 - x.addr % 128) else bs)

end Sys2Proof.Claims

/-- R82, R107, R108, R117, R430 to R432, R444, R445: LD at EA = pair + sext(imm) x size and KLD at pair + sext(imm) x 128: a misaligned EA raises
ALIGN; an EA of 2^57 or more faults at LD's word with CANON; with 32 deferred instructions outstanding the lane issues it again; else the
bytes at EA, zero-extended, are noted as a deferred result for v[d] upward, or the LA for k[k] with its carries; memory and every register keep their values. That the access
is performed where it issues is the model's choice (log entry 3). -/
def Obligations.GlobalLoads : Prop :=
  (∀ (d a : VReg) (e : Scope) (o : Order) (f : Bool) (i : BitVec 6), ∀ w ∈ loads d a e o f i, Each w.1 fun s l t =>
    let n : Nat := 2 ^ w.2.1
    let ea := (l.pair a + BitVec.ofInt 64 (i.toInt * n)).toNat
    (ea % n ≠ 0 → t = s.raise l (l.causeHere 0x04 w.2.1 (BitVec.ofNat 64 ea))) ∧
    (ea % n = 0 → Waits s l w.1 t) ∧
    (ea % n = 0 → InTurn s l w.1 →
      (2 ^ 57 ≤ ea → t = s.setLane (faultsHere l { reason := 4, va := ea, write := false, fetch := false })) ∧
      (ea < 2 ^ 57 → l.room = false → t = s.setLane l.stall) ∧
      (ea < 2 ^ 57 → l.room = true → LoadsAt s l t ea n e o (!f && o == .rlx) fun x y =>
        (l.defer w.1 (l.vs a 2) (regsFrom d w.2.2 x) [] 0 y).adv 4))) ∧
  (∀ (k : KReg) (a : VReg) (e : Scope) (o : Order) (f : Bool) (i : BitVec 7), Each (.kld k a e o f i) fun s l t =>
    let ea := (l.pair a + BitVec.ofInt 64 (i.toInt * 128)).toNat
    (ea % 128 ≠ 0 → t = s.raise l (l.causeHere 0x04 7 (BitVec.ofNat 64 ea))) ∧
    (ea % 128 = 0 → Waits s l (.kld k a e o f i) t) ∧
    (ea % 128 = 0 → InTurn s l (.kld k a e o f i) →
      (l.room = false → t = s.setLane l.stall) ∧
      (l.room = true → LoadsAt s l t ea 96 e o false fun x y =>
        (l.deferK (.kld k a e o f i) (l.vs a 2) [] [(k.val, laOfImage x)] (BitVec.ofNat 80 (x / 2 ^ 640 % 2 ^ 80)) 0 y).adv 4))) ∧
  ∀ (s : State) (w : Who) (va : Nat) (use : Use), let u := (s.translate w va use).1; u.lanes = s.lanes ∧ u.clusters = s.clusters

/-- R82, R107, R108, R232, R430, R433, R486 to R488: ST of the low bytes of v[d] upward at EA = pair + sext(imm) x size, and KST of the canonical
image of k[k] at pair + sext(imm) x 128: a misaligned EA raises ALIGN; a translation fault is taken at the word; else the bytes stand in
memory at the address that EA translates to, every other byte and every register keep their values, and the lane goes on. The lanes of a bundle
store in ascending slot: one waits while a lane in a lower slot has still to store to bytes of its own. That the access is performed where it
issues is the model's choice (log entry 3). -/
def Sys2Proof.Claims.Stores : Prop :=
  (∀ (d a : VReg) (e : Scope) (o : Order) (i : BitVec 6), ∀ w ∈ stores d a e o i, EachAfter w.1 fun s0 s l t =>
    let n : Nat := 2 ^ w.2
    let ea := (l.pair a + BitVec.ofInt 64 (i.toInt * n)).toNat
    (StoresLate s0 s l w.1 → t = s.setLane l.stall) ∧ (¬ StoresLate s0 s l w.1 →
    (ea % n ≠ 0 → t = s.raise l (l.causeHere 0x04 w.2 (BitVec.ofNat 64 ea))) ∧
    (ea % n = 0 → Waits s l w.1 t) ∧
    (ea % n = 0 → InTurn s l w.1 → StoresAt s l t ea (leBytes (wordsNat (l.vs d ((n + 3) / 4))) n)))) ∧
  ∀ (k : KReg) (a : VReg) (e : Scope) (o : Order) (i : BitVec 7), EachAfter (.kst k a e o i) fun s0 s l t =>
    let ea := (l.pair a + BitVec.ofInt 64 (i.toInt * 128)).toNat
    (StoresLate s0 s l (.kst k a e o i) → t = s.setLane l.stall) ∧ (¬ StoresLate s0 s l (.kst k a e o i) →
    (ea % 128 ≠ 0 → t = s.raise l (l.causeHere 0x04 7 (BitVec.ofNat 64 ea))) ∧
    (ea % 128 = 0 → Waits s l (.kst k a e o i) t) ∧
    (ea % 128 = 0 → InTurn s l (.kst k a e o i) → StoresAt s l t ea (leBytes (laImage (l.getK k)) 96)))

/-- R180, R182: which of a lane's earlier accesses come before a word of its own: every one where the word releases, those that acquire,
and those whose bytes it meets, but for loads before a .any load. A word that neither releases nor meets one is not kept waiting by it. -/
def Sys2Proof.Claims.AccessOrder : Prop :=
  (∀ (s : State) (l : Lane), ∀ d ∈ l.deferred, d.unperformed = true → ∃ p ∈ s.pendings l, p.instr = d.instr ∧ p.srcs = d.srcs ∧
    (p.acquires = true ↔ ((orderOf d.instr d.srcs).2 = .acq ∨ (orderOf d.instr d.srcs).2 = .ar) ∧ (orderOf d.instr d.srcs).1 ≠ .lane)) ∧
  (∀ (s : State) (l : Lane), ∀ r ∈ s.peers, r.lane = some l.id → r.acq ≠ none → ∃ p ∈ s.pendings l, p.acquires = true) ∧
  (∀ (s : State) (l : Lane), ∀ h ∈ (s.teamOf l).ordered, h.lane = l.id → ∃ p ∈ s.pendings l, p.instr = h.instr ∧ p.srcs = h.srcs) ∧
  ∀ (s : State) (l : Lane) (i : Instr) (p : Pend), let srcs := srcsOf l i; let q := orderOf i srcs
    ((q.2 = .rel ∨ q.2 = .ar) → q.1 ≠ .lane → s.comesFirst l i srcs p = true) ∧
    (p.acquires = true → s.comesFirst l i srcs p = true) ∧
    (onScratch i srcs = false → onScratch p.instr p.srcs = false → let a := eaSrc i srcs; let b := eaSrc p.instr p.srcs
      (∀ k, a ≤ k → k < a + spanOf i → b ≤ k → k < b + spanOf p.instr → a % 4096 + spanOf i ≤ 4096 → b % 4096 + spanOf p.instr ≤ 4096 →
        (anyLoad i = false ∨ readOnly p.instr = false) → s.comesFirst l i srcs p = true) ∧
      (q.2 = .rlx ∨ q.2 = .acq → p.acquires = false → (anyLoad i = true ∧ readOnly p.instr = true) ∨
          a % 4096 + spanOf i ≤ b % 4096 ∨ b % 4096 + spanOf p.instr ≤ a % 4096 → p.faulted = false → s.comesFirst l i srcs p = false)) ∧
    (onScratch i srcs ≠ onScratch p.instr p.srcs → q.2 = .rlx ∨ q.2 = .acq → p.acquires = false → s.comesFirst l i srcs p = false)

/-- Together: Stores, AccessOrder. -/
def Obligations.GlobalStores : Prop := Claims.Stores ∧ Claims.AccessOrder

namespace Sys2Proof.Claims

/-- What an atomic makes of the old value, two words of n bits (R354). -/
def atomValue (op : AtomOp) {n : Nat} (old x : BitVec n) : BitVec n :=
  match op with
  | .add => old + x
  | .min => if old.sle x then old else x
  | .max => if x.sle old then old else x
  | .minu => if old ≤ x then old else x
  | .maxu => if x ≤ old then old else x
  | .and => old &&& x
  | .or => old ||| x
  | .xor => old ^^^ x
  | .exch => x

/-- As `Each`; the lanes of one bundle act in ascending slot where `asc` holds, else in an order that the spec leaves open (R355). -/
def EachIn (asc : Bool) (i : Instr) (spec : State → Lane → State → Prop) : Prop :=
  ∃ act : State → Lane → State,
    (∀ s, Legal s i → exec i s = .next (if asc then eachActive s act else eachFree s act)) ∧ ∀ s l, spec s l (act s l)

/-- An atomic of n bytes on global memory, in its turn: a translation fault, an ACC page and poisoned data deny it, at the word or, for a
returning form, with the deferred result; else the new value, if it writes one, stands where ea translates to and every other byte keeps its
value. -/
def AtomicAt (s : State) (l : Lane) (t : State) (ea n : Nat) (e : Scope) (o : Order) (new : Nat → Option Nat) (denied : PageFault → Lane)
    (done : Nat → Lane) (lost : Lane) : Prop :=
  (∀ u f, s.translate (s.who l) ea .write = (u, .fault f) → t.lanes = (u.setLane (denied f)).lanes ∧ t.mem = u.mem) ∧
  (∀ u, s.translate (s.who l) ea .write = (u, .wait) → t = u.setLane l.stall) ∧
  (∀ u x, s.translate (s.who l) ea .write = (u, .ok x) → x.attr = .acc →
    t.lanes = (u.setLane (denied { reason := 2, va := ea, write := true, fetch := false })).lanes ∧ t.mem = u.mem) ∧
  ∀ u x, PlaceAt s u l ea n .write x → Kept u t ∧
    (x.attr ≠ .acc → x.addr / 128 ∈ u.poison → t.lanes = (u.setLane lost).lanes ∧ SameMem u t) ∧
    (x.attr ≠ .acc → x.addr / 128 ∉ u.poison → t.lanes = (u.setLane (done (readNat u.mem x.addr n))).lanes ∧
      (∀ y, new (readNat u.mem x.addr n) = some y → Stored u t x.addr (leBytes y n)) ∧ (new (readNat u.mem x.addr n) = none → t.mem = u.mem) ∧
      Acquired t l e o)

end Sys2Proof.Claims

/-- R96, R108, R163, R172, R175, R352 to R356, R367, R368: ATOM, ATOM.nr and CAS of a word of z bytes at EA = pair + sext(imm16), or on scratch where
bit 31 of v[a+1] is set: outside D-mode an ordered form is ILLEGAL; a misaligned EA raises ALIGN; an ACC page denies it; else the new value stands at the
address that EA translates to, but for a CAS whose comparison fails, which writes nothing; every other byte keeps its value, and a returning form
notes the old value for v[d]. An ordered form is held for its turn, at most 256 for a team; one of a group is performed after those before it. That an access is performed where it issues is the model's choice (log entry 3). -/
def Obligations.Atomics : Prop :=
  (∀ (op : AtomOp) (x y : Word), atomNew op 32 x.toNat y.toNat = (atomValue op x y).toNat) ∧
  (∀ (op : AtomOp) (x y : DWord), atomNew op 64 x.toNat y.toNat = (atomValue op x y).toNat) ∧
  (∀ (d a b c : VReg) (op : AtomOp) (z : Size) (ord : Bool) (e : Scope) (o : Order) (i : BitVec 16), z = .b32 ∨ z = .b64 →
    ∀ w ∈ [(Instr.atom d a b op z ord e o i, true, Nat.log2 z.bytes, 0), (.atomNr a b op z ord e o i, false, Nat.log2 z.bytes, 0), (.cas d a b c z ord e o i, true, Nat.log2 z.bytes, 1)],
      EachIn ord w.1 fun s l t =>
        let n : Nat := z.bytes
        let srcs := l.vs a 2 ++ l.vs b (n / 4) ++ (if w.2.2.2 = 1 then l.vs c (n / 4) else [])
        let ea := (l.pair a + BitVec.ofInt 64 i.toInt).toNat
        let new : Nat → Option Nat := fun old =>
          if w.2.2.2 = 1 then (if old = wordsNat (l.vs b (n / 4)) then some (wordsNat (l.vs c (n / 4))) else none)
          else some (atomNew op (8 * n) old (wordsNat (l.vs b (n / 4))))
        let note : Nat → Wait → Lane := fun x y => (l.defer w.1 srcs (if w.2.1 then regsFrom d (n / 4) x else []) [] 0 y).adv 8
        let denied : PageFault → Lane := fun f => if w.2.1 then note 0 (.page f 0) else faultsHere l f
        let done : Nat → Lane := fun x => if w.2.1 then note x .ready else l.adv 8
        let held := (ord = true → ∀ tm, s.team? l.id.tid = some tm →
          ((256 ≤ tm.ordered.length ∨ (w.2.1 = true ∧ l.room = false)) → t = s.setLane l.stall) ∧
          (tm.ordered.length < 256 → (w.2.1 = true → l.room = true) →
            t = (({ s with nextId := s.nextId + 1 } : State).modTeam tm.tid fun u => { u with ordered := u.ordered ++
                [{ id := s.nextId, lane := l.id, instr := w.1, srcs := srcs, n := if w.2.1 then some l.nextDef else none, pc := l.pc, sent := none }] }).setLane
              (if w.2.1 then note 0 .ordered else l.adv 8)))
        (ord = true → l.dm = false → t = s.raise l (l.causeHere 0x01 0 0)) ∧
        ((ord = false ∨ l.dm = true) → (l.v! (a.val + 1)).getLsbD 31 = false →
          (ea % n ≠ 0 → t = s.raise l (l.causeHere 0x04 w.2.2.1 (BitVec.ofNat 64 ea))) ∧
          (ea % n = 0 → Waits s l w.1 t) ∧
          (ea % n = 0 → InTurn s l w.1 → held ∧
            (ord = false → w.2.1 = true → l.room = false → t = s.setLane l.stall) ∧
            (ord = false → (w.2.1 = true → l.room = true) →
              AtomicAt s l t ea n e o new denied done (note 0 (.dataUe 1 (BitVec.ofNat 64 ea) false))))) ∧
        ((ord = false ∨ l.dm = true) → (l.v! (a.val + 1)).getLsbD 31 = true →
          let sa : Int := (l.getV a).toNat + i.toInt
          let ps := pieces (s.scratchList (s.teamOf l)) 0 sa n
          ((s.teamOf l).converting = true → t = s.setLane l.stall) ∧
          ((s.teamOf l).converting = false →
            (sa % n ≠ 0 → t = s.raise l (l.causeHere 0x04 w.2.2.1 (BitVec.ofInt 64 sa))) ∧
            (sa % n = 0 → l.v! (a.val + 1) = 0x80000000 → ps = none → t = s.raise l (l.causeHere 0x06 0 (BitVec.ofInt 64 sa))) ∧
            (sa % n = 0 → (l.v! (a.val + 1) = 0x80000000 → ps ≠ none) → Waits s l w.1 t ∧
              (InTurn s l w.1 → held ∧
                (ord = false → w.2.1 = true → l.room = false → t = s.setLane l.stall) ∧
                (ord = false → (w.2.1 = true → l.room = true) →
                  (l.v! (a.val + 1) ≠ 0x80000000 →
                    t.lanes = (s.setLane (denied { reason := 4, va := ea, write := true, fetch := false })).lanes ∧ t.mem = s.mem) ∧
                  (∀ qs, l.v! (a.val + 1) = 0x80000000 → ps = some qs →
                    (s.readPieces l.cluster qs = none → t.lanes = (s.setLane (note 0 (.dataUe 1 (BitVec.ofInt 64 sa) false))).lanes ∧ t.mem = s.mem) ∧
                    ∀ bs, s.readPieces l.cluster qs = some bs → let u := (new (leNat bs)).elim s fun y => s.writePieces l.cluster 0 qs (leBytes y n)
                      t = (if o = .acq ∨ o = .ar then u.acquire l (if e = .die ∨ e = .device ∨ e = .system then .cluster else e) else u).setLane
                        (done (leNat bs))))))))) ∧
  (∀ (s u : State) (tm : Team) (h : OrderedAtom) (l : Lane) (x : Phys), s.team? tm.tid = some tm →
    (∀ y ∈ s.teams, y.tid = tm.tid → ∀ a ∈ y.ordered, a.sent = none) →
    h ∈ tm.ordered → (∀ a ∈ tm.ordered.takeWhile (· != h), a.lane.grp ≠ h.lane.grp ∧ ∀ m, s.lane? a.lane = some m → s.orderedTurn m = false) →
    s.lane? h.lane = some l → s.orderedTurn l = true →
    atomScratch h.srcs = false → PlainAt s u l (eaSrc h.instr h.srcs) (atomBytes h.instr) .write x → x.attr ≠ .acc →
    ∃ t, exec (.orderedAtomRelease tm.tid) s = .next t ∧
      (∀ y, (atomFn h.instr h.srcs).1 (readNat u.mem x.addr (atomBytes h.instr)) = some y → Stored u t x.addr (leBytes y (atomBytes h.instr))) ∧
      (Calm u → (t.team? tm.tid).map (·.ordered) = (u.team? tm.tid).map fun y => y.ordered.erase h) ∧
      (Calm u → t.lanes = match h.n with
        | none => u.lanes
        | some n => (u.setLane { l with deferred := l.deferred.map fun d =>
            if d.n = n then { d with vdst := retV d.instr (readNat u.mem x.addr (atomBytes h.instr)), kdst := retK d.instr (readNat u.mem x.addr (atomBytes h.instr)),
                                     kcar := retC d.instr (readNat u.mem x.addr (atomBytes h.instr)), wait := .ready } else d }).lanes)) ∧
  (∀ (s : State) (tid : Nat), (∀ tm, s.team? tid = some tm → ∀ a ∈ tm.ordered, ∀ l, s.lane? a.lane = some l → s.orderedTurn l = false) →
    ∃ t, exec (.orderedAtomRelease tid) s = .next t ∧ { t with teams := s.teams } = s ∧
      ((∀ y ∈ s.teams, y.tid = tid → ∀ a ∈ y.ordered, a.sent = none) → t = s)) ∧
  ∀ (s : State) (l : Lane) (L : Launch) (tm : Team), s.launch? l.part l.seq = some L → s.team? l.id.tid = some tm →
    (s.orderedTurn l = true ↔ tm.index < L.placed ∧ ∀ u, (u ∈ s.teams ∧ u.part = l.part ∧ u.seq = l.seq) ∨ u ∈ L.restore.map (·.team) → ∀ g ∈ u.groups,
      (u.index < tm.index ∨ (u.index = tm.index ∧ g.idx < l.id.grp)) → g.retired = true)

/-- R45, R108, R163, R164, R175, R185, R347 to R350: AACC, AACC.mul, AMRG and AMRG.neg at EA = pair + sext(imm16): a misaligned EA raises ALIGN; outside an ACC page
the merge is denied; where the lane's agent holds the line whole, the LA stored there takes the merge, but not over poison; else the agent's partial does, also of a line in
the merge state, which it enters with its home holding all 16 tokens, and memory is unchanged. The lane goes on, and nothing else of memory changes. That the merge is
performed where it issues is the model's choice (log entry 3). -/
def Obligations.Merges : Prop :=
  ∀ (a b c : VReg) (k : KReg) (g : Fs) (e : Scope) (o : Order) (i : BitVec 16),
    ∀ w ∈ ([(.aacc a b g e o i, fun l x => addElems x (fsElem g (l.getV b)) (fsCount g)),
            (.aaccMul a b c g e o i, fun l x => addElems x (prodElem g (l.getV b) (l.getV c)) (fsCount g)),
            (.amrg a k e o i, fun l x => laMerge x (l.getK k) false),
            (.amrgNeg a k e o i, fun l x => laMerge x (l.getK k) true)] : List (Instr × (Lane → LA → LA))),
      Each w.1 fun s l t =>
        let ea := (l.pair a + BitVec.ofInt 64 i.toInt).toNat
        let own : Fin 10 := Fin.ofNat 10 (l.die % 4)
        (ea % 128 ≠ 0 → t = s.raise l (l.causeHere 0x04 7 (BitVec.ofNat 64 ea))) ∧
        (ea % 128 = 0 → Waits s l w.1 t) ∧
        (ea % 128 = 0 → InTurn s l w.1 →
          (∀ u f, s.translate (s.who l) ea .write = (u, .fault f) → t = u.setLane (faultsHere l f)) ∧
          (∀ u, s.translate (s.who l) ea .write = (u, .wait) → t = u.setLane l.stall) ∧
          (∀ u x, s.translate (s.who l) ea .write = (u, .ok x) → x.attr ≠ .acc →
            t = u.setLane (faultsHere l { reason := 2, va := ea, write := true, fetch := false })) ∧
          ∀ u x, PlaceAt s u l ea 96 .write x → let ln := x.addr / 128
            Kept u t ∧
            (x.attr = .acc → (u.line ln).mayWrite own = true → ln ∉ u.poison →
              t.lanes = (u.setLane (l.adv 8)).lanes ∧ Stored u t (128 * ln) (leBytes (laImage (w.2 l (u.lineLa ln))) 96)) ∧
            (x.attr = .acc → (u.line ln).mayWrite own = true → ln ∈ u.poison → SameMem u t ∧
              t.lanes = (u.setLane ((l.defer w.1 (srcsOf l w.1) [] [] 0 (.dataUe 2 (BitVec.ofNat 64 ea) false)).adv 8)).lanes) ∧
            (x.attr = .acc → (u.line ln).mayWrite own = false → (u.line ln).holds[own].partialLA = none →
              t.lanes = (u.setLane (l.adv 8)).lanes ∧ SameMem u t ∧ (t.line ln).mash = true ∧
              (t.line ln).holds[own].partialLA = some (w.2 l LA0) ∧ (t.line ln).holds[home].t = 16)) ∧
        (ea % 128 = 0 → InTurn s l w.1 → ∀ u x, s.translate (s.who l) ea .write = (u, .ok x) → x.attr = .acc → inHbm x.addr = true → x.addr % 128 = 0 →
          u.codeFrame l.part x.addr = none → x.addr / 65536 ∉ u.reserved → fotState (u.fotOf (x.addr / 65536)) = 1 →
          fotOwner (u.fotOf (x.addr / 65536)) = l.part →
          let ln := x.addr / 128
          (u.line ln).mash = true → u.lineBusy ln own true = false →
            t.lanes = (u.setLane (l.adv 8)).lanes ∧ SameMem u t ∧ Kept u t ∧ (t.line ln).mash = true ∧ own ∈ (t.line ln).holders ∧
              (t.line ln).holds[own].partialLA = some (w.2 l (((u.line ln).holds[own].partialLA).getD LA0)))


/-! ## Scratch, queues, caches and row pins -/

/-- R109, R114, R115, R236: the swizzles map scratch words one to one to a macro and a word of it, within the 6,144 words of a macro but for the
padded ones; an access outside the scratch space has no words; a write changes the bytes of its words alone and tags them, and a whole word
reads back. -/
def Obligations.ScratchSpace : Prop :=
  (∀ code < 8, ∀ n ∈ [8, 16, 32], ∀ w w', swizzle code n w = swizzle code n w' → w = w') ∧
  (∀ code < 8, ∀ n ∈ [8, 16, 32], ∀ w < n * 6144, (swizzle code n w).1 < n ∧ (code ≠ 5 → code ≠ 6 → (swizzle code n w).2 < 6144)) ∧
  (∀ (list : List Nat) (code : Nat) (a : Int) (n : Nat), (a < 0 ∨ list.length * 49152 < a.toNat + n) → pieces list code a n = none) ∧
  (∀ (list : List Nat) (code : Nat) (a : Int) (n : Nat) (ps : List Piece), pieces list code a n = some ps →
    (ps.map (·.len)).sum = n ∧ ∀ p ∈ ps, p.word < 6144 ∧ p.byte + p.len ≤ 8) ∧
  (∀ (s : State) (c code : Nat) (ps : List Piece) (bs : List Byte), (∀ m, ((s.cluster c).macro' m).data.wf = true) →
    (∀ m b, (∀ p ∈ ps, p.mac = m → b < 8 * p.word + p.byte ∨ 8 * p.word + p.byte + p.len ≤ b) →
      readByte (((s.writePieces c code ps bs).cluster c).macro' m).data b = readByte ((s.cluster c).macro' m).data b) ∧
    (∀ m w, (∀ p ∈ ps, p.mac = m → p.word ≠ w) → tget 8 w (((s.writePieces c code ps bs).cluster c).macro' m).tags = tget 8 w ((s.cluster c).macro' m).tags) ∧
    (∀ p ∈ ps, tget 8 p.word (((s.writePieces c code ps bs).cluster c).macro' p.mac).tags = code) ∧
    ∀ p, ps = [p] → bs.length = p.len → (p.len = 8 ∨ p.word ∉ ((s.cluster c).macro' p.mac).poison) →
      (s.writePieces c code ps bs).readPieces c ps = some bs)

/-- R108, R109, R111, R113, R115, R224, R446, R447, R489: LDS and STS at the scratch address v[a] + imm x size: while a conversion of the team is asked for, the
lane issues the word again; then ALIGN, then SCRATCH_RANGE, at the word; LDS notes the bytes for v[d] upward, or DATA_UE with AUX 4 where a word is
poisoned; STS writes the low bytes of v[d] upward, in ascending slot where lanes store to one word. The bundle is counted the cycles of its macro conflicts and, for a load, the words
that another swizzle wrote, over the lanes that perform the access. That the access is performed where it issues is the model's choice (log
entry 3). -/
def Obligations.ScratchAccesses : Prop :=
  (∀ (d a : VReg) (z : Size) (w : Fin 8) (i : BitVec 5) (store : Bool),
    let word : Instr := if store then .sts d a z w i else .lds d a z w i
    ∃ act : State → State → Lane → State,
      (∀ s, Legal s word → let u := s.countScratch word (if store then none else some w.val)
        exec word s = .next (eachActive u (act u))) ∧
      (∀ s0 s l, let act := act s0
        let n := z.bytes
        let sa : Int := (l.getV a).toNat + i.toInt * n
        let list := s.scratchList (s.teamOf l)
        (((s.teamOf l).converting = true ∨ (store = true ∧ StoresLate s0 s l word)) → act s l = s.setLane l.stall) ∧
        ((s.teamOf l).converting = false → ¬ (store = true ∧ StoresLate s0 s l word) →
          (sa % n ≠ 0 → act s l = s.raise l (l.causeHere 0x04 (Nat.log2 n) (BitVec.ofInt 64 sa))) ∧
          (sa % n = 0 → pieces list w.val sa n = none → act s l = s.raise l (l.causeHere 0x06 0 (BitVec.ofInt 64 sa))) ∧
          (sa % n = 0 → ∀ ps, pieces list w.val sa n = some ps → Waits s l word (act s l) ∧ (InTurn s l word →
            (store = true → act s l = (s.writePieces l.cluster w.val ps (leBytes (wordsNat (l.vs d (regsOf z))) n)).setLane (l.adv 4)) ∧
            (store = false → l.room = false → act s l = s.setLane l.stall) ∧
            (store = false → l.room = true →
              (∀ bs, s.readPieces l.cluster ps = some bs →
                act s l = s.setLane ((l.defer word (l.vs a 1) (regsFrom d (regsOf z) (leNat bs)) [] 0 .ready).adv 4)) ∧
              (s.readPieces l.cluster ps = none → act s l = s.setLane
                ((l.defer word (l.vs a 1) (regsFrom d (regsOf z) 0) [] 0 (.dataUe 4 (BitVec.ofInt 64 sa) true)).adv 4))))))) ∧
      ∀ s l, (s.performsScratch word l = true ↔ s.accessCause l word (srcsOf l word) = none ∧ firsts s l word = [] ∧
          (store = true ∨ l.room = true) ∧ (s.teamOf l).converting = false) ∧
        (s.lead = some l → let ps := (s.actives.filter (s.performsScratch word)).flatMap fun m => (s.scratchPieces m word (srcsOf m word)).getD []
          let words := (ps.map fun p => (p.mac, p.word)).eraseDups
          let x := if store then 0 else (words.filter fun y => let t := tget 8 y.2 ((s.cluster l.cluster).macro' y.1).tags; t != 8 && t != w.val).length
          let c := conflictCycles ps (s.scratchList (s.teamOf l)).length
          let u := if c = 0 then s else s.countLane l 0x08 c
          s.countScratch word (if store then none else some w.val) = if x = 0 then u else u.countLane l 0x09 x)) ∧
  ∀ (ps : List Piece) (n : Nat), 0 < n → ps ≠ [] → let words := (ps.map fun p => (p.mac, p.word)).eraseDups
    ∃ d, (∀ m, (words.filter fun y => y.1 == m).length ≤ d) ∧ (∃ m, (words.filter fun y => y.1 == m).length = d) ∧
      conflictCycles ps n = d - (words.length + n - 1) / n

/-- R111, R112, R212, R213, R471, R472, R484, R485: QPUSH appends one entry for each active lane and QPOP removes one, or the lanes park; both wait while a
conversion of the team is asked for, QPUSH for the lanes' earlier accesses, QPOP for those that acquire; a lane that has waited at a queue keeps to
its macro while that is a queue. A side of a queue that its launch does not
free is bound to the first group that uses it: another group traps with QROLE, a part of the group with QDIVERGE. SMODE parks the bundle until its
macros change mode together, or raises SMODE_BAD; a queue's entries stand in ring order in the scratch macro that it becomes. -/
def Obligations.QueuesAndModes : Prop :=
  (∀ (d : VReg) (q : Fin 64) (s : State) (l : Lane), s.lead = some l →
    let t := s.teamOf l
    (∀ k : Lane, (k.qmac = none → s.queueOf k q = (s.queueList (s.teamOf k))[q.val]?) ∧
      ∀ m, k.qmac = some m → (m ∈ s.queueList (s.teamOf k) → s.queueOf k q = some m) ∧ (m ∉ s.queueList (s.teamOf k) → s.queueOf k q = none)) ∧
    (t.converting = true → ∀ i ∈ [Instr.qpush d q, .qpop d q], Legal s i → exec i s = .next (mapActive s Lane.stall)) ∧
    (t.converting = false → (∀ k ∈ s.actives, s.queueOf k q = none) → ∀ i ∈ [Instr.qpush d q, .qpop d q], Legal s i →
      exec i s = .next (eachActive s fun s k => s.raise k (k.causeHere 0x0A q.val 0))) ∧
    ∀ m, Actives s (fun k => s.queueOf k q = some m) →
      (t.converting = false → t.cluster = l.cluster →
        let x := (s.cluster l.cluster).macro' m
        let push := fun s : State => mapActive (eachActive s fun s k => s.modMacro k.cluster m fun y => y.push (leBytes (wordsNat (k.vs d 4)) 16))
          fun k => { k.adv 4 with qmac := none }
        let pop := fun s : State => eachActive s fun s k =>
          (s.noteAccess { k with qmac := none } (.qpop d q) [BitVec.ofNat 32 q.val, BitVec.ofNat 32 m, BitVec.ofNat 32 ((s.cluster k.cluster).macro' m).qhead]).modMacro
            k.cluster m fun y => { y with qhead := (y.qhead + 1) % 3072, qcount := y.qcount - 1 }
        let parks := mapActive s fun k => { k with park := .queue, bundle := none, issuing := false, skipped := true, qmac := some m }
        let pushWaits := fun k : Lane => { k.stall with marker := k.marker || (s.pendings k != [] && k.deferred.any Deferred.faulted) }
        let popWaits := fun k : Lane =>
          { k.stall with marker := k.marker || (k.room && (s.pendings k).any Pend.acquires && k.deferred.any Deferred.faulted) }
        (Legal s (.qpush d q) → fld (recQmp (s.laneRec l)) q.val 1 = 1 →
          ((∃ k ∈ s.actives, s.pendings k ≠ []) → ∃ t, exec (.qpush d q) s = .next t ∧ t.lanes = (mapActive s pushWaits).lanes ∧
            (∀ j, (t.cluster l.cluster).macro' j = (s.cluster l.cluster).macro' j)) ∧
          ((∀ k ∈ s.actives, s.pendings k = []) →
            (x.qcount + s.actives.length ≤ 3072 → exec (.qpush d q) s = .next (push s)) ∧
            (3072 < x.qcount + s.actives.length → exec (.qpush d q) s = .next parks))) ∧
        (Legal s (.qpop d q) → fld (recQmc (s.laneRec l)) q.val 1 = 1 →
          ((∃ k ∈ s.actives, k.room = false ∨ ∃ y ∈ s.pendings k, y.acquires = true) →
            ∃ t, exec (.qpop d q) s = .next t ∧ t.lanes = (mapActive s popWaits).lanes ∧
              (∀ j, (t.cluster l.cluster).macro' j = (s.cluster l.cluster).macro' j)) ∧
          ((∀ k ∈ s.actives, k.room = true ∧ ∀ y ∈ s.pendings k, y.acquires = false) →
            (s.actives.length ≤ x.qcount → exec (.qpop d q) s = .next (pop s)) ∧
            (x.qcount < s.actives.length → exec (.qpop d q) s = .next parks))) ∧
        (Sole s l →
          (Legal s (.qpush d q) → fld (recQmp (s.laneRec l)) q.val 1 = 0 →
            (∀ g, x.prod = some g → g ≠ l.id.grp → exec (.qpush d q) s = .next (s.raise l (l.causeHere 0x0A q.val 0))) ∧
            ((x.prod = none ∨ x.prod = some l.id.grp) →
              ((∃ k ∈ s.lanes, k.id.tid = l.id.tid ∧ k.id.grp = l.id.grp ∧ k.park ≠ .exited ∧ k.issuing = false) →
                exec (.qpush d q) s = .next (s.raise l (l.causeHere 0x0B q.val 0))) ∧
              ((∀ k ∈ s.lanes, k.id.tid = l.id.tid → k.id.grp = l.id.grp → k.park = .exited ∨ k = l) → s.pendings l = [] → x.qcount < 3072 →
                exec (.qpush d q) s = .next (push (s.modMacro l.cluster m fun y => { y with prod := some l.id.grp }))))) ∧
          (Legal s (.qpop d q) → fld (recQmc (s.laneRec l)) q.val 1 = 0 →
            (∀ g, x.cons = some g → g ≠ l.id.grp → exec (.qpop d q) s = .next (s.raise l (l.causeHere 0x0A q.val 0))) ∧
            ((x.cons = none ∨ x.cons = some l.id.grp) →
              ((∃ k ∈ s.lanes, k.id.tid = l.id.tid ∧ k.id.grp = l.id.grp ∧ k.park ≠ .exited ∧ k.issuing = false) →
                exec (.qpop d q) s = .next (s.raise l (l.causeHere 0x0B q.val 0))) ∧
              ((∀ k ∈ s.lanes, k.id.tid = l.id.tid → k.id.grp = l.id.grp → k.park = .exited ∨ k = l) → l.room = true → s.pendings l = [] →
                0 < x.qcount → exec (.qpop d q) s = .next (pop (s.modMacro l.cluster m fun y => { y with cons := some l.id.grp })))))))) ∧
  (∀ (x : Sram) (bs : List Byte), x.data.wf = true → bs.length = 16 → x.qcount < 3072 → x.qhead < 3072 →
    (x.push bs).qcount = x.qcount + 1 ∧ (x.push bs).qhead = x.qhead ∧
    readBytes (x.push bs).data (16 * ((x.qhead + x.qcount) % 3072)) 16 = bs ∧
    ∀ k < x.qcount, readBytes (x.push bs).data (16 * ((x.qhead + k) % 3072)) 16 = readBytes x.data (16 * ((x.qhead + k) % 3072)) 16) ∧
  (∀ (s : State) (tid q : Nat), ∃ f : Lane → Bool, exec (.queueWaitResume tid q) s = .next (s.release f) ∧
    (∀ l, f l = true → l.id.tid = tid ∧ l.park = .queue) ∧
    ∀ (l : Lane) (w : Fetched) (d : VReg) (r : Fin 64), l.id.tid = tid → l.park = .queue →
      (s.fetchAt l l.pc.toNat (s.slotOf l)).2 = .word w → (w.instr = .qpush d r ∨ w.instr = .qpop d r) → (f l = true ↔ r.val = q)) ∧
  (∀ (a : VReg) (toQueue : Bool) (s : State) (l : Lane), let i : Instr := if toQueue then .smodeQueue a else .smodeScratch a
    Legal s i → s.lead = some l →
    let mask := (l.getV a).toNat
    let t := s.teamOf l
    let ok := mask < 2 ^ t.macros.length ∧ (s.scratchAfter t mask toQueue).length ∈ [0, 8, 16, 32]
    (mask = 0 → exec i s = .next (mapActive s fun l => l.adv 4)) ∧
    (mask ≠ 0 → t.smode ≠ [] → exec i s = .next (mapActive s Lane.stall)) ∧
    (mask ≠ 0 → t.smode = [] → ¬ ok → exec i s = .next (eachActive s fun s l => s.raise l (l.causeHere 0x09 0 (BitVec.ofNat 64 mask)))) ∧
    (mask ≠ 0 → t.smode = [] → ok → exec i s = .next (mapActive
      (s.modTeam t.tid fun t => { t with smode := t.smode ++ [{ mask := mask, toQueue := toQueue, lanes := s.actives.map (·.id) }] })
      fun l => { l.adv 4 with park := .smode, bundle := none, issuing := false }))) ∧
  (∀ (s : State) (t : Team) (q : SmodeReq) (r : List SmodeReq), s.team? t.tid = some t → t.smode = q :: r →
    (s.xferIn t.cluster (t.named q.mask) = true ∨ s.atomIn t (t.named q.mask) = true → exec (.smodeConvert t.tid) s = .next s) ∧
    (s.xferIn t.cluster (t.named q.mask) = false → s.atomIn t (t.named q.mask) = false → ∃ u : State,
      exec (.smodeConvert t.tid) s = .next (u.release fun l => q.lanes.contains l.id && l.park == .smode) ∧ u.lanes = s.lanes ∧
      (u.team? t.tid).map (·.smode) = some r ∧
      (∀ m ∈ t.named q.mask, ((u.cluster t.cluster).macro' m).mode = if q.toQueue then .queue else .scratch) ∧
      ((t.named q.mask).Nodup → ∀ m ∈ t.named q.mask, (u.cluster t.cluster).macro' m = ((s.cluster t.cluster).macro' m).convert q.toQueue) ∧
      ∀ m, m ∉ t.named q.mask → (u.cluster t.cluster).macro' m = (s.cluster t.cluster).macro' m)) ∧
  ∀ x : Sram, x.data.wf = true → x.mode = .queue → x.qcount ≤ 3072 → x.qhead < 3072 → let y := x.convert false
    y.tags = [] ∧ y.qcount = 0 ∧ y.prod = none ∧ y.cons = none ∧
    (∀ k < x.qcount, readBytes y.data (16 * k) 16 = readBytes x.data (16 * ((x.qhead + k) % 3072)) 16) ∧
    ∀ a, 16 * x.qcount ≤ a → readByte y.data a = readByte x.data a

/-- R118, R370, R371, R468: PREF goes on whatever it meets, changes no value, and brings a line to the level that it names. CINV and CFLUSH take a
translation fault at the word, as of a one-byte load, so that an admitted object's page denies them, and clear presence bits of the line in the
cluster's L1, the core's, or at cluster scope or wider all four. CFLUSH at device or system scope brings an HBM line's data home and writes it to
HBM, and takes DATA_UE where its fold discards partials; at system scope it writes a dirty line of the capacity tier or of
host memory back, and drops the latter. -/
def Sys2Proof.Claims.CacheOperations : Prop :=
  (∀ (a : VReg) (v : Fin 8), Each (.pref a v) fun s l t =>
    let va := (l.pair a).toNat
    t.lanes = (s.setLane (l.adv 4)).lanes ∧ (2 ^ 57 ≤ va → t = s.setLane (l.adv 4)) ∧
    (va < 2 ^ 57 →
      (∀ u f, s.translate { s.who l with quiet := true } va .read = (u, .fault f) → t = u.setLane (l.adv 4)) ∧
      (∀ u, s.translate { s.who l with quiet := true } va .read = (u, .wait) → t = u.setLane (l.adv 4)) ∧
      ∀ u x, s.translate { s.who l with quiet := true } va .read = (u, .ok x) → let ln := x.addr / 128
        ((x.attr = .device ∨ x.attr = .hostc ∨ inHbm x.addr = false ∨ ln ∈ u.poison ∨ u.ownCheck l.part x.addr false ≠ .performed) →
          t = u.setLane (l.adv 4)) ∧
        ((u.line ln).mash = false → SameMem u t ∧ Kept u t) ∧
        ((x.attr = .normal ∨ x.attr = .acc) → inHbm x.addr = true → u.ownCheck l.part x.addr false = .performed → u.codeFrame l.part x.addr = none →
          ln ∉ u.poison → u.lineBusy ln (Fin.ofNat 10 (l.die % 4)) false = false →
          (v = 2 → ln ∈ tget [] (l3Key ln) t.l3) ∧
          (v = 0 → x.attr = .normal → (u.line ln).mash = false → (u.cluster l.cluster).cacheWays ≠ 0 →
            ∃ e ∈ (t.cluster l.cluster).l1, e.line = ln ∧ e.mask.getLsbD l.core = true ∧ e.data = BitVec.ofNat 1024 (readNat u.mem (128 * ln) 128))))) ∧
  ∀ (a : VReg) (e : Scope) (flush : Bool), Each (if flush then .cflush a e else .cinv a e) fun s l t =>
    (∀ u f, s.translate (s.who l) (l.pair a).toNat .read = (u, .fault f) → t = u.setLane (faultsHere l f)) ∧
    (∀ u, s.translate (s.who l) (l.pair a).toNat .read = (u, .wait) → t = u.setLane l.stall) ∧
    (∀ u x, s.translate (s.who l) (l.pair a).toNat .read = (u, .ok x) → (u.codeAt l.part x.codeKey).isSome = true →
      t = u.setLane (faultsHere l { reason := 2, va := (l.pair a).toNat, write := false, fetch := false })) ∧
    ∀ u x, s.translate (s.who l) (l.pair a).toNat .read = (u, .ok x) → u.codeAt l.part x.codeKey = none → let ln := x.addr / 128
      let home : Fin 10 := 8
      let back := flush = true ∧ (e = .device ∨ e = .system) ∧ (x.attr = .normal ∨ x.attr = .acc) ∧ inHbm x.addr = true ∧
        u.ownCheck l.part x.addr false = .performed
      let busy := u.away ln = true ∨ u.lineBusy ln home false = true
      let lost := (u.line ln).mash = true ∧ ln ∈ u.poison
      (back → busy → t.lanes = (u.setLane l.stall).lanes) ∧
      (back → ¬ busy → lost → t.lanes = (u.setLane ((l.defer (if flush then .cflush a e else .cinv a e) [] [] [] 0
        (.dataUe 2 (BitVec.ofNat 64 (l.pair a).toNat) false)).adv 4)).lanes) ∧
      (¬ (back ∧ (busy ∨ lost)) → t.lanes = (u.setLane (l.adv 4)).lanes) ∧
      (∀ y ∈ (t.cluster l.cluster).l1, y.line = ln → x.attr ≠ .hostc → y.mask.getLsbD l.core = false ∧
        (e = .cluster ∨ e = .die ∨ e = .device ∨ e = .system → y.mask = 0)) ∧
      (∀ y, y.line ≠ ln → (y ∈ (t.cluster l.cluster).l1 ↔ y ∈ (u.cluster l.cluster).l1)) ∧
      ((flush = false ∨ (e ≠ .device ∧ e ≠ .system) ∨ x.attr = .device ∨ (inPeer x.addr = true ∧ x.attr ≠ .hostc)) →
        t.mem = u.mem ∧ t.hostMem = u.hostMem ∧ t.lines = u.lines ∧ t.capLines = u.capLines ∧ Kept u t) ∧
      (back → ¬ busy → (u.line ln).mash = false →
        SameMem u t ∧ Kept u t ∧ (∃ r ∈ tget [] (hbmPc x.addr) t.hbmq ++ tget [] (bankKey (hbmPc x.addr) (hbmBank x.addr)) t.sideq, r.dpa = x.addr) ∧
        ((u.line ln).mayRead home = true → (t.line ln).holds = (u.line ln).holds) ∧
        ∀ o, (u.line ln).ownerOf = some o → 0 < (u.line ln).holds[o].t → (∀ m ∈ u.net, m.line = ln → m.tokens = 0) → (t.line ln).mayRead home = true) ∧
      (flush = true → e = .system → x.attr = .hostc → ∀ h, u.hostLines.find? (fun y => y.1 == x.addr / 64) = some h → h.2.data.length = 64 →
        u.hostMem.wf = true → t.hostLines.find? (fun y => y.1 == x.addr / 64) = none ∧
          (h.2.dirty = true → readBytes t.hostMem (64 * (x.addr / 64)) 64 = h.2.data) ∧ (h.2.dirty = false → t.hostMem = u.hostMem)) ∧
      (flush = true → e = .system → (x.attr = .normal ∨ x.attr = .acc) → inCap x.addr = true → ∀ c, u.capLine? ln = some c →
        t.capLine? ln = some { c with dirty := false } ∧
        ∀ g, (u.extents.map (·.2)).find? (fun g => g.state != .free && decide (2 ^ 44 + g.off ≤ 128 * ln) && decide (128 * ln < 2 ^ 44 + g.off + g.len)) = some g →
          c.dirty = true → c.data.length = 128 → u.hostMem.wf = true → readBytes t.hostMem (g.hpa + (128 * ln - 2 ^ 44 - g.off)) 128 = c.data)

/-- R128 to R131, R475 to R477: ROWPIN notes the first status that applies, NOTROW, OTHER, ALREADY, CONFLICT, BANKFULL, BUDGET or OK, and takes the pin
with OK alone, whose status waits until the row is open; ROWQRY notes the state of the row; ROWREL drops this team's pin of the row, ROWREL.all every
one. What counts as another team's hold is the model's reading (log entry 50); that an admitted object's address gives a status, and no PERM, is its
choice (log entry 57). -/
def Sys2Proof.Claims.RowPins : Prop :=
  (∀ (s : State) (p tid : Nat) (x : Phys),
    let row := x.addr / 1024
    let own := s.pins.find? fun q => q.part == p && q.row == row && q.tid == tid
    let other := ∃ q ∈ s.pins, q.part = p ∧ q.row = row ∧ q.tid ≠ tid
    let rival := ∃ q ∈ s.pins, q.state = .pinned ∧ q.row ≠ row ∧ rowBank q.row = rowBank row ∧ rowSag q.row = rowSag row
    let full := ∃ q ∈ s.pins, ∃ r ∈ s.pins, q.state = .pinned ∧ r.state = .pinned ∧ rowBank q.row = rowBank row ∧ rowBank r.row = rowBank row ∧
      rowSag q.row ≠ rowSag row ∧ rowSag r.row ≠ rowSag row ∧ rowSag q.row ≠ rowSag r.row
    let may := (x.attr = .normal ∨ x.attr = .acc) ∧ inHbm x.addr = true ∧ x.addr / 65536 ∉ s.reserved ∧ fotState (s.fotOf (x.addr / 65536)) = 1 ∧ fotOwner (s.fotOf (x.addr / 65536)) = p
    (¬ may → s.pinStatus p tid x = 6) ∧ (may → other → s.pinStatus p tid x = 5) ∧
    (may → ¬ other →
      (∀ q, own = some q → q.state = .pinned → s.pinStatus p tid x = 1) ∧
      ((∀ q, own = some q → q.state ≠ .pinned) →
        (rival → s.pinStatus p tid x = 4) ∧ (¬ rival → full → s.pinStatus p tid x = 3) ∧
        (¬ rival → ¬ full →
          (own ≠ none → s.pinStatus p tid x = 0) ∧
          (own = none → s.pinStatus p tid x = if 64 ≤ (s.pins.filter fun q => q.part == p).length then 2 else 0)))) ∧
    (inHbm x.addr = false ∨ x.attr = .hostc → s.pinWord p tid x = 0) ∧
    (inHbm x.addr = true → x.attr ≠ .hostc →
      (own = none → (other → s.pinWord p tid x = 3) ∧ (¬ other → s.pinWord p tid x = 0)) ∧
      ∀ q, own = some q → (q.state = .pinned → s.pinWord p tid x = 1) ∧ ∀ r, q.state = .broken r → s.pinWord p tid x = 2 + 256 * r)) ∧
  (∀ (d a : VReg) (query : Bool), let i : Instr := if query then .rowqry d a else .rowpin d a
    Each i fun s l t =>
      let va := (l.pair a).toNat
      let note := fun (x : Nat) (w : Wait) => (l.defer i (l.vs a 2) (regsFrom d 1 x) [] 0 w).adv 8
      (2 ^ 57 ≤ va → t = s.setLane (faultsHere l { reason := 4, va := va, write := false, fetch := false })) ∧
      (va < 2 ^ 57 → l.room = false → t = s.setLane l.stall) ∧
      (va < 2 ^ 57 → l.room = true →
        (∀ u f, s.translate (s.who l) va .read = (u, .fault f) → t = u.setLane (note 0 (.page f 0))) ∧
        (∀ u, s.translate (s.who l) va .read = (u, .wait) → t = u.setLane l.stall) ∧
        ∀ u x, s.translate (s.who l) va .read = (u, .ok x) → let st := u.pinStatus l.part l.id.tid x; let row := x.addr / 1024
          (query = true → t = u.setLane (note (u.pinWord l.part l.id.tid x) .ready)) ∧
          (query = false → st ≠ 0 → t = u.setLane (note st .ready)) ∧
          (query = false → st = 0 → SameMem u t ∧ Kept u t ∧
            (u.ownPin l.part l.id.tid row = none → t.pins = u.pins ++ [{ tid := l.id.tid, part := l.part, row := row, state := .pinned }]) ∧
            (u.ownPin l.part l.id.tid row ≠ none → t.pins = u.pins.map fun q =>
              if q.part = l.part ∧ q.row = row ∧ q.tid = l.id.tid then { q with state := .pinned } else q) ∧
            (u.openRow (rowBank row) (rowSag row) = some row → t.lanes = (u.setLane (note 0 .ready)).lanes) ∧
            (u.openRow (rowBank row) (rowSag row) ≠ some row → t.lanes = (u.setLane (note 0 (.engine row))).lanes ∧
              ∃ r ∈ tget [] (hbmPc (1024 * row)) t.hbmq ++ tget [] (rowBank row) t.sideq, r.dpa = 1024 * row)))) ∧
  (∀ a : VReg, Each (.rowrel a) fun s l t =>
    (∀ u f, s.translate (s.who l) (l.pair a).toNat .read = (u, .fault f) → t = u.setLane (faultsHere l f)) ∧
    (∀ u, s.translate (s.who l) (l.pair a).toNat .read = (u, .wait) → t = u.setLane l.stall) ∧
    ∀ u x, s.translate (s.who l) (l.pair a).toNat .read = (u, .ok x) →
      t = (if inHbm x.addr = true ∧ x.attr ≠ .hostc then
          { u with pins := u.pins.filter fun q => !(q.tid == l.id.tid && q.row == x.addr / 1024) } else u : State).setLane (l.adv 8)) ∧
  Each .rowrelAll (fun s l t => t = ({ s with pins := s.pins.filter fun q => !(q.tid == l.id.tid) } : State).setLane (l.adv 8))


/-- Together: CacheOperations, RowPins. -/
def Obligations.CachesAndRowPins : Prop := Claims.CacheOperations ∧ Claims.RowPins

/-! ## Launches, transfers and collectives started by lanes -/

namespace Sys2Proof.Claims

/-- The resident team that a copy between teams names (R209). -/
def copyPeer (s : State) (l : Lane) (gather : Bool) (d : List Word) : Option Team :=
  if gather = false ∧ cpyPath d = .s2ps then s.peerTeam l (dw d 3) else none
/-- The scratch macros of a team, by cluster and number. -/
def macrosOf (s : State) (t : Team) : List Nat := (s.scratchList t).map (t.cluster * 32 + ·)

/-- The transfer that a CPY or GTHR word of a lane starts (R208, R377, R414). -/
def newXfer (s : State) (l : Lane) (gather : Bool) (d : List Word) : Xfer :=
  { id := s.nextId, lane := l.id, part := l.part, ctx := s.laneCtx l, sup := l.sup, pc := l.pc, cluster := l.cluster, core := l.core,
    gather := gather, path := if gather then (if gthGlobal d then .g2g else .g2s) else cpyPath d, tile := none, desc := d,
    scratch := if gather = true ∨ cpyPath d ≠ .g2g then macrosOf s (s.teamOf l) else [], peerTid := (copyPeer s l gather d).elim 0 (·.tid),
    peerScratch := (copyPeer s l gather d).elim [] (macrosOf s), done := 0, repeats := 0, fid := none, wait := none, got := [], gath := none, aborted := false }

end Sys2Proof.Claims

/-- R201, R208, R209, R414, R415, R442, R443: LAUNCH, a release of the lane's earlier accesses, enqueues the record that it reads, or writes QFULL; CPY
and GTHR start a transfer from the eight words at v[a], raise DESC or SCRATCH_RANGE for a descriptor that cannot be used, and wait while 32 transfers
of the core are outstanding. That LAUNCH, CPY and GTHR wait at the word for the release, taking a fault of it as at a marker, and LAUNCH for a lane in a
lower slot, is the model's choice (log entry 54). -/
def Sys2Proof.Claims.LaunchesAndTransfers : Prop :=
  (∀ a : VReg, EachAfter (.launch a) fun s0 s l t =>
    let late := ∃ m ∈ s0.actives, m.id.slot < l.id.slot ∧ ∃ x, s.lane? m.id = some x ∧ x.skipped = true ∧ x.pc = m.pc ∧ x.depth = m.depth ∧
      x.trap = none ∧ x.pfault = none
    let m : Lane := { l with fetched := [] }
    ((l.pair a).toNat % 64 ≠ 0 → t = s.raise l (l.causeHere 0x04 6 (l.pair a))) ∧
    ((l.pair a).toNat % 64 = 0 → late → t = s.setLane l.stall) ∧
    ((l.pair a).toNat % 64 = 0 → ¬ late →
      (s.pendings l ≠ [] → t = s.setLane { l.stall with marker := l.marker || (s.pendings l).any (·.faulted) }) ∧
      (s.pendings l = [] → ∀ u r, s.readRecord l (l.pair a).toNat 6 = (u, r) →
        (∀ f, r = .page f → t = u.setLane (m.pageHere f)) ∧
        (r = .ue → t = u.raise m (m.causeHere 0x07 0 (l.pair a))) ∧
        (r = .busy → t = u.setLane l.stall) ∧
        (∀ x, r = .ok x → (u.part l.part).dq.length < 256 →
          t = (u.modPart l.part fun y => { y with dq := y.dq ++ [{ lrec := x, ctx := s.laneCtx l }] }).setLane (m.adv 4)) ∧
        (∀ x, r = .ok x → 256 ≤ (u.part l.part).dq.length → t = (u.refuseLaunch l.part x none 10).setLane (m.adv 4))))) ∧
  (∀ (s : State) (l : Lane) (va n : Nat), ∀ u bs,
    (s.loadVia (s.via l) va 64 = (u, .data bs) ∨ ∃ b a, s.loadVia (s.via l) va 64 = (u, .peer a) ∧ bs = b :: bs.tail ∧
      l.fetched.find? (fun e => e.1 == va) = some (va, bs)) →
    ∀ w x, u.readRecord l (va + 64) n = (w, .ok x) → s.readRecord l va (n + 1) = (w, .ok (leNat bs + 2 ^ 512 * x))) ∧
  (∀ (a : VReg) (e : Scope) (gather : Bool), Each (if gather then .gthr a e else .cpy a e) fun s l t =>
    let d := l.vs a 8
    let converts := (gather = true ∨ cpyPath d ≠ .g2g) ∧ ((s.teamOf l).converting = true ∨ ∃ y, copyPeer s l gather d = some y ∧ y.converting = true)
    let core := s.xfers.filter fun x => x.cluster == l.cluster && x.core == l.core
    (converts → t = s.setLane l.stall) ∧
    (¬ converts → ∀ c, s.xferCause l gather d = some c → t = s.raise l (l.causeHere c.1 c.2.1 c.2.2)) ∧
    (¬ converts → s.xferCause l gather d = none →
      (32 ≤ core.length → t = s.setLane l.stall) ∧
      (core.length < 32 →
        (e ≠ .lane → s.pendings l ≠ [] → t = s.setLane { l.stall with marker := l.marker || (s.pendings l).any (·.faulted) }) ∧
        ((e = .lane ∨ s.pendings l = []) →
          (e = .system → l.lostStore = true → t = s.setLane { l.stall with marker := true }) ∧
          (e = .system → l.lostStore = false → s.peerStores l = true → t = s.setLane l.stall) ∧
          ((e = .system → l.lostStore = false ∧ s.peerStores l = false) →
            t = ({ s with xfers := s.xfers ++ [newXfer s l gather d], nextId := s.nextId + 1 } : State).setLane (l.adv 8)))))) ∧
  ∀ (s : State) (l : Lane) (d : List Word),
    (cpyRows d = 0 ∨ dw d 4 = 0 ∨ dw d 4 % 16 ≠ 0 ∨ 65536 < dw d 4 * cpyRows d ∨ dw d 0 % 16 ≠ 0 ∨ dw d 2 % 16 ≠ 0 ∨ dw d 6 % 16 ≠ 0 ∨
        dw d 7 % 16 ≠ 0 ∨ fld (dw d 5) 24 8 ≠ 0 ∨ ((cpyPath d = .s2g ∨ cpyPath d = .s2ps) ∧ dw d 1 ≠ 0) ∨ (cpyPath d = .g2s ∧ dw d 3 ≠ 0) →
      s.xferCause l false d = some (0x0D, 0, BitVec.ofNat 64 (dw d 5))) ∧
    (gthCount d = 0 ∨ 4096 < gthCount d ∨ fld (dw d 5) 16 16 ≠ 0 ∨ fld (dw d 5) 0 6 ≠ 0 ∨ fld (dw d 7) 16 16 ≠ 0 ∨ dw d 4 % 4 ≠ 0 →
      s.xferCause l true d = some (0x0D, 0, BitVec.ofNat 64 (dw d 5)))

/-- R173, R209 to R211, R229, R386, R416, R417: COPY_COMPLETE moves the destination lines that are left, in ascending address, each whole: the transfer
ends, waits where a line must, is suspended with a PAGE record by a translation fault, or ends at poisoned data, which its lane's DRAIN of the
path takes. A transfer that is suspended or waits for a peer stays as it is, and one that is aborted ends. That a transfer moves its lines at its
completion is the model's choice (log entry 14). -/
def Sys2Proof.Claims.TransfersComplete : Prop :=
  (∀ (s : State) (x : Xfer), s.xfers.find? (fun y => y.id == x.id) = some x → x.tile = none →
    (s.serving x.part = false → exec (.copyComplete x.id) s = .next s) ∧
    (s.serving x.part = true →
      (x.aborted = true → exec (.copyComplete x.id) s = .next (s.endXfer x.id)) ∧
      (x.aborted = false → (x.fid ≠ none ∨ x.wait ≠ none) → exec (.copyComplete x.id) s = .next s) ∧
      (x.aborted = false → x.fid = none → x.wait = none → ∀ t y m, State.runXfer (xferPieces x) ((xferLines x).drop x.done) s x = (t, y, m) →
        exec (.copyComplete x.id) s = .next (match m with
          | .done => t.endXfer x.id
          | .wait => t.setXfer y
          | .page f => t.suspendXfer y f
          | .ue va => ((t.modLane y.lane fun l => { l with errs := l.errs ++ [(y.path, 0x07, 0, BitVec.ofNat 64 va)] }).endXfer x.id))))) ∧
  (∀ (s : State) (id : Nat), (∀ x ∈ s.xfers, x.id ≠ id) → exec (.copyComplete id) s = .next s) ∧
  (∀ x : Xfer, (xferLines x).Pairwise (· < ·) ∧ ∀ n, n ∈ xferLines x ↔ ∃ p ∈ xferPieces x, p.dst / 128 = n) ∧
  (∀ x : Xfer, x.gather = false → dw x.desc 4 % 16 = 0 → ∀ r < cpyRows x.desc, ∀ k < dw x.desc 4, ∃ p ∈ xferPieces x, ∃ j < p.len,
    p.dst % 128 + p.len ≤ 128 ∧ (p.dst + j) % 2 ^ 64 = ((cpyRow x.desc true (Path.dstScratch x.path) r).toNat + k) % 2 ^ 64 ∧
    let a := (cpyRow x.desc false (Path.srcScratch x.path) r).toNat
    match p.src with
    | .inl (.mem va) => Path.srcScratch x.path = false ∧ (va + j) % 2 ^ 64 = (a + k) % 2 ^ 64
    | .inl (.scr c list code sa) => Path.srcScratch x.path = true ∧ c = x.cluster ∧ list = x.scratch.map (· % 32) ∧ code = cpySswz x.desc ∧ sa + j = a + k
    | .inr _ => False) ∧
  (∀ (s t : State) (x y : Xfer) (ps : List XPiece) (line : Nat) (r : List Nat) (m : Move), x.wait = none →
    s.moveLine x line (ps.filter fun p => p.dst / 128 == line) = (t, y, m) →
    (m = .done → State.runXfer ps (line :: r) s x = State.runXfer ps r t y) ∧ (m ≠ .done → State.runXfer ps (line :: r) s x = (t, y, m))) ∧
  (∀ (s : State) (x : Xfer) (p : XPiece) (c : Nat) (list : List Nat) (code : Nat) (a : Int) (ps : List Piece), p.src = .inl (.scr c list code a) →
    pieces list code a p.len = some ps → ∀ bs, s.readPieces c ps = some bs → s.readPiece x p = (s, x, .inl bs)) ∧
  (∀ (s u : State) (x : Xfer) (p : XPiece) (va : Nat) (y : Phys), let w := (s.xferVia x).who; let ag := (s.xferVia x).agent
    p.src = .inl (.mem va) → va < 2 ^ 57 → x.got = [] → va % 128 + p.len ≤ 128 → ReachesAt s u w ag (va / 128 * 128) 128 .read y →
    y.addr / 128 ∉ u.poison → ∃ t z, s.readPiece x p = (t, z, .inl (leBytes (shown u { y with addr := y.addr + va % 128 } p.len) p.len)) ∧ SameMem u t) ∧
  (∀ (s : State) (x : Xfer) (p : XPiece) (i : Nat) (ps : List Piece) (bs : List Byte), p.src = .inr i → indexPieces x i = some ps →
    s.readPieces x.cluster ps = some bs →
    s.sideOf x p = .mem (((dSrc x.desc : Int) + leNat bs * dSigned x.desc 6) % 2 ^ 64).toNat) ∧
  (∀ (s : State) (x : Xfer) (line a : Nat) (bs : List Byte) (ps : List Piece), x.toScratch = true → s.peerHere x = true →
    pieces x.dstScr.2.1 x.dstScr.2.2 a bs.length = some ps →
    s.writeLine x line [(a, bs)] = (s.writePieces x.dstScr.1 x.dstScr.2.2 ps bs, x, .done)) ∧
  (∀ (s u : State) (x : Xfer) (a : Nat) (bs : List Byte) (y : Phys), let w := (s.xferVia x).who; let ag := (s.xferVia x).agent
    bs ≠ [] → ReachesAt s u w ag a bs.length .write y → y.addr / 128 ∉ u.poison →
    ∃ t, s.writeRuns x [(a, bs)] = (t, x, .done) ∧ Stored u t y.addr (if y.attr = .acc then bs.take (96 - y.addr % 128) else bs)) ∧
  (∀ (ws : List (Nat × List Byte)) (w : Nat × List Byte) (a : Nat),
    byteAt (ws ++ [w]) a = (if w.1 ≤ a ∧ a < w.1 + w.2.length then w.2[a - w.1]? else byteAt ws a)) ∧
  ∀ (ws : List (Nat × List Byte)) (line a : Nat), a / 128 = line →
    ((runsOf ws line).findSome? fun w => if w.1 ≤ a ∧ a < w.1 + w.2.length then w.2[a - w.1]? else none) = byteAt ws a

/-- Together: LaunchesAndTransfers, TransfersComplete. -/
def Obligations.LaunchesAndTransfersRun : Prop := Claims.LaunchesAndTransfers ∧ Claims.TransfersComplete

/-- R218, R221, R300, R375, R376: COLL acts once for the bundle, with the operands of its lowest lane: a page fault on the descriptor is taken at the word, a handle
not waited for raises COLLBUSY; else a collective starts on the handle, whose engine reads nothing before that lane's earlier accesses are performed, or
ends there and at the other members at once with DESC or FAULT, or with DUP. COLLW takes the status, which frees the handle, or parks. The model's
choices: that requests that came early are kept, the announcement of a broadcast and of an
all-gather (log entry 34), that a LIST not owned ends with DESC and a poisoned one with FAULT (log entry 57), and that COLL waits for accesses that must
come before the read of its descriptor, but for one that has faulted (log entry 54). -/
def Sys2Proof.Claims.CollectiveWords : Prop :=
  (∀ (a : VReg) (h : Fin 4) (e : Scope) (s : State) (l : Lane), Legal s (.coll a h e) → s.lead = some l →
    let va := (l.pair a).toNat
    let handle := (s.teamOf l).handle h.val
    let busy := ∃ c, handle = .pending c ∨ handle = .done c
    let waits := ∃ u ∈ s.pendings l, u.faulted = false ∧ (u.acquires = true ∨ (u.touches va 64 = true ∧ readOnly u.instr = false))
    let goes := fun u : State => mapActive u fun m =>
      { m with marker := m.marker || (m.id == l.id && e == Scope.system && l.lostStore), fetched := [] }.adv 8
    (waits → exec (.coll a h e) s = .next (mapActive s Lane.stall)) ∧
    (¬ waits → ∀ u r, s.readDesc l va = (u, r) →
      (∀ f, r = .page f → exec (.coll a h e) s = .next (mapActive u fun m => faultsHere m f)) ∧
      (r = .busy → exec (.coll a h e) s = .next (mapActive u Lane.stall)) ∧
      ((∀ f, r ≠ .page f) → r ≠ .busy →
        (busy → exec (.coll a h e) s = .next (eachActive u fun s l => s.raise l (l.causeHere 0x0E h.val 0))) ∧
        (¬ busy →
          (∀ bs, r = .data bs → ∀ v b, u.collChecks l (leNat bs) = (v, b) →
            (b = none → exec (.coll a h e) s = .next (mapActive v Lane.stall)) ∧
            ∀ x, b = some x → exec (.coll a h e) s = .next (goes (v.startColl l h.val (leNat bs) e (va % 64 == 0) x))) ∧
          (∀ b, r = .ue b → exec (.coll a h e) s = .next (goes (u.handleDone l.part l.id.tid h.val 6))) ∧
          (∀ x, r = .peer x → exec (.coll a h e) s = .next (goes (u.handleDone l.part l.id.tid h.val 2))))))) ∧
  (∀ (s : State) (l : Lane) (va : Nat), va % 128 ≤ 64 → (∀ a, (s.loadVia (s.via l) va 64).2 ≠ .peer a) →
    s.readDesc l va = s.loadVia (s.via l) va 64) ∧
  (∀ (s u : State) (l : Lane) (va a : Nat) (bs : List Byte), va % 64 = 0 → s.loadVia (s.via l) va 64 = (u, .peer a) → bs ≠ [] →
    l.fetched.find? (fun x => x.1 == va) = some (va, bs) → s.readDesc l va = (u, .data bs)) ∧
  (∀ (s : State) (l : Lane) (d : Nat), let e := tget 0 (dSet d) (s.part l.part).sets
    (dOp d ≠ 0 → dSet d ≤ 63 → setN e ≠ 0 → ∀ u r, s.setPkgs l.part e = (u, r) → s.collChecks l d = (u, r.map fun p => (false, p))) ∧
    (dOp d = 0 → collBad d e = false → ∀ v b, s.kaccPages (s.who l) d = (v, b) → ∀ u r, v.setPkgs l.part e = (u, r) →
      s.collChecks l d = (u, b.bind fun x => r.map fun p => (x, p)))) ∧
  (∀ (s : State) (l : Lane) (h d : Nat) (x : Scope) (aligned : Bool) (b : Bool × Option (List Nat)),
    let e := tget 0 (dSet d) (s.part l.part).sets
    let told := fun st : Nat => match b.2 with
      | some ps => if 2 ≤ ps.length then s.sendColl ps (s.collReq l.part d 0 0 (.abort st)) else s
      | none => s
    let unusable := aligned = false ∨ collBad d e = true ∨ b.1 = true ∨ b.2 = none
    (unusable → s.startColl l h d x aligned b = (told 2).handleDone l.part l.id.tid h 2) ∧
    (¬ unusable →
      (s.setPoisoned e = true → s.startColl l h d x aligned b = (told 6).handleDone l.part l.id.tid h 6) ∧
      (s.setPoisoned e = false →
        ((∃ c ∈ s.colls, c.part = l.part ∧ dCid c.desc = dCid d) → s.startColl l h d x aligned b = s.handleDone l.part l.id.tid h 4) ∧
        ((∀ c ∈ s.colls, c.part = l.part → dCid c.desc ≠ dCid d) → ∀ ps, b.2 = some ps →
          let c : Coll :=
            { id := s.nextId, part := l.part, tid := l.id.tid, handle := h, lane := l.id, ctx := s.laneCtx l, sup := l.sup, die := l.die, pc := l.pc,
              desc := d, members := setN e, rank := setRank e, pkgs := ps, start := s.time, stage := .reading, own := [], got := [], mag := (0, 0), done := 0,
              repeats := 0, fid := none, gath := [], src := [], ready := 1,
              after := if x = .lane then { defs := [], atoms := [], reqs := [] } else s.boundOf l }
          let mine := s.collIn.filter fun r => r.ftag == (s.part l.part).ftag && r.setId == dSet d && r.cid == dCid d
          let s1 : State := ({ s with colls := s.colls ++ [c], nextId := s.nextId + 1, collIn := s.collIn.filter fun r => !mine.contains r } : State).setHandle
            l.part l.id.tid h (.pending c.id)
          let s2 := if (dOp d = 4 ∨ dOp d = 5) ∧ c.members ≠ 1 then s1.sendColl ps (s1.collReq l.part d 0 1 .none) else s1
          let s3 := s2.takeEarly c.id mine
          s.startColl l h d x aligned b = match s3.colls.find? (fun y => y.id == c.id) with
            | some y => s3.runColl y
            | none => s3))) ∧
    (∀ g, (5 < dOp d ∨ 1 < dType d ∨ (dType d = 1 ∧ dOp d ≤ 1) ∨ dCount d = 0 ∨ 2 ^ 26 < dCount d ∨ (dOp d = 0 ∧ 4096 < dCount d) ∨ 63 < dSet d ∨
      (dOp d = 1 ∧ dQw d ≠ 16 ∧ dQw d ≠ 24 ∧ dQw d ≠ 32) ∨ (dOp d = 4 ∧ setN g ≤ dRoot d) ∨ fld d 26 6 ≠ 0 ∨ fld d 272 16 ≠ 0 ∨ fld d 296 24 ≠ 0 ∨
      2 ^ 352 ≤ d ∨ setEn g = false ∨ setN g = 0 ∨ setN g ≤ setRank g) → collBad d g = true)) ∧
  (∀ (s : State) (p e : Nat) (u : State) (ps : List Nat), s.setPkgs p e = (u, some (some ps)) → ps.length = setN e ∧
    ∀ i < setN e, (128 * ((fld e 64 64 + 2 * i) / 128) < 2 ^ 39 ∧ (fld e 64 64 + 2 * i) / 65536 ∉ s.reserved ∧
      fotState (s.fotOf ((fld e 64 64 + 2 * i) / 65536)) = 1 ∧ fotOwner (s.fotOf ((fld e 64 64 + 2 * i) / 65536)) = p) ∧
      ps[i]? = some (readNat u.mem (fld e 64 64 + 2 * i) 2)) ∧
  (∀ (s : State) (p e : Nat), (∃ n ∈ linesOf (fld e 64 64) (2 * setN e), s.owned p (128 * n) = false) → s.setPkgs p e = (s, some none)) ∧
  ∀ (d : VReg) (h : Fin 4) (s : State) (l : Lane), Legal s (.collw d h) → s.lead = some l →
    let give := fun st : Nat => (mapActive s fun m => (m.setV d (BitVec.ofNat 32 st)).adv 8).acquireAll (fun m => m.issuing) .device
    (∀ c, (s.teamOf l).handle h.val = .pending c →
      exec (.collw d h) s = .next (mapActive s fun m => { m.adv 8 with park := .collw h.val d.val, bundle := none, issuing := false })) ∧
    (∀ st, (s.teamOf l).handle h.val = .done st → exec (.collw d h) s = .next ((give st).setHandle l.part l.id.tid h.val (.free st))) ∧
    (∀ st, (s.teamOf l).handle h.val = .free st → exec (.collw d h) s = .next (give st)) ∧
    ((s.teamOf l).handle h.val = .unused → exec (.collw d h) s = .next (give 0))

/-- R219, R220: what the members' contributions to one element give: merges, sums, largest and smallest, the root's or each rank's own; of isum, the exponent of the
largest magnitude, the integers, and OUT and RES, each rounded once; where the bytes of an element are written. The quantised value, OUT and RES of a NaN
or an infinity and its magnitude word are the model's choice (log entry 34). -/
def Sys2Proof.Claims.CollectiveArithmetic : Prop :=
  (∀ (op type : Nat) (x y : LA), combine op type (.la x) (.la y) = .la (laMerge x y false)) ∧
  (∀ (op type : Nat) (q k q' k' : DWord) (x y : LA), combine op type (.isum q k x) (.isum q' k' y) = .isum (q + q') (k + k') (laMerge x y false)) ∧
  (∀ x y : Word, combine 2 1 (.word x) (.word y) = .word (BitVec.ofInt 32 (max x.toInt y.toInt)) ∧
    combine 3 1 (.word x) (.word y) = .word (BitVec.ofInt 32 (min x.toInt y.toInt)) ∧
    ∀ u v, finite? fmtF32 x.toNat = some u → finite? fmtF32 y.toNat = some v → u < v → combine 2 0 (.word x) (.word y) = .word y ∧
      combine 2 0 (.word y) (.word x) = .word y ∧ combine 3 0 (.word x) (.word y) = .word x ∧ combine 3 0 (.word y) (.word x) = .word x) ∧
  (∀ (c : Coll), (dOp c.desc = 4 → c.rank ≠ dRoot c.desc → c.toRead = 0) ∧ (dOp c.desc ≠ 4 ∨ c.rank = dRoot c.desc → c.toRead = dCount c.desc) ∧
    (∀ i, c.contribs i = (c.own.drop i).mapIdx fun j p => ((if dOp c.desc = 5 then c.rank * dCount c.desc else 0) + (i + j), p)) ∧
    (dOp c.desc = 5 → c.outs = dCount c.desc * c.members) ∧ (dOp c.desc ≠ 5 → c.outs = dCount c.desc)) ∧
  (∀ (x : LA), isSpecial x = false → x.val ≠ 0 → (2 : Int) ^ 149 ∣ x.val.toInt → x.val.toInt.natAbs < 2 ^ 426 →
    (2 : ℚ) ^ (magExp (magWord x) - 1) ≤ |(x.val.toInt : ℚ) * (2 : ℚ) ^ (-298 : Int)| ∧
    |(x.val.toInt : ℚ) * (2 : ℚ) ^ (-298 : Int)| < (2 : ℚ) ^ magExp (magWord x)) ∧
  (∀ v w : Nat, 0 < v → v ≤ w → w ≤ 0x7F800000 → magExp v ≤ magExp w) ∧
  (∀ (x : LA) (e : Int) (qw : Nat), qw = 16 ∨ qw = 24 ∨ qw = 32 →
    (isSpecial x = true → quant x e qw = 0) ∧
    (isSpecial x = false → ∃ r : Int, quant x e qw = max (-(2 ^ (qw - 1))) (min (2 ^ (qw - 1) - 1) r) ∧
      let u := (2 : ℚ) ^ (e - qw + 1); let d := |(r : ℚ) * u - (x.val.toInt : ℚ) * (2 : ℚ) ^ (-298 : Int)|
      d ≤ u / 2 ∧ (d = u / 2 → r % 2 = 0))) ∧
  (∀ (q : Int) (u : Int) (sp : LA), (isSpecial sp = true → isumOut q sp u = BitVec.ofNat 32 (roundLa sp fmtF32 .rne false).1) ∧
    (isSpecial sp = false → q = 0 → isumOut q sp u = 0) ∧
    (isSpecial sp = false → q ≠ 0 → ∃ f, RoundsTo limF32 .rne false ((isumOut q sp u).toNat, f) ((q : ℚ) * (2 : ℚ) ^ u))) ∧
  (∀ (x : LA) (q u : Int), (isSpecial x = true → isumRes x q u = 0) ∧
    (isSpecial x = false → -298 ≤ u → u ≤ 200 → q.natAbs ≤ 2 ^ 32 → x.val.toInt.natAbs < 2 ^ 600 →
      let c := (x.val.toInt : ℚ) * (2 : ℚ) ^ (-298 : Int) - (q : ℚ) * (2 : ℚ) ^ u
      c ≠ 0 → ∃ f, RoundsTo limF32 .rne false ((isumRes x q u).toNat, f) c)) ∧
  (∀ c : Coll, let q := (List.range (dCount c.desc)).map c.outPay
    (dOp c.desc ≠ 1 ∨ dCksum c.desc = false → c.cksumOk = true) ∧
    (dOp c.desc = 1 → dCksum c.desc = true → (c.cksumOk = true ↔
      (q.map fun p => match p with | .isum x _ _ => x.toNat | _ => 0).sum % 2 ^ 64 = (q.map fun p => match p with | .isum _ k _ => k.toNat | _ => 0).sum % 2 ^ 64)) ∧
    (dOp c.desc = 1 → c.cksumOk = false → ∀ n, ∀ w ∈ c.lineRuns n, ∃ i ∈ c.outsOn n, w.1 = (dOut c.desc + 4 * i) % 2 ^ 64)) ∧
  (∀ base sz n line i : Nat, (sz = 4 ∨ sz = 128) → base % sz = 0 → (i ∈ elemsOn base sz n line ↔ i < n ∧ (base + sz * i) / 128 = line)) ∧
  ∀ (c : Coll) (line : Nat), dOp c.desc ≠ 0 →
    ((∀ j ∈ c.outsOn line, (c.outBytes j).length = 4) → ∀ i ∈ c.outsOn line, ∃ w ∈ c.lineRuns line, ∃ k, (w.1 + 4 * k) % 2 ^ 64 = (dOut c.desc + 4 * i) % 2 ^ 64 ∧
      (w.2.drop (4 * k)).take 4 = c.outBytes i) ∧
    (c.cksumOk = true → (∀ j ∈ c.resOn line, (c.resBytes j).length = 4) → ∀ i ∈ c.resOn line, ∃ w ∈ c.lineRuns line, ∃ k,
      (w.1 + 4 * k) % 2 ^ 64 = (dRes c.desc + 4 * i) % 2 ^ 64 ∧ (w.2.drop (4 * k)).take 4 = c.resBytes i)

/-- R173, R178, R219, R221, R301, R525: the requests of other members and the events of a collective: a contribution counts at its element, one that a switch has
combined of all members stands alone; one that disagrees ends the collective with MISMATCH, one that aborts with its status, and the time of %colltmo with PEER.
An element is read once its destination lines are gathered, of lines read whole; a line is written once every contribution to it is here; with all written the
handle receives the status. How many lines are gathered at once, that every element of an isum is read before any is written, and the announcement that a
member has begun are the model's choice (log entry 34). -/
def Sys2Proof.Claims.CollectiveEvents : Prop :=
  (∀ (s : State) (c : Coll), s.colls.find? (fun x => x.id == c.id) = some c →
    ((s.part c.part).colltmo * 1000 ≤ s.time - c.start → exec (.collTimeout c.id) s = .next (s.abortColl c 5)) ∧
    (s.time - c.start < (s.part c.part).colltmo * 1000 → exec (.collTimeout c.id) s = .next s) ∧
    ((c.fid ≠ none ∨ s.serving c.part = false ∨ s.passed c.lane c.after = false) → exec (.collComplete c.id) s = .next s) ∧
    (c.fid = none → s.serving c.part = true → s.passed c.lane c.after = true → ∀ t d m, s.workColl c = (t, d, m) →
      exec (.collComplete c.id) s = .next (match m with
        | .done => t.endColl d (if d.cksumOk then 0 else 1)
        | .page f => t.suspendColl d f
        | .ue _ => t.abortColl d 6
        | .wait => t.setColl d))) ∧
  (∀ c : Coll, ((List.range c.dests).map c.destLine).Pairwise (· < ·) ∧
    ∀ n, n ∈ (List.range c.dests).map c.destLine ↔ ∃ e ∈ [c.outSpan, c.resSpan], e.1 ≤ n ∧ n < e.1 + e.2) ∧
  (∀ (s : State) (c : Coll) (k n : Nat), (c.gathered k c.own.length = false → State.readOwn k (n + 1) s c = (s, c, .wait)) ∧
    (c.gathered k c.own.length = true → ∀ t d r, s.readElem c c.own.length = (t, d, r) →
      (∀ p, r = .inl p → State.readOwn k (n + 1) s c = t.readOwn k n { d with own := c.own ++ [p], repeats := 0 }) ∧
      ∀ m, r = .inr m → State.readOwn k (n + 1) s c = (t, d, m))) ∧
  (∀ (s u : State) (c : Coll) (i : Nat) (y : Phys), let v := s.collVia c; let va := (dBuf c.desc + 4 * i) % 2 ^ 64
    2 ≤ dOp c.desc → c.src = [] → va % 4 = 0 → ReachesAt s u v.who v.agent (va / 128 * 128) 128 .read y → y.addr / 128 ∉ u.poison →
      ∃ t d, s.readElem c i = (t, d, .inl (.word (BitVec.ofNat 32 (shown u { y with addr := y.addr + va % 128 } 4)))) ∧ SameMem u t) ∧
  (∀ (s : State) (c : Coll) (i : Nat), dOp c.desc ≠ 1 → let q := s.sendAll c (c.contribs i)
    s.sendRead c i = (q.1, if c.stage = .reading ∧ c.own.length = c.toRead then { q.2 with stage := .combining } else q.2)) ∧
  (∀ (s : State) (c : Coll) (k n : Nat),
    ((k ≤ c.done ∨ c.mayWrite = false ∨ ∃ i ∈ c.outsOn (c.destLine c.done), c.elemFull i = false) → State.writeDests k (n + 1) s c = (s, c, .wait)) ∧
    (c.done < k → c.mayWrite = true → (∀ i ∈ c.outsOn (c.destLine c.done), c.elemFull i = true) → ∀ t m, s.writeDest c c.done = (t, m) →
      (m = .done → State.writeDests k (n + 1) s c = t.writeDests k n { c with done := c.done + 1, repeats := 0 }) ∧
      (m ≠ .done → State.writeDests k (n + 1) s c = (t, c, m))) ∧
    (dOp c.desc ≠ 0 → s.writeDest c k = s.putRuns c (c.lineRuns (c.destLine k))) ∧
    ((dOp c.desc = 4 ∨ dOp c.desc = 5) → (c.mayWrite = true ↔ c.members ≤ c.ready)) ∧
    ∀ i, c.elemFull i = true ↔ (if dOp c.desc = 4 ∨ dOp c.desc = 5 then 1 else c.members) ≤ (tget (0, .word 0) i c.got).1) ∧
  (∀ (s u : State) (c : Coll) (a : Nat) (bs : List Byte) (y : Phys), let v := s.collVia c
    bs ≠ [] → ReachesAt s u v.who v.agent a bs.length .write y → y.addr / 128 ∉ u.poison →
      ∃ t, s.putRuns c [(a, bs)] = (t, .done) ∧ Stored u t y.addr (if y.attr = .acc then bs.take (96 - y.addr % 128) else bs)) ∧
  (∀ (c : Coll) (i n j : Nat) (pay : CollPay), (j ≠ i → tget (0, .word 0) j (c.add i n pay).got = tget (0, .word 0) j c.got) ∧
    ((∀ e ∈ c.got, e.1 ≠ i) → tget (0, .word 0) i (c.add i n pay).got = (n, pay)) ∧
    (∀ e, c.got.find? (fun e => e.1 == i) = some e →
      tget (0, .word 0) i (c.add i n pay).got = (e.2.1 + n, combine (dOp c.desc) (dType c.desc) e.2.2 pay))) ∧
  ∀ (s : State) (r : CollReq),
    ∀ w ∈ [(Instr.vkacc r, 0), (.visum r, 1), (.vmax r, 2), (.vmin r, 3), (.vbcast r, 4), (.vgath r, 5), (.vmaxr r, 1)],
      let mine := fun c : Coll => (s.part c.part).ftag == r.ftag && dSet c.desc == r.setId && dCid c.desc == r.cid
      let whole := fun c : Coll => (∃ e ∈ s.links, e.2 = true) ∧ r.members = c.members
      (s.colls.find? mine = none →
        ((∀ e ∈ s.parts, e.2.ftag ≠ r.ftag) ∨ r.ftag = 0 → exec w.1 s = .next s) ∧
        ((∃ e ∈ s.parts, e.2.ftag = r.ftag) → r.ftag ≠ 0 → w.1 ≠ .vmaxr r →
          exec w.1 s = .next { s with collIn := s.collIn ++ [{ r with op := w.2 }] })) ∧
      ∀ c, s.colls.find? mine = some c →
        let agrees := w.2 = dOp c.desc ∧ r.type = dType c.desc ∧ r.count = dCount c.desc ∧ (dOp c.desc = 1 → r.qw = dQw c.desc)
        (∀ st, r.pay = .abort st → exec w.1 s = .next (s.endColl c st)) ∧
        ((∀ st, r.pay ≠ .abort st) → ¬ agrees → exec w.1 s = .next (s.abortColl c 3)) ∧
        (agrees → r.pay = .none → exec w.1 s = .next (s.setColl { c with ready := if (∃ e ∈ s.links, e.2 = true) ∧ r.members = c.members then c.members
          else c.ready + r.members })) ∧
        ((∀ st, r.pay ≠ .abort st) → r.pay ≠ .none → agrees → w.1 ≠ .vmaxr r → (dOp c.desc = 1 → ∀ x, r.pay ≠ .word x) →
          (whole c → exec w.1 s = .next (s.setColl { c with got := tset r.elem (c.members, r.pay) c.got })) ∧
          (¬ whole c → exec w.1 s = .next (s.setColl (c.add r.elem r.members r.pay)))) ∧
        ∀ x, r.pay = .word x → agrees → w.1 = .vmaxr r →
          let d : Coll := { c with mag := if (∃ e ∈ s.links, e.2 = true) ∧ r.members = c.members then (c.members, x.toNat)
            else (c.mag.1 + r.members, max c.mag.2 x.toNat) }
          ((c.stage ≠ .maxRound ∨ d.mag.1 ≠ c.members) → exec w.1 s = .next (s.setColl d)) ∧
          (c.stage = .maxRound → d.mag.1 = c.members → let q := s.sendAll { d with stage := .combining } d.quants
            exec w.1 s = .next (q.1.setColl q.2))

/-- Together: CollectiveWords, CollectiveArithmetic, CollectiveEvents. -/
def Obligations.Collectives : Prop := Claims.CollectiveWords ∧ Claims.CollectiveArithmetic ∧ Claims.CollectiveEvents

/-! ## Bundles, submission queues and placement -/

namespace Sys2Proof.Claims

/-- The partition's functions take register writes (R251, R255, R303). -/
def Open (s : State) (p : Nat) : Prop :=
  s.boot = .ready ∧ ((s.part p).state = .active ∨ (s.part p).state = .suspending ∨ (s.part p).state = .halted)

end Sys2Proof.Claims

/-- R71, R483: bundle formation numbers the ready lanes of a quarter, and no other: the lanes of one bundle share team, role, PC and code object, and no
two of them a lane slot. A quarter between two words keeps its bundles until the word has ended. A quarter that issues forms its bundles once in each
four cycles: at its first choice in them, a cycle being a step, which is the model's choice (log entry 12). -/
def Obligations.BundleFormation : Prop :=
  (∀ (s : State) (q : Nat), (∃ l ∈ s.lanes, l.quarter = q ∧ l.issuing = true) → exec (.bundleFormation q) s = .next s) ∧
  (∀ (s : State) (q : Nat), (∀ l ∈ s.lanes, l.quarter = q → l.issuing = false) →
    exec (.bundleFormation q) s = .next ((s.unyield q).form q) ∧
    ((∀ l ∈ s.lanes, l.dm = false) → s.unyield q = s)) ∧
  (∀ (s t : State), s.choose = some t → ∃ q, s.nextQuarter = some q ∧ t.turn = q + 1 ∧
    ((∀ l ∈ s.lanes, l.dm = false) → (tget 0 q s.formed ≤ s.cycle / 4 → tget 0 q t.formed = s.cycle / 4 + 1) ∧
      (s.cycle / 4 < tget 0 q s.formed → t.formed = s.formed ∧ t.lanes.map (·.bundle) = s.lanes.map (·.bundle)))) ∧
  ∀ (s : State) (q : Nat), (s.lanes.map (·.id)).Nodup → ∃ num : Lane → Option Nat,
    s.form q = { s with lanes := s.lanes.map fun l => if l.quarter = q then { l with bundle := num l } else l,
                        formed := tset q (s.cycle / 4 + 1) s.formed } ∧
    (∀ l ∈ s.lanes, l.quarter = q → ((num l).isSome = true ↔ s.ready l = true)) ∧
    ∀ l ∈ s.lanes, ∀ m ∈ s.lanes, l.quarter = q → m.quarter = q → num l = num m → num l ≠ none → l.id ≠ m.id →
      l.id.tid = m.id.tid ∧ l.role = m.role ∧ l.pc = m.pc ∧ l.obj = m.obj ∧ l.id.slot ≠ m.id.slot

/-- R186 to R191, R195, R204: a doorbell sets TAIL, or ERR TAIL where it leaves the ring or goes back; the entry at the head of the queue that is next is
consumed when its action begins, a bad one sets ERR and stays; EVSIG adds to its event; EVWAIT is consumed once its event has reached the target;
a launch that passes its checks enters the window with the next sequence number, waiting for the launches that its ranges meet, and one whose record cannot be read takes the number
alone (log entry 37). -/
def Obligations.SubmissionQueues : Prop :=
  (∀ (s : State) (p q : Nat) (t : Word), Open s p → q < 32 →
    let x := tget sq0 q (s.part p).sqs
    let n := (t.toNat + 2 ^ 32 - x.head) % 2 ^ 32
    ((2 ^ x.log2n < n ∨ n < (x.tail + 2 ^ 32 - x.head) % 2 ^ 32) → exec (.sqDoorbell p q t) s =
      .next (s.modPart p fun y => { y with sqs := tset q { x with err := 1, en := false } y.sqs })) ∧
    (n ≤ 2 ^ x.log2n → (x.tail + 2 ^ 32 - x.head) % 2 ^ 32 ≤ n → exec (.sqDoorbell p q t) s =
      .next (s.modPart p fun y => { y with sqs := tset q { x with tail := t.toNat } y.sqs }))) ∧
  (∀ (s u : State) (p q e : Nat), s.serving p = true → s.nextQueue p = some q → q < 32 → s.sqHead p q = (u, .entry e) →
    let taken : State → State := fun s =>
      (s.modPart p fun y => { y with sqs := tmod sq0 q (fun x => { x with head := (x.head + 1) % 2 ^ 32 }) y.sqs }).modPart p fun y => { y with rr := q }
    (fld e 0 8 = 0 → exec (.sqEntryNop p q) s = .next (taken u)) ∧
    (fld e 0 8 = 2 → exec (.sqEntryEvsig p q) s = .next (taken (u.bumpEvent p (fld e 16 8) (BitVec.ofNat 32 (fld e 64 32))))) ∧
    (fld e 0 8 = 3 → exec (.sqEntryEvwait p q) s = .next (taken u) ∧
      (tget 0 (fld e 16 8) (s.part p).ev - BitVec.ofNat 32 (fld e 64 32)).toNat < 2 ^ 31) ∧
    (fld e 0 8 = 1 → ∀ g k, u.unitRecord p e = (g, k) →
      let ends : State → State := fun s => (taken s).modPart p fun y => { y with recIn := [] }
      (k = .busy → exec (.sqEntryLaunch p q) s = .next g) ∧
      ((k = .ue ∨ ∃ f, k = .page f) →
        exec (.sqEntryLaunch p q) s = .next (ends (g.modPart p fun y => { y with nextSeq := (y.nextSeq + 1) % 2 ^ 32 }))) ∧
      ∀ r, k = .ok r → ∀ c x, g.checkRecord p r = (c, x) →
        (x = .wait → exec (.sqEntryLaunch p q) s = .next c) ∧
        (x ≠ .wait → exec (.sqEntryLaunch p q) s = .next (ends (c.takeRecord p r (tget sq0 q (u.part p).sqs).prio (some q) x))))) ∧
  (∀ (s : State) (p e : Nat), s.unitRecord p e = s.readParts (fun s => s.unitPart p) (fun s => s.unitVia p (fld e 8 4) true) (fld e 128 64) 6) ∧
  (∀ (far : State → Nat → Nat → State × Res) (v : State → Via) (s u w : State) (va n x : Nat) (bs : List Byte), s.loadVia (v s) va 64 = (u, .data bs) →
    u.readParts far v (va + 64) n = (w, .ok x) → s.readParts far v va (n + 1) = (w, .ok (leNat bs + 2 ^ 512 * x))) ∧
  (∀ (s u : State) (p q c : Nat), s.serving p = true → s.nextQueue p = some q → q < 32 → s.sqHead p q = (u, .err c) →
    ∀ i ∈ [Instr.sqEntryNop p q, .sqEntryEvsig p q, .sqEntryEvwait p q, .sqEntryLaunch p q],
      exec i s = .next ((u.modPart p fun y => { y with sqs := tmod sq0 q (fun x => { x with err := c, en := false }) y.sqs }).modPart p
        fun y => { y with rr := q })) ∧
  (∀ (s : State) (p q : Nat), s.nextQueue p = some q → s.srcReady p q = true ∧ ∀ r, s.srcReady p r = true → r < 33 →
    (s.part p).srcPrio r ≤ (s.part p).srcPrio q) ∧
  (∀ (s : State) (p : Nat) (d : DqEntry) (r : List DqEntry), s.serving p = true → s.nextQueue p = some 32 → (s.part p).dq = d :: r → ∀ c k, s.checkRecord p d.lrec = (c, k) → k ≠ .wait →
      exec (.dqEntryTake p) s = .next ((c.takeRecord p d.lrec (s.part p).dqprio none k).modPart p fun y => { y with dq := y.dq.tail, rr := 32 })) ∧
  ∀ (s : State) (p r prio : Nat) (q : Option Nat) (o : Admit),
    (∃ L : Launch, s.takeRecord p r prio q (.ok o) = s.modPart p (fun y =>
        { y with nextSeq := ((s.part p).nextSeq + 1) % 2 ^ 32, window := y.window ++ [L] }) ∧
      L.seq = (s.part p).nextSeq ∧ L.lrec = r ∧ L.prio = prio ∧ L.queue = q ∧ L.placed = 0 ∧ L.retired = 0 ∧
      (recIndep r = true → L.waits = []) ∧
      (recIndep r = false → ∀ E ∈ (s.part p).window, E.seq ∈ L.waits ↔ ∃ F ∈ (s.part p).window, F.seq = E.seq ∧
        recCtx F.lrec % 16 = recCtx r % 16 ∧ dependsOn r F.lrec = true)) ∧
    ∀ st, s.takeRecord p r prio q (.refuse st) =
      (s.modPart p fun y => { y with nextSeq := ((s.part p).nextSeq + 1) % 2 ^ 32 }).refuseLaunch p r q st

/-- R63, R195, R200, R202: a placement puts the launch's next team on a cluster that fits it: 32 lanes for each group with v and p zero but p0, k as KCLR leaves
it, g from GINIT and the PC at the entry, and its first word is an acquire at device scope; a whole cooperative grid goes at once; a team whose groups have retired and whose work is done leaves
with its lanes and lowers its launch's counters; a launch whose next team has waited 1 ms is held. -/
def Obligations.Placement : Prop :=
  (∀ (s u : State) (p seq : Nat) (cs : List Nat) (L : Launch), s.serving p = true → (s.part p).queue.find? (fun M => M.seq == seq) = some L →
    cs.length = (if recCoop L.lrec then recTeams L.lrec - L.placed + L.restore.length else 1) →
    s.mayPass p ((s.part p).queue.takeWhile fun M => M.seq != seq) = true →
    (s.placeAll p seq cs = some u → exec (.teamPlace p seq cs) s = .next u) ∧ (s.placeAll p seq cs = none → exec (.teamPlace p seq cs) s = .next s)) ∧
  (∀ (s : State) (p seq c : Nat) (L : Launch), s.launch? p seq = some L → L.restore = [] →
    s.placeAll p seq [c] = if s.fits p L c then some (s.placeTeam p L c) else none) ∧
  (∀ (s : State) (p c : Nat) (L : Launch),
    let t := s.placeTeam p L c
    t.nextTid = s.nextTid + 1 ∧ t.mem = s.mem ∧ (∃ new, t.lanes = s.lanes ++ new ∧ new.length = 32 * recGroups L.lrec ∧
      ∀ l ∈ new, l.id.tid = s.nextTid ∧ l.id.grp < recGroups L.lrec ∧ l.id.slot < 32 ∧ l.cluster = c ∧
        l.quarter = c * 16 + l.id.grp % 4 * 4 + l.id.grp / 4 % 4 ∧ l.core = l.id.grp % 4 ∧
        (∀ r : VReg, l.getV r = 0) ∧ (∀ q : PReg, l.getP q = (q.val == 0)) ∧ (∀ k : KReg, (l.getK k).val = 0 ∧ laStatus (l.getK k) = 0x10) ∧
        l.pc = BitVec.ofNat 64 (recCode L.lrec + 64 + recEntry L.lrec) ∧ l.sup = false ∧ l.depth = 0 ∧ l.deferred = [] ∧ l.park = .ready) ∧
    ∃ tm, t.teams = s.teams ++ [tm] ∧ tm.begun = false ∧ tm.tid = s.nextTid ∧ tm.index = L.placed ∧ tm.cluster = c ∧ tm.set = c ∧
      (∀ g ∈ tm.groups, g.fflags = 0 ∧ g.retired = false ∧ ∀ i : Fin 16, g.g[i] = recGinit L.lrec i.val) ∧
      tm.groups.length = recGroups L.lrec ∧ ∀ b < 4, tm.bar b = { phase := 0, mask := 0 }) ∧
  (∀ (s : State) (l : Lane) (tm : Team), s.team? l.id.tid = some tm → (tm.begun = true → s.beginTeam l = s) ∧
    (tm.begun = false → let t := s.beginTeam l
      (∀ y ∈ (t.cluster tm.cluster).l1, y.mask = 0) ∧ t.lanes = s.lanes ∧ t.mem = s.mem ∧ ∀ y, t.team? l.id.tid = some y → y.begun = true)) ∧
  (∀ (s : State) (t : Team), s.team? t.tid = some t → s.serving t.part = true →
    ((t.groups.all (·.retired) = false ∨ s.teamBusy t = true) → exec (.teamRetire t.tid) s = .next s) ∧
    (t.groups.all (·.retired) = true → s.teamBusy t = false → exec (.teamRetire t.tid) s = .next ((s.freeTeam t).lowerCounters t))) ∧
  (∀ (s : State) (t : Team), (∀ l ∈ (s.freeTeam t).lanes, l.id.tid ≠ t.tid) ∧ (∀ u ∈ (s.freeTeam t).teams, u.tid ≠ t.tid) ∧
    (∀ x ∈ (s.freeTeam t).pins, x.tid ≠ t.tid) ∧ (∀ l ∈ s.lanes, l.id.tid ≠ t.tid → l ∈ (s.freeTeam t).lanes)) ∧
  ∀ (s : State) (p : Nat) (L : Launch) (r : List Launch), (s.part p).queue = L :: r →
    (s.fitsSome p L = false → 1000000 ≤ s.time - L.since → exec (.placementHoldTimeout p) s =
      .next (s.modLaunch p L.seq fun M => { M with held := true })) ∧
    ((s.fitsSome p L = true ∨ s.time - L.since < 1000000) → exec (.placementHoldTimeout p) s = .next s)


/-! ## The token protocol -/

namespace Sys2Proof.Claims

/-- The message m is on its way, of a kind, between two agents. -/
def Flying (s : State) (m : Msg) (k : MsgKind) : Prop := m ∈ s.net ∧ m.kind = k ∧ m.src ≠ m.dst
/-- The machine with the message taken out of the network. -/
def landed (s : State) (m : Msg) : State := { s with net := s.net.erase m }
/-- A token message. -/
def tokMsg (s : State) (ln : Nat) (a b : Fin 10) (n : Nat) (own data dirty : Bool) : Msg :=
  { kind := .tok, line := ln, src := a, dst := b, tokens := n, owner := own, data := data, dirty := dirty, la := none,
    epoch := s.epochOf ln, age := 0, excl := false, ctx := none }
/-- A message without tokens. -/
def plainMsg (s : State) (k : MsgKind) (ln : Nat) (a b : Fin 10) : Msg :=
  { kind := k, line := ln, src := a, dst := b, tokens := 0, owner := false, data := false, dirty := false, la := none,
    epoch := s.epochOf ln, age := 0, excl := false, ctx := none }
/-- The messages of a line that are on their way. -/
def netOf (s : State) (ln : Nat) : List Msg := s.net.filter fun m => m.line == ln
/-- Nothing waits at the home of a line, no fold is in progress, and no persistent request is active. -/
def HomeIdle (s : State) (ln : Nat) : Prop :=
  (s.line ln).waiting = [] ∧ (s.line ln).folding = false ∧ (s.line ln).holds[8].pact = none
/-- Only one line's record and the network changed. -/
def OnlyLine (s t : State) (ln : Nat) : Prop := ∃ l n, t = { s with lines := tset ln l s.lines, net := n }
/-- The tokens of a line, held and on their way. -/
def tokensOf (s : State) (ln : Nat) : Nat :=
  ((s.line ln).holds.toList.map (·.t)).sum + ((s.net.filter fun m => m.line == ln).map (·.tokens)).sum
/-- A holding from which all tokens have gone. -/
def emptied (h : Hold) : Hold := { h with t := 0, owner := false, valid := false, dirty := false }

end Sys2Proof.Claims

/-- R152 to R156, R164 to R166: a request finds an agent: who holds no token, or for GETS not the owner token, keeps
silent; the owner answers GETS with one token and data, its last being the owner token; GETX is answered with every token, and no token is lost. While
another's persistent request is active all keep silent; an engine that holds the line for its write answers once it has written. The home folds a line in the merge state first. Tokens of the
present epoch that arrive are held, others vanish; GETM sets up a partial in the merge state; PUTP and PART merge a partial into the home copy, the
last of a fold ending it; FOLD sends it. -/
def Sys2Proof.Claims.TokenMessages : Prop :=
  (∀ (s : State) (ln : Nat) (o a : Fin 10) (excl : Bool), o ≠ a → let h := (s.line ln).holds[o]
    ((h.t = 0 ∨ (excl = false ∧ h.owner = false)) → s.answer ln o a excl = s) ∧
    (excl = false → h.owner = true → 2 ≤ h.t → let t := s.answer ln o a excl
      (t.line ln).holds[o] = { h with t := h.t - 1 } ∧ t.net = s.net ++ [tokMsg s ln o a 1 false true false] ∧ OnlyLine s t ln) ∧
    (excl = false → h.owner = true → h.t = 1 → let t := s.answer ln o a excl
      (t.line ln).holds[o] = emptied h ∧ t.net = s.net ++ [tokMsg s ln o a 1 true true h.dirty] ∧ OnlyLine s t ln) ∧
    (excl = true → 0 < h.t → let t := s.answer ln o a excl
      (t.line ln).holds[o] = emptied h ∧ t.net = s.net ++ [tokMsg s ln o a h.t h.owner h.owner (h.owner && h.dirty)] ∧ OnlyLine s t ln) ∧
    tokensOf (s.answer ln o a excl) ln = tokensOf s ln) ∧
  (∀ (s : State) (m : Msg), let l := s.line m.line
    ∀ w ∈ [(Instr.gets m, MsgKind.gets, false), (.getx m, .getx, true)], Flying s m w.2.1 →
      (s.heldBy m.line = some m.dst → exec w.1 s = .next s) ∧ (s.heldBy m.line ≠ some m.dst →
      ((∃ b, l.holds[m.dst].pact = some b ∧ b ≠ m.src) ∨ m.dst = 9 → exec w.1 s = .next (landed s m)) ∧
      (l.holds[m.dst].pact = none →
        (m.dst ≠ 8 → m.dst ≠ 9 → exec w.1 s = .next ((landed s m).answer m.line m.dst m.src w.2.2)) ∧
        (m.dst = 8 → l.mash = false → .bisnp m.line true ∉ s.out →
          ((if w.2.2 then l.holds[9].t = 0 else l.holds[9].owner = false) → exec w.1 s = .next ((landed s m).answer m.line 8 m.src w.2.2)) ∧
          (¬ (if w.2.2 then l.holds[9].t = 0 else l.holds[9].owner = false) → ∃ t, exec w.1 s = .next t ∧ .bisnp m.line w.2.2 ∈ t.out ∧
            Waiting.req m.src w.2.2 m.ctx ∈ (t.line m.line).waiting)) ∧
        (m.dst = 8 → l.mash = true → l.folding = false → l.holders ≠ [] → ∃ t, exec w.1 s = .next t ∧ (t.line m.line).folding = true ∧
          Waiting.req m.src w.2.2 m.ctx ∈ (t.line m.line).waiting ∧ t.net = s.net.erase m ++ l.holders.map fun a => plainMsg s .fold m.line 8 a)))) ∧
  (∀ (s : State) (m : Msg), (Flying s m .tok → m.epoch ≠ s.epochOf m.line → exec (.tok m) s = .next (landed s m)) ∧
    (Flying s m .put → m.epoch ≠ s.epochOf m.line → exec (.put m) s = .next (landed s m)) ∧
    ∀ h, h = (s.line m.line).holds[m.dst] →
      (h.pact = none → Flying s m .tok → m.epoch = s.epochOf m.line → m.dst ≠ 8 → ∃ t, exec (.tok m) s = .next t ∧
        (4 ≤ m.dst.val → OnlyLine s t m.line ∧ t.net = s.net.erase m) ∧ netOf t m.line = netOf (landed s m) m.line ∧ t.mem = s.mem ∧ t.lanes = s.lanes ∧
        (t.line m.line).holds[m.dst] =
          { h with t := h.t + m.tokens, owner := h.owner || m.owner, valid := h.valid || m.data, dirty := h.dirty || m.dirty }) ∧
      (∀ b, h.pact = some b → b ≠ m.dst → 0 < m.tokens → Flying s m .tok → m.epoch = s.epochOf m.line → m.dst ≠ 8 → ∃ t, exec (.tok m) s = .next t ∧
        OnlyLine s t m.line ∧ (t.line m.line).holds[m.dst].t = 0 ∧ ∃ x ∈ t.net, x.kind = .tok ∧ x.dst = b ∧ x.tokens = h.t + m.tokens) ∧
      (Flying s m .put → m.epoch = s.epochOf m.line → m.dst = 8 → HomeIdle s m.line → ∃ t, exec (.put m) s = .next t ∧ OnlyLine s t m.line ∧
        t.net = s.net.erase m ∧ (t.line m.line).holds[(8 : Fin 10)] =
          { h with t := h.t + m.tokens, owner := h.owner || m.owner, valid := h.valid || m.data, dirty := false })) ∧
  (∀ (s : State) (m : Msg), Flying s m .getm → m.tokens = 0 → let l := s.line m.line
    (l.folding = true → ∃ t, exec (.getm m) s = .next t ∧ OnlyLine s t m.line ∧ Waiting.merge m.src ∈ (t.line m.line).waiting) ∧
    (l.folding = false → (l.mash = true ∨ (l.holds[8].t = 16 ∧ l.holds[8].valid = true)) →
      ∃ t, exec (.getm m) s = .next t ∧ (4 ≤ m.src.val → OnlyLine s t m.line ∧ t.net = s.net.erase m) ∧ netOf t m.line = netOf (landed s m) m.line ∧
        t.mem = s.mem ∧ t.lanes = s.lanes ∧ (t.line m.line).mash = true ∧ m.src ∈ (t.line m.line).holders ∧
        (t.line m.line).holds[m.src].partialLA = some ((l.holds[m.src].partialLA).getD LA0) ∧ (t.line m.line).holds[m.src].t = 0)) ∧
  (∀ (s : State) (m : Msg), m.line ∉ s.poison → s.mem.wf = true → ∀ x, m.la = some x →
    ∀ w ∈ [(Instr.putp m, MsgKind.putp), (.part m, .part)], Flying s m w.2 →
      ((s.line m.line).folding = false → ∃ t, exec w.1 s = .next t ∧
        Stored s t (128 * m.line) (leBytes (laImage (laMerge (s.lineLa m.line) x false)) 96) ∧
        t.lanes = s.lanes ∧ t.teams = s.teams ∧ t.parts = s.parts ∧ t.net = s.net.erase m ∧ m.src ∉ (t.line m.line).holders) ∧
      ((s.line m.line).folding = true → (s.line m.line).mash = true → (s.line m.line).holders = [m.src] → (s.line m.line).waiting = [] →
        (s.line m.line).holds[8].pact = none → (∀ a : Fin 10, (s.line m.line).holds[a].partialLA = none) →
        (∀ y ∈ s.net, y ≠ m → y.line = m.line → y.la = none) → (s.net.filter fun y => y == m).length = 1 → ∃ t, exec w.1 s = .next t ∧
          Stored s t (128 * m.line) (leBytes (laImage (laMerge (s.lineLa m.line) x false)) 96) ∧ t.lanes = s.lanes ∧
          (t.line m.line).mash = false ∧ (t.line m.line).folding = false ∧ (t.line m.line).holds[8].t = 16)) ∧
  (∀ (s : State) (m : Msg), Flying s m .fold → ∃ t, exec (.foldMsg m) s = .next t ∧ OnlyLine s t m.line ∧
    (t.line m.line).holds[m.dst].partialLA = none ∧
    t.net = s.net.erase m ++ [{ plainMsg s .part m.line m.dst 8 with la := (s.line m.line).holds[m.dst].partialLA }]) ∧
  ∀ (s : State) (m : Msg), Flying s m .part → m.la = none → (s.line m.line).folding = false → ∃ t, exec (.part m) s = .next t ∧
    OnlyLine s t m.line ∧ t.net = s.net.erase m ∧ (t.line m.line).holders = (s.line m.line).holders.filter (· != m.src)

/-- R157 to R159: an attempt that has waited 1,024 cycles since it was sent has failed, and is sent again after a back-off; the fourth failure asks for a
persistent request where the limits of R158 let it. PREQ enters the home's table and is made active where none is; PACT sends every token on and is
acknowledged, the requester completing as soon as it holds what it asked for; PDONE leaves the table and PDEACT goes to the nine others; the last acknowledgement of a deactivation ends it. -/
def Sys2Proof.Claims.PersistentRequests : Prop :=
  (∀ (s : State) (ln : Nat) (a : Fin 10) (r : TokReq), (s.line ln).reqs.find? (fun r => r.agent == a) = some r → let h := (s.line ln).holds[a]
    let has := if r.excl then h.t = 16 ∧ h.valid = true else 0 < h.t ∧ h.valid = true
    ((r.failed = true ∨ r.persistent = true ∨ s.cycle < r.sent + 1024) → exec (.tokenAttemptTimeout ln a) s = .next s) ∧
    (r.failed = false → r.persistent = false → r.sent + 1024 ≤ s.cycle →
      (has → a ≠ 8 → exec (.tokenAttemptTimeout ln a) s = .next (s.modLine ln fun l => { l with reqs := l.reqs.filter fun q => q.agent != a })) ∧
      (¬ has → (r.attempt < 4 ∨ s.persistOk ln a = false) → ∃ w f, w < 64 * 2 ^ min r.attempt 3 ∧ exec (.tokenAttemptTimeout ln a) s = .next
        (({ s.count (fotOwner (s.fotOf (ln / 512))) r.ctx 0x10 1 with free := f } : State).setReq ln { r with failed := true, retryAt := s.cycle + w })) ∧
      (¬ has → 4 ≤ r.attempt → s.persistOk ln a = true → a ≠ 8 → ∃ t, exec (.tokenAttemptTimeout ln a) s = .next t ∧
        t.net = s.net ++ [{ plainMsg s .preq ln a 8 with age := r.age, excl := r.excl }] ∧
        (t.line ln).reqs = (s.line ln).reqs.map fun q => if q.agent = a then { r with failed := true, persistent := true } else q)) ∧
    ((r.failed = false ∨ r.persistent = true ∨ s.cycle < r.retryAt) → exec (.tokenRetry ln a) s = .next s) ∧
    (r.failed = true → r.persistent = false → r.retryAt ≤ s.cycle → ∃ t, exec (.tokenRetry ln a) s = .next t ∧
      ((r.attempt < 4 ∨ s.persistOk ln a = false) →
        (t.line ln).reqs = (s.line ln).reqs.map (fun q => if q.agent = a then { r with failed := false, attempt := r.attempt + 1, sent := s.cycle } else q) ∧
        t.net = s.net ++ ((List.finRange 10).filter (· != a)).map fun b => { plainMsg s (if r.excl then .getx else .gets) ln a b with ctx := r.ctx }) ∧
      (4 ≤ r.attempt → s.persistOk ln a = true → a ≠ 8 → t.net = s.net ++ [{ plainMsg s .preq ln a 8 with age := r.age, excl := r.excl }]))) ∧
  (∀ (s : State) (ln : Nat) (a : Fin 10), (∀ r ∈ (s.line ln).reqs, r.agent ≠ a) →
    exec (.tokenAttemptTimeout ln a) s = .next s ∧ exec (.tokenRetry ln a) s = .next s) ∧
  (∀ (l : List (Fin 10 × Nat × Bool)) (e : Fin 10 × Nat × Bool), nextPersist l = some e → e ∈ l ∧ ∀ f ∈ l, e.2.1 < f.2.1 ∨ (e.2.1 = f.2.1 ∧ e.1 ≤ f.1)) ∧
  (∀ (s : State) (m : Msg), Flying s m .preq → m.src ≠ 8 → (∀ e ∈ (s.line m.line).persist, e.1 ≠ m.src) → ∃ t, exec (.preq m) s = .next t ∧
    t.lanes = s.lanes ∧ t.teams = s.teams ∧ (m.src, m.age, m.excl) ∈ (t.line m.line).persist ∧
    (∀ b, (s.line m.line).active = some b → (t.line m.line).active = some b) ∧
    ((s.line m.line).active = none → (s.line m.line).persist = [] → (t.line m.line).active = some m.src ∧
      ∀ b : Fin 10, b ≠ 8 → plainMsg s .pact m.line 8 b ∈ t.net)) ∧
  (∀ (s : State) (m : Msg), Flying s m .pact → s.heldBy m.line = some m.dst → exec (.pact m) s = .next s) ∧
  (∀ (s : State) (m : Msg) (b : Fin 10), Flying s m .pact → s.heldBy m.line ≠ some m.dst → (s.line m.line).active = some b → (∃ e ∈ (s.line m.line).persist, e.1 = b) →
    let h := (s.line m.line).holds[m.dst]
    (m.dst = 9 → ∃ t, exec (.pact m) s = .next t ∧ OnlyLine s t m.line ∧ t.net = s.net.erase m ++ [plainMsg s .ack m.line m.dst 8]) ∧
    (m.dst ≠ 9 → b ≠ m.dst → ∃ t, exec (.pact m) s = .next t ∧ OnlyLine s t m.line ∧
      (t.line m.line).holds[m.dst].pact = some b ∧ (t.line m.line).holds[m.dst].t = 0 ∧
      t.net = s.net.erase m ++ [plainMsg s .ack m.line m.dst 8] ++
        (if h.t = 0 then [] else [tokMsg s m.line m.dst b h.t h.owner h.owner (h.owner && h.dirty)])) ∧
    (b = m.dst → b ≠ 8 → b ≠ 9 → (∀ r ∈ (s.line m.line).reqs, r.agent ≠ b) → ∃ t, exec (.pact m) s = .next t ∧ OnlyLine s t m.line ∧
      (t.line m.line).holds[m.dst] = { h with pact := some b } ∧ t.net = s.net.erase m ++ [plainMsg s .ack m.line m.dst 8]) ∧
    (b = m.dst → b ≠ 8 → b ≠ 9 → ∀ r, (s.line m.line).reqs.find? (fun r => r.agent == b) = some r →
      (if r.excl then h.t = 16 ∧ h.valid = true else 0 < h.t ∧ h.valid = true) → (∀ x ∈ s.net, x.kind = .pdone → x.line = m.line → x.src ≠ b) →
      ∃ t, exec (.pact m) s = .next t ∧ OnlyLine s t m.line ∧
        t.net = s.net.erase m ++ [plainMsg s .ack m.line m.dst 8, plainMsg s .pdone m.line b 8])) ∧
  (∀ (s : State) (ln p : Nat) (a : Fin 10) (ctx : Option Nat) (r : TokReq), a ≠ 8 → (s.line ln).mash = false → (s.line ln).holds[a].pact = some a →
    (s.line ln).reqs.find? (fun r => r.agent == a) = some r → r.persistent = true →
    ∃ x ∈ (s.takeAll ln a p ctx).net, x.kind = .pdone ∧ x.line = ln ∧ x.src = a ∧ x.dst = 8) ∧
  (∀ (s : State) (m : Msg), Flying s m .pdeact → ∃ t, exec (.pdeact m) s = .next t ∧ OnlyLine s t m.line ∧
    (t.line m.line).holds[m.dst] = { (s.line m.line).holds[m.dst] with pact := none } ∧
    t.net = s.net.erase m ++ [{ plainMsg s .ack m.line m.dst 8 with excl := true }]) ∧
  (∀ (s : State) (m : Msg), Flying s m .pdone →
    (((s.line m.line).active ≠ some m.src ∨ ∀ e ∈ (s.line m.line).persist, e.1 ≠ m.src) → exec (.pdone m) s = .next (landed s m)) ∧
    ((s.line m.line).active = some m.src → (∃ e ∈ (s.line m.line).persist, e.1 = m.src) → (s.line m.line).waiting = [] →
      ∃ t, exec (.pdone m) s = .next t ∧ OnlyLine s t m.line ∧
        (t.line m.line).persist = (s.line m.line).persist.filter (fun e => e.1 != m.src) ∧ (t.line m.line).holds[8].pact = none ∧
        t.net = s.net.erase m ++ ((List.finRange 10).filter (· != 8)).map fun b => plainMsg s .pdeact m.line 8 b)) ∧
  ∀ (s : State) (m : Msg), Flying s m .ack →
    (m.excl = false → exec (.persistentAck m) s = .next (landed s m)) ∧
    (m.excl = true → (∃ b ∈ (s.line m.line).acks, b ≠ m.src) → exec (.persistentAck m) s =
      .next ((landed s m).modLine m.line fun l => { l with acks := l.acks.filter (· != m.src) })) ∧
    (m.excl = true → (∀ b ∈ (s.line m.line).acks, b = m.src) → (s.line m.line).active ≠ none → (s.line m.line).holds[8].pact = none →
      (s.line m.line).persist = [] → s.hostWait = [] → ∃ t, exec (.persistentAck m) s = .next t ∧ OnlyLine s t m.line ∧ (t.line m.line).active = none)


/-- Together: TokenMessages, PersistentRequests. -/
def Obligations.TokenProtocol : Prop := Claims.TokenMessages ∧ Claims.PersistentRequests

/-! ## The host, the loss of a die, the memory controllers, frames -/

namespace Sys2Proof.Claims

/-- No write of %tvec is pending. -/
def NoTvec (s : State) : Prop := ∀ e ∈ s.parts, e.2.tvecPend = none
/-- Partitions are listed once each. -/
def Keyed (s : State) : Prop := (s.parts.map (·.1)).Pairwise (· < ·)
/-- The data that the host's reads have returned. -/
def hostAnswers (s : State) : List (List Byte) :=
  s.out.filterMap fun o => match o with | .hostData d => some d | _ => none
/-- No access of the host to n bytes from a waits: firmware is ready, the HBM is not in self-refresh, no persistent request is active on a line of
them, no engine holds one for its write, and no earlier access of the host to one waits (R159, R168, R174, R303, R308). -/
def HostFree (s : State) (a n : Nat) : Prop :=
  s.boot = .ready ∧ s.d3 = false ∧ ∀ ln ∈ linesOf a n, (s.line ln).active = none ∧ s.heldBy ln = none ∧
    ∀ w ∈ s.hostWait, w.sync = none → ln ∉ linesOf w.addr w.n
/-- What the host reads at an address: zero at or beyond the scrub front of a frame in SCRUB (R145), else memory. -/
def hostByteAt (s : State) (a : Nat) : Byte :=
  if fotState (s.fotOf (a / 65536)) = 2 ∧ s.frontOf (a / 65536) ≤ a / 128 % 512 then 0 else readByte s.mem a

end Sys2Proof.Claims

/-- R145, R159, R168 to R170, R193: the host reads and writes device memory at the home, and waits while a persistent request is active on a line of
it, an engine holds one, or an earlier access to one waits; its answer to a snoop brings its tokens home, all of them or its owner token as it was asked, with the line where it held it alone and writes it
back; host lines that the device holds answer the host's snoops with what they hold dirty, and stay shared or leave; a line that the host gives
is kept as it was asked for. That an answer to BISnpData brings one token, and that host traffic waits in self-refresh, is the model's choice (log
entry 57). -/
def Sys2Proof.Claims.HostTraffic : Prop :=
  (∀ (s : State) (a n : Nat), a + n ≤ 2 ^ 39 → 0 < n → HostFree s a n → (∀ ln ∈ linesOf a n, (s.line ln).mash = false ∧ (s.line ln).waiting = []) →
    ∃ t bs, exec (.hostMemRead a n) s = .next t ∧ hostAnswers t = hostAnswers s ++ [bs] ∧ bs.length = n ∧ (∀ i < n, bs[i]! = hostByteAt s (a + i)) ∧
      SameMem s t ∧ t.lanes = s.lanes ∧ Kept s t) ∧
  (∀ (s : State) (a n : Nat) (bs : List Byte), s.boot = .ready → a + n ≤ 2 ^ 39 → 0 < n → bs.length = n → ¬ HostFree s a n →
    exec (.hostMemRead a n) s = .next { s with hostWait := s.hostWait ++ [{ addr := a, n := n, data := none, sync := none }] } ∧
    exec (.hostMemWrite a bs) s = .next { s with hostWait := s.hostWait ++ [{ addr := a, n := n, data := some bs, sync := none }] }) ∧
  (∀ (s : State) (a n : Nat) (bs : List Byte), s.boot ≠ .ready → exec (.hostMemRead a n) s = .next s ∧ exec (.hostMemWrite a bs) s = .next s) ∧
  (∀ (s : State) (a : Nat) (bs : List Byte), a % 128 + bs.length ≤ 128 → bs ≠ [] → a < 2 ^ 39 → HostFree s a bs.length →
    (s.line (a / 128)).mash = false → (s.line (a / 128)).waiting = [] → fotState (s.fotOf (a / 65536)) ≠ 2 → a / 128 ∉ s.poison → s.mem.wf = true →
    (s.codeOwner a = none → ∃ t, exec (.hostMemWrite a bs) s = .next t ∧ Stored s t a bs ∧ t.lanes = s.lanes ∧ Kept s t) ∧
    (∀ p c, s.codeOwner a = some (p, c) → exec (.hostMemWrite a bs) s =
      .next (s.record p { rec0 with kind := 3, flags := 1, paddr := a, detail := c }))) ∧
  (∀ (s : State) (ln : Nat) (data : Option (List Byte)), HomeIdle s ln → NoTvec s → s.mem.wf = true →
    let h := (s.line ln).holds[(9 : Fin 10)]; let g := (s.line ln).holds[(8 : Fin 10)]
    ∀ inv, .bisnp ln inv ∈ s.out → (inv = false → .bisnp ln true ∉ s.out ∧ 2 ≤ h.t) → 0 < h.t →
      ∃ t, exec (.birsp ⟨ln, data⟩) s = .next t ∧ (t.line ln).holds[(9 : Fin 10)].t = (if inv then 0 else h.t - 1) ∧
        (t.line ln).holds[(9 : Fin 10)].owner = false ∧ (t.line ln).holds[(8 : Fin 10)].t = g.t + (if inv then h.t else 1) ∧
        (t.line ln).holds[(8 : Fin 10)].owner = (g.owner || h.owner) ∧ (t.line ln).holds[(8 : Fin 10)].valid = (g.valid || h.owner) ∧
        (∀ i, .bisnp ln i ∉ t.out) ∧ t.lanes = s.lanes ∧ (h.t ≠ 16 ∨ data = none → SameMem s t) ∧
        ∀ bs, h.t = 16 → data = some bs → bs.length = 128 → Stored s t (128 * ln) bs) ∧
  (∀ (s : State) (ln : Nat) (data : Option (List Byte)), .bisnp ln true ∉ s.out → .bisnp ln false ∉ s.out → exec (.birsp ⟨ln, data⟩) s = .next s) ∧
  (∀ (s : State) (h : Nat), (∀ e ∈ s.hostLines, e.1 ≠ h) → exec (.snpinv h) s = .next (s.emit (.snoopReply h [])) ∧
    exec (.snpdata h) s = .next (s.emit (.snoopReply h []))) ∧
  (∀ (s : State) (h : Nat) (e : HostLine), s.hostLines.find? (fun x => x.1 == h) = some (h, e) →
    let m := if e.dirty then writeBytes s.hostMem (64 * h) (e.data.take 64) else s.hostMem
    let r := Out.snoopReply h (if e.dirty then e.data else [])
    exec (.snpinv h) s = .next { s with hostMem := m, hostLines := tdel h s.hostLines, out := s.out ++ [r] } ∧
    exec (.snpdata h) s =
      .next { s with hostMem := m, hostLines := tset h { e with owned := false, dirty := false } s.hostLines, out := s.out ++ [r] }) ∧
  ∀ (s : State) (h : Nat) (bs : List Byte) (own : Bool), .cxlCache h own ∈ s.out → (own = false → .cxlCache h true ∉ s.out) → bs.length = 64 →
    s.hostLines.length < 131072 → NoTvec s → ∃ t, exec (.cxlCacheResponse h bs) s = .next t ∧
      t.hostLines = tset h { owned := own, dirty := false, data := bs } s.hostLines ∧ t.hostMem = writeBytes s.hostMem (64 * h) bs ∧
      t.lanes = s.lanes ∧ SameMem s t ∧ .cxlCache h own ∉ t.out

/-- R162, R240: the loss of a die raises a partition fault in the partitions with a cluster on it, withdraws its clusters, raises the token epoch of
every home slice, brings all sixteen tokens of a line home, poisons a line whose owner token the die held over dirty data, and happens once. That one
step sweeps every line and raises every slice's epoch by one is the model's choice (log entry 38). -/
def Sys2Proof.Claims.DieLoss : Prop :=
  (∀ (s : State) (d : Fin 4), d.val ∈ s.lostDies → exec (.dieLost d.val) s = .next s) ∧
  ∀ (s : State) (d : Fin 4), Keyed s → d.val ∉ s.lostDies → ∃ t, exec (.dieLost d.val) s = .next t ∧ t.lostDies = s.lostDies ++ [d.val] ∧
    (∀ c, (t.cluster c).lost = (decide (c / 48 = d.val) || (s.cluster c).lost)) ∧
    (∀ ln, t.epochOf ln = s.epochOf ln + 1) ∧
    (∀ p, (t.part p).state = (s.part p).state) ∧
    (∀ p, s.serving p = true → fld (s.part p).triples (16 * d.val) 16 ≠ 0 →
      (t.part p).halting = true ∧ (t.part p).haltCause = some (0x25, d.val) ∧ (t.part p).unitsLeft = (s.part p).units) ∧
    (∀ p, s.serving p = false ∨ fld (s.part p).triples (16 * d.val) 16 = 0 → (t.part p).halting = (s.part p).halting) ∧
    (s.hostWait = [] → (∀ m ∈ s.net, m.kind ≠ .putp ∧ m.kind ≠ .part) → ∀ e ∈ s.lines, s.line e.1 = e.2 → e.2.mash = false → e.2.folding = false →
      e.2.waiting = [] → e.2.active = none → e.2.holds[(8 : Fin 10)].pact = none → e.2.holds[(9 : Fin 10)].t = 0 →
        (t.line e.1).holds[(8 : Fin 10)].t = 16 ∧ (t.line e.1).holds[(8 : Fin 10)].valid = true ∧
        ((∃ a : Fin 10, a.val < 8 ∧ a.val % 4 = d.val ∧ e.2.holds[a].owner = true ∧ e.2.holds[a].dirty = true) →
          fotState (s.fotOf (e.1 / 512)) ≠ 2 → e.1 ∈ t.poison))

/-- Together: HostTraffic, DieLoss. -/
def Obligations.HostAndDieLoss : Prop := Claims.HostTraffic ∧ Claims.DieLoss

/-- R124 to R127, R132, R308: a controller serves by shares, row hits first and then the oldest, a request that no pin holds off, or that has waited past
the age cap, and that no older one past the cap bars in its bank: a row hit, or one past the cap itself; in self-refresh it serves none. It opens its row, and the pin that holds a request off breaks as that is served; a bank with a pin postpones
refreshes until eight are owed; a hot row's requests take one activation each from the side queue until its window ends, but for a row that a pin
holds open. The requests, their order and the cost of one in its share are the model's choice (log entry 19). -/
def Obligations.MemoryControllers : Prop :=
  let freed := fun (s t : State) (r : HbmReq) => t.openRow r.bank r.sag = some r.row ∧ SameMem s t ∧ t.pins = s.pins.map fun p =>
    if p.live && (p.row != r.row && rowBank p.row == r.bank && rowSag p.row == r.sag) then { p with state := .broken 2 } else p
  (∀ (s : State) (pc bank n : Nat), s.d3 = true →
    ∀ i ∈ [Instr.hbmRequestServed pc, .agecapExpiry n, .bankRefresh pc bank, .hotSideActivation pc bank], exec i s = .next s) ∧
  (∀ (s : State) (pc : Nat), pc < 512 → s.d3 = false → let q := tget [] pc s.hbmq
    let barred := fun r : HbmReq => (s.rowHit r = true ∨ s.overAge r = true) ∧ ∃ e ∈ q, s.overAge e = true ∧ e.bank = r.bank ∧
      (e.age < r.age ∨ (e.age = r.age ∧ e.id < r.id))
    let free := fun r : HbmReq => (s.heldOff r = false ∨ s.overAge r = true) ∧ ¬ barred r
    (s.pickReq pc = none → exec (.hbmRequestServed pc) s = .next s) ∧
    ((∃ r ∈ q, free r) → s.pickReq pc ≠ none) ∧ ((∃ x ∈ q, s.overAge x = true) → ∃ r ∈ q, free r) ∧
    ∀ r c, s.pickReq pc = some (r, c) → r ∈ q ∧ free r ∧
      (∀ x ∈ q, free x → x.part = r.part → (s.rowHit x = true → s.rowHit r = true) ∧ (s.rowHit x = s.rowHit r → r.age ≤ x.age)) ∧
      ∃ t, exec (.hbmRequestServed pc) s = .next t ∧ freed s t r ∧ t.deficits = c ∧ ∀ x ∈ tget [] pc t.hbmq, x.id ≠ r.id) ∧
  (∀ (s : State) (x : Nat × HbmReq), s.d3 = false →
    (findReq x.2.id s.hbmq = some x → let first := (oldestReq (((tget [] x.1 s.hbmq).filter fun r => r.bank == x.2.bank).filter s.overAge)).map (·.id)
      (s.cycle - x.2.age ≤ s.agecap → exec (.agecapExpiry x.2.id) s = .next s) ∧
      (s.agecap < s.cycle - x.2.age → s.heldOff x.2 = false ∨ first ≠ some x.2.id → exec (.agecapExpiry x.2.id) s =
        .next { s with hbmq := tmod [] x.1 (fun q => q.map fun y => if y.id = x.2.id then { y with expired := true } else y) s.hbmq }) ∧
      (s.agecap < s.cycle - x.2.age → s.heldOff x.2 = true → first = some x.2.id → ∃ t, exec (.agecapExpiry x.2.id) s = .next t ∧ freed s t x.2)) ∧
    (findReq x.2.id s.hbmq = none → findReq x.2.id s.sideq = some x → let first := (oldestReq ((tget [] x.1 s.sideq).filter s.overAge)).map (·.id)
      (s.cycle - x.2.age ≤ s.agecap → exec (.agecapExpiry x.2.id) s = .next s) ∧
      (s.agecap < s.cycle - x.2.age → s.heldOff x.2 = true → first = some x.2.id → ∃ t, exec (.agecapExpiry x.2.id) s = .next t ∧ freed s t x.2))) ∧
  (∀ (s : State) (pc bank : Nat), pc < 512 → bank < 16 → s.d3 = false → let k := pc * 16 + bank; let b := tget dbank0 k s.banks
    ((∃ p ∈ s.pins, p.state = .pinned ∧ rowBank p.row = k) → b.owed + 1 < 8 →
      exec (.bankRefresh pc bank) s = .next { s with banks := tmod dbank0 k (fun b => { b with owed := b.owed + 1 }) s.banks }) ∧
    ((¬ ∃ p ∈ s.pins, p.state = .pinned ∧ rowBank p.row = k) ∨ 8 ≤ b.owed + 1 →
      ∃ t, exec (.bankRefresh pc bank) s = .next t ∧ (tget dbank0 k t.banks).owed = 0 ∧ (tget dbank0 k t.banks).openRow = [] ∧
        t.pins = (s.pins.map fun p => if p.state = .pinned ∧ rowBank p.row = k then { p with state := .broken 1 } else p) ∧
        t.lanes = s.lanes ∧ SameMem s t) ∧
    (oldestReq ((tget [] k s.sideq).filter fun r => !s.heldOff r || s.overAge r) = none → exec (.hotSideActivation pc bank) s = .next s) ∧
    (∀ r, oldestReq ((tget [] k s.sideq).filter fun r => !s.heldOff r || s.overAge r) = some r → r.bank = k →
      ∃ t, exec (.hotSideActivation pc bank) s = .next t ∧ freed s t r ∧
        (s.heldOff r = false → s.heldRow r.dpa = true → (tget dbank0 k t.banks).acts = b.acts ∧ (tget dbank0 k t.banks).refreshes = b.refreshes) ∧
        (s.heldOff r = false → s.heldRow r.dpa = false → tget [] k t.sideq = ((tget [] k s.sideq).filter fun x => x.id != r.id) ∧
          (tget dbank0 k t.banks).refreshes = b.refreshes + 1 ∧
          (s.rowPinned r.row = false → tget 0 r.row (tget dbank0 k t.banks).acts = tget 0 r.row b.acts + 1))) ∧
    ∃ t, exec (.hotWindowEnd pc) s = .next t ∧ (tget dbank0 k t.banks).hot = [] ∧ (tget dbank0 k t.banks).acts = [] ∧ tget [] k t.sideq = [] ∧
      (∀ r ∈ tget [] k s.sideq, r ∈ tget [] pc t.hbmq) ∧ (∀ r ∈ tget [] pc s.hbmq, r ∈ tget [] pc t.hbmq) ∧ t.lanes = s.lanes ∧ t.mem = s.mem)

/-- R140 to R148: a translation whose lease has ended is gone; a write of FOTDATA reports RANGE, SEQUENCE, COLOUR or OK, and takes effect with OK
alone; a scrub front writes zeros line by line, and after the last line the frame is OWNED, or FREE where THENFREE is set; an extent's entry takes
what is written; a LIVE extent drains, its dirty lines go to the pooled memory and its entry then reads FREE; a PTSYNC read waits for the host's earlier
writes and returns zero. The model's choices: where the bits of an extent's entry lie (a free value, log entry 16), when a lease ends and a scrub front
advances (log entry 39), an entry taken in any state with its offsets cut to 2 MiB (log entry 40), and a PTSYNC read that waits for nothing else (log
entry 46). -/
def Obligations.FramesAndExtents : Prop :=
  (∀ (s : State) (n : Nat), ∃ t, exec (.tlbLeaseExpiry n) s = .next t ∧ { t with tlb := s.tlb } = s ∧
    ∀ e, e ∈ t.tlb ↔ e ∈ s.tlb ∧ (e.n = n → 7 * s.time < e.ends)) ∧
  (∀ (s : State) (p : Nat), let f := Fn.vf (s.part p).vfp
    ((∀ w ∈ s.hostWait, w.data = none) → exec (.ptsyncRead p) s = .next (s.emit (.mmioData f 4 0))) ∧
    ((∃ w ∈ s.hostWait, w.data ≠ none) → exec (.ptsyncRead p) s =
      .next { s with hostWait := s.hostWait ++ [{ addr := 0, n := 0, data := none, sync := some (f, 4) }] })) ∧
  (∀ (s : State) (v : BitVec 16), s.boot ≠ .ready → exec (.fotdataWrite v) s = .next s) ∧
  (∀ (s : State) (v : BitVec 16), s.boot = .ready → let f := s.fotidx; let old := s.fotOf f; let st := s.fotStatus f v
    let dark := fld (s.part (fld v.toNat 10 6)).colours (f % 64) 1 = 0
    (8388608 ≤ f ∨ f ∈ s.reserved → st = 3) ∧
    (f < 8388608 → f ∉ s.reserved → (fld old.toNat 8 2 = 2 → st = 2) ∧ (fld old.toNat 8 2 = 1 → fld v.toNat 8 2 = 0 → st = 2) ∧
      (fld old.toNat 8 2 = 1 → fld v.toNat 8 2 ≠ 2 → fld v.toNat 10 6 ≠ fld old.toNat 10 6 → st = 2) ∧
      (fld old.toNat 8 2 = 0 → fld v.toNat 8 2 = 1 ∨ fld v.toNat 8 2 = 3 → (dark → st = 1) ∧ (¬ dark → st = 0))) ∧
    (st ≠ 0 → exec (.fotdataWrite v) s = .next { s with fotstat := st }) ∧
    (st = 0 → fld v.toNat 8 2 ≠ 2 → exec (.fotdataWrite v) s = .next { s with fotstat := 0, fot := tset f (v &&& 0xFF80) s.fot }) ∧
    (st = 0 → fld v.toNat 8 2 = 2 → ∃ t, exec (.fotdataWrite v) s = .next t ∧ t.fotOf f = v &&& 0xFF80 ∧ t.frontOf f = 0 ∧ t.fotstat = 0 ∧
      (∀ e ∈ t.lines, e.1 / 512 ≠ f) ∧ (∀ m ∈ t.net, m.line / 512 ≠ f) ∧ (∀ p ∈ t.pins, p.row / 64 = f → p.state ≠ .pinned) ∧
      (∀ c ∈ t.clusters, ∀ x ∈ c.2.l1, x.line / 512 ≠ f) ∧ t.mem = s.mem ∧ t.lanes = s.lanes)) ∧
  (∀ (s : State) (f : Nat), (fotState (s.fotOf f) ≠ 2 ∨ f ∈ s.reserved ∨ s.d3 = true → exec (.scrubFrontAdvance f) s = .next s) ∧
    (fotState (s.fotOf f) = 2 → f ∉ s.reserved → s.d3 = false → s.mem.wf = true → s.frontOf f < 512 → ∃ t, exec (.scrubFrontAdvance f) s = .next t ∧ t.lanes = s.lanes ∧
      (∀ a, readByte t.mem a = if a / 128 = 512 * f + s.frontOf f then 0 else readByte s.mem a) ∧
      (s.frontOf f < 511 → t.frontOf f = s.frontOf f + 1 ∧ t.fot = s.fot) ∧
      (s.frontOf f = 511 → fotState (t.fotOf f) = (if fotThenFree (s.fotOf f) then 0 else 1) ∧ fotOwner (t.fotOf f) = fotOwner (s.fotOf f)))) ∧
  (∀ (s : State) (n : Nat) (x : Extent), (n < 256 → s.boot = .ready →
    let y := { x with off := x.off / 2 ^ 21 * 2 ^ 21, len := x.len / 2 ^ 21 * 2 ^ 21, owner := x.owner % 64 }
    ∃ raw, exec (.extentEntryWrite n x) s = .next { s with extents := tset n y s.extents, extRaw := raw }) ∧
    (256 ≤ n ∨ s.boot ≠ .ready → exec (.extentEntryWrite n x) s = .next s) ∧ ∀ raw, extentOfRaw x raw raw = x) ∧
  ∀ (s : State) (n : Nat) (x : Extent), s.extents.find? (fun e => e.1 == n) = some (n, x) →
    (x.state = .live → s.boot = .ready →
      ∃ raw, exec (.extentDrain n) s = .next { s with extents := tset n { x with state := .draining } s.extents, extRaw := raw }) ∧
    (x.state ≠ .live ∨ s.boot ≠ .ready → exec (.extentDrain n) s = .next s) ∧ (x.state ≠ .draining → exec (.extentDrainComplete n) s = .next s) ∧
    (x.state = .draining → ∃ t, exec (.extentDrainComplete n) s = .next t ∧ t.extents = tset n { x with state := .free } s.extents ∧
      t.mem = s.mem ∧ t.lanes = s.lanes ∧
      (∀ n, 2 ^ 44 + x.off ≤ 128 * n → 128 * n < 2 ^ 44 + x.off + x.len →
        (∀ e ∈ t.capLines, e.1 ≠ n) ∧ (∀ e ∈ t.l3, n ∉ e.2) ∧ n ∉ t.poison) ∧
      (s.extents = [(n, x)] → s.hostMem.wf = true → (s.capLines.map (·.1)).Pairwise (· < ·) → (∀ e ∈ s.capLines, e.2.data.length = 128) →
        ∀ e ∈ s.capLines, e.2.dirty = true → 2 ^ 44 + x.off ≤ 128 * e.1 → 128 * e.1 < 2 ^ 44 + x.off + x.len →
          readBytes t.hostMem (x.hpa + (128 * e.1 - 2 ^ 44 - x.off)) 128 = e.2.data))


/-! ## Faults, stops, pre-emption, partitions -/

namespace Sys2Proof.Claims

/-- The device's write of n bytes at a for partition p is performed there at once (R144, R193): it waits for no line of them, and finds no merge
state to fold and no frame that is being scrubbed; memory has its canonical form. -/
def Takes (s : State) (p a n : Nat) : Prop :=
  (s.mayWrite p a && s.mayWrite p (a + n - 1)) = true ∧ s.mem.wf = true ∧
    ∀ ln ∈ linesOf a n, s.homeBusy ln = false ∧ (s.line ln).mash = false ∧ fotState (s.fotOf (ln / 512)) ≠ 2
/-- No lane of the partition stands at a marker and none has a page fault still to be recorded. -/
def NoneDue (s : State) (p : Nat) : Prop := ∀ l ∈ s.lanes, l.pfault = none ∧ (l.part = p → l.marker = false)
/-- A record resolved: it is outstanding no more. -/
def resolved (s : State) (p fid : Nat) : State :=
  s.modPart p fun x => { x with replaystat := false, faults := x.faults.filter fun g => g.fid != fid }
/-- The command that a hypervisor row stands for leaves STATUS STATE and nothing else (R254, R255). -/
def Refused (s t : State) (p : Nat) : Prop := t = s.modPart p fun x => { x with status := 7 }

end Sys2Proof.Claims

/-- R231, R233, R234, R237 to R239, R243: a REPLAY that names no outstanding FID or sets a reserved bit sets REPLAYSTAT; else the parked lanes of the
record execute the faulting word again, or take PAGE at it on ABORT, and an engine's transfer goes on; the oldest held record is written once the
ring has room; a halting partition's units stop one by one with their stop records, and after the last it is HALTED, its launches are gone and its
faults with them; a frozen quarter whose results have returned is dumped once, with the record of what stopped it, and goes on at QRESUME with its
returned results written. That REPLAY of a precise fault only makes its lanes ready is the model's choice (log entry 33), and so are that a halted
partition's faults go with its launches (log entry 45) and that a quarter is dumped once everything has returned (log entry 42). -/
def Obligations.FaultsAndStops : Prop :=
  (∀ (s : State) (p : Nat) (w : Word), Open s p → ((∀ f ∈ (s.part p).faults, f.fid ≠ fld w.toNat 0 24) ∨ fld w.toNat 24 7 ≠ 0) →
    (w.getLsbD 31 = false → exec (.replay p w) s = .next (s.modPart p fun x => { x with replaystat := true })) ∧
    (w.getLsbD 31 = true → exec (.replayAbort p w) s = .next (s.modPart p fun x => { x with replaystat := true }))) ∧
  (∀ (s : State) (p : Nat) (w : Word) (f : FaultRec), Open s p → NoneDue s p → fld w.toNat 24 7 = 0 → f.coll = none →
    (s.part p).faults.find? (fun g => g.fid == fld w.toNat 0 24) = some f →
    (f.xfer = none → (f.lanes.map (·.1)).Nodup →
      (∀ x ∈ f.lanes, ∃ l, s.lane? x.1 = some l ∧ l.park = .fault f.fid ∧ l.marker = false ∧ l.bundle = none ∧ l.issuing = false) →
      (w.getLsbD 31 = false → exec (.replay p w) s = .next ((f.lanes.filterMap fun x => s.lane? x.1).foldl
        (fun u l => u.setLane { l with park := .ready, repeats := f.repeats + 1, since := s.cycle }) (resolved s p f.fid))) ∧
      (w.getLsbD 31 = true → ∀ x l, f.lanes = [x] → s.lane? x.1 = some l → exec (.replayAbort p w) s =
        .next ((resolved s p f.fid).raise { l with park := .ready } (l.causeHere 0x05 f.fault.reason (BitVec.ofNat 64 x.2))))) ∧
    (∀ x, f.xfer = some x.id → s.xfers.find? (fun y => y.id == x.id) = some x →
      (w.getLsbD 31 = false → exec (.replay p w) s = .next ((resolved s p f.fid).setXfer { x with fid := none, repeats := f.repeats + 1 })) ∧
      (w.getLsbD 31 = true → exec (.replayAbort p w) s = .next
        (((resolved s p f.fid).leaveErr x 0x05 f.fault.reason (BitVec.ofNat 64 f.fault.va)).setXfer { x with fid := none, aborted := true })))) ∧
  (∀ (s : State) (p : Nat), ((s.part p).heldRecs = [] ∨ (s.part p).fq.room = false → exec (.faultQueueHeldWrite p) s = .next s) ∧
    ∀ b r, (s.part p).heldRecs = b :: r → (s.part p).fq.room = true → ∃ t, exec (.faultQueueHeldWrite p) s = .next t ∧ (t.part p).heldRecs = r ∧
      t.lanes = s.lanes ∧ (Takes s p (s.part p).fq.addr 64 →
        Stored s t (s.part p).fq.addr (leBytes b.toNat 64) ∧ (t.part p).fq.tail = ((s.part p).fq.tail + 1) % 2 ^ 32)) ∧
  (∀ (s : State) (p : Nat), ((s.part p).unitsLeft = [] → exec (.unitStop p) s = .next s) ∧
    ∀ u r, (s.part p).unitsLeft = u :: r → ∃ t, exec (.unitStop p) s = .next t ∧ (t.part p).unitsLeft = r ∧
      (r = [] → (t.part p).state = .halted ∧ (t.part p).halting = false ∧ (t.part p).window = [] ∧ (t.part p).faults = [] ∧ (t.part p).pre.step = 0 ∧
        ∀ m ∈ t.teams, m.part ≠ p) ∧
      (r ≠ [] → t.lanes = s.lanes ∧ t.teams = s.teams ∧ (t.part p).window = (s.part p).window ∧
        (t.part p).state = (s.part p).state ∧ ((s.part p).stopbase = 0 → t.mem = s.mem) ∧
        let a := (s.part p).stopbase + 64 * ((s.part p).units.length - (s.part p).unitsLeft.length)
        ((s.part p).stopbase ≠ 0 → Takes s p a 64 → let q := s.stopOf p u
          ∃ skid ≤ 96, Stored s t a (leBytes (stopBits q.1 q.2.1 q.2.2.1 q.2.2.2 (s.chron p) skid ((s.part p).haltCause.elim 0 (·.1)) u.2 u.1).toNat 64)))) ∧
  (∀ (s : State) (q : Nat), let f := s.frozen.find? fun e => e.quarter == q && !e.dumped
    (f = none ∨ s.quarterStill q = false → exec (.qstopDump q) s = .next s) ∧
    ∀ x p, f = some x → s.quarterStill q = true → s.partOf (q / 16) = some p →
      let r : Rec := { rec0 with
        kind := 7, quarter := q, detail := (s.part p).dbgbase, launch := x.who.launch, team := x.who.team, group := x.who.group, lanes := x.who.lanes,
        pc := x.who.pc }
      ∃ u : State, exec (.qstopDump q) s = .next (u.record p r) ∧
        u.lanes = s.lanes ∧ u.teams = s.teams ∧ u.frozen = s.frozen.map fun e => if e.quarter = q then { e with dumped := true } else e) ∧
  ∀ (s : State) (p : Nat) (w : Word), Open s p →
    ((s.isFrozen w.toNat && (s.part p).clusters.contains (w.toNat / 16)) = false → exec (.qresume p w) s = .next s) ∧
    (s.isFrozen w.toNat = true → (s.part p).clusters.contains (w.toNat / 16) = true → (∀ l ∈ s.lanes, l.pfault = none) →
      (∀ l ∈ s.lanes, l.quarter = w.toNat → s.lane? l.id = some l ∧ l.marker = false ∧ l.trap = none ∧ l.stepPend = none) →
      let u : State := { s with frozen := s.frozen.filter (fun e => e.quarter != w.toNat),
                                lanes := s.lanes.map fun l => if l.quarter = w.toNat then { l with since := max l.since s.cycle } else l }
      exec (.qresume p w) s = .next ((u.lanes.filter fun l => l.quarter == w.toNat).foldl State.writePending u)) ∧
    ∀ l, s.lane? l.id = some l → (l.pending = [] → s.writePending l = s) ∧
      ∀ d, l.pending = [d] → d.flags = 0 → d.sounded = 0 →
        (l.marker = false → l.trap = none → s.writePending l = s.setLane (l.writeEarly d)) ∧
        (l.marker = true → d.touched = [] → s.writePending l = s.setLane (l.writeBack d allTake))


/-- R244 to R247, R250 to R252: a PREEMPT or RESUME command is refused with BUSY, SPACE or OWNER and nothing else changed; PREEMPT begins DRAIN; the
drain deadline begins SAVE; a stopped team is saved with its lanes, macros, registers, tiles and pins, which it gives back; once none of the
chosen launches is resident the header is written and they leave the window; a RESUME of an area without a valid header answers BADSAVE; one that
holds a save brings its launches back ahead of the others, and RESTORE begins; the save deadline ends the launches and resets the partition, or
suspends it. A RESUME whose area has a line away from its home waits for it. What the bytes that the spec does not place are, and what a RESUME
makes of them, is the model's choice (log entries 16 and 43). -/
def Obligations.Preemption : Prop :=
  (∀ (s : State) (p : Nat), s.serving p = true → s.boot = .ready → ∀ st, st = (if (s.part p).pre.step ≠ 0 then 1
      else if (s.part p).pre.savefr < (s.part p).saveMax then 2 else if s.ownsArea p (s.part p).pre.savebase (s.part p).pre.savefr = false then 3 else 0) →
    (st ≠ 0 → exec (.preempt p) s = .next (s.modPart p fun x => { x with pre := { x.pre with status := st } }) ∧
      exec (.preemptResume p) s = .next (s.modPart p fun x => { x with pre := { x.pre with status := st } })) ∧
    (st = 0 → exec (.preempt p) s =
      .next (s.modPart p fun x => { x with pre := { x.pre with status := 0, step := 1, since := s.time } })) ∧
    (st = 0 → ∀ u b, s.bringArea (s.part p).pre.savebase (s.part p).pre.savefr = (u, b) → let base := (s.part p).pre.savebase
      let ends := fun (st step : Nat) (wait : Bool) => u.modPart p fun x => { x with pre := { x.pre with status := st, step := step, checking := wait } }
      let h := leNat (readBytes u.mem base 256); let bs := readBytes u.mem base (fld h 352 32)
      (b = false → exec (.preemptResume p) s = .next (ends 0 3 true)) ∧
      (b = true → fld h 0 32 ≠ 0x56534148 ∨ fld h 32 32 ≠ 1 ∨ fld h 256 8 ≠ p ∨ fld h 264 8 ≠ 1 ∨ fld h 352 32 < 256 ∨ 65536 * (s.part p).pre.savefr < fld h 352 32 ∨
          digestField bs ≠ areaDigest bs ∨ (∃ ln ∈ linesOf base (fld h 352 32), ln ∈ u.poison) →
        exec (.preemptResume p) s = .next (ends 4 0 false)) ∧
      (b = true → u.savedAt p base (s.part p).pre.savefr = none → exec (.preemptResume p) s = .next (ends 4 0 false)) ∧
      ((∀ e ∈ s.lines, e.2.mash = false) → u.mem = s.mem ∧ u.lanes = s.lanes) ∧
      ∀ ls, b = true → u.savedAt p base (s.part p).pre.savefr = some ls → (∀ E ∈ ls, ∀ L ∈ (s.part p).window, L.seq ≠ E.seq) → (ls.map (·.seq)).Nodup →
        ∃ t, exec (.preemptResume p) s = .next t ∧ (t.part p).pre.status = 0 ∧ (t.part p).pre.step = (if ls.all (·.restore.isEmpty) then 0 else 3) ∧
          (t.part p).pre.checking = false ∧ t.lanes = u.lanes ∧ t.mem = u.mem ∧
          ∃ later, (t.part p).window = (ls.map fun E => { E with since := s.time, held := false }) ++ later ∧
            later.map (·.seq) = (s.part p).window.map (·.seq))) ∧
  (∀ (s : State) (p : Nat), s.serving p = false → (s.part p).state = .halted ∨ (s.part p).halting = true ∧ Open s p →
    exec (.preempt p) s = .next s ∧ exec (.preemptResume p) s = .next s) ∧
  (∀ (s : State) (p : Nat), let q := (s.part p).pre; let mine := fun L : Launch => fld q.ctxmask (recCtx L.lrec % 16) 1 == 1
    (s.serving p = false → exec (.draintExpiry p) s = .next s ∧ exec (.savetExpiry p) s = .next s ∧ exec (.preemptSaveComplete p) s = .next s) ∧
    (s.serving p = true → (s.part p).hypStep = 1 → ∃ t, exec (.draintExpiry p) s = .next t ∧ (t.part p).hypStep = 2) ∧
    (s.serving p = true → (s.part p).hypStep = 0 → q.step = 1 →
      (s.time < q.since + 1000 * q.draint → exec (.draintExpiry p) s = .next s) ∧
      (q.since + 1000 * q.draint ≤ s.time → ∃ t, exec (.draintExpiry p) s = .next t ∧ (t.part p).pre.step = 2)) ∧
    (s.serving p = true → (s.part p).hypStep = 0 → q.step = 2 →
      (s.time < q.since + 1000 * q.savet → exec (.savetExpiry p) s = .next s) ∧
      (q.since + 1000 * q.savet ≤ s.time → ∃ t, exec (.savetExpiry p) s = .next t ∧ (t.part p).state = .resetting ∧
        (t.part p).thenInactive = false ∧ (t.part p).window = [] ∧ (t.part p).pre.status = 5)) ∧
    (s.serving p = true → (s.part p).hypStep = 2 → ∃ t, exec (.savetExpiry p) s = .next t ∧ (t.part p).state = .suspended ∧ (t.part p).window = [] ∧
      (t.part p).hypStep = 0 ∧ (t.part p).pre.status = 5 ∧ (t.part p).heldWrites = (s.part p).heldWrites ∧ (∀ m ∈ t.teams, m.part ≠ p) ∧
      (t.part p).saved = (s.part p).saved ++ [{ hyp := true, forced := true, tails := [], launches := [] }]) ∧
    (s.serving p = true → (s.part p).hypStep = 0 → q.step = 1 ∨ q.step = 2 → s.toSave p = [] →
      (q.step = 1 → ∀ L ∈ (s.part p).window, mine L = true → L.restore = []) → p < 64 → ∃ t v,
      exec (.preemptSaveComplete p) s = .next t ∧ (t.part p).pre.step = 0 ∧ (t.part p).pre.status = 0 ∧ t.lanes = s.lanes ∧ t.teams = s.teams ∧
      (t.part p).window = (s.part p).window.filter (fun L => !mine L) ∧ (t.part p).saved = (s.part p).saved ++ [v] ∧
      v.launches = headTeams ((s.part p).window.filter mine) ∧
      (q.savebase % 65536 = 0 → s.mayWrite p q.savebase = true → s.mem.wf = true → (∀ e ∈ s.lines, e.2.mash = false) →
        (∀ n, s.homeBusy n = false) →
        let h := readNat t.mem q.savebase 256; let n := 256 + 512 * v.launches.length + ((teamBlocks everyTeam v.launches).map (·.length)).sum
        fld h 0 32 = 0x56534148 ∧ fld h 32 32 = 1 ∧ fld h 256 8 = p ∧ fld h 264 8 = 1 ∧ fld h 272 16 = q.ctxmask % 65536 ∧
          fld h 288 32 = v.launches.length % 2 ^ 32 ∧ fld h 320 32 = (teamBlocks everyTeam v.launches).length % 2 ^ 32 ∧ fld h 352 32 = n % 2 ^ 32 ∧
          (n < 2 ^ 32 → (∀ a, q.savebase ≤ a → a < q.savebase + n → s.mayWrite p a = true ∧ fotState (s.fotOf (a / 65536)) ≠ 2) →
            let bs := readBytes t.mem q.savebase n; digestField bs = areaDigest bs)))) ∧
  ∀ (s : State) (m : Team) (L : Launch), (∀ k ∈ m.macros, ((s.cluster m.cluster).macro' k).poison = []) → s.launch? m.part m.seq = some L →
    let u := s.saveTeam m
    (∀ l ∈ u.lanes, l.id.tid ≠ m.tid) ∧ (∀ l ∈ s.lanes, l.id.tid ≠ m.tid → l ∈ u.lanes) ∧ u.teams = s.teams.filter (fun x => x.tid != m.tid) ∧
      u.pins = s.pins.filter (fun x => x.tid != m.tid) ∧
      (∀ v : SavedTeam, ∀ r, (r.map (·.team.index)).Pairwise (· ≤ ·) → ((restoreAt v r).map (·.team.index)).Pairwise (· ≤ ·) ∧ (restoreAt v r).Perm (v :: r)) ∧
      ∃ L' v, u.launch? m.part m.seq = some L' ∧ L'.restore = restoreAt v L.restore ∧ v.team = m ∧
        ((∀ l ∈ s.lanes, l.id.tid = m.tid → ∀ d ∈ l.deferred, d.sounded = 0) → v.lanes = s.lanes.filter fun l => l.id.tid == m.tid) ∧ v.srams = m.macros.map (s.cluster m.cluster).macro' ∧
        v.cvregs = m.cvs.map (s.cluster m.cluster).cvOf ∧ (v.pins = s.pins.filter fun x => x.tid == m.tid) ∧ v.cells.length = m.tiles.length

/-- R237, R239, R254 to R256, R258, R259, R303: each command acts in the states that list it and answers STATUS STATE in every other, once firmware is
ready; ACTIVATE reports its first failing check; HALT stops the partition's units; RESET and DEACTIVATE end a stop that is under way and pass through
RESETTING, which clears the partition; SUSPEND drains and saves; RESUME needs a valid save, and performs the register writes that were held. A command
that waits for memory reads BUSY, and turns others away. The model's choices: SHARE compared with every partition that is not INACTIVE, and what a halt
drops (log entry 45), a halt that a RESET or DEACTIVATE completes (log entry 56), VF numbers above 128 refused, and the commands that wait (log entry
57). -/
def Obligations.PartitionLife : Prop :=
  (∀ (s : State) (p : Nat), s.boot ≠ .ready → ∀ i ∈ [Instr.partitionActivate p, .partitionHalt p, .partitionReset p, .partitionDeactivate p,
    .partitionSuspend p, .partitionResume p], exec i s = .next s) ∧
  (∀ (s : State) (p : Nat), p < 64 → s.boot = .ready → let x := s.part p; let os := s.others p
    (x.cmdPend ≠ none → ∀ i ∈ [Instr.partitionActivate p, .partitionDeactivate p, .partitionResume p], exec i s =
      .next (s.modPart p fun x => { x with status := 1 })) ∧
    (x.cmdPend = none → x.state ≠ .inactive → ∃ t, exec (.partitionActivate p) s = .next t ∧ Refused s t p) ∧
    (x.cmdPend = none → x.state = .inactive → ∀ st, st = (if x.triples = 0 ∨ (∃ o ∈ os, o.triples &&& x.triples ≠ 0) then 2
        else if x.share < 1 ∨ 256 < x.share ∨ 256 < x.share + (os.map (·.share)).sum then 3 else if x.colours = 0 then 4
        else if x.vfp = 0 ∨ 128 < x.vfp ∨ 128 < x.vfs ∨ (∃ o ∈ os, x.vfp ∈ o.fnKeys ∨ (x.vfs ≠ 0 ∧ x.vfs ∈ o.fnKeys)) then 5
        else if x.savefr < x.saveMaxH ∨ s.ownsArea p x.saveres x.savefr = false then 8 else 0) →
      (st ≠ 0 → exec (.partitionActivate p) s = .next (s.modPart p fun x => { x with status := st })) ∧
      (st = 0 → ∀ u b, s.bringPolicy p = (u, b) →
        (b = false → exec (.partitionActivate p) s = .next (u.modPart p fun x => { x with status := 1, cmdPend := some 1 })) ∧
        (b = true → u.readPolicy p = none → exec (.partitionActivate p) s = .next (u.modPart p fun x => { x with status := 6 })) ∧
        ∀ q, b = true → u.readPolicy p = some q → exec (.partitionActivate p) s =
          .next (u.modPart p fun x => { x with status := 0, state := .active, policy := q.1, polhash := q.2 }))) ∧
    (s.d3 = true → s.bringPolicy p = (s, false)) ∧ (s.d3 = false → x.poladdr = 0 → s.bringPolicy p = (s, true)) ∧
    (x.poladdr = 0 → s.readPolicy p = some (List.replicate 8 { gran := 4, q := 0, addrp := 4 }, 0)) ∧
    (s.serving p = false → ∃ t, exec (.partitionHalt p) s = .next t ∧ Refused s t p) ∧
    (s.serving p = true → ∃ t, exec (.partitionHalt p) s = .next t ∧ (t.part p).state = x.state ∧ (t.part p).halting = true ∧ (t.part p).status = 0 ∧
      (t.part p).haltCause = some (0x27, 0) ∧ (t.part p).unitsLeft = x.units ∧ t.mem = s.mem ∧
      t.lanes = s.lanes.map fun l => if l.part = p then { l with issuing := false, bundle := none } else l) ∧
    (x.cmdPend = none → x.halting = true → ∀ i ∈ [Instr.partitionReset p, .partitionDeactivate p], ∃ t, exec i s = .next t ∧ (t.part p).state = .resetting ∧
      (t.part p).halting = false ∧ (t.part p).unitsLeft = [] ∧ (t.part p).window = [] ∧ (t.part p).status = 0 ∧ ∀ m ∈ t.teams, m.part ≠ p) ∧
    (x.cmdPend = none → x.halting = false →
      (¬ (x.state = .active ∨ x.state = .halted) → (∃ t, exec (.partitionReset p) s = .next t ∧ Refused s t p) ∧
        (x.state ≠ .suspended → ∃ t, exec (.partitionDeactivate p) s = .next t ∧ Refused s t p)) ∧
      (x.state = .active ∨ x.state = .halted → ∀ i b, (i, b) ∈ [(Instr.partitionReset p, false), (Instr.partitionDeactivate p, true)] → ∃ t,
        exec i s = .next t ∧ t.part p = { x with status := 0, state := .resetting, thenInactive := b, pre := { x.pre with status := 0 } } ∧
        t.mem = s.mem ∧ t.teams = s.teams ∧
        t.lanes = s.lanes.map fun l => if l.part = p then { l with issuing := false, bundle := none } else l) ∧
      (x.state ≠ .active → ∃ t, exec (.partitionSuspend p) s = .next t ∧ Refused s t p) ∧
      (x.state = .active → exec (.partitionSuspend p) s =
        .next (s.modPart p fun x => { x with status := 0, state := .suspending, hypStep := 1, hypSince := s.time }))) ∧
    (x.cmdPend = none → x.state ≠ .suspended → ∃ t, exec (.partitionResume p) s = .next t ∧ Refused s t p)) ∧
  (∀ (s : State) (p : Nat), p < 64 → s.boot = .ready → (s.part p).state = .suspended → (s.part p).halting = false → (s.part p).cmdPend = none →
    (∃ t, exec (.partitionDeactivate p) s = .next t ∧ (t.part p).state = .inactive ∧ (t.part p).saved = [] ∧ (t.part p).vfp = 0 ∧ (t.part p).vfs = 0 ∧
      (t.part p).status = 0 ∧ ∀ f, fotOwner (s.fotOf f) = p → fotState (s.fotOf f) ≠ 0 → fotOwner (t.fotOf f) = p ∧ fotState (t.fotOf f) = 2 ∧
        fotThenFree (t.fotOf f) = true) ∧
    let forced := ∃ v, (s.part p).saved.getLast? = some v ∧ v.hyp = true ∧ v.forced = true
    let x := s.part p
    let u := fun (v : State) (ls : List Launch) => v.modPart p fun x => { x with
      status := 0, state := .active, hypStep := 0, chron := x.chron.resumed s.time, saved := x.saved.filter fun v => !v.hyp,
      pre := { x.pre with since := x.pre.since + (s.time - x.hypSince) }, window := ls.map fun L => { L with since := s.time, held := false },
      heldWrites := [] }
    ∀ g b, s.bringArea x.saveres x.savefr = (g, b) →
      (¬ forced → b = false → exec (.partitionResume p) s = .next (g.modPart p fun x => { x with status := 1, cmdPend := some 5 })) ∧
      (¬ forced → b = true → g.windowAt p = none → exec (.partitionResume p) s = .next (g.modPart p fun x => { x with status := 9 })) ∧
      ∀ v ls, (forced ∧ v = s ∧ ls = x.window) ∨ (¬ forced ∧ b = true ∧ v = g ∧ g.windowAt p = some ls) →
        (x.heldWrites = [] → exec (.partitionResume p) s = .next (u v ls)) ∧
        ∀ w, x.heldWrites = [w] → w.2.1 ≠ 2 ^ 32 → exec (.partitionResume p) s = .next ((u v ls).vfWrite p w.1 w.2.1 w.2.2.1 w.2.2.2)) ∧
  (∀ (s : State) (p : Nat), ((s.part p).state ≠ .resetting → exec (.partitionResetDone p) s = .next s) ∧
    ((s.part p).state = .resetting → ∃ t, exec (.partitionResetDone p) s = .next t ∧ (∀ m ∈ t.teams, m.part ≠ p) ∧ (∀ e ∈ t.tlb, e.part ≠ p) ∧
      (∀ q ∈ t.pins, q.part ≠ p) ∧ (∀ c ∈ (s.part p).clusters, t.cluster c = (s.cluster c).cleared) ∧
      ((s.part p).thenInactive = false → t.part p = { (s.part p).cleared with state := .active } ∧ t.mem = s.mem ∧ t.fot = s.fot) ∧
      ((s.part p).thenInactive = true → (t.part p).state = .inactive ∧ (t.part p).vfp = 0 ∧ (t.part p).vfs = 0 ∧ (t.part p).energy = 0 ∧
        (t.part p).energyPub = 0))) ∧
  ∀ (s : State) (p : Nat), ((s.part p).state ≠ .suspending ∨ (s.part p).hypStep = 0 → exec (.partitionSuspendDone p) s = .next s) ∧
    ((s.part p).state = .suspending → (s.part p).hypStep = 1 ∨ (s.part p).hypStep = 2 → s.toSave p = [] → ∃ t,
      exec (.partitionSuspendDone p) s = .next t ∧ (t.part p).state = .suspended ∧ (t.part p).hypStep = 0 ∧ t.lanes = s.lanes ∧ t.teams = s.teams ∧
      (t.part p).window = headTeams (s.part p).window ∧ ∃ v, (t.part p).saved = (s.part p).saved ++ [v] ∧ v.hyp = true ∧ v.forced = false)


/-! ## Observation, registers, platform, fabric -/

namespace Sys2Proof.Claims

/-- The bits of word w of a context's block that a write takes (R135). -/
def ctxBit (w k : Nat) : Bool :=
  match w with
  | 0 => k == 0 || (decide (21 ≤ k) && decide (k ≤ 51))
  | 1 | 2 => decide (16 ≤ k) && decide (k ≤ 56)
  | 3 => decide (16 ≤ k)
  | 4 => decide (35 ≤ k) && decide (k ≤ 39)
  | _ => false
/-- Another party than the one named. -/
def other : Party → Party
  | .guest => .hypervisor
  | .hypervisor => .guest
/-- The STATUS a bank keeps for a party (R262). -/
def statusOf (b : CBank) : Party → Nat
  | .guest => b.statusGuest
  | .hypervisor => b.statusHyp
/-- A write that leaves all of a bank but the writer's STATUS. -/
def OnlyStatus (b b' : CBank) (who : Party) (st : Nat) : Prop :=
  statusOf b' who = st ∧ statusOf b' (other who) = statusOf b (other who) ∧
    b' = { b with statusGuest := b'.statusGuest, statusHyp := b'.statusHyp }
/-- No request of another package that came before waits for this request's line. -/
def First (s : State) (r : UaReq) : Prop := ∀ q ∈ s.uaWait, q.addr / 128 ≠ r.addr / 128
/-- The mailbox of a function that exists answers every request with one message: Request Retry Status until firmware is ready, for 1.0 s at most; in
recovery the PF's alone (R303, R305). The mailbox of no other function answers (R293). -/
def Answers (i : Instr) (s : State) (f : Fn) : Prop :=
  (fnExists f = true →
    (s.boot = .booting → s.time < 10 ^ 9 → ∃ n, exec i s = .next ({ s with free := n }.emit (.retryStatus f))) ∧
    (s.boot = .ready ∨ s.boot = .recovery ∧ f = .pf →
      ∃ n o, exec i s = .next ({ s with free := n }.emit o) ∧ (o = .spdmAlgorithms f spdmAlgorithms ∨ ∃ d, o = .spdm f d))) ∧
  (fnExists f = false ∨ s.boot = .booting ∧ 10 ^ 9 ≤ s.time ∨ s.boot = .recovery ∧ f ≠ .pf → ∃ n, exec i s = .next { s with free := n })

end Sys2Proof.Claims

/-- R262 to R264, R270, R276 to R278, R281, R286, R287, R290: CLAIM takes a free bank and clears it, RELEASE frees it, CLEAR zeroes its counters,
a CMD of 0 sets its fields, each for its claimant alone; a trigger is taken once as a fix that numbers and latches the snapshots, the operator's
under its category; a PC sample records one group of a quarter, each stream at its own rate; the end of a period publishes; the PF reads counters,
snapshots and energy as their categories grant; COMMIT puts OFFSET and SCALE in force, and no read goes below the last value returned. That FIX and
FIXIN act in ACTIVE alone and that a fix which joins a pending one keeps its source is the model's choice (log entry 57), and so is that RELEASE keeps
the bank's other fields (log entry 49). -/
def Obligations.Observation : Prop :=
  (∀ (s : State) (p n : Nat) (who : Party) (w : Word), s.boot ≠ .ready →
    ∀ i ∈ [Instr.cbClaim p n who, .cbRelease p n who, .cbClear p n who, .cbConfig p n who w, .fixRegisterWrite p, .chronCommit p], exec i s = .next s) ∧
  (∀ (s : State) (p n : Nat) (who : Party) (w : Word), n < 8 → s.boot = .ready → let b := s.bank p n; let me := partyNo who
    (∃ b', exec (.cbClaim p n who) s = .next (s.setBank p n b') ∧
      (b.owner = 0 → b'.owner = me ∧ statusOf b' who = 0 ∧ statusOf b' (other who) = statusOf b (other who) ∧ (∀ i : Fin 16, b'.cnt[i] = 0 ∧ b'.snap[i] = b.snap[i]) ∧
        (∀ i : Fin 4, b'.ev[i] = 0) ∧ b'.thr = 0 ∧ b'.ctxen = false ∧ b'.ctx = 0 ∧ b'.fixen = false ∧ b'.tcnt = 0 ∧ b'.freeze = false ∧ b'.en = false) ∧
      (b.owner ≠ 0 → b.owner = me → OnlyStatus b b' who 0) ∧ (b.owner ≠ 0 → b.owner ≠ me → OnlyStatus b b' who 1)) ∧
    (∃ b', exec (.cbRelease p n who) s = .next (s.setBank p n b') ∧ (b.owner = me → OnlyStatus { b with owner := 0 } b' who 0) ∧
      (b.owner ≠ me → OnlyStatus b b' who 2)) ∧
    (∃ b', exec (.cbClear p n who) s = .next (s.setBank p n b') ∧ (b.owner = me → OnlyStatus { b with cnt := Vector.replicate 16 0 } b' who 0) ∧
      (b.owner ≠ me → OnlyStatus b b' who 2)) ∧
    (w.toNat % 4 ≠ 0 → exec (.cbConfig p n who w) s = .next s) ∧
    (w.toNat % 4 = 0 → ∃ b', exec (.cbConfig p n who w) s = .next (s.setBank p n b') ∧
      (b.owner = me → OnlyStatus { b with ctxen := w.getLsbD 20, ctx := fld w.toNat 16 4, fixen := w.getLsbD 12, tcnt := fld w.toNat 8 4,
                                          freeze := w.getLsbD 3, en := w.getLsbD 2 } b' who 0) ∧
      (b.owner ≠ me → OnlyStatus b b' who 2))) ∧
  (∀ (s : State) (p : Nat), ((s.part p).fixPend = none → exec (.fixLatch p) s = .next s) ∧
    ∀ src, (s.part p).fixPend = some src → ∃ t, exec (.fixLatch p) s = .next t ∧ (t.part p).fixPend = none ∧ (t.part p).fixno = (s.part p).fixno + 1 ∧
      (t.part p).snapGuest = s.snapshot p ∧ (t.part p).snapGuest.chron = s.chron p ∧ t.lanes = s.lanes ∧ t.teams = s.teams ∧
      (∀ n, (t.bank p n).snap = (s.bank p n).cnt ∧ (t.bank p n).cnt = (s.bank p n).cnt) ∧
      (src ≠ 3 ∧ src ≠ 5 ∨ 2 ≤ ((s.part p).cat 6).gran ∨ (s.part p).fixHypDone = false →
        let shows := if ((s.part p).cat 6).gran = 1 then (t.part p).snapNext else (t.part p).snapHyp
        (((s.part p).cat 6).gran = 1 → (t.part p).snapHyp = (s.part p).snapHyp) ∧
        (((s.part p).cat 6).gran = 0 → shows = snap0 ∧ ∀ n, (t.bank p n).snapOp = (s.bank p n).snapOp) ∧
        (((s.part p).cat 6).gran ≠ 0 → shows.chron = (s.part p).opTime 6 (s.chron p) ∧ ∀ n, (t.bank p n).snapOp = (s.bank p n).cnt) ∧
        (((s.part p).cat 6).gran = 4 → shows.quarters = (s.snapshot p).quarters) ∧
        (((s.part p).cat 6).gran ≤ 3 → ∀ q ∈ shows.quarters, q.quarter = 0 ∧ q.grp = 0 ∧ q.pc = 0 ∧ q.ready = 0 ∧
          (((s.part p).cat 6).gran ≤ 2 → q.tid = 0))) ∧
      (src = 3 ∨ src = 5 → ((s.part p).cat 6).gran < 2 → (s.part p).fixHypDone = true →
        (t.part p).snapHyp = (s.part p).snapHyp ∧ ∀ n, (t.bank p n).snapOp = (s.bank p n).snapOp)) ∧
  (∀ s : State, Keyed s → ∃ t, exec .fixin s = .next t ∧ t.lanes = s.lanes ∧ ∀ p,
    t.part p = { s.part p with fixPend := if (s.part p).state = .active then some ((s.part p).fixPend.getD 3) else (s.part p).fixPend }) ∧
  (∀ (s : State) (p : Nat), p < 64 → s.boot = .ready → ((s.part p).state ≠ .active → exec (.fixRegisterWrite p) s = .next s) ∧
    ((s.part p).state = .active → exec (.fixRegisterWrite p) s = .next (s.modPart p fun x => { x with fixPend := some (x.fixPend.getD 5) }))) ∧
  (∀ (s : State) (p die : Nat), (s.sampleDue p die 0 = false → s.sampleDue p die 1 = false → exec (.tracePcSample p die) s = .next s) ∧
    (∃ t, exec (.tracePcSample p die) s = .next t ∧ t.lanes = s.lanes ∧ t.teams = s.teams ∧
      ∀ i < 2, tget 0 (2 * die + i) (t.part p).pclast = if s.sampleDue p die i then s.cycle else tget 0 (2 * die + i) (s.part p).pclast) ∧
    ∀ (stream q : Nat) (m : Team) (g : Group), s.groupsHere p q = [(m, g)] → s.sampleQuarter p die stream q =
      (s.modPart p fun x => { x with pcrr := tset (2 * q + stream) 1 x.pcrr }).trace p die
        { kind := 1, flags := 0, group := g.idx, quarter := q, pc := (s.lowLane m.tid g.idx).elim 0 (·.pc.toNat), launch := m.seq, team := m.index,
          time := 0, payload := s.readyMask m.tid g.idx + (s.lowLane m.tid g.idx).elim 1 Lane.parkCode * 2 ^ 32 } (stream + 1)) ∧
  (∀ s : State, (s.time < (s.period + 1) * 2 ^ 20 → exec .policyPeriodEnd s = .next s) ∧
    ((s.period + 1) * 2 ^ 20 ≤ s.time → Keyed s → ∃ t, exec .policyPeriodEnd s = .next t ∧ t.period = s.period + 1 ∧ t.lanes = s.lanes ∧ t.mem = s.mem ∧
      ∀ p, ((s.part p).state = .inactive → t.part p = s.part p) ∧
        ((s.part p).state ≠ .inactive → (t.part p).energyPub = (s.part p).energy ∧ (t.part p).fixHypDone = false ∧ (t.part p).aggTrace = [] ∧
          (t.part p).snapHyp = (if ((s.part p).cat 6).gran = 1 then (s.part p).snapNext else (s.part p).snapHyp) ∧
          ∀ n, (t.bank p n).pub = (s.bank p n).cnt ∧ (t.bank p n).snapPub = (s.bank p n).snapOp ∧ (t.bank p n).cnt = (s.bank p n).cnt))) ∧
  (∀ (s : State) (p n i : Nat), s.boot = .ready → p < 64 → n < 8 → i < 16 → let b := s.bank p n
    let read := fun off : Nat => s.input (.read .pf off 8)
    let shown := fun (g : Nat) (pub live : DWord) => s.emit (.mmioData .pf 8 (if g = 0 then 0 else if g = 1 then pub.toNat else live.toNat))
    read (0x30000 + 4096 * p + 512 * n + 0x80 + 8 * i) = shown ((s.part p).cat 0).gran b.pub[i]! b.cnt[i]! ∧
      read (0x30000 + 4096 * p + 512 * n + 0x100 + 8 * i) = shown ((s.part p).cat 6).gran b.snapPub[i]! b.snapOp[i]! ∧
      read (0x13A00 + 8 * p) = s.emit (.mmioData .pf 8
        ((if ((s.part p).cat 7).gran = 0 then 0 else if ((s.part p).cat 7).gran = 1 then (s.part p).energyPub else (s.part p).energy) % 2 ^ 64))) ∧
  (∀ (s : State) (p : Nat), p < 64 → s.boot = .ready → exec (.chronCommit p) s =
    .next (s.modPart p fun x => { x with chron := { x.chron with offsetF := x.chron.offset, scaleF := x.chron.scale } })) ∧
  ∀ (s : State) (p n : Nat), s.boot = .ready → s.boundTo n = some p → n = (s.part p).vfp → 1 ≤ n → n ≤ 128 → let c := (s.part p).chron
    let v := if c.at s.time < c.last then c.last else c.at s.time
    s.input (.read (.vf n) 0x3080 8) =
      (s.modPart p fun x => { x with chron := { x.chron with last := v } }).emit (.mmioData (.vf n) 8 (v % 2 ^ 64))

/-- R40, R116, R135, R140, R193, R204, R223, R251, R257, R270, R294 to R296: the registers with rows of their own take what is written, or discard what
their rules discard, and change nothing else; a write through a function is held while the partition is SUSPENDED and performed otherwise;
unmasking a vector sends its pending message. That AGECAP and HOTTHR discard values out of their range is the model's choice (log entry 25), and so is that
a register reads zero before firmware is ready and that a VF which is bound to no partition gives no answer (log entry 58). -/
def Obligations.RegisterWrites : Prop :=
  (∀ (s : State) (p : Nat) (v : DWord), Open s p →
    let none' : State → State := fun u => u.modPart p fun x => { x with tvec := 0, tvecMap := [], tvecSize := 0, tvecPend := none }
    (v = 0 ∨ v.toNat % 64 ≠ 0 → exec (.tvecWrite p v) s = .next (none' s)) ∧
    ∀ u r, v ≠ 0 → s.readObject p 0 v.toNat true = (u, r) →
      (r = .malformed ∨ r = .fault → exec (.tvecWrite p v) s = .next (none' u)) ∧
      ∀ a pl, r = .object a pl → (u.part p).admission? a.ctx a.code = none →
        (256 ≤ (u.part p).admitted.length → exec (.tvecWrite p v) s = .next (none' u)) ∧
        ((u.part p).admitted.length < 256 → exec (.tvecWrite p v) s = .next (u.modPart p fun x =>
          { x with admitted := x.admitted ++ [a], tvec := v, tvecMap := tvecPages v.toNat pl, tvecSize := a.size, tvecPend := none }))) ∧
  (∀ (s : State) (p : Nat) (w : Word), (32 < w.toNat → exec (.l1waysWrite p w) s = .next s) ∧
    (w.toNat ≤ 32 → ∃ t, exec (.l1waysWrite p w) s = .next t ∧ t.part p = { s.part p with l1ways := w.toNat } ∧ t.lanes = s.lanes ∧ t.mem = s.mem)) ∧
  (∀ (s : State) (c p : Nat), s.partOf c = some p → let new := (s.part p).l1ways; let old := (s.cluster c).cacheWays
    let changes := fun m : Nat => (32 - new ≤ m) ≠ (32 - old ≤ m)
    (new = old ∨ (∃ m < 32, changes m ∧ ((s.cluster c).macro' m).owner.isSome) → exec (.l1waysTakeEffect c) s = .next s) ∧
    (new ≠ old → (∀ m < 32, changes m → ((s.cluster c).macro' m).owner = none) → ∃ t, exec (.l1waysTakeEffect c) s = .next t ∧
      (t.cluster c).cacheWays = new ∧ (t.cluster c).l1 = [] ∧ (∀ m, ¬ changes m → (t.cluster c).macro' m = (s.cluster c).macro' m) ∧
      (∀ m, changes m → (t.cluster c).macro' m = sram0) ∧ (∀ d, d ≠ c → t.cluster d = s.cluster d) ∧ t.lanes = s.lanes)) ∧
  (∀ (s : State) (p ctx : Nat) (v : DWord), let named := fun o : Admit => o.ctx == ctx && o.code == v.toNat
    let used := ∃ L ∈ (s.part p).window, recCode L.lrec = v.toNat ∧ recCtx L.lrec % 16 = ctx
    ∃ t, exec (.admitrelWrite p ctx v) s = .next t ∧ t.lanes = s.lanes ∧ t.mem = s.mem ∧
      (used → (t.part p).admitted = (s.part p).admitted.map fun o => if named o then { o with releasing := true } else o) ∧
      (¬ used → (t.part p).admitted = (s.part p).admitted.filter fun o => !named o)) ∧
  (∀ (s : State) (p ctx code : Nat), (((s.part p).admission? ctx code).elim true (fun o => !o.releasing) = true ∨
      (∃ L ∈ (s.part p).window, recCode L.lrec = code ∧ recCtx L.lrec % 16 = ctx) → exec (.admitrelTakeEffect p ctx code) s = .next s) ∧
    ∀ o, (s.part p).admission? ctx code = some o → o.releasing = true → (¬ ∃ L ∈ (s.part p).window, recCode L.lrec = code ∧ recCtx L.lrec % 16 = ctx) →
      exec (.admitrelTakeEffect p ctx code) s =
        .next (s.modPart p fun x => { x with admitted := x.admitted.filter fun o => !(o.ctx == ctx && o.code == code) })) ∧
  (∀ (s : State) (id : LaneId) (w : Word) (l : Lane), s.lane? id = some l → let g := tget (ring0 6) l.die (s.part l.part).gtrace
    (g.takes 3 = false → (tget (ring0 6) l.die (s.part l.part).otrace).takes 3 = false → exec (.trmarkWrite id w) s = .next s) ∧
    (g.takes 3 = true → g.room = true → Takes s l.part g.addr 64 → ∃ t, exec (.trmarkWrite id w) s = .next t ∧ t.lanes = s.lanes ∧
      (tget (ring0 6) l.die (t.part l.part).gtrace).tail = (g.tail + 1) % 2 ^ 32 ∧
      Stored s t g.addr (leBytes (TraceRec.bits { kind := 3, flags := 0, group := l.id.grp, quarter := l.quarter, pc := l.pc.toNat, launch := l.seq, team := (s.team? l.id.tid).elim 0 (·.index), time := s.chron l.part, payload := w.toNat }).toNat 64))) ∧
  (∀ (s : State) (tid grp : Nat) (w : Word) (r : BitVec 5), exec (.fflagsWrite tid grp w r) s =
    .next (s.modGroup tid grp fun g => { g with fflags := w.setWidth 5 ||| r })) ∧
  (∀ (s : State) (p : Nat) (w : Word), (w.toNat ≤ 6 → exec (.leaseWrite p w) s = .next (s.modPart p fun x => { x with lease := w.toNat })) ∧
    (6 < w.toNat → exec (.leaseWrite p w) s = .next s)) ∧
  (∀ (s : State) (p sel : Nat) (v : DWord), sel < 128 → ∃ t, exec (.ctxregWrite p sel v) s = .next t ∧ t.lanes = s.lanes ∧ t.mem = s.mem ∧
    ∀ c w k, w < 8 → k < 64 → (t.ctxWord p c w).getLsbD k =
      if c = sel % 16 ∧ w = sel / 16 then ctxBit w k && v.getLsbD k else (s.ctxWord p c w).getLsbD k) ∧
  (∀ (s : State) (p e : Nat) (n : Word), Open s p → (∃ t, exec (.eventMmioWrite p e n) s = .next t ∧
      ∀ k < 256, tget 0 k (t.part p).ev = tget 0 k (s.part p).ev + if k = e % 256 then n else 0) ∧
    ((∀ l ∈ s.lanes, ∀ x m, l.park ≠ .evwait x m) →
      exec (.eventMmioWrite p e n) s = .next (s.modPart p fun x => { x with ev := tset (e % 256) (tget 0 (e % 256) x.ev + n) x.ev }))) ∧
  (∀ (s : State) (f : Fn) (vec : Nat), (2048 ≤ vec ∨ s.boot ≠ .ready ∨ fnExists f = false → exec (.msixUnmask f vec) s = .next s) ∧
    (vec < 2048 → s.boot = .ready → fnExists f = true → ∃ t, exec (.msixUnmask f vec) s = .next t ∧ (fnKey f, vec) ∈ t.msixOpen ∧ (fnKey f, vec) ∉ t.msixPend ∧
      t.out = s.out ++ (if (fnKey f, vec) ∈ s.msixPend then [.msix f vec] else []) ∧ t.lanes = s.lanes)) ∧
  (∀ (s : State) (f : Fn) (off width : Nat) (v : DWord), (s.boot ≠ .ready ∨ off % width ≠ 0 ∨ width ∉ [1, 2, 4, 8] →
      exec (.registerWrite f off width v) s = .next s) ∧
    (s.boot = .ready → exec (.registerWrite .pf 0 8 v) s = .next { s with pkgid := v.toNat % 1024 } ∧
      (∀ p < 64, exec (.registerWrite .pf (0x10000 + 64 * p + 3) 1 1) s = exec (.partitionActivate p) s) ∧
      (256 ≤ (v.setWidth 32).toNat → (v.setWidth 32).toNat ≤ 65535 →
        exec (.registerWrite .pf 0x1000 4 v) s = .next { s with agecap := (v.setWidth 32).toNat } ∧
        exec (.registerWrite .pf 0x1004 4 v) s = .next { s with hotthr := (v.setWidth 32).toNat }) ∧
      ((v.setWidth 32).toNat < 256 ∨ 65535 < (v.setWidth 32).toNat →
        exec (.registerWrite .pf 0x1000 4 v) s = .next s ∧ exec (.registerWrite .pf 0x1004 4 v) s = .next s) ∧
      exec (.registerWrite .pf 0x14008 2 v) s = exec (.fotdataWrite (v.setWidth 16)) s ∧
      ∀ n, (s.boundTo n = none → exec (.registerWrite (.vf n) 0x3078 8 v) s = .next s) ∧ ∀ p, s.boundTo n = some p →
        (off % width = 0 → width ∈ [1, 2, 4, 8] →
          ((s.part p).state = .suspended → exec (.registerWrite (.vf n) off width v) s =
            .next (s.modPart p fun x => { x with heldWrites := x.heldWrites ++ [(n, off, width, v)] })) ∧
          ((s.part p).state = .resetting → exec (.registerWrite (.vf n) off width v) s = .next s) ∧
          (n ≠ (s.part p).vfp → Open s p → (0x1000 ≤ off → off < 0x1200 ∨ 0x1400 ≤ off → off < 0x4000 ∨ 0x4400 ≤ off → off < 0x5000 ∨ 0x6000 ≤ off →
            off < 0x10000 → exec (.registerWrite (.vf n) off width v) s = .next s))) ∧
        (n = (s.part p).vfp → exec (.registerWrite (.vf n) 0x3078 8 v) s = exec (.tvecWrite p v) s ∧
          (∀ q < 32, ∀ t : Word, exec (.registerWrite (.vf n) (8 * q) 4 (t.setWidth 64)) s = exec (.sqDoorbell p q t) s) ∧
          (∀ e < 256, ∀ t : Word, exec (.registerWrite (.vf n) (0x4000 + 4 * e) 4 (t.setWidth 64)) s = exec (.eventMmioWrite p e t) s) ∧
          ∀ t : Word, exec (.registerWrite (.vf n) 0x3070 4 (t.setWidth 64)) s = exec (.qresume p t) s ∧
            exec (.registerWrite (.vf n) 0x3020 4 (t.setWidth 64)) s = if t.getLsbD 31 then exec (.replayAbort p t) s else exec (.replay p t) s))) ∧
  (∀ (s : State) (f : Fn) (off width : Nat), off % width = 0 → width ∈ [1, 2, 4, 8] → f = .pf ∨ (∃ n, f = .vf n ∧ 1 ≤ n ∧ n ≤ 128) →
    (s.boot = .booting ∨ s.boot = .recovery → s.input (.read f off width) = s.emit (.mmioData f width 0)) ∧
    (s.boot = .ready → ∀ n, f = .vf n → s.boundTo n = none → s.input (.read f off width) = s)) ∧
  ∀ s : State, s.boot = .ready → (s.input (.read .pf 0 8) = s.emit (.mmioData .pf 8 (s.pkgid % 2 ^ 64))) ∧
    (s.input (.read .pf 0x1000 4) = s.emit (.mmioData .pf 4 (s.agecap % 2 ^ 32))) ∧
    (∀ p < 64, s.input (.read .pf (0x12000 + 64 * p) 8) = s.emit (.mmioData .pf 8 ((s.part p).polhash.toNat % 2 ^ 64)) ∧
      s.input (.read .pf (0x11000 + 8 * p) 8) = s.emit (.mmioData .pf 8 ((s.part p).poladdr % 2 ^ 64))) ∧
    ∀ p n, s.boundTo n = some p → n = (s.part p).vfp → 1 ≤ n → n ≤ 128 →
      s.input (.read (.vf n) 0x3078 8) = s.emit (.mmioData (.vf n) 8 (s.part p).tvec.toNat) ∧
      s.input (.read (.vf n) 0x3020 8) = s.emit (.mmioData (.vf n) 8 (if (s.part p).replaystat then 2 ^ 32 else 0)) ∧
      ((∀ w ∈ s.hostWait, w.data = none) → s.input (.read (.vf n) 0x3028 8) = s.emit (.mmioData (.vf n) 8 0)) ∧
      ∀ e < 256, s.input (.read (.vf n) (0x4000 + 4 * e) 4) = s.emit (.mmioData (.vf n) 4 (tget 0 e (s.part p).ev).toNat)

/-- R290, R297, R303, R306 to R308, R301: a function-level reset resets the partition of a bound VF, and waits while its save is in progress; a device
reset leaves the reset state beside the host's memory; an image whose key, signature and version the boot ROM accepts zeroes the HBM and frees every
frame that firmware does not reserve, and one it refuses leads to the second slot and then to recovery; the core clock follows the power limit in steps of 25 MHz from 350 to 700;
temperatures throttle, end a die or halt every partition until device reset; D3hot is entered only while every partition is INACTIVE. That a device
reset keeps the host's memory is the model's choice (log entry 48), and so are the clock's range and start, that it stays where the average meets the limit and that a
hot die or base holds it down (log entry 48), and what a device takes after a critical temperature (log entry 57). -/
def Obligations.DevicePlatform : Prop :=
  (∀ (s : State) (vf : Nat), (s.boot ≠ .ready ∨ fnExists (.vf vf) = false → exec (.vfFlr vf) s = .next s) ∧ (s.boot = .ready → fnExists (.vf vf) = true →
    (s.boundTo vf = none → exec (.vfFlr vf) s = .next { s with msixOpen := s.msixOpen.filter fun e => !(e.1 == vf),
                                                               msixPend := s.msixPend.filter fun e => !(e.1 == vf),
                                                               msixTable := s.msixTable.filter fun e => !(e.1 / 2048 == vf) }) ∧
    ∀ p, p < 64 → s.boundTo vf = some p →
      ((s.part p).halting = true ∨ (s.part p).state = .active ∨ (s.part p).state = .halted → exec (.vfFlr vf) s = exec (.partitionReset p) s) ∧
      ((s.part p).halting = false →
        ((s.part p).state = .suspending ∨ (s.part p).state = .suspended → exec (.vfFlr vf) s =
          .next (s.modPart p fun x => { x with heldWrites := x.heldWrites ++ [(vf, 2 ^ 32, 0, 0)] })) ∧
        ((s.part p).state = .resetting → exec (.vfFlr vf) s = .next s)))) ∧
  (∀ s : State, ∃ t, exec .deviceReset s = .next t ∧ t.lanes = [] ∧ t.teams = [] ∧ t.parts = [] ∧ t.mem = [] ∧ t.hostMem = s.hostMem ∧ t.boot = .booting ∧
    t.plim = 2600 ∧ t.clock = 700 ∧ t.agecap = 4096 ∧ t.hotthr = 4096 ∧ t.pkgid = 0) ∧
  (∀ (s : State) (img : Image), let ok := hash512 img.key = Config.fusedHash ∧ slhVerify slh256s img.key img.body img.sig = true ∧
      ((List.range 64).filter fun i => Config.rollbackFuses.getLsbD i).length ≤ Config.imageVersion img.body
    let ready : State := { s with boot := .ready, firmware := img.body, mem := [], poison := [], reserved := Config.reservedFrames,
                                  fot := Config.reservedFrames.foldl (fun t f => tset f (reservedEntry f) t) [], fronts := [] }
    (∀ f, f ∉ Config.reservedFrames → ready.fotOf f = 0) ∧ (∀ f ∈ Config.reservedFrames, fotState (ready.fotOf f) ≠ 0) ∧
    (s.boot ≠ .booting → exec (.firmwareReady img) s = .next s) ∧
    (s.boot = .booting → (ok → exec (.firmwareReady img) s = .next ready) ∧ (¬ ok → exec (.firmwareReady img) s =
      .next (if s.slotTried = 0 then { s with slotTried := 1 } else { s with boot := .recovery }))) ∧
    (s.boot ≠ .recovery → exec (.firmwareRecoveryLoad img) s = .next s) ∧
    (s.boot = .recovery → (ok → exec (.firmwareRecoveryLoad img) s = .next ready) ∧ (¬ ok → exec (.firmwareRecoveryLoad img) s = .next s))) ∧
  (∀ (s : State) (w : Nat), let set := fun mhz : Nat => if mhz = s.clock then s else { s with clock := mhz, out := s.out ++ [Out.powerEvent mhz] }
    (s.plim * 1000 < w → exec (.powerClockStep w) s = .next (set (max 350 (s.clock - 25)))) ∧
    (w = s.plim * 1000 → exec (.powerClockStep w) s = .next s) ∧
    (w < s.plim * 1000 → (∀ d, Thermal.dieThrottle d ∉ s.thermal) → Thermal.baseThrottle ∉ s.thermal →
      exec (.powerClockStep w) s = .next (set (min 700 (s.clock + 25)))) ∧
    (∀ d, w < s.plim * 1000 → Thermal.dieThrottle d ∈ s.thermal ∨ Thermal.baseThrottle ∈ s.thermal → exec (.powerClockStep w) s = .next s) ∧
    ∃ t, exec (.packagePowerReport w) s = .next t ∧ t.power = w ∧ t.out = s.out ++ [.packagePower w] ∧ t.lanes = s.lanes ∧ t.mem = s.mem) ∧
  (∀ s : State, ∀ c ∈ (List.range 4).map Thermal.dieThrottle ++ [.baseThrottle], ∃ t, exec (.thermalSensorEvent c) s = .next t ∧
    t.clock = max 350 (s.clock - 25) ∧ c ∈ t.thermal ∧ t.parts = s.parts ∧ t.lanes = s.lanes) ∧
  (∀ (s : State) (c : Thermal), (∃ d, c = .dieCool d ∨ c = .hbmHot d ∨ c = .hbmThrottle d ∨ c = .hbmCool d) ∨ c = .baseCool →
    ∃ th, exec (.thermalSensorEvent c) s = .next { s with thermal := th } ∧ c ∈ th) ∧
  (∀ (s : State) (d : Fin 4), ∃ th, exec (.thermalSensorEvent (.dieCritical d.val)) s = exec (.dieLost d.val) { s with thermal := th }) ∧
  (∀ (s : State) (st : Nat), ∀ i ∈ [Instr.thermalSensorEvent (.hbmCritical st), .thermalSensorEvent .baseCritical], ∃ t o, exec i s = .next t ∧
    t.out = o ++ [.powerOff] ∧ t.boot = (if s.boot = .ready then .down else s.boot) ∧ ∀ p, s.serving p = true → (t.part p).halting = true ∧
      (t.part p).haltCause = some (0x27, 0) ∧ (t.part p).unitsLeft = (s.part p).units) ∧
  (∀ s : State, ((∀ e ∈ s.parts, e.2.state = .inactive) → exec .d3hotRequest s = .next { s with d3 := true }) ∧
    ((∃ e ∈ s.parts, e.2.state ≠ .inactive) → exec .d3hotRequest s = .next s) ∧ exec .d0Request s = .next (({ s with d3 := false } : State).serveHost)) ∧
  (∀ (s : State) (w : Word), 800 ≤ w.toNat → w.toNat ≤ 2600 → exec (.plimWrite w) s = .next { s with plim := w.toNat }) ∧
  ∀ (s : State) (n : Nat) (b : Bool), (n < 48 → exec (.linkUp n b) s = .next { s with links := tset n b s.links }) ∧
    (48 ≤ n → exec (.linkUp n b) s = .next s)

/-- R298, R299, R303 to R305: the seven SPDM requests are answered, the negotiation with the algorithm and the hash of R305, and measurements are signed
with the alias key; a VF measures its own partition only. A request of another package is performed
once at this home for the partition whose FTAG it carries, and zeros answer one that no partition matches; the answer of a request of this
package fills the result, or comes to the launch record, that waits for it, and one that is not answered within 2 ms becomes a data error. The framing of the SPDM answers and the forms of the fabric's requests
are the model's choice (log entries 11 and 48). -/
def Obligations.AttestationAndPeers : Prop :=
  (∀ (s : State) (f : Fn) (n k : Nat), ∀ i ∈ [Instr.getVersion f, .getCapabilities f, .negotiateAlgorithms f, .getDigests f, .getCertificate f, .challenge f n,
    .getMeasurements f k], Answers i s f) ∧
  (∀ (s : State) (f : Fn), s.boot = .ready → fnExists f = true → exec (.negotiateAlgorithms f) s =
    .next (s.emit (.spdmAlgorithms f { registry := .pciSig, vendor := 0x1F7D, algorithm := 1, hash := .shake256, hashBits := 512 }))) ∧
  (∀ (s : State) (f : Fn) (k : Nat), s.boot = .ready → fnExists f = true → let own := fun p : Nat => f = .pf ∨ ∃ v, f = .vf v ∧ s.boundTo v = some p
    ∀ d : List Byte, (1 ≤ k ∧ k ≤ 4 ∧ d = leBytes (Config.measurement k s.firmware).toNat 64) ∨
      (∃ p < 64, k = 0x10 + p ∧ own p ∧ d = leBytes (s.part p).polhash.toNat 64 ++ leBytes (s.part p).block 64) ∨
      (∃ p < 64, k = 0x10 + p ∧ ¬ own p ∧ d = []) → ∃ sig n, exec (.getMeasurements f k) s = .next ({ s with free := n }.emit (.spdm f (d ++ sig))) ∧
        ∃ r, sig = slhSign slh256s s.aliasKey r d) ∧
  (∀ (s : State) (r : UaReq) (n : Nat), r.op = .read n → 0 < n → r.addr % 128 + n ≤ 128 → r.addr < 2 ^ 39 → First s r →
    ((∀ e ∈ s.parts, e.2.ftag ≠ r.ftag) ∨ r.ftag = 0 → ∃ t : State, exec (.ualinkRead r) s = .next (t.emit (.peerReply r.pkg (zeros n))) ∧
      t.mem = s.mem ∧ t.lanes = s.lanes ∧ t.parts = s.parts) ∧
    ∀ p, s.ftagPart r.ftag = some p →
      (s.ownCheck p r.addr false = .refused → exec (.ualinkRead r) s =
        .next ((s.record p { rec0 with kind := 2, paddr := r.addr, detail := fotOwner (s.fotOf (r.addr / 65536)) }).emit (.peerReply r.pkg (zeros n)))) ∧
      (s.ownCheck p r.addr false = .performed → s.away (r.addr / 128) = false → (s.line (r.addr / 128)).mash = false → r.addr / 128 ∉ s.poison → ∃ t : State,
        exec (.ualinkRead r) s = .next (t.emit (.peerReply r.pkg (readBytes s.mem r.addr n))) ∧ SameMem s t ∧ t.lanes = s.lanes ∧ Kept s t) ∧
      (s.ownCheck p r.addr false = .performed → s.away (r.addr / 128) = true → ∃ t : State, exec (.ualinkRead r) s = .next t ∧ t.uaWait = s.uaWait ++ [r] ∧
        t.mem = s.mem ∧ t.lanes = s.lanes)) ∧
  (∀ (s : State) (r : UaReq), ¬ First s r → (PeerOp.bytes r.op ≠ 0 → r.addr % 128 + PeerOp.bytes r.op ≤ 128 → r.addr < 2 ^ 39 →
    let i := match r.op with | .read _ => Instr.ualinkRead r | .write _ => .ualinkWrite r | _ => .ualinkAtomic r
    exec i s = .next { s with uaWait := s.uaWait ++ [r] })) ∧
  (∀ (s : State) (r : UaReq) (bs : List Byte), r.op = .write bs → bs ≠ [] → r.addr % 128 + bs.length ≤ 128 → r.addr < 2 ^ 39 → First s r →
    ((∀ e ∈ s.parts, e.2.ftag ≠ r.ftag) ∨ r.ftag = 0 → ∃ t : State, exec (.ualinkWrite r) s = .next (t.emit (.peerReply r.pkg [])) ∧
      t.mem = s.mem ∧ t.lanes = s.lanes ∧ t.parts = s.parts) ∧
    ∀ p, s.ftagPart r.ftag = some p → s.codeFrame p r.addr = none → s.owned p r.addr = true → s.homeBusy (r.addr / 128) = false →
      (s.line (r.addr / 128)).mash = false → r.addr / 128 ∉ s.poison → s.mem.wf = true → ∃ t : State,
        exec (.ualinkWrite r) s = .next (t.emit (.peerReply r.pkg [])) ∧ Stored s t r.addr bs ∧ t.lanes = s.lanes ∧ Kept s t) ∧
  (∀ (s : State) (r : UaReq) (n : Nat) (f : Nat → Nat), (∃ op x, r.op = .atomic op n x ∧ f = fun old => atomNew op (8 * n) old x) ∨
      (∃ c x, r.op = .cas n c x ∧ f = fun old => if old = c then x else old) → 0 < n → r.addr % 128 + n ≤ 128 → r.addr < 2 ^ 39 → First s r →
    ((∀ e ∈ s.parts, e.2.ftag ≠ r.ftag) ∨ r.ftag = 0 → ∃ t : State, exec (.ualinkAtomic r) s = .next (t.emit (.peerReply r.pkg (zeros n))) ∧ t.mem = s.mem) ∧
    ∀ p, s.ftagPart r.ftag = some p → s.codeFrame p r.addr = none → s.owned p r.addr = true → s.homeBusy (r.addr / 128) = false →
      (s.line (r.addr / 128)).mash = false → r.addr / 128 ∉ s.poison → s.mem.wf = true → ∃ t : State,
        exec (.ualinkAtomic r) s = .next (t.emit (.peerReply r.pkg (readBytes s.mem r.addr n))) ∧
        Stored s t r.addr (leBytes (f (readNat s.mem r.addr n)) n) ∧ t.lanes = s.lanes ∧ Kept s t) ∧
  (∀ (s : State) (id : Nat) (bs : List Byte), s.peers.find? (fun r => r.id == id) = none →
    exec (.ualinkResponse id bs) s = .next s ∧ exec (.peerRequestTimeout id) s = .next s) ∧
  (∀ (s : State) (r : PeerReq), s.peers.find? (fun x => x.id == r.id) = some r → r.lane = none → r.xfer = none → r.op = .read 64 →
    let comes := fun bs => ({ s with peers := s.peers.filter fun x => x.id != r.id } : State).modPart r.part fun y => { y with recIn := y.recIn ++ [(r.dpa, bs)] }
    (∀ bs, exec (.ualinkResponse r.id bs) s = .next (comes bs)) ∧
    (r.since + 2000000 ≤ s.time → exec (.peerRequestTimeout r.id) s = .next (comes []))) ∧
  ∀ (s : State) (r : PeerReq), s.peers.find? (fun x => x.id == r.id) = some r → (s.time < r.since + 2000000 → exec (.peerRequestTimeout r.id) s = .next s) ∧
    ∀ (l : Lane) (d : Deferred) (v a : VReg) (e : Scope) (f : Bool) (i : BitVec 6), r.xfer = none → r.lane = some l.id → s.lane? l.id = some l →
      l.marker = false → l.trap = none → l.stepPend = none → l.replay = none → l.deferred = [d] → (∀ m ∈ s.lanes, m.pfault = none) →
      let u : State := { s with peers := s.peers.filter fun x => x.id != r.id }
      (d.wait = .peer r.id → d.instr = .ldB32 v a e .rlx f i → r.store = false → r.n ≠ none → r.op = .read 4 → (∀ bs, exec (.ualinkResponse r.id bs) s =
          .next (u.setLane { l with deferred := [{ d with vdst := [(v.val, BitVec.ofNat 32 (leNat bs))], kdst := [], wait := .ready }] })) ∧
        (d.sounded = 0 → r.since + 2000000 ≤ s.time → exec (.peerRequestTimeout r.id) s =
          .next (u.setLane { l with deferred := [{ d with wait := .dataUe 0 (BitVec.ofNat 64 r.va) true }] }))) ∧
      ((∀ k, d.wait ≠ .peer k) → r.store = true → r.acq = none → ∀ b, r.op = .write b → (∀ bs, exec (.ualinkResponse r.id bs) s = .next (u.setLane l)) ∧
        (r.since + 2000000 ≤ s.time → exec (.peerRequestTimeout r.id) s = .next (u.setLane { l with
          deferred := [d, { n := l.nextDef, pc := r.pc, instr := .nop, srcs := [], vdst := [], kdst := [], touched := [], kcar := 0, flags := 0, sounded := 0,
                            wait := .dataUe 0 (BitVec.ofNat 64 r.va) false }], nextDef := l.nextDef + 1 })))


/-! ## Whole-machine statements -/

/-- R14, R336: a word that is illegal in its bundle has no effect but the ILLEGAL trap in every active lane, with AUX 0 for a reserved value; a word that
is illegal by itself is illegal in every lane. Whatever the state, every instruction and every event answers a next state. That AUX 0 wins where a word is illegal for
several reasons is the model's choice (log entry 22). -/
def Obligations.IllegalWords : Prop :=
  (∀ (i : Instr) (s : State) (l : Lane) (a : Nat), i.isWord = true → s.lead = some l → s.illegalAt l i = some a → exec i s =
    .next (eachActive s fun u m => u.raise m { cause := 0x01, aux := a, tval := 0, fpc := m.pc, epc := m.pc, rpl := false })) ∧
  (∀ (i : Instr) (s : State), i.isWord = true → s.lead = none → exec i s = .next s) ∧
  (∀ (i : Instr) (s : State) (l : Lane), (reservedUse i = true → s.illegalAt l i = some 0) ∧
    (∀ a, illegalAux i = some a → ∃ b, s.illegalAt l i = some b) ∧ ∀ a, s.illegalAt l i = some a → a ≤ 3) ∧
  (∀ (i : Instr) (s : State), ∃ t, exec i s = .next t) ∧ ∀ s : State, s.safe

/-- R10, R122: a byte memory is a function of its bytes; writing back what was read changes nothing, a later write of the same place replaces an
earlier one, and writes of places apart from each other commute; a written number reads back in little-endian order. -/
def Obligations.MemoryIsItsBytes : Prop :=
  (∀ m m' : Memory, m.wf = true → m'.wf = true → (∀ a, readByte m a = readByte m' a) → m = m') ∧
  (∀ (m : Memory) (a n : Nat), m.wf = true → writeBytes m a (readBytes m a n) = m) ∧
  (∀ (m : Memory) (a : Nat) (bs cs : List Byte), m.wf = true → bs.length = cs.length → writeBytes (writeBytes m a bs) a cs = writeBytes m a cs) ∧
  (∀ (m : Memory) (a b : Nat) (bs cs : List Byte), m.wf = true → a + bs.length ≤ b → writeBytes (writeBytes m a bs) b cs = writeBytes (writeBytes m b cs) a bs) ∧
  ∀ (m : Memory) (a n x i : Nat), m.wf = true → i < n → (readByte (writeNat m a x n) (a + i)).toNat = x / 256 ^ i % 256

/-- R12, R116, R124, R126, R140, R143, R151, R186, R189, R221, R223, R231, R244, R255, R280, R303, R306: the machine after reset. The zero of %tvec is the
model's choice (log entry 9). -/
def Obligations.ResetState : Prop :=
  State.reset.boot = .booting ∧ State.reset.lanes = [] ∧ State.reset.teams = [] ∧ State.reset.memOk ∧ Keyed State.reset ∧
    State.reset.agecap = 4096 ∧ State.reset.hotthr = 4096 ∧ State.reset.plim = 2600 ∧ State.reset.pkgid = 0 ∧
    (∀ f, fotState (State.reset.fotOf f) = 0) ∧
    (∀ ln, (State.reset.line ln).holds[(8 : Fin 10)].t = 16 ∧ (State.reset.line ln).mash = false ∧ ∀ a : Fin 10, a ≠ 8 → (State.reset.line ln).holds[a].t = 0) ∧
    ∀ p, let x := State.reset.part p
      x.state = .inactive ∧ x.triples = 0 ∧ x.l1ways = 8 ∧ x.lease = 2 ∧ x.tvec = 0 ∧ x.pre.draint = 200 ∧ x.pre.savet = 2000 ∧ x.pre.step = 0 ∧
        x.fq.msix = 0xFFFF ∧ x.fq.log2n = 4 ∧ x.fq.en = false ∧ x.stopbase = 0 ∧ x.chron.offset = 0 ∧ x.chron.scale = 2 ^ 32 ∧ x.window = [] ∧
        (∀ e, tget 0 e x.ev = 0) ∧ (∀ q, tget sq0 q x.sqs = { en := false, prio := 0, log2n := 4, base := 0, tail := 0, head := 0, err := 0 }) ∧
        ∀ n, (State.reset.bank p n).owner = 0 ∧ (State.reset.bank p n).cnt = Vector.replicate 16 0

/-- R73, R74, R195, R286, R309 to R311: a step closes a policy period that has ended, before anything else; else it takes what the outside does, then the event
given to it, if there is one; else, where a bundle issues, the instruction whose bytes stand at its PC: the fetch returns the bytes in memory at the address that
the PC translates to, they decode to it, it runs as `exec` has it where no word that chains after it raises anything, and then the word is counted unless every
lane held it back, a sounding is noted, markers park, steps are taken and the chain goes on or ends; a word whose pipe its chain has used waits until the bundle is
chosen again. After that a cycle and some time pass. The order of what a step does, and that a cycle is a step, are the model's choice (log entries 1 and 12). -/
def Obligations.StepRunsDecoded : Prop :=
  (∀ s : State, (s.period + 1) * 2 ^ 20 ≤ s.time → step s = exec .policyPeriodEnd s) ∧
  (∀ s : State, s.time < (s.period + 1) * 2 ^ 20 →
    (∀ (i : Input) (r : List Input), s.inputs = i :: r → step s = .next (({ s with inputs := r } : State).input i).tick) ∧
    (∀ (e : Instr) (r : List Instr), s.inputs = [] → s.sched = e :: r →
      (e.isWord = false → ∀ t, exec e { s with sched := r } = .next t → step s = .next t.tick) ∧
      (e.isWord = true → step s = .next ({ s with sched := r } : State).tick)) ∧
    ∀ l : Lane, s.inputs = [] → s.sched = [] → s.lead = some l → let o := s.objOf l
      ∀ (v c : State) (f : Fetched) (is : List Instr), o.1 ≤ l.pc.toNat → l.pc.toNat < o.1 + o.2 → s.fetchAt l l.pc.toNat (s.slotOf l) = (v, .word f) →
      (s.latch.chained = true ∧ c = v ∧ is = [] ∨ s.latch.chained = false ∧ v.chainWords l f l.pc.toNat (s.slotOf l) 2 = (c, .words is)) →
      c.actives ≠ [] → (∀ m ∈ c.actives, ∀ i ∈ is, c.chainCause m i = none) →
      (f.pipe ∈ s.latch.pipes → step s = .next (mapActive c fun m => { m with issuing := false }).tick) ∧
      (f.pipe ∉ s.latch.pipes →
        let w : State := { c.beginTeam l with
          latch := { c := f.hdr.c, s := f.hdr.s, chained := s.latch.chained, pc := l.pc, len := f.len, pipes := f.pipe :: s.latch.pipes, raised := s.latch.raised },
          lastWord := tset l.quarter { tid := l.id.tid, seq := l.seq, index := (s.team? l.id.tid).elim 0 (·.index), pc := l.pc } c.lastWord }
        w.breakAt l = none → ∀ x, exec f.instr w = .next x → ∃ y,
          step s = .next (y.afterWord f (s.actives.map (·.id)) ((s.actives.filter (·.ss)).map (·.id)) l.pc).tick ∧ y.teams = x.teams ∧
          (soundable f.instr = false → y = if w.actives.all x.heldAt then x else x.countLane l 0x02 1))) ∧
  (∀ (s v : State) (l : Lane) (f g : Fetched) (a slot k : Nat), (f.hdr.c = false → s.chainWords l f a slot k = (s, .words [])) ∧
    (f.hdr.c = true → s.fetchAt l (a + f.len) (slot + f.len / 4) = (v, .word g) → s.illegalAt l g.instr = none → ∀ c is,
      v.chainWords l g (a + f.len) (slot + f.len / 4) k = (c, .words is) → s.chainWords l f a slot (k + 1) = (c, .words (g.instr :: is))) ∧
    (∀ i x, s.illegalAt l i = some x → s.chainCause l i = some (0x01, x, 0))) ∧
  (∀ (s v : State) (l : Lane) (a slot : Nat) (bs : List Byte), s.fetch l a = (v, .data bs) →
    (isTwoWord (leNat bs) = false → ∀ f, decodeAt slot (leNat bs) 0 = some f → s.fetchAt l a slot = (v, .word f)) ∧
    (isTwoWord (leNat bs) = true → slot < 2 → ∀ (u : State) (cs : List Byte) (f : Fetched), v.fetch l (a + 4) = (u, .data cs) →
      decodeAt slot (leNat bs) (leNat cs) = some f → s.fetchAt l a slot = (u, .word f))) ∧
  (∀ (slot w e : Nat) (f : Fetched), decodeAt slot w e = some f ↔ decodeInstr w e = .ok f.instr ∧ f.hdr = decodeHdr w ∧
    f.len = (if isTwoWord w then 8 else 4) ∧ f.pipe = pipeOf (majorOf w) ∧ ¬ (isTwoWord w = true ∧ slot = 2) ∧
    ¬ (f.hdr.c = true ∧ slot * 4 + f.len = 12)) ∧
  (∀ m, (m ≤ 7 ∨ m = 0x38 → pipeOf m = .ctl) ∧ (8 ≤ m → m ≤ 15 → pipeOf m = .alu) ∧ (m = 0x10 ∨ m = 0x12 ∨ m = 0x13 → pipeOf m = .fpu) ∧
    (m = 0x11 → pipeOf m = .sfu) ∧ (m = 0x14 → pipeOf m = .lane) ∧ (0x18 ≤ m ∧ m ≤ 0x2F ∨ m = 0x31 → pipeOf m = .mem) ∧
    (m = 0x30 → pipeOf m = .kacc) ∧ (m = 0x34 → pipeOf m = .mxq)) ∧
  (∀ (s u : State) (l : Lane) (a : Nat) (x : Phys), l.obj = .launched → s.translate (s.who l) a .fetch = (u, .ok x) → x.attr ≠ .hostc → x.attr ≠ .acc →
    inHbm x.addr = true → u.ownCheck l.part x.addr false = .performed →
    (x.attr = .device → u.away (x.addr / 128) = false) → (x.attr ≠ .device → u.lineBusy (x.addr / 128) (Fin.ofNat 10 (l.die % 4)) false = false) → (u.line (x.addr / 128)).mash = false →
    x.addr / 128 ∉ u.poison → ∃ v, s.fetch l a = (v, .data (readBytes u.mem x.addr 4)) ∧ v.lanes = u.lanes ∧ SameMem u v ∧ Kept u v) ∧
  ∀ s : State, s.tick.lanes = s.lanes ∧ s.tick.teams = s.teams ∧ s.tick.mem = s.mem ∧ s.tick.cycle = s.cycle + 1 ∧ s.time ≤ s.tick.time ∧ Kept s s.tick

/-- R309 to R335: words written out from the encoding tables decode to the instructions they stand for. That the LIT word follows the tables, not R448's example, is the model's
choice (log entry 26). -/
def Obligations.WordsDecode : Prop :=
  decodeInstr 0x080C4140 0 = .ok (.iadd 3 4 5) ∧ decodeInstr 0x0A0C4FF0 0 = .ok (.andi 3 4 0xFF0) ∧ decodeInstr 0x080C401A 0 = .ok (.brev 3 4) ∧
  decodeInstr 0x05100002 0 = .ok (.clk 4) ∧ decodeInstr 0x04000003 0 = .ok .cbar ∧ decodeInstr 0x03020000 0 = .ok .bkpt ∧
  decodeInstr 0x03010000 0 = .ok .tret ∧ decodeInstr 0x0E1A0000 0x3FC00000 = .ok (.lit 6 0x3FC00000) ∧ decodeInstr 0x080800B1 0 = .ok (.mov 2 0 true false) ∧
  decodeInstr 0x100C4140 0 = .ok (.fadd 3 4 5 .rne) ∧ decodeInstr 0x10044159 0 = .ok (.fcmp 1 4 5 .lt) ∧ decodeInstr 0x30210001 0 = .ok (.kadd 2 4 .f32) ∧
  decodeInstr 0x050C0400 0 = .ok (.mfs 3 0x010) ∧
  (∀ w e, w / 2 ^ 24 % 64 ∈ [0x15, 0x16, 0x17, 0x1D, 0x1E, 0x1F, 0x32, 0x33, 0x35, 0x36, 0x37, 0x39, 0x3A, 0x3B, 0x3C, 0x3D, 0x3E, 0x3F] → ∃ r, decodeInstr w e = .error r) ∧
  ∀ w, decodeHdr w = { c := w / 2 ^ 31 % 2 == 1, s := w / 2 ^ 30 % 2 == 1 }

/-- R309 to R335: every instruction, with every operand at every value that its fields hold, decodes from its own bytes, with its C and S bits, whatever
follows it; no two instructions share their words. Of CVT's codes, those from 56 to 59 are another row's, CVT.f32.mx. -/
def Obligations.DecodeEncode : Prop :=
  let encodable := fun i : Instr => i.isWord = true ∧ ∀ d a k r t l, i = .cvt d a k r t l → k.val / 4 ≠ 14
  (∀ (h : Hdr) (i : Instr) (rest : List Byte), encodable i → decodeBytes (encodeBytes h i ++ rest) = .ok (h, i, rest)) ∧
  ∀ (h k : Hdr) (i j : Instr), encodable i → encodable j → encode h i = encode k j → h = k ∧ i = j

/-- R10, R122, R253: whatever a step does, the device's and the host's memory keep their canonical form, and every partition stays listed once. -/
def Obligations.StepKeepsTables : Prop := ∀ s t : State, s.memOk → Keyed s → step s = .next t → t.memOk ∧ Keyed t
end

