-- ==== Sys2Proof/Laws/Memory.lean ====
section
/-! SUPPORT. Byte memory and tables: a read after a write, and the canonical form, which every write keeps. -/
namespace Sys2Proof.Machine
open Sys2Proof

/-! ## The canonical form -/

/-- A canonical memory lists nothing below its bound. -/
theorem readByte_of_lt {m : Memory} {lo a : Nat} (h : Memory.wfFrom lo m = true) (ha : a < lo) : readByte m a = memDefault := by
  induction m generalizing lo with
  | nil => rfl
  | cons c r ih =>
    obtain ⟨x, b⟩ := c
    simp only [Memory.wfFrom, Bool.and_eq_true, decide_eq_true_eq] at h
    rw [readByte, if_neg (by omega)]
    exact ih h.2 (by omega)

/-- The bound of a canonical memory may be lowered. -/
theorem Memory.wfFrom_mono {m : Memory} {lo lo' : Nat} (hl : lo' ≤ lo) (h : Memory.wfFrom lo m = true) : Memory.wfFrom lo' m = true := by
  cases m with
  | nil => rfl
  | cons c r =>
    obtain ⟨x, b⟩ := c
    simp only [Memory.wfFrom, Bool.and_eq_true, decide_eq_true_eq] at h ⊢
    exact ⟨⟨by omega, h.1.2⟩, h.2⟩

theorem Memory.wfFrom_writeByte {m : Memory} {lo : Nat} (h : Memory.wfFrom lo m = true) {a : Nat} (ha : lo ≤ a) (b : Byte) :
    Memory.wfFrom lo (writeByte m a b) = true := by
  induction m generalizing lo with
  | nil =>
    simp only [writeByte]
    split
    · rfl
    · simp_all [Memory.wfFrom]
  | cons c r ih =>
    obtain ⟨x, y⟩ := c
    have h' := h
    simp only [Memory.wfFrom, Bool.and_eq_true, decide_eq_true_eq] at h
    simp only [writeByte]
    split
    · split
      · exact h'
      · rename_i h1 h2
        simp only [Memory.wfFrom, Bool.and_eq_true, decide_eq_true_eq]
        exact ⟨⟨ha, by simpa using h2⟩, ⟨by omega, h.1.2⟩, h.2⟩
    · split
      · rename_i h1 h2
        subst h2
        split
        · exact Memory.wfFrom_mono (by omega) h.2
        · rename_i h3
          simp only [Memory.wfFrom, Bool.and_eq_true, decide_eq_true_eq]
          exact ⟨⟨ha, by simpa using h3⟩, h.2⟩
      · rename_i h1 h2
        simp only [Memory.wfFrom, Bool.and_eq_true, decide_eq_true_eq]
        exact ⟨⟨h.1.1, h.1.2⟩, ih h.2 (by omega)⟩

/-- A write of one byte keeps the canonical form. -/
theorem Memory.wf_writeByte {m : Memory} (h : m.wf = true) (a : Nat) (b : Byte) : Memory.wf (writeByte m a b) = true :=
  Memory.wfFrom_writeByte h (Nat.zero_le a) b

/-- A write of bytes keeps the canonical form. -/
theorem Memory.wf_writeBytes {m : Memory} (h : m.wf = true) (a : Nat) (bs : List Byte) : Memory.wf (writeBytes m a bs) = true := by
  induction bs generalizing m a with
  | nil => exact h
  | cons b r ih => exact ih (Memory.wf_writeByte h a b) (a + 1)

/-- A write of a number keeps the canonical form. -/
theorem Memory.wf_writeNat {m : Memory} (h : m.wf = true) (a x n : Nat) : Memory.wf (writeNat m a x n) = true :=
  Memory.wf_writeBytes h a _

/-! ## A read after a write -/

theorem readByte_writeByte_from {m : Memory} {lo : Nat} (h : Memory.wfFrom lo m = true) (a : Nat) (b : Byte) (c : Nat) :
    readByte (writeByte m a b) c = if c = a then b else readByte m c := by
  induction m generalizing lo with
  | nil =>
    simp only [writeByte]
    split
    · rename_i hb; simp [readByte, hb]
    · simp [readByte]
  | cons e r ih =>
    obtain ⟨x, y⟩ := e
    have h' := h
    simp only [Memory.wfFrom, Bool.and_eq_true, decide_eq_true_eq] at h
    simp only [writeByte]
    split
    · split
      · rename_i h1 h2
        split
        · rename_i h3
          rw [readByte, if_neg (by omega), readByte_of_lt h.2 (by omega), h2]
        · rfl
      · simp [readByte]
    · split
      · rename_i h1 h2
        subst h2
        split
        · rename_i h3
          by_cases hc : c = a
          · rw [if_pos hc, readByte_of_lt h.2 (by omega), h3]
          · rw [if_neg hc, readByte, if_neg hc]
        · by_cases hc : c = a <;> simp [readByte, hc]
      · rename_i h1 h2
        rw [readByte, ih h.2]
        by_cases hc : c = x
        · subst hc; simp [readByte, show ¬ c = a by omega]
        · simp [readByte, hc]

/-- A read after a write of one byte: the byte written there, what was there elsewhere. -/
theorem readByte_writeByte {m : Memory} (h : m.wf = true) (a : Nat) (b : Byte) (c : Nat) :
    readByte (writeByte m a b) c = if c = a then b else readByte m c := readByte_writeByte_from h a b c

/-- A read after a write of bytes. -/
theorem readByte_writeBytes {m : Memory} (h : m.wf = true) (a : Nat) (bs : List Byte) (c : Nat) :
    readByte (writeBytes m a bs) c = if a ≤ c ∧ c < a + bs.length then bs[c - a]! else readByte m c := by
  induction bs generalizing m a with
  | nil => simp [writeBytes]
  | cons b r ih =>
    rw [writeBytes, ih (Memory.wf_writeByte h a b), readByte_writeByte h]
    simp only [List.length_cons]
    by_cases hc : c = a
    · subst hc; simp
    · by_cases h2 : a + 1 ≤ c ∧ c < a + 1 + r.length
      · rw [if_pos h2, if_pos (by omega)]
        obtain ⟨k, rfl⟩ : ∃ k, c = a + 1 + k := ⟨c - (a + 1), by omega⟩
        simp [show a + 1 + k - a = k + 1 by omega]
      · rw [if_neg h2, if_neg hc, if_neg (by omega)]

theorem readBytes_length (m : Memory) (a n : Nat) : (readBytes m a n).length = n := by
  induction n generalizing a with
  | zero => rfl
  | succ n ih => simp [readBytes, ih]

theorem readBytes_getElem? (m : Memory) (a n i : Nat) (h : i < n) : (readBytes m a n)[i]? = some (readByte m (a + i)) := by
  induction n generalizing a i with
  | zero => omega
  | succ n ih =>
    cases i with
    | zero => simp [readBytes]
    | succ i => simp [readBytes, ih (a + 1) i (by omega), show a + 1 + i = a + (i + 1) by omega]

/-- Bytes read where they were just written. -/
theorem readBytes_writeBytes {m : Memory} (h : m.wf = true) (a : Nat) (bs : List Byte) :
    readBytes (writeBytes m a bs) a bs.length = bs := by
  apply List.ext_getElem?
  intro i
  by_cases hi : i < bs.length
  · rw [readBytes_getElem? _ _ _ _ hi, readByte_writeBytes h, if_pos (by omega)]
    simp [hi]
  · rw [List.getElem?_eq_none (by rw [readBytes_length]; omega), List.getElem?_eq_none (by omega)]

/-! ## Numbers in bytes -/

theorem leBytes_length (x n : Nat) : (leBytes x n).length = n := by
  induction n generalizing x with
  | zero => rfl
  | succ n ih => simp [leBytes, ih]

theorem leNat_leBytes (x n : Nat) : leNat (leBytes x n) = x % 256 ^ n := by
  induction n generalizing x with
  | zero => simp [leBytes, leNat, Nat.mod_one]
  | succ n ih =>
    simp only [leBytes, leNat, ih, BitVec.toNat_ofNat]
    rw [show (256 : Nat) ^ (n + 1) = 256 * 256 ^ n from by rw [Nat.pow_succ, Nat.mul_comm], Nat.mod_mul]

/-- A number read where it was just written. -/
theorem readNat_writeNat {m : Memory} (h : m.wf = true) (a x n : Nat) : readNat (writeNat m a x n) a n = x % 256 ^ n := by
  have := readBytes_writeBytes h a (leBytes x n)
  rw [leBytes_length] at this
  rw [readNat, writeNat, this, leNat_leBytes]

/-! ## Tables -/

@[simp] theorem tget_tset {α : Type} (d : α) (k k' : Nat) (x : α) (t : Tbl α) :
    tget d k (tset k' x t) = if k = k' then x else tget d k t := by
  induction t with
  | nil => simp [tset, tget]
  | cons e r ih =>
    obtain ⟨j, y⟩ := e
    simp only [tset]
    split
    · simp [tget]
    · split
      · rename_i h1 h2
        subst h2
        by_cases h : k = k' <;> simp [tget, h]
      · rename_i h1 h2
        simp only [tget, ih]
        by_cases h : k = j
        · subst h; simp [show ¬ k = k' from fun e => h2 e.symm]
        · simp [h]

@[simp] theorem tget_tmod {α : Type} (d : α) (k k' : Nat) (f : α → α) (t : Tbl α) :
    tget d k (tmod d k' f t) = if k = k' then f (tget d k t) else tget d k t := by
  rw [tmod, tget_tset]
  split
  · rename_i h; rw [h]
  · rfl

@[simp] theorem tget_tdel {α : Type} (d : α) (k k' : Nat) (t : Tbl α) :
    tget d k (tdel k' t) = if k = k' then d else tget d k t := by
  induction t with
  | nil => simp [tdel, tget]
  | cons e r ih =>
    obtain ⟨j, y⟩ := e
    simp only [tdel, List.filter_cons] at ih ⊢
    by_cases h : j = k'
    · subst h
      simp only [bne_self_eq_false, Bool.false_eq_true, if_false, ih, tget]
      split <;> rfl
    · simp only [bne_iff_ne.mpr h, if_true, tget, ih]
      by_cases h2 : k = j
      · subst h2; simp [h]
      · simp [h2]

end Sys2Proof.Machine
end

