-- ==== Sys2Proof/Laws/State.lean ====
section
/-! SUPPORT. One lemma for each field of the state under each of its named updates. -/
namespace Sys2Proof.Machine
open Sys2Proof

/-! ## setLane -/

theorem setLane_lanes (s : State) (l : Lane) : (s.setLane l).lanes = s.lanes.map fun m => if m.id = l.id then l else m := rfl
@[simp] theorem setLane_teams (s : State) (l : Lane) : (s.setLane l).teams = s.teams := rfl
@[simp] theorem setLane_nextTid (s : State) (l : Lane) : (s.setLane l).nextTid = s.nextTid := rfl
@[simp] theorem setLane_clusters (s : State) (l : Lane) : (s.setLane l).clusters = s.clusters := rfl
@[simp] theorem setLane_parts (s : State) (l : Lane) : (s.setLane l).parts = s.parts := rfl
@[simp] theorem setLane_mem (s : State) (l : Lane) : (s.setLane l).mem = s.mem := rfl
@[simp] theorem setLane_hostMem (s : State) (l : Lane) : (s.setLane l).hostMem = s.hostMem := rfl
@[simp] theorem setLane_poison (s : State) (l : Lane) : (s.setLane l).poison = s.poison := rfl
@[simp] theorem setLane_lines (s : State) (l : Lane) : (s.setLane l).lines = s.lines := rfl
@[simp] theorem setLane_net (s : State) (l : Lane) : (s.setLane l).net = s.net := rfl
@[simp] theorem setLane_epochs (s : State) (l : Lane) : (s.setLane l).epochs = s.epochs := rfl
@[simp] theorem setLane_hostLines (s : State) (l : Lane) : (s.setLane l).hostLines = s.hostLines := rfl
@[simp] theorem setLane_hostWait (s : State) (l : Lane) : (s.setLane l).hostWait = s.hostWait := rfl
@[simp] theorem setLane_uaWait (s : State) (l : Lane) : (s.setLane l).uaWait = s.uaWait := rfl
@[simp] theorem setLane_unitWait (s : State) (l : Lane) : (s.setLane l).unitWait = s.unitWait := rfl
@[simp] theorem setLane_l2 (s : State) (l : Lane) : (s.setLane l).l2 = s.l2 := rfl
@[simp] theorem setLane_l3 (s : State) (l : Lane) : (s.setLane l).l3 = s.l3 := rfl
@[simp] theorem setLane_tlb (s : State) (l : Lane) : (s.setLane l).tlb = s.tlb := rfl
@[simp] theorem setLane_nextTlb (s : State) (l : Lane) : (s.setLane l).nextTlb = s.nextTlb := rfl
@[simp] theorem setLane_fot (s : State) (l : Lane) : (s.setLane l).fot = s.fot := rfl
@[simp] theorem setLane_reserved (s : State) (l : Lane) : (s.setLane l).reserved = s.reserved := rfl
@[simp] theorem setLane_fronts (s : State) (l : Lane) : (s.setLane l).fronts = s.fronts := rfl
@[simp] theorem setLane_fotidx (s : State) (l : Lane) : (s.setLane l).fotidx = s.fotidx := rfl
@[simp] theorem setLane_fotstat (s : State) (l : Lane) : (s.setLane l).fotstat = s.fotstat := rfl
@[simp] theorem setLane_extents (s : State) (l : Lane) : (s.setLane l).extents = s.extents := rfl
@[simp] theorem setLane_extRaw (s : State) (l : Lane) : (s.setLane l).extRaw = s.extRaw := rfl
@[simp] theorem setLane_capLines (s : State) (l : Lane) : (s.setLane l).capLines = s.capLines := rfl
@[simp] theorem setLane_pins (s : State) (l : Lane) : (s.setLane l).pins = s.pins := rfl
@[simp] theorem setLane_hbmq (s : State) (l : Lane) : (s.setLane l).hbmq = s.hbmq := rfl
@[simp] theorem setLane_sideq (s : State) (l : Lane) : (s.setLane l).sideq = s.sideq := rfl
@[simp] theorem setLane_banks (s : State) (l : Lane) : (s.setLane l).banks = s.banks := rfl
@[simp] theorem setLane_deficits (s : State) (l : Lane) : (s.setLane l).deficits = s.deficits := rfl
@[simp] theorem setLane_agecap (s : State) (l : Lane) : (s.setLane l).agecap = s.agecap := rfl
@[simp] theorem setLane_hotthr (s : State) (l : Lane) : (s.setLane l).hotthr = s.hotthr := rfl
@[simp] theorem setLane_xfers (s : State) (l : Lane) : (s.setLane l).xfers = s.xfers := rfl
@[simp] theorem setLane_colls (s : State) (l : Lane) : (s.setLane l).colls = s.colls := rfl
@[simp] theorem setLane_collIn (s : State) (l : Lane) : (s.setLane l).collIn = s.collIn := rfl
@[simp] theorem setLane_peers (s : State) (l : Lane) : (s.setLane l).peers = s.peers := rfl
@[simp] theorem setLane_nextId (s : State) (l : Lane) : (s.setLane l).nextId = s.nextId := rfl
@[simp] theorem setLane_time (s : State) (l : Lane) : (s.setLane l).time = s.time := rfl
@[simp] theorem setLane_cycle (s : State) (l : Lane) : (s.setLane l).cycle = s.cycle := rfl
@[simp] theorem setLane_pkgid (s : State) (l : Lane) : (s.setLane l).pkgid = s.pkgid := rfl
@[simp] theorem setLane_flog (s : State) (l : Lane) : (s.setLane l).flog = s.flog := rfl
@[simp] theorem setLane_slog (s : State) (l : Lane) : (s.setLane l).slog = s.slog := rfl
@[simp] theorem setLane_msixOpen (s : State) (l : Lane) : (s.setLane l).msixOpen = s.msixOpen := rfl
@[simp] theorem setLane_msixPend (s : State) (l : Lane) : (s.setLane l).msixPend = s.msixPend := rfl
@[simp] theorem setLane_msixTable (s : State) (l : Lane) : (s.setLane l).msixTable = s.msixTable := rfl
@[simp] theorem setLane_links (s : State) (l : Lane) : (s.setLane l).links = s.links := rfl
@[simp] theorem setLane_lostDies (s : State) (l : Lane) : (s.setLane l).lostDies = s.lostDies := rfl
@[simp] theorem setLane_boot (s : State) (l : Lane) : (s.setLane l).boot = s.boot := rfl
@[simp] theorem setLane_slotTried (s : State) (l : Lane) : (s.setLane l).slotTried = s.slotTried := rfl
@[simp] theorem setLane_firmware (s : State) (l : Lane) : (s.setLane l).firmware = s.firmware := rfl
@[simp] theorem setLane_period (s : State) (l : Lane) : (s.setLane l).period = s.period := rfl
@[simp] theorem setLane_softErrors (s : State) (l : Lane) : (s.setLane l).softErrors = s.softErrors := rfl
@[simp] theorem setLane_plim (s : State) (l : Lane) : (s.setLane l).plim = s.plim := rfl
@[simp] theorem setLane_clock (s : State) (l : Lane) : (s.setLane l).clock = s.clock := rfl
@[simp] theorem setLane_thermal (s : State) (l : Lane) : (s.setLane l).thermal = s.thermal := rfl
@[simp] theorem setLane_d3 (s : State) (l : Lane) : (s.setLane l).d3 = s.d3 := rfl
@[simp] theorem setLane_power (s : State) (l : Lane) : (s.setLane l).power = s.power := rfl
@[simp] theorem setLane_out (s : State) (l : Lane) : (s.setLane l).out = s.out := rfl
@[simp] theorem setLane_sched (s : State) (l : Lane) : (s.setLane l).sched = s.sched := rfl
@[simp] theorem setLane_inputs (s : State) (l : Lane) : (s.setLane l).inputs = s.inputs := rfl
@[simp] theorem setLane_free (s : State) (l : Lane) : (s.setLane l).free = s.free := rfl
@[simp] theorem setLane_turn (s : State) (l : Lane) : (s.setLane l).turn = s.turn := rfl
@[simp] theorem setLane_formed (s : State) (l : Lane) : (s.setLane l).formed = s.formed := rfl
@[simp] theorem setLane_latch (s : State) (l : Lane) : (s.setLane l).latch = s.latch := rfl
@[simp] theorem setLane_lastWord (s : State) (l : Lane) : (s.setLane l).lastWord = s.lastWord := rfl
@[simp] theorem setLane_frozen (s : State) (l : Lane) : (s.setLane l).frozen = s.frozen := rfl

/-! ## modLane -/

theorem modLane_lanes (s : State) (id : LaneId) (f : Lane → Lane) : (s.modLane id f).lanes = s.lanes.map fun l => if l.id = id then f l else l := rfl
@[simp] theorem modLane_teams (s : State) (id : LaneId) (f : Lane → Lane) : (s.modLane id f).teams = s.teams := rfl
@[simp] theorem modLane_nextTid (s : State) (id : LaneId) (f : Lane → Lane) : (s.modLane id f).nextTid = s.nextTid := rfl
@[simp] theorem modLane_clusters (s : State) (id : LaneId) (f : Lane → Lane) : (s.modLane id f).clusters = s.clusters := rfl
@[simp] theorem modLane_parts (s : State) (id : LaneId) (f : Lane → Lane) : (s.modLane id f).parts = s.parts := rfl
@[simp] theorem modLane_mem (s : State) (id : LaneId) (f : Lane → Lane) : (s.modLane id f).mem = s.mem := rfl
@[simp] theorem modLane_hostMem (s : State) (id : LaneId) (f : Lane → Lane) : (s.modLane id f).hostMem = s.hostMem := rfl
@[simp] theorem modLane_poison (s : State) (id : LaneId) (f : Lane → Lane) : (s.modLane id f).poison = s.poison := rfl
@[simp] theorem modLane_lines (s : State) (id : LaneId) (f : Lane → Lane) : (s.modLane id f).lines = s.lines := rfl
@[simp] theorem modLane_net (s : State) (id : LaneId) (f : Lane → Lane) : (s.modLane id f).net = s.net := rfl
@[simp] theorem modLane_epochs (s : State) (id : LaneId) (f : Lane → Lane) : (s.modLane id f).epochs = s.epochs := rfl
@[simp] theorem modLane_hostLines (s : State) (id : LaneId) (f : Lane → Lane) : (s.modLane id f).hostLines = s.hostLines := rfl
@[simp] theorem modLane_hostWait (s : State) (id : LaneId) (f : Lane → Lane) : (s.modLane id f).hostWait = s.hostWait := rfl
@[simp] theorem modLane_uaWait (s : State) (id : LaneId) (f : Lane → Lane) : (s.modLane id f).uaWait = s.uaWait := rfl
@[simp] theorem modLane_unitWait (s : State) (id : LaneId) (f : Lane → Lane) : (s.modLane id f).unitWait = s.unitWait := rfl
@[simp] theorem modLane_l2 (s : State) (id : LaneId) (f : Lane → Lane) : (s.modLane id f).l2 = s.l2 := rfl
@[simp] theorem modLane_l3 (s : State) (id : LaneId) (f : Lane → Lane) : (s.modLane id f).l3 = s.l3 := rfl
@[simp] theorem modLane_tlb (s : State) (id : LaneId) (f : Lane → Lane) : (s.modLane id f).tlb = s.tlb := rfl
@[simp] theorem modLane_nextTlb (s : State) (id : LaneId) (f : Lane → Lane) : (s.modLane id f).nextTlb = s.nextTlb := rfl
@[simp] theorem modLane_fot (s : State) (id : LaneId) (f : Lane → Lane) : (s.modLane id f).fot = s.fot := rfl
@[simp] theorem modLane_reserved (s : State) (id : LaneId) (f : Lane → Lane) : (s.modLane id f).reserved = s.reserved := rfl
@[simp] theorem modLane_fronts (s : State) (id : LaneId) (f : Lane → Lane) : (s.modLane id f).fronts = s.fronts := rfl
@[simp] theorem modLane_fotidx (s : State) (id : LaneId) (f : Lane → Lane) : (s.modLane id f).fotidx = s.fotidx := rfl
@[simp] theorem modLane_fotstat (s : State) (id : LaneId) (f : Lane → Lane) : (s.modLane id f).fotstat = s.fotstat := rfl
@[simp] theorem modLane_extents (s : State) (id : LaneId) (f : Lane → Lane) : (s.modLane id f).extents = s.extents := rfl
@[simp] theorem modLane_extRaw (s : State) (id : LaneId) (f : Lane → Lane) : (s.modLane id f).extRaw = s.extRaw := rfl
@[simp] theorem modLane_capLines (s : State) (id : LaneId) (f : Lane → Lane) : (s.modLane id f).capLines = s.capLines := rfl
@[simp] theorem modLane_pins (s : State) (id : LaneId) (f : Lane → Lane) : (s.modLane id f).pins = s.pins := rfl
@[simp] theorem modLane_hbmq (s : State) (id : LaneId) (f : Lane → Lane) : (s.modLane id f).hbmq = s.hbmq := rfl
@[simp] theorem modLane_sideq (s : State) (id : LaneId) (f : Lane → Lane) : (s.modLane id f).sideq = s.sideq := rfl
@[simp] theorem modLane_banks (s : State) (id : LaneId) (f : Lane → Lane) : (s.modLane id f).banks = s.banks := rfl
@[simp] theorem modLane_deficits (s : State) (id : LaneId) (f : Lane → Lane) : (s.modLane id f).deficits = s.deficits := rfl
@[simp] theorem modLane_agecap (s : State) (id : LaneId) (f : Lane → Lane) : (s.modLane id f).agecap = s.agecap := rfl
@[simp] theorem modLane_hotthr (s : State) (id : LaneId) (f : Lane → Lane) : (s.modLane id f).hotthr = s.hotthr := rfl
@[simp] theorem modLane_xfers (s : State) (id : LaneId) (f : Lane → Lane) : (s.modLane id f).xfers = s.xfers := rfl
@[simp] theorem modLane_colls (s : State) (id : LaneId) (f : Lane → Lane) : (s.modLane id f).colls = s.colls := rfl
@[simp] theorem modLane_collIn (s : State) (id : LaneId) (f : Lane → Lane) : (s.modLane id f).collIn = s.collIn := rfl
@[simp] theorem modLane_peers (s : State) (id : LaneId) (f : Lane → Lane) : (s.modLane id f).peers = s.peers := rfl
@[simp] theorem modLane_nextId (s : State) (id : LaneId) (f : Lane → Lane) : (s.modLane id f).nextId = s.nextId := rfl
@[simp] theorem modLane_time (s : State) (id : LaneId) (f : Lane → Lane) : (s.modLane id f).time = s.time := rfl
@[simp] theorem modLane_cycle (s : State) (id : LaneId) (f : Lane → Lane) : (s.modLane id f).cycle = s.cycle := rfl
@[simp] theorem modLane_pkgid (s : State) (id : LaneId) (f : Lane → Lane) : (s.modLane id f).pkgid = s.pkgid := rfl
@[simp] theorem modLane_flog (s : State) (id : LaneId) (f : Lane → Lane) : (s.modLane id f).flog = s.flog := rfl
@[simp] theorem modLane_slog (s : State) (id : LaneId) (f : Lane → Lane) : (s.modLane id f).slog = s.slog := rfl
@[simp] theorem modLane_msixOpen (s : State) (id : LaneId) (f : Lane → Lane) : (s.modLane id f).msixOpen = s.msixOpen := rfl
@[simp] theorem modLane_msixPend (s : State) (id : LaneId) (f : Lane → Lane) : (s.modLane id f).msixPend = s.msixPend := rfl
@[simp] theorem modLane_msixTable (s : State) (id : LaneId) (f : Lane → Lane) : (s.modLane id f).msixTable = s.msixTable := rfl
@[simp] theorem modLane_links (s : State) (id : LaneId) (f : Lane → Lane) : (s.modLane id f).links = s.links := rfl
@[simp] theorem modLane_lostDies (s : State) (id : LaneId) (f : Lane → Lane) : (s.modLane id f).lostDies = s.lostDies := rfl
@[simp] theorem modLane_boot (s : State) (id : LaneId) (f : Lane → Lane) : (s.modLane id f).boot = s.boot := rfl
@[simp] theorem modLane_slotTried (s : State) (id : LaneId) (f : Lane → Lane) : (s.modLane id f).slotTried = s.slotTried := rfl
@[simp] theorem modLane_firmware (s : State) (id : LaneId) (f : Lane → Lane) : (s.modLane id f).firmware = s.firmware := rfl
@[simp] theorem modLane_period (s : State) (id : LaneId) (f : Lane → Lane) : (s.modLane id f).period = s.period := rfl
@[simp] theorem modLane_softErrors (s : State) (id : LaneId) (f : Lane → Lane) : (s.modLane id f).softErrors = s.softErrors := rfl
@[simp] theorem modLane_plim (s : State) (id : LaneId) (f : Lane → Lane) : (s.modLane id f).plim = s.plim := rfl
@[simp] theorem modLane_clock (s : State) (id : LaneId) (f : Lane → Lane) : (s.modLane id f).clock = s.clock := rfl
@[simp] theorem modLane_thermal (s : State) (id : LaneId) (f : Lane → Lane) : (s.modLane id f).thermal = s.thermal := rfl
@[simp] theorem modLane_d3 (s : State) (id : LaneId) (f : Lane → Lane) : (s.modLane id f).d3 = s.d3 := rfl
@[simp] theorem modLane_power (s : State) (id : LaneId) (f : Lane → Lane) : (s.modLane id f).power = s.power := rfl
@[simp] theorem modLane_out (s : State) (id : LaneId) (f : Lane → Lane) : (s.modLane id f).out = s.out := rfl
@[simp] theorem modLane_sched (s : State) (id : LaneId) (f : Lane → Lane) : (s.modLane id f).sched = s.sched := rfl
@[simp] theorem modLane_inputs (s : State) (id : LaneId) (f : Lane → Lane) : (s.modLane id f).inputs = s.inputs := rfl
@[simp] theorem modLane_free (s : State) (id : LaneId) (f : Lane → Lane) : (s.modLane id f).free = s.free := rfl
@[simp] theorem modLane_turn (s : State) (id : LaneId) (f : Lane → Lane) : (s.modLane id f).turn = s.turn := rfl
@[simp] theorem modLane_formed (s : State) (id : LaneId) (f : Lane → Lane) : (s.modLane id f).formed = s.formed := rfl
@[simp] theorem modLane_latch (s : State) (id : LaneId) (f : Lane → Lane) : (s.modLane id f).latch = s.latch := rfl
@[simp] theorem modLane_lastWord (s : State) (id : LaneId) (f : Lane → Lane) : (s.modLane id f).lastWord = s.lastWord := rfl
@[simp] theorem modLane_frozen (s : State) (id : LaneId) (f : Lane → Lane) : (s.modLane id f).frozen = s.frozen := rfl

/-! ## mapActive -/

theorem mapActive_lanes (s : State) (f : Lane → Lane) : (mapActive s f).lanes = s.lanes.map fun l => if l.issuing then f l else l := rfl
@[simp] theorem mapActive_teams (s : State) (f : Lane → Lane) : (mapActive s f).teams = s.teams := rfl
@[simp] theorem mapActive_nextTid (s : State) (f : Lane → Lane) : (mapActive s f).nextTid = s.nextTid := rfl
@[simp] theorem mapActive_clusters (s : State) (f : Lane → Lane) : (mapActive s f).clusters = s.clusters := rfl
@[simp] theorem mapActive_parts (s : State) (f : Lane → Lane) : (mapActive s f).parts = s.parts := rfl
@[simp] theorem mapActive_mem (s : State) (f : Lane → Lane) : (mapActive s f).mem = s.mem := rfl
@[simp] theorem mapActive_hostMem (s : State) (f : Lane → Lane) : (mapActive s f).hostMem = s.hostMem := rfl
@[simp] theorem mapActive_poison (s : State) (f : Lane → Lane) : (mapActive s f).poison = s.poison := rfl
@[simp] theorem mapActive_lines (s : State) (f : Lane → Lane) : (mapActive s f).lines = s.lines := rfl
@[simp] theorem mapActive_net (s : State) (f : Lane → Lane) : (mapActive s f).net = s.net := rfl
@[simp] theorem mapActive_epochs (s : State) (f : Lane → Lane) : (mapActive s f).epochs = s.epochs := rfl
@[simp] theorem mapActive_hostLines (s : State) (f : Lane → Lane) : (mapActive s f).hostLines = s.hostLines := rfl
@[simp] theorem mapActive_hostWait (s : State) (f : Lane → Lane) : (mapActive s f).hostWait = s.hostWait := rfl
@[simp] theorem mapActive_uaWait (s : State) (f : Lane → Lane) : (mapActive s f).uaWait = s.uaWait := rfl
@[simp] theorem mapActive_unitWait (s : State) (f : Lane → Lane) : (mapActive s f).unitWait = s.unitWait := rfl
@[simp] theorem mapActive_l2 (s : State) (f : Lane → Lane) : (mapActive s f).l2 = s.l2 := rfl
@[simp] theorem mapActive_l3 (s : State) (f : Lane → Lane) : (mapActive s f).l3 = s.l3 := rfl
@[simp] theorem mapActive_tlb (s : State) (f : Lane → Lane) : (mapActive s f).tlb = s.tlb := rfl
@[simp] theorem mapActive_nextTlb (s : State) (f : Lane → Lane) : (mapActive s f).nextTlb = s.nextTlb := rfl
@[simp] theorem mapActive_fot (s : State) (f : Lane → Lane) : (mapActive s f).fot = s.fot := rfl
@[simp] theorem mapActive_reserved (s : State) (f : Lane → Lane) : (mapActive s f).reserved = s.reserved := rfl
@[simp] theorem mapActive_fronts (s : State) (f : Lane → Lane) : (mapActive s f).fronts = s.fronts := rfl
@[simp] theorem mapActive_fotidx (s : State) (f : Lane → Lane) : (mapActive s f).fotidx = s.fotidx := rfl
@[simp] theorem mapActive_fotstat (s : State) (f : Lane → Lane) : (mapActive s f).fotstat = s.fotstat := rfl
@[simp] theorem mapActive_extents (s : State) (f : Lane → Lane) : (mapActive s f).extents = s.extents := rfl
@[simp] theorem mapActive_extRaw (s : State) (f : Lane → Lane) : (mapActive s f).extRaw = s.extRaw := rfl
@[simp] theorem mapActive_capLines (s : State) (f : Lane → Lane) : (mapActive s f).capLines = s.capLines := rfl
@[simp] theorem mapActive_pins (s : State) (f : Lane → Lane) : (mapActive s f).pins = s.pins := rfl
@[simp] theorem mapActive_hbmq (s : State) (f : Lane → Lane) : (mapActive s f).hbmq = s.hbmq := rfl
@[simp] theorem mapActive_sideq (s : State) (f : Lane → Lane) : (mapActive s f).sideq = s.sideq := rfl
@[simp] theorem mapActive_banks (s : State) (f : Lane → Lane) : (mapActive s f).banks = s.banks := rfl
@[simp] theorem mapActive_deficits (s : State) (f : Lane → Lane) : (mapActive s f).deficits = s.deficits := rfl
@[simp] theorem mapActive_agecap (s : State) (f : Lane → Lane) : (mapActive s f).agecap = s.agecap := rfl
@[simp] theorem mapActive_hotthr (s : State) (f : Lane → Lane) : (mapActive s f).hotthr = s.hotthr := rfl
@[simp] theorem mapActive_xfers (s : State) (f : Lane → Lane) : (mapActive s f).xfers = s.xfers := rfl
@[simp] theorem mapActive_colls (s : State) (f : Lane → Lane) : (mapActive s f).colls = s.colls := rfl
@[simp] theorem mapActive_collIn (s : State) (f : Lane → Lane) : (mapActive s f).collIn = s.collIn := rfl
@[simp] theorem mapActive_peers (s : State) (f : Lane → Lane) : (mapActive s f).peers = s.peers := rfl
@[simp] theorem mapActive_nextId (s : State) (f : Lane → Lane) : (mapActive s f).nextId = s.nextId := rfl
@[simp] theorem mapActive_time (s : State) (f : Lane → Lane) : (mapActive s f).time = s.time := rfl
@[simp] theorem mapActive_cycle (s : State) (f : Lane → Lane) : (mapActive s f).cycle = s.cycle := rfl
@[simp] theorem mapActive_pkgid (s : State) (f : Lane → Lane) : (mapActive s f).pkgid = s.pkgid := rfl
@[simp] theorem mapActive_flog (s : State) (f : Lane → Lane) : (mapActive s f).flog = s.flog := rfl
@[simp] theorem mapActive_slog (s : State) (f : Lane → Lane) : (mapActive s f).slog = s.slog := rfl
@[simp] theorem mapActive_msixOpen (s : State) (f : Lane → Lane) : (mapActive s f).msixOpen = s.msixOpen := rfl
@[simp] theorem mapActive_msixPend (s : State) (f : Lane → Lane) : (mapActive s f).msixPend = s.msixPend := rfl
@[simp] theorem mapActive_msixTable (s : State) (f : Lane → Lane) : (mapActive s f).msixTable = s.msixTable := rfl
@[simp] theorem mapActive_links (s : State) (f : Lane → Lane) : (mapActive s f).links = s.links := rfl
@[simp] theorem mapActive_lostDies (s : State) (f : Lane → Lane) : (mapActive s f).lostDies = s.lostDies := rfl
@[simp] theorem mapActive_boot (s : State) (f : Lane → Lane) : (mapActive s f).boot = s.boot := rfl
@[simp] theorem mapActive_slotTried (s : State) (f : Lane → Lane) : (mapActive s f).slotTried = s.slotTried := rfl
@[simp] theorem mapActive_firmware (s : State) (f : Lane → Lane) : (mapActive s f).firmware = s.firmware := rfl
@[simp] theorem mapActive_period (s : State) (f : Lane → Lane) : (mapActive s f).period = s.period := rfl
@[simp] theorem mapActive_softErrors (s : State) (f : Lane → Lane) : (mapActive s f).softErrors = s.softErrors := rfl
@[simp] theorem mapActive_plim (s : State) (f : Lane → Lane) : (mapActive s f).plim = s.plim := rfl
@[simp] theorem mapActive_clock (s : State) (f : Lane → Lane) : (mapActive s f).clock = s.clock := rfl
@[simp] theorem mapActive_thermal (s : State) (f : Lane → Lane) : (mapActive s f).thermal = s.thermal := rfl
@[simp] theorem mapActive_d3 (s : State) (f : Lane → Lane) : (mapActive s f).d3 = s.d3 := rfl
@[simp] theorem mapActive_power (s : State) (f : Lane → Lane) : (mapActive s f).power = s.power := rfl
@[simp] theorem mapActive_out (s : State) (f : Lane → Lane) : (mapActive s f).out = s.out := rfl
@[simp] theorem mapActive_sched (s : State) (f : Lane → Lane) : (mapActive s f).sched = s.sched := rfl
@[simp] theorem mapActive_inputs (s : State) (f : Lane → Lane) : (mapActive s f).inputs = s.inputs := rfl
@[simp] theorem mapActive_free (s : State) (f : Lane → Lane) : (mapActive s f).free = s.free := rfl
@[simp] theorem mapActive_turn (s : State) (f : Lane → Lane) : (mapActive s f).turn = s.turn := rfl
@[simp] theorem mapActive_formed (s : State) (f : Lane → Lane) : (mapActive s f).formed = s.formed := rfl
@[simp] theorem mapActive_latch (s : State) (f : Lane → Lane) : (mapActive s f).latch = s.latch := rfl
@[simp] theorem mapActive_lastWord (s : State) (f : Lane → Lane) : (mapActive s f).lastWord = s.lastWord := rfl
@[simp] theorem mapActive_frozen (s : State) (f : Lane → Lane) : (mapActive s f).frozen = s.frozen := rfl

/-! ## modPart -/

@[simp] theorem modPart_lanes (s : State) (p : Nat) (f : Part → Part) : (s.modPart p f).lanes = s.lanes := rfl
@[simp] theorem modPart_teams (s : State) (p : Nat) (f : Part → Part) : (s.modPart p f).teams = s.teams := rfl
@[simp] theorem modPart_nextTid (s : State) (p : Nat) (f : Part → Part) : (s.modPart p f).nextTid = s.nextTid := rfl
@[simp] theorem modPart_clusters (s : State) (p : Nat) (f : Part → Part) : (s.modPart p f).clusters = s.clusters := rfl
theorem modPart_parts (s : State) (p : Nat) (f : Part → Part) : (s.modPart p f).parts = tmod part0 p f s.parts := rfl
@[simp] theorem modPart_mem (s : State) (p : Nat) (f : Part → Part) : (s.modPart p f).mem = s.mem := rfl
@[simp] theorem modPart_hostMem (s : State) (p : Nat) (f : Part → Part) : (s.modPart p f).hostMem = s.hostMem := rfl
@[simp] theorem modPart_poison (s : State) (p : Nat) (f : Part → Part) : (s.modPart p f).poison = s.poison := rfl
@[simp] theorem modPart_lines (s : State) (p : Nat) (f : Part → Part) : (s.modPart p f).lines = s.lines := rfl
@[simp] theorem modPart_net (s : State) (p : Nat) (f : Part → Part) : (s.modPart p f).net = s.net := rfl
@[simp] theorem modPart_epochs (s : State) (p : Nat) (f : Part → Part) : (s.modPart p f).epochs = s.epochs := rfl
@[simp] theorem modPart_hostLines (s : State) (p : Nat) (f : Part → Part) : (s.modPart p f).hostLines = s.hostLines := rfl
@[simp] theorem modPart_hostWait (s : State) (p : Nat) (f : Part → Part) : (s.modPart p f).hostWait = s.hostWait := rfl
@[simp] theorem modPart_uaWait (s : State) (p : Nat) (f : Part → Part) : (s.modPart p f).uaWait = s.uaWait := rfl
@[simp] theorem modPart_unitWait (s : State) (p : Nat) (f : Part → Part) : (s.modPart p f).unitWait = s.unitWait := rfl
@[simp] theorem modPart_l2 (s : State) (p : Nat) (f : Part → Part) : (s.modPart p f).l2 = s.l2 := rfl
@[simp] theorem modPart_l3 (s : State) (p : Nat) (f : Part → Part) : (s.modPart p f).l3 = s.l3 := rfl
@[simp] theorem modPart_tlb (s : State) (p : Nat) (f : Part → Part) : (s.modPart p f).tlb = s.tlb := rfl
@[simp] theorem modPart_nextTlb (s : State) (p : Nat) (f : Part → Part) : (s.modPart p f).nextTlb = s.nextTlb := rfl
@[simp] theorem modPart_fot (s : State) (p : Nat) (f : Part → Part) : (s.modPart p f).fot = s.fot := rfl
@[simp] theorem modPart_reserved (s : State) (p : Nat) (f : Part → Part) : (s.modPart p f).reserved = s.reserved := rfl
@[simp] theorem modPart_fronts (s : State) (p : Nat) (f : Part → Part) : (s.modPart p f).fronts = s.fronts := rfl
@[simp] theorem modPart_fotidx (s : State) (p : Nat) (f : Part → Part) : (s.modPart p f).fotidx = s.fotidx := rfl
@[simp] theorem modPart_fotstat (s : State) (p : Nat) (f : Part → Part) : (s.modPart p f).fotstat = s.fotstat := rfl
@[simp] theorem modPart_extents (s : State) (p : Nat) (f : Part → Part) : (s.modPart p f).extents = s.extents := rfl
@[simp] theorem modPart_extRaw (s : State) (p : Nat) (f : Part → Part) : (s.modPart p f).extRaw = s.extRaw := rfl
@[simp] theorem modPart_capLines (s : State) (p : Nat) (f : Part → Part) : (s.modPart p f).capLines = s.capLines := rfl
@[simp] theorem modPart_pins (s : State) (p : Nat) (f : Part → Part) : (s.modPart p f).pins = s.pins := rfl
@[simp] theorem modPart_hbmq (s : State) (p : Nat) (f : Part → Part) : (s.modPart p f).hbmq = s.hbmq := rfl
@[simp] theorem modPart_sideq (s : State) (p : Nat) (f : Part → Part) : (s.modPart p f).sideq = s.sideq := rfl
@[simp] theorem modPart_banks (s : State) (p : Nat) (f : Part → Part) : (s.modPart p f).banks = s.banks := rfl
@[simp] theorem modPart_deficits (s : State) (p : Nat) (f : Part → Part) : (s.modPart p f).deficits = s.deficits := rfl
@[simp] theorem modPart_agecap (s : State) (p : Nat) (f : Part → Part) : (s.modPart p f).agecap = s.agecap := rfl
@[simp] theorem modPart_hotthr (s : State) (p : Nat) (f : Part → Part) : (s.modPart p f).hotthr = s.hotthr := rfl
@[simp] theorem modPart_xfers (s : State) (p : Nat) (f : Part → Part) : (s.modPart p f).xfers = s.xfers := rfl
@[simp] theorem modPart_colls (s : State) (p : Nat) (f : Part → Part) : (s.modPart p f).colls = s.colls := rfl
@[simp] theorem modPart_collIn (s : State) (p : Nat) (f : Part → Part) : (s.modPart p f).collIn = s.collIn := rfl
@[simp] theorem modPart_peers (s : State) (p : Nat) (f : Part → Part) : (s.modPart p f).peers = s.peers := rfl
@[simp] theorem modPart_nextId (s : State) (p : Nat) (f : Part → Part) : (s.modPart p f).nextId = s.nextId := rfl
@[simp] theorem modPart_time (s : State) (p : Nat) (f : Part → Part) : (s.modPart p f).time = s.time := rfl
@[simp] theorem modPart_cycle (s : State) (p : Nat) (f : Part → Part) : (s.modPart p f).cycle = s.cycle := rfl
@[simp] theorem modPart_pkgid (s : State) (p : Nat) (f : Part → Part) : (s.modPart p f).pkgid = s.pkgid := rfl
@[simp] theorem modPart_flog (s : State) (p : Nat) (f : Part → Part) : (s.modPart p f).flog = s.flog := rfl
@[simp] theorem modPart_slog (s : State) (p : Nat) (f : Part → Part) : (s.modPart p f).slog = s.slog := rfl
@[simp] theorem modPart_msixOpen (s : State) (p : Nat) (f : Part → Part) : (s.modPart p f).msixOpen = s.msixOpen := rfl
@[simp] theorem modPart_msixPend (s : State) (p : Nat) (f : Part → Part) : (s.modPart p f).msixPend = s.msixPend := rfl
@[simp] theorem modPart_msixTable (s : State) (p : Nat) (f : Part → Part) : (s.modPart p f).msixTable = s.msixTable := rfl
@[simp] theorem modPart_links (s : State) (p : Nat) (f : Part → Part) : (s.modPart p f).links = s.links := rfl
@[simp] theorem modPart_lostDies (s : State) (p : Nat) (f : Part → Part) : (s.modPart p f).lostDies = s.lostDies := rfl
@[simp] theorem modPart_boot (s : State) (p : Nat) (f : Part → Part) : (s.modPart p f).boot = s.boot := rfl
@[simp] theorem modPart_slotTried (s : State) (p : Nat) (f : Part → Part) : (s.modPart p f).slotTried = s.slotTried := rfl
@[simp] theorem modPart_firmware (s : State) (p : Nat) (f : Part → Part) : (s.modPart p f).firmware = s.firmware := rfl
@[simp] theorem modPart_period (s : State) (p : Nat) (f : Part → Part) : (s.modPart p f).period = s.period := rfl
@[simp] theorem modPart_softErrors (s : State) (p : Nat) (f : Part → Part) : (s.modPart p f).softErrors = s.softErrors := rfl
@[simp] theorem modPart_plim (s : State) (p : Nat) (f : Part → Part) : (s.modPart p f).plim = s.plim := rfl
@[simp] theorem modPart_clock (s : State) (p : Nat) (f : Part → Part) : (s.modPart p f).clock = s.clock := rfl
@[simp] theorem modPart_thermal (s : State) (p : Nat) (f : Part → Part) : (s.modPart p f).thermal = s.thermal := rfl
@[simp] theorem modPart_d3 (s : State) (p : Nat) (f : Part → Part) : (s.modPart p f).d3 = s.d3 := rfl
@[simp] theorem modPart_power (s : State) (p : Nat) (f : Part → Part) : (s.modPart p f).power = s.power := rfl
@[simp] theorem modPart_out (s : State) (p : Nat) (f : Part → Part) : (s.modPart p f).out = s.out := rfl
@[simp] theorem modPart_sched (s : State) (p : Nat) (f : Part → Part) : (s.modPart p f).sched = s.sched := rfl
@[simp] theorem modPart_inputs (s : State) (p : Nat) (f : Part → Part) : (s.modPart p f).inputs = s.inputs := rfl
@[simp] theorem modPart_free (s : State) (p : Nat) (f : Part → Part) : (s.modPart p f).free = s.free := rfl
@[simp] theorem modPart_turn (s : State) (p : Nat) (f : Part → Part) : (s.modPart p f).turn = s.turn := rfl
@[simp] theorem modPart_formed (s : State) (p : Nat) (f : Part → Part) : (s.modPart p f).formed = s.formed := rfl
@[simp] theorem modPart_latch (s : State) (p : Nat) (f : Part → Part) : (s.modPart p f).latch = s.latch := rfl
@[simp] theorem modPart_lastWord (s : State) (p : Nat) (f : Part → Part) : (s.modPart p f).lastWord = s.lastWord := rfl
@[simp] theorem modPart_frozen (s : State) (p : Nat) (f : Part → Part) : (s.modPart p f).frozen = s.frozen := rfl

/-! ## modLaunch -/

@[simp] theorem modLaunch_lanes (s : State) (p seq : Nat) (f : Launch → Launch) : (s.modLaunch p seq f).lanes = s.lanes := rfl
@[simp] theorem modLaunch_teams (s : State) (p seq : Nat) (f : Launch → Launch) : (s.modLaunch p seq f).teams = s.teams := rfl
@[simp] theorem modLaunch_nextTid (s : State) (p seq : Nat) (f : Launch → Launch) : (s.modLaunch p seq f).nextTid = s.nextTid := rfl
@[simp] theorem modLaunch_clusters (s : State) (p seq : Nat) (f : Launch → Launch) : (s.modLaunch p seq f).clusters = s.clusters := rfl
@[simp] theorem modLaunch_mem (s : State) (p seq : Nat) (f : Launch → Launch) : (s.modLaunch p seq f).mem = s.mem := rfl
@[simp] theorem modLaunch_hostMem (s : State) (p seq : Nat) (f : Launch → Launch) : (s.modLaunch p seq f).hostMem = s.hostMem := rfl
@[simp] theorem modLaunch_poison (s : State) (p seq : Nat) (f : Launch → Launch) : (s.modLaunch p seq f).poison = s.poison := rfl
@[simp] theorem modLaunch_lines (s : State) (p seq : Nat) (f : Launch → Launch) : (s.modLaunch p seq f).lines = s.lines := rfl
@[simp] theorem modLaunch_net (s : State) (p seq : Nat) (f : Launch → Launch) : (s.modLaunch p seq f).net = s.net := rfl
@[simp] theorem modLaunch_epochs (s : State) (p seq : Nat) (f : Launch → Launch) : (s.modLaunch p seq f).epochs = s.epochs := rfl
@[simp] theorem modLaunch_hostLines (s : State) (p seq : Nat) (f : Launch → Launch) : (s.modLaunch p seq f).hostLines = s.hostLines := rfl
@[simp] theorem modLaunch_hostWait (s : State) (p seq : Nat) (f : Launch → Launch) : (s.modLaunch p seq f).hostWait = s.hostWait := rfl
@[simp] theorem modLaunch_uaWait (s : State) (p seq : Nat) (f : Launch → Launch) : (s.modLaunch p seq f).uaWait = s.uaWait := rfl
@[simp] theorem modLaunch_unitWait (s : State) (p seq : Nat) (f : Launch → Launch) : (s.modLaunch p seq f).unitWait = s.unitWait := rfl
@[simp] theorem modLaunch_l2 (s : State) (p seq : Nat) (f : Launch → Launch) : (s.modLaunch p seq f).l2 = s.l2 := rfl
@[simp] theorem modLaunch_l3 (s : State) (p seq : Nat) (f : Launch → Launch) : (s.modLaunch p seq f).l3 = s.l3 := rfl
@[simp] theorem modLaunch_tlb (s : State) (p seq : Nat) (f : Launch → Launch) : (s.modLaunch p seq f).tlb = s.tlb := rfl
@[simp] theorem modLaunch_nextTlb (s : State) (p seq : Nat) (f : Launch → Launch) : (s.modLaunch p seq f).nextTlb = s.nextTlb := rfl
@[simp] theorem modLaunch_fot (s : State) (p seq : Nat) (f : Launch → Launch) : (s.modLaunch p seq f).fot = s.fot := rfl
@[simp] theorem modLaunch_reserved (s : State) (p seq : Nat) (f : Launch → Launch) : (s.modLaunch p seq f).reserved = s.reserved := rfl
@[simp] theorem modLaunch_fronts (s : State) (p seq : Nat) (f : Launch → Launch) : (s.modLaunch p seq f).fronts = s.fronts := rfl
@[simp] theorem modLaunch_fotidx (s : State) (p seq : Nat) (f : Launch → Launch) : (s.modLaunch p seq f).fotidx = s.fotidx := rfl
@[simp] theorem modLaunch_fotstat (s : State) (p seq : Nat) (f : Launch → Launch) : (s.modLaunch p seq f).fotstat = s.fotstat := rfl
@[simp] theorem modLaunch_extents (s : State) (p seq : Nat) (f : Launch → Launch) : (s.modLaunch p seq f).extents = s.extents := rfl
@[simp] theorem modLaunch_extRaw (s : State) (p seq : Nat) (f : Launch → Launch) : (s.modLaunch p seq f).extRaw = s.extRaw := rfl
@[simp] theorem modLaunch_capLines (s : State) (p seq : Nat) (f : Launch → Launch) : (s.modLaunch p seq f).capLines = s.capLines := rfl
@[simp] theorem modLaunch_pins (s : State) (p seq : Nat) (f : Launch → Launch) : (s.modLaunch p seq f).pins = s.pins := rfl
@[simp] theorem modLaunch_hbmq (s : State) (p seq : Nat) (f : Launch → Launch) : (s.modLaunch p seq f).hbmq = s.hbmq := rfl
@[simp] theorem modLaunch_sideq (s : State) (p seq : Nat) (f : Launch → Launch) : (s.modLaunch p seq f).sideq = s.sideq := rfl
@[simp] theorem modLaunch_banks (s : State) (p seq : Nat) (f : Launch → Launch) : (s.modLaunch p seq f).banks = s.banks := rfl
@[simp] theorem modLaunch_deficits (s : State) (p seq : Nat) (f : Launch → Launch) : (s.modLaunch p seq f).deficits = s.deficits := rfl
@[simp] theorem modLaunch_agecap (s : State) (p seq : Nat) (f : Launch → Launch) : (s.modLaunch p seq f).agecap = s.agecap := rfl
@[simp] theorem modLaunch_hotthr (s : State) (p seq : Nat) (f : Launch → Launch) : (s.modLaunch p seq f).hotthr = s.hotthr := rfl
@[simp] theorem modLaunch_xfers (s : State) (p seq : Nat) (f : Launch → Launch) : (s.modLaunch p seq f).xfers = s.xfers := rfl
@[simp] theorem modLaunch_colls (s : State) (p seq : Nat) (f : Launch → Launch) : (s.modLaunch p seq f).colls = s.colls := rfl
@[simp] theorem modLaunch_collIn (s : State) (p seq : Nat) (f : Launch → Launch) : (s.modLaunch p seq f).collIn = s.collIn := rfl
@[simp] theorem modLaunch_peers (s : State) (p seq : Nat) (f : Launch → Launch) : (s.modLaunch p seq f).peers = s.peers := rfl
@[simp] theorem modLaunch_nextId (s : State) (p seq : Nat) (f : Launch → Launch) : (s.modLaunch p seq f).nextId = s.nextId := rfl
@[simp] theorem modLaunch_time (s : State) (p seq : Nat) (f : Launch → Launch) : (s.modLaunch p seq f).time = s.time := rfl
@[simp] theorem modLaunch_cycle (s : State) (p seq : Nat) (f : Launch → Launch) : (s.modLaunch p seq f).cycle = s.cycle := rfl
@[simp] theorem modLaunch_pkgid (s : State) (p seq : Nat) (f : Launch → Launch) : (s.modLaunch p seq f).pkgid = s.pkgid := rfl
@[simp] theorem modLaunch_flog (s : State) (p seq : Nat) (f : Launch → Launch) : (s.modLaunch p seq f).flog = s.flog := rfl
@[simp] theorem modLaunch_slog (s : State) (p seq : Nat) (f : Launch → Launch) : (s.modLaunch p seq f).slog = s.slog := rfl
@[simp] theorem modLaunch_msixOpen (s : State) (p seq : Nat) (f : Launch → Launch) : (s.modLaunch p seq f).msixOpen = s.msixOpen := rfl
@[simp] theorem modLaunch_msixPend (s : State) (p seq : Nat) (f : Launch → Launch) : (s.modLaunch p seq f).msixPend = s.msixPend := rfl
@[simp] theorem modLaunch_msixTable (s : State) (p seq : Nat) (f : Launch → Launch) : (s.modLaunch p seq f).msixTable = s.msixTable := rfl
@[simp] theorem modLaunch_links (s : State) (p seq : Nat) (f : Launch → Launch) : (s.modLaunch p seq f).links = s.links := rfl
@[simp] theorem modLaunch_lostDies (s : State) (p seq : Nat) (f : Launch → Launch) : (s.modLaunch p seq f).lostDies = s.lostDies := rfl
@[simp] theorem modLaunch_boot (s : State) (p seq : Nat) (f : Launch → Launch) : (s.modLaunch p seq f).boot = s.boot := rfl
@[simp] theorem modLaunch_slotTried (s : State) (p seq : Nat) (f : Launch → Launch) : (s.modLaunch p seq f).slotTried = s.slotTried := rfl
@[simp] theorem modLaunch_firmware (s : State) (p seq : Nat) (f : Launch → Launch) : (s.modLaunch p seq f).firmware = s.firmware := rfl
@[simp] theorem modLaunch_period (s : State) (p seq : Nat) (f : Launch → Launch) : (s.modLaunch p seq f).period = s.period := rfl
@[simp] theorem modLaunch_softErrors (s : State) (p seq : Nat) (f : Launch → Launch) : (s.modLaunch p seq f).softErrors = s.softErrors := rfl
@[simp] theorem modLaunch_plim (s : State) (p seq : Nat) (f : Launch → Launch) : (s.modLaunch p seq f).plim = s.plim := rfl
@[simp] theorem modLaunch_clock (s : State) (p seq : Nat) (f : Launch → Launch) : (s.modLaunch p seq f).clock = s.clock := rfl
@[simp] theorem modLaunch_thermal (s : State) (p seq : Nat) (f : Launch → Launch) : (s.modLaunch p seq f).thermal = s.thermal := rfl
@[simp] theorem modLaunch_d3 (s : State) (p seq : Nat) (f : Launch → Launch) : (s.modLaunch p seq f).d3 = s.d3 := rfl
@[simp] theorem modLaunch_power (s : State) (p seq : Nat) (f : Launch → Launch) : (s.modLaunch p seq f).power = s.power := rfl
@[simp] theorem modLaunch_out (s : State) (p seq : Nat) (f : Launch → Launch) : (s.modLaunch p seq f).out = s.out := rfl
@[simp] theorem modLaunch_sched (s : State) (p seq : Nat) (f : Launch → Launch) : (s.modLaunch p seq f).sched = s.sched := rfl
@[simp] theorem modLaunch_inputs (s : State) (p seq : Nat) (f : Launch → Launch) : (s.modLaunch p seq f).inputs = s.inputs := rfl
@[simp] theorem modLaunch_free (s : State) (p seq : Nat) (f : Launch → Launch) : (s.modLaunch p seq f).free = s.free := rfl
@[simp] theorem modLaunch_turn (s : State) (p seq : Nat) (f : Launch → Launch) : (s.modLaunch p seq f).turn = s.turn := rfl
@[simp] theorem modLaunch_formed (s : State) (p seq : Nat) (f : Launch → Launch) : (s.modLaunch p seq f).formed = s.formed := rfl
@[simp] theorem modLaunch_latch (s : State) (p seq : Nat) (f : Launch → Launch) : (s.modLaunch p seq f).latch = s.latch := rfl
@[simp] theorem modLaunch_lastWord (s : State) (p seq : Nat) (f : Launch → Launch) : (s.modLaunch p seq f).lastWord = s.lastWord := rfl
@[simp] theorem modLaunch_frozen (s : State) (p seq : Nat) (f : Launch → Launch) : (s.modLaunch p seq f).frozen = s.frozen := rfl

/-! ## modCluster -/

@[simp] theorem modCluster_lanes (s : State) (c : Nat) (f : Cluster → Cluster) : (s.modCluster c f).lanes = s.lanes := rfl
@[simp] theorem modCluster_teams (s : State) (c : Nat) (f : Cluster → Cluster) : (s.modCluster c f).teams = s.teams := rfl
@[simp] theorem modCluster_nextTid (s : State) (c : Nat) (f : Cluster → Cluster) : (s.modCluster c f).nextTid = s.nextTid := rfl
theorem modCluster_clusters (s : State) (c : Nat) (f : Cluster → Cluster) : (s.modCluster c f).clusters = tmod cluster0 c f s.clusters := rfl
@[simp] theorem modCluster_parts (s : State) (c : Nat) (f : Cluster → Cluster) : (s.modCluster c f).parts = s.parts := rfl
@[simp] theorem modCluster_mem (s : State) (c : Nat) (f : Cluster → Cluster) : (s.modCluster c f).mem = s.mem := rfl
@[simp] theorem modCluster_hostMem (s : State) (c : Nat) (f : Cluster → Cluster) : (s.modCluster c f).hostMem = s.hostMem := rfl
@[simp] theorem modCluster_poison (s : State) (c : Nat) (f : Cluster → Cluster) : (s.modCluster c f).poison = s.poison := rfl
@[simp] theorem modCluster_lines (s : State) (c : Nat) (f : Cluster → Cluster) : (s.modCluster c f).lines = s.lines := rfl
@[simp] theorem modCluster_net (s : State) (c : Nat) (f : Cluster → Cluster) : (s.modCluster c f).net = s.net := rfl
@[simp] theorem modCluster_epochs (s : State) (c : Nat) (f : Cluster → Cluster) : (s.modCluster c f).epochs = s.epochs := rfl
@[simp] theorem modCluster_hostLines (s : State) (c : Nat) (f : Cluster → Cluster) : (s.modCluster c f).hostLines = s.hostLines := rfl
@[simp] theorem modCluster_hostWait (s : State) (c : Nat) (f : Cluster → Cluster) : (s.modCluster c f).hostWait = s.hostWait := rfl
@[simp] theorem modCluster_uaWait (s : State) (c : Nat) (f : Cluster → Cluster) : (s.modCluster c f).uaWait = s.uaWait := rfl
@[simp] theorem modCluster_unitWait (s : State) (c : Nat) (f : Cluster → Cluster) : (s.modCluster c f).unitWait = s.unitWait := rfl
@[simp] theorem modCluster_l2 (s : State) (c : Nat) (f : Cluster → Cluster) : (s.modCluster c f).l2 = s.l2 := rfl
@[simp] theorem modCluster_l3 (s : State) (c : Nat) (f : Cluster → Cluster) : (s.modCluster c f).l3 = s.l3 := rfl
@[simp] theorem modCluster_tlb (s : State) (c : Nat) (f : Cluster → Cluster) : (s.modCluster c f).tlb = s.tlb := rfl
@[simp] theorem modCluster_nextTlb (s : State) (c : Nat) (f : Cluster → Cluster) : (s.modCluster c f).nextTlb = s.nextTlb := rfl
@[simp] theorem modCluster_fot (s : State) (c : Nat) (f : Cluster → Cluster) : (s.modCluster c f).fot = s.fot := rfl
@[simp] theorem modCluster_reserved (s : State) (c : Nat) (f : Cluster → Cluster) : (s.modCluster c f).reserved = s.reserved := rfl
@[simp] theorem modCluster_fronts (s : State) (c : Nat) (f : Cluster → Cluster) : (s.modCluster c f).fronts = s.fronts := rfl
@[simp] theorem modCluster_fotidx (s : State) (c : Nat) (f : Cluster → Cluster) : (s.modCluster c f).fotidx = s.fotidx := rfl
@[simp] theorem modCluster_fotstat (s : State) (c : Nat) (f : Cluster → Cluster) : (s.modCluster c f).fotstat = s.fotstat := rfl
@[simp] theorem modCluster_extents (s : State) (c : Nat) (f : Cluster → Cluster) : (s.modCluster c f).extents = s.extents := rfl
@[simp] theorem modCluster_extRaw (s : State) (c : Nat) (f : Cluster → Cluster) : (s.modCluster c f).extRaw = s.extRaw := rfl
@[simp] theorem modCluster_capLines (s : State) (c : Nat) (f : Cluster → Cluster) : (s.modCluster c f).capLines = s.capLines := rfl
@[simp] theorem modCluster_pins (s : State) (c : Nat) (f : Cluster → Cluster) : (s.modCluster c f).pins = s.pins := rfl
@[simp] theorem modCluster_hbmq (s : State) (c : Nat) (f : Cluster → Cluster) : (s.modCluster c f).hbmq = s.hbmq := rfl
@[simp] theorem modCluster_sideq (s : State) (c : Nat) (f : Cluster → Cluster) : (s.modCluster c f).sideq = s.sideq := rfl
@[simp] theorem modCluster_banks (s : State) (c : Nat) (f : Cluster → Cluster) : (s.modCluster c f).banks = s.banks := rfl
@[simp] theorem modCluster_deficits (s : State) (c : Nat) (f : Cluster → Cluster) : (s.modCluster c f).deficits = s.deficits := rfl
@[simp] theorem modCluster_agecap (s : State) (c : Nat) (f : Cluster → Cluster) : (s.modCluster c f).agecap = s.agecap := rfl
@[simp] theorem modCluster_hotthr (s : State) (c : Nat) (f : Cluster → Cluster) : (s.modCluster c f).hotthr = s.hotthr := rfl
@[simp] theorem modCluster_xfers (s : State) (c : Nat) (f : Cluster → Cluster) : (s.modCluster c f).xfers = s.xfers := rfl
@[simp] theorem modCluster_colls (s : State) (c : Nat) (f : Cluster → Cluster) : (s.modCluster c f).colls = s.colls := rfl
@[simp] theorem modCluster_collIn (s : State) (c : Nat) (f : Cluster → Cluster) : (s.modCluster c f).collIn = s.collIn := rfl
@[simp] theorem modCluster_peers (s : State) (c : Nat) (f : Cluster → Cluster) : (s.modCluster c f).peers = s.peers := rfl
@[simp] theorem modCluster_nextId (s : State) (c : Nat) (f : Cluster → Cluster) : (s.modCluster c f).nextId = s.nextId := rfl
@[simp] theorem modCluster_time (s : State) (c : Nat) (f : Cluster → Cluster) : (s.modCluster c f).time = s.time := rfl
@[simp] theorem modCluster_cycle (s : State) (c : Nat) (f : Cluster → Cluster) : (s.modCluster c f).cycle = s.cycle := rfl
@[simp] theorem modCluster_pkgid (s : State) (c : Nat) (f : Cluster → Cluster) : (s.modCluster c f).pkgid = s.pkgid := rfl
@[simp] theorem modCluster_flog (s : State) (c : Nat) (f : Cluster → Cluster) : (s.modCluster c f).flog = s.flog := rfl
@[simp] theorem modCluster_slog (s : State) (c : Nat) (f : Cluster → Cluster) : (s.modCluster c f).slog = s.slog := rfl
@[simp] theorem modCluster_msixOpen (s : State) (c : Nat) (f : Cluster → Cluster) : (s.modCluster c f).msixOpen = s.msixOpen := rfl
@[simp] theorem modCluster_msixPend (s : State) (c : Nat) (f : Cluster → Cluster) : (s.modCluster c f).msixPend = s.msixPend := rfl
@[simp] theorem modCluster_msixTable (s : State) (c : Nat) (f : Cluster → Cluster) : (s.modCluster c f).msixTable = s.msixTable := rfl
@[simp] theorem modCluster_links (s : State) (c : Nat) (f : Cluster → Cluster) : (s.modCluster c f).links = s.links := rfl
@[simp] theorem modCluster_lostDies (s : State) (c : Nat) (f : Cluster → Cluster) : (s.modCluster c f).lostDies = s.lostDies := rfl
@[simp] theorem modCluster_boot (s : State) (c : Nat) (f : Cluster → Cluster) : (s.modCluster c f).boot = s.boot := rfl
@[simp] theorem modCluster_slotTried (s : State) (c : Nat) (f : Cluster → Cluster) : (s.modCluster c f).slotTried = s.slotTried := rfl
@[simp] theorem modCluster_firmware (s : State) (c : Nat) (f : Cluster → Cluster) : (s.modCluster c f).firmware = s.firmware := rfl
@[simp] theorem modCluster_period (s : State) (c : Nat) (f : Cluster → Cluster) : (s.modCluster c f).period = s.period := rfl
@[simp] theorem modCluster_softErrors (s : State) (c : Nat) (f : Cluster → Cluster) : (s.modCluster c f).softErrors = s.softErrors := rfl
@[simp] theorem modCluster_plim (s : State) (c : Nat) (f : Cluster → Cluster) : (s.modCluster c f).plim = s.plim := rfl
@[simp] theorem modCluster_clock (s : State) (c : Nat) (f : Cluster → Cluster) : (s.modCluster c f).clock = s.clock := rfl
@[simp] theorem modCluster_thermal (s : State) (c : Nat) (f : Cluster → Cluster) : (s.modCluster c f).thermal = s.thermal := rfl
@[simp] theorem modCluster_d3 (s : State) (c : Nat) (f : Cluster → Cluster) : (s.modCluster c f).d3 = s.d3 := rfl
@[simp] theorem modCluster_power (s : State) (c : Nat) (f : Cluster → Cluster) : (s.modCluster c f).power = s.power := rfl
@[simp] theorem modCluster_out (s : State) (c : Nat) (f : Cluster → Cluster) : (s.modCluster c f).out = s.out := rfl
@[simp] theorem modCluster_sched (s : State) (c : Nat) (f : Cluster → Cluster) : (s.modCluster c f).sched = s.sched := rfl
@[simp] theorem modCluster_inputs (s : State) (c : Nat) (f : Cluster → Cluster) : (s.modCluster c f).inputs = s.inputs := rfl
@[simp] theorem modCluster_free (s : State) (c : Nat) (f : Cluster → Cluster) : (s.modCluster c f).free = s.free := rfl
@[simp] theorem modCluster_turn (s : State) (c : Nat) (f : Cluster → Cluster) : (s.modCluster c f).turn = s.turn := rfl
@[simp] theorem modCluster_formed (s : State) (c : Nat) (f : Cluster → Cluster) : (s.modCluster c f).formed = s.formed := rfl
@[simp] theorem modCluster_latch (s : State) (c : Nat) (f : Cluster → Cluster) : (s.modCluster c f).latch = s.latch := rfl
@[simp] theorem modCluster_lastWord (s : State) (c : Nat) (f : Cluster → Cluster) : (s.modCluster c f).lastWord = s.lastWord := rfl
@[simp] theorem modCluster_frozen (s : State) (c : Nat) (f : Cluster → Cluster) : (s.modCluster c f).frozen = s.frozen := rfl

/-! ## modMacro -/

@[simp] theorem modMacro_lanes (s : State) (c m : Nat) (f : Sram → Sram) : (s.modMacro c m f).lanes = s.lanes := rfl
@[simp] theorem modMacro_teams (s : State) (c m : Nat) (f : Sram → Sram) : (s.modMacro c m f).teams = s.teams := rfl
@[simp] theorem modMacro_nextTid (s : State) (c m : Nat) (f : Sram → Sram) : (s.modMacro c m f).nextTid = s.nextTid := rfl
@[simp] theorem modMacro_parts (s : State) (c m : Nat) (f : Sram → Sram) : (s.modMacro c m f).parts = s.parts := rfl
@[simp] theorem modMacro_mem (s : State) (c m : Nat) (f : Sram → Sram) : (s.modMacro c m f).mem = s.mem := rfl
@[simp] theorem modMacro_hostMem (s : State) (c m : Nat) (f : Sram → Sram) : (s.modMacro c m f).hostMem = s.hostMem := rfl
@[simp] theorem modMacro_poison (s : State) (c m : Nat) (f : Sram → Sram) : (s.modMacro c m f).poison = s.poison := rfl
@[simp] theorem modMacro_lines (s : State) (c m : Nat) (f : Sram → Sram) : (s.modMacro c m f).lines = s.lines := rfl
@[simp] theorem modMacro_net (s : State) (c m : Nat) (f : Sram → Sram) : (s.modMacro c m f).net = s.net := rfl
@[simp] theorem modMacro_epochs (s : State) (c m : Nat) (f : Sram → Sram) : (s.modMacro c m f).epochs = s.epochs := rfl
@[simp] theorem modMacro_hostLines (s : State) (c m : Nat) (f : Sram → Sram) : (s.modMacro c m f).hostLines = s.hostLines := rfl
@[simp] theorem modMacro_hostWait (s : State) (c m : Nat) (f : Sram → Sram) : (s.modMacro c m f).hostWait = s.hostWait := rfl
@[simp] theorem modMacro_uaWait (s : State) (c m : Nat) (f : Sram → Sram) : (s.modMacro c m f).uaWait = s.uaWait := rfl
@[simp] theorem modMacro_unitWait (s : State) (c m : Nat) (f : Sram → Sram) : (s.modMacro c m f).unitWait = s.unitWait := rfl
@[simp] theorem modMacro_l2 (s : State) (c m : Nat) (f : Sram → Sram) : (s.modMacro c m f).l2 = s.l2 := rfl
@[simp] theorem modMacro_l3 (s : State) (c m : Nat) (f : Sram → Sram) : (s.modMacro c m f).l3 = s.l3 := rfl
@[simp] theorem modMacro_tlb (s : State) (c m : Nat) (f : Sram → Sram) : (s.modMacro c m f).tlb = s.tlb := rfl
@[simp] theorem modMacro_nextTlb (s : State) (c m : Nat) (f : Sram → Sram) : (s.modMacro c m f).nextTlb = s.nextTlb := rfl
@[simp] theorem modMacro_fot (s : State) (c m : Nat) (f : Sram → Sram) : (s.modMacro c m f).fot = s.fot := rfl
@[simp] theorem modMacro_reserved (s : State) (c m : Nat) (f : Sram → Sram) : (s.modMacro c m f).reserved = s.reserved := rfl
@[simp] theorem modMacro_fronts (s : State) (c m : Nat) (f : Sram → Sram) : (s.modMacro c m f).fronts = s.fronts := rfl
@[simp] theorem modMacro_fotidx (s : State) (c m : Nat) (f : Sram → Sram) : (s.modMacro c m f).fotidx = s.fotidx := rfl
@[simp] theorem modMacro_fotstat (s : State) (c m : Nat) (f : Sram → Sram) : (s.modMacro c m f).fotstat = s.fotstat := rfl
@[simp] theorem modMacro_extents (s : State) (c m : Nat) (f : Sram → Sram) : (s.modMacro c m f).extents = s.extents := rfl
@[simp] theorem modMacro_extRaw (s : State) (c m : Nat) (f : Sram → Sram) : (s.modMacro c m f).extRaw = s.extRaw := rfl
@[simp] theorem modMacro_capLines (s : State) (c m : Nat) (f : Sram → Sram) : (s.modMacro c m f).capLines = s.capLines := rfl
@[simp] theorem modMacro_pins (s : State) (c m : Nat) (f : Sram → Sram) : (s.modMacro c m f).pins = s.pins := rfl
@[simp] theorem modMacro_hbmq (s : State) (c m : Nat) (f : Sram → Sram) : (s.modMacro c m f).hbmq = s.hbmq := rfl
@[simp] theorem modMacro_sideq (s : State) (c m : Nat) (f : Sram → Sram) : (s.modMacro c m f).sideq = s.sideq := rfl
@[simp] theorem modMacro_banks (s : State) (c m : Nat) (f : Sram → Sram) : (s.modMacro c m f).banks = s.banks := rfl
@[simp] theorem modMacro_deficits (s : State) (c m : Nat) (f : Sram → Sram) : (s.modMacro c m f).deficits = s.deficits := rfl
@[simp] theorem modMacro_agecap (s : State) (c m : Nat) (f : Sram → Sram) : (s.modMacro c m f).agecap = s.agecap := rfl
@[simp] theorem modMacro_hotthr (s : State) (c m : Nat) (f : Sram → Sram) : (s.modMacro c m f).hotthr = s.hotthr := rfl
@[simp] theorem modMacro_xfers (s : State) (c m : Nat) (f : Sram → Sram) : (s.modMacro c m f).xfers = s.xfers := rfl
@[simp] theorem modMacro_colls (s : State) (c m : Nat) (f : Sram → Sram) : (s.modMacro c m f).colls = s.colls := rfl
@[simp] theorem modMacro_collIn (s : State) (c m : Nat) (f : Sram → Sram) : (s.modMacro c m f).collIn = s.collIn := rfl
@[simp] theorem modMacro_peers (s : State) (c m : Nat) (f : Sram → Sram) : (s.modMacro c m f).peers = s.peers := rfl
@[simp] theorem modMacro_nextId (s : State) (c m : Nat) (f : Sram → Sram) : (s.modMacro c m f).nextId = s.nextId := rfl
@[simp] theorem modMacro_time (s : State) (c m : Nat) (f : Sram → Sram) : (s.modMacro c m f).time = s.time := rfl
@[simp] theorem modMacro_cycle (s : State) (c m : Nat) (f : Sram → Sram) : (s.modMacro c m f).cycle = s.cycle := rfl
@[simp] theorem modMacro_pkgid (s : State) (c m : Nat) (f : Sram → Sram) : (s.modMacro c m f).pkgid = s.pkgid := rfl
@[simp] theorem modMacro_flog (s : State) (c m : Nat) (f : Sram → Sram) : (s.modMacro c m f).flog = s.flog := rfl
@[simp] theorem modMacro_slog (s : State) (c m : Nat) (f : Sram → Sram) : (s.modMacro c m f).slog = s.slog := rfl
@[simp] theorem modMacro_msixOpen (s : State) (c m : Nat) (f : Sram → Sram) : (s.modMacro c m f).msixOpen = s.msixOpen := rfl
@[simp] theorem modMacro_msixPend (s : State) (c m : Nat) (f : Sram → Sram) : (s.modMacro c m f).msixPend = s.msixPend := rfl
@[simp] theorem modMacro_msixTable (s : State) (c m : Nat) (f : Sram → Sram) : (s.modMacro c m f).msixTable = s.msixTable := rfl
@[simp] theorem modMacro_links (s : State) (c m : Nat) (f : Sram → Sram) : (s.modMacro c m f).links = s.links := rfl
@[simp] theorem modMacro_lostDies (s : State) (c m : Nat) (f : Sram → Sram) : (s.modMacro c m f).lostDies = s.lostDies := rfl
@[simp] theorem modMacro_boot (s : State) (c m : Nat) (f : Sram → Sram) : (s.modMacro c m f).boot = s.boot := rfl
@[simp] theorem modMacro_slotTried (s : State) (c m : Nat) (f : Sram → Sram) : (s.modMacro c m f).slotTried = s.slotTried := rfl
@[simp] theorem modMacro_firmware (s : State) (c m : Nat) (f : Sram → Sram) : (s.modMacro c m f).firmware = s.firmware := rfl
@[simp] theorem modMacro_period (s : State) (c m : Nat) (f : Sram → Sram) : (s.modMacro c m f).period = s.period := rfl
@[simp] theorem modMacro_softErrors (s : State) (c m : Nat) (f : Sram → Sram) : (s.modMacro c m f).softErrors = s.softErrors := rfl
@[simp] theorem modMacro_plim (s : State) (c m : Nat) (f : Sram → Sram) : (s.modMacro c m f).plim = s.plim := rfl
@[simp] theorem modMacro_clock (s : State) (c m : Nat) (f : Sram → Sram) : (s.modMacro c m f).clock = s.clock := rfl
@[simp] theorem modMacro_thermal (s : State) (c m : Nat) (f : Sram → Sram) : (s.modMacro c m f).thermal = s.thermal := rfl
@[simp] theorem modMacro_d3 (s : State) (c m : Nat) (f : Sram → Sram) : (s.modMacro c m f).d3 = s.d3 := rfl
@[simp] theorem modMacro_power (s : State) (c m : Nat) (f : Sram → Sram) : (s.modMacro c m f).power = s.power := rfl
@[simp] theorem modMacro_out (s : State) (c m : Nat) (f : Sram → Sram) : (s.modMacro c m f).out = s.out := rfl
@[simp] theorem modMacro_sched (s : State) (c m : Nat) (f : Sram → Sram) : (s.modMacro c m f).sched = s.sched := rfl
@[simp] theorem modMacro_inputs (s : State) (c m : Nat) (f : Sram → Sram) : (s.modMacro c m f).inputs = s.inputs := rfl
@[simp] theorem modMacro_free (s : State) (c m : Nat) (f : Sram → Sram) : (s.modMacro c m f).free = s.free := rfl
@[simp] theorem modMacro_turn (s : State) (c m : Nat) (f : Sram → Sram) : (s.modMacro c m f).turn = s.turn := rfl
@[simp] theorem modMacro_formed (s : State) (c m : Nat) (f : Sram → Sram) : (s.modMacro c m f).formed = s.formed := rfl
@[simp] theorem modMacro_latch (s : State) (c m : Nat) (f : Sram → Sram) : (s.modMacro c m f).latch = s.latch := rfl
@[simp] theorem modMacro_lastWord (s : State) (c m : Nat) (f : Sram → Sram) : (s.modMacro c m f).lastWord = s.lastWord := rfl
@[simp] theorem modMacro_frozen (s : State) (c m : Nat) (f : Sram → Sram) : (s.modMacro c m f).frozen = s.frozen := rfl

/-! ## modLine -/

@[simp] theorem modLine_lanes (s : State) (n : Nat) (f : Line → Line) : (s.modLine n f).lanes = s.lanes := rfl
@[simp] theorem modLine_teams (s : State) (n : Nat) (f : Line → Line) : (s.modLine n f).teams = s.teams := rfl
@[simp] theorem modLine_nextTid (s : State) (n : Nat) (f : Line → Line) : (s.modLine n f).nextTid = s.nextTid := rfl
@[simp] theorem modLine_clusters (s : State) (n : Nat) (f : Line → Line) : (s.modLine n f).clusters = s.clusters := rfl
@[simp] theorem modLine_parts (s : State) (n : Nat) (f : Line → Line) : (s.modLine n f).parts = s.parts := rfl
@[simp] theorem modLine_mem (s : State) (n : Nat) (f : Line → Line) : (s.modLine n f).mem = s.mem := rfl
@[simp] theorem modLine_hostMem (s : State) (n : Nat) (f : Line → Line) : (s.modLine n f).hostMem = s.hostMem := rfl
@[simp] theorem modLine_poison (s : State) (n : Nat) (f : Line → Line) : (s.modLine n f).poison = s.poison := rfl
theorem modLine_lines (s : State) (n : Nat) (f : Line → Line) : (s.modLine n f).lines = tmod line0 n f s.lines := rfl
@[simp] theorem modLine_net (s : State) (n : Nat) (f : Line → Line) : (s.modLine n f).net = s.net := rfl
@[simp] theorem modLine_epochs (s : State) (n : Nat) (f : Line → Line) : (s.modLine n f).epochs = s.epochs := rfl
@[simp] theorem modLine_hostLines (s : State) (n : Nat) (f : Line → Line) : (s.modLine n f).hostLines = s.hostLines := rfl
@[simp] theorem modLine_hostWait (s : State) (n : Nat) (f : Line → Line) : (s.modLine n f).hostWait = s.hostWait := rfl
@[simp] theorem modLine_uaWait (s : State) (n : Nat) (f : Line → Line) : (s.modLine n f).uaWait = s.uaWait := rfl
@[simp] theorem modLine_unitWait (s : State) (n : Nat) (f : Line → Line) : (s.modLine n f).unitWait = s.unitWait := rfl
@[simp] theorem modLine_l2 (s : State) (n : Nat) (f : Line → Line) : (s.modLine n f).l2 = s.l2 := rfl
@[simp] theorem modLine_l3 (s : State) (n : Nat) (f : Line → Line) : (s.modLine n f).l3 = s.l3 := rfl
@[simp] theorem modLine_tlb (s : State) (n : Nat) (f : Line → Line) : (s.modLine n f).tlb = s.tlb := rfl
@[simp] theorem modLine_nextTlb (s : State) (n : Nat) (f : Line → Line) : (s.modLine n f).nextTlb = s.nextTlb := rfl
@[simp] theorem modLine_fot (s : State) (n : Nat) (f : Line → Line) : (s.modLine n f).fot = s.fot := rfl
@[simp] theorem modLine_reserved (s : State) (n : Nat) (f : Line → Line) : (s.modLine n f).reserved = s.reserved := rfl
@[simp] theorem modLine_fronts (s : State) (n : Nat) (f : Line → Line) : (s.modLine n f).fronts = s.fronts := rfl
@[simp] theorem modLine_fotidx (s : State) (n : Nat) (f : Line → Line) : (s.modLine n f).fotidx = s.fotidx := rfl
@[simp] theorem modLine_fotstat (s : State) (n : Nat) (f : Line → Line) : (s.modLine n f).fotstat = s.fotstat := rfl
@[simp] theorem modLine_extents (s : State) (n : Nat) (f : Line → Line) : (s.modLine n f).extents = s.extents := rfl
@[simp] theorem modLine_extRaw (s : State) (n : Nat) (f : Line → Line) : (s.modLine n f).extRaw = s.extRaw := rfl
@[simp] theorem modLine_capLines (s : State) (n : Nat) (f : Line → Line) : (s.modLine n f).capLines = s.capLines := rfl
@[simp] theorem modLine_pins (s : State) (n : Nat) (f : Line → Line) : (s.modLine n f).pins = s.pins := rfl
@[simp] theorem modLine_hbmq (s : State) (n : Nat) (f : Line → Line) : (s.modLine n f).hbmq = s.hbmq := rfl
@[simp] theorem modLine_sideq (s : State) (n : Nat) (f : Line → Line) : (s.modLine n f).sideq = s.sideq := rfl
@[simp] theorem modLine_banks (s : State) (n : Nat) (f : Line → Line) : (s.modLine n f).banks = s.banks := rfl
@[simp] theorem modLine_deficits (s : State) (n : Nat) (f : Line → Line) : (s.modLine n f).deficits = s.deficits := rfl
@[simp] theorem modLine_agecap (s : State) (n : Nat) (f : Line → Line) : (s.modLine n f).agecap = s.agecap := rfl
@[simp] theorem modLine_hotthr (s : State) (n : Nat) (f : Line → Line) : (s.modLine n f).hotthr = s.hotthr := rfl
@[simp] theorem modLine_xfers (s : State) (n : Nat) (f : Line → Line) : (s.modLine n f).xfers = s.xfers := rfl
@[simp] theorem modLine_colls (s : State) (n : Nat) (f : Line → Line) : (s.modLine n f).colls = s.colls := rfl
@[simp] theorem modLine_collIn (s : State) (n : Nat) (f : Line → Line) : (s.modLine n f).collIn = s.collIn := rfl
@[simp] theorem modLine_peers (s : State) (n : Nat) (f : Line → Line) : (s.modLine n f).peers = s.peers := rfl
@[simp] theorem modLine_nextId (s : State) (n : Nat) (f : Line → Line) : (s.modLine n f).nextId = s.nextId := rfl
@[simp] theorem modLine_time (s : State) (n : Nat) (f : Line → Line) : (s.modLine n f).time = s.time := rfl
@[simp] theorem modLine_cycle (s : State) (n : Nat) (f : Line → Line) : (s.modLine n f).cycle = s.cycle := rfl
@[simp] theorem modLine_pkgid (s : State) (n : Nat) (f : Line → Line) : (s.modLine n f).pkgid = s.pkgid := rfl
@[simp] theorem modLine_flog (s : State) (n : Nat) (f : Line → Line) : (s.modLine n f).flog = s.flog := rfl
@[simp] theorem modLine_slog (s : State) (n : Nat) (f : Line → Line) : (s.modLine n f).slog = s.slog := rfl
@[simp] theorem modLine_msixOpen (s : State) (n : Nat) (f : Line → Line) : (s.modLine n f).msixOpen = s.msixOpen := rfl
@[simp] theorem modLine_msixPend (s : State) (n : Nat) (f : Line → Line) : (s.modLine n f).msixPend = s.msixPend := rfl
@[simp] theorem modLine_msixTable (s : State) (n : Nat) (f : Line → Line) : (s.modLine n f).msixTable = s.msixTable := rfl
@[simp] theorem modLine_links (s : State) (n : Nat) (f : Line → Line) : (s.modLine n f).links = s.links := rfl
@[simp] theorem modLine_lostDies (s : State) (n : Nat) (f : Line → Line) : (s.modLine n f).lostDies = s.lostDies := rfl
@[simp] theorem modLine_boot (s : State) (n : Nat) (f : Line → Line) : (s.modLine n f).boot = s.boot := rfl
@[simp] theorem modLine_slotTried (s : State) (n : Nat) (f : Line → Line) : (s.modLine n f).slotTried = s.slotTried := rfl
@[simp] theorem modLine_firmware (s : State) (n : Nat) (f : Line → Line) : (s.modLine n f).firmware = s.firmware := rfl
@[simp] theorem modLine_period (s : State) (n : Nat) (f : Line → Line) : (s.modLine n f).period = s.period := rfl
@[simp] theorem modLine_softErrors (s : State) (n : Nat) (f : Line → Line) : (s.modLine n f).softErrors = s.softErrors := rfl
@[simp] theorem modLine_plim (s : State) (n : Nat) (f : Line → Line) : (s.modLine n f).plim = s.plim := rfl
@[simp] theorem modLine_clock (s : State) (n : Nat) (f : Line → Line) : (s.modLine n f).clock = s.clock := rfl
@[simp] theorem modLine_thermal (s : State) (n : Nat) (f : Line → Line) : (s.modLine n f).thermal = s.thermal := rfl
@[simp] theorem modLine_d3 (s : State) (n : Nat) (f : Line → Line) : (s.modLine n f).d3 = s.d3 := rfl
@[simp] theorem modLine_power (s : State) (n : Nat) (f : Line → Line) : (s.modLine n f).power = s.power := rfl
@[simp] theorem modLine_out (s : State) (n : Nat) (f : Line → Line) : (s.modLine n f).out = s.out := rfl
@[simp] theorem modLine_sched (s : State) (n : Nat) (f : Line → Line) : (s.modLine n f).sched = s.sched := rfl
@[simp] theorem modLine_inputs (s : State) (n : Nat) (f : Line → Line) : (s.modLine n f).inputs = s.inputs := rfl
@[simp] theorem modLine_free (s : State) (n : Nat) (f : Line → Line) : (s.modLine n f).free = s.free := rfl
@[simp] theorem modLine_turn (s : State) (n : Nat) (f : Line → Line) : (s.modLine n f).turn = s.turn := rfl
@[simp] theorem modLine_formed (s : State) (n : Nat) (f : Line → Line) : (s.modLine n f).formed = s.formed := rfl
@[simp] theorem modLine_latch (s : State) (n : Nat) (f : Line → Line) : (s.modLine n f).latch = s.latch := rfl
@[simp] theorem modLine_lastWord (s : State) (n : Nat) (f : Line → Line) : (s.modLine n f).lastWord = s.lastWord := rfl
@[simp] theorem modLine_frozen (s : State) (n : Nat) (f : Line → Line) : (s.modLine n f).frozen = s.frozen := rfl

/-! ## modTeam -/

@[simp] theorem modTeam_lanes (s : State) (tid : Nat) (f : Team → Team) : (s.modTeam tid f).lanes = s.lanes := rfl
theorem modTeam_teams (s : State) (tid : Nat) (f : Team → Team) : (s.modTeam tid f).teams = s.teams.map fun t => if t.tid = tid then f t else t := rfl
@[simp] theorem modTeam_nextTid (s : State) (tid : Nat) (f : Team → Team) : (s.modTeam tid f).nextTid = s.nextTid := rfl
@[simp] theorem modTeam_clusters (s : State) (tid : Nat) (f : Team → Team) : (s.modTeam tid f).clusters = s.clusters := rfl
@[simp] theorem modTeam_parts (s : State) (tid : Nat) (f : Team → Team) : (s.modTeam tid f).parts = s.parts := rfl
@[simp] theorem modTeam_mem (s : State) (tid : Nat) (f : Team → Team) : (s.modTeam tid f).mem = s.mem := rfl
@[simp] theorem modTeam_hostMem (s : State) (tid : Nat) (f : Team → Team) : (s.modTeam tid f).hostMem = s.hostMem := rfl
@[simp] theorem modTeam_poison (s : State) (tid : Nat) (f : Team → Team) : (s.modTeam tid f).poison = s.poison := rfl
@[simp] theorem modTeam_lines (s : State) (tid : Nat) (f : Team → Team) : (s.modTeam tid f).lines = s.lines := rfl
@[simp] theorem modTeam_net (s : State) (tid : Nat) (f : Team → Team) : (s.modTeam tid f).net = s.net := rfl
@[simp] theorem modTeam_epochs (s : State) (tid : Nat) (f : Team → Team) : (s.modTeam tid f).epochs = s.epochs := rfl
@[simp] theorem modTeam_hostLines (s : State) (tid : Nat) (f : Team → Team) : (s.modTeam tid f).hostLines = s.hostLines := rfl
@[simp] theorem modTeam_hostWait (s : State) (tid : Nat) (f : Team → Team) : (s.modTeam tid f).hostWait = s.hostWait := rfl
@[simp] theorem modTeam_uaWait (s : State) (tid : Nat) (f : Team → Team) : (s.modTeam tid f).uaWait = s.uaWait := rfl
@[simp] theorem modTeam_unitWait (s : State) (tid : Nat) (f : Team → Team) : (s.modTeam tid f).unitWait = s.unitWait := rfl
@[simp] theorem modTeam_l2 (s : State) (tid : Nat) (f : Team → Team) : (s.modTeam tid f).l2 = s.l2 := rfl
@[simp] theorem modTeam_l3 (s : State) (tid : Nat) (f : Team → Team) : (s.modTeam tid f).l3 = s.l3 := rfl
@[simp] theorem modTeam_tlb (s : State) (tid : Nat) (f : Team → Team) : (s.modTeam tid f).tlb = s.tlb := rfl
@[simp] theorem modTeam_nextTlb (s : State) (tid : Nat) (f : Team → Team) : (s.modTeam tid f).nextTlb = s.nextTlb := rfl
@[simp] theorem modTeam_fot (s : State) (tid : Nat) (f : Team → Team) : (s.modTeam tid f).fot = s.fot := rfl
@[simp] theorem modTeam_reserved (s : State) (tid : Nat) (f : Team → Team) : (s.modTeam tid f).reserved = s.reserved := rfl
@[simp] theorem modTeam_fronts (s : State) (tid : Nat) (f : Team → Team) : (s.modTeam tid f).fronts = s.fronts := rfl
@[simp] theorem modTeam_fotidx (s : State) (tid : Nat) (f : Team → Team) : (s.modTeam tid f).fotidx = s.fotidx := rfl
@[simp] theorem modTeam_fotstat (s : State) (tid : Nat) (f : Team → Team) : (s.modTeam tid f).fotstat = s.fotstat := rfl
@[simp] theorem modTeam_extents (s : State) (tid : Nat) (f : Team → Team) : (s.modTeam tid f).extents = s.extents := rfl
@[simp] theorem modTeam_extRaw (s : State) (tid : Nat) (f : Team → Team) : (s.modTeam tid f).extRaw = s.extRaw := rfl
@[simp] theorem modTeam_capLines (s : State) (tid : Nat) (f : Team → Team) : (s.modTeam tid f).capLines = s.capLines := rfl
@[simp] theorem modTeam_pins (s : State) (tid : Nat) (f : Team → Team) : (s.modTeam tid f).pins = s.pins := rfl
@[simp] theorem modTeam_hbmq (s : State) (tid : Nat) (f : Team → Team) : (s.modTeam tid f).hbmq = s.hbmq := rfl
@[simp] theorem modTeam_sideq (s : State) (tid : Nat) (f : Team → Team) : (s.modTeam tid f).sideq = s.sideq := rfl
@[simp] theorem modTeam_banks (s : State) (tid : Nat) (f : Team → Team) : (s.modTeam tid f).banks = s.banks := rfl
@[simp] theorem modTeam_deficits (s : State) (tid : Nat) (f : Team → Team) : (s.modTeam tid f).deficits = s.deficits := rfl
@[simp] theorem modTeam_agecap (s : State) (tid : Nat) (f : Team → Team) : (s.modTeam tid f).agecap = s.agecap := rfl
@[simp] theorem modTeam_hotthr (s : State) (tid : Nat) (f : Team → Team) : (s.modTeam tid f).hotthr = s.hotthr := rfl
@[simp] theorem modTeam_xfers (s : State) (tid : Nat) (f : Team → Team) : (s.modTeam tid f).xfers = s.xfers := rfl
@[simp] theorem modTeam_colls (s : State) (tid : Nat) (f : Team → Team) : (s.modTeam tid f).colls = s.colls := rfl
@[simp] theorem modTeam_collIn (s : State) (tid : Nat) (f : Team → Team) : (s.modTeam tid f).collIn = s.collIn := rfl
@[simp] theorem modTeam_peers (s : State) (tid : Nat) (f : Team → Team) : (s.modTeam tid f).peers = s.peers := rfl
@[simp] theorem modTeam_nextId (s : State) (tid : Nat) (f : Team → Team) : (s.modTeam tid f).nextId = s.nextId := rfl
@[simp] theorem modTeam_time (s : State) (tid : Nat) (f : Team → Team) : (s.modTeam tid f).time = s.time := rfl
@[simp] theorem modTeam_cycle (s : State) (tid : Nat) (f : Team → Team) : (s.modTeam tid f).cycle = s.cycle := rfl
@[simp] theorem modTeam_pkgid (s : State) (tid : Nat) (f : Team → Team) : (s.modTeam tid f).pkgid = s.pkgid := rfl
@[simp] theorem modTeam_flog (s : State) (tid : Nat) (f : Team → Team) : (s.modTeam tid f).flog = s.flog := rfl
@[simp] theorem modTeam_slog (s : State) (tid : Nat) (f : Team → Team) : (s.modTeam tid f).slog = s.slog := rfl
@[simp] theorem modTeam_msixOpen (s : State) (tid : Nat) (f : Team → Team) : (s.modTeam tid f).msixOpen = s.msixOpen := rfl
@[simp] theorem modTeam_msixPend (s : State) (tid : Nat) (f : Team → Team) : (s.modTeam tid f).msixPend = s.msixPend := rfl
@[simp] theorem modTeam_msixTable (s : State) (tid : Nat) (f : Team → Team) : (s.modTeam tid f).msixTable = s.msixTable := rfl
@[simp] theorem modTeam_links (s : State) (tid : Nat) (f : Team → Team) : (s.modTeam tid f).links = s.links := rfl
@[simp] theorem modTeam_lostDies (s : State) (tid : Nat) (f : Team → Team) : (s.modTeam tid f).lostDies = s.lostDies := rfl
@[simp] theorem modTeam_boot (s : State) (tid : Nat) (f : Team → Team) : (s.modTeam tid f).boot = s.boot := rfl
@[simp] theorem modTeam_slotTried (s : State) (tid : Nat) (f : Team → Team) : (s.modTeam tid f).slotTried = s.slotTried := rfl
@[simp] theorem modTeam_firmware (s : State) (tid : Nat) (f : Team → Team) : (s.modTeam tid f).firmware = s.firmware := rfl
@[simp] theorem modTeam_period (s : State) (tid : Nat) (f : Team → Team) : (s.modTeam tid f).period = s.period := rfl
@[simp] theorem modTeam_softErrors (s : State) (tid : Nat) (f : Team → Team) : (s.modTeam tid f).softErrors = s.softErrors := rfl
@[simp] theorem modTeam_plim (s : State) (tid : Nat) (f : Team → Team) : (s.modTeam tid f).plim = s.plim := rfl
@[simp] theorem modTeam_clock (s : State) (tid : Nat) (f : Team → Team) : (s.modTeam tid f).clock = s.clock := rfl
@[simp] theorem modTeam_thermal (s : State) (tid : Nat) (f : Team → Team) : (s.modTeam tid f).thermal = s.thermal := rfl
@[simp] theorem modTeam_d3 (s : State) (tid : Nat) (f : Team → Team) : (s.modTeam tid f).d3 = s.d3 := rfl
@[simp] theorem modTeam_power (s : State) (tid : Nat) (f : Team → Team) : (s.modTeam tid f).power = s.power := rfl
@[simp] theorem modTeam_out (s : State) (tid : Nat) (f : Team → Team) : (s.modTeam tid f).out = s.out := rfl
@[simp] theorem modTeam_sched (s : State) (tid : Nat) (f : Team → Team) : (s.modTeam tid f).sched = s.sched := rfl
@[simp] theorem modTeam_inputs (s : State) (tid : Nat) (f : Team → Team) : (s.modTeam tid f).inputs = s.inputs := rfl
@[simp] theorem modTeam_free (s : State) (tid : Nat) (f : Team → Team) : (s.modTeam tid f).free = s.free := rfl
@[simp] theorem modTeam_turn (s : State) (tid : Nat) (f : Team → Team) : (s.modTeam tid f).turn = s.turn := rfl
@[simp] theorem modTeam_formed (s : State) (tid : Nat) (f : Team → Team) : (s.modTeam tid f).formed = s.formed := rfl
@[simp] theorem modTeam_latch (s : State) (tid : Nat) (f : Team → Team) : (s.modTeam tid f).latch = s.latch := rfl
@[simp] theorem modTeam_lastWord (s : State) (tid : Nat) (f : Team → Team) : (s.modTeam tid f).lastWord = s.lastWord := rfl
@[simp] theorem modTeam_frozen (s : State) (tid : Nat) (f : Team → Team) : (s.modTeam tid f).frozen = s.frozen := rfl

/-! ## modGroup -/

@[simp] theorem modGroup_lanes (s : State) (tid grp : Nat) (f : Group → Group) : (s.modGroup tid grp f).lanes = s.lanes := rfl
@[simp] theorem modGroup_nextTid (s : State) (tid grp : Nat) (f : Group → Group) : (s.modGroup tid grp f).nextTid = s.nextTid := rfl
@[simp] theorem modGroup_clusters (s : State) (tid grp : Nat) (f : Group → Group) : (s.modGroup tid grp f).clusters = s.clusters := rfl
@[simp] theorem modGroup_parts (s : State) (tid grp : Nat) (f : Group → Group) : (s.modGroup tid grp f).parts = s.parts := rfl
@[simp] theorem modGroup_mem (s : State) (tid grp : Nat) (f : Group → Group) : (s.modGroup tid grp f).mem = s.mem := rfl
@[simp] theorem modGroup_hostMem (s : State) (tid grp : Nat) (f : Group → Group) : (s.modGroup tid grp f).hostMem = s.hostMem := rfl
@[simp] theorem modGroup_poison (s : State) (tid grp : Nat) (f : Group → Group) : (s.modGroup tid grp f).poison = s.poison := rfl
@[simp] theorem modGroup_lines (s : State) (tid grp : Nat) (f : Group → Group) : (s.modGroup tid grp f).lines = s.lines := rfl
@[simp] theorem modGroup_net (s : State) (tid grp : Nat) (f : Group → Group) : (s.modGroup tid grp f).net = s.net := rfl
@[simp] theorem modGroup_epochs (s : State) (tid grp : Nat) (f : Group → Group) : (s.modGroup tid grp f).epochs = s.epochs := rfl
@[simp] theorem modGroup_hostLines (s : State) (tid grp : Nat) (f : Group → Group) : (s.modGroup tid grp f).hostLines = s.hostLines := rfl
@[simp] theorem modGroup_hostWait (s : State) (tid grp : Nat) (f : Group → Group) : (s.modGroup tid grp f).hostWait = s.hostWait := rfl
@[simp] theorem modGroup_uaWait (s : State) (tid grp : Nat) (f : Group → Group) : (s.modGroup tid grp f).uaWait = s.uaWait := rfl
@[simp] theorem modGroup_unitWait (s : State) (tid grp : Nat) (f : Group → Group) : (s.modGroup tid grp f).unitWait = s.unitWait := rfl
@[simp] theorem modGroup_l2 (s : State) (tid grp : Nat) (f : Group → Group) : (s.modGroup tid grp f).l2 = s.l2 := rfl
@[simp] theorem modGroup_l3 (s : State) (tid grp : Nat) (f : Group → Group) : (s.modGroup tid grp f).l3 = s.l3 := rfl
@[simp] theorem modGroup_tlb (s : State) (tid grp : Nat) (f : Group → Group) : (s.modGroup tid grp f).tlb = s.tlb := rfl
@[simp] theorem modGroup_nextTlb (s : State) (tid grp : Nat) (f : Group → Group) : (s.modGroup tid grp f).nextTlb = s.nextTlb := rfl
@[simp] theorem modGroup_fot (s : State) (tid grp : Nat) (f : Group → Group) : (s.modGroup tid grp f).fot = s.fot := rfl
@[simp] theorem modGroup_reserved (s : State) (tid grp : Nat) (f : Group → Group) : (s.modGroup tid grp f).reserved = s.reserved := rfl
@[simp] theorem modGroup_fronts (s : State) (tid grp : Nat) (f : Group → Group) : (s.modGroup tid grp f).fronts = s.fronts := rfl
@[simp] theorem modGroup_fotidx (s : State) (tid grp : Nat) (f : Group → Group) : (s.modGroup tid grp f).fotidx = s.fotidx := rfl
@[simp] theorem modGroup_fotstat (s : State) (tid grp : Nat) (f : Group → Group) : (s.modGroup tid grp f).fotstat = s.fotstat := rfl
@[simp] theorem modGroup_extents (s : State) (tid grp : Nat) (f : Group → Group) : (s.modGroup tid grp f).extents = s.extents := rfl
@[simp] theorem modGroup_extRaw (s : State) (tid grp : Nat) (f : Group → Group) : (s.modGroup tid grp f).extRaw = s.extRaw := rfl
@[simp] theorem modGroup_capLines (s : State) (tid grp : Nat) (f : Group → Group) : (s.modGroup tid grp f).capLines = s.capLines := rfl
@[simp] theorem modGroup_pins (s : State) (tid grp : Nat) (f : Group → Group) : (s.modGroup tid grp f).pins = s.pins := rfl
@[simp] theorem modGroup_hbmq (s : State) (tid grp : Nat) (f : Group → Group) : (s.modGroup tid grp f).hbmq = s.hbmq := rfl
@[simp] theorem modGroup_sideq (s : State) (tid grp : Nat) (f : Group → Group) : (s.modGroup tid grp f).sideq = s.sideq := rfl
@[simp] theorem modGroup_banks (s : State) (tid grp : Nat) (f : Group → Group) : (s.modGroup tid grp f).banks = s.banks := rfl
@[simp] theorem modGroup_deficits (s : State) (tid grp : Nat) (f : Group → Group) : (s.modGroup tid grp f).deficits = s.deficits := rfl
@[simp] theorem modGroup_agecap (s : State) (tid grp : Nat) (f : Group → Group) : (s.modGroup tid grp f).agecap = s.agecap := rfl
@[simp] theorem modGroup_hotthr (s : State) (tid grp : Nat) (f : Group → Group) : (s.modGroup tid grp f).hotthr = s.hotthr := rfl
@[simp] theorem modGroup_xfers (s : State) (tid grp : Nat) (f : Group → Group) : (s.modGroup tid grp f).xfers = s.xfers := rfl
@[simp] theorem modGroup_colls (s : State) (tid grp : Nat) (f : Group → Group) : (s.modGroup tid grp f).colls = s.colls := rfl
@[simp] theorem modGroup_collIn (s : State) (tid grp : Nat) (f : Group → Group) : (s.modGroup tid grp f).collIn = s.collIn := rfl
@[simp] theorem modGroup_peers (s : State) (tid grp : Nat) (f : Group → Group) : (s.modGroup tid grp f).peers = s.peers := rfl
@[simp] theorem modGroup_nextId (s : State) (tid grp : Nat) (f : Group → Group) : (s.modGroup tid grp f).nextId = s.nextId := rfl
@[simp] theorem modGroup_time (s : State) (tid grp : Nat) (f : Group → Group) : (s.modGroup tid grp f).time = s.time := rfl
@[simp] theorem modGroup_cycle (s : State) (tid grp : Nat) (f : Group → Group) : (s.modGroup tid grp f).cycle = s.cycle := rfl
@[simp] theorem modGroup_pkgid (s : State) (tid grp : Nat) (f : Group → Group) : (s.modGroup tid grp f).pkgid = s.pkgid := rfl
@[simp] theorem modGroup_flog (s : State) (tid grp : Nat) (f : Group → Group) : (s.modGroup tid grp f).flog = s.flog := rfl
@[simp] theorem modGroup_slog (s : State) (tid grp : Nat) (f : Group → Group) : (s.modGroup tid grp f).slog = s.slog := rfl
@[simp] theorem modGroup_msixOpen (s : State) (tid grp : Nat) (f : Group → Group) : (s.modGroup tid grp f).msixOpen = s.msixOpen := rfl
@[simp] theorem modGroup_msixPend (s : State) (tid grp : Nat) (f : Group → Group) : (s.modGroup tid grp f).msixPend = s.msixPend := rfl
@[simp] theorem modGroup_msixTable (s : State) (tid grp : Nat) (f : Group → Group) : (s.modGroup tid grp f).msixTable = s.msixTable := rfl
@[simp] theorem modGroup_links (s : State) (tid grp : Nat) (f : Group → Group) : (s.modGroup tid grp f).links = s.links := rfl
@[simp] theorem modGroup_lostDies (s : State) (tid grp : Nat) (f : Group → Group) : (s.modGroup tid grp f).lostDies = s.lostDies := rfl
@[simp] theorem modGroup_boot (s : State) (tid grp : Nat) (f : Group → Group) : (s.modGroup tid grp f).boot = s.boot := rfl
@[simp] theorem modGroup_slotTried (s : State) (tid grp : Nat) (f : Group → Group) : (s.modGroup tid grp f).slotTried = s.slotTried := rfl
@[simp] theorem modGroup_firmware (s : State) (tid grp : Nat) (f : Group → Group) : (s.modGroup tid grp f).firmware = s.firmware := rfl
@[simp] theorem modGroup_period (s : State) (tid grp : Nat) (f : Group → Group) : (s.modGroup tid grp f).period = s.period := rfl
@[simp] theorem modGroup_softErrors (s : State) (tid grp : Nat) (f : Group → Group) : (s.modGroup tid grp f).softErrors = s.softErrors := rfl
@[simp] theorem modGroup_plim (s : State) (tid grp : Nat) (f : Group → Group) : (s.modGroup tid grp f).plim = s.plim := rfl
@[simp] theorem modGroup_clock (s : State) (tid grp : Nat) (f : Group → Group) : (s.modGroup tid grp f).clock = s.clock := rfl
@[simp] theorem modGroup_thermal (s : State) (tid grp : Nat) (f : Group → Group) : (s.modGroup tid grp f).thermal = s.thermal := rfl
@[simp] theorem modGroup_d3 (s : State) (tid grp : Nat) (f : Group → Group) : (s.modGroup tid grp f).d3 = s.d3 := rfl
@[simp] theorem modGroup_power (s : State) (tid grp : Nat) (f : Group → Group) : (s.modGroup tid grp f).power = s.power := rfl
@[simp] theorem modGroup_out (s : State) (tid grp : Nat) (f : Group → Group) : (s.modGroup tid grp f).out = s.out := rfl
@[simp] theorem modGroup_sched (s : State) (tid grp : Nat) (f : Group → Group) : (s.modGroup tid grp f).sched = s.sched := rfl
@[simp] theorem modGroup_inputs (s : State) (tid grp : Nat) (f : Group → Group) : (s.modGroup tid grp f).inputs = s.inputs := rfl
@[simp] theorem modGroup_free (s : State) (tid grp : Nat) (f : Group → Group) : (s.modGroup tid grp f).free = s.free := rfl
@[simp] theorem modGroup_turn (s : State) (tid grp : Nat) (f : Group → Group) : (s.modGroup tid grp f).turn = s.turn := rfl
@[simp] theorem modGroup_formed (s : State) (tid grp : Nat) (f : Group → Group) : (s.modGroup tid grp f).formed = s.formed := rfl
@[simp] theorem modGroup_latch (s : State) (tid grp : Nat) (f : Group → Group) : (s.modGroup tid grp f).latch = s.latch := rfl
@[simp] theorem modGroup_lastWord (s : State) (tid grp : Nat) (f : Group → Group) : (s.modGroup tid grp f).lastWord = s.lastWord := rfl
@[simp] theorem modGroup_frozen (s : State) (tid grp : Nat) (f : Group → Group) : (s.modGroup tid grp f).frozen = s.frozen := rfl

/-! ## emit -/

@[simp] theorem emit_lanes (s : State) (o : Out) : (s.emit o).lanes = s.lanes := rfl
@[simp] theorem emit_teams (s : State) (o : Out) : (s.emit o).teams = s.teams := rfl
@[simp] theorem emit_nextTid (s : State) (o : Out) : (s.emit o).nextTid = s.nextTid := rfl
@[simp] theorem emit_clusters (s : State) (o : Out) : (s.emit o).clusters = s.clusters := rfl
@[simp] theorem emit_parts (s : State) (o : Out) : (s.emit o).parts = s.parts := rfl
@[simp] theorem emit_mem (s : State) (o : Out) : (s.emit o).mem = s.mem := rfl
@[simp] theorem emit_hostMem (s : State) (o : Out) : (s.emit o).hostMem = s.hostMem := rfl
@[simp] theorem emit_poison (s : State) (o : Out) : (s.emit o).poison = s.poison := rfl
@[simp] theorem emit_lines (s : State) (o : Out) : (s.emit o).lines = s.lines := rfl
@[simp] theorem emit_net (s : State) (o : Out) : (s.emit o).net = s.net := rfl
@[simp] theorem emit_epochs (s : State) (o : Out) : (s.emit o).epochs = s.epochs := rfl
@[simp] theorem emit_hostLines (s : State) (o : Out) : (s.emit o).hostLines = s.hostLines := rfl
@[simp] theorem emit_hostWait (s : State) (o : Out) : (s.emit o).hostWait = s.hostWait := rfl
@[simp] theorem emit_uaWait (s : State) (o : Out) : (s.emit o).uaWait = s.uaWait := rfl
@[simp] theorem emit_unitWait (s : State) (o : Out) : (s.emit o).unitWait = s.unitWait := rfl
@[simp] theorem emit_l2 (s : State) (o : Out) : (s.emit o).l2 = s.l2 := rfl
@[simp] theorem emit_l3 (s : State) (o : Out) : (s.emit o).l3 = s.l3 := rfl
@[simp] theorem emit_tlb (s : State) (o : Out) : (s.emit o).tlb = s.tlb := rfl
@[simp] theorem emit_nextTlb (s : State) (o : Out) : (s.emit o).nextTlb = s.nextTlb := rfl
@[simp] theorem emit_fot (s : State) (o : Out) : (s.emit o).fot = s.fot := rfl
@[simp] theorem emit_reserved (s : State) (o : Out) : (s.emit o).reserved = s.reserved := rfl
@[simp] theorem emit_fronts (s : State) (o : Out) : (s.emit o).fronts = s.fronts := rfl
@[simp] theorem emit_fotidx (s : State) (o : Out) : (s.emit o).fotidx = s.fotidx := rfl
@[simp] theorem emit_fotstat (s : State) (o : Out) : (s.emit o).fotstat = s.fotstat := rfl
@[simp] theorem emit_extents (s : State) (o : Out) : (s.emit o).extents = s.extents := rfl
@[simp] theorem emit_extRaw (s : State) (o : Out) : (s.emit o).extRaw = s.extRaw := rfl
@[simp] theorem emit_capLines (s : State) (o : Out) : (s.emit o).capLines = s.capLines := rfl
@[simp] theorem emit_pins (s : State) (o : Out) : (s.emit o).pins = s.pins := rfl
@[simp] theorem emit_hbmq (s : State) (o : Out) : (s.emit o).hbmq = s.hbmq := rfl
@[simp] theorem emit_sideq (s : State) (o : Out) : (s.emit o).sideq = s.sideq := rfl
@[simp] theorem emit_banks (s : State) (o : Out) : (s.emit o).banks = s.banks := rfl
@[simp] theorem emit_deficits (s : State) (o : Out) : (s.emit o).deficits = s.deficits := rfl
@[simp] theorem emit_agecap (s : State) (o : Out) : (s.emit o).agecap = s.agecap := rfl
@[simp] theorem emit_hotthr (s : State) (o : Out) : (s.emit o).hotthr = s.hotthr := rfl
@[simp] theorem emit_xfers (s : State) (o : Out) : (s.emit o).xfers = s.xfers := rfl
@[simp] theorem emit_colls (s : State) (o : Out) : (s.emit o).colls = s.colls := rfl
@[simp] theorem emit_collIn (s : State) (o : Out) : (s.emit o).collIn = s.collIn := rfl
@[simp] theorem emit_peers (s : State) (o : Out) : (s.emit o).peers = s.peers := rfl
@[simp] theorem emit_nextId (s : State) (o : Out) : (s.emit o).nextId = s.nextId := rfl
@[simp] theorem emit_time (s : State) (o : Out) : (s.emit o).time = s.time := rfl
@[simp] theorem emit_cycle (s : State) (o : Out) : (s.emit o).cycle = s.cycle := rfl
@[simp] theorem emit_pkgid (s : State) (o : Out) : (s.emit o).pkgid = s.pkgid := rfl
@[simp] theorem emit_flog (s : State) (o : Out) : (s.emit o).flog = s.flog := rfl
@[simp] theorem emit_slog (s : State) (o : Out) : (s.emit o).slog = s.slog := rfl
@[simp] theorem emit_msixOpen (s : State) (o : Out) : (s.emit o).msixOpen = s.msixOpen := rfl
@[simp] theorem emit_msixPend (s : State) (o : Out) : (s.emit o).msixPend = s.msixPend := rfl
@[simp] theorem emit_msixTable (s : State) (o : Out) : (s.emit o).msixTable = s.msixTable := rfl
@[simp] theorem emit_links (s : State) (o : Out) : (s.emit o).links = s.links := rfl
@[simp] theorem emit_lostDies (s : State) (o : Out) : (s.emit o).lostDies = s.lostDies := rfl
@[simp] theorem emit_boot (s : State) (o : Out) : (s.emit o).boot = s.boot := rfl
@[simp] theorem emit_slotTried (s : State) (o : Out) : (s.emit o).slotTried = s.slotTried := rfl
@[simp] theorem emit_firmware (s : State) (o : Out) : (s.emit o).firmware = s.firmware := rfl
@[simp] theorem emit_period (s : State) (o : Out) : (s.emit o).period = s.period := rfl
@[simp] theorem emit_softErrors (s : State) (o : Out) : (s.emit o).softErrors = s.softErrors := rfl
@[simp] theorem emit_plim (s : State) (o : Out) : (s.emit o).plim = s.plim := rfl
@[simp] theorem emit_clock (s : State) (o : Out) : (s.emit o).clock = s.clock := rfl
@[simp] theorem emit_thermal (s : State) (o : Out) : (s.emit o).thermal = s.thermal := rfl
@[simp] theorem emit_d3 (s : State) (o : Out) : (s.emit o).d3 = s.d3 := rfl
@[simp] theorem emit_power (s : State) (o : Out) : (s.emit o).power = s.power := rfl
theorem emit_out (s : State) (o : Out) : (s.emit o).out = s.out ++ [o] := rfl
@[simp] theorem emit_sched (s : State) (o : Out) : (s.emit o).sched = s.sched := rfl
@[simp] theorem emit_inputs (s : State) (o : Out) : (s.emit o).inputs = s.inputs := rfl
@[simp] theorem emit_free (s : State) (o : Out) : (s.emit o).free = s.free := rfl
@[simp] theorem emit_turn (s : State) (o : Out) : (s.emit o).turn = s.turn := rfl
@[simp] theorem emit_formed (s : State) (o : Out) : (s.emit o).formed = s.formed := rfl
@[simp] theorem emit_latch (s : State) (o : Out) : (s.emit o).latch = s.latch := rfl
@[simp] theorem emit_lastWord (s : State) (o : Out) : (s.emit o).lastWord = s.lastWord := rfl
@[simp] theorem emit_frozen (s : State) (o : Out) : (s.emit o).frozen = s.frozen := rfl

/-! ## Reads of a part that an update changes -/

@[simp] theorem modPart_part (s : State) (p q : Nat) (f : Part → Part) : (s.modPart p f).part q = if q = p then f (s.part q) else s.part q := by
  simp [State.part, State.modPart]
@[simp] theorem modCluster_cluster (s : State) (c d : Nat) (f : Cluster → Cluster) :
    (s.modCluster c f).cluster d = if d = c then f (s.cluster d) else s.cluster d := by
  simp [State.cluster, State.modCluster]
@[simp] theorem modLine_line (s : State) (n m : Nat) (f : Line → Line) : (s.modLine n f).line m = if m = n then f (s.line m) else s.line m := by
  simp [State.line, State.modLine]

@[simp] theorem setLane_part (s : State) (l : Lane) (p' : Nat) : (s.setLane l).part p' = s.part p' := rfl
@[simp] theorem setLane_cluster (s : State) (l : Lane) (c' : Nat) : (s.setLane l).cluster c' = s.cluster c' := rfl
@[simp] theorem setLane_line (s : State) (l : Lane) (n' : Nat) : (s.setLane l).line n' = s.line n' := rfl
@[simp] theorem setLane_team (s : State) (l : Lane) (tid' : Nat) : (s.setLane l).team? tid' = s.team? tid' := rfl
@[simp] theorem setLane_launch (s : State) (l : Lane) (p' seq' : Nat) : (s.setLane l).launch? p' seq' = s.launch? p' seq' := rfl
@[simp] theorem setLane_recOf (s : State) (l : Lane) (p' seq' : Nat) : (s.setLane l).recOf p' seq' = s.recOf p' seq' := rfl
@[simp] theorem modLane_part (s : State) (id : LaneId) (f : Lane → Lane) (p' : Nat) : (s.modLane id f).part p' = s.part p' := rfl
@[simp] theorem modLane_cluster (s : State) (id : LaneId) (f : Lane → Lane) (c' : Nat) : (s.modLane id f).cluster c' = s.cluster c' := rfl
@[simp] theorem modLane_line (s : State) (id : LaneId) (f : Lane → Lane) (n' : Nat) : (s.modLane id f).line n' = s.line n' := rfl
@[simp] theorem modLane_team (s : State) (id : LaneId) (f : Lane → Lane) (tid' : Nat) : (s.modLane id f).team? tid' = s.team? tid' := rfl
@[simp] theorem modLane_launch (s : State) (id : LaneId) (f : Lane → Lane) (p' seq' : Nat) : (s.modLane id f).launch? p' seq' = s.launch? p' seq' := rfl
@[simp] theorem modLane_recOf (s : State) (id : LaneId) (f : Lane → Lane) (p' seq' : Nat) : (s.modLane id f).recOf p' seq' = s.recOf p' seq' := rfl
@[simp] theorem mapActive_part (s : State) (f : Lane → Lane) (p' : Nat) : (mapActive s f).part p' = s.part p' := rfl
@[simp] theorem mapActive_cluster (s : State) (f : Lane → Lane) (c' : Nat) : (mapActive s f).cluster c' = s.cluster c' := rfl
@[simp] theorem mapActive_line (s : State) (f : Lane → Lane) (n' : Nat) : (mapActive s f).line n' = s.line n' := rfl
@[simp] theorem mapActive_team (s : State) (f : Lane → Lane) (tid' : Nat) : (mapActive s f).team? tid' = s.team? tid' := rfl
@[simp] theorem mapActive_launch (s : State) (f : Lane → Lane) (p' seq' : Nat) : (mapActive s f).launch? p' seq' = s.launch? p' seq' := rfl
@[simp] theorem mapActive_recOf (s : State) (f : Lane → Lane) (p' seq' : Nat) : (mapActive s f).recOf p' seq' = s.recOf p' seq' := rfl
@[simp] theorem modPart_cluster (s : State) (p : Nat) (f : Part → Part) (c' : Nat) : (s.modPart p f).cluster c' = s.cluster c' := rfl
@[simp] theorem modPart_line (s : State) (p : Nat) (f : Part → Part) (n' : Nat) : (s.modPart p f).line n' = s.line n' := rfl
@[simp] theorem modPart_team (s : State) (p : Nat) (f : Part → Part) (tid' : Nat) : (s.modPart p f).team? tid' = s.team? tid' := rfl
@[simp] theorem modLaunch_cluster (s : State) (p seq : Nat) (f : Launch → Launch) (c' : Nat) : (s.modLaunch p seq f).cluster c' = s.cluster c' := rfl
@[simp] theorem modLaunch_line (s : State) (p seq : Nat) (f : Launch → Launch) (n' : Nat) : (s.modLaunch p seq f).line n' = s.line n' := rfl
@[simp] theorem modLaunch_team (s : State) (p seq : Nat) (f : Launch → Launch) (tid' : Nat) : (s.modLaunch p seq f).team? tid' = s.team? tid' := rfl
@[simp] theorem modCluster_part (s : State) (c : Nat) (f : Cluster → Cluster) (p' : Nat) : (s.modCluster c f).part p' = s.part p' := rfl
@[simp] theorem modCluster_line (s : State) (c : Nat) (f : Cluster → Cluster) (n' : Nat) : (s.modCluster c f).line n' = s.line n' := rfl
@[simp] theorem modCluster_team (s : State) (c : Nat) (f : Cluster → Cluster) (tid' : Nat) : (s.modCluster c f).team? tid' = s.team? tid' := rfl
@[simp] theorem modCluster_launch (s : State) (c : Nat) (f : Cluster → Cluster) (p' seq' : Nat) : (s.modCluster c f).launch? p' seq' = s.launch? p' seq' := rfl
@[simp] theorem modCluster_recOf (s : State) (c : Nat) (f : Cluster → Cluster) (p' seq' : Nat) : (s.modCluster c f).recOf p' seq' = s.recOf p' seq' := rfl
@[simp] theorem modMacro_part (s : State) (c m : Nat) (f : Sram → Sram) (p' : Nat) : (s.modMacro c m f).part p' = s.part p' := rfl
@[simp] theorem modMacro_line (s : State) (c m : Nat) (f : Sram → Sram) (n' : Nat) : (s.modMacro c m f).line n' = s.line n' := rfl
@[simp] theorem modMacro_team (s : State) (c m : Nat) (f : Sram → Sram) (tid' : Nat) : (s.modMacro c m f).team? tid' = s.team? tid' := rfl
@[simp] theorem modMacro_launch (s : State) (c m : Nat) (f : Sram → Sram) (p' seq' : Nat) : (s.modMacro c m f).launch? p' seq' = s.launch? p' seq' := rfl
@[simp] theorem modMacro_recOf (s : State) (c m : Nat) (f : Sram → Sram) (p' seq' : Nat) : (s.modMacro c m f).recOf p' seq' = s.recOf p' seq' := rfl
@[simp] theorem modLine_part (s : State) (n : Nat) (f : Line → Line) (p' : Nat) : (s.modLine n f).part p' = s.part p' := rfl
@[simp] theorem modLine_cluster (s : State) (n : Nat) (f : Line → Line) (c' : Nat) : (s.modLine n f).cluster c' = s.cluster c' := rfl
@[simp] theorem modLine_team (s : State) (n : Nat) (f : Line → Line) (tid' : Nat) : (s.modLine n f).team? tid' = s.team? tid' := rfl
@[simp] theorem modLine_launch (s : State) (n : Nat) (f : Line → Line) (p' seq' : Nat) : (s.modLine n f).launch? p' seq' = s.launch? p' seq' := rfl
@[simp] theorem modLine_recOf (s : State) (n : Nat) (f : Line → Line) (p' seq' : Nat) : (s.modLine n f).recOf p' seq' = s.recOf p' seq' := rfl
@[simp] theorem modTeam_part (s : State) (tid : Nat) (f : Team → Team) (p' : Nat) : (s.modTeam tid f).part p' = s.part p' := rfl
@[simp] theorem modTeam_cluster (s : State) (tid : Nat) (f : Team → Team) (c' : Nat) : (s.modTeam tid f).cluster c' = s.cluster c' := rfl
@[simp] theorem modTeam_line (s : State) (tid : Nat) (f : Team → Team) (n' : Nat) : (s.modTeam tid f).line n' = s.line n' := rfl
@[simp] theorem modTeam_launch (s : State) (tid : Nat) (f : Team → Team) (p' seq' : Nat) : (s.modTeam tid f).launch? p' seq' = s.launch? p' seq' := rfl
@[simp] theorem modTeam_recOf (s : State) (tid : Nat) (f : Team → Team) (p' seq' : Nat) : (s.modTeam tid f).recOf p' seq' = s.recOf p' seq' := rfl
@[simp] theorem modGroup_part (s : State) (tid grp : Nat) (f : Group → Group) (p' : Nat) : (s.modGroup tid grp f).part p' = s.part p' := rfl
@[simp] theorem modGroup_cluster (s : State) (tid grp : Nat) (f : Group → Group) (c' : Nat) : (s.modGroup tid grp f).cluster c' = s.cluster c' := rfl
@[simp] theorem modGroup_line (s : State) (tid grp : Nat) (f : Group → Group) (n' : Nat) : (s.modGroup tid grp f).line n' = s.line n' := rfl
@[simp] theorem modGroup_launch (s : State) (tid grp : Nat) (f : Group → Group) (p' seq' : Nat) : (s.modGroup tid grp f).launch? p' seq' = s.launch? p' seq' := rfl
@[simp] theorem modGroup_recOf (s : State) (tid grp : Nat) (f : Group → Group) (p' seq' : Nat) : (s.modGroup tid grp f).recOf p' seq' = s.recOf p' seq' := rfl
@[simp] theorem emit_part (s : State) (o : Out) (p' : Nat) : (s.emit o).part p' = s.part p' := rfl
@[simp] theorem emit_cluster (s : State) (o : Out) (c' : Nat) : (s.emit o).cluster c' = s.cluster c' := rfl
@[simp] theorem emit_line (s : State) (o : Out) (n' : Nat) : (s.emit o).line n' = s.line n' := rfl
@[simp] theorem emit_team (s : State) (o : Out) (tid' : Nat) : (s.emit o).team? tid' = s.team? tid' := rfl
@[simp] theorem emit_launch (s : State) (o : Out) (p' seq' : Nat) : (s.emit o).launch? p' seq' = s.launch? p' seq' := rfl
@[simp] theorem emit_recOf (s : State) (o : Out) (p' seq' : Nat) : (s.emit o).recOf p' seq' = s.recOf p' seq' := rfl

end Sys2Proof.Machine
end

