-- ==== Sys2Proof/Laws/Access.lean ====
section
/-! SUPPORT. What an access can change beside the bytes it stores: counts of banks, lines, caches and queues. -/
namespace Sys2Proof.Machine
open Sys2Proof

/-- No capacity-tier line is dirty at its home. -/
def State.CapClean (s : State) : Prop := ∀ e ∈ s.capLines, e.2.dirty = false

/-- Nothing changed but caches, coherence records, queues, messages and the counts of the partitions' banks; the pooled memory takes nothing
where no line of it is dirty. -/
def State.Quiet (s t : State) : Prop :=
  t.lanes = s.lanes ∧ t.teams = s.teams ∧ t.mem = s.mem ∧ (s.CapClean → t.hostMem = s.hostMem ∧ t.CapClean) ∧ t.poison = s.poison ∧ t.fot = s.fot ∧
    ∀ p, ∃ b f, t.part p = { s.part p with banks := b, fixPend := f }

theorem State.Quiet.refl (s : State) : s.Quiet s :=
  ⟨rfl, rfl, rfl, fun h => ⟨rfl, h⟩, rfl, rfl, fun p => ⟨(s.part p).banks, (s.part p).fixPend, rfl⟩⟩

theorem State.Quiet.trans {s t u : State} (h : s.Quiet t) (k : t.Quiet u) : s.Quiet u := by
  obtain ⟨h1, h2, h3, h4, h5, h6, h7⟩ := h
  obtain ⟨k1, k2, k3, k4, k5, k6, k7⟩ := k
  refine ⟨k1.trans h1, k2.trans h2, k3.trans h3, fun c => ?_, k5.trans h5, k6.trans h6, fun p => ?_⟩
  · exact ⟨(k4 (h4 c).2).1.trans (h4 c).1, (k4 (h4 c).2).2⟩
  · obtain ⟨b, f, hb⟩ := h7 p
    obtain ⟨b', f', hb'⟩ := k7 p
    exact ⟨b', f', by rw [hb', hb]⟩

/-- An update that leaves these fields alone is quiet. -/
theorem State.Quiet.of_eq {s t : State} (h1 : t.lanes = s.lanes) (h2 : t.teams = s.teams) (h3 : t.mem = s.mem) (h4 : t.hostMem = s.hostMem)
    (h5 : t.poison = s.poison) (h6 : t.fot = s.fot) (h7 : t.parts = s.parts) (h8 : t.capLines = s.capLines) : s.Quiet t :=
  ⟨h1, h2, h3, fun c => ⟨h4, by rw [State.CapClean, h8]; exact c⟩, h5, h6, fun p => ⟨(s.part p).banks, (s.part p).fixPend, by simp [State.part, h7]⟩⟩

theorem State.quiet_modLine (s : State) (n : Nat) (f : Line → Line) : s.Quiet (s.modLine n f) := .of_eq rfl rfl rfl rfl rfl rfl rfl rfl
theorem State.quiet_modCluster (s : State) (n : Nat) (f : Cluster → Cluster) : s.Quiet (s.modCluster n f) := .of_eq rfl rfl rfl rfl rfl rfl rfl rfl
theorem State.quiet_emit (s : State) (o : Out) : s.Quiet (s.emit o) := .of_eq rfl rfl rfl rfl rfl rfl rfl rfl

theorem Part.count_eq (x : Part) (c : Option Nat) (ev n : Nat) : ∃ b f, x.count c ev n = { x with banks := b, fixPend := f } := by
  unfold Part.count
  dsimp only
  split
  · unfold Part.trigger
    split <;> exact ⟨_, _, rfl⟩
  · exact ⟨_, x.fixPend, rfl⟩

theorem State.quiet_count (s : State) (p : Nat) (c : Option Nat) (ev n : Nat) : s.Quiet (s.count p c ev n) := by
  unfold State.count
  split
  · exact .refl s
  · refine ⟨rfl, rfl, rfl, fun h => ⟨rfl, h⟩, rfl, rfl, fun q => ?_⟩
    rw [modPart_part]
    split
    · exact Part.count_eq _ _ _ _
    · exact ⟨(s.part q).banks, (s.part q).fixPend, rfl⟩

theorem State.quiet_countLane (s : State) (l : Lane) (ev n : Nat) : s.Quiet (s.countLane l ev n) := s.quiet_count _ _ _ _

theorem State.quiet_hbmEnqueue (s : State) (p : Nat) (c : Option Nat) (a : Nat) : s.Quiet (s.hbmEnqueue p c a) := by
  unfold State.hbmEnqueue
  dsimp only
  split <;> exact .of_eq rfl rfl rfl rfl rfl rfl rfl rfl

theorem State.quiet_setHold (s : State) (ln : Nat) (a : Fin 10) (h : Hold) : s.Quiet (s.setHold ln a h) := s.quiet_modLine _ _
theorem State.quiet_post (s : State) (m : Msg) : s.Quiet (s.post m) := .of_eq rfl rfl rfl rfl rfl rfl rfl rfl
theorem State.quiet_snoopHost (s : State) (ln : Nat) (x : Bool) : s.Quiet (s.snoopHost ln x) := by
  unfold State.snoopHost
  split
  · exact .refl s
  · exact s.quiet_emit _
theorem State.quiet_sendTok (s : State) (ln : Nat) (a b : Fin 10) (n : Nat) (o d : Bool) : s.Quiet (s.sendTok ln a b n o d) :=
  (s.quiet_setHold ln a _).trans (State.quiet_post _ _)
theorem State.quiet_sendAllTok (s : State) (ln : Nat) (a b : Fin 10) : s.Quiet (s.sendAllTok ln a b) := by
  unfold State.sendAllTok
  dsimp only
  split
  · exact .refl s
  · exact s.quiet_sendTok _ _ _ _ _ _

/-- Setting a clean line keeps the lines clean. -/
theorem capClean_tset {t : Tbl CapLine} (h : ∀ e ∈ t, e.2.dirty = false) (k : Nat) (c : CapLine) (hc : c.dirty = false) :
    ∀ e ∈ tset k c t, e.2.dirty = false := by
  induction t with
  | nil => simp [tset, hc]
  | cons e r ih =>
    obtain ⟨j, y⟩ := e
    simp only [List.mem_cons, forall_eq_or_imp] at h
    unfold tset
    split
    · simpa [hc] using h
    · split
      · simpa [hc] using h.2
      · simpa [h.1] using ih h.2

theorem State.capLine?_clean {s : State} (h : s.CapClean) {ln : Nat} {c : CapLine} (hc : s.capLine? ln = some c) : c.dirty = false := by
  unfold State.capLine? at hc
  obtain ⟨e, he, rfl⟩ := Option.map_eq_some_iff.mp hc
  exact h e (List.mem_of_find?_eq_some he)

/-- Where no capacity-tier line is dirty, a line that leaves the L3 writes nothing to the pooled memory. -/
theorem State.quiet_capBack (s : State) (ln : Nat) : s.Quiet (s.capBack ln) := by
  unfold State.capBack
  split
  · exact .refl s
  · rename_i c hc
    have key : s.CapClean → State.CapClean { s with capLines := tset ln { c with dirty := false } s.capLines } :=
      fun h => capClean_tset h ln _ rfl
    dsimp only
    split
    · split
      · rename_i hd
        exact ⟨rfl, rfl, rfl, fun h => absurd (State.capLine?_clean h hc) (by simp [hd]), rfl, rfl, fun p => ⟨_, _, rfl⟩⟩
      · exact ⟨rfl, rfl, rfl, fun h => ⟨rfl, key h⟩, rfl, rfl, fun p => ⟨_, _, rfl⟩⟩
    · exact ⟨rfl, rfl, rfl, fun h => ⟨rfl, key h⟩, rfl, rfl, fun p => ⟨_, _, rfl⟩⟩

theorem State.quiet_capDrop (s : State) (ln : Nat) : s.Quiet (s.capDrop ln) := by
  refine (s.quiet_capBack ln).trans ⟨rfl, rfl, rfl, fun h => ⟨rfl, fun e he => ?_⟩, rfl, rfl, fun p => ⟨_, _, rfl⟩⟩
  exact h e (List.mem_filter.mp he).1

theorem State.quiet_l3Use (s : State) (ln : Nat) : s.Quiet (s.l3Use ln).1 := by
  unfold State.l3Use
  dsimp only
  split
  · split
    · exact State.Quiet.trans (.of_eq rfl rfl rfl rfl rfl rfl rfl rfl) (State.quiet_capDrop _ _)
    · exact .of_eq rfl rfl rfl rfl rfl rfl rfl rfl
  · exact .of_eq rfl rfl rfl rfl rfl rfl rfl rfl

theorem State.quiet_l3Touch (s : State) (p : Nat) (c : Option Nat) (ln : Nat) : s.Quiet (s.l3Touch p c ln) := by
  unfold State.l3Touch
  dsimp only
  split
  · exact s.quiet_l3Use ln
  · exact (s.quiet_l3Use ln).trans (State.quiet_hbmEnqueue _ p c _)

/-- The L3 and the controllers' queues hold no line records. -/
theorem State.capBack_lines (s : State) (ln : Nat) : (s.capBack ln).lines = s.lines := by
  unfold State.capBack
  split
  · rfl
  · dsimp only; split
    · split <;> rfl
    · rfl
theorem State.l3Use_lines (s : State) (ln : Nat) : (s.l3Use ln).1.lines = s.lines := by
  unfold State.l3Use
  dsimp only
  split
  · split
    · exact State.capBack_lines _ _
    · rfl
  · rfl
theorem State.hbmEnqueue_lines (s : State) (p : Nat) (c : Option Nat) (a : Nat) : (s.hbmEnqueue p c a).lines = s.lines := by
  unfold State.hbmEnqueue
  dsimp only
  split <;> rfl
theorem State.l3Touch_lines (s : State) (p : Nat) (c : Option Nat) (ln : Nat) : (s.l3Touch p c ln).lines = s.lines := by
  unfold State.l3Touch
  dsimp only
  split
  · exact s.l3Use_lines ln
  · exact (State.hbmEnqueue_lines _ p c _).trans (s.l3Use_lines ln)

theorem State.quiet_evictL2 (s : State) (a : Fin 10) (ln p : Nat) (c : Option Nat) : s.Quiet (s.evictL2 a ln p c) := by
  unfold State.evictL2
  dsimp only
  split <;> split <;> exact ((s.quiet_setHold ln a _).trans (State.quiet_post _ _)).trans (State.quiet_count _ _ _ _ _)

theorem State.quiet_l2Touch (s : State) (a : Fin 10) (ln p : Nat) (c : Option Nat) : s.Quiet (s.l2Touch a ln p c) := by
  unfold State.l2Touch
  split
  · exact .refl s
  · dsimp only
    split
    · exact State.Quiet.trans (.of_eq rfl rfl rfl rfl rfl rfl rfl rfl) (State.quiet_evictL2 _ _ _ _ _)
    · exact .of_eq rfl rfl rfl rfl rfl rfl rfl rfl

/-- Lines that come to an agent by message. -/
theorem State.quiet_l2Arrive (s : State) (a : Fin 10) (ln : Nat) : s.Quiet (s.l2Arrive a ln) := s.quiet_l2Touch _ _ _ _

theorem State.quiet_foldl {β : Type} (f : State → β → State) (hf : ∀ (s : State) b, s.Quiet (f s b)) (bs : List β) (s : State) : s.Quiet (bs.foldl f s) := by
  induction bs generalizing s with
  | nil => exact .refl s
  | cons b r ih => exact (hf s b).trans (ih _)

theorem State.quiet_landTokens (s : State) (ln : Nat) : s.Quiet (s.landTokens ln) := by
  unfold State.landTokens
  dsimp only
  split
  · exact .refl s
  · exact State.Quiet.trans (.of_eq rfl rfl rfl rfl rfl rfl rfl rfl) (State.quiet_foldl _ (fun s m => State.quiet_l2Arrive s _ _) _ _)

theorem State.quiet_countL2 (s : State) (a : Fin 10) (p : Nat) (c : Option Nat) (ev : Nat) : s.Quiet (s.countL2 a p c ev) := by
  unfold State.countL2
  split
  · exact s.quiet_count _ _ _ _
  · exact .refl s

theorem State.quiet_fromHome (s : State) (ln p : Nat) (c : Option Nat) : s.Quiet (s.fromHome ln p c) := by
  unfold State.fromHome
  split
  · exact s.quiet_l3Touch _ _ _
  · exact .refl s

/-- A line that is not in the merge state has nothing to fold. -/
theorem State.foldNow_of_not_mash {s : State} {ln : Nat} (h : (s.line ln).mash = false) (w : Option (Nat × Option Nat)) :
    s.foldNow ln w = (s, none) := by
  simp [State.foldNow, h]
theorem State.fold_of_not_mash {s : State} {ln : Nat} (h : (s.line ln).mash = false) (w : Option (Nat × Option Nat)) : s.fold ln w = (s, none) := by
  simp [State.fold, h]

/-- An agent other than the home that has what it asked for: a message at most. -/
theorem State.quiet_checkDone (s : State) (ln : Nat) {a : Fin 10} (ha : a ≠ home) : s.Quiet (s.checkDone ln a) := by
  unfold State.checkDone
  dsimp only
  split
  · exact .refl s
  · split
    · exact .refl s
    · exact s.quiet_post _

theorem State.quiet_satisfied (s : State) (ln : Nat) {a : Fin 10} (ha : a ≠ home) : s.Quiet (s.satisfied ln a) := by
  unfold State.satisfied
  dsimp only
  split
  · exact (s.quiet_modLine _ _).trans (State.quiet_checkDone _ _ ha)
  · exact s.quiet_checkDone _ ha

theorem State.quiet_takeShared {s : State} {ln : Nat} (h : (s.line ln).mash = false) {a : Fin 10} (ha : a ≠ home) (p : Nat) (c : Option Nat) :
    s.Quiet (s.takeShared ln a p c) := by
  unfold State.takeShared
  rw [State.fold_of_not_mash h]
  dsimp only
  have last := fun t : State => fun ev : Nat => (t.quiet_l2Touch a ln p c).trans (State.quiet_countL2 _ a p c ev)
  split
  · exact last _ _
  · refine State.Quiet.trans ?_ ((last _ _).trans (State.quiet_satisfied _ _ ha))
    have h1 := (s.quiet_landTokens ln).trans (State.quiet_fromHome _ ln p c)
    split
    · exact h1
    · split
      · exact h1.trans (State.quiet_modLine _ _ _)
      · exact h1

theorem State.quiet_takeAll {s : State} {ln : Nat} (h : (s.line ln).mash = false) {a : Fin 10} (ha : a ≠ home) (p : Nat) (c : Option Nat) :
    s.Quiet (s.takeAll ln a p c) := by
  unfold State.takeAll
  rw [State.fold_of_not_mash h]
  dsimp only
  refine State.Quiet.trans (State.Quiet.trans (State.Quiet.trans ?_ (State.quiet_modLine _ _ _)) (State.quiet_l2Touch _ _ _ _ _)) (State.quiet_satisfied _ _ ha)
  split
  · exact s.quiet_countL2 _ _ _ _
  · exact (((s.quiet_landTokens ln).trans (State.quiet_fromHome _ ln p c)).trans (State.quiet_modLine _ _ _)).trans (State.quiet_countL2 _ _ _ _ _)

theorem State.quiet_homeTake {s : State} {ln : Nat} (h : (s.line ln).mash = false) : s.Quiet (s.homeTake ln) := by
  unfold State.homeTake
  dsimp only
  rw [State.foldNow_of_not_mash h]
  dsimp only
  have net : s.Quiet { s with net := netWithout s.net ln } := .of_eq rfl rfl rfl rfl rfl rfl rfl rfl
  have all : s.Quiet (if (s.line ln).gathered = s.line ln then { s with net := netWithout s.net ln }
      else ({ s with net := netWithout s.net ln } : State).modLine ln fun l => l.gathered) := by
    split
    · exact net
    · exact net.trans (State.quiet_modLine _ _ _)
  split
  · exact all.trans (State.quiet_sendAllTok _ _ _ _)
  · exact all

/-- The home obtains a line for a read of its own. -/
theorem State.quiet_homeObtain (s : State) (ln p : Nat) (c : Option Nat) : s.Quiet (s.homeObtain ln p c) := by
  unfold State.homeObtain
  dsimp only
  have h1 := (s.quiet_landTokens ln).trans (State.quiet_l3Touch _ p c ln)
  split
  · exact s.quiet_l3Touch _ _ _
  · split
    · exact h1
    · exact h1.trans (State.quiet_modLine _ _ _)

theorem State.quiet_clearL1 (s : State) (c k : Nat) : s.Quiet (s.clearL1 c k) := by
  unfold State.clearL1
  split
  · exact .refl s
  · exact s.quiet_modCluster _ _

theorem State.quiet_acquire (s : State) (l : Lane) (e : Scope) : s.Quiet (s.acquire l e) := by
  unfold State.acquire
  split
  · exact s.quiet_clearL1 _ _
  · exact .refl s

theorem State.quiet_storeL1 (s : State) (c a : Nat) (bs : List Byte) : s.Quiet (s.storeL1 c a bs) := by
  unfold State.storeL1
  split
  · exact s.quiet_modCluster _ _
  · exact .refl s

theorem State.quiet_fillL1 (s : State) (c k ln d : Nat) : s.Quiet (s.fillL1 c k ln d) := s.quiet_modCluster _ _

/-- Nothing to fold: the fold of an access leaves the machine alone. -/
theorem State.foldFor_of_not_mash {s : State} {ln : Nat} (h : (s.line ln).mash = false) (v : Via) : s.foldFor v ln = (s, false) := by
  simp [State.foldFor, State.fold_of_not_mash h]

/-- An HBM address is not in the capacity tier. -/
theorem inCap_of_inHbm {a : Nat} (h : inHbm a = true) : inCap a = false := by
  simp only [inHbm, decide_eq_true_eq] at h
  simp only [inCap, Bool.and_eq_false_iff, decide_eq_false_iff_not]
  left
  have : (2 : Nat) ^ 39 ≤ 2 ^ 44 := Nat.pow_le_pow_right (by norm_num) (by norm_num)
  omega

/-- What a read sees depends on memory alone. -/
theorem State.seenAt_of_mem {s t : State} (h : t.mem = s.mem) (x : Phys) (n : Nat) : t.seenAt x n = s.seenAt x n := by
  simp [State.seenAt, State.lineLa, h]

/-- A read of HBM by an agent over a line that needs no fold and is not poisoned: the bytes of memory, as the page shows them. -/
theorem State.readAt_plain {s : State} {v : Via} {x : Phys} {n : Nat} (ha : v.agent ≠ home) (hb : inHbm x.addr = true)
    (h : (s.line (x.addr / 128)).mash = false) (hp : x.addr / 128 ∉ s.poison) :
    ∃ t, s.readAt v x n = (t, some (s.seenAt x n)) ∧ s.Quiet t := by
  unfold State.readAt
  rw [inCap_of_inHbm hb, State.foldFor_of_not_mash h]
  simp only [Bool.false_eq_true, if_false]
  have hq : s.Quiet (if x.attr = .device then s.homeObtain (x.addr / 128) v.who.part (some v.who.ctx)
      else s.takeShared (x.addr / 128) v.agent v.who.part (some v.who.ctx)) := by
    split
    · exact State.quiet_homeObtain _ _ _ _
    · exact State.quiet_takeShared h ha _ _
  have hp' : State.poisoned (if x.attr = .device then s.homeObtain (x.addr / 128) v.who.part (some v.who.ctx)
      else s.takeShared (x.addr / 128) v.agent v.who.part (some v.who.ctx)) x = false := by
    simp [State.poisoned, hq.2.2.2.2.1, hp]
  rw [if_neg (by simp [hp']), State.seenAt_of_mem hq.2.2.1]
  exact ⟨_, rfl, hq⟩

/-- A write of HBM by an agent over a line that needs no fold and is not poisoned: the bytes that the page lets it change stand in memory,
and the write meets no error. -/
theorem State.writeAt_plain {s : State} {v : Via} {x : Phys} {bs : List Byte} (ha : v.agent ≠ home) (hb : inHbm x.addr = true)
    (h : (s.line (x.addr / 128)).mash = false) (hp : x.addr / 128 ∉ s.poison) :
    ∃ u, s.Quiet u ∧ s.writeAt v x bs = ({ u with mem := writeBytes s.mem x.addr (accKeep x.attr x.addr bs) }, false) := by
  unfold State.writeAt
  simp only [inCap_of_inHbm hb, State.foldFor_of_not_mash h, Bool.false_eq_true, if_false]
  have hm : ((s.l3Touch v.who.part (some v.who.ctx) (x.addr / 128)).line (x.addr / 128)).mash = false := by
    simpa [State.line, State.l3Touch_lines] using h
  have hq : s.Quiet (if x.attr = .device then (s.l3Touch v.who.part (some v.who.ctx) (x.addr / 128)).homeTake (x.addr / 128)
      else s.takeAll (x.addr / 128) v.agent v.who.part (some v.who.ctx)) := by
    split
    · exact (s.quiet_l3Touch _ _ _).trans (State.quiet_homeTake hm)
    · exact State.quiet_takeAll h ha _ _
  refine ⟨_, hq, ?_⟩
  unfold State.overPoison
  rw [if_pos (by simp [hq.2.2.2.2.1, hp]), hq.2.2.1]

end Sys2Proof.Machine
end

