-- ==== Sys2Proof/Laws/Words.lean ====
section
/-! SUPPORT. What the shared shapes of a word do once the word is legal in the bundle that issues it. -/
namespace Sys2Proof.Machine
open Sys2Proof

/-- A word that acts when legal: what it answers. -/
theorem guarded_next {i : Instr} {s : State} {k : State → State} {l : Lane}
    (h1 : s.lead = some l) (h2 : s.illegalAt l i = none) : guarded i s k = .next (k s) := by
  simp [guarded, h1, h2]

/-- An illegal word raises ILLEGAL in every active lane, whatever its meaning. -/
theorem guarded_illegal {i : Instr} {s : State} {k : State → State} {l : Lane} {a : Nat}
    (h1 : s.lead = some l) (h2 : s.illegalAt l i = some a) : guarded i s k = .next (raiseIllegal s a) := by
  simp [guarded, h1, h2]

/-- Every answer of a guarded word is a next state. -/
theorem guarded_goesOn (i : Instr) (s : State) (k : State → State) : ∃ t, guarded i s k = .next t := by
  unfold guarded
  split
  · exact ⟨_, rfl⟩
  · split <;> exact ⟨_, rfl⟩

theorem laneOp_next {i : Instr} {s : State} {f : Lane → Lane} {l : Lane}
    (h1 : s.lead = some l) (h2 : s.illegalAt l i = none) :
    laneOp i s f = .next (mapActive s fun l => (f l).adv (instrLen i)) := guarded_next h1 h2

theorem laneOpF_next {i : Instr} {s : State} {f : Lane → Lane × BitVec 5} {l : Lane}
    (h1 : s.lead = some l) (h2 : s.illegalAt l i = none) :
    laneOpF i s f =
      .next (s.actives.foldl (fun s l => s.orFlags l.id (f l).2) (mapActive s fun l => ((f l).1).adv (instrLen i))) :=
  guarded_next h1 h2

theorem deferOp_next {i : Instr} {s : State} {f : Lane → List (Nat × Word) × BitVec 5} {l : Lane}
    (h1 : s.lead = some l) (h2 : s.illegalAt l i = none) :
    deferOp i s f = .next (mapActive s fun l =>
      if l.room then (l.defer i [] (f l).1 [] (f l).2 .ready).adv (instrLen i) else l.stall) := guarded_next h1 h2

end Sys2Proof.Machine
end

