-- ==== Sys2Proof/Tests/Slice0.lean ====
section
/-! SUPPORT. Tests of the model on small states: the well-formedness checks, decoding, one word's effect, and for every statement a state
that meets its hypotheses. Expected values are worked out by hand from the rules named. -/
namespace Sys2Proof.Tests

set_option Elab.async false

open Sys2Proof Sys2Proof.Machine Sys2Proof.Claims

/-! ## Small states -/

def launch1 : Launch := newLaunch 1 programRecord 0 none 0 [] false
/-- The only lane of most tests, about to issue a word. -/
def lane0 : Lane := { newLane 0 launch1 0 0 0 0 0 with issuing := true, bundle := some 0 }
/-- A lane in slot n of the same bundle. -/
def laneAt (n : Nat) : Lane := { lane0 with id := { tid := 0, grp := 0, slot := n }, gid := n }
def team0 : Team :=
  { tid := 0, part := 0, seq := 1, index := 0, cluster := 0, set := 0, groups := [newGroup programRecord 0], macros := List.range 16, cvs := List.range 16,
    tiles := [0, 1, 2, 3], bars := List.replicate 4 bar0, handles := List.replicate 4 .unused, smode := [], ordered := [], begun := true }
def clusterA : Cluster :=
  { cluster0 with
    sram := (List.range 16).map fun m => (m, { sram0 with owner := some 0, mode := if m < 8 then .scratch else .queue }),
    cv := (List.range 16).map fun v => (v, { cv0 with tid := some 0 }) }
def admitA : Admit :=
  { ctx := 0, code := 0x10000, size := 12, base := 0, timing := false, barriers := false, orderedForms := false, slots := [], mxaSlots := [],
    declared := 0, frames := [1], releasing := false }
def partA : Part :=
  { part0 with triples := 1, state := .active, ctxs := [(0, 0x20000 * 2 ^ 128 + 0x38 * 2 ^ 288)], window := [{ launch1 with placed := 1 }],
               nextSeq := 2, admitted := [admitA] }
/-- Partition 0 runs one cooperative team on cluster 0; virtual addresses below 0x20000 are device addresses, the first frame is data. -/
def st : State :=
  { State.reset with
    lanes := [lane0], teams := [team0], nextTid := 1, clusters := [(0, clusterA)], parts := [(0, partA)], boot := .ready,
    fot := [(0, 0x100), (1, 0x100)], nextId := 1 }
/-- That machine with other lanes, another partition 0, another team, another cluster. -/
def stL (ls : List Lane) : State := { st with lanes := ls }
def stP (f : Part → Part) : State := { st with parts := [(0, f partA)] }
def stT (f : Team → Team) : State := { st with teams := [f team0] }
def stC (f : Cluster → Cluster) : State := { st with clusters := [(0, f clusterA)] }
/-- Lane 0 with some v registers set. -/
def withV (l : Lane) (xs : List (Nat × Word)) : Lane := xs.foldl (fun l e => l.setV! e.1 e.2) l
def stV (xs : List (Nat × Word)) : State := stL [withV lane0 xs]
/-- A lane at supervisor level, in the handler, one trap deep. -/
def laneS : Lane := { lane0 with sup := true, depth := 1, obj := .handler }
def stS : State := { stL [laneS] with parts := [(0, { partA with tvec := 0x8000 })] }

def legal (s : State) (i : Instr) : Bool := match s.lead with | some l => s.illegalAt l i == none | none => false
theorem legal_holds {s i} (h : legal s i = true) : Legal s i := by
  unfold legal at h
  split at h
  · exact ⟨_, ‹_›, by simpa using h⟩
  · cases h
/-- What holds of the state after the instruction. -/
def after (i : Instr) (s : State) (f : State → Bool) : Bool :=
  match exec i s with
  | .next t => f t
  | .fault _ => false
  | .refused _ => false
/-- What holds of lane 0 after the instruction, with some v registers set before it. -/
def runV (i : Instr) (xs : List (Nat × Word)) (f : Lane → Bool) : Bool := after i (stV xs) fun t => (t.lane? ⟨0, 0, 0⟩).elim false f

/-! ## Every word is legal somewhere -/

def words0 : List Instr :=
  [.nop, .exit, .yield, .ret 62, .bra .uniform 7 true 0x3FFFF, .bra .none 0 false 1, .call 4 0x20000, .trap 0xFFFF, .tret, .bkpt, .bar 3 3, .bara 63 1 0, .barw 0,
   .cbar, .gbar, .waitph 7 63 4, .waitph 1 3 0, .evsig 4 5, .evwait 4 5, .fence .system .ar, .fence .lane .acq, .drain .s2ps, .mfs 63 0x010, .mfs 62 0x103, .mts 3 0x012, .mts 2 0x104,
   .clk 62, .cntrd 4 0x210, .cntrd 4 0x3EF, .rndLo 63, .rndHi 0, .cvdecl 15 1 128, .cvsign 0, .cvsignW 15, .brx 0]
def words1 : List Instr :=
  [.iadd 63 63 63, .isub 0 1 2, .imul 0 1 2, .imulhI32 0 1 2, .imulhN32 0 1 2, .imad 0 1 2, .idivI32 0 1 2, .idivN32 0 1 2, .iremI32 0 1 2, .iremN32 0 1 2,
   .iminI32 0 1 2, .iminN32 0 1 2, .imaxI32 0 1 2, .imaxN32 0 1 2, .iabs 0 1, .and 0 1 2, .or 0 1 2, .xor 0 1 2, .shl 0 1 2, .shr 0 1 2, .sar 0 1 2,
   .shf 0 1 2, .popc 0 1, .clz 0 1, .brev 0 1, .bfeI32 0 1 2, .bfeN32 0 1 2, .bfi 0 1 2, .sel 0 1 2 7, .icmp 7 1 2 .hs, .ladd 62 0 1, .mov 63 63 false false,
   .mov 63 15 true false, .mov 15 63 false true, .mov 0 15 true true, .iaddi 0 1 0xFFF, .andi 0 1 0x800, .ori 0 1 0, .xori 0 1 1, .shlImm 0 1 31, .shrImm 0 1 0,
   .sarImm 0 1 31, .movi 63 0x8000, .movh 63 0x8000, .laddi 62 0 0x800, .lit 63 0xFFFFFFFF]
def words2 : List Instr :=
  [.fadd 0 1 2 .rd, .fsub 0 1 2 .rz, .fmul 0 1 2 .ru, .ffma 0 1 2 .rne, .fmin 0 1 2, .fmax 0 1 2, .fcmp 7 1 2 .or, .fclass 0 1, .fadd2Bf16 0 1 2 .rd,
   .fadd2F16 0 1 2 .rd, .fma2Bf16 0 1 2 .rd, .fma2F16 0 1 2 .rd, .frcp 0 1, .frsq 0 1, .fsqrt 0 1 .ru, .fdiv 0 1 2 .rd, .fexp2 0 1, .flog2 0 1, .fsin 0 1,
   .fcos 0 1, .fred 62 1, .cvt 0 1 0 .rd true 0, .cvt 0 1 0x37 .rne false 0, .cvt 0 1 0x10 .ru true 0, .cvtF32Mx 0 1 3 .rd 7, .qmx 8 32 0 7, .dqmx 4 0 1 0,
   .pslice 56 0, .pmerge 0 56 8, .pmerge 0 56 2]
def words3 : List Instr :=
  [.shfl 0 1 2 .edge 3, .shflImm 0 1 31 .rot 0, .shflImm 0 1 63 .edge 3, .voteOr 7 6, .voteAnd 1 0, .voteMask 0 1, .voteCount 0 1, .voteFirst 0 1, .vmatch 0 1,
   .ldB8 63 62 .system .acq true 31, .ldB16 0 2 .lane .rlx false 32, .ldB32 0 2 .team .rlx false 0, .ldB64 62 2 .team .rlx false 0, .ldB128 60 2 .team .acq false 0,
   .stB8 63 62 .system .rel 31, .stB16 0 2 .lane .rlx 32, .stB32 0 2 .team .rlx 0, .stB64 62 2 .team .rlx 0, .stB128 60 2 .team .rel 0,
   .lds 63 0 .b32 7 31, .lds 62 0 .b64 0 0, .lds 60 0 .b128 0 0, .sts 0 63 .b8 0 16, .sts 0 63 .b16 0 0, .qpush 60 63, .qpop 0 0, .pref 2 2, .cinv 62 .system, .cflush 2 .device]
def words4 : List Instr :=
  [.kclr 15, .kadd 0 1 .e2m1, .kfma 0 1 2 .f32, .kdot2 0 1 2 .bf16, .kdot4 0 1 2 .e5m2, .kiadd 0 1 2, .kmrg 0 15, .kmrgNeg 0 15, .knorm 0, .kscl 0 63, .kseg 0 1 19,
   .kstat 0 1, .krnd 15 63 true .rd .e2m1, .kld 15 62 .system .acq true 64, .kst 15 62 .system .rel 64, .mxa 15 48 40 7 3, .mxz 0 0, .mxrd 32 0 3, .mxsp 62 0 3,
   .mxfl 0 7 0, .launch 62, .smodeScratch 63, .smodeQueue 0,
   .atom 62 0 2 .exch .b64 true .system .ar 0xFFF8, .atom 1 0 2 .add .b32 false .lane .rlx 4, .atomNr 0 2 .maxu .b32 false .lane .rlx 4,
   .cas 62 0 2 4 .b64 false .system .ar 8, .aacc 62 1 .e2m1 .device .rel 0xFF80, .aaccMul 62 1 2 .f32 .device .rlx 0, .amrg 62 15 .device .rel 0x80,
   .amrgNeg 0 0 .lane .rlx 0, .cpy 56 .device, .gthr 0 .lane, .coll 62 3 .system, .collw 63 0, .rowpin 0 62, .rowrel 62, .rowrelAll, .rowqry 63 0]
def words : List Instr := words0 ++ words1 ++ words2 ++ words3 ++ words4

theorem test_words_legal : words0.all (legal st) ∧ words1.all (legal st) ∧ words2.all (legal st) ∧ words3.all (legal st) ∧ words4.all (legal st) := by
  decide +kernel
/-- The hypothesis `Legal` of every statement about a word is met: each word form runs in `st`. -/
theorem witness_Legal : ∀ i ∈ words, Legal st i := by
  intro i hi
  have h := test_words_legal
  simp only [words, List.mem_append] at hi
  simp only [List.all_eq_true] at h
  rcases hi with (((hi | hi) | hi) | hi) | hi
  · exact legal_holds (h.1 i hi)
  · exact legal_holds (h.2.1 i hi)
  · exact legal_holds (h.2.2.1 i hi)
  · exact legal_holds (h.2.2.2.1 i hi)
  · exact legal_holds (h.2.2.2.2 i hi)

/-! ## Well-formedness: an ill-formed term for each check, and AUX (R336) -/

theorem test_reserved_values_refused :
    ([.bra .none 0 true 0, .bar 0 1, .bara 4 0 1, .waitph 1 4 5, .fence .device .rlx, .mfs 3 0x00E, .mfs 3 0x106, .mts 3 0x3FF, .cntrd 4 0x200, .cntrd 4 0x030,
      .mov 3 16 true false, .mov 16 3 false true, .cvt 0 1 0x0C .rne false 0, .cvt 0 1 0x3C .rne false 0, .cvt 0 1 0x08 .rz false 0, .cvt 0 1 0x02 .rne true 0,
      .cvt 0 1 0 .rne false 1, .pmerge 0 8 1, .pmerge 0 8 9, .shflImm 0 1 32 .src 0, .ldB8 0 2 .lane .rel false 0, .ldB16 0 2 .lane .ar false 0,
      .ldB32 0 2 .lane .rel false 0, .ldB64 0 2 .lane .rel false 0, .ldB128 0 4 .lane .ar false 0, .stB8 0 2 .lane .acq 0, .stB16 0 2 .lane .ar 0,
      .stB32 0 2 .lane .acq 0, .stB64 0 2 .lane .acq 0, .stB128 0 4 .lane .ar 0, .kld 0 2 .lane .rel false 0, .kst 0 2 .lane .acq 0, .pref 2 3, .kdot2 0 1 2 .f32,
      .kdot4 0 1 2 .bf16, .kseg 0 1 20, .atom 0 2 4 .add .b16 false .lane .rlx 0, .atomNr 2 4 .add .b128 false .lane .rlx 0, .cas 0 2 4 6 .b8 false .lane .rlx 0,
      .aacc 2 4 .f32 .lane .acq 0, .aaccMul 2 4 5 .f32 .lane .ar 0, .amrg 2 0 .lane .acq 0, .amrgNeg 2 0 .lane .ar 0] : List Instr).all
      (fun i => illegalAux i == some 0) = true := by decide +kernel

theorem test_misaligned_registers_refused :
    ([.ret 5, .brx 1, .call 3 0, .clk 1, .cntrd 3 0x210, .mfs 3 0x00B, .mts 3 0x101, .ladd 1 0 0, .ladd 0 1 0, .laddi 1 0 0, .laddi 0 3 0, .fred 1 0, .qmx 8 31 0 0,
      .pslice 4 0, .pslice 0 4, .pmerge 4 0 8, .pmerge 0 4 8, .ldB8 0 1 .lane .rlx false 0, .ldB16 0 1 .lane .rlx false 0, .ldB32 0 3 .lane .rlx false 0,
      .ldB64 0 1 .lane .rlx false 0, .ldB64 1 0 .lane .rlx false 0, .ldB128 0 1 .lane .rlx false 0, .ldB128 2 0 .lane .rlx false 0, .stB8 0 1 .lane .rlx 0,
      .stB16 0 1 .lane .rlx 0, .stB32 0 1 .lane .rlx 0, .stB64 0 1 .lane .rlx 0, .stB64 1 0 .lane .rlx 0, .stB128 0 1 .lane .rlx 0, .stB128 2 0 .lane .rlx 0,
      .lds 1 0 .b64 0 0, .lds 2 0 .b128 0 0, .sts 1 0 .b64 0 0, .sts 2 0 .b128 0 0, .qpush 2 0, .qpop 2 0, .pref 1 0, .cinv 1 .lane, .cflush 1 .lane,
      .kld 0 1 .lane .rlx false 0, .kst 0 1 .lane .rlx 0, .mxa 0 4 8 0 0, .mxa 0 8 4 0 0, .mxrd 8 0 0, .mxsp 1 0 0, .mxfl 1 0 0, .launch 1,
      .atom 0 1 2 .add .b32 false .lane .rlx 0, .atom 1 2 4 .add .b64 false .lane .rlx 0, .atom 0 2 5 .add .b64 false .lane .rlx 0,
      .atom 0 2 4 .add .b32 false .lane .rlx 2, .atomNr 1 2 .add .b32 false .lane .rlx 0, .atomNr 2 5 .add .b64 false .lane .rlx 0,
      .atomNr 2 4 .add .b64 false .lane .rlx 4, .cas 0 1 2 4 .b32 false .lane .rlx 0, .cas 1 2 4 6 .b64 false .lane .rlx 0, .cas 0 2 5 6 .b64 false .lane .rlx 0,
      .cas 0 2 4 7 .b64 false .lane .rlx 0, .cas 0 2 4 6 .b32 false .lane .rlx 1, .aacc 1 4 .f32 .lane .rlx 0, .aacc 2 4 .f32 .lane .rlx 0x40,
      .aaccMul 1 4 5 .f32 .lane .rlx 0, .amrg 1 0 .lane .rlx 0, .amrg 2 0 .lane .rlx 0x7F, .amrgNeg 1 0 .lane .rlx 0, .cpy 4 .lane, .gthr 4 .lane, .coll 1 0 .lane,
      .rowpin 0 1, .rowrel 1, .rowqry 0 1] : List Instr).all (fun i => illegalAux i == some 2) = true := by decide +kernel
/-- A reserved value comes before an alignment (log entry 22); a legal word is neither. -/
theorem test_reserved_before_misaligned : illegalAux (.cntrd 3 0x200) = some 0 ∧ words.all (fun i => illegalAux i == none) = true := by decide +kernel

/-! ## Decoding: words of the spec's chapter 10 written out, one family after another -/

def reads (w e : Nat) (i : Instr) : Bool := match decodeInstr w e with | .ok j => j == i | .error _ => false
def refuses (w e : Nat) : Bool := match decodeInstr w e with | .ok _ => false | .error _ => true

theorem test_decode_control :
    (reads 0 0 .nop && reads 0x00000001 0 .exit && reads 0x00000002 0 .yield && reads 0x0000A003 0 (.ret 10) && reads 0x01D7FFFD 0 (.bra .uniform 2 true 0x3FFFD) &&
      reads 0x02280005 0 (.call 10 5) && reads 0x03001234 0 (.trap 0x1234) && reads 0x03010000 0 .tret && reads 0x03020000 0 .bkpt && reads 0x07008000 0 (.brx 8)) = true := by
  decide +kernel
theorem test_decode_synchronisation :
    (reads 0x04000180 0 (.bar 1 2) && reads 0x041C0301 0 (.bara 7 3 0) && reads 0x040000C2 0 (.barw 3) && reads 0x04000003 0 .cbar && reads 0x04000004 0 .gbar &&
      reads 0x04044085 0 (.waitph 1 4 2) && reads 0x04084105 0 (.waitph 2 4 4) && reads 0x040020C6 0 (.evsig 2 3) && reads 0x04002107 0 (.evwait 2 4) &&
      reads 0x04000688 0 (.fence .cluster .acq) && reads 0x04000D08 0 (.fence .system .rel) && reads 0x040000C9 0 (.drain .s2ps)) = true := by decide +kernel
theorem test_decode_system_and_convergence :
    (reads 0x050C0400 0 (.mfs 3 0x010) && reads 0x050C0401 0 (.mts 3 0x010) && reads 0x05100002 0 (.clk 4) && reads 0x051894C3 0 (.cntrd 6 0x253) &&
      reads 0x050C0004 0 (.rndLo 3) && reads 0x050C0044 0 (.rndHi 3) && reads 0x06140080 0 (.cvdecl 1 1 128) && reads 0x06010000 0 (.cvsign 0) &&
      reads 0x06020000 0 (.cvsignW 0)) = true := by decide +kernel
theorem test_decode_integer :
    (reads 0x080C4141 0 (.isub 3 4 5) && reads 0x080C4144 0 (.imulhN32 3 4 5) && reads 0x080C4149 0 (.iremN32 3 4 5) && reads 0x080C414C 0 (.imaxI32 3 4 5) &&
      reads 0x080C400E 0 (.iabs 3 4) && reads 0x080C4150 0 (.and 3 4 5) && reads 0x080C4156 0 (.shf 3 4 5) && reads 0x080C4018 0 (.popc 3 4) &&
      reads 0x080C415C 0 (.bfeN32 3 4 5) && reads 0x080C4162 0 (.sel 3 4 5 2) && reads 0x0804416E 0 (.icmp 1 4 5 .lo) && reads 0x08082130 0 (.ladd 2 2 4) &&
      reads 0x08085071 0 (.mov 2 5 false true) && reads 0x080800B1 0 (.mov 2 0 true false)) = true := by decide +kernel
/-- The literal's sub-code is 2 (log entry 26). -/
theorem test_decode_immediates :
    (reads 0x090C4FFF 0 (.iaddi 3 4 0xFFF) && reads 0x0B0C47FF 0 (.ori 3 4 0x7FF) && reads 0x0C0C4FFF 0 (.xori 3 4 0xFFF) && reads 0x0D0C4004 0 (.shlImm 3 4 4) &&
      reads 0x0D0C4408 0 (.shrImm 3 4 8) && reads 0x0D0C481F 0 (.sarImm 3 4 31) && reads 0x0E0CFFFE 0 (.movi 3 0xFFFE) && reads 0x0E0D3FC0 0 (.movh 3 0x3FC0) &&
      reads 0x0E1A0000 0x3FC00000 (.lit 6 0x3FC00000) && reads 0x0F082FF8 0 (.laddi 2 2 0xFF8)) = true := by decide +kernel
theorem test_decode_float :
    (reads 0x100C4143 0 (.fadd 3 4 5 .rd) && reads 0x100C4145 0 (.fsub 3 4 5 .rz) && reads 0x100C414E 0 (.ffma 3 4 5 .ru) && reads 0x100C4150 0 (.fmin 3 4 5) &&
      reads 0x10044159 0 (.fcmp 1 4 5 .lt) && reads 0x100C4020 0 (.fclass 3 4) && reads 0x100C4164 0 (.fadd2Bf16 3 4 5 .rne) && reads 0x100C4170 0 (.fma2F16 3 4 5 .rne) &&
      reads 0x110C4009 0 (.fsqrt 3 4 .rz) && reads 0x110C414C 0 (.fdiv 3 4 5 .rne) && reads 0x110C401C 0 (.fcos 3 4) && reads 0x11184020 0 (.fred 6 4)) = true := by
  decide +kernel
theorem test_decode_conversion_and_planes :
    (reads 0x120C4488 0 (.cvt 3 4 18 .rne true 0) && reads 0x120C4E42 0 (.cvtF32Mx 3 4 1 .rne 2) && reads 0x13204149 0 (.dqmx 8 4 5 1) && reads 0x132201D0 0 (.qmx 8 32 7 2) &&
      reads 0x13210002 0 (.pslice 8 16) && reads 0x13608103 0 (.pmerge 24 8 4)) = true := by decide +kernel
theorem test_decode_exchange :
    (reads 0x140C4144 0 (.shfl 3 4 5 .rot 0) && reads 0x140C40D6 0 (.shflImm 3 4 3 .rot 2) && reads 0x140C4FDC 0 (.shflImm 3 4 0x3F .edge 0) && reads 0x14042021 0 (.voteAnd 1 2) &&
      reads 0x140C2024 0 (.voteFirst 3 2) && reads 0x140C4030 0 (.vmatch 3 4)) = true := by decide +kernel
theorem test_decode_memory :
    (reads 0x1B184AFF 0 (.ldB64 6 4 .device .acq true 0x3F) && reads 0x180C461F 0 (.ldB8 3 4 .cluster .rlx false 31) && reads 0x200C463F 0 (.stB8 3 4 .cluster .rlx 0x3F) &&
      reads 0x23184D02 0 (.stB64 6 4 .system .rel 2) && reads 0x25189322 0 (.lds 6 9 .b64 1 2) && reads 0x250C9ABF 0 (.sts 3 9 .b32 5 31) && reads 0x26201000 0 (.qpush 8 1) &&
      reads 0x26300001 0 (.qpop 12 0) && reads 0x27004040 0 (.pref 4 1) && reads 0x27004601 0 (.cinv 4 .cluster) && reads 0x27004C02 0 (.cflush 4 .system)) = true := by
  decide +kernel
theorem test_decode_accumulators_and_matrix :
    (reads 0x30210061 0 (.kadd 2 4 .e4m3) && reads 0x30210543 0 (.kdot2 2 4 5 .f16) && reads 0x3020C007 0 (.kmrgNeg 2 3) && reads 0x3021890A 0 (.kseg 2 6 9) &&
      reads 0x3021846C 0 (.krnd 2 6 true .rne .e4m3) && reads 0x31211582 0 (.kld 2 4 .device .acq true 2) && reads 0x31213602 0 (.kst 2 4 .device .rel 2) &&
      reads 0x34041830 0 (.mxa 0 16 24 1 2) && reads 0x34000009 0 (.mxz 0 1) && reads 0x34080002 0 (.mxrd 32 0 0) && reads 0x3401000B 0 (.mxsp 4 0 1) &&
      reads 0x3401000C 0 (.mxfl 4 0 1) && reads 0x38008000 0 (.launch 8) && reads 0x38004041 0 (.smodeQueue 4)) = true := by decide +kernel
/-- The words of R316 and R330; ATOM and CAS with an extension put together from their fields: scope 6 and 5, order 3 and 0, O, SIZE, OP, IMM. -/
theorem test_decode_two_words :
    (reads 0x28FC81C0 0x28A00010 (.atomNr 8 7 .add .b32 false .device .rlx 16) && reads 0x28084180 0x3738FFF8 (.atom 2 4 6 .exch .b64 true .system .ar 0xFFF8) &&
      reads 0x29084188 0x28200004 (.cas 2 4 6 8 .b32 false .device .rlx 4) && reads 0x2A004187 0x2C090100 (.aaccMul 4 6 7 .bf16 .device .rel 0x100) &&
      reads 0x2A00E400 0x28000000 (.aacc 14 16 .f32 .device .rlx 0) && reads 0x2B004000 0x28000000 (.amrg 4 0 .device .rlx 0) && reads 0x2C010000 0x28000000 (.cpy 16 .device) &&
      reads 0x2D010000 0x28000000 (.gthr 16 .device) && reads 0x2E004000 0x28000001 (.coll 4 1 .device) && reads 0x2E0C0000 0x00010001 (.collw 3 1) &&
      reads 0x2F0C4000 0 (.rowpin 3 4) && reads 0x2F004000 0x00010000 (.rowrel 4) && reads 0x2F000000 0x00020000 .rowrelAll && reads 0x2F0C4000 0x00030000 (.rowqry 3 4)) = true := by
  decide +kernel
/-- Reserved majors, minors, codes and fields that must be zero are refused (R14, R17, R51, R315, R327 to R335). -/
theorem test_decode_refuses_reserved :
    ([(0x15000000, 0), (0x3F000000, 0), (0x00000004, 0), (0x00000041, 0), (0x03030000, 0), (0x04000E88, 0), (0x18004E00, 0), (0x30210521, 0), (0x302100C1, 0),
      (0x250C9500, 0), (0x0D0C4C04, 0), (0x0E0F0000, 0), (0x28084180, 0x07290000), (0x2F000000, 0x00040000), (0x080C4019 + 0x40, 0), (0x28000000, 0x80000000),
      (0x28084180, 0x00A00000)] : List (Nat × Nat)).filter (fun w => !refuses w.1 w.2) = [] := by decide +kernel
/-- The C and S bits of the head word (R310). -/
theorem test_decode_header : decodeHdr 0x8C000000 = { c := true, s := false } ∧ decodeHdr 0x40000000 = { c := false, s := true } := by decide +kernel
/-- Every word form decodes from its own bytes. -/
theorem test_encode_decode :
    words.all (fun i => match decodeBytes (encodeBytes { c := false, s := true } i ++ [1, 2, 3]) with | .ok r => r == ({ c := false, s := true }, i, [1, 2, 3]) | .error _ => false) = true := by
  decide +kernel
/-- Event rows have no word. -/
theorem test_events_have_no_word : decodeTableWord 32 0x080C4140 = some (.iadd 3 4 5) ∧ decodeTableWord 64 (0x3FC00000 * 2 ^ 32 + 0x0E1A0000) = some (.lit 6 0x3FC00000) ∧
    decodeTableWord 32 0x3F000000 = none := by decide +kernel

/-! ## What a word does in a lane: the spec's worked values -/

/-- v[n] of lane 0 after the word, with some v registers set before it. -/
def gives (i : Instr) (xs : List (Nat × Word)) (n : Nat) (w : Word) : Bool := runV i xs fun l => l.v! n == w
/-- The flags that the word leaves in the group's %fflags. -/
def flags (i : Instr) (xs : List (Nat × Word)) (f : Flags) : Bool :=
  after i (stV xs) fun t => (t.group? ⟨0, 0, 0⟩).elim false fun g => g.fflags == f
/-- The deferred result that the word notes: the registers, as numbers and values, and the flags. -/
def notes (i : Instr) (xs : List (Nat × Word)) (r : List (Nat × Word)) (f : Flags) : Bool :=
  runV i xs fun l => match l.deferred with | [d] => d.vdst == r && d.flags == f && d.wait == .ready && l.pc == lane0.pc + 4 | _ => false
def raises (i : Instr) (s : State) (t : TrapReq) : Bool := after i s fun u => u == s.raise (s.lead.getD lane0) t

theorem test_products : (gives (.imul 3 4 5) [(4, 0xFFFFFFFF), (5, 2)] 3 0xFFFFFFFE && gives (.imulhI32 3 4 5) [(4, 0xFFFFFFFF), (5, 2)] 3 0xFFFFFFFF &&
    gives (.imulhN32 3 4 5) [(4, 0xFFFFFFFF), (5, 2)] 3 1 && gives (.imad 3 4 5) [(3, 1), (4, 0xFFFFFFFF), (5, 3)] 3 0xFFFFFFFE) = true := by decide +kernel
theorem test_sums : (gives (.iadd 3 4 5) [(4, 0xFFFFFFFF), (5, 4)] 3 3 && gives (.isub 3 4 5) [(4, 1), (5, 2)] 3 0xFFFFFFFF && gives (.iaddi 3 4 0x800) [] 3 0xFFFFF800 &&
    gives (.ladd 2 2 4) [(2, 0xFFFFFFFF), (3, 5), (4, 0xFFFFFFFE)] 2 0xFFFFFFFD && gives (.ladd 2 2 4) [(2, 0), (3, 5), (4, 0xFFFFFFFE)] 3 4 &&
    gives (.laddi 2 2 0xFF8) [(2, 0), (3, 0)] 3 0xFFFFFFFF) = true := by decide +kernel
/-- R421: -7 by 2, 0xFFFFFFF9 by 2, a zero divisor and -2^31 by -1. -/
theorem test_divisions : (gives (.idivI32 3 4 5) [(4, 0xFFFFFFF9), (5, 2)] 3 0xFFFFFFFD && gives (.iremI32 3 4 5) [(4, 0xFFFFFFF9), (5, 2)] 3 0xFFFFFFFF &&
    gives (.idivN32 3 4 5) [(4, 0xFFFFFFF9), (5, 2)] 3 0x7FFFFFFC && gives (.iremN32 3 4 5) [(4, 0xFFFFFFF9), (5, 2)] 3 1 &&
    gives (.idivI32 3 4 5) [(4, 0x80000000), (5, 0xFFFFFFFF)] 3 0x80000000 && gives (.iremI32 3 4 5) [(4, 7)] 3 7 && gives (.idivN32 3 4 5) [(4, 7)] 3 0xFFFFFFFF &&
    gives (.iremN32 3 4 5) [(4, 7)] 3 7) = true := by decide +kernel
/-- R418: a = 0xFFFFFFFF and b = 1. -/
theorem test_smaller_and_larger : (gives (.iminI32 3 4 5) [(4, 0xFFFFFFFF), (5, 1)] 3 0xFFFFFFFF && gives (.iminN32 3 4 5) [(4, 0xFFFFFFFF), (5, 1)] 3 1 &&
    gives (.imaxI32 3 4 5) [(4, 0xFFFFFFFF), (5, 1)] 3 1 && gives (.imaxN32 3 4 5) [(4, 0xFFFFFFFF), (5, 1)] 3 0xFFFFFFFF && gives (.iabs 3 4) [(4, 0x80000000)] 3 0x80000000 &&
    gives (.iabs 3 4) [(4, 0xFFFFFFFF)] 3 1) = true := by decide +kernel
theorem test_logic : (gives (.and 3 4 5) [(4, 0xC), (5, 0xA)] 3 8 && gives (.or 3 4 5) [(4, 0xC), (5, 0xA)] 3 0xE && gives (.xor 3 4 5) [(4, 0xC), (5, 0xA)] 3 6 &&
    gives (.andi 3 4 0xFF0) [(4, 0x1234567F)] 3 0x12345670 && gives (.ori 3 4 0x7FF) [(4, 0x80000000)] 3 0x800007FF && gives (.xori 3 4 0xFFF) [(4, 0xF)] 3 0xFFFFFFF0 &&
    gives (.sel 3 4 5 2) [(4, 1), (5, 2)] 3 2 && gives (.sel 3 4 5 0) [(4, 1), (5, 2)] 3 1) = true := by decide +kernel
/-- R479: the pair 0x00000123456789AB shifted right by 8, and amounts of the width and more. -/
theorem test_shifts : (gives (.shf 4 5 6) [(4, 0x456789AB), (5, 0x123), (6, 8)] 4 0x23456789 && gives (.shr 5 5 6) [(5, 0x123), (6, 8)] 5 1 && gives (.shl 3 4 5) [(4, 1), (5, 32)] 3 0 &&
    gives (.shl 3 4 5) [(4, 1), (5, 0x80000001)] 3 0 && gives (.sar 3 4 5) [(4, 0x80000000), (5, 99)] 3 0xFFFFFFFF && gives (.shf 3 4 5) [(3, 1), (4, 7), (5, 32)] 3 7 &&
    gives (.shlImm 3 4 31) [(4, 3)] 3 0x80000000 && gives (.shrImm 3 4 8) [(4, 0xFFFFFFFF)] 3 0x00FFFFFF && gives (.sarImm 3 4 31) [(4, 0x80000000)] 3 0xFFFFFFFF) = true := by decide +kernel
/-- R359, R360, R364, R373, R467. -/
theorem test_bits : (gives (.bfeN32 3 4 5) [(4, 0x0000F0A5), (5, 0x0808)] 3 0xF0 && gives (.bfeI32 3 4 5) [(4, 0x0000F0A5), (5, 0x0808)] 3 0xFFFFFFF0 &&
    gives (.bfi 3 4 5) [(3, 0xFFFFFFFF), (4, 0), (5, 0x0408)] 3 0xFFFFF0FF && gives (.popc 3 4) [(4, 0xF0F00001)] 3 9 && gives (.clz 3 4) [(4, 0x00010000)] 3 15 &&
    gives (.clz 3 4) [] 3 32 && gives (.brev 3 4) [(4, 0x00000003)] 3 0xC0000000) = true := by decide +kernel
/-- R448, R452, R453: `movi v3, 0` and `movh v3, 0x3FC0` leave 1.5. -/
theorem test_moves : (gives (.movi 3 0xFFFE) [] 3 0xFFFFFFFE && gives (.movh 3 0x3FC0) [] 3 0x3FC00000 && gives (.lit 6 0x3FC00000) [] 6 0x3FC00000 && gives (.mov 3 4 false false) [(4, 9)] 3 9 &&
    after (.mov 2 5 false true) (stV [(5, 7)]) (fun t => (t.group? ⟨0, 0, 0⟩).elim false fun g => g.g[2] == 7 && g.g[5] == 0) &&
    runV (.lit 6 1) [] (fun l => l.pc == lane0.pc + 8)) = true := by decide +kernel
theorem test_comparisons : (runV (.icmp 1 4 5 .lt) [(4, 0xFFFFFFFF), (5, 1)] (fun l => l.getP 1) && runV (.icmp 1 4 5 .lo) [(4, 0xFFFFFFFF), (5, 1)] (fun l => !l.getP 1) &&
    runV (.icmp 0 4 5 .ne) [] (fun l => l.getP 0 && l.p == 1) && runV (.fcmp 1 4 5 .lt) [(4, 0x80000000)] (fun l => !l.getP 1) &&
    runV (.fcmp 1 4 5 .eq) [(4, 0x80000000)] (fun l => l.getP 1) && runV (.fcmp 1 4 5 .un) [(4, 0x7FC00000)] (fun l => l.getP 1) &&
    flags (.fcmp 1 4 5 .lt) [(4, 0x7FC00000)] flagNV && flags (.fcmp 1 4 5 .eq) [(4, 0x7FC00000)] 0) = true := by decide +kernel
/-- R396: the single rounding of FFMA, and the two roundings of a product and a sum. -/
theorem test_fused_product : (gives (.ffma 3 4 5 .rne) [(3, 0xBF801000), (4, 0x3F800800), (5, 0x3F800800)] 3 0x33800000 &&
    flags (.ffma 3 4 5 .rne) [(3, 0xBF801000), (4, 0x3F800800), (5, 0x3F800800)] 0 && gives (.fmul 3 4 5 .rne) [(4, 0x3F800800), (5, 0x3F800800)] 3 0x3F801000 &&
    flags (.fmul 3 4 5 .rne) [(4, 0x3F800800), (5, 0x3F800800)] flagNX) = true := by decide +kernel
theorem test_float_sums : (gives (.fadd 3 4 5 .rne) [(4, 0x3F800000), (5, 0x33800000)] 3 0x3F800000 && gives (.fadd 3 4 5 .ru) [(4, 0x3F800000), (5, 0x33800000)] 3 0x3F800001 &&
    gives (.fsub 3 4 5 .rd) [(4, 0x3F800000), (5, 0x3F800000)] 3 0x80000000 && gives (.fsub 3 4 5 .rz) [(4, 0x40400000), (5, 0x3F800000)] 3 0x40000000 &&
    flags (.fmul 3 4 5 .rne) [(4, 0x7F000000), (5, 0x7F000000)] (flagOF ||| flagNX)) = true := by decide +kernel
/-- R395: halves 3.0 and 1.0 plus 0.5 and 2^-8. -/
theorem test_paired_forms : (gives (.fadd2Bf16 3 4 5 .rne) [(4, 0x40403F80), (5, 0x3F003B80)] 3 0x40603F80 && gives (.fadd2Bf16 3 4 5 .ru) [(4, 0x40403F80), (5, 0x3F003B80)] 3 0x40603F81 &&
    gives (.fadd2F16 3 4 5 .rne) [(4, 0x3C004000), (5, 0x3C003C00)] 3 0x40004200 && gives (.fma2Bf16 3 4 5 .rne) [(3, 0x3F803F80), (4, 0x40004040), (5, 0x3F804000)] 3 0x404040E0 &&
    gives (.fma2F16 3 4 5 .rne) [(3, 0), (4, 0x40004200), (5, 0x40003C00)] 3 0x44004200) = true := by decide +kernel
theorem test_order_and_class : (gives (.fmin 3 4 5) [(4, 0), (5, 0x80000000)] 3 0x80000000 && gives (.fmax 3 4 5) [(4, 0x7FC00000), (5, 1)] 3 1 && gives (.fclass 3 4) [(4, 0xFF800000)] 3 1 &&
    gives (.fclass 3 4) [(4, 0x7F800001)] 3 0x100) = true := by decide +kernel
/-- R383: CVT of 300.0, 460.0, 500.0, 0.001, 2.5 and 3.0 x 10^9. -/
theorem test_conversions : (gives (.cvt 3 4 0x10 .rne false 0) [(4, 0x43960000)] 3 0x79 && flags (.cvt 3 4 0x10 .rne false 0) [(4, 0x43960000)] flagNX &&
    gives (.cvt 3 4 0x10 .rne false 0) [(4, 0x43E60000)] 3 0x7E && gives (.cvt 3 4 0x11 .rne false 0) [(4, 0x43FA0000)] 3 0x7F00 && gives (.cvt 3 4 0x10 .rne true 0) [(4, 0x43FA0000)] 3 0x7E &&
    flags (.cvt 3 4 0x10 .rz false 0) [(4, 0x43FA0000)] (flagOF ||| flagNX) && gives (.cvt 3 4 0x10 .rne false 0) [(4, 0x3A83126F)] 3 1 && gives (.cvt 3 4 0 .rne false 0) [(4, 0x40200000)] 3 2 &&
    gives (.cvt 3 4 0 .ru false 0) [(4, 0x40200000)] 3 3 && gives (.cvt 3 4 0 .rne true 0) [(4, 0x4F32D05E)] 3 0x7FFFFFFF && flags (.cvt 3 4 0 .rne false 0) [(4, 0x4F32D05E)] flagNV) = true := by
  decide +kernel
/-- R385: DQMX of 0x017FC038 with scale 2^-1 and 2^127; R470: QMX of 0.75, -0.1 and 2^-12. Both by slots of E4M3. -/
theorem test_blocks : (notes (.dqmx 8 4 5 1) [(4, 0x017FC038), (5, 0x7E)] [(8, 0x3F000000), (9, 0xBF800000), (10, 0x7FC00000), (11, 0x3A800000)] 0 &&
    notes (.dqmx 8 4 5 1) [(4, 0x017FC038), (5, 0xFE)] [(8, 0x7F000000), (9, 0xFF800000), (10, 0x7FC00000), (11, 0x7A800000)] (flagOF ||| flagNX) &&
    notes (.cvtF32Mx 3 4 1 .rne 2) [(3, 0x7E), (4, 0x017FC038)] [(3, 0xBF800000)] 0 &&
    notes (.qmx 8 32 7 2) [(32, 0x3F400000), (33, 0xBDCCCCCD), (34, 0x39800000)]
      [(7, 0x76), (8, 0x0020E57C), (9, 0), (10, 0), (11, 0), (12, 0), (13, 0), (14, 0), (15, 0)] flagNX) = true := by decide +kernel
/-- R466: the planes of the element -37, and PMERGE of four of them. -/
theorem test_planes : (runV (.pslice 8 16) [(16, 0xDB)] (fun l => l.vs 8 8 == [1, 1, 0, 1, 1, 0, 1, 1]) &&
    gives (.pmerge 24 8 4) [(8, 1), (9, 1), (10, 0), (11, 1), (12, 1), (13, 0), (14, 1), (15, 1)] 24 0xD0 &&
    gives (.pmerge 24 8 8) [(8, 1), (9, 1), (10, 0), (11, 1), (12, 1), (13, 0), (14, 1), (15, 1)] 24 0xDB) = true := by decide +kernel
/-- R402 to R406: special operands, exact results, and FRED of 10.0. -/
theorem test_special_functions : (notes (.frcp 3 4) [(4, 0x40000000)] [(3, 0x3F000000)] 0 && notes (.frcp 3 4) [] [(3, 0x7F800000)] flagDZ && notes (.frsq 3 4) [(4, 0x40800000)] [(3, 0x3F000000)] 0 &&
    notes (.fsqrt 3 4 .rz) [(4, 0x40000000)] [(3, 0x3FB504F3)] flagNX && notes (.fdiv 3 4 5 .rne) [(4, 0x3F800000), (5, 0x40400000)] [(3, 0x3EAAAAAB)] flagNX &&
    notes (.fexp2 3 4) [(4, 0x40000000)] [(3, 0x40800000)] 0 && notes (.flog2 3 4) [(4, 0x41000000)] [(3, 0x40400000)] 0 && notes (.fsin 3 4) [(4, 0x7F800000)] [(3, 0x7FC00000)] flagNV &&
    notes (.fcos 3 4) [] [(3, 0x3F800000)] 0 && notes (.fred 6 4) [(4, 0x41200000)] [(6, 0x3F1341C0), (7, 2)] flagNX) = true := by decide +kernel

/-! ## States that meet the hypotheses of the statements

Each theorem names the statement it serves; where it is cheap it also shows what the statement says of the state. -/

theorem witness_BitCountsAndFields : (∃ x : Word, x.getLsbD 31 = true ∧ ∀ j, 31 < j → x.getLsbD j = false) ∧ (∃ x : Word, x.getLsbD 0 = true ∧ ∀ j, 0 < j → x.getLsbD j = false) ∧
    (∃ y : Word, ∃ p n j : Nat, p = min (y.toNat % 256) 32 ∧ n = min (y.toNat / 256 % 256) (32 - p) ∧ j < 32 ∧ j < n ∧ 0 < p) ∧
    ∃ y : Word, ∃ p n j : Nat, p = min (y.toNat % 256) 32 ∧ n = min (y.toNat / 256 % 256) (32 - p) ∧ j < 32 ∧ n = 0 ∧ p = 32 := by
  refine ⟨⟨0x80000000, by decide, fun j h => BitVec.getLsbD_of_ge _ _ (by omega)⟩, ⟨1, by decide, fun j h => ?_⟩, ⟨0xFF08, 8, 24, 23, by decide⟩, 0x0140, 32, 0, 31, by decide⟩
  simp [BitVec.getLsbD_one]; omega
theorem witness_Division : (∃ x y : Word, y ≠ 0 ∧ ¬(x = 0x80000000 ∧ y = 0xFFFFFFFF) ∧ x = 0x80000000) ∧ (∃ x y : Word, y ≠ 0 ∧ ¬(x = 0x80000000 ∧ y = 0xFFFFFFFF) ∧ y = 0xFFFFFFFF) ∧
    ∃ y : Word, y ≠ 0 := ⟨⟨0x80000000, 1, by decide⟩, ⟨0x80000001, 0xFFFFFFFF, by decide⟩, 1, by decide⟩
theorem witness_ComparesPairsAndMoves : pairOk 0 = true ∧ pairOk 62 = true ∧ (62 : VReg) + 1 = 63 ∧ legal st (.ladd 62 0 1) = true ∧ legal st (.laddi 0 62 0) = true ∧
    [(false, false), (true, false), (false, true), (true, true)].all (fun e => legal st (.mov 15 15 e.1 e.2)) = true := by decide +kernel

/-! Values of binary32, binary16 and E4M3 elements, as the statements take them. -/

theorem finite_of {f : Fmt} {b : Nat} (n : Bool) (m : Nat) (e : Int) (h : f.decode b = .fin n m e) : finite? f b = some ((if n then -1 else 1) * m * (2 : ℚ) ^ e) := by
  simp only [finite?, h]
theorem finite_one : finite? fmtF32 0x3F800000 = some 1 := by
  rw [finite_of false 8388608 (-23) (by decide +kernel)]; norm_num
theorem finite_two : finite? fmtF32 0x40000000 = some 2 := by
  rw [finite_of false 8388608 (-22) (by decide +kernel)]; norm_num
theorem finite_three : finite? fmtF32 0x40400000 = some 3 := by
  rw [finite_of false 12582912 (-22) (by decide +kernel)]; norm_num
theorem finite_minus_two : finite? fmtF32 0xC0000000 = some (-2) := by
  rw [finite_of true 8388608 (-22) (by decide +kernel)]; norm_num
theorem finite_zero : finite? fmtF32 0 = some 0 ∧ finite? fmtF32 0x80000000 = some 0 := by
  constructor <;> simp only [finite?, show fmtF32.decode 0 = .zero false by decide +kernel, show fmtF32.decode 0x80000000 = .zero true by decide +kernel]
/-- The largest and the smallest magnitudes of binary32. -/
theorem finite_largest : finite? fmtF32 0x7F7FFFFF = some (16777215 * 2 ^ 104) := by
  rw [finite_of false 16777215 104 (by decide +kernel)]; norm_num
theorem finite_smallest : finite? fmtF32 1 = some ((2 : ℚ) ^ (-149 : Int)) := by
  rw [finite_of false 1 (-149) (by decide +kernel)]; norm_num
theorem finite_half_precision : finite? fmtF16 0x3C00 = some 1 ∧ finite? fmtF16 0xFBFF = some (-65504) ∧ finite? fmtBf16 0x3F80 = some 1 ∧ finite? fmtBf16 0x7F7F = some (255 * 2 ^ 120) := by
  refine ⟨?_, ?_, ?_, ?_⟩
  · rw [finite_of false 1024 (-10) (by decide +kernel)]; norm_num
  · rw [finite_of true 2047 5 (by decide +kernel)]; norm_num
  · rw [finite_of false 128 (-7) (by decide +kernel)]; norm_num
  · rw [finite_of false 255 120 (by decide +kernel)]; norm_num

theorem witness_RoundedOnceFromExact :
    (∃ x y z u v w, x < 2 ^ fmtF32.width ∧ y < 2 ^ fmtF32.width ∧ z < 2 ^ fmtF32.width ∧ finite? fmtF32 x = some u ∧ finite? fmtF32 y = some v ∧ finite? fmtF32 z = some w ∧
      u + v ≠ 0 ∧ u - v ≠ 0 ∧ u * v ≠ 0 ∧ u * v + w ≠ 0) ∧
    (∃ x y z u v w, x < 2 ^ fmtF16.width ∧ y < 2 ^ fmtF16.width ∧ z < 2 ^ fmtF16.width ∧ finite? fmtF16 x = some u ∧ finite? fmtF16 y = some v ∧ finite? fmtF16 z = some w ∧
      u + v ≠ 0 ∧ u - v ≠ 0 ∧ u * v ≠ 0 ∧ u * v + w ≠ 0) ∧
    ∃ x y z u v w, x < 2 ^ fmtBf16.width ∧ y < 2 ^ fmtBf16.width ∧ z < 2 ^ fmtBf16.width ∧ finite? fmtBf16 x = some u ∧ finite? fmtBf16 y = some v ∧ finite? fmtBf16 z = some w ∧
      u + v ≠ 0 ∧ u - v ≠ 0 ∧ u * v ≠ 0 ∧ u * v + w ≠ 0 :=
  ⟨⟨0x7F7FFFFF, 1, 1, _, _, _, by decide, by decide, by decide, finite_largest, finite_smallest, finite_smallest, by norm_num, by norm_num, by norm_num, by norm_num⟩,
   ⟨0xFBFF, 0x3C00, 0x3C00, _, _, _, by decide, by decide, by decide, finite_half_precision.2.1, finite_half_precision.1, finite_half_precision.1, by norm_num, by norm_num, by norm_num, by norm_num⟩,
   0x7F7F, 0x3F80, 0x3F80, _, _, _, by decide, by decide, by decide, finite_half_precision.2.2.2, finite_half_precision.2.2.1, finite_half_precision.2.2.1, by norm_num, by norm_num, by norm_num, by norm_num⟩
theorem witness_RoundingIsCorrect : formats.length = 6 ∧ 0 < 1 ∧ (fmtE4m3.round .rne false (.fin false 29 4)).1 = 0x7E ∧ (fmtE4m3.round .rne true (.fin false 500 0)).2 &&& flagOF ≠ 0 := by decide +kernel
theorem witness_RoundingCorners : (0x7E < 2 ^ fmtE4m3.width ∧ (fmtE4m3.decode 0x7E).isNan = false) ∧ (0x7F800000 < 2 ^ fmtF32.width ∧ (fmtF32.decode 0x7F800000).isNan = false) ∧
    ((fmtF32.decode 0x7F800001).isNan = true ∧ (fmtF32.decode 0x7F800001).isSig = true) ∧ (fmtF32.decode 0xFFFFFFFF).isNan = true ∧ (fmtF32.decode 0xFFFFFFFF).isSig = false ∧
    ∃ u, finite? fmtF32 0x7F7FFFFF = some u ∧ u ≠ 0 :=
  ⟨by decide +kernel, by decide +kernel, by decide +kernel, by decide +kernel, by decide +kernel, _, finite_largest, by norm_num⟩
theorem witness_FloatOrderAndClass : (∃ x y : Word, (fmtF32.decode x.toNat).isNan = true ∧ (fmtF32.decode y.toNat).isNan = false) ∧
    (∃ x y : Word, ∃ u v, finite? fmtF32 x.toNat = some u ∧ finite? fmtF32 y.toNat = some v ∧ u < v) ∧ (fmtF32.decode 0xFF800000).isNan = false ∧ (fmtF32.decode 0x7FFFFFFF).isNan = true :=
  ⟨⟨0x7F800001, 0x7F800000, by decide +kernel⟩, ⟨1, 0x7F7FFFFF, _, _, finite_smallest, finite_largest, by norm_num⟩, by decide +kernel, by decide +kernel⟩
theorem witness_Conversions : ((List.range 0x0C ++ [0x10, 0x11, 0x12, 0x13, 0x30, 0x31, 0x32, 0x33, 0x34, 0x37]).all fun k => !reservedUse (.cvt 0 1 (Fin.ofNat 64 k) .rne false 0)) = true ∧
    reservedUse (.cvt 0 1 0 .rd true 0) = false ∧ (∃ u, finite? fmtF32 0x4F000000 = some u ∧ (2 : ℚ) ^ 31 ≤ u) ∧
    (∃ u : ℚ, ∃ i : Int, finite? fmtF32 0xCF000000 = some u ∧ u = ((i : Int) : ℚ) ∧ -2 ^ 31 ≤ i ∧ i < 2 ^ 31) ∧
    (∃ u : ℚ, ∃ i : Int, finite? fmtF32 0x4EFFFFFF = some u ∧ u = ((i : Int) : ℚ) ∧ -2 ^ 31 ≤ i ∧ i < 2 ^ 31) ∧ ∃ u, finite? fmtF16 (half 0xFBFF3C00 1) = some u :=
  ⟨by decide +kernel, by decide +kernel, ⟨2 ^ 31, by rw [finite_of false 8388608 8 (by decide +kernel)]; norm_num, by norm_num⟩,
   ⟨-2 ^ 31, -2 ^ 31, by rw [finite_of true 8388608 8 (by decide +kernel)]; norm_num, by norm_num⟩,
   ⟨2147483520, 2147483520, by rw [finite_of false 16777215 7 (by decide +kernel)]; norm_num, by norm_num⟩, _, finite_half_precision.2.1⟩
theorem witness_SpecialFunctionCorners : ((fmtF32.decode 0x7F800001).isNan = true) ∧ (∃ x : Word, x.getLsbD 31 = true ∧ x ≠ 0x80000000 ∧ x.toNat ≤ 0xFF800000 ∧ x = 0x80000001) ∧
    (∃ x : Word, x.getLsbD 31 = true ∧ x ≠ 0x80000000 ∧ x.toNat ≤ 0xFF800000 ∧ x = 0xFF800000) ∧ (∃ u, finite? fmtF32 0xC0000000 = some u ∧ u ≠ 0) ∧
    (∃ u, finite? fmtF32 0x00200000 = some u ∧ u ≠ 0 ∧ |u| ≤ (2 : ℚ) ^ (-128 : Int)) ∧ (∃ u, finite? fmtF32 0x43000000 = some u ∧ 128 ≤ u) ∧ ∃ u, finite? fmtF32 0xC3160000 = some u ∧ u ≤ -150 :=
  ⟨by decide +kernel, ⟨_, by decide, by decide, by decide, rfl⟩, ⟨_, by decide, by decide, by decide, rfl⟩, ⟨-2, finite_minus_two, by norm_num⟩,
   ⟨_, finite_of false 2097152 (-149) (by decide +kernel), by norm_num, by norm_num⟩, ⟨_, finite_of false 8388608 (-16) (by decide +kernel), by norm_num⟩,
   _, finite_of true 9830400 (-16) (by decide +kernel), by norm_num⟩
theorem witness_QuotientAndRootRounded : (∃ x y : Word, ∃ u v, finite? fmtF32 x.toNat = some u ∧ finite? fmtF32 y.toNat = some v ∧ u ≠ 0 ∧ v ≠ 0 ∧ 0 < u) ∧
    (∃ u, ∃ e : Int, finite? fmtF32 0x3F800000 = some u ∧ (2 : ℚ) ^ e ≤ |1 / u| ∧ |1 / u| < (2 : ℚ) ^ (e + 1) ∧ e < 128) ∧
    ∃ u, ∃ e : Int, finite? fmtF32 0x7F7FFFFF = some u ∧ (2 : ℚ) ^ e ≤ |1 / u| ∧ |1 / u| < (2 : ℚ) ^ (e + 1) ∧ e = -128 :=
  ⟨⟨0x40400000, 1, _, _, finite_three, finite_smallest, by norm_num, by norm_num, by norm_num⟩, ⟨1, 0, finite_one, by norm_num⟩,
   ⟨_, -128, finite_largest, by norm_num, by rw [abs_of_pos (by norm_num)]; norm_num, rfl⟩⟩

/-- A deferred FRCP whose result 7 for v3 has returned with NX. -/
def def0 : Deferred := { n := 0, pc := 0x10040, instr := .frcp 3 4, srcs := [], vdst := [(3, 7)], kdst := [], touched := [], kcar := 0, flags := flagNX, sounded := 0, wait := .ready }
def laneD : Lane := { lane0 with deferred := [def0], nextDef := 1 }

theorem witness_DeferredResultReturns :
    let s := stL [laneD]
    s.lane? ⟨0, 0, 0⟩ = some laneD ∧ laneD.id = ⟨0, 0, 0⟩ ∧ laneD.deferred.find? (fun e => e.n == 0) = some def0 ∧ def0.wait = .ready ∧ def0.kdst = [] ∧ def0.sounded = 0 ∧
      s.isFrozen laneD.quarter = false ∧ laneD.marker = false ∧ laneD.trap = none ∧ laneD.stepPend = none ∧ (∀ m ∈ s.lanes, m.pfault = none) ∧
      after (.deferredResultWrite ⟨0, 0, 0⟩ 0) s (fun t => (t.lane? ⟨0, 0, 0⟩).elim false (fun l => l.v! 3 == 7 && l.deferred.isEmpty) &&
        (t.group? ⟨0, 0, 0⟩).elim false fun g => g.fflags == flagNX) = true := by decide +kernel
/-- R429: KIADD of -3 with scale -2 after KCLR, by KRND and KSTAT; KSEG of R439 for -0.5. -/
theorem test_accumulators :
    let r : LA := { LA0 with em := false, nz := true, val := -(3 * 2 ^ 296) }
    let h : LA := { LA0 with em := false, nz := true, val := -(2 ^ 297) }
    let s := fun x : LA => stL [lane0.setK 2 x]
    let noted := fun (i : Instr) (u : State) (w : Word) => after i u fun t => (t.lane? ⟨0, 0, 0⟩).elim false fun l => match l.deferred with | [d] => d.vdst == [(6, w)] | _ => false
    (runV (.kiadd 2 4 5) [(4, 0xFFFFFFFD), (5, 0xFFFFFFFE)] (fun l => l.getK 2 == r) && noted (.krnd 2 6 false .rne .f32) (s r) 0xBF400000 && noted (.kstat 2 6) (s r) 8 &&
      noted (.kseg 2 6 8) (s h) 0 && noted (.kseg 2 6 9) (s h) 0xFFFFFE00 && noted (.kseg 2 6 19) (s h) 0xFFFFFFFF) = true := by decide +kernel
/-- The four BF16 products of chapter 01's worked example sum to 3, in KFMA's and KDOT2's and KMRG's way; KADD, KDOT4, KSCL, KNORM. -/
theorem test_accumulator_words :
    let a := LA0
    let one : LA := { LA0 with em := false, nz := true, val := 2 ^ 298 }
    let k := fun (i : Instr) (x y : LA) (vs : List (Nat × Word)) (w : LA) =>
      after i (stL [((withV lane0 vs).setK 2 x).setK 3 y]) fun t => (t.lane? ⟨0, 0, 0⟩).elim false fun l => l.getK 2 == w
    (k (.kfma 2 4 5 .bf16) a a [(4, 0x4040), (5, 0x3F00)] { one with val := 3 * 2 ^ 297 } && k (.kdot2 2 4 5 .bf16) a a [(4, 0x40404580), (5, 0x3F00C580)] { one with val := 3 * 2 ^ 297 - 2 ^ 322 } &&
      k (.kdot4 2 4 5 .e4m3) a a [(4, 0x38383838), (5, 0x384038B8)] { one with val := 3 * 2 ^ 298 } && k (.kmrg 2 3) one one [] { one with val := 2 ^ 299 } &&
      k (.kmrgNeg 2 3) one one [] { one with val := 0 } && k (.kadd 2 4 .f32) a a [(4, 0xBF800000)] { one with val := -(2 ^ 298) } && k (.kscl 2 4) one a [(4, 0xFFFFFFFF)] { one with val := 2 ^ 297 } &&
      k (.knorm 2) one a [] one && k (.kclr 2) one a [] LA0) = true := by decide +kernel
theorem witness_AccumulatorAlgebra : 0 < 1 ∧ (-298 : Int) ≤ -298 ∧ (((-1 : Int) : ℚ) = (if true then -1 else 1) * ((1 : ℕ) : ℚ) * (2 : ℚ) ^ (-298 : Int) * (2 : ℚ) ^ (298 : Nat)) ∧
    (Machine.Num.nan true).isNan = true ∧ (Machine.Num.fin true 1 0).isNan = false ∧ (∀ j, Machine.Num.fin true 1 0 ≠ .zero j) ∧ (∀ j, Machine.Num.fin true 1 0 ≠ .inf j) ∧
    [Machine.Num.zero true, .inf false].Perm [.inf false, .zero true] ∧ 3 ∈ [2, 3] ∧ 1 ∈ [0, 1] :=
  ⟨by decide, by decide, by norm_num, by decide, by decide, by simp, by simp, List.Perm.swap _ _ _, by decide, by decide⟩
theorem witness_AccumulatorImageAndRounding : (∃ a : LA, a.nv = false ∧ a.pi = false ∧ a.ni = false ∧ a.val ≠ 0 ∧ a.val = BitVec.intMin 640) ∧ (∃ a : LA, a.nv = true ∨ (a.pi = true ∧ a.ni = true)) ∧
    (∃ a : LA, a.nv = false ∧ a.pi = true ∧ a.ni = false) ∧ (∃ a : LA, a.nv = false ∧ a.pi = false ∧ a.ni = true) ∧ (LA0.nv = false ∧ LA0.pi = false ∧ LA0.ni = false ∧ LA0.val = 0) ∧
    roundLa LA0 fmtF32 .rne false = (0, 0) ∧ laOfImage (laImage { LA0 with val := BitVec.intMin 640, pi := true }) = { LA0 with val := BitVec.intMin 640, pi := true } :=
  ⟨⟨{ LA0 with val := BitVec.intMin 640 }, by decide +kernel⟩, ⟨{ LA0 with pi := true, ni := true }, by decide +kernel⟩, ⟨{ LA0 with pi := true }, by decide +kernel⟩, ⟨{ LA0 with ni := true }, by decide +kernel⟩, by decide +kernel,
    by decide +kernel, by decide +kernel⟩
theorem witness_BlocksAndPlanes :
    (([.zero false, .nan false] : List Machine.Num).any fun x => match x with | .nan _ => true | .inf _ => true | _ => false) = true ∧
    (([.zero true] : List Machine.Num) ≠ [] ∧ ∀ x ∈ ([.zero true] : List Machine.Num), ∃ n, x = .zero n) ∧
    (Machine.Num.fin true 3 (-2) ∈ ([.zero true, .fin true 3 (-2), .fin false 1 (-1)] : List Machine.Num) ∧ 0 < 3 ∧
      ∀ x ∈ ([.zero true, .fin true 3 (-2), .fin false 1 (-1)] : List Machine.Num), match x with
        | .zero _ => True
        | .fin _ m' e' => 0 < m' ∧ (Nat.log2 m' : Int) + e' ≤ (Nat.log2 3 : Int) + -2
        | .nan _ | .inf _ => False) ∧ ([0xDB, 0, 0, 0, 0, 0, 0, 0x80000000] : List Word).length = 8 ∧
    planeValue ((List.range 4).map (planeOf [0xDB, 0, 0, 0, 0, 0, 0, 0x80000000])) 0 = -48 ∧ planeValue ((List.range 2).map (planeOf [0xDB, 0, 0, 0, 0, 0, 0, 0x80000000])) 31 = -128 := by
  refine ⟨by decide, ⟨by decide, by simp⟩, ⟨by simp, by decide, ?_⟩, by decide, by decide +kernel, by decide +kernel⟩
  intro x hx
  simp only [List.mem_cons, List.not_mem_nil, or_false] at hx
  rcases hx with rfl | rfl | rfl
  · trivial
  · constructor <;> decide +kernel
  · constructor <;> decide +kernel

/-! Exchange: lanes 0 to 5 of a group in one bundle, v4 holding 10 times the slot (R482's example), p2 true in lanes 1 and 3. -/
def stX : State := stL ((List.range 6).map fun n => (withV (laneAt n) [(4, BitVec.ofNat 32 (10 * n))]).setP 2 (n == 1 || n == 3))
def vAll (t : State) (r : Nat) : List Word := t.lanes.map fun l => l.v! r
theorem witness_LaneExchange : legal stX (.shfl 3 4 5 .src 0) = true ∧ Claims.Joined stX ∧ (31 : BitVec 6).toNat < 32 ∧ ¬ (63 : BitVec 6).toNat < 32 ∧
    after (.shflImm 3 4 1 .flip 0) stX (fun t => vAll t 3 == [10, 0, 30, 20, 50, 40]) = true ∧ after (.shflImm 3 4 63 .edge 0) stX (fun t => vAll t 3 == [0, 0, 10, 20, 30, 40]) = true ∧
    after (.shflImm 3 4 4 .src 0) stX (fun t => vAll t 3 == [40, 40, 40, 40, 40, 40]) = true ∧ after (.shfl 3 4 5 .rot 3) stX (fun t => vAll t 3 == [0, 10, 20, 30, 40, 50]) = true := by
  unfold Claims.Joined; decide +kernel
theorem test_votes : (after (.voteOr 1 2) stX (fun t => t.lanes.all fun l => l.getP 1) && after (.voteAnd 1 2) stX (fun t => t.lanes.all fun l => !l.getP 1) &&
    after (.voteMask 3 2) stX (fun t => t.lanes.all fun l => l.v! 3 == 0xA) && after (.voteCount 3 2) stX (fun t => t.lanes.all fun l => l.v! 3 == 2) &&
    after (.voteFirst 3 2) stX (fun t => t.lanes.all fun l => l.v! 3 == 1)) = true := by decide +kernel
/-- R449: v4 holds 7, 9, 7 and 7. -/
theorem test_match : after (.vmatch 3 4) (stL ([7, 9, 7, 7].mapIdx fun n w => withV (laneAt n) [(4, w)])) (fun t => vAll t 3 == [0xD, 2, 0xD, 0xD]) = true := by decide +kernel
/-- A seventh lane of the group is ready at the same word and has not joined: the bundle issues the word again. -/
theorem witness_LaneExchange_absent :
    let s : State := { stX with lanes := stX.lanes ++ [{ laneAt 6 with issuing := false, bundle := none }] }
    legal s (.vmatch 3 4) = true ∧ (∀ l ∈ s.lanes, l.issuing = true → s.absent l = true) ∧
      after (.vmatch 3 4) s (fun t => t.lanes.all fun l => !l.issuing && l.v! 3 == 0 && l.pc == lane0.pc) = true := by decide +kernel

/-! System registers, privilege, draws -/

theorem witness_Sole : Sole st lane0 ∧ Sole stS laneS := by unfold Sole; decide +kernel
theorem witness_SystemRegisterReads : (legal st (.mfs 3 0x010) = true ∧ Actives st fun l => sysMfsOk 0x010 l.sup = true) ∧ (legal stS (.mfs 62 0x103) = true ∧ Actives stS fun l => sysMfsOk 0x103 l.sup = true) ∧
    legal st (.mfs 4 0x014) = true ∧ legal st (.clk 4) = true ∧ st.lead = some lane0 ∧
    after (.mfs 3 0x00D) stS (fun t => (t.lane? ⟨0, 0, 0⟩).elim false fun l => l.v! 3 == 0x11) = true ∧
    after (.clk 4) { st with time := 2 ^ 32 + 5 } (fun t => (t.lane? ⟨0, 0, 0⟩).elim false fun l => l.v! 4 == 5 && l.v! 5 == 1) = true := by
  unfold Actives; decide +kernel
theorem witness_PrivilegeTraps : (legal st (.mfs 2 0x100) = true ∧ sysMfsOk 0x100 lane0.sup = false) ∧ (legal st (.mts 2 0x101) = true ∧ sysMtsOk 0x101 lane0.sup = false) ∧
    (legal stS (.mts 2 0x00B) = true ∧ sysMtsOk 0x00B laneS.sup = false) ∧ (legal st .tret = true ∧ lane0.deferred = [] ∧ lane0.sup = false) ∧
    raises (.mts 2 0x111) st (lane0.causeHere 0x02 1 0x111) = true ∧ raises .tret st (lane0.causeHere 0x02 0 0) = true := by decide +kernel
/-- Writes at supervisor level, of each register that the statement names, and at user level of %fflags and %fix. -/
theorem witness_SystemWrites : (Actives stS fun l => l.sup = true) ∧ [0x100, 0x101, 0x104, 0x108, 0x10B, 0x111, 0x113, 0x116].all (fun r => legal stS (.mts 2 (BitVec.ofNat 12 r))) = true ∧
    legal st (.mts 3 0x010) = true ∧ legal st (.mts 3 0x012) = true ∧ stS.lead = some laneS ∧ laneS.pair 2 = 0 := by unfold Actives; decide +kernel
theorem test_system_writes :
    let s : State := { stS with lanes := [withV laneS [(2, 0xFFFFFFFF), (3, 0x7FFFFFFF)]] }
    (after (.mts 2 0x100) s (fun t => (t.lane? ⟨0, 0, 0⟩).elim false fun l => l.ssw == 0xFFFFFFFF) && after (.mts 2 0x101) s (fun t => (t.lane? ⟨0, 0, 0⟩).elim false fun l => l.epc == 0x7FFFFFFFFFFFFFFF) &&
      after (.mts 2 0x111) s (fun t => (t.lane? ⟨0, 0, 0⟩).elim false fun l => l.ctxsel == 0x7F) && after (.mts 3 0x010) s (fun t => (t.group? ⟨0, 0, 0⟩).elim false fun g => g.fflags == 0x1F) &&
      after (.mts 2 0x109) s (fun t => tget 0 1 (t.part 0).brk == 0x01FFFFFFFFFFFFFF) && after (.mts 2 0x113) s (fun t => (t.part 0).lease == 2) &&
      after (.mts 2 0x116) s (fun t => (t.part 0).colltmo == 0xFFFFFFFF) && after (.mts 2 0x104) stS (fun t => (t.part 0).tvec == 0)) = true := by decide +kernel
/-- R104: SplitMix64's first value for seed 0 and counter 1 is 0xE220A8397B1DCDAF; the counter steps. -/
theorem test_random_draw : (runV (.rndLo 3) [] (fun l => l.v! 3 == 0x7B1DCDAF && l.rnd == 2) && runV (.rndHi 3) [] (fun l => l.v! 3 == 0xE220A839 && l.rnd == 2)) = true := by decide +kernel

/-! Control -/

/-- Two lanes of which one has p2 true. -/
def stB : State := stL [laneAt 0, (laneAt 1).setP 2 true]
theorem witness_ControlTransfers : (legal stB (.bra .uniform 2 false 0) = true ∧ stB.lead = some (laneAt 0) ∧ stB.actives.any (fun m => m.getP 2 != false) = true ∧
      stB.actives.any (fun m => !(m.getP 2 != false)) = true) ∧ (legal stB (.bra .uniform 0 false 0) = true ∧ stB.actives.all (fun m => m.getP 0 != false) = true) ∧
    (Hint.none ≠ .uniform) ∧ legal stB (.call 4 0) = true ∧
    after (.bra .none 2 true 0) stB (fun t => t.lanes.map (·.pc) == [0x10040, 0x10044]) = true ∧ after (.call 10 0) stB (fun t => t.lanes.all fun l => l.pc == 0x10040 && l.pair 10 == 0x1004C) = true ∧
    raises (.ret 10) st (lane0.causeHere 0x01 2 0) = true ∧ raises (.call 10 5) st (lane0.causeHere 0x01 2 0) = true ∧
    runV (.brx 10) [(10, 0x10040)] (fun l => l.pc == 0x10040) = true := by decide +kernel
/-- One lane has a data error of a transfer; another is the last of its group; lanes in and out of D-mode. -/
theorem witness_ExitAndYield : Settled st ∧ (Actives st fun l => l.dm = false) ∧ (Actives (stL [{ lane0 with dm := true }]) fun l => l.dm = true) ∧ legal (stL [{ lane0 with dm := true }]) .yield = true ∧
    (∃ e, ({ lane0 with errs := [(.g2s, 0x07, 0, 64)] } : Lane).errs.find? (fun e => e.2.1 == 0x07) = some e) ∧ lane0.errs.find? (fun e => e.2.1 == 0x07) = none ∧
    after .exit st (fun t => (t.group? ⟨0, 0, 0⟩).elim false (·.retired)) = true ∧ after .exit (stL [laneAt 0, { laneAt 1 with issuing := false }]) (fun t => (t.group? ⟨0, 0, 0⟩).elim false fun g => !g.retired) = true ∧
    after .yield (stL [{ lane0 with dm := true }]) (fun t => (t.group? ⟨0, 0, 0⟩).elim false (·.yielded)) = true := by
  refine ⟨by unfold Settled Actives; decide +kernel, by unfold Actives; decide +kernel, by unfold Actives; decide +kernel, by decide +kernel, ⟨_, rfl⟩, by decide +kernel, by decide +kernel, by decide +kernel, by decide +kernel⟩
theorem witness_MarkerWordsWait : (Actives (stL [laneD]) fun l => l.deferred ≠ []) ∧
    ([.bar 1 3, .barw 3, .cbar, .gbar, .waitph 1 4 4, .exit, .yield, .trap 1, .tret, .fence .lane .acq] : List Instr).all
      (fun i => legal (stL [laneD]) i && after i (stL [laneD]) fun t => (t.lane? ⟨0, 0, 0⟩).elim false fun l => l.marker && l.pc == lane0.pc && !l.issuing) = true := by unfold Actives; decide +kernel

/-! Traps -/

def cause0 : TrapReq := { cause := 0x0F, aux := 0x34, tval := 0x1234, fpc := 0x10040, epc := 0x10044, rpl := false }
/-- A partition with a handler at 0x8000. -/
def stH : State := stP fun x => { x with tvec := 0x8000 }
theorem witness_TrapEntrySavesState : lane0.deferred = [] ∧ laneD.deferred ≠ [] ∧ ((stL [{ lane0 with trap := some cause0 }]).lane? ⟨0, 0, 0⟩ = some { lane0 with trap := some cause0 }) ∧
    (lane0.depth < 15 ∧ (stH.part 0).tvec ≠ 0 ∧ cause0.cause ≠ 0x10) ∧ ({ lane0 with depth := 15 } : Lane).depth = 15 ∧ ({ lane0 with depth := 14 } : Lane).depth < 15 ∧ (st.part 0).tvec = 0 ∧
    (st.part 0).state = .active ∧ ((stP fun x => { x with state := .suspending }).part 0).state = .suspending ∧
    -- the entry itself: R226's saved status word, %epc, %fpc, %tval
    (((stH.trapEntry lane0 cause0).lane? ⟨0, 0, 0⟩).elim false fun l => l.ssw == 0x0F340000 && l.epc == 0x10044 && l.fpc == 0x10040 && l.tval == 0x1234 && l.sup && l.depth == 1 && l.pc == 0x8040) = true ∧
    ((stH.trapEntry { lane0 with depth := 15 } cause0).part 0).haltCause = some (0x22, 0x0F) ∧ ((st.trapEntry lane0 cause0).part 0).haltCause = some (0x21, 0x0F) := by decide +kernel
theorem witness_SoftTrapAndBreakpoint : Settled st ∧ legal st (.trap 0xFFFF) = true ∧ ((st.group? lane0.id).elim false (·.dbgctl.getLsbD 2) = false) ∧
    (((stT fun t => { t with groups := [{ newGroup programRecord 0 with dbgctl := 4 }] }).group? lane0.id).elim false (·.dbgctl.getLsbD 2) = true) ∧
    raises (.trap 0x1234) stH cause0 = true ∧ raises .bkpt stH { cause := 0x10, aux := 0, tval := 0x10040, fpc := 0x10040, epc := 0x10040, rpl := false } = true ∧
    after .bkpt (stT fun t => { t with groups := [{ newGroup programRecord 0 with dbgctl := 4 }] }) (fun t => t.isFrozen 0 && (t.lane? ⟨0, 0, 0⟩).elim false fun l => l.pc == 0x10044) = true := by
  unfold Settled Actives; decide +kernel
/-- The lane in its handler with a saved status word, and what TRET does with the words of R228's table. -/
def retS (w : Word) : State := stL [{ laneS with ssw := w, epc := 0x10040 }]
theorem witness_TrapReturnRestoresState : Settled (retS 0x0F340000) ∧ legal (retS 0x0F340000) .tret = true ∧ laneS.sup = true ∧ laneS.depth ≠ 0 ∧
    (let l := { laneS with ssw := 0x0F340000 }
     fld l.ssw.toNat 8 8 = 0 ∧ l.ssw.getLsbD 2 = l.dm ∧ fld l.ssw.toNat 4 4 = l.depth - 1 ∧ (l.ssw.getLsbD 0 = true ∨ fld l.ssw.toNat 4 4 = 0)) ∧
    (let l := { laneS with ssw := 0x0F340100 }
     fld l.ssw.toNat 8 8 ≠ 0) ∧ (let l := { laneS with ssw := 0x0F340010 }
     fld l.ssw.toNat 4 4 ≠ l.depth - 1) ∧ (let l := { laneS with ssw := 0x0F340004 }
     l.ssw.getLsbD 2 ≠ l.dm) ∧ (st.resumable lane0 0x10040).2 = .inl true ∧ (st.resumable lane0 0x20000).2 = .inl false ∧
    after .tret (retS 0x0F340000) (fun t => (t.lane? ⟨0, 0, 0⟩).elim false fun l => !l.sup && l.depth == 0 && l.pc == 0x10040 && l.obj == .launched) = true ∧
    [0x0F340100, 0x0F340010, 0x0F340004].all (fun w => after .tret (retS w) fun t => t == (retS w).raise { laneS with ssw := w, epc := 0x10040 } (laneS.causeHere 0x03 0 (w.setWidth 64))) = true ∧
    after .tret { stL [{ laneS with ssw := 0x0F340008, epc := 0x10040, replay := some def0 }] with teams := [team0] }
      (fun t => (t.lane? ⟨0, 0, 0⟩).elim false fun l => l.v! 3 == 7 && l.replay.isNone && l.depth == 0) = true ∧
    after .tret (stL [{ laneS with depth := 0 }]) (fun t => t == (stL [{ laneS with depth := 0 }]).raise { laneS with depth := 0 } (laneS.causeHere 0x01 4 0)) = true := by
  unfold Settled Actives; decide +kernel

/-! Barriers, events, fences -/

def modBar (b : Nat) (x : Bar) : State := stT fun t => t.setBar b x
/-- Two lanes of the group; the second has not arrived. -/
def st2 : State := stL [laneAt 0, { laneAt 1 with issuing := false, bundle := none, pc := 0x10048 }]
theorem witness_TeamBarriers : (st.team? lane0.id.tid = some team0) ∧ (2 : Fin 4).val.testBit 0 = false ∧ (3 : Fin 4).val.testBit 0 = true ∧ (0 ∈ ({ lane0 with arrived := [0] } : Lane).arrived) ∧ (0 ∉ lane0.arrived) ∧
    ((modBar 0 { phase := 65535, mask := 1 }).team? 0).elim false (fun t => (t.bar 0).mask ≠ 0 ∧ (t.bar 0).mask ≠ 3) = true ∧ (team0.bar 0).mask = 0 ∧ legal st (.barw 0) = true ∧ legal st (.bara 7 3 0) = true ∧
    raises (.bar 2 0) st (lane0.causeHere 0x0C 0 0) = true ∧ raises (.bar 3 0) (modBar 0 { phase := 5, mask := 1 }) (lane0.causeHere 0x0C 0 0) = true ∧
    -- the last arrival completes the phase, and the lanes go on
    after (.bar 1 0) (modBar 0 { phase := 65535, mask := 1 }) (fun t => (t.team? 0).elim false (fun x => x.bar 0 == { phase := 0, mask := 0 }) && (t.lane? ⟨0, 0, 0⟩).elim false fun l => l.park == .ready && l.arrived.isEmpty) = true ∧
    after (.bara 7 1 0) { st2 with teams := [team0.setBar 0 { phase := 9, mask := 0 }] } (fun t => (t.team? 0).elim false (fun x => x.bar 0 == { phase := 9, mask := 1 }) &&
      (t.lane? ⟨0, 0, 0⟩).elim false fun l => l.v! 7 == 9 && l.park == .ready && l.arrived == [0]) = true := by decide +kernel
theorem witness_completeBar : (let t := team0.setBar 3 { phase := 0, mask := 1 }
    (modBar 3 { phase := 0, mask := 1 }).team? t.tid = some t ∧ 3 < t.bars.length ∧ (t.bar 3).mask ≠ 0 ∧
      (∃ l ∈ (modBar 3 { phase := 0, mask := 1 }).lanes, (l.id.tid = t.tid ∧ (t.bar 3).mask.testBit (match l.role with | .con => 0 | .pro => 1) = true) ∧ l.park ≠ .exited ∧ 3 ∉ l.arrived) ∧
      ∀ l ∈ [{ lane0 with arrived := [3] }, { laneAt 1 with park := .exited }], (l.id.tid = t.tid ∧ (t.bar 3).mask.testBit (match l.role with | .con => 0 | .pro => 1) = true) → l.park = .exited ∨ 3 ∈ l.arrived) := by
  decide +kernel
/-- A launch that is not cooperative. -/
def stN : State := stP fun x => { x with window := [{ newLaunch 1 (programRecord - 2 ^ 97) 0 none 0 [] false with placed := 1 }] }
theorem witness_GridBarriersAndPhases : stN.coop lane0 = false ∧ st.coop lane0 = true ∧ 4 ∈ ({ lane0 with arrived := [4] } : Lane).arrived ∧ 5 ∉ lane0.arrived ∧ (4 : Fin 8).val = 4 ∧ (0 : Fin 8).val ≠ 4 ∧
    (∃ l ∈ st2.lanes, l.part = 0 ∧ l.seq = 1 ∧ l.cluster = 0 ∧ l.park ≠ .exited ∧ 4 ∉ l.arrived) ∧ (stP fun x => { x with window := [launch1] }).launch? 0 1 = some launch1 ∧ launch1.placed ≠ recTeams launch1.lrec ∧
    raises .cbar stN (lane0.causeHere 0x01 0 0) = true ∧ after .cbar st (fun t => (t.launch? 0 1).elim false (fun L => tget 0 0 L.cphase == 1) && (t.lane? ⟨0, 0, 0⟩).elim false fun l => l.park == .ready && l.pc == 0x10044) = true ∧
    after .gbar st (fun t => (t.launch? 0 1).elim false fun L => L.gphase == 1) = true ∧ after .gbar st2 (fun t => (t.lane? ⟨0, 0, 0⟩).elim false fun l => l.park == .gbar) = true ∧
    -- ages 0, 1 and 2 of a token
    runV (.waitph 1 4 0) [] (fun l => l.park == .waitph 0 0) = true ∧ runV (.waitph 1 4 0) [(4, 0xFFFF)] (fun l => l.park == .ready && !l.getP 1) = true ∧ runV (.waitph 1 4 4) [(4, 0xFFFE)] (fun l => l.getP 1) = true := by
  decide +kernel
theorem witness_Events : legal st (.evsig 4 5) = true ∧ 255 < 256 ∧ (st.lanes.all fun l => l.park == .ready || l.park == .exited) = true ∧ Settled st ∧
    ((tget 0 ((lane0.getV 4).toNat % 256) (st.part 0).ev - lane0.getV 5).toNat < 2 ^ 31) ∧ 2 ^ 31 ≤ (tget 0 0 (st.part 0).ev - (1 : Word)).toNat ∧
    after (.evsig 4 5) { stV [(4, 0x1FF), (5, 3)] with parts := [(0, { partA with ev := [(255, 0xFFFFFFFE)] })] } (fun t => tget 0 255 (t.part 0).ev == 1) = true ∧
    after (.evsig 4 5) (stL [withV lane0 [(4, 7), (5, 1)], { laneAt 1 with issuing := false, bundle := none, park := .evwait 7 1 }]) (fun t => t.lanes.all fun l => l.park == .ready) = true ∧
    runV (.evwait 4 5) [(4, 7), (5, 1)] (fun l => l.park == .evwait 7 1 && l.pc == 0x10044) = true ∧ runV (.evwait 4 5) [(5, 0x80000001)] (fun l => l.park == .ready) = true := by unfold Settled Actives; decide +kernel
/-- A store to another package that is not acknowledged yet. -/
def peer0 : PeerReq := { id := 5, since := 0, pc := 0x10040, part := 0, lane := some ⟨0, 0, 0⟩, n := none, dpa := 2 ^ 50, op := .write [1], va := 0, store := true, acq := none, xfer := none }
def xfer0 : Xfer :=
  { id := 0, lane := ⟨0, 0, 0⟩, part := 0, ctx := 0, sup := false, pc := 0x10040, cluster := 0, core := 0, gather := false, path := .g2s, tile := none, desc := [0, 0, 0, 0, 16, 0, 0, 0], scratch := [], peerTid := 0, peerScratch := [],
    done := 0, repeats := 0, fid := none, wait := none, got := [], gath := none, aborted := false }
/-- EXIT waits for a gather of its lane, and has then not been issued; it does not wait for a copy. -/
theorem witness_ExitWaits : Settled { st with xfers := [{ xfer0 with gather := true }] } ∧ legal st .exit = true ∧ ({ xfer0 with gather := true } : Xfer).lane = lane0.id ∧
    after .exit { st with xfers := [{ xfer0 with gather := true }] } (fun t => t.lanes.all (fun l => l.park == .ready && l.pc == 0x10040) && st.actives.all t.heldAt) = true ∧
    after .exit { st with xfers := [{ xfer0 with gather := false, tile := none }] } (fun t => t.lanes.all (fun l => l.park == .exited) && !st.actives.all t.heldAt) = true := by
  unfold Settled Actives; decide +kernel
theorem witness_FenceAndDrain : ({ st with peers := [peer0] } : State).peerStores lane0 = true ∧ st.peerStores lane0 = false ∧ ({ st with xfers := [xfer0] } : State).pathBusy 0 0 .g2s 1 = true ∧
    st.pathBusy 0 0 .g2s 1 = false ∧ (∀ e ∈ lane0.errs, e.1 ≠ .g2s) ∧ after (.fence .system .rel) { st with peers := [peer0] } (fun t => (t.lane? ⟨0, 0, 0⟩).elim false fun l => l.skipped && l.pc == 0x10040) = true ∧
    after (.fence .cluster .acq) (stC fun c => { c with l1 := [{ line := 3, mask := 0xF, data := 0 }] }) (fun t => ((t.cluster 0).l1.all fun x => x.mask == 0xE)) = true ∧
    after (.fence .team .acq) (stC fun c => { c with l1 := [{ line := 3, mask := 0xF, data := 0 }] }) (fun t => ((t.cluster 0).l1.all fun x => x.mask == 0xF)) = true ∧
    after (.drain .g2s) { st with xfers := [xfer0] } (fun t => (t.lane? ⟨0, 0, 0⟩).elim false fun l => l.park == .drain .g2s 1) = true ∧
    after (.drain .s2g) { st with xfers := [xfer0] } (fun t => (t.lane? ⟨0, 0, 0⟩).elim false fun l => l.park == .ready && l.pc == 0x10044) = true := by decide +kernel

/-! Convergence registers and the matrix engine -/

/-- Register cv0 armed for a signal of two, one signature given, or as an MXA register of 128 with some operands held. -/
def stCv (w : Word) (held : List (Nat × Nat × List Operand)) (form : Option (Nat × Nat)) : State := stC fun c => { c with cv := tset 0 { word := w, tid := some 0, held := held, form := form } c.cv }
theorem witness_ConvergenceSignatures : CvWord 0 false false 0 0 0 0 ∧ CvWord (cvWordOf true true 0 0 2 1) true true 0 0 2 1 ∧ CvWord (cvWordOf false true 1 15 128 0) false true 1 15 128 0 ∧
    ((1024 : BitVec 11) ≠ 0 ∧ (1024 : BitVec 11).toNat ≤ 1024) ∧ (128 : BitVec 11) = 128 ∧ ¬((0 : BitVec 11) ≠ 0) ∧ st.lead = some lane0 ∧
    after (.cvdecl 0 0 2) st (fun t => (t.cvAt lane0 0).word == cvWordOf false true 0 0 2 0) = true ∧ after (.cvdecl 0 0 2) (stCv (cvWordOf true true 0 0 2 0) [] none) (fun t => (t.cvAt lane0 0).word == cvWordOf true true 0 0 2 0) = true ∧
    raises (.cvdecl 0 0 2) (stCv (cvWordOf true true 0 0 2 1) [] none) (lane0.causeHere 0x08 0 0) = true ∧ raises (.cvdecl 0 1 127) st (lane0.causeHere 0x08 0 0) = true ∧
    after (.cvsign 0) (stCv (cvWordOf true true 0 0 2 0) [] none) (fun t => (t.cvAt lane0 0).word == cvWordOf true true 0 0 2 1) = true ∧
    after (.cvsign 0) (stCv (cvWordOf true true 0 0 2 1) [] none) (fun t => (t.cvAt lane0 0).word == cvWordOf false false 0 0 2 0) = true ∧
    after (.cvsignW 0) (stCv (cvWordOf true true 0 0 2 0) [] none) (fun t => (t.lane? ⟨0, 0, 0⟩).elim false fun l => l.park == .conv 0) = true ∧ raises (.cvsign 0) st (lane0.causeHere 0x08 0 0) = true := by
  unfold CvWord; decide +kernel
theorem witness_MatrixWords :
    let x : CvReg := { word := cvWordOf false true 1 0 128 0, tid := some 0, held := [], form := none }
    let y : CvReg := { x with word := cvWordOf false true 1 1 128 32 }
    (cvArmed cv0.word = false) ∧ (cvArmed x.word = true ∧ cvAction x.word = 1 ∧ x.form = none) ∧ (cvQheld x.word).testBit 0 = false ∧ (cvQheld y.word).testBit 0 = true ∧
      (∀ e ∈ x.held, e.1 = 0 → e.2.1 = 0 ∧ ∀ o ∈ e.2.2, o.slot ≠ 0) ∧ cvSigned x.word + 1 ≠ cvCount x.word ∧ cvSigned (cvWordOf false true 1 7 128 127) + 1 = cvCount (cvWordOf false true 1 7 128 127) ∧
      raises (.mxa 0 0 8 0 0) st (lane0.causeHere 0x08 0 0) = true ∧ after (.mxa 0 0 8 0 0) (stCv x.word [] none) (fun t => (t.cvAt lane0 0).word == cvWordOf false true 1 0 128 1 && (t.cvAt lane0 0).form == some (0, 0)) = true ∧
      after (.mxa 0 0 8 0 0) (stCv y.word [(0, 0, [])] (some (0, 0))) (fun t => (t.lane? ⟨0, 0, 0⟩).elim false fun l => l.park == .mxaWait 0) = true ∧
      after (.mxz 0 1) st (fun t => (t.cluster 0).table.length + (t.cluster 0).waiting.length == 1) = true ∧
      after (.mxrd 32 0 3) st (fun t => (t.lane? ⟨0, 0, 0⟩).elim false fun l => l.deferred.length == 1 && l.pc == 0x10044) = true ∧
      raises (.mxsp 4 0 0) (stV [(4, 0x40)]) ((withV lane0 [(4, 0x40)]).causeHere 0x04 7 0x40) = true ∧ after (.mxfl 4 0 0) st (fun t => t.xfers.length == 1 && t.nextId == 2) = true := by decide +kernel
def entry0 : MxEntry := { op := .zero, tid := 0, tile := 0, slot := 0x33, prio := 3, age := 0, cv := none, after := [], granted := false }
def cell1 : LA := { LA0 with em := false, nz := true, val := 3 * 2 ^ 298 }
/-- A table with an entry, and one that waits for a place. -/
def stE (e : MxEntry) : State := stC fun c => { c with table := [e], cells := [(0, cell1), (4097, cell1)] }
theorem witness_MatrixEngine :
    let w : State := stC fun c => { c with waiting := [{ entry0 with after := [0] }, entry0] }
    let full : State := stC fun c => { c with table := List.replicate 16 entry0 }
    ((w.cluster 0).table.length < 16 ∧ (w.cluster 0).waiting.find? (fun e => e.after.isEmpty) = some entry0) ∧ 16 ≤ (full.cluster 0).table.length ∧
      ((stE entry0).engineStopped 0 = false ∧ (∀ x ∈ ((stE entry0).cluster 0).table, x.granted = false) ∧ grantOf (stE entry0).cycle ((stE entry0).cluster 0).table = some entry0) ∧
      (∀ o ∈ ((stE entry0).cluster 0).table, (stE entry0).cycle - o.age ≤ 1024) ∧ ((stE { entry0 with granted := true }).cluster 0).table.find? (·.granted) = some { entry0 with granted := true } ∧
      ((st.cluster 0).nextTest ≤ st.cycle ∧ (st.cluster 0).out = false ∧ (3 : Fin 4) ∉ (st.cluster 0).fenced) ∧
      after (.mxeHeldFiringEnter 0) w (fun t => (t.cluster 0).table == [entry0] && (t.cluster 0).waiting.length == 1) = true ∧
      after (.mxeEntryGrant 0) (stE entry0) (fun t => (t.cluster 0).table == [{ entry0 with granted := true }]) = true ∧
      after (.mxeEntryComplete 0) (stE { entry0 with granted := true }) (fun t => (t.cluster 0).cells == [(4097, cell1)] && (t.cluster 0).table.isEmpty) = true ∧
      after (.mxeSelftest 0 (some 3)) st (fun t => (t.cluster 0).fenced == [3] && !(t.cluster 0).out) = true ∧
      after (.mxeSelftest 0 (some 2)) (stC fun c => { c with fenced := [3] }) (fun t => (t.cluster 0).out && (t.part 0).haltCause == some (0x24, 0)) = true := by decide +kernel
/-- R456 and R458: a cell takes the four products of chapter 01's example, 3 x 2^298; by a slot with OUT f32 MXRD delivers 0x40400000 to v32 of the lane. -/
theorem test_matrix_cells : dotInto LA0 [fmtBf16.decode 0x4580, fmtBf16.decode 0x4040, fmtBf16.decode 0x4040, fmtBf16.decode 0xC580] [fmtBf16.decode 0x4580, fmtBf16.decode 0x3F00, fmtBf16.decode 0x3F00, fmtBf16.decode 0x4580] = cell1 ∧
    after (.mxeEntryComplete 0) ((stE { entry0 with granted := true, op := .read 32 [(⟨0, 0, 0⟩, 0)] }).setLane { lane0 with deferred := [{ def0 with wait := .engine 0 }] })
      (fun t => (t.lane? ⟨0, 0, 0⟩).elim false fun l => l.deferred.all fun d => d.wait == .ready && d.vdst.head? == some (32, 0x40400000) && d.vdst.length == 32) = true := by decide +kernel

/-! Global memory: frame 0 of st holds data at virtual and device address alike; a window under ACC for merges. -/

def phys (a : Nat) : Phys := { attr := .normal, addr := a }
def accPhys (a : Nat) : Phys := { attr := .acc, addr := a }
def stAcc : State := stP fun x => { x with ctxs := [(0, 0x20000 * 2 ^ 128 + 0x78 * 2 ^ 288)] }
def vals : List (Nat × Word) := [(4, 0x100), (5, 0), (8, 0x55667788), (9, 0x11223344)]
/-- Bytes 1 to 16 stand at address 0x100; v4:v5 is 0x100 in lane 0. -/
def stM : State := { stV vals with mem := writeBytes [] 0x100 ((List.range 16).map fun i => BitVec.ofNat 8 (i + 1)) }
def laneM : Lane := withV lane0 vals
/-- 32 deferred results outstanding. -/
def laneFull : Lane := { lane0 with deferred := (List.range 32).map fun n => { def0 with n := n }, nextDef := 32 }
/-- An acquiring load outstanding. -/
def laneAcq : Lane := { laneM with deferred := [{ def0 with instr := .ldB32 3 4 .device .acq false 0, srcs := [0x100, 0], wait := .peer 9 }], nextDef := 1 }
def canon (va : Nat) (write : Bool) : PageFault := { reason := 4, va := va, write := write, fetch := false }

/-- A D-mode lane, and a held ordered atomic whose turn has come. -/
def laneDM : Lane := { laneM with dm := true }
def ordered0 : OrderedAtom := { id := 0, sent := none, lane := ⟨0, 0, 0⟩, instr := .atomNr 4 8 .add .b32 true .lane .rlx 0, srcs := [0x100, 0, 0x10], n := none, pc := 0x10040 }
def stO : State := { stT fun t => { t with ordered := [ordered0] } with lanes := [laneDM], mem := stM.mem }
/-- A lane with an accumulator's address in v4:v5 and the halves of R351's example in v6 and v7; its agent without and with the line whole. -/
def laneMerge : Lane := withV lane0 [(4, 0x100), (6, 0x3F004040), (7, 0x3F004040)]
def stMerge : State := { stAcc with lanes := [laneMerge] }
def stOwn : State := { stMerge with lines := [(2, { line0 with holds := (line0.holds.set 8 hold0).set 0 { hold0 with t := 16, owner := true, valid := true } })] }

theorem witness_PlainAt : PlainAt stM stM laneM 0x100 16 .read (phys 0x100) ∧ PlainAt stM stM laneM 0x170 16 .write (phys 0x170) ∧ PlainAt stM stM laneM 0xFF80 96 .write (phys 0xFF80) ∧
    PlainAt stAcc stAcc lane0 0x80 96 .write (accPhys 0x80) ∧ PlainAt stO stO laneDM (eaSrc ordered0.instr ordered0.srcs) (atomBytes ordered0.instr) .write (phys 0x100) ∧
    PlainAt stMerge stMerge laneMerge 0x100 96 .write (accPhys 0x100) ∧ PlainAt stOwn stOwn laneMerge 0x100 96 .write (accPhys 0x100) ∧
    PlainAt { st with lanes := [laneMerge] } { st with lanes := [laneMerge] } laneMerge 0x100 96 .write (phys 0x100) := by
  refine ⟨?_, ?_, ?_, ?_, ?_, ?_, ?_, ?_⟩ <;> unfold PlainAt PlaceAt ReachesAt <;> decide +kernel
/-- The addresses at which each size is aligned, misaligned, or 2^57 and above; a lane with room and one without; an L1 that serves the line. -/
theorem witness_GlobalLoads : ([(1, 0x100), (2, 0x102), (4, 0x104), (8, 0x108), (16, 0x110), (128, 0x180)] : List (Nat × Nat)).all (fun e => e.2 % e.1 == 0 && decide (e.2 < 2 ^ 57) && (e.1 == 1 || (e.2 + 1) % e.1 != 0)) = true ∧
    (2 ^ 57 % 16 = 0 ∧ 2 ^ 57 ≤ 2 ^ 57) ∧ lane0.room = true ∧ laneFull.room = false ∧ l1Line stM laneM (phys 0x100) = none ∧
    l1Line (stC fun c => { c with l1 := [{ line := 2, mask := 1, data := 0 }] }) lane0 (phys 0x100) = some { line := 2, mask := 1, data := 0 } ∧
    -- the lane's turn, and an acquiring load that another access must follow
    firsts stM laneM (.ldB32 3 4 .lane .rlx false 0) = [] ∧ firsts { stM with lanes := [laneAcq] } laneAcq (.ldB32 3 4 .lane .rlx false 0) ≠ [] ∧
    [(Instr.ldB8 3 4 .lane .rlx false 1, [(3, 2)]), (.ldB16 3 4 .lane .rlx false 1, [(3, 0x0403)]), (.ldB32 3 4 .lane .rlx true 3, [(3, 0x100F0E0D)]),
      (.ldB64 6 4 .lane .acq false 0, [(6, 0x04030201), (7, 0x08070605)]), (.ldB128 8 4 .lane .rlx false 0, [(8, 0x04030201), (9, 0x08070605), (10, 0x0C0B0A09), (11, 0x100F0E0D)])].all
      (fun e => after e.1 stM fun t => (t.lane? ⟨0, 0, 0⟩).elim false fun l => l.pc == 0x10044 && l.deferred.map (·.vdst) == [e.2.map fun x => (x.1, BitVec.ofNat 32 x.2)]) = true ∧
    raises (.ldB32 3 4 .lane .rlx false 0) (stV [(4, 0x102)]) ((withV lane0 [(4, 0x102)]).causeHere 0x04 2 0x102) = true ∧
    runV (.ldB8 3 4 .lane .rlx false 0) [(5, 0x02000000)] (fun l => l.pfault == some (canon (2 ^ 57) false, 0x10040, 0) && l.skipped) = true ∧
    after (.ldB8 3 4 .lane .rlx false 0) (stL [laneFull]) (fun t => (t.lane? ⟨0, 0, 0⟩).elim false fun l => l.deferred.length == 32 && l.skipped && l.pc == 0x10040) = true ∧
    after (.kld 2 4 .lane .rlx false 0) { stM with mem := writeBytes [] 0x100 (leBytes (laImage cell1) 96) } (fun t => (t.lane? ⟨0, 0, 0⟩).elim false fun l => l.deferred.map (·.kdst) == [[(2, cell1)]]) = true := by
  unfold l1Line firsts; decide +kernel
theorem witness_GlobalStores : firsts st lane0 (.stB8 8 4 .system .rel 0) = [] ∧ SystemRelease lane0 (.stB8 8 4 .system .rel 0) ∧ st.peerStores lane0 = false ∧ lane0.lostStore = false ∧
    ({ st with peers := [peer0] } : State).peerStores lane0 = true ∧ st.translate (st.who lane0) 0x20000 .write = (st, .fault { reason := 1, va := 0x20000, write := true, fetch := false }) ∧
    st.translate (st.who lane0) (2 ^ 57) .write = (st, .fault (canon (2 ^ 57) true)) ∧
    [(Instr.stB8 8 4 .lane .rlx 0x3F, 0xFF, [0x88, 1]), (.stB16 8 4 .lane .rlx 0, 0x100, [0x88, 0x77, 3]), (.stB32 8 4 .lane .rel 1, 0x104, [0x88, 0x77, 0x66, 0x55, 9]),
      (.stB64 8 4 .system .rel 0, 0x100, [0x88, 0x77, 0x66, 0x55, 0x44, 0x33, 0x22, 0x11, 9]), (.stB128 8 4 .lane .rlx 0, 0x107, [0x11, 0, 0, 0, 0, 0, 0, 0, 0, 0])].all
      (fun e => after e.1 stM fun t => readBytes t.mem e.2.1 e.2.2.length == e.2.2.map (BitVec.ofNat 8)) = true ∧
    raises (.stB64 8 4 .lane .rlx 0) (stV [(4, 0x104)]) ((withV lane0 [(4, 0x104)]).causeHere 0x04 3 0x104) = true ∧
    runV (.stB8 3 4 .lane .rlx 0) [(4, 0x20000)] (fun l => l.pfault == some ({ reason := 1, va := 0x20000, write := true, fetch := false }, 0x10040, 0)) = true ∧
    after (.kst 2 4 .lane .rlx 0) (stL [(withV lane0 [(4, 0x100)]).setK 2 cell1]) (fun t => laOfImage (readNat t.mem 0x100 96) == cell1) = true := by unfold SystemRelease firsts; decide +kernel

theorem witness_Atomics : firsts stM laneM (.atom 3 4 8 .exch .b32 false .lane .rlx 0) = [] ∧ ¬ SystemRelease laneM (.atom 3 4 8 .exch .b32 false .lane .rlx 0) ∧ (laneM.v! 5).getLsbD 31 = false ∧ (Size.b32 = .b32 ∨ Size.b32 = .b64) ∧ laneDM.dm = true ∧ lane0.dm = false ∧ stM.team? 0 = some team0 ∧ team0.ordered.length < 256 ∧
    256 ≤ ({ team0 with ordered := List.replicate 256 ordered0 } : Team).ordered.length ∧ ((withV lane0 [(5, 0x80000000)]).v! 5 = 0x80000000) ∧
    -- the exchange, a compare that fails, and an addition without a result, each as the word performs it in a lane; ordered forms
    (let u := stM.noteAccess laneM (.atom 3 4 8 .exch .b32 false .lane .rlx 0) (srcsOf laneM (.atom 3 4 8 .exch .b32 false .lane .rlx 0))
     readNat u.mem 0x100 5 = 0x0555667788 ∧ u.lanes.all (fun l => l.pc == 0x10048 && l.deferred.map (·.vdst) == [[(3, 0x04030201)]]) = true) ∧
    (let u := stM.noteAccess laneM (.cas 6 4 8 10 .b64 false .lane .rlx 8) (srcsOf laneM (.cas 6 4 8 10 .b64 false .lane .rlx 8))
     u.mem = stM.mem ∧ u.lanes.all (fun l => l.deferred.map (·.vdst) == [[(6, 0x0C0B0A09), (7, 0x100F0E0D)]]) = true) ∧
    readNat (stM.atomic laneM (.atomNr 4 8 .add .b32 false .lane .rlx 4) (srcsOf laneM (.atomNr 4 8 .add .b32 false .lane .rlx 4))).1.mem 0x104 4 = 0x08070605 + 0x55667788 ∧
    (stM.accessCause (withV lane0 [(4, 0x102)]) (.atomNr 4 8 .add .b32 false .lane .rlx 0) [0x102, 0, 0]).isSome = true ∧
    raises (.atomNr 4 8 .add .b32 true .lane .rlx 0) stM (laneM.causeHere 0x01 0 0) = true ∧
    after (.atom 3 4 8 .add .b32 true .lane .rlx 0) { stM with lanes := [laneDM] } (fun t => (t.team? 0).elim false (fun x => x.ordered.length == 1) && t.mem == stM.mem) = true := by
  unfold SystemRelease firsts; decide +kernel
theorem witness_OrderedTurns : stO.team? 0 = some { team0 with ordered := [ordered0] } ∧ stO.lane? ordered0.lane = some laneDM ∧ stO.orderedTurn laneDM = true ∧ ordered0.n = none ∧ atomScratch ordered0.srcs = false ∧
    stO.launch? 0 1 = some { launch1 with placed := 1 } ∧
    after (.orderedAtomRelease 0) stO (fun t => readNat t.mem 0x100 4 == 0x04030211 && (t.team? 0).elim false (·.ordered.isEmpty)) = true ∧
    -- while an earlier group has not retired it keeps its turn
    (let u : State := { stO with teams := [{ team0 with groups := [newGroup programRecord 0, newGroup programRecord 1], ordered := [{ ordered0 with lane := ⟨0, 1, 0⟩ }] }], lanes := [laneDM, { laneDM with id := ⟨0, 1, 0⟩ }] }
     u.orderedTurn { laneDM with id := ⟨0, 1, 0⟩ } = false ∧ after (.orderedAtomRelease 0) u (fun t => t == u) = true) := by decide +kernel
def stMash : State := { stMerge with lines := [(2, { line0 with mash := true, holders := [1] })] }
/-- R351's example: AACC.mul.bf16 adds 9.25; a merge of a register; the home copy where the agent does not hold the line whole is not changed. -/
theorem witness_Merges :
    firsts stMerge laneMerge (.aacc 4 6 .bf16 .device .rel 0) = [] ∧ (stMerge.line 2).mayWrite 0 = false ∧ (stOwn.line 2).mayWrite 0 = true ∧ 0x180 % 128 = 0 ∧ 0x140 % 128 ≠ 0 ∧
      after (.aaccMul 4 6 7 .bf16 .device .rel 0) stOwn (fun t => laOfImage (readNat t.mem 0x100 96) == { LA0 with em := false, nz := true, val := 37 * 2 ^ 296 }) = true ∧
      after (.aaccMul 4 6 7 .bf16 .device .rel 0) stMerge (fun t => t.mem.isEmpty && (t.line 2).mash && (t.line 2).holds[0].partialLA == some { LA0 with em := false, nz := true, val := 37 * 2 ^ 296 }) = true ∧
      after (.amrg 4 2 .device .rlx 0) { stOwn with lanes := [laneMerge.setK 2 cell1] } (fun t => laOfImage (readNat t.mem 0x100 96) == cell1) = true ∧
      after (.amrgNeg 4 2 .device .rlx 0x80) { stOwn with lanes := [laneMerge.setK 2 cell1] } (fun t => (t.line 3).holds[0].partialLA == some { cell1 with val := -(3 * 2 ^ 298) }) = true ∧
      after (.aacc 4 6 .bf16 .device .rlx 0) stOwn (fun t => laOfImage (readNat t.mem 0x100 96) == { LA0 with em := false, nz := true, val := 7 * 2 ^ 297 }) = true ∧
      after (.aacc 4 6 .bf16 .device .rlx 0) { st with lanes := [laneMerge] } (fun t => t.lanes.all fun l => l.pfault.elim false fun f => f.1.reason == 2) = true ∧
      -- a line that is in the merge state already
      ((stMash.line 2).mash = true ∧ stMash.lineBusy 2 0 true = false ∧
        after (.aacc 4 6 .bf16 .device .rlx 0) stMash (fun t => t.mem.isEmpty && (t.line 2).holds[0].partialLA == some { LA0 with em := false, nz := true, val := 7 * 2 ^ 297 }) = true) := by
  unfold firsts; decide +kernel

/-! Scratch, queues, modes, caches, pins, transfers, collectives. -/

def stSwap (f : Sram → Sram) (m : Nat) : State := stC fun c => c.modMacro m f
def pcs (ps : List Piece) : List (Nat × Nat × Nat × Nat) := ps.map fun p => (p.mac, p.word, p.byte, p.len)
/-- The first address past 8 macros, one below zero, the last word of the space, an access in two words, and the rows of the padded swizzles. -/
theorem witness_ScratchSpace : pieces (List.range 8) 0 393216 1 = none ∧ pieces (List.range 8) 0 (-8) 8 = none ∧ (pieces (List.range 8) 0 393208 8).map pcs = some [(7, 6143, 0, 8)] ∧
    (pieces (List.range 8) 1 8 16).map pcs = some [(1, 0, 0, 8), (2, 0, 0, 8)] ∧ swizzle 1 8 8 = (1, 1) ∧ swizzle 4 8 15 = (0, 1) ∧ swizzle 7 8 64 = (0, 8) ∧
    readNat (((st.writePieces 0 3 [⟨2, 5, 0, 8⟩] (leBytes 0xAABB 8)).cluster 0).macro' 2).data 40 8 = 0xAABB ∧ tget 8 5 (((st.writePieces 0 3 [⟨2, 5, 0, 8⟩] (leBytes 0xAABB 8)).cluster 0).macro' 2).tags = 3 ∧
    ((stSwap (fun m => { m with poison := [5] }) 2).readPieces 0 [⟨2, 5, 0, 8⟩] = none) := by decide +kernel
def smodeTeam (mask : Nat) (q : Bool) : State := stT fun t => { t with smode := [{ mask := mask, toQueue := q, lanes := [⟨0, 0, 0⟩] }] }
theorem witness_ScratchAccesses :
    (393216 : Int) % 4 = 0 ∧ pieces (st.scratchList team0) 0 393216 4 = none ∧ (2 : Int) % 4 ≠ 0 ∧ ((smodeTeam 2 true).teamOf lane0).converting = true ∧ (st.teamOf lane0).converting = false ∧ laneFull.room = false ∧
      raises (.lds 3 4 .b32 0 0) (stV [(4, 2)]) ((withV lane0 [(4, 2)]).causeHere 0x04 2 2) = true ∧ raises (.sts 6 4 .b64 0 1) (stV [(4, 0x5FFF8)]) ((withV lane0 [(4, 0x5FFF8)]).causeHere 0x06 0 0x60000) = true ∧
      raises (.lds 3 4 .b32 0 31) (stV [(4, 0)]) ((withV lane0 [(4, 0)]).causeHere 0x06 0 0xFFFFFFFFFFFFFFFC) = true ∧
      after (.sts 6 4 .b64 0 1) (stV [(4, 0), (6, 0x55667788), (7, 0x11223344)]) (fun t => readNat ((t.cluster 0).macro' 1).data 0 9 == 0x1122334455667788 && (t.lane? ⟨0, 0, 0⟩).elim false fun l => l.pc == 0x10044) = true ∧
      after (.lds 6 4 .b64 0 1) (stSwap (fun m => { m with data := writeBytes [] 0 (leBytes 0x1122334455667788 8) }) 1) (fun t => (t.lane? ⟨0, 0, 0⟩).elim false fun l => l.deferred.map (·.vdst) == [[(6, 0x55667788), (7, 0x11223344)]]) = true ∧
      after (.lds 6 4 .b64 0 1) (stSwap (fun m => { m with poison := [0] }) 1) (fun t => (t.lane? ⟨0, 0, 0⟩).elim false fun l => l.deferred.all fun d => match d.wait with | .dataUe 4 _ true => true | _ => false) = true ∧
      after (.sts 6 4 .b64 0 1) (smodeTeam 2 true) (fun t => t.lanes.all fun l => l.skipped && l.pc == 0x10040) = true := by decide +kernel
/-- Macro 8, queue 0 of the team, with entries, and bound to another group. -/
def stQ (f : Sram → Sram) : State := stSwap f 8
theorem witness_QueuesAndModes :
    st.lead = some lane0 ∧ (st.queueList team0)[0]? = some 8 ∧ (st.queueList team0)[8]? = none ∧ fld (recQmp (st.laneRec lane0)) 0 1 = 0 ∧ (Sole st lane0) ∧ ((stQ fun m => { m with prod := some 3 }).cluster 0 |>.macro' 8).prod = some 3 ∧
      (st.teamOf lane0).smode = [] ∧ ((stQ fun m => { m with qcount := 3072 }).cluster 0 |>.macro' 8).qcount = 3072 ∧ team0.named 0x8001 = [0, 15] ∧
      ((smodeTeam 0xFF true).team? 0).map (·.smode.length) = some 1 ∧ (smodeTeam 0xFF true).xferIn 0 (team0.named 0xFF) = false ∧ ({ smodeTeam 0xFF true with xfers := [{ xfer0 with scratch := [3], desc := xfer0.desc.set 5 1 }] } : State).xferIn 0 (team0.named 0xFF) = true ∧
      after (.qpush 8 0) (stQ fun m => { m with qhead := 3071, qcount := 1 }) (fun t => ((t.cluster 0).macro' 8).qcount == 2 && t.lanes.all fun l => l.pc == 0x10044) = true ∧
      after (.qpush 8 0) (stQ fun m => { m with qcount := 3072 }) (fun t => t.lanes.all fun l => l.park == .queue && l.pc == 0x10040) = true ∧
      after (.qpop 8 0) (stQ fun m => { m with data := writeBytes [] 0 (leBytes 0x77 16), qcount := 1 }) (fun t => ((t.cluster 0).macro' 8).qcount == 0 && t.lanes.all fun l => l.deferred.map (·.vdst) == [[(8, 0x77), (9, 0), (10, 0), (11, 0)]]) = true ∧
      after (.qpop 8 0) st (fun t => t.lanes.all fun l => l.park == .queue) = true ∧
      raises (.qpush 8 0) (stQ fun m => { m with prod := some 3 }) (lane0.causeHere 0x0A 0 0) = true ∧ raises (.qpop 8 0) (stQ fun m => { m with cons := some 3 }) (lane0.causeHere 0x0A 0 0) = true ∧
      raises (.qpush 8 8) st (lane0.causeHere 0x0A 8 0) = true ∧
      raises (.smodeScratch 4) (stV [(4, 0x10000)]) ((withV lane0 [(4, 0x10000)]).causeHere 0x09 0 0x10000) = true ∧ raises (.smodeScratch 4) (stV [(4, 0x100)]) ((withV lane0 [(4, 0x100)]).causeHere 0x09 0 0x100) = true ∧
      after (.smodeScratch 4) (stV [(4, 0xFF00)]) (fun t => (t.team? 0).elim false (·.smode == [{ mask := 0xFF00, toQueue := false, lanes := [⟨0, 0, 0⟩] }]) && t.lanes.all fun l => l.park == .smode && l.pc == 0x10044) = true ∧ runV (.smodeQueue 4) [] (fun l => l.pc == 0x10044 && l.park == .ready) = true ∧
      after (.smodeConvert 0) (smodeTeam 0xFF true) (fun t => (t.queueList team0).length == 16 && (t.team? 0).elim false (·.smode.isEmpty)) = true ∧
      after (.queueWaitResume 0 0) (stL [{ lane0 with park := .queue, issuing := false, bundle := none }]) (fun t => t.lanes.all fun l => l.park == .ready) = true := by
  unfold Sole; decide +kernel

def lineAt2 : L1Line := { line := 2, mask := 0xF, data := 0 }
theorem witness_CachesAndRowPins :
    let u : State := stV vals
    let l := withV lane0 vals
    let pin : Pin := { tid := 0, part := 0, row := 0, state := .pinned }
    let other : Pin := { pin with tid := 9 }
    u.translate (u.who l) 0x100 .read = (u, .ok (phys 0x100)) ∧ inHbm 0x100 = true ∧ u.ownCheck 0 0x100 false = .performed ∧ u.lineBusy 2 8 true = false ∧ (u.line 2).mash = false ∧ (u.cluster 0).cacheWays ≠ 0 ∧
      2 ^ 57 ≤ ((withV lane0 [(5, 0x02000000)]).pair 4).toNat ∧
      after (.pref 4 0) u (fun t => (t.cluster 0).l1.map (·.line) == [2] && t.mem == u.mem && t.lanes.all fun l => l.pc == 0x10044) = true ∧
      after (.cinv 4 .lane) { u with clusters := [(0, { clusterA with l1 := [lineAt2] })] } (fun t => (t.cluster 0).l1.all fun x => x.mask == 0xE) = true ∧
      after (.cflush 4 .device) { u with clusters := [(0, { clusterA with l1 := [lineAt2] })] } (fun t => (t.cluster 0).l1.all fun x => x.mask == 0) = true ∧
      -- every status of ROWPIN, and what ROWQRY finds
      u.pinStatus 0 0 (phys 0x100) = 0 ∧ ({ u with pins := [pin] } : State).pinStatus 0 0 (phys 0x100) = 1 ∧ ({ u with pins := [other] } : State).pinStatus 0 0 (phys 0x100) = 5 ∧
      u.pinStatus 0 0 (phys 0x20000) = 6 ∧ ({ u with pins := [{ pin with state := .broken 1 }] } : State).pinStatus 0 0 (phys 0x100) = 0 ∧
      ({ u with pins := (List.range 64).map fun n => { pin with row := 1000 + n, state := .broken 1 } } : State).pinStatus 0 0 (phys 0x100) = 2 ∧
      after (.rowpin 3 4) u (fun t => t.pins == [pin] && t.lanes.all fun l => l.pc == 0x10048 && l.deferred.length == 1) = true ∧
      after (.rowqry 3 4) { u with pins := [{ pin with state := .broken 2 }] } (fun t => t.lanes.all fun l => l.deferred.map (·.vdst) == [[(3, 0x202)]]) = true ∧
      after (.rowrel 4) { u with pins := [pin, { pin with row := 1 }] } (fun t => t.pins == [{ pin with row := 1 }]) = true ∧
      after .rowrelAll { u with pins := [pin, other] } (fun t => t.pins == [other]) = true ∧
      (∃ r, rowBank r = rowBank 0 ∧ rowSag r = rowSag 0 ∧ r ≠ 0 ∧ ({ u with pins := [{ pin with row := r }] } : State).pinStatus 0 0 (phys 0x100) = 4) := by
  refine ⟨?_, ?_, ?_, ?_, ?_, ?_, ?_, ?_, ?_, ?_, ?_, ?_, ?_, ?_, ?_, ?_, ?_, ?_, ?_, ?_, ⟨8193, ?_⟩⟩ <;> decide +kernel

def xDesc (path : Nat) (rows : Nat) : List Word := [0x100, 0, 0x200, 0, 16, BitVec.ofNat 32 (rows + path * 2 ^ 22), 16, 16]
/-- A lane with a copy descriptor in v8 to v15; the machine with bytes at 0x100. -/
def stCpy (d : List Word) : State := { stM with lanes := [withV lane0 (d.zipIdx.map fun e => (8 + e.2, e.1))] }
def xfer1 (path : Path) (d : List Word) : Xfer := { xfer0 with id := 1, path := path, desc := d }
def errs1 (t : State) (e : List (Path × Nat × Nat × DWord)) : Bool := t.xfers.isEmpty && t.lanes.all fun l => l.errs == e
theorem witness_Launches :
    (0x100 % 64 = 0) ∧ (0x108 % 64 ≠ 0) ∧ ((stM.readRecord laneM 0x100 6).2 matches .ok _) = true ∧ ((stV [(4, 0x20000)]).readRecord lane0 0x20000 6).2 = .page { reason := 1, va := 0x20000, write := false, fetch := false } ∧
      (({ stM with poison := [2] } : State).readRecord laneM 0x100 6).2 = .ue ∧
      after (.launch 4) stM (fun t => (t.part 0).dq.map (·.lrec) == [readNat stM.mem 0x100 384] && t.lanes.all fun l => l.pc == 0x10044) = true ∧
      after (.launch 4) { stM with parts := [(0, { partA with dq := List.replicate 256 { lrec := 0, ctx := 0 } })] } (fun t => (t.part 0).dq.length == 256 && t.lanes.all fun l => l.pc == 0x10044) = true ∧
      raises (.launch 4) (stV [(4, 0x108)]) ((withV lane0 [(4, 0x108)]).causeHere 0x04 6 0x108) = true ∧ (let u : State := { stM with poison := [2] }; after (.launch 4) u fun t => t == (u.readRecord laneM 0x100 6).1.raise laneM (laneM.causeHere 0x07 0 0x100)) = true := by decide +kernel
theorem witness_Transfers :
    let s : State := stCpy (xDesc 2 1)
    let l := withV lane0 ((xDesc 2 1).zipIdx.map fun e => (8 + e.2, e.1))
    s.xferCause l false (l.vs 8 8) = none ∧ s.pendings l = [] ∧ (s.teamOf l).converting = false ∧ l.lostStore = false ∧ s.peerStores l = false ∧ ({ s with lanes := [laneAcq] } : State).pendings laneAcq ≠ [] ∧ 32 ≤ (({ s with xfers := List.replicate 32 xfer0 } : State).xfers.filter fun x => x.cluster == 0 && x.core == 0).length ∧
      s.xferCause l false (xDesc 2 0) = some (0x0D, 0, 0x800000) ∧ s.xferCause l false ((xDesc 3 1).set 3 5) = some (0x0D, 0, 0xC00001) ∧ s.xferCause l false [0x5FFF0, 0, 0, 0, 32, 0x400001, 0, 0] = some (0x06, 0, 0x5FFF0) ∧
      s.xferCause l true [0x100, 0, 0, 0, 0x40, 0, 4, 4097] = some (0x0D, 0, 0) ∧ s.xferCause l true [0x100, 0, 0x200, 0, 0x40, 0, 4, 2] = none ∧ cpyRows (xDesc 2 0) = 0 ∧
      after (.cpy 8 .device) s (fun t => t.xfers.map (·.id) == [1] && t.nextId == 2 && t.lanes.all fun l => l.pc == 0x10048) = true ∧
      after (.cpy 8 .device) { s with xfers := List.replicate 32 xfer0 } (fun t => t.xfers.length == 32 && t.lanes.all fun l => l.skipped && l.pc == 0x10040) = true ∧
      raises (.cpy 8 .device) (stCpy ((xDesc 3 1).set 3 5)) ((withV lane0 (((xDesc 3 1).set 3 5).zipIdx.map fun e => (8 + e.2, e.1))).causeHere 0x0D 0 0xC00001) = true ∧
      after (.copyComplete 1) { s with xfers := [xfer1 .g2g (xDesc 2 1)] } (fun t => readBytes t.mem 0x200 17 == readBytes stM.mem 0x100 16 ++ [0] && t.xfers.isEmpty) = true ∧
      after (.copyComplete 1) { s with xfers := [{ xfer1 .g2g (xDesc 2 1) with aborted := true }] } (fun t => t.xfers.isEmpty && t.mem == stM.mem) = true ∧
      after (.copyComplete 1) { s with xfers := [{ xfer1 .g2g (xDesc 2 1) with fid := some 1 }] } (fun t => t.xfers.length == 1 && t.mem == stM.mem) = true ∧ after (.copyComplete 2) s (fun t => t == s) = true ∧
      after (.copyComplete 1) { s with xfers := [xfer1 .g2g (xDesc 2 1)], poison := [2] } (fun t => errs1 t [(.g2g, 0x07, 0, 0x100)]) = true ∧
      after (.copyComplete 1) { s with xfers := [xfer1 .g2g ((xDesc 2 1).set 2 0x20000)] } (fun t => (t.part 0).faults.length == 1 && t.xfers.all (·.fid.isSome)) = true ∧
      after (.copyComplete 1) { s with xfers := [{ xfer1 .g2s ((xDesc 0 1).set 2 0) with scratch := List.range 8 }] } (fun t => readNat ((t.cluster 0).macro' 1).data 0 8 == 0x100F0E0D0C0B0A09 && t.xfers.isEmpty) = true := by
  and_intros <;> decide +kernel

/-- A collective of one member: maximum of one element at 0x100 to 0x200; the descriptor stands at 0x180. -/
def cDesc (op : Nat) : Nat := op + 2 ^ 32 + 0x100 * 2 ^ 64 + 0x200 * 2 ^ 128 + 7 * 2 ^ 320
def partC : Part := { partA with sets := [(0, 1 + 2 ^ 32), (1, 1 + 2 * 2 ^ 32)], ftag := 5 }
def stColl (op : Nat) : State := { stM with parts := [(0, partC)], lanes := [withV lane0 [(4, 0x180)]], mem := writeBytes stM.mem 0x180 (leBytes (cDesc op) 64) }
def coll1 : Coll :=
  { id := 3, part := 0, tid := 0, handle := 2, lane := ⟨0, 0, 0⟩, ctx := 0, sup := false, die := 0, pc := 0x10040, desc := cDesc 2 + 2 ^ 16, members := 2, rank := 0, pkgs := [], start := 0, stage := .combining, own := [.word 5],
    got := [(0, 1, .word 5)], mag := (0, 0), done := 0, repeats := 0, fid := none, gath := [], src := [], ready := 0, after := { defs := [], atoms := [], reqs := [] } }
def stCl (c : Coll) : State := { stColl 2 with colls := [c], teams := [setHandle team0 2 (.pending 3)] }
def req1 : CollReq := { ftag := 5, setId := 1, cid := 7, op := 2, type := 0, count := 1, qw := 0, elem := 0, members := 1, pay := .word 0x3F800000 }
def handleIs (t : State) (h : Nat) (x : Handle) : Bool := (t.team? 0).elim false fun y => y.handle h == x
theorem witness_Collectives :
    legal (stColl 2) (.coll 4 2 .device) = true ∧ (team0.handle 2 = .unused) ∧ collBad (cDesc 2) (tget 0 0 partC.sets) = false ∧ collBad (cDesc 6) (tget 0 0 partC.sets) = true ∧ collBad (cDesc 4 + 2 ^ 256) (tget 0 0 partC.sets) = true ∧
      setBad (tget 0 2 partC.sets) = true ∧ collBad (cDesc 2 + 2 ^ 17) (tget 0 2 partC.sets) = true ∧ (2 ^ 26 < dCount (cDesc 2 + 2 ^ 58)) ∧
      -- the one member's collective reads its element, writes OUT and is complete at COLL; one of two members gathers OUT and waits
      after (.coll 4 2 .device) (stColl 2) (fun t => t.colls.isEmpty && readNat t.mem 0x200 4 == 0x04030201 && handleIs t 2 (.done 0) && t.lanes.all fun l => l.pc == 0x10048) = true ∧
      after (.collComplete 3) (stCl { coll1 with members := 1 }) (fun t => readNat t.mem 0x200 5 == 5 && t.colls.isEmpty && handleIs t 2 (.done 0)) = true ∧
      after (.collComplete 3) (stCl coll1) (fun t => t.colls == [{ coll1 with gath := [4] }] && t.mem == (stCl coll1).mem && handleIs t 2 (.pending 3)) = true ∧
      (let u : State := { stColl 2 with teams := [setHandle team0 2 (.done 0)] }; after (.coll 4 2 .device) u fun t => u.lanes.all fun l => t == (u.loadVia (u.via l) 0x180 64).1.raise l (l.causeHere 0x0E 2 0)) = true ∧
      after (.coll 4 2 .device) (stColl 6) (fun t => t.colls.isEmpty && handleIs t 2 (.done 2)) = true ∧
      after (.coll 4 1 .device) { stCl coll1 with mem := (stColl 2).mem } (fun t => t.colls.length == 1 && handleIs t 1 (.done 4)) = true ∧
      after (.collw 9 2) { st with teams := [setHandle team0 2 (.done 4)] } (fun t => t.lanes.all (fun l => l.v! 9 == 4 && l.pc == 0x10048) && handleIs t 2 (.free 4)) = true ∧
      after (.collw 9 2) { st with teams := [setHandle team0 2 (.pending 3)] } (fun t => t.lanes.all fun l => l.park == .collw 2 9) = true ∧ after (.collw 9 1) st (fun t => t.lanes.all fun l => l.v! 9 == 0) = true ∧
      -- the other member's element, a request that disagrees, one that aborts, and the time
      after (.vmax req1) (stCl coll1) (fun t => t.colls.map (·.got) == [[(0, 2, .word 0x3F800000)]]) = true ∧ after (.vmin req1) (stCl coll1) (fun t => t.colls.isEmpty && handleIs t 2 (.done 3)) = true ∧
      after (.vmax { req1 with pay := .abort 5 }) (stCl coll1) (fun t => handleIs t 2 (.done 5)) = true ∧ after (.vgath { req1 with ftag := 6 }) (stCl coll1) (fun t => t.colls == [coll1] && t.collIn.isEmpty) = true ∧
      after (.collTimeout 3) { stCl coll1 with time := 100000000 } (fun t => handleIs t 2 (.done 5)) = true ∧ after (.collTimeout 3) { stCl coll1 with time := 99999999 } (fun t => t.colls == [coll1]) = true := by
  and_intros <;> decide +kernel

/-! Bundles, submission queues, placement, the token protocol. -/

def stF : State := stL [{ laneAt 0 with issuing := false, bundle := none }, { laneAt 1 with issuing := false, bundle := none }, { laneAt 2 with issuing := false, bundle := none, pc := 0x10048 }, { laneAt 3 with issuing := false, bundle := none, park := .exited }]
theorem witness_BundleFormation : stF.nextQuarter = some 0 ∧ stF.choose.isSome = true ∧ tget 0 0 stF.formed ≤ stF.cycle / 4 ∧ stF.cycle / 4 < tget 0 0 ({ stF with formed := [(0, 1)] } : State).formed ∧
    (stF.choose.elim false fun t => t.turn == 1 && tget 0 0 t.formed == 1 && t.lanes.map (·.bundle) == [some 0, some 0, some 1, none]) = true ∧ (∃ l ∈ st.lanes, l.quarter = 0 ∧ l.issuing = true) ∧ (∀ l ∈ stF.lanes, l.quarter = 0 → l.issuing = false) ∧ (∀ l ∈ stF.lanes, l.dm = false) ∧ (stF.lanes.map (·.id)).Nodup ∧
    after (.bundleFormation 0) stF (fun t => t.lanes.map (·.bundle) == [some 0, some 0, some 1, none]) = true := by decide +kernel

/-- Queue 0 of partition 0 with one entry, in frame 0. -/
def stSq (e : Nat) : State := { st with parts := [(0, { partA with sqs := [(0, { sq0 with en := true, base := 0x2000, tail := 1 })] })], mem := writeBytes [] 0x2000 (leBytes e 64) }
def headIs (t : State) (p h err : Nat) : Bool := let x := tget sq0 0 (t.part p).sqs; x.head == h && x.err == err && (x.en == (err == 0))
theorem witness_SubmissionQueues :
    (st.part 0).state = .active ∧ 31 < 32 ∧ st.serving 0 = true ∧ (stSq 0).nextQueue 0 = some 0 ∧ ((stSq 0).sqHead 0 0).2 = .entry 0 ∧ ((stSq 4).sqHead 0 0).2 = .err 2 ∧ ((stSq 0x1001).sqHead 0 0).2 = .err 2 ∧
      after (.sqDoorbell 0 0 16) st (fun t => (tget sq0 0 (t.part 0).sqs).tail == 16) = true ∧ after (.sqDoorbell 0 0 17) st (fun t => (tget sq0 0 (t.part 0).sqs).err == 1) = true ∧
      after (.sqEntryNop 0 0) (stSq 0) (fun t => headIs t 0 1 0) = true ∧ after (.sqEntryNop 0 0) (stSq 4) (fun t => headIs t 0 0 2) = true ∧
      after (.sqEntryEvsig 0 0) (stSq (2 + 0xFF0000 + 3 * 2 ^ 64)) (fun t => headIs t 0 1 0 && tget 0 255 (t.part 0).ev == 3) = true ∧
      after (.sqEntryEvwait 0 0) (stSq 3) (fun t => headIs t 0 1 0) = true ∧ (stSq (3 + 2 ^ 64)).nextQueue 0 = none ∧
      (let u : State := stSq (1 + 0x400 * 2 ^ 128)
       (u.unitRecord 0 (1 + 0x400 * 2 ^ 128)).2 = .ok 0 ∧ (({ u with poison := [8] } : State).unitRecord 0 (1 + 0x400 * 2 ^ 128)).2 = .ue ∧ ((u.checkRecord 0 0).2 matches .refuse _) = true ∧
       after (.sqEntryLaunch 0 0) u (fun t => headIs t 0 1 0 && (t.part 0).nextSeq == 3 && (t.part 0).window.length == 1) = true) ∧
      (let u : State := stP fun x => { x with dq := [{ lrec := 0, ctx := 0 }] }
       u.nextQueue 0 = some 32 ∧ after (.dqEntryTake 0) u (fun t => (t.part 0).dq.isEmpty && (t.part 0).nextSeq == 3) = true) ∧
      recIndep programRecord = false ∧ recIndep (programRecord + 2 ^ 99) = true ∧ ((st.takeRecord 0 programRecord 3 (some 0) (.ok admitA)).part 0).window.length = 2 := by decide +kernel

/-- A partition that may reach package 1, its addresses below 0x20000 in a context there. -/
def farPart (c : Nat) (x : Part) : Part := { x with ctxs := (c, 0x20000 * 2 ^ 128 + (2 ^ 50 + 2 ^ 39) * 2 ^ 192 + 0xB8 * 2 ^ 288) :: x.ctxs, peers := [(1, 1)], ftag := 5 }
/-- A LAUNCH entry whose record lies there, with parts that have come. -/
def farEntry : Nat := 0x101 + 0x400 * 2 ^ 128
def stFar (got : List (Nat × List Byte)) : State := { stSq farEntry with parts := (stSq farEntry).parts.map fun e => (e.1, { farPart 1 e.2 with recIn := got }) }
def farParts : List (Nat × List Byte) := (List.range 6).map fun i => (2 ^ 50 + 2 ^ 39 + 0x400 + 64 * i, zeros 64)
theorem witness_FarRecords :
    ((stFar []).sqHead 0 0).2 = .entry farEntry ∧ ((stFar []).unitRecord 0 farEntry).2 = .busy ∧ ((stFar farParts).unitRecord 0 farEntry).2 = .ok 0 ∧
      ((stFar [(2 ^ 50 + 2 ^ 39 + 0x400, [])]).unitRecord 0 farEntry).2 = .ue ∧
      after (.sqEntryLaunch 0 0) (stFar []) (fun t => headIs t 0 0 0 && t.peers.length == 1 && (t.peers.head?.elim false fun r => r.op == .read 64 && r.dpa == 2 ^ 50 + 2 ^ 39 + 0x400)) = true ∧
      after (.sqEntryLaunch 0 0) (stFar farParts) (fun t => headIs t 0 1 0 && (t.part 0).recIn.isEmpty && (t.part 0).nextSeq == 3) = true ∧
      (let u : State := stP (farPart 0)
       (u.readDesc lane0 0x400).2 = .busy ∧ (u.readDesc { lane0 with fetched := [(0x400, zeros 64)] } 0x400).2 = .data (zeros 64) ∧
       (u.loadVia (u.via lane0) 0x400 64).2 = .peer (2 ^ 50 + 2 ^ 39 + 0x400)) ∧
      (let r : PeerReq := { id := 5, since := 0, pc := 0, part := 0, lane := none, n := none, dpa := 2 ^ 50, op := .read 64, va := 0, store := false, acq := none, xfer := none }
       after (.ualinkResponse 5 [7]) { st with peers := [r] } (fun t => (t.part 0).recIn == [(2 ^ 50, [7])] && t.peers.isEmpty) = true ∧
       after (.peerRequestTimeout 5) { st with peers := [r], time := 2000000 } (fun t => (t.part 0).recIn == [(2 ^ 50, [])]) = true) := by decide +kernel

/-- A launch whose team is to be placed; team 0 with every group retired. -/
def stPl : State := { st with lanes := [], teams := [], clusters := [], parts := [(0, { partA with window := [launch1] })] }
def stRet : State := { stL [{ lane0 with park := .exited, issuing := false, bundle := none }] with teams := [{ team0 with groups := team0.groups.map fun g => { g with retired := true } }] }
theorem witness_Placement :
    stPl.serving 0 = true ∧ ((stPl.part 0).queue.find? fun M => M.seq == 1) = some launch1 ∧ (if recCoop launch1.lrec then recTeams launch1.lrec - 0 + 0 else 1) = 1 ∧ stPl.mayPass 0 [] = true ∧ stPl.launch? 0 1 = some launch1 ∧
      launch1.restore = [] ∧ stPl.fits 0 launch1 0 = true ∧ (stPl.placeAll 0 1 [0]).isSome = true ∧ (stPl.placeAll 0 1 [999]) = none ∧
      after (.teamPlace 0 1 [0]) stPl (fun t => t.lanes.length == 32 && t.teams.length == 1 && t.lanes.all fun l => l.pc == 0x10040 && l.park == .ready) = true ∧ after (.teamPlace 0 1 [999]) stPl (fun t => t == stPl) = true ∧
      st.team? 0 = some team0 ∧ team0.groups.all (·.retired) = false ∧ (stRet.teams.all fun t => t.groups.all (·.retired) && !stRet.teamBusy t) = true ∧
      after (.teamRetire 0) st (fun t => t == st) = true ∧ after (.teamRetire 0) stRet (fun t => t.teams.isEmpty && t.lanes.isEmpty && (t.part 0).window.isEmpty) = true ∧
      (let u : State := { stPl with clusters := (List.range 8).map fun c => (c, { cluster0 with lost := true }) }
       u.fitsSome 0 launch1 = false ∧ after (.placementHoldTimeout 0) { u with time := 1000000 } (fun t => (t.part 0).window.all (·.held)) = true ∧
         after (.placementHoldTimeout 0) { u with time := 999999 } (fun t => (t.part 0).window.all (!·.held)) = true) ∧
      (stPl.part 0).queue = [launch1] ∧ stPl.fitsSome 0 launch1 = true := by decide +kernel

/-- Line 2 as given; the messages are on their way, about line 2. -/
def stLn (l : Line) (net : List Msg) : State := { stM with lines := [(2, l)], net := net }
def msg (k : MsgKind) (a b : Fin 10) : Msg := { kind := k, line := 2, src := a, dst := b, tokens := 0, owner := false, data := false, dirty := false, la := none, epoch := 0, age := 0, excl := false, ctx := none }
def own1 (n : Nat) : Line := { line0 with holds := (line0.holds.set 8 hold0).set 1 { hold0 with t := n, owner := true, valid := true, dirty := true } }
def onLine (i : Instr) (s : State) (f : Line → List Msg → Bool) : Bool := after i s fun t => f (t.line 2) t.net
theorem witness_TokenMessages :
    let net := [msg .gets 3 1, msg .getx 3 1]
    let tok : Msg := { msg .tok 1 3 with tokens := 2, owner := true, data := true, dirty := true }
    let put : Msg := { tok with kind := .put, src := 3, dst := 8 }
    let getm := msg .getm 1 8
    let putp : Msg := { msg .putp 1 8 with la := some cell1 }
    let mash : Line := { line0 with mash := true, holders := [1], holds := (line0.holds.set 8 hold0).set 1 { hold0 with partialLA := some cell1 } }
    (own1 1).holds[1].pact = none ∧ Flying (stLn (own1 2) net) (msg .gets 3 1) .gets ∧ Flying (stLn (own1 2) net) (msg .getx 3 1) .getx ∧ Flying (stLn line0 [tok]) tok .tok ∧ Flying (stLn line0 [put]) put .put ∧
      tok.epoch = (stLn line0 [tok]).epochOf 2 ∧ ({ tok with epoch := 1 } : Msg).epoch ≠ (stLn line0 [tok]).epochOf 2 ∧ HomeIdle (stLn line0 [put]) 2 ∧ Flying (stLn mash [getm]) getm .getm ∧ getm.tokens = 0 ∧ mash.folding = false ∧ mash.mash = true ∧
      Flying (stLn mash [putp]) putp .putp ∧ 2 ∉ stM.poison ∧ stM.mem.wf = true ∧ Flying (stLn mash [msg .fold 8 1]) (msg .fold 8 1) .fold ∧ Flying (stLn mash [msg .part 1 8]) (msg .part 1 8) .part ∧ (own1 0).holds[1].t = 0 ∧
      onLine (.gets (msg .gets 3 1)) (stLn (own1 2) net) (fun l n => l.holds[1].t == 1 && l.holds[1].owner && n == [msg .getx 3 1, { msg .tok 1 3 with tokens := 1, data := true }]) = true ∧
      onLine (.gets (msg .gets 3 1)) (stLn (own1 1) net) (fun l n => l.holds[1].t == 0 && n == [msg .getx 3 1, { tok with tokens := 1 }]) = true ∧ onLine (.getx (msg .getx 3 1)) (stLn (own1 2) net) (fun l n => l.holds[1].t == 0 && n == [msg .gets 3 1, tok]) = true ∧
      onLine (.tok tok) (stLn { line0 with holds := line0.holds.set 8 hold0 } [tok]) (fun l n => l.holds[3] == { hold0 with t := 2, owner := true, valid := true, dirty := true } && n.isEmpty) = true ∧
      onLine (.tok { tok with epoch := 1 }) (stLn line0 [{ tok with epoch := 1 }]) (fun l n => l == line0 && n.isEmpty) = true ∧ onLine (.put put) (stLn { line0 with holds := line0.holds.set 8 hold0 } [put]) (fun l n => l.holds[8].t == 2 && l.holds[8].owner && !l.holds[8].dirty && n.isEmpty) = true ∧
      onLine (.getm getm) (stLn mash [getm]) (fun l n => l.holders == [1] && l.holds[1].partialLA == some cell1 && n.isEmpty) = true ∧
      after (.putp putp) { stLn mash [putp] with mem := [] } (fun t => laOfImage (readNat t.mem 0x100 96) == cell1 && (t.line 2).holders.isEmpty) = true ∧
      onLine (.foldMsg (msg .fold 8 1)) (stLn mash [msg .fold 8 1]) (fun l n => l.holds[1].partialLA == none && n == [{ msg .part 1 8 with la := some cell1 }]) = true ∧
      onLine (.part (msg .part 1 8)) (stLn mash [msg .part 1 8]) (fun l n => l.holders.isEmpty && n.isEmpty) = true := by
  unfold Flying HomeIdle; and_intros <;> decide +kernel
theorem witness_PersistentRequests :
    let req : TokReq := { agent := 3, excl := true, attempt := 1, failed := false, persistent := false, age := 0, sent := 0, retryAt := 0, ctx := none }
    let w : List TokReq → Line := fun rs => { line0 with reqs := rs }
    let at' : Nat → Line → State := fun c l => { stLn l [] with cycle := c }
    let act : Line := { own1 4 with active := some 3, persist := [(3, 0, true)] }
    let ack : Msg := { msg .ack 1 8 with excl := true }
    (w [req]).reqs.find? (fun r => r.agent == 3) = some req ∧ ¬((w [req]).holds[3].t = 16) ∧ (at' 4096 (w [{ req with attempt := 4 }])).persistOk 2 3 = true ∧ Flying (stLn line0 [msg .preq 3 8]) (msg .preq 3 8) .preq ∧ (∀ e ∈ line0.persist, e.1 ≠ 3) ∧
      Flying (stLn act [msg .pact 8 1]) (msg .pact 8 1) .pact ∧ act.active = some 3 ∧ (∃ e ∈ act.persist, e.1 = (3 : Fin 10)) ∧ Flying (stLn act [msg .pdeact 8 1]) (msg .pdeact 8 1) .pdeact ∧ Flying (stLn act [msg .pdone 3 8]) (msg .pdone 3 8) .pdone ∧
      Flying (stLn act [ack]) ack .ack ∧ (∃ b ∈ ({ act with acks := [1, 2] } : Line).acks, b ≠ ack.src) ∧ (∀ b ∈ ({ act with acks := [1], persist := [] } : Line).acks, b = ack.src) ∧
      onLine (.tokenAttemptTimeout 2 3) (at' 1023 (w [req])) (fun l _ => l.reqs == [req]) = true ∧ onLine (.tokenAttemptTimeout 2 3) (at' 1024 (w [req])) (fun l _ => l.reqs.map (fun r => (r.failed, r.attempt)) == [(true, 1)]) = true ∧
      onLine (.tokenAttemptTimeout 2 3) (at' 1024 { w [req] with holds := (line0.holds.set 8 hold0).set 3 { hold0 with t := 16, valid := true } }) (fun l _ => l.reqs.isEmpty) = true ∧
      onLine (.tokenAttemptTimeout 2 3) (at' 4096 (w [{ req with attempt := 4 }])) (fun _ n => n == [{ msg .preq 3 8 with excl := true }]) = true ∧
      onLine (.tokenRetry 2 3) (at' 0 (w [{ req with failed := true }])) (fun l n => l.reqs == [{ req with attempt := 2 }] && n.length == 9) = true ∧
      onLine (.preq (msg .preq 3 8)) (stLn line0 [msg .preq 3 8]) (fun l _ => l.persist == [(3, 0, false)] && l.active == some 3) = true ∧
      onLine (.pact (msg .pact 8 1)) (stLn act [msg .pact 8 1]) (fun l n => l.holds[1].t == 0 && l.holds[1].pact == some 3 && n.length == 2) = true ∧
      onLine (.pdeact (msg .pdeact 8 1)) (stLn act [msg .pdeact 8 1]) (fun l n => l.holds[1].pact == none && n == [ack]) = true ∧
      onLine (.pdone (msg .pdone 3 8)) (stLn act [msg .pdone 3 8]) (fun l n => l.persist.isEmpty && n.length == 9) = true ∧
      onLine (.persistentAck ack) (stLn { act with acks := [1, 2] } [ack]) (fun l n => l.acks == [2] && n.isEmpty) = true ∧
      onLine (.persistentAck ack) (stLn { act with acks := [1], persist := [] } [ack]) (fun l _ => l.active == none) = true ∧ onLine (.persistentAck (msg .ack 1 8)) (stLn act [msg .ack 1 8]) (fun l n => l == act && n.isEmpty) = true := by
  unfold Flying; and_intros <;> decide +kernel

/-! The host, the loss of a die, the memory controllers, frames and extents. -/

def hostSt (o : List Out) (hl : Tbl HostLine) : State := { stM with out := o, hostLines := hl }
def outs (i : Instr) (s : State) (f : State → Bool) : Bool := after i s f
def hline : HostLine := { owned := true, dirty := true, data := leBytes 0x77 64 }
/-- The host proxy holds n tokens of line 2, the owner token among them. -/
def hostLn (n : Nat) : Line := { line0 with holds := (line0.holds.set 8 { hold0 with t := 16 - n }).set 9 { hold0 with t := n, owner := true, valid := true } }
theorem witness_HostTraffic :
    0x100 + 2 ≤ 2 ^ 39 ∧ (∀ ln ∈ linesOf 0x17F 2, (stM.line ln).active = none ∧ (stM.line ln).mash = false) ∧ linesOf 0x17F 2 = [2, 3] ∧ hostByteAt stM 0x103 = 4 ∧
      hostByteAt { stM with fot := [(0, 0x200)], fronts := [(0, 2)] } 0x103 = 0 ∧ hostByteAt { stM with fot := [(0, 0x200)], fronts := [(0, 3)] } 0x103 = 4 ∧
      fotState (stM.fotOf 0) ≠ 2 ∧ stM.mem.wf = true ∧ stM.codeOwner 0x100 = none ∧ stM.codeOwner 0x10040 = some (0, 0x10000) ∧ 0x17F % 128 + 1 ≤ 128 ∧ Out.bisnp 2 true ∉ (hostSt [.bisnp 2 false] []).out ∧ 2 ≤ (hostLn 3).holds[(9 : Fin 10)].t ∧ st.hostLines.length < 131072 ∧
      Out.bisnp 2 true ∈ (hostSt [.bisnp 2 true] []).out ∧ HomeIdle { hostSt [.bisnp 2 true] [] with lines := [(2, hostLn 3)] } 2 ∧ NoTvec stM ∧ 0 < (hostLn 3).holds[(9 : Fin 10)].t ∧
      Out.cxlCache 5 false ∈ (hostSt [.cxlCache 5 false] []).out ∧ Out.cxlCache 5 true ∉ (hostSt [.cxlCache 5 false] []).out ∧ (leBytes 0x99 64).length = 64 ∧
      after (.hostMemWrite 0x17F [0xAB]) stM (fun t => readNat t.mem 0x17F 2 == 0xAB) = true ∧ after (.hostMemWrite 0x10040 [0xAB]) stM (fun t => t.mem == stM.mem) = true ∧
      after (.birsp ⟨2, none⟩) { hostSt [.bisnp 2 true] [] with lines := [(2, hostLn 3)] } (fun t => (t.line 2).holds[9].t == 0 && (t.line 2).holds[8].t == 16 && (t.line 2).holds[8].owner && t.out.isEmpty) = true ∧
      after (.birsp ⟨2, none⟩) { hostSt [.bisnp 2 false] [] with lines := [(2, hostLn 3)] } (fun t => (t.line 2).holds[9].t == 2 && !(t.line 2).holds[9].owner && (t.line 2).holds[8].owner) = true ∧
      after (.birsp ⟨2, some (leBytes 0x99 128)⟩) { hostSt [.bisnp 2 true] [] with lines := [(2, hostLn 16)] } (fun t => (t.line 2).holds[8].t == 16 && readNat t.mem 0x100 2 == 0x99) = true ∧ after (.birsp ⟨2, none⟩) stM (fun t => t == stM) = true ∧
      -- a persistent request is active on the line
      (let u : State := { stM with lines := [(2, { line0 with active := some 3, persist := [(3, 0, true)] })] }
       after (.hostMemWrite 0x100 [9]) u (fun t => t.mem == stM.mem && t.hostWait.length == 1) = true ∧ after (.hostMemRead 0x100 2) u (fun t => t.hostWait == [{ addr := 0x100, n := 2, data := none, sync := none }]) = true) ∧
      after (.snpinv 5) stM (fun t => t.out == [.snoopReply 5 []]) = true ∧ after (.snpinv 5) (hostSt [] [(5, hline)]) (fun t => t.hostLines.isEmpty && readNat t.hostMem 320 9 == 0x77 && t.out == [.snoopReply 5 (leBytes 0x77 64)]) = true ∧
      after (.snpdata 5) (hostSt [] [(5, hline)]) (fun t => t.hostLines == [(5, { hline with owned := false, dirty := false })]) = true ∧
      after (.cxlCacheResponse 5 (leBytes 0x99 64)) (hostSt [.cxlCache 5 false] []) (fun t => t.hostLines == [(5, { owned := false, dirty := false, data := leBytes 0x99 64 })] && t.out.isEmpty) = true := by
  unfold HomeIdle NoTvec; and_intros <;> decide +kernel
theorem witness_DieLoss : Keyed st ∧ 0 ∉ st.lostDies ∧ (3 : Fin 4).val ∈ ({ st with lostDies := [3] } : State).lostDies ∧ fld (st.part 0).triples 0 16 ≠ 0 ∧ fld (st.part 0).triples 48 16 = 0 ∧
    after (.dieLost 0) st (fun t => t.lostDies == [0] && (t.cluster 47).lost && !(t.cluster 48).lost && t.epochOf 5 == 1 && (t.part 0).haltCause == some (0x25, 0)) = true ∧
    after (.dieLost 3) st (fun t => (t.part 0).state == .active && (t.cluster 191).lost) = true := by unfold Keyed; decide +kernel

def req0 : HbmReq := { id := 1, part := 0, ctx := none, dpa := 0, age := 0, expired := false }
/-- A request for row 0 and a younger one for row 8193 of the same bank and group; row 8193 may be pinned. -/
def stHbm (pins : List Pin) (cycle : Nat) : State := { st with hbmq := [(0, [req0, { req0 with id := 2, dpa := 1024 * 8193, age := 10 }])], pins := pins, cycle := cycle }
def pin1 : Pin := { tid := 0, part := 0, row := 8193, state := .pinned }
theorem witness_MemoryControllers :
    st.pickReq 511 = none ∧ ((stHbm [] 0).pickReq 0).map (·.1.id) = some 1 ∧ (stHbm [pin1] 0).heldOff req0 = true ∧ (stHbm [] 0).heldOff req0 = false ∧ (stHbm [] 4097).overAge req0 = true ∧ (stHbm [] 4096).overAge req0 = false ∧ ((stHbm [pin1] 0).pickReq 0).map (·.1.id) = some 2 ∧
      rowBank 8193 = rowBank 0 ∧ bankKey (hbmPc 0) (hbmBank 0) = 0 ∧
      after (.hbmRequestServed 0) (stHbm [] 0) (fun t => (tget [] 0 t.hbmq).map (·.id) == [2] && t.openRow 0 0 == some 0) = true ∧ after (.hbmRequestServed 511) st (fun t => t == st) = true ∧
      after (.agecapExpiry 1) (stHbm [] 4096) (fun t => t == stHbm [] 4096) = true ∧ after (.agecapExpiry 1) (stHbm [] 4097) (fun t => (tget [] 0 t.hbmq).map (·.expired) == [true, false]) = true ∧
      after (.agecapExpiry 1) (stHbm [pin1] 4097) (fun t => t.pins == [{ pin1 with state := .broken 2 }] && t.openRow 0 0 == some 0) = true ∧
      after (.bankRefresh 0 0) (stHbm [pin1] 0) (fun t => (tget dbank0 0 t.banks).owed == 1 && t.pins == [pin1]) = true ∧
      after (.bankRefresh 0 0) { stHbm [pin1] 0 with banks := [(0, { dbank0 with owed := 7 })] } (fun t => (tget dbank0 0 t.banks).owed == 0 && t.pins == [{ pin1 with state := .broken 1 }]) = true ∧
      after (.bankRefresh 511 15) st (fun t => (tget dbank0 8191 t.banks).refreshes == 1) = true ∧
      oldestReq ((tget [] 0 ({ st with sideq := [(0, [req0])] } : State).sideq).filter fun r => !({ st with sideq := [(0, [req0])] } : State).heldOff r) = some req0 ∧
      after (.hotSideActivation 0 0) { st with sideq := [(0, [req0])] } (fun t => t.openRow 0 0 == some 0 && (tget [] 0 t.sideq).isEmpty) = true ∧ after (.hotSideActivation 0 0) st (fun t => t == st) = true ∧
      after (.hotWindowEnd 0) { st with sideq := [(0, [req0])], banks := [(0, { dbank0 with hot := [0], acts := [(0, 9)] })] } (fun t => (tget [] 0 t.hbmq) == [req0] && (tget dbank0 0 t.banks).hot.isEmpty) = true := by
  and_intros <;> decide +kernel

def extent0 : Extent := { off := 2 ^ 21, hpa := 0, len := 2 ^ 21, owner := 0, state := .live }
def stFot (i : Nat) (old : BitVec 16) : State := { stP fun x => { x with colours := 1 } with fotidx := i, fot := [(0, old)] }
theorem witness_FramesAndExtents :
    ({ st with fotidx := 8388608 } : State).fotStatus 8388608 0x100 = 3 ∧ fotState (0x200 : BitVec 16) = 2 ∧ fld (0x100 : BitVec 16).toNat 8 2 = 1 ∧ (st.extents.find? fun e => e.1 == 0) = none ∧ 255 < 256 ∧
      fotState ((stFot 0 0x200).fotOf 0) = 2 ∧ (stFot 0 0x200).frontOf 0 < 512 ∧ ({ stFot 0 0x200 with fronts := [(0, 511)] } : State).frontOf 0 = 511 ∧ (stFot 0 0x100).mem.wf = true ∧
      after (.tlbLeaseExpiry 3) st (fun t => t == st) = true ∧ after (.ptsyncRead 0) st (fun t => t.out == [.mmioData (.vf 0) 4 0] && t.mem == st.mem) = true ∧
      after (.fotdataWrite 0x100) { st with fotidx := 8388608 } (fun t => t.fotstat == 3 && t.fot == st.fot) = true ∧
      after (.scrubFrontAdvance 0) { stFot 0 0x200 with mem := writeBytes [] 0x7F [1, 2] } (fun t => t.frontOf 0 == 1 && readNat t.mem 0x7F 2 == 0x200 && t.fotOf 0 == 0x200) = true ∧
      after (.scrubFrontAdvance 0) { stFot 0 0x200 with fronts := [(0, 511)] } (fun t => t.fotOf 0 == 0x100) = true ∧ after (.scrubFrontAdvance 0) { stFot 0 0x280 with fronts := [(0, 511)] } (fun t => t.fotOf 0 == 0) = true ∧
      after (.scrubFrontAdvance 1) st (fun t => t == st) = true ∧
      after (.extentEntryWrite 255 { extent0 with off := 2 ^ 21 + 5, owner := 65 }) st (fun t => t.extents == [(255, { extent0 with owner := 1 })]) = true ∧ after (.extentEntryWrite 256 extent0) st (fun t => t == st) = true ∧
      after (.extentDrain 7) { st with extents := [(7, extent0)] } (fun t => t.extents == [(7, { extent0 with state := .draining })]) = true ∧
      after (.extentDrainComplete 7) { st with extents := [(7, { extent0 with state := .draining })] } (fun t => t.extents == [(7, { extent0 with state := .free })]) = true := by
  and_intros <;> decide +kernel
/-- Every FOTSTAT but RANGE is met for a frame that the firmware does not reserve, and RANGE for one that it does. -/
theorem witness_fotStatus : ({ stFot 0 0 with reserved := [0] } : State).fotStatus 0 0x100 = 3 ∧ (stFot 0 0).fotStatus 0 0x100 = 0 ∧ (stFot 0 0x100).fotStatus 0 0x200 = 0 ∧ (stFot 0 0x200).fotStatus 0 0x100 = 2 ∧
    (stFot 0 0x100).fotStatus 0 0 = 2 ∧ (stFot 0 0x100).fotStatus 0 0x500 = 2 ∧ (stFot 0 0).fotStatus 0 0x500 = 1 := by
  decide +kernel

/-! Faults, stops, pre-emption, partitions. -/

def faultRec : FaultRec := { fid := 1, fault := { reason := 1, va := 0x20000, write := false, fetch := false }, pc := 0x10040, lanes := [(⟨0, 0, 0⟩, 0x20004)], xfer := none, coll := none, repeats := 2 }
def stPark : State := { stL [{ lane0 with park := .fault 1, issuing := false, bundle := none }] with parts := [(0, { partA with faults := [faultRec], nextFid := 2 })] }
def who0 : HaltWho := { launch := 1, team := 0, quarter := 0, group := 0, lanes := 1, pc := 0x10040 }
def fqA : Ring := { ring0 4 with en := true, base := 0x2000 }
def stHalt (left : List (Nat × Nat)) : State := { stP fun x => { x with state := .halted, haltCause := some (0x27, 0), unitsLeft := left } with mem := stM.mem }
/-- The quarter of the lane is frozen, with one returned result. -/
def stFrz : State := { stL [{ lane0 with issuing := false, bundle := none, deferred := [{ def0 with vdst := [(3, 7)] }] }] with frozen := [{ quarter := 0, dumped := false, who := who0 }] }
theorem witness_FaultsAndStops :
    Open st 0 ∧ (∀ f ∈ (st.part 0).faults, f.fid ≠ fld (5 : Word).toNat 0 24) ∧ fld (0x01000001 : Word).toNat 24 7 ≠ 0 ∧ (0x80000001 : Word).getLsbD 31 = true ∧ fld (0x80000001 : Word).toNat 24 7 = 0 ∧ NoneDue stPark 0 ∧
      (stPark.part 0).faults.find? (fun g => g.fid == 1) = some faultRec ∧ (faultRec.lanes.map (·.1)).Nodup ∧ (∀ x ∈ faultRec.lanes, ∃ l ∈ stPark.lanes, stPark.lane? x.1 = some l ∧ l.park = .fault 1 ∧ l.marker = false ∧ l.bundle = none ∧ l.issuing = false) ∧
      (stP fun x => { x with fq := fqA, heldRecs := [5] }).mayWrite 0 0x203F = true ∧ fqA.room = true ∧ fqA.addr = 0x2000 ∧ (∀ ln ∈ linesOf 0x2000 64, (st.line ln).mash = false) ∧ st.mem.wf = true ∧ (st.part 0).stopbase = 0 ∧
      (stFrz.frozen.find? fun e => e.quarter == 0 && !e.dumped) = some { quarter := 0, dumped := false, who := who0 } ∧ stFrz.quarterStill 0 = true ∧ stFrz.partOf 0 = some 0 ∧ stFrz.isFrozen 0 = true ∧ (stFrz.part 0).clusters.contains 0 = true ∧ (∀ l ∈ stFrz.lanes, l.pfault = none ∧ l.trap = none ∧ l.marker = false ∧ l.stepPend = none) ∧
      after (.replay 0 5) st (fun t => (t.part 0).replaystat) = true ∧ after (.replayAbort 0 0x81000001) stPark (fun t => (t.part 0).replaystat && (t.part 0).faults == [faultRec]) = true ∧
      after (.replay 0 1) stPark (fun t => t.lanes.all (fun l => l.park == .ready && l.repeats == 3 && l.pc == 0x10040) && (t.part 0).faults.isEmpty) = true ∧
      after (.replayAbort 0 0x80000001) { stPark with parts := [(0, { partA with faults := [faultRec], tvec := 0x8000 })] } (fun t => t.lanes.all fun l => l.depth == 1 && l.tval == 0x20004 && l.ssw.toNat % 16 != 99 && l.pc == 0x8040) = true ∧
      after (.faultQueueHeldWrite 0) (stP fun x => { x with fq := fqA, heldRecs := [5] }) (fun t => (t.part 0).heldRecs.isEmpty && readNat t.mem 0x2000 64 == 5 && (t.part 0).fq.tail == 1) = true ∧ after (.faultQueueHeldWrite 0) st (fun t => t == st) = true ∧
      after (.unitStop 0) st (fun t => t == st) = true ∧ after (.unitStop 0) (stHalt [(1, 0), (4, 0)]) (fun t => (t.part 0).unitsLeft == [(4, 0)] && t.mem == stM.mem && t.teams.length == 1) = true ∧
      after (.unitStop 0) (stHalt [(4, 0)]) (fun t => (t.part 0).window.isEmpty && t.teams.isEmpty && t.lanes.isEmpty) = true ∧
      after (.qstopDump 0) st (fun t => t == st) = true ∧ after (.qresume 0 1) stFrz (fun t => t == stFrz) = true ∧ after (.qresume 0 0) stFrz (fun t => t.frozen.isEmpty && t.lanes.all fun l => l.v! 3 == 7 && l.deferred.isEmpty) = true := by
  unfold Open NoneDue; and_intros <;> decide +kernel

/-! Save areas at address 0: a guest's of 256 bytes without launches, a hypervisor's with its partition block; each carries its digest. -/

def saveLen (kind : Nat) : Nat := if kind = 2 then 256 + partBlockBytes else 256
def saveHead (kind : Nat) : Nat := saveHeader 0 kind 1 0 0 (saveLen kind) 0
def saveDigest (kind : Nat) : BitVec 512 := hash512 (leBytes (saveHead kind) 192 ++ zeros (saveLen kind - 256))
def saveArea (kind : Nat) : List Byte := leBytes (saveHead kind) 192 ++ (leBytes (saveDigest kind).toNat 64 ++ zeros (saveLen kind - 256))
def savedA (kind : Nat) : Saved := { hyp := kind == 2, forced := false, tails := [], launches := [] }
theorem leNat_append (a b : List Byte) : leNat (a ++ b) = leNat a + 256 ^ a.length * leNat b := by
  induction a with
  | nil => simp [leNat]
  | cons x a ih => simp only [List.cons_append, leNat, ih, List.length_cons, Nat.pow_succ]; ring
theorem fld_low (h n x lo w : Nat) (hn : lo + w ≤ n) : fld (h + 2 ^ n * x) lo w = fld h lo w := by
  unfold fld
  obtain ⟨k, rfl⟩ := Nat.exists_eq_add_of_le hn
  rw [show 2 ^ (lo + w + k) * x = 2 ^ lo * (2 ^ w * (2 ^ k * x)) by rw [Nat.pow_add, Nat.pow_add]; ring, Nat.add_mul_div_left _ _ (Nat.two_pow_pos lo), Nat.add_mul_mod_self_left]
theorem take_readBytes (m : Memory) (a n k : Nat) : (readBytes m a (n + k)).take n = readBytes m a n := by
  induction n generalizing a with
  | zero => simp [readBytes]
  | succ n ih => rw [Nat.succ_add, readBytes, readBytes, List.take_succ_cons, ih]
set_option exponentiation.threshold 600 in
theorem digest_lt (d : BitVec 512) : d.toNat < 256 ^ 64 := lt_of_lt_of_eq d.isLt (by rw [show (256 : Nat) = 2 ^ 8 from rfl, ← Nat.pow_mul])
set_option exponentiation.threshold 2000 in
theorem leNat_head (h : Nat) (d : BitVec 512) (hh : h % 256 ^ 192 = h) : leNat (leBytes h 192 ++ leBytes d.toNat 64) = h + 2 ^ 1536 * d.toNat := by
  rw [leNat_append, leNat_leBytes, leNat_leBytes, leBytes_length, Nat.mod_eq_of_lt (digest_lt d), hh, show (256 : Nat) = 2 ^ 8 from rfl, ← Nat.pow_mul]
theorem saveArea_digest (kind : Nat) : digestField (saveArea kind) = areaDigest (saveArea kind) := by
  have h : (leBytes (saveHead kind) 192).length = 192 := leBytes_length _ _
  have h2 : (leBytes (saveDigest kind).toNat 64).length = 64 := leBytes_length _ _
  have hf : digestField (saveArea kind) = saveDigest kind := by
    rw [digestField, saveArea, digestAt, List.drop_left' h, List.take_left' h2, leNat_leBytes, Nat.mod_eq_of_lt (digest_lt _)]
    simp
  rw [hf, areaDigest, saveArea, digestAt, List.take_left' h, ← List.append_assoc, List.drop_left' (by rw [List.length_append, h, h2]), saveDigest]
/-- A partition without clusters keeps its saves in the four frames from address 0. -/
def stSv (kind : Nat) (f : Part → Part) : State :=
  { st with lanes := [], teams := [], fot := (List.range 4).map fun n => (n, 0x100), mem := writeBytes [] 0 (saveArea kind),
            parts := [(0, f { partA with triples := 0, window := [], saveres := 0, savefr := 4, saved := [savedA kind], pre := { part0.pre with savefr := 1, ctxmask := 1 } })] }
set_option exponentiation.threshold 2000 in
theorem areaAt_holds (kind : Nat) (hk : kind = 1 ∨ kind = 2) (s : State) (f : Nat) (hf : kind ≤ 1 ∧ 1 ≤ f ∨ 4 ≤ f) (hm : s.mem = writeBytes [] 0 (saveArea kind))
    (hp : s.poison = []) : s.areaAt 0 0 f (kind == 2) = some (saveArea kind) := by
  have hn : 256 ≤ saveLen kind ∧ saveLen kind ≤ 65536 * f := by rcases hk with rfl | rfl <;> simp [saveLen, partBlockBytes] <;> omega
  have hl : (saveArea kind).length = saveLen kind := by simp only [saveArea, List.length_append, leBytes_length, zeros, List.length_replicate]; omega
  have hr : readBytes s.mem 0 (saveLen kind) = saveArea kind := by rw [hm, ← hl]; exact readBytes_writeBytes (m := []) rfl 0 _
  have h0 : readBytes s.mem 0 256 = (saveArea kind).take 256 := by
    obtain ⟨k, hk⟩ := Nat.exists_eq_add_of_le hn.1
    rw [← hr, hk, take_readBytes]
  have hd : saveHead kind % 256 ^ 192 = saveHead kind := by rcases hk with rfl | rfl <;> decide +kernel
  have hh : leNat (readBytes s.mem 0 256) = saveHead kind + 2 ^ 1536 * (saveDigest kind).toNat := by
    rw [h0, saveArea, ← List.append_assoc, List.take_left' (by rw [List.length_append, leBytes_length, leBytes_length]), leNat_head _ _ hd]
  have e := fun lo w (h : lo + w ≤ 1536) => fld_low (saveHead kind) 1536 (saveDigest kind).toNat lo w h
  obtain ⟨ha, hb, hc, hd, he⟩ : fld (saveHead kind) 0 32 = saveMagic ∧ fld (saveHead kind) 32 32 = 1 ∧ fld (saveHead kind) 256 8 = 0 ∧
    fld (saveHead kind) 264 8 = (if (kind == 2) = true then 2 else 1) ∧ fld (saveHead kind) 352 32 = saveLen kind := by rcases hk with rfl | rfl <;> decide +kernel
  unfold State.areaAt
  simp only [hh, e _ _ (by decide : 0 + 32 ≤ 1536), e _ _ (by decide : 32 + 32 ≤ 1536), e _ _ (by decide : 256 + 8 ≤ 1536), e _ _ (by decide : 264 + 8 ≤ 1536),
    e _ _ (by decide : 352 + 32 ≤ 1536), ha, hb, hc, hd, he, hr, saveArea_digest, hp]
  exact if_pos (by simp [hn])
/-- A valid save of each kind, and the launches it holds: none. -/
theorem witness_saves : (stSv 1 id).savedAt 0 0 1 = some [] ∧ (stSv 2 fun x => { x with state := .suspended }).windowAt 0 = some [] := by
  have hl : ∀ k, (saveArea k).length = saveLen k := fun k => by
    simp only [saveArea, List.length_append, leBytes_length, zeros, List.length_replicate, saveLen]; split <;> omega
  constructor
  · unfold State.savedAt
    have h : (stSv 1 id).areaAt 0 0 1 false = some (saveArea 1) := areaAt_holds 1 (.inl rfl) _ 1 (by omega) (by simp only [stSv]) (by simp only [stSv]; rfl)
    have hs : ((stSv 1 id).part 0).saved = [savedA 1] := by simp [stSv, State.part, tget]
    simp [h, hs, savedA, areaMatches, areaLaunches, teamBlocks, chunks, cutBytes, launchesFrom, hl, saveLen]
  · unfold State.windowAt
    have h : (stSv 2 fun x => { x with state := .suspended }).areaAt 0 ((stSv 2 fun x => { x with state := .suspended }).part 0).saveres
        ((stSv 2 fun x => { x with state := .suspended }).part 0).savefr true = some (saveArea 2) :=
      areaAt_holds 2 (.inr rfl) _ 4 (by omega) (by simp only [stSv]) (by simp only [stSv]; rfl)
    have hs : ((stSv 2 fun x => { x with state := .suspended }).part 0).saved = [savedA 2] := by simp [stSv, State.part, tget]
    have hw : ((stSv 2 fun x => { x with state := .suspended }).part 0).window = [] := by simp [stSv, State.part, tget]
    simp [h, hs, hw, savedA, areaMatches, areaLaunches, teamBlocks, chunks, cutBytes, launchesFrom, hl, saveLen]

theorem witness_Preemption :
    let s : State := stSv 1 id
    s.serving 0 = true ∧ (s.part 0).saveMax = 1 ∧ (s.part 0).pre.step = 0 ∧ s.ownsArea 0 0 1 = true ∧ s.ownsArea 0 0x40000 1 = false ∧ (∀ e ∈ s.lines, e.2.mash = false) ∧ (∀ E ∈ (savedA 1).launches, ∀ L ∈ (s.part 0).window, L.seq ≠ E.seq) ∧ s.toSave 0 = [] ∧
      ((0 : Nat) % 65536 = 0 ∧ s.mayWrite 0 0 = true) ∧ Memory.wf (writeBytes [] 0 [1]) = true ∧
      after (.preempt 0) s (fun t => (t.part 0).pre.step == 1 && (t.part 0).pre.status == 0) = true ∧ after (.preempt 0) (stSv 1 fun x => { x with pre := { x.pre with step := 2 } }) (fun t => (t.part 0).pre.status == 1) = true ∧
      after (.preempt 0) (stSv 1 fun x => { x with pre := { x.pre with savefr := 0 } }) (fun t => (t.part 0).pre.status == 2) = true ∧ after (.preemptResume 0) (stSv 1 fun x => { x with pre := { x.pre with savebase := 0x40000 } }) (fun t => (t.part 0).pre.status == 3) = true ∧
      after (.preemptResume 0) { s with mem := [] } (fun t => (t.part 0).pre.status == 4) = true ∧ after (.preempt 0) (stSv 1 fun x => { x with state := .halted }) (fun t => (t.part 0).pre.step == 0 && (t.part 0).pre.status == 0) = true ∧
      after (.draintExpiry 0) { stSv 1 (fun x => { x with pre := { x.pre with step := 1 } }) with time := 200000 } (fun t => (t.part 0).pre.step == 2) = true ∧ after (.draintExpiry 0) { stSv 1 (fun x => { x with pre := { x.pre with step := 1 } }) with time := 199999 } (fun t => (t.part 0).pre.step == 1) = true ∧
      after (.savetExpiry 0) { stSv 1 (fun x => { x with pre := { x.pre with step := 2 } }) with time := 2000000 } (fun t => (t.part 0).state == .resetting && (t.part 0).pre.status == 5) = true ∧ after (.savetExpiry 0) { stSv 1 (fun x => { x with pre := { x.pre with step := 2 } }) with time := 1999999 } (fun t => (t.part 0).pre.step == 2) = true ∧
      after (.draintExpiry 0) (stSv 1 fun x => { x with hypStep := 1 }) (fun t => (t.part 0).hypStep == 2) = true ∧ (stSv 1 fun x => { x with hypStep := 2 }).serving 0 = true ∧
      (∀ k ∈ team0.macros, ((st.cluster team0.cluster).macro' k).poison = []) ∧ st.launch? 0 1 = some { launch1 with placed := 1 } ∧ (st.saveTeam team0).lanes = [] ∧ (st.saveTeam team0).teams = [] ∧
      (((st.saveTeam team0).launch? 0 1).elim false fun L => L.restore.length == 1 && L.restore.all fun v => v.lanes == [lane0]) = true := by
  and_intros <;> decide +kernel

/-- An inactive partition that passes every check but those of the frames. -/
def stIn (f : Part → Part) : State :=
  { stSv 1 id with parts := [(0, f { part0 with triples := 1, share := 256, colours := 1, vfp := 3 }), (1, { part0 with state := .active, triples := 2, share := 1, vfp := 4 })] }
def statusIs (t : State) (n : Nat) : Bool := (t.part 0).status == n
theorem witness_PartitionLife :
    0 < 64 ∧ (st.part 0).state ≠ .inactive ∧ ((stIn id).part 0).state = .inactive ∧ ((stIn id).part 0).poladdr = 0 ∧
      after (.partitionActivate 0) st (fun t => statusIs t 7) = true ∧ after (.partitionActivate 0) (stIn fun x => { x with triples := 2 }) (fun t => statusIs t 2) = true ∧ after (.partitionActivate 0) (stIn fun x => { x with triples := 0 }) (fun t => statusIs t 2) = true ∧
      after (.partitionActivate 0) (stIn id) (fun t => statusIs t 3) = true ∧ after (.partitionActivate 0) (stIn fun x => { x with share := 255, colours := 0 }) (fun t => statusIs t 4) = true ∧ after (.partitionActivate 0) (stIn fun x => { x with share := 255, vfp := 4 }) (fun t => statusIs t 5) = true ∧
      after (.partitionActivate 0) (stIn fun x => { x with share := 255, saveMaxH := 1000 }) (fun t => statusIs t 8) = true ∧
      after (.partitionHalt 0) st (fun t => (t.part 0).state == .active && (t.part 0).halting && (t.part 0).haltCause == some (0x27, 0) && statusIs t 0) = true ∧ after (.partitionHalt 0) (stP fun x => { x with state := .halted }) (fun t => statusIs t 7) = true ∧
      after (.partitionReset 0) st (fun t => (t.part 0).state == .resetting && !(t.part 0).thenInactive) = true ∧ after (.partitionDeactivate 0) (stP fun x => { x with state := .halted }) (fun t => (t.part 0).state == .resetting && (t.part 0).thenInactive) = true ∧
      after (.partitionReset 0) (stSv 1 fun x => { x with state := .suspended }) (fun t => statusIs t 7) = true ∧ after (.partitionDeactivate 0) (stP fun x => { x with state := .suspending }) (fun t => statusIs t 7) = true ∧
      after (.partitionDeactivate 0) (stSv 2 fun x => { x with state := .suspended }) (fun t => (t.part 0).state == .inactive && (t.part 0).saved.isEmpty && t.fotOf 3 == 0x280) = true ∧
      after (.partitionSuspend 0) st (fun t => (t.part 0).state == .suspending && (t.part 0).hypStep == 1) = true ∧ after (.partitionSuspend 0) (stIn id) (fun t => statusIs t 7) = true ∧ after (.partitionResume 0) st (fun t => statusIs t 7) = true ∧
      after (.partitionResume 0) { stSv 2 (fun x => { x with state := .suspended }) with mem := [] } (fun t => statusIs t 9) = true ∧
      after (.partitionResume 0) (stSv 2 fun x => { x with state := .suspended, saved := [{ savedA 2 with forced := true }], heldWrites := [(0, 0x1000, 4, 5)] }) (fun t => (t.part 0).state == .active && (t.part 0).saved.isEmpty && (t.part 0).heldWrites.isEmpty) = true ∧
      after (.partitionResetDone 0) st (fun t => t == st) = true ∧ after (.partitionResetDone 0) (stP fun x => { x with state := .resetting }) (fun t => (t.part 0).state == .active && t.teams.isEmpty && t.fot == st.fot && (t.part 0).window.isEmpty) = true ∧
      after (.partitionResetDone 0) (stP fun x => { x with state := .resetting, thenInactive := true }) (fun t => (t.part 0).state == .inactive && t.fotOf 1 == 0x280) = true ∧
      after (.partitionSuspendDone 0) st (fun t => t == st) = true ∧ (stSv 1 fun x => { x with state := .suspending, hypStep := 2 }).toSave 0 = [] := by
  and_intros <;> decide +kernel
theorem witness_activate : (stSv 1 fun x => { x with state := .inactive, triples := 1 }).readPolicy 0 = some (List.replicate 8 { gran := 4, q := 0, addrp := 4 }, 0) := by decide +kernel

/-! Observation, registers, the platform, attestation and the fabric. -/

def stBank (f : CBank → CBank) : State := stP fun x => { x with banks := [(7, f bank0)] }
def bankIs (t : State) (f : CBank → Bool) : Bool := f (t.bank 0 7)
def partIs (i : Instr) (s : State) (f : Part → Bool) : Bool := after i s fun t => f (t.part 0)
/-- The guest's stream of die 0 samples every 64 cycles. -/
def stSamp : State := { stP (fun x => { x with gtrace := [(0, { ring0 6 with pcper := 6, kinds := 0, en := true, base := 0x2000 })] }) with cycle := 64 }
/-- Every category of the partition grants g; a fix is due; bank 7 counts 3 and last published 4, the energy 5 and 6. -/
def stGran (g : Nat) : State :=
  stP fun x => { x with policy := List.replicate 8 { gran := g, q := 0, addrp := 4 }, fixPend := some 4, energy := 5, energyPub := 6,
                        banks := [(7, { bank0 with cnt := Vector.replicate 16 3, pub := Vector.replicate 16 4 })] }
/-- The second VF of the partition is number 4. -/
def stVf (f : Part → Part) : State := stP fun x => f { x with vfp := 3, vfs := 4 }
theorem witness_Observation :
    7 < 8 ∧ (stBank id).bank 0 7 = bank0 ∧ bank0.owner = 0 ∧ ((stBank fun b => { b with owner := 2 }).bank 0 7).owner = partyNo .hypervisor ∧ partyNo .guest = 1 ∧ (0x10F00C : Word).toNat % 4 = 0 ∧ Keyed st ∧ (st.part 0).fixPend = none ∧
      st.groupsHere 0 0 = [(team0, newGroup programRecord 0)] ∧ (tget (ring0 6) 0 (st.part 0).gtrace).pcper = 0 ∧ (st.part 63).state = .inactive ∧ chron0.at 5 = 5 ∧ ({ chron0 with last := 9 } : Chron).at 5 < 9 ∧
      after (.cbClaim 0 7 .guest) (stBank fun b => { b with cnt := Vector.replicate 16 3, statusHyp := 2 }) (fun t => bankIs t fun b => b.owner == 1 && b.cnt[0] == 0 && b.statusHyp == 2 && b.statusGuest == 0) = true ∧
      after (.cbClaim 0 7 .guest) (stBank fun b => { b with owner := 2 }) (fun t => bankIs t fun b => b.owner == 2 && b.statusGuest == 1) = true ∧ after (.cbRelease 0 7 .hypervisor) (stBank fun b => { b with owner := 2 }) (fun t => bankIs t fun b => b.owner == 0) = true ∧
      after (.cbRelease 0 7 .guest) (stBank fun b => { b with owner := 2 }) (fun t => bankIs t fun b => b.owner == 2 && b.statusGuest == 2) = true ∧ after (.cbClear 0 7 .guest) (stBank fun b => { b with owner := 1, cnt := Vector.replicate 16 3 }) (fun t => bankIs t fun b => b.cnt[15] == 0) = true ∧
      after (.cbConfig 0 7 .guest 0x1F3C0C) (stBank fun b => { b with owner := 1 }) (fun t => bankIs t fun b => b.ctxen && b.ctx == 15 && b.fixen && b.tcnt == 12 && b.freeze && b.en) = true ∧
      after (.fixLatch 0) st (fun t => t == st) = true ∧ partIs (.fixLatch 0) (stP fun x => { x with fixPend := some 4, banks := [(7, { bank0 with cnt := Vector.replicate 16 3 })] }) (fun x => x.fixPend == none && x.fixno == 1 && (tget bank0 7 x.banks).snap[0] == 3) = true ∧
      partIs .fixin st (fun x => x.fixPend == some 3) = true ∧ partIs (.fixRegisterWrite 0) (stP fun x => { x with fixPend := some 3 }) (fun x => x.fixPend == some 3) = true ∧ after (.fixRegisterWrite 63) st (fun t => t == st) = true ∧ after (.tracePcSample 0 0) st (fun t => t == st) = true ∧
      st.sampleDue 0 0 0 = false ∧ st.sampleDue 0 0 1 = false ∧ stSamp.sampleDue 0 0 0 = true ∧ stSamp.sampleDue 0 0 1 = false ∧
      partIs (.tracePcSample 0 0) stSamp (fun x => tget 0 0 x.pclast == 64 && tget 0 1 x.pclast == 0 && !x.pcrr.isEmpty) = true ∧
      after .policyPeriodEnd { st with time := 2 ^ 20 - 1 } (fun t => t.period == 0) = true ∧
      after .policyPeriodEnd { stP (fun x => { x with energy := 5, fixHypDone := true }) with time := 2 ^ 20 } (fun t => t.period == 1 && (t.part 0).energyPub == 5 && !(t.part 0).fixHypDone) = true ∧
      -- a fix under the category's grants 0, 2 and 4, and a second one of the period under 1
      (stGran 2).snapshot 0 ≠ snap0 ∧ partIs (.fixLatch 0) (stGran 0) (fun x => x.snapHyp == snap0) = true ∧
      partIs (.fixLatch 0) (stGran 2) (fun x => x.snapHyp.quarters.length == 1 && x.snapHyp.quarters.all fun q => q.pc == 0 && q.tid == 0) = true ∧
      partIs (.fixLatch 0) (stGran 4) (fun x => x.snapHyp.quarters.map (·.pc) == [0x10040]) = true ∧
      partIs (.fixLatch 0) { stGran 1 with parts := [(0, { (stGran 1).part 0 with fixPend := some 3, fixHypDone := true })] } (fun x => x.snapHyp == (partA.snapHyp) && x.fixno == 1) = true ∧
      -- the PF's reads of counter 2 of bank 7, of its snapshot and of the energy, and the guest's of the chronometer
      ((stGran 4).input (.read .pf 0x30E90 8)).out = [.mmioData .pf 8 3] ∧ ((stGran 1).input (.read .pf 0x30E90 8)).out = [.mmioData .pf 8 4] ∧ ((stGran 0).input (.read .pf 0x30E90 8)).out = [.mmioData .pf 8 0] ∧
      ((stGran 4).input (.read .pf 0x30F10 8)).out = [.mmioData .pf 8 0] ∧ ((stGran 1).input (.read .pf 0x13A00 8)).out = [.mmioData .pf 8 6] ∧
      (let u : State := { stVf id with time := 9 }; (u.input (.read (.vf 3) 0x3080 8)).out = [.mmioData (.vf 3) 8 9]) ∧
      (let u : State := { stVf (fun x => { x with chron := { chron0 with last := 12 } }) with time := 9 }; (u.input (.read (.vf 3) 0x3080 8)).out = [.mmioData (.vf 3) 8 12]) ∧
      partIs (.chronCommit 0) (stP fun x => { x with chron := { x.chron with offset := 7, scale := 9 } }) (fun x => x.chron.offsetF == 7 && x.chron.scaleF == 9) = true := by unfold Keyed; and_intros <;> decide +kernel

/-- A handler object of one packet at address 0x8000. -/
def stObj : State := { st with mem := writeBytes [] 0x8000 (leBytes (codeMagic + 12 * 2 ^ 32) 64) }
def ringT : Ring := { ring0 6 with en := true, kinds := 8, base := 0x2000 }
theorem witness_RegisterWrites :
    Open stObj 0 ∧ ((stObj.readObject 0 0 0x8000 true).2 matches .object _ _) = true ∧ (stObj.readObject 0 0 0x9000 true).2 = .malformed ∧ (stObj.readObject 0 0 0x20000 true).2 = .fault ∧ (partA.admission? 0 0x8000) = none ∧
      (32 : Word).toNat ≤ 32 ∧ 32 < (33 : Word).toNat ∧ st.partOf 0 = some 0 ∧ (st.launch? 0 1).isSome = true ∧ recCode programRecord = 0x10000 ∧ st.lane? ⟨0, 0, 0⟩ = some lane0 ∧ ringT.takes 3 = true ∧ ringT.room = true ∧ (ring0 6).takes 3 = false ∧
      127 < 128 ∧ (∀ l ∈ st.lanes, l.park = .ready) ∧ (fnKey (.vf 3), 2047) ∈ ({ st with msixPend := [(fnKey (.vf 3), 2047)] } : State).msixPend ∧ st.boot = .ready ∧ State.reset.boot ≠ .ready ∧ (stVf id).boundTo 3 = some 0 ∧ (stVf id).boundTo 4 = some 0 ∧ (stVf id).boundTo 9 = none ∧ ((stVf id).part 0).vfp = 3 ∧
      partIs (.tvecWrite 0 0x8000) stObj (fun x => x.tvec == 0x8000 && x.tvecSize == 12 && x.tvecMap == [(8, 8)] && x.admitted.length == 2) = true ∧ partIs (.tvecWrite 0 0x8001) (stP fun x => { x with tvec := 0x8000 }) (fun x => x.tvec == 0) = true ∧
      partIs (.tvecWrite 0 0x8000) { stObj with parts := [(0, { partA with admitted := List.replicate 256 admitA })] } (fun x => x.tvec == 0 && x.admitted.length == 256) = true ∧
      partIs (.l1waysWrite 0 32) st (fun x => x.l1ways == 32) = true ∧ partIs (.l1waysWrite 0 33) st (fun x => x.l1ways == 8) = true ∧
      after (.l1waysTakeEffect 0) (stP fun x => { x with l1ways := 9 }) (fun t => (t.cluster 0).cacheWays == 9) = true ∧ after (.l1waysTakeEffect 0) (stP fun x => { x with l1ways := 17 }) (fun t => (t.cluster 0).cacheWays == 8) = true ∧
      partIs (.admitrelWrite 0 0 0x10000) st (fun x => x.admitted == [{ admitA with releasing := true }]) = true ∧ partIs (.admitrelWrite 0 0 0x10000) (stP fun x => { x with window := [] }) (fun x => x.admitted.isEmpty) = true ∧
      partIs (.admitrelTakeEffect 0 0 0x10000) (stP fun x => { x with window := [], admitted := [{ admitA with releasing := true }] }) (fun x => x.admitted.isEmpty) = true ∧ after (.admitrelTakeEffect 0 0 0x10000) st (fun t => t == st) = true ∧
      partIs (.trmarkWrite ⟨0, 0, 0⟩ 5) (stP fun x => { x with gtrace := [(0, ringT)] }) (fun x => (tget (ring0 6) 0 x.gtrace).tail == 1) = true ∧ after (.trmarkWrite ⟨0, 0, 0⟩ 5) st (fun t => t == st) = true ∧
      after (.fflagsWrite 0 0 0xFFFFFFE1 2) st (fun t => (t.group? ⟨0, 0, 0⟩).elim false fun g => g.fflags == 3) = true ∧ partIs (.leaseWrite 0 6) st (fun x => x.lease == 6) = true ∧ partIs (.leaseWrite 0 7) st (fun x => x.lease == 2) = true ∧
      after (.ctxregWrite 0 127 0xFFFFFFFFFFFFFFFF) st (fun t => t.ctxWord 0 15 7 == 0) = true ∧ after (.ctxregWrite 0 16 0xFFFFFFFFFFFFFFFF) st (fun t => t.ctxWord 0 0 1 == 0x01FFFFFFFFFF0000 && t.ctxWord 0 0 2 == st.ctxWord 0 0 2) = true ∧
      partIs (.eventMmioWrite 0 255 3) (stP fun x => { x with ev := [(255, 0xFFFFFFFF)] }) (fun x => tget 0 255 x.ev == 2) = true ∧
      after (.msixUnmask (.vf 3) 2047) { st with msixPend := [(fnKey (.vf 3), 2047)] } (fun t => t.out == [.msix (.vf 3) 2047] && t.msixPend.isEmpty) = true ∧ after (.msixUnmask (.vf 3) 2048) st (fun t => t == st) = true ∧
      after (.registerWrite .pf 0 8 0xFFF) st (fun t => t.pkgid == 0x3FF) = true ∧ after (.registerWrite .pf 0 8 0xFFF) State.reset (fun t => t.pkgid == 0) = true ∧ after (.registerWrite .pf 0x1000 4 65535) st (fun t => t.agecap == 65535) = true ∧ after (.registerWrite .pf 0x1004 4 255) st (fun t => t.hotthr == 4096) = true ∧
      partIs (.registerWrite (.vf 3) 248 4 16) (stVf id) (fun x => (tget sq0 31 x.sqs).tail == 16) = true ∧ after (.registerWrite (.vf 9) 0x3078 8 0x8000) (stVf id) (fun t => t == stVf id) = true ∧ partIs (.registerWrite (.vf 4) 0x3078 8 0) (stVf fun x => { x with tvec := 5 }) (fun x => x.tvec == 5) = true ∧
      partIs (.registerWrite (.vf 3) 0x3078 8 0) (stVf fun x => { x with state := .suspended }) (fun x => x.heldWrites == [(3, 0x3078, 8, 0)]) = true ∧ partIs (.registerWrite (.vf 3) 0x3078 8 0) (stVf fun x => { x with state := .resetting, tvec := 5 }) (fun x => x.tvec == 5) = true := by
  unfold Open; and_intros <;> decide +kernel

/-- An image without a signature. -/
def badImage : Image := { key := [], body := [], sig := [] }
/-- An image that the boot ROM refuses; which images it accepts rests on the fused hash, a free value. -/
theorem witness_firmware : slhVerify slh256s badImage.key badImage.body badImage.sig = false ∧ imageVerified badImage = false ∧
    exec (.firmwareReady badImage) State.reset = .next { State.reset with slotTried := 1 } ∧
    exec (.firmwareReady badImage) { State.reset with slotTried := 1 } = .next { State.reset with slotTried := 1, boot := .recovery } ∧
    exec (.firmwareRecoveryLoad badImage) { State.reset with boot := .recovery } = .next { State.reset with boot := .recovery } := by
  have h : slhVerify slh256s badImage.key badImage.body badImage.sig = false := by decide +kernel
  have i : imageVerified badImage = false := by simp [imageVerified, h]
  refine ⟨h, i, ?_, ?_, ?_⟩
  · show execFirmwareReady badImage _ = _
    simp [execFirmwareReady, i, State.reset]
  · show execFirmwareReady badImage _ = _
    simp [execFirmwareReady, i, State.reset]
  · show execFirmwareRecoveryLoad badImage _ = _
    simp [execFirmwareRecoveryLoad, i, State.reset]
theorem witness_DevicePlatform :
   
    (stVf id).boundTo 3 = some 0 ∧ (stVf id).boundTo 5 = none ∧ st.plim * 1000 < 2600001 ∧ 2600000 = st.plim * 1000 ∧ State.reset.slotTried = 0 ∧ (∃ e ∈ st.parts, e.2.state ≠ .inactive) ∧ (∀ e ∈ State.reset.parts, e.2.state = .inactive) ∧
      (∀ e ∈ ({ st with parts := [(0, part0)] } : State).parts, e.2.state = .inactive) ∧ (Thermal.dieThrottle 2) ∈ ({ st with thermal := [.dieThrottle 2] } : State).thermal ∧ 47 < 48 ∧ 800 ≤ (800 : Word).toNat ∧
      partIs (.vfFlr 4) (stVf id) (fun x => x.state == .resetting) = true ∧ partIs (.vfFlr 4) (stVf fun x => { x with state := .suspended }) (fun x => x.heldWrites.length == 1) = true ∧ after (.vfFlr 5) { stVf id with msixOpen := [(5, 1), (3, 1)] } (fun t => t.msixOpen == [(3, 1)]) = true ∧
      after .deviceReset { stM with hostMem := [(0, 1)] } (fun t => t.mem.isEmpty && t.hostMem == [(0, 1)] && t.boot == .booting && t.lanes.isEmpty) = true ∧
      after (.firmwareReady badImage) st (fun t => t == st) = true ∧ after (.firmwareRecoveryLoad badImage) st (fun t => t == st) = true ∧
      after (.powerClockStep 2600001) st (fun t => t.clock == 675 && t.out == [.powerEvent 675]) = true ∧ after (.powerClockStep 2600001) { st with clock := 350 } (fun t => t.clock == 350 && t.out.isEmpty) = true ∧ after (.powerClockStep 2600000) st (fun t => t == st) = true ∧
      after (.powerClockStep 0) { st with clock := 675 } (fun t => t.clock == 700) = true ∧ after (.powerClockStep 0) { st with clock := 675, thermal := [.dieThrottle 2] } (fun t => t.clock == 675) = true ∧
      after (.thermalSensorEvent (.dieThrottle 2)) st (fun t => t.clock == 675 && t.thermal == [.dieThrottle 2]) = true ∧ after (.thermalSensorEvent (.dieCritical 3)) st (fun t => t.lostDies == [3]) = true ∧
      after (.thermalSensorEvent .baseCritical) st (fun t => t.out == [.powerOff] && (t.part 0).haltCause == some (0x27, 0)) = true ∧ after .d3hotRequest st (fun t => !t.d3) = true ∧ after .d3hotRequest State.reset (fun t => t.d3) = true ∧ after .d0Request { st with d3 := true } (fun t => !t.d3) = true ∧
      after (.plimWrite 800) st (fun t => t.plim == 800) = true ∧ after (.linkUp 47 true) st (fun t => t.links == [(47, true)]) = true ∧ after (.linkUp 48 true) st (fun t => t == st) = true := by and_intros <;> decide +kernel

def uaReq (op : PeerOp) : UaReq := { ftag := 5, pkg := 2, addr := 0x100, op := op }
/-- The FTAG of partition 0 is 5; its lane waits for the answer to a load of another package's memory, as request 5. -/
def stUa : State := { stM with parts := [(0, partC)] }
def loadReq : PeerReq := { peer0 with n := some 0, op := .read 4, store := false, va := 0x77 }
def laneUa : Lane := { lane0 with deferred := [{ def0 with instr := .ldB32 9 4 .lane .rlx false 0, vdst := [(9, 0)], wait := .peer 5 }] }
def stWait (r : PeerReq) (l : Lane) : State := { stL [l] with peers := [r] }
theorem witness_AttestationAndPeers :
    stUa.boot = .ready ∧ State.reset.boot = .booting ∧ ({ State.reset with boot := .recovery } : State).boot = .recovery ∧ stUa.ftagPart 5 = some 0 ∧ (∀ e ∈ st.parts, e.2.ftag ≠ 5) ∧ 0x100 % 128 + 128 ≤ 128 ∧ stUa.ownCheck 0 0x100 false = .performed ∧ stUa.ownCheck 0 0x20000 false = .refused ∧ 2 ∉ stUa.poison ∧
      (stUa.line 2).mash = false ∧ stUa.codeFrame 0 0x100 = none ∧ fotState (stUa.fotOf 0) = 1 ∧ fotOwner (stUa.fotOf 0) = 0 ∧ stUa.mem.wf = true ∧ (stVf id).boundTo 3 = some 0 ∧ st.peers.find? (fun r => r.id == 5) = none ∧ (stWait loadReq laneUa).peers.find? (fun r => r.id == 5) = some loadReq ∧
      loadReq.xfer = none ∧ loadReq.lane = some laneUa.id ∧ laneUa.marker = false ∧ laneUa.trap = none ∧ laneUa.replay = none ∧ (∀ m ∈ (stWait loadReq laneUa).lanes, m.pfault = none) ∧ (∀ d ∈ laneUa.deferred, d.wait = .peer 5 ∧ d.sounded = 0) ∧ peer0.store = true ∧ peer0.op = .write [1] ∧
      after (.getVersion .pf) State.reset (fun t => t.out == [.retryStatus .pf]) = true ∧ after (.getVersion (.vf 3)) { State.reset with boot := .recovery } (fun t => t.out.isEmpty) = true ∧ after (.negotiateAlgorithms .pf) st (fun t => t.out.length == 1) = true ∧
      after (.ualinkRead (uaReq (.read 2))) stUa (fun t => t.out == [.peerReply 2 [1, 2]] && t.mem == stUa.mem) = true ∧ after (.ualinkRead (uaReq (.read 2))) stM (fun t => t.out.contains (.peerReply 2 [0, 0])) = true ∧
      after (.ualinkWrite (uaReq (.write [9]))) stUa (fun t => t.out == [.peerReply 2 []] && readNat t.mem 0x100 2 == 0x209) = true ∧ after (.ualinkWrite (uaReq (.write [9]))) stM (fun t => t.mem == stM.mem) = true ∧
      after (.ualinkAtomic (uaReq (.atomic .add 4 1))) stUa (fun t => t.out == [.peerReply 2 [1, 2, 3, 4]] && readNat t.mem 0x100 4 == 0x04030202) = true ∧ after (.ualinkAtomic (uaReq (.cas 2 0x0201 7))) stUa (fun t => t.out == [.peerReply 2 [1, 2]] && readNat t.mem 0x100 4 == 0x04030007) = true ∧
      after (.ualinkResponse 5 [1, 2, 3, 4]) (stWait loadReq laneUa) (fun t => t.peers.isEmpty && t.lanes.all fun l => l.deferred.map (·.vdst) == [[(9, 0x04030201)]] && l.deferred.all fun d => d.wait == .ready) = true ∧
      after (.peerRequestTimeout 5) { stWait loadReq laneUa with time := 2000000 } (fun t => t.lanes.all fun l => l.deferred.all fun d => d.wait == .dataUe 0 0x77 true) = true ∧ after (.peerRequestTimeout 5) { stWait loadReq laneUa with time := 1999999 } (fun t => t.peers.length == 1) = true ∧
      after (.peerRequestTimeout 5) { stWait peer0 { lane0 with deferred := [def0] } with time := 2000000 } (fun t => t.lanes.all fun l => l.deferred.map (·.wait) == [.ready, .dataUe 0 0 false]) = true ∧ after (.ualinkResponse 6 []) (stWait loadReq laneUa) (fun t => t.peers == [loadReq]) = true := by
  and_intros <;> decide +kernel

/-! ## Clauses that the states above do not reach -/

/-- A store of the lane to 0x104 outstanding, and the word that meets it. -/
def st4 : Pend := { instr := .stB32 8 4 .lane .rlx 0, srcs := [0x104, 0, 0], faulted := false, acquires := false }
def ld4 (i : BitVec 6) : Instr := .ldB32 3 4 .lane .rlx false i
theorem witness_AccessOrder : stM.comesFirst laneM (ld4 1) (srcsOf laneM (ld4 1)) st4 = true ∧ stM.comesFirst laneM (ld4 0) (srcsOf laneM (ld4 0)) st4 = false ∧
    stM.comesFirst laneM (ld4 1) (srcsOf laneM (ld4 1)) { st4 with instr := ld4 0 } = false ∧ stM.comesFirst laneM (.stB8 8 4 .team .rel 0) (srcsOf laneM (.stB8 8 4 .team .rel 0)) st4 = true ∧
    stM.comesFirst laneM (ld4 9) (srcsOf laneM (ld4 9)) { st4 with instr := .ldB32 3 4 .device .acq false 0, acquires := true } = true ∧
    stM.comesFirst laneM (.lds 3 8 .b32 0 0) (srcsOf laneM (.lds 3 8 .b32 0 0)) st4 = false := by decide +kernel
/-- Poisoned data, an ACC line that a lane reads, and a poisoned line under a merge. -/
theorem witness_PoisonedPlaces : PlaceAt { stM with poison := [2] } { stM with poison := [2] } laneM 0x100 16 .read (phys 0x100) ∧ shown { stAcc with mem := [(0x100, 1)] } (accPhys 0x100) 4 = 1 ∧
    PlaceAt { stOwn with poison := [2] } { stOwn with poison := [2] } laneMerge 0x100 96 .write (accPhys 0x100) ∧
    after (.aacc 4 6 .bf16 .device .rlx 0) { stOwn with poison := [2] } (fun t => t.mem == stOwn.mem && t.lanes.all fun l => l.deferred.length == 1 && l.pc == 0x10048) = true := by
  refine ⟨?_, ?_, ?_, ?_⟩ <;> (try unfold PlaceAt ReachesAt) <;> decide +kernel
/-- Both sides of queue 0 are free to every group; a conversion is asked for; a load of the lane is outstanding. -/
def stShared (f : Sram → Sram) : State := { stQ f with parts := [(0, { partA with window := [{ newLaunch 1 (programRecord + 2 ^ 288 + 2 ^ 320) 0 none 0 [] false with placed := 1 }] })] }
theorem witness_SharedQueues : fld (recQmp ((stShared id).laneRec lane0)) 0 1 = 1 ∧ fld (recQmc ((stShared id).laneRec lane0)) 0 1 = 1 ∧ ((stShared id).teamOf lane0).converting = false ∧
    ({ stShared id with lanes := [laneAcq] } : State).pendings laneAcq ≠ [] ∧ (({ stShared id with lanes := [laneAcq] } : State).pendings laneAcq).any (·.acquires) = true ∧
    after (.qpush 8 0) (stShared fun m => { m with qcount := 3071, prod := some 3 }) (fun t => ((t.cluster 0).macro' 8).qcount == 3072) = true ∧
    after (.qpush 8 0) (stShared fun m => { m with qcount := 3072 }) (fun t => t.lanes.all fun l => l.park == .queue) = true ∧
    after (.qpush 8 0) { stShared id with lanes := [laneAcq] } (fun t => t.lanes.all fun l => l.skipped && l.pc == 0x10040) = true ∧
    after (.qpop 8 0) (stShared fun m => { m with qcount := 1, cons := some 3 }) (fun t => ((t.cluster 0).macro' 8).qcount == 0) = true ∧
    after (.qpop 8 0) { stShared (fun m => { m with qcount := 1 }) with lanes := [laneAcq] } (fun t => t.lanes.all fun l => l.skipped) = true ∧
    after (.qpop 8 0) (stShared id) (fun t => t.lanes.all fun l => l.park == .queue) = true ∧
    after (.qpush 8 0) (smodeTeam 2 true) (fun t => t.lanes.all fun l => l.skipped && l.pc == 0x10040) = true ∧
    readBytes ((((stQ fun m => { m with data := writeBytes [] 0 (leBytes 0x77 16), qhead := 3071, qcount := 2 }).cluster 0).macro' 8).convert false).data 16 16 = leBytes 0x77 16 := by
  decide +kernel
/-- A window on host memory, and one on the capacity tier with a LIVE extent; the device holds a dirty line of each. -/
def stHc : State := { stP (fun x => { x with ctxs := [(0, 0x20000 * 2 ^ 128 + 0xF8 * 2 ^ 288)] }) with lanes := [laneM], hostLines := [(4, hline)] }
def capA : CapLine := { dirty := true, data := leBytes 0x55 128 }
def extentA : Extent := { off := 0, hpa := 0x4000, len := 2 ^ 21, owner := 0, state := .live }
def stCap : State :=
  { stP (fun x => { x with ctxs := [(0, 0x20000 * 2 ^ 128 + 2 ^ 44 * 2 ^ 192 + 0x38 * 2 ^ 288)] }) with
    lanes := [laneM], extents := [(3, extentA)], capLines := [(2 ^ 37 + 2, capA)] }
theorem witness_OtherMemories : stHc.translate (stHc.who laneM) 0x100 .read = (stHc, .ok { attr := .hostc, addr := 0x100 }) ∧
    stCap.translate (stCap.who laneM) 0x100 .read = (stCap, .ok (phys (2 ^ 44 + 0x100))) ∧ stCap.capLine? (2 ^ 37 + 2) = some capA ∧ hline.data.length = 64 ∧ capA.data.length = 128 ∧ stCap.hostMem.wf = true ∧
    after (.cflush 4 .system) stHc (fun t => t.hostLines.isEmpty && readNat t.hostMem 0x100 2 == 0x77) = true ∧
    after (.cflush 4 .system) stCap (fun t => t.capLines == [(2 ^ 37 + 2, { capA with dirty := false })] && readNat t.hostMem 0x4100 2 == 0x55) = true ∧
    after (.cflush 4 .device) stM (fun t => t.mem == stM.mem && (tget [] (hbmPc 0x100) t.hbmq).any fun r => r.dpa == 0x100) = true ∧
    after (.extentDrainComplete 3) { stCap with extents := [(3, { extentA with state := .draining })] } (fun t => t.capLines.isEmpty && readNat t.hostMem 0x4100 2 == 0x55) = true := by
  and_intros <;> decide +kernel

/-- A row of another bank group than 0's; a pin of it in the side queue's row. -/
def stSide (pins : List Pin) (cycle : Nat) : State := { st with sideq := [(0, [req0])], pins := pins, cycle := cycle }
theorem witness_SideQueues : findReq 1 (stSide [] 0).hbmq = none ∧ findReq 1 (stSide [] 0).sideq = some (0, req0) ∧ (stSide [pin1] 4097).heldOff req0 = true ∧
    ({ stSide [{ pin1 with row := 0 }] 0 with banks := [(0, { dbank0 with openRow := [(0, 1)] })] } : State).heldRow 0 = true ∧ (stSide [] 0).heldRow 0 = false ∧ (stSide [] 0).rowPinned 0 = false ∧
    after (.agecapExpiry 1) (stSide [pin1] 4097) (fun t => t.pins == [{ pin1 with state := .broken 2 }] && t.openRow 0 0 == some 0) = true ∧ after (.agecapExpiry 1) (stSide [pin1] 4096) (fun t => t == stSide [pin1] 4096) = true ∧
    after (.hotSideActivation 0 0) (stSide [] 0) (fun t => tget 0 0 (tget dbank0 0 t.banks).acts == 1 && (tget dbank0 0 t.banks).refreshes == 1) = true ∧
    after (.hotSideActivation 0 0) { stSide [{ pin1 with row := 0 }] 0 with banks := [(0, { dbank0 with openRow := [(0, 1)] })] } (fun t => (tget dbank0 0 t.banks).acts == [] && (tget dbank0 0 t.banks).refreshes == 0) = true := by
  and_intros <;> decide +kernel
/-- Agents and lines that `witness_TokenMessages` does not have. -/
theorem witness_TokensAtHome :
    let mash : Line := { line0 with mash := true, holders := [1], holds := (line0.holds.set 8 hold0).set 1 { hold0 with partialLA := some cell1 } }
    let last : Line := { line0 with mash := true, folding := true, holders := [1], holds := line0.holds.set 8 hold0 }
    let putp : Msg := { msg .putp 1 8 with la := some cell1 }
    let tok : Msg := { msg .tok 1 3 with tokens := 2, owner := true, data := true, dirty := true }
    onLine (.gets (msg .gets 3 8)) (stLn line0 [msg .gets 3 8]) (fun l n => l.holds[8].t == 15 && n == [{ msg .tok 8 3 with tokens := 1, data := true }]) = true ∧
      after (.gets (msg .gets 3 8)) (stLn (hostLn 3) [msg .gets 3 8]) (fun t => t.out == [.bisnp 2 false] && (t.line 2).waiting == [.req 3 false none]) = true ∧
      onLine (.getx (msg .getx 3 8)) (stLn mash [msg .getx 3 8]) (fun l n => l.folding && l.waiting == [.req 3 true none] && n == [msg .fold 8 1]) = true ∧
      onLine (.tok tok) (stLn { line0 with holds := (line0.holds.set 8 hold0).set 3 { hold0 with pact := some 5 } } [tok]) (fun l n => l.holds[3].t == 0 && n == [{ tok with src := 3, dst := 5 }]) = true ∧
      line0.holds[(8 : Fin 10)].t = 16 ∧ line0.holds[(8 : Fin 10)].valid = true ∧
      onLine (.getm (msg .getm 1 8)) (stLn line0 [msg .getm 1 8]) (fun l n => l.mash && l.holders == [1] && l.holds[1].partialLA == some LA0 && n.isEmpty) = true ∧
      onLine (.getm (msg .getm 1 8)) (stLn last [msg .getm 1 8]) (fun l _ => l.waiting == [.merge 1]) = true ∧
      (∀ a : Fin 10, last.holds[a].partialLA = none) ∧ last.holds[(8 : Fin 10)].pact = none ∧ last.waiting = [] ∧ ([putp].filter fun y => y == putp).length = 1 ∧
      after (.putp putp) { stLn last [putp] with mem := [] } (fun t => laOfImage (readNat t.mem 0x100 96) == cell1 && !(t.line 2).mash && !(t.line 2).folding && (t.line 2).holds[8].t == 16) = true ∧
      onLine (.gets (msg .gets 3 1)) (stLn { own1 2 with holds := (own1 2).holds.set 1 { (own1 2).holds[1] with pact := some 5 } } [msg .gets 3 1]) (fun l n => l.holds[1].t == 2 && n.isEmpty) = true := by
  and_intros <;> decide +kernel
theorem witness_PersistentAtHome :
    let act : Line := { own1 4 with active := some 3, persist := [(3, 0, true)] }
    let req : TokReq := { agent := 3, excl := true, attempt := 4, failed := true, persistent := false, age := 7, sent := 0, retryAt := 5, ctx := none }
    onLine (.pact (msg .pact 8 9)) (stLn act [msg .pact 8 9]) (fun _ n => n == [msg .ack 9 8]) = true ∧
      onLine (.pact (msg .pact 8 3)) (stLn act [msg .pact 8 3]) (fun l n => l.holds[3].pact == some 3 && n == [msg .ack 3 8]) = true ∧ (∀ r ∈ act.reqs, r.agent ≠ 3) ∧
      onLine (.tokenRetry 2 3) { stLn { line0 with reqs := [req] } [] with cycle := 5 } (fun l n => n == [{ msg .preq 3 8 with age := 7, excl := true }] && l.reqs == [{ req with persistent := true }]) = true ∧
      onLine (.tokenRetry 2 3) { stLn { line0 with reqs := [req] } [] with cycle := 4 } (fun l n => l.reqs == [req] && n.isEmpty) = true ∧
      onLine (.pdone (msg .pdone 5 8)) (stLn act [msg .pdone 5 8]) (fun l n => l == act && n.isEmpty) = true := by
  and_intros <;> decide +kernel
/-- Die 1 held line 2 whole and dirty. -/
theorem witness_LostLine : let s : State := stLn (own1 16) []
    s.hostWait = [] ∧ (∀ m ∈ s.net, m.kind ≠ .putp ∧ m.kind ≠ .part) ∧ s.line 2 = own1 16 ∧ (own1 16).mash = false ∧ (own1 16).folding = false ∧ (own1 16).waiting = [] ∧ (own1 16).active = none ∧
      (own1 16).holds[(8 : Fin 10)].pact = none ∧ (own1 16).holds[(9 : Fin 10)].t = 0 ∧ fotState (s.fotOf 0) ≠ 2 ∧
      (∃ a : Fin 10, a.val < 8 ∧ a.val % 4 = 1 ∧ (own1 16).holds[a].owner = true ∧ (own1 16).holds[a].dirty = true) ∧
      after (.dieLost 1) s (fun t => (t.line 2).holds[8].t == 16 && (t.line 2).holds[8].valid && t.poison == [2]) = true := by
  refine ⟨?_, ?_, ?_, ?_, ?_, ?_, ?_, ?_, ?_, ?_, ⟨1, ?_⟩, ?_⟩ <;> decide +kernel

/-- Pieces of a copy: from memory and from scratch, to memory and to scratch. -/
def xferA (path : Path) : Xfer := { xfer1 path (xDesc (match path with | .g2s => 0 | .s2g => 1 | .g2g => 2 | .s2ps => 3) 1) with scratch := List.range 8 }
def viaA : State × Via := let s : State := stCpy (xDesc 2 1); (s, s.xferVia (xferA .g2g))
theorem witness_EnginePieces :
    xferPieces (xferA .g2g) = [{ dst := 0x200, len := 16, src := .inl (.mem 0x100) }] ∧ xferLines (xferA .g2g) = [4] ∧
    (xferPieces { xferA .s2g with desc := (xDesc 1 1).set 0 0 }).map (·.src) = [.inl (.scr 0 (List.range 8) 0 0)] ∧ (xferA .g2s).toScratch = true ∧ stM.peerHere (xferA .g2s) = true ∧
    (pieces (xferA .g2s).dstScr.2.1 (xferA .g2s).dstScr.2.2 0 16).isSome = true ∧ ((pieces (List.range 8) 0 0 16).bind (stM.readPieces 0)) = some (zeros 16) ∧
    ReachesAt viaA.1 viaA.1 viaA.2.who viaA.2.agent 0x100 128 .read (phys 0x100) ∧ ReachesAt viaA.1 viaA.1 viaA.2.who viaA.2.agent 0x200 16 .write (phys 0x200) ∧
    (let g : Xfer := { xferA .g2g with gather := true, desc := [0x100, 0, 0x200, 0, 0x40, 0, 4, 2] }
     (xferPieces g).map (·.src) = [.inr 0, .inr 1] ∧ (indexPieces g 0).isSome = true ∧ stM.sideOf g { dst := 0x200, len := 4, src := .inr 0 } = .mem 0x100) ∧
    (let t := stM.moveLine (xferA .g2g) 4 (xferPieces (xferA .g2g)); t.2.2 = .done) ∧
    (let t := ({ stM with poison := [2] } : State).moveLine (xferA .g2g) 4 (xferPieces (xferA .g2g)); t.2.2 = .ue 0x100) := by
  refine ⟨?_, ?_, ?_, ?_, ?_, ?_, ?_, ?_, ?_, ?_, ?_, ?_⟩ <;> (try unfold ReachesAt) <;> decide +kernel
/-- The list of a set in a frame that the partition owns and in one that it does not; a whole request over links that combine. -/
theorem witness_SetLists : ((stColl 2).setPkgs 0 (tget 0 0 partC.sets)).2 = some (some [0]) ∧ ((stColl 2).setPkgs 0 (1 + 2 ^ 32 + 0x20000 * 2 ^ 64)).2 = some none ∧
    (stColl 2).setPoisoned (tget 0 0 partC.sets) = false ∧ ({ stColl 2 with poison := [0] } : State).setPoisoned (tget 0 0 partC.sets) = true ∧
    (∃ e ∈ ({ stCl coll1 with links := [(0, true)] } : State).links, e.2 = true) ∧
    after (.vmax { req1 with members := 2 }) { stCl coll1 with links := [(0, true)] } (fun t => t.colls.map (·.got) == [[(0, 2, .word 0x3F800000)]]) = true ∧
    after (.coll 4 2 .device) { stColl 2 with lanes := [withV laneAcq [(4, 0x180)]] } (fun t => t.colls.isEmpty && t.lanes.all fun l => l.skipped && l.pc == 0x10040) = true ∧
    (let v := (stCl coll1).collVia coll1
     ReachesAt (stCl coll1) (stCl coll1) v.who v.agent 0x200 4 .write (phys 0x200) ∧ ({ coll1 with got := [(0, 2, .word 9)] } : Coll).outPay 0 = .word 9 ∧ 0 < coll1.outs) := by
  refine ⟨?_, ?_, ?_, ?_, ⟨(0, true), ?_⟩, ?_, ?_, ?_⟩ <;> (try unfold ReachesAt) <;> decide +kernel
/-- A record of a transfer; units that stop with a record; a quarter whose lane stands at a marker. -/
def stXf : State := { stP (fun x => { x with faults := [{ faultRec with lanes := [], xfer := some 1 }] }) with xfers := [{ xfer1 .g2g (xDesc 2 1) with fid := some 1 }] }
theorem witness_EngineFaults : stXf.xfers.find? (fun y => y.id == 1) = some { xfer1 .g2g (xDesc 2 1) with fid := some 1 } ∧
    after (.replay 0 1) stXf (fun t => (t.part 0).faults.isEmpty && t.xfers.map (fun x => (x.fid, x.repeats)) == [(none, 3)]) = true ∧
    after (.replayAbort 0 0x80000001) stXf (fun t => t.xfers.all (·.aborted) && t.lanes.all fun l => l.errs.length == 1) = true ∧
    Takes st 0 0x2000 64 ∧ ((stHalt [(1, 0), (4, 0)]).part 0).units ≠ [] ∧
    ({ lane0 with deferred := [{ def0 with vdst := [(3, 7)], flags := 0 }] } : Lane).pending = [{ def0 with vdst := [(3, 7)], flags := 0 }] ∧ def0.sounded = 0 ∧ def0.touched = [] ∧
    (st.writePending { lane0 with marker := true, deferred := [{ def0 with vdst := [(3, 7)] }] }).lanes.all (fun l => l.v! 3 == 7) = true := by
  refine ⟨?_, ?_, ?_, ?_, ?_, ?_, ?_, ?_, ?_⟩ <;> (try unfold Takes) <;> decide +kernel
/-- A stop under way ends at RESET; writes held for the resume are performed. -/
theorem witness_StopsAndResumes : let h : State := stP fun x => { x with halting := true, haltCause := some (0x27, 0), unitsLeft := [(1, 0), (4, 0)] }
    h.serving 0 = false ∧ Open h 0 ∧ (h.part 0).halting = true ∧ after (.preempt 0) h (fun t => t == h) = true ∧
      after (.partitionReset 0) h (fun t => (t.part 0).state == .resetting && !(t.part 0).halting && (t.part 0).unitsLeft.isEmpty && (t.part 0).window.isEmpty && t.teams.isEmpty) = true ∧
      after (.partitionDeactivate 0) h (fun t => (t.part 0).state == .resetting && (t.part 0).thenInactive) = true ∧ after (.partitionActivate 0) State.reset (fun t => t == State.reset) = true ∧
      ((stSv 2 fun x => { x with state := .suspended, saved := [{ savedA 2 with forced := true }] }).part 0).saved.getLast? = some { savedA 2 with forced := true } ∧
      after (.partitionActivate 0) (stIn fun x => { x with share := 255, vfp := 129 }) (fun t => statusIs t 5) = true := by
  unfold Open; and_intros <;> decide +kernel
/-- Reads of registers: unlisted and before firmware is ready zeros, else what the register holds. -/
def reads1 (s : State) (f : Fn) (off width : Nat) : List Out := (s.input (.read f off width)).out
theorem witness_RegisterReads : reads1 State.reset .pf 0x1000 4 = [.mmioData .pf 4 0] ∧ reads1 (stVf id) (.vf 9) 0x3078 8 = [] ∧ reads1 st .pf 0x1000 4 = [.mmioData .pf 4 4096] ∧
    reads1 { st with pkgid := 5 } .pf 0 8 = [.mmioData .pf 8 5] ∧ reads1 (stVf fun x => { x with tvec := 0x8000 }) (.vf 3) 0x3078 8 = [.mmioData (.vf 3) 8 0x8000] ∧
    reads1 (stVf fun x => { x with replaystat := true }) (.vf 3) 0x3020 8 = [.mmioData (.vf 3) 8 (2 ^ 32)] ∧ reads1 (stVf id) (.vf 3) 0x3028 8 = [.mmioData (.vf 3) 8 0] ∧
    reads1 (stVf fun x => { x with ev := [(255, 7)] }) (.vf 3) 0x43FC 4 = [.mmioData (.vf 3) 4 7] ∧ 0x12000 % 8 = 0 ∧ 8 ∈ [1, 2, 4, 8] ∧
    after (.msixUnmask (.vf 3) 1) State.reset (fun t => t == State.reset) = true := by and_intros <;> decide +kernel

/-! The whole machine. -/

/-- The machine that runs IADD v3, v4, v5 next; its word stands at 0x10040. -/
def stRun : State := State.reset.withFetchWord 32 0x080C4140
def steps (s : State) (f : State → Bool) : Bool := match step s with | .next t => f t | _ => false
theorem witness_IllegalWords : st.lead = some lane0 ∧ (stL [{ lane0 with issuing := false }]).lead = none ∧ reservedUse (.mfs 3 0xFFF) = true ∧ st.illegalAt lane0 (.mfs 3 0xFFF) = some 0 ∧
    illegalAux (.ladd 63 0 2) = some 2 ∧ raises (.ladd 63 0 2) st (lane0.causeHere 1 2 0) = true ∧ after (.iadd 3 4 5) (stL [{ lane0 with issuing := false }]) (fun t => t.lanes == [{ lane0 with issuing := false }]) = true := by decide +kernel
theorem witness_MemoryIsItsBytes : Memory.wf [] = true ∧ stM.mem.wf = true ∧ ([1, 2] : List Byte).length = ([0, 9] : List Byte).length ∧ 5 + ([1, 2] : List Byte).length ≤ 7 ∧ writeBytes [] 5 [0, 1, 0] = [(6, 1)] ∧ writeBytes (writeBytes [] 5 [1]) 5 [0] = [] ∧ readNat (writeNat [] 7 0x1234 2) 7 2 = 0x1234 := by decide +kernel
/-- A step runs the word at the PC; an event that is due comes first. -/
theorem witness_StepRunsDecoded :
    stRun.sched = [] ∧ (stRun.lead.isSome && (stRun.lead.elim false fun l => l.pc == 0x10040 && (let o := stRun.objOf l; o == (0x10040, 12)))) = true ∧ Instr.isWord (.plimWrite 800) = false ∧
      ((stRun.lead.map fun l => (stRun.fetchAt l l.pc.toNat (stRun.slotOf l)).2 matches .word _) = some true) ∧ (stRun.lead.map fun l => stRun.breakAt l) = some none ∧
      steps stRun (fun t => t.lanes.length == 32 && t.lanes.all (fun l => l.pc == 0x10044) && t.cycle == 1) = true ∧ steps { stRun with sched := [.plimWrite 800] } (fun t => t.plim == 800 && t.sched.isEmpty && t.lanes.all (fun l => l.pc == 0x10040)) = true ∧
      (isTwoWord 0x080C4140 = false ∧ isTwoWord 0x0E1A0000 = true) ∧ (decodeAt 0 0x080C4140 0).isSome = true ∧ (decodeAt 2 0x0E1A0000 0).isNone = true ∧ (decodeAt 2 0x880C4140 0).isNone = true ∧ (decodeAt 1 0x880C4140 0).isSome = true ∧
      (stRun.lanes.all fun l => l.obj == .launched && stRun.translate (stRun.who l) 0x10040 .fetch == (stRun, .ok (phys 0x10040)) && stRun.ownCheck l.part 0x10040 false == .performed && !stRun.lineBusy 0x200 (Fin.ofNat 10 (l.die % 4)) false &&
        (stRun.fetch l 0x10040).2 == .data [0x40, 0x41, 0x0C, 0x08]) = true ∧ 0x200 ∉ stRun.poison ∧ (stRun.line 0x200).mash = false := by decide +kernel
/-- What the outside does comes first; a word whose pipe its chain has used is left to be chosen again. -/
theorem witness_StepInputs : steps { stRun with inputs := [.config .pf] } (fun t => t.inputs.isEmpty && t.lanes.all fun l => l.pc == 0x10040) = true ∧
    pipeOf (majorOf 0x080C4140) = .alu ∧ steps { stRun with latch := { stRun.latch with chained := true, pipes := [.alu] } } (fun t => t.lanes.all fun l => l.pc == 0x10040 && !l.issuing) = true ∧
    steps { stRun with latch := { stRun.latch with chained := true, pipes := [.mem] } } (fun t => t.lanes.all fun l => l.pc == 0x10044) = true := by decide +kernel
theorem witness_DecodeEncode : (Instr.isWord (.cvt 0 1 0x37 .rne false 0) = true ∧ (0x37 : BitVec 6).toNat / 4 ≠ 14) ∧ Instr.isWord (.lit 63 0xFFFFFFFF) = true ∧ (decodeBytes (encodeBytes { c := true, s := false } (.lit 63 0xFFFFFFFF) ++ [7])).toOption = some ({ c := true, s := false }, .lit 63 0xFFFFFFFF, [7]) ∧
    (decodeBytes (encodeBytes { c := false, s := true } (.iadd 3 4 5))).toOption = some ({ c := false, s := true }, .iadd 3 4 5, []) := by decide +kernel
theorem witness_StepKeepsTables : State.reset.memOk ∧ Keyed State.reset ∧ stRun.memOk ∧ Keyed stRun ∧ steps stRun (fun t => t.mem.wf && t.hostMem.wf) = true := by unfold Keyed State.memOk; decide +kernel
/-- The decoder and the next step meet one instruction of each shape: one word, two words, and one that the decoder refuses. -/
theorem test_table_words : decodeTableWord 32 0x080C4140 = some (.iadd 3 4 5) ∧ decodeTableWord 64 0x3FC000000E1A0000 = some (.lit 6 0x3FC00000) ∧ decodeTableWord 32 0x15000000 = none := by decide +kernel

/-! ## Clauses of the rounding, of waits, and of lines that are held -/

/-- An overflow in each direction and format, and a tiny inexact result. -/
theorem witness_Overflows : Overflows limF32 .rne (2 ^ 128) ∧ ¬ Overflows limE4m3 .rne 464 ∧ Overflows limE4m3 .ru 449 ∧ ¬ Overflows limE2m1 .rz 7 ∧ Overflows limE2m1 .rne 7 ∧
    Tiny limF16 .rz (1 / 2 ^ 15) ∧ ¬ Tiny limF16 .rz (1 / 2 ^ 14) ∧ (fmtE4m3.round .ru false (.fin false 449 0)) = (0x7F, flagOF ||| flagNX) ∧
    (fmtE4m3.round .rne true (.fin true 480 0)) = (0xFE, flagOF ||| flagNX) ∧ (fmtE2m1.round .rne false (.fin false 7 0)) = (7, flagOF ||| flagNX) ∧
    (fmtF16.round .rz false (.fin false 0x401 (-25))) = (0x200, flagUF ||| flagNX) ∧ (fmtE4m3.round .rne false (.inf true)) = (0x7F, flagNV) := by
  refine ⟨?_, ?_, ?_, ?_, ?_, ?_, ?_, ?_, ?_, ?_, ?_, ?_⟩
  · norm_num [Overflows, limF32]
  · norm_num [Overflows, limE4m3]
  · norm_num [Overflows, limE4m3, TowardZero]; decide
  · norm_num [Overflows, limE2m1, TowardZero]; decide
  · norm_num [Overflows, limE2m1]
  · norm_num [Tiny, limF16, TowardZero]; exact fun h => absurd h (by decide)
  · norm_num [Tiny, limF16, TowardZero]; exact fun h => absurd h (by decide)
  all_goals decide +kernel
/-- An accumulator's image: V in its low bytes, and the status bits. -/
theorem witness_Image : laImage { val := -1, em := false, nz := true, ni := false, pi := true, nv := false } = 2 ^ 640 - 1 + 0x0A * 2 ^ 720 ∧
    (laOfImage (2 ^ 64 - 1 + 0xFF * 2 ^ 640)).val = BitVec.ofInt 640 (-1) ∧ roundLa { LA0 with em := false, pi := true } fmtE4m3 .rne false = (0x7F, flagNV) := by decide +kernel

/-- A lane whose store to a peer has not been acknowledged, one with an ordered atomic held, and one whose load waits for a peer. -/
def stPeer : State := { st with peers := [peer0] }
def stHeld : State := stT fun t => { t with ordered := [ordered0] }
def laneWait : Lane := { lane0 with deferred := [{ def0 with instr := .ldB32 9 4 .lane .rlx false 0, srcs := [0x100, 0], vdst := [(9, 0)], wait := .peer 5 }], nextDef := 1 }
theorem witness_Waits : (Actives (stL [laneWait]) fun l => (stL [laneWait]).outstanding l = true) ∧ (Actives stHeld fun l => stHeld.holdsAtom l = true) ∧ Settled stHeld ∧
    ((stL [laneWait]).boundOf laneWait).free = false ∧ (st.boundOf lane0).free = true ∧ (stPeer.boundOf lane0).free = false ∧ (stHeld.boundOf lane0).free = false ∧
    after (.cbar) stHeld (fun t => t.lanes.all fun l => l.skipped && l.pc == 0x10040) = true ∧
    after (.cvsign 0) { stL [laneWait] with clusters := [(0, clusterA)] } (fun t => t.lanes.all fun l => l.skipped && l.pc == 0x10040) = true ∧
    -- EVSIG goes on, and its amount follows the access before it
    after (.evsig 4 5) { stPeer with lanes := [withV lane0 [(4, 7), (5, 1)]] } (fun t => tget 0 7 (t.part 0).ev == 0 && t.lanes.all fun l => l.pc == 0x10044 && l.park == .ready &&
      l.rels == [{ after := stPeer.boundOf lane0, event := 7, amount := 1 }]) = true ∧
    (let r : Rel := { after := stPeer.boundOf lane0, event := 7, amount := 1 }
     stPeer.passed lane0.id r.after = false ∧ st.passed lane0.id r.after = true ∧ tget 0 7 ((({ st with lanes := [{ lane0 with rels := [r] }] } : State).doRels { lane0 with rels := [r] }).part 0).ev = 1) ∧
    -- EVWAIT behind results that are outstanding
    after (.evwait 4 5) (stL [withV laneWait [(4, 7), (5, 1)]]) (fun t => t.lanes.all fun l => l.evw == some (7, 1) && l.pc == 0x10044) = true ∧
    (((stL [{ lane0 with evw := some (7, 1), marker := true }]).bumpEvent 0 7 1).lanes.all fun l => l.evw == none) = true ∧
    -- an accumulator's load that a save has stopped
    (stP fun x => { x with hypStep := 2 }).saving lane0 = true ∧ st.saving lane0 = false ∧ st.flagsDue lane0 = false ∧
    (stL [{ lane0 with deferred := [{ def0 with instr := .mxrd 8 4 0, wait := .engine 0 }] }]).flagsDue lane0 = true := by
  unfold Settled Actives; and_intros <;> decide +kernel

/-- Two lanes of which the lower stores where the other's store would land, and waits. -/
def laneLow : Lane := withV lane0 [(4, 0x100)]
def laneHigh : Lane := withV (laneAt 1) [(4, 0x100)]
theorem witness_StoresLate : StoresLate { stM with lanes := [laneLow, laneHigh] } { stM with lanes := [laneLow.stall, laneHigh] } laneHigh (.stB32 8 4 .lane .rlx 0) :=
  ⟨laneLow, by decide +kernel, by decide +kernel, ⟨laneLow.stall, by decide +kernel, by decide +kernel, by decide +kernel, by decide +kernel⟩, by decide +kernel⟩

/-- A host line away: the host holds line 2's owner token; an engine holds it for a write; the HBM is in self-refresh. -/
def xferHold : Xfer := { xfer0 with gath := some 2 }
theorem witness_LinesAway : let u : State := { stM with lines := [(2, hostLn 3)] }
    let g : State := { stM with xfers := [xferHold] }
    let d : State := { stM with d3 := true }
    u.away 2 = true ∧ u.homeBusy 2 = true ∧ stM.away 2 = false ∧ stM.homeBusy 2 = false ∧ g.heldBy 2 = some 4 ∧ stM.heldBy 2 = none ∧ d.away 2 = true ∧
      after (.gets (msg .gets 3 4)) { g with net := [msg .gets 3 4] } (fun t => t == { g with net := [msg .gets 3 4] }) = true ∧
      after (.pact (msg .pact 8 4)) { g with net := [msg .pact 8 4] } (fun t => t == { g with net := [msg .pact 8 4] }) = true ∧
      after (.hostMemWrite 0x100 [9]) d (fun t => t.mem == stM.mem && t.hostWait.length == 1) = true ∧
      after (.hostMemRead 0x100 2) State.reset (fun t => t == State.reset) = true ∧
      after .d0Request { d with hostWait := [{ addr := 0x100, n := 1, data := some [9], sync := none }] } (fun t => readNat t.mem 0x100 1 == 9 && t.hostWait.isEmpty) = true ∧
      after (.hbmRequestServed 0) { stHbm [] 0 with d3 := true } (fun t => t == { stHbm [] 0 with d3 := true }) = true ∧
      after (.scrubFrontAdvance 0) { stFot 0 0x200 with d3 := true } (fun t => t == { stFot 0 0x200 with d3 := true }) = true ∧
      after (.ptsyncRead 0) { st with hostWait := [{ addr := 0x100, n := 1, data := some [9], sync := none }] } (fun t => t.out.isEmpty && t.hostWait.length == 2) = true := by
  and_intros <;> decide +kernel
theorem witness_HostFree : HostFree stM 0x100 2 ∧ ¬ HostFree { stM with d3 := true } 0x100 2 ∧ First stM (uaReq (.read 2)) ∧ ¬ First { stM with uaWait := [uaReq (.read 2)] } (uaReq (.write [9])) := by
  unfold HostFree First; decide +kernel
theorem witness_PeersWait : let u : State := { stUa with lines := [(2, hostLn 3)] }
    u.away 2 = true ∧ u.ownCheck 0 0x100 false = .performed ∧ stUa.owned 0 0x100 = true ∧ stUa.homeBusy 2 = false ∧ stUa.away 2 = false ∧
      after (.ualinkRead (uaReq (.read 2))) u (fun t => t.uaWait == [uaReq (.read 2)] && t.mem == u.mem) = true ∧
      after (.ualinkWrite (uaReq (.write [9]))) { stUa with uaWait := [uaReq (.read 2)] } (fun t => t == { stUa with uaWait := [uaReq (.read 2), uaReq (.write [9])] }) = true ∧
      after (.ualinkAtomic (uaReq (.cas 2 7 9))) stUa (fun t => t.mem == stUa.mem && t.out == [.peerReply 2 [1, 2]]) = true := by
  and_intros <;> decide +kernel
/-- Functions that do not exist, and a mailbox after 1.0 s. -/
theorem witness_NoFunction : fnExists (.vf 0) = false ∧ fnExists (.vf 129) = false ∧ fnExists (.vf 128) = true ∧ fnExists .pf = true ∧
    after (.vfFlr 0) { st with msixTable := [(5, 9)] } (fun t => t.msixTable == [(5, 9)]) = true ∧ after (.msixUnmask (.vf 129) 0) st (fun t => t == st) = true ∧
    after (.getVersion (.vf 129)) st (fun t => t.out.isEmpty) = true ∧ after (.getVersion .pf) { State.reset with time := 10 ^ 9 } (fun t => t.out.isEmpty) = true := by decide +kernel

/-- A team that has issued nothing yet; a command that waits; the requests of a bank of which one is too old. -/
theorem witness_Begins : let u : State := { stT (fun t => { t with begun := false }) with clusters := [(0, { clusterA with l1 := [{ line := 2, mask := 0xF, data := 0 }] })] }
    u.team? 0 = some { team0 with begun := false } ∧ ((u.beginTeam lane0).cluster 0).l1.map (·.mask) = [0] ∧ st.beginTeam lane0 = st := by decide +kernel
theorem witness_CommandsWait : let w : State := stIn fun x => { x with cmdPend := some 1 }
    after (.partitionActivate 0) w (fun t => statusIs t 1) = true ∧ after (.partitionResume 0) w (fun t => statusIs t 1) = true ∧
    ((stIn id).bringPolicy 0).2 = true ∧ ({ stIn id with d3 := true } : State).bringPolicy 0 = ({ stIn id with d3 := true }, false) ∧
    ((stSv 1 id).bringArea 0 1).2 = true ∧ (({ stSv 1 id with lines := [(1, hostLn 3)] } : State).bringArea 0 1).2 = false ∧
    after (.preemptResume 0) { stSv 1 id with lines := [(1, hostLn 3)] } (fun t => (t.part 0).pre.checking && (t.part 0).pre.step == 3) = true := by
  and_intros <;> decide +kernel

/-- A policy period that has ended; a chain of two words; a BRA target outside the object in a later word. -/
theorem witness_StepOrder : steps { stRun with time := 2 ^ 20, inputs := [.config .pf] } (fun t => t.period == 1 && t.inputs.length == 1 && t.time == 2 ^ 20) = true ∧
    (State.reset.period + 1) * 2 ^ 20 ≤ 2 ^ 20 ∧ stRun.time < (stRun.period + 1) * 2 ^ 20 ∧ (stRun.chainCause lane0 (.mfs 3 0xFFF) = some (0x01, 0, 0)) ∧
    (stRun.lead.elim false fun l => match (stRun.fetchAt l l.pc.toNat (stRun.slotOf l)).2 with
      | .word f => !f.hdr.c && (match (stRun.chainWords l f l.pc.toNat 0 2).2 with | .words is => is.isEmpty | _ => false)
      | _ => false) = true := by decide +kernel

end Sys2Proof.Tests
end

namespace Sys2Proof.Machine
open Sys2Proof

/-! ## The invariant -/

/-- The tables of a state are in order: its two byte memories are canonical and its partitions are listed once. -/
def State.Tabled (s : State) : Prop := s.memOk ∧ Claims.Keyed s

/-- An outcome is a next state whose tables are in order if those of `s` are. -/
def State.Steps (s : State) (o : Host.Outcome State Fault Refusal) : Prop := ∃ t, o = .next t ∧ (s.Tabled → t.Tabled)

/-- The state that an answer may give has its tables in order. -/
def TabledIf (o : Option State) : Prop := ∀ t, o = some t → t.Tabled

/-! ## What the shapes of the model's definitions keep -/

theorem State.Tabled.ite {c : Prop} [Decidable c] {s t : State} (hs : s.Tabled) (ht : t.Tabled) : (if c then s else t).Tabled := by
  split <;> assumption

/-- The state of an answer that carries a value beside it. -/
theorem State.Tabled.beside {α : Type} {s : State} {x : α} (h : s.Tabled) : (s, x).1.Tabled := h

theorem State.Tabled.elim {α : Type} {o : Option α} {s : State} {f : α → State} (h : s.Tabled) (hf : ∀ x, (f x).Tabled) : (o.elim s f).Tabled := by
  cases o with
  | none => exact h
  | some x => exact hf x

theorem State.Tabled.foldl {β : Type} {f : State → β → State} {bs : List β} {s : State} (h : s.Tabled) (hf : ∀ u b, u.Tabled → (f u b).Tabled) :
    (bs.foldl f s).Tabled := by
  induction bs generalizing s with
  | nil => exact h
  | cons b bs ih => exact ih (hf s b h)

/-- The same for a fold that carries a value beside the state. -/
theorem State.Tabled.foldl_fst {α β : Type} {f : State × α → β → State × α} {bs : List β} {q : State × α} (h : q.1.Tabled)
    (hf : ∀ u b, u.1.Tabled → (f u b).1.Tabled) : (bs.foldl f q).1.Tabled := by
  induction bs generalizing q with
  | nil => exact h
  | cons b bs ih => exact ih (hf q b h)

/-- A state with the same memories and partitions. -/
theorem State.Tabled.same {s t : State} (h : s.Tabled) (hm : t.mem = s.mem) (hh : t.hostMem = s.hostMem) (hp : t.parts = s.parts) : t.Tabled := by
  unfold State.Tabled State.memOk Claims.Keyed
  rw [hm, hh, hp]
  exact h

/-- Bytes written to the device's memory. -/
theorem State.Tabled.writeMem {s : State} {a : Nat} {bs : List Byte} (h : s.Tabled) : ({ s with mem := writeBytes s.mem a bs } : State).Tabled :=
  ⟨⟨Memory.wf_writeBytes h.1.1 a bs, h.1.2⟩, h.2⟩

/-- Bytes written to the host's memory. -/
theorem State.Tabled.writeHostMem {s : State} {a : Nat} {bs : List Byte} (h : s.Tabled) : ({ s with hostMem := writeBytes s.hostMem a bs } : State).Tabled :=
  ⟨⟨h.1.1, Memory.wf_writeBytes h.1.2 a bs⟩, h.2⟩

/-! ## Partitions -/

/-- Setting an entry adds its key at most. -/
theorem mem_keys_tset {α : Type} {k j : Nat} {x : α} {t : Tbl α} (h : j ∈ (tset k x t).map (·.1)) : j = k ∨ j ∈ t.map (·.1) := by
  induction t with
  | nil => simpa [tset] using h
  | cons e r ih =>
    unfold tset at h
    split at h
    · simpa using h
    · split at h
      · simp only [List.map_cons, List.mem_cons] at h ⊢
        tauto
      · simp only [List.map_cons, List.mem_cons] at h ⊢
        rcases h with h | h
        · exact .inr (.inl h)
        · exact (ih h).imp_right .inr

/-- Setting an entry keeps the keys in rising order. -/
theorem keys_sorted_tset {α : Type} {t : Tbl α} (h : (t.map (·.1)).Pairwise (· < ·)) (k : Nat) (x : α) : ((tset k x t).map (·.1)).Pairwise (· < ·) := by
  induction t with
  | nil => simp [tset]
  | cons e r ih =>
    have h' := h
    simp only [List.map_cons, List.pairwise_cons] at h
    obtain ⟨hlt, hr⟩ := h
    unfold tset
    split
    · next hk =>
      simp only [List.map_cons, List.pairwise_cons] at h' ⊢
      exact ⟨fun j hj => by
        rcases List.mem_cons.mp hj with rfl | hj
        · exact hk
        · exact hk.trans (hlt j hj), h'⟩
    · split
      · next hk =>
        subst hk
        simpa using ⟨by simpa using hlt, hr⟩
      · next hk hne =>
        simp only [List.map_cons, List.pairwise_cons]
        refine ⟨fun j hj => ?_, ih hr⟩
        rcases mem_keys_tset hj with rfl | hj
        · omega
        · exact hlt j hj

theorem State.Tabled.modPart {s : State} {p : Nat} {f : Part → Part} (h : s.Tabled) : (s.modPart p f).Tabled :=
  ⟨h.1, keys_sorted_tset h.2 p _⟩

theorem TabledIf.none : TabledIf none := nofun

theorem TabledIf.some {s : State} (h : s.Tabled) : TabledIf (some s) := fun _ e => Option.some.inj e ▸ h

theorem TabledIf.ite {c : Prop} [Decidable c] {o p : Option State} (ho : TabledIf o) (hp : TabledIf p) : TabledIf (if c then o else p) := by
  split <;> assumption

theorem State.Steps.next {s t : State} (h : s.Tabled → t.Tabled) : s.Steps (.next t) := ⟨t, rfl, h⟩

theorem State.Steps.stay {s : State} : s.Steps (.next s) := .next id

theorem State.Steps.ite {c : Prop} [Decidable c] {s : State} {o p : Host.Outcome State Fault Refusal} (ho : s.Steps o) (hp : s.Steps p) :
    s.Steps (if c then o else p) := by
  split <;> assumption

theorem State.Steps.trans {s t : State} {o : Host.Outcome State Fault Refusal} (h : s.Tabled → t.Tabled) (ho : t.Steps o) : s.Steps o :=
  let ⟨u, e, k⟩ := ho
  ⟨u, e, fun hs => k (h hs)⟩

/-! ### Access to parts of the state -/

theorem State.Tabled.modCluster {s : State} {c f} (h : s.Tabled) : (s.modCluster c f).Tabled :=
  h

theorem State.Tabled.modLine {s : State} {n f} (h : s.Tabled) : (s.modLine n f).Tabled :=
  h

theorem State.Tabled.modTeam {s : State} {tid f} (h : s.Tabled) : (s.modTeam tid f).Tabled :=
  h

theorem State.Tabled.modGroup {s : State} {tid grp f} (h : s.Tabled) : (s.modGroup tid grp f).Tabled :=
  h.modTeam

theorem State.Tabled.modLane {s : State} {id f} (h : s.Tabled) : (s.modLane id f).Tabled :=
  h

theorem State.Tabled.setLane {s : State} {l} (h : s.Tabled) : (s.setLane l).Tabled :=
  h.modLane

theorem State.Tabled.modLaunch {s : State} {p seq f} (h : s.Tabled) : (s.modLaunch p seq f).Tabled :=
  h.modPart

theorem State.Tabled.draw {s : State} (h : s.Tabled) : s.draw.2.Tabled :=
  h

theorem State.Tabled.emit {s : State} {o} (h : s.Tabled) : (s.emit o).Tabled :=
  h

/-! ### The lanes of the issuing bundle (R71, R346) -/

theorem State.Tabled.mapActive {s : State} {f} (h : s.Tabled) : (mapActive s f).Tabled :=
  h

theorem State.Tabled.eachActive {s : State} {f} (h : s.Tabled) (hf : ∀ (u : State) x1, u.Tabled → (f u x1).Tabled) : (eachActive s f).Tabled := by
  unfold Machine.eachActive
  refine h.foldl ?_
  intro _ _ h1
  split
  · exact hf _ _ h1
  · exact h1

/-! ### Groups' flags (R39) -/

theorem State.Tabled.orFlags {s : State} {id f} (h : s.Tabled) : (s.orFlags id f).Tabled :=
  h.ite h

/-! ### Counters (R265, R267) -/

theorem State.Tabled.count {s : State} {p ctx ev n} (h : s.Tabled) : (s.count p ctx ev n).Tabled :=
  h.ite h.modPart

theorem State.Tabled.countLane {s : State} {l ev n} (h : s.Tabled) : (s.countLane l ev n).Tabled :=
  h.count

/-! ### The chronometer (R279 to R282) -/

theorem State.Tabled.readChron {s : State} {p} (h : s.Tabled) : (s.readChron p).2.Tabled :=
  h.modPart

/-! ### Frames (R143 to R145, R193) -/

theorem State.Tabled.passFront {s : State} {a} (h : s.Tabled) : (s.passFront a).Tabled :=
  .ite h.writeMem h

/-! ### Holdings and messages of the token protocol (R149 to R159) -/

theorem State.Tabled.post {s : State} {m} (h : s.Tabled) : (s.post m).Tabled :=
  h

theorem State.Tabled.setHold {s : State} {ln a h0} (h : s.Tabled) : (s.setHold ln a h0).Tabled :=
  h.modLine

theorem State.Tabled.sendTok {s : State} {ln a b n own data} (h : s.Tabled) : (s.sendTok ln a b n own data).Tabled :=
  h.setHold.post

theorem State.Tabled.sendAllTok {s : State} {ln a b} (h : s.Tabled) : (s.sendAllTok ln a b).Tabled :=
  h.ite h.sendTok

theorem State.Tabled.broadcast {s : State} {ln a excl ctx} (h : s.Tabled) : (s.broadcast ln a excl ctx).Tabled :=
  h.foldl (fun _ _ h1 => h1.post)

theorem State.Tabled.request {s : State} {ln a excl ctx} (h : s.Tabled) : (s.request ln a excl ctx).Tabled :=
  h.ite h.modLine.broadcast

theorem State.Tabled.answer {s : State} {ln o a excl} (h : s.Tabled) : (s.answer ln o a excl).Tabled :=
  h.ite (h.sendAllTok.ite (h.ite (h.sendTok.ite h.sendTok)))

theorem State.Tabled.snoopHost {s : State} {ln excl} (h : s.Tabled) : (s.snoopHost ln excl).Tabled :=
  h.ite h.emit

/-! ### The caches of a die (R119, R120) -/

theorem State.Tabled.evictL2 {s : State} {a ln p ctx} (h : s.Tabled) : (s.evictL2 a ln p ctx).Tabled := by
  unfold State.evictL2
  refine .ite ?_ ?_
  · refine .count ?_
    split <;> exact h.setHold.post
  · refine .count ?_
    split <;> exact h.setHold.post

theorem State.Tabled.l2Touch {s : State} {a ln p ctx} (h : s.Tabled) : (s.l2Touch a ln p ctx).Tabled := by
  unfold State.l2Touch
  dsimp only
  refine h.ite ?_
  split
  · exact .evictL2 h
  · exact h

/-! ### L3 and HBM queues (R121, R123, R124) -/

theorem State.Tabled.hbmEnqueue {s : State} {p ctx a} (h : s.Tabled) : (s.hbmEnqueue p ctx a).Tabled :=
  .ite h h

theorem State.Tabled.capBack {s : State} {ln} (h : s.Tabled) : (s.capBack ln).Tabled := by
  unfold State.capBack
  split
  · exact h
  · split
    · exact .ite h.writeHostMem h
    · exact h

theorem State.Tabled.capDrop {s : State} {ln} (h : s.Tabled) : (s.capDrop ln).Tabled :=
  h.capBack

theorem State.Tabled.l3Use {s : State} {ln} (h : s.Tabled) : (s.l3Use ln).1.Tabled := by
  unfold State.l3Use
  dsimp only
  split
  · exact .ite (.capDrop h) h
  · exact h

theorem State.Tabled.l3Touch {s : State} {p ctx ln} (h : s.Tabled) : (s.l3Touch p ctx ln).Tabled :=
  h.l3Use.ite h.l3Use.hbmEnqueue

theorem State.Tabled.l2Arrive {s : State} {a ln} (h : s.Tabled) : (s.l2Arrive a ln).Tabled :=
  h.l2Touch

theorem State.Tabled.landTokens {s : State} {ln} (h : s.Tabled) : (s.landTokens ln).Tabled :=
  h.ite (.foldl h (fun _ _ h1 => h1.l2Arrive))

/-! ### A line at its home (R151, R156, R164, R166, R169) -/

theorem State.Tabled.setLineLa {s : State} {ln a} (h : s.Tabled) : (s.setLineLa ln a).Tabled :=
  h.writeMem

theorem State.Tabled.foldNow {s : State} {ln who} (h : s.Tabled) : (s.foldNow ln who).1.Tabled := by
  unfold State.foldNow
  dsimp only
  split
  · exact .count (.modLine (h.ite h.setLineLa))
  · exact h

/-! ### Lines held for writing and lines away from their home (R168, R174) -/

theorem State.Tabled.recallHost {s : State} {ln excl} (h : s.Tabled) : (s.recallHost ln excl).Tabled :=
  h.snoopHost.ite h

theorem State.Tabled.waitAt {s : State} {ln w} (h : s.Tabled) : (s.waitAt ln w).Tabled :=
  h.modLine

/-! ### Reads and writes at the home by the device's units -/

theorem State.Tabled.homeTake {s : State} {ln} (h : s.Tabled) : (s.homeTake ln).Tabled := by
  unfold State.homeTake
  dsimp only
  split
  · exact .sendAllTok (.ite h.foldNow (.modLine h.foldNow))
  · exact .ite h.foldNow (.modLine h.foldNow)

theorem State.Tabled.homeObtain {s : State} {ln p ctx} (h : s.Tabled) : (s.homeObtain ln p ctx).Tabled :=
  h.l3Touch.ite (h.landTokens.l3Touch.ite h.landTokens.l3Touch.modLine)

theorem State.Tabled.putLine {s : State} {a bs} (h : s.Tabled) : (s.putLine a bs).Tabled :=
  h.passFront.l3Touch.homeTake.writeMem

theorem State.Tabled.writeLine' {s : State} {a bs} (h : s.Tabled) : (s.writeLine' a bs).Tabled :=
  h.recallHost.modLine.ite h.putLine

theorem State.Tabled.writeLines {s : State} {a k bs} (h : s.Tabled) : (s.writeLines a k bs).Tabled := by
  induction k generalizing s a bs with
  | zero => exact h
  | succ k ih => exact .ite h (ih h.writeLine')

theorem State.Tabled.homeWrite {s : State} {a bs} (h : s.Tabled) : (s.homeWrite a bs).Tabled :=
  h.writeLines

theorem State.Tabled.devWrite {s : State} {p a bs} (h : s.Tabled) : (s.devWrite p a bs).1.Tabled := by
  unfold State.devWrite
  split
  · exact h.homeWrite
  · exact h

theorem State.Tabled.homeRead {s : State} {a n} (h : s.Tabled) : (s.homeRead a n).1.Tabled := by
  unfold State.homeRead
  split
  · exact h.recallHost
  · exact h.foldl (fun _ _ h1 => h1.foldNow.homeObtain)

/-! ### The fabric (R298) -/

theorem State.Tabled.sendPeer {s : State} {r} (h : s.Tabled) : (s.sendPeer r).Tabled :=
  h.emit

/-! ### Interrupts (R296) -/

theorem State.Tabled.msix {s : State} {f vec} (h : s.Tabled) : (s.msix f vec).Tabled :=
  h.ite (h.emit.ite (h.ite h))

/-! ### Rings and policy (R231, R268, R286 to R289, R524) -/

theorem State.Tabled.opRing {s : State} {r rec} (h : s.Tabled) : (s.opRing r rec).1.Tabled := by
  unfold State.opRing
  split
  · exact h.writeHostMem
  · exact h

theorem State.Tabled.opFault {s : State} {p r} (h : s.Tabled) : (s.opFault p r).Tabled := by
  unfold State.opFault
  dsimp only
  split
  · exact h
  · exact h.modPart
  · exact .msix h.opRing

theorem State.Tabled.fqPush {s : State} {p b} (h : s.Tabled) : (s.fqPush p b).Tabled :=
  h.devWrite.modPart.msix.ite h.devWrite.modPart

theorem State.Tabled.flushHeld {s : State} {p} (h : s.Tabled) : (s.flushHeld p).Tabled :=
  h.foldl (fun _ _ h1 => h1.modPart.fqPush.ite h1)

theorem State.Tabled.record {s : State} {p r} (h : s.Tabled) : (s.record p r).Tabled := by
  unfold State.record
  extract_lets q r s1 s2 s3
  have h1 : s1.Tabled := h.readChron.opFault
  have h3 : s3.Tabled := .flushHeld (.ite h1.count h1)
  exact .ite h3.fqPush (.ite h3.modPart h3.modPart)

theorem State.Tabled.poisonLine {s : State} {ln structure'} (h : s.Tabled) : (s.poisonLine ln structure').Tabled :=
  .record (h.ite h)

/-! ### What the home answers (R156, R164, R166) -/

theorem State.Tabled.foldLost {s : State} {ln lost} (h : s.Tabled) : (s.foldLost ln lost).Tabled := by
  unfold State.foldLost
  split
  · exact h.record
  · exact h

theorem State.Tabled.endFold {s : State} {ln who} (h : s.Tabled) : (s.endFold ln who).Tabled :=
  h.foldNow.foldLost

theorem State.Tabled.beginFold {s : State} {ln ctx} (h : s.Tabled) : (s.beginFold ln ctx).Tabled :=
  h.endFold.ite (h.modLine.foldl (fun _ _ h1 => h1.post))

theorem State.Tabled.homeAnswer {s : State} {ln a excl ctx} (h : s.Tabled) : (s.homeAnswer ln a excl ctx).Tabled :=
  h.ite (.ite (h.waitAt.ite (h.beginFold.answer.ite h.beginFold.waitAt)) (h.waitAt.ite (h.answer.snoopHost.waitAt.ite h.answer)))

theorem State.Tabled.grantMerge {s : State} {ln a} (h : s.Tabled) : (s.grantMerge ln a).Tabled :=
  h.modLine.l2Arrive

theorem State.Tabled.homeMerge {s : State} {ln a} (h : s.Tabled) : (s.homeMerge ln a).Tabled :=
  h.waitAt.ite (h.grantMerge.ite (h.modLine.grantMerge.ite (.request (h.waitAt.snoopHost.ite h.waitAt))))

theorem State.Tabled.serveWaiting {s : State} {ln} (h : s.Tabled) : (s.serveWaiting ln).Tabled := by
  unfold State.serveWaiting
  refine h.ite ?_
  refine h.modLine.foldl ?_
  intro _ _ h1
  split
  · exact h1.homeAnswer
  · exact h1.homeMerge
  · exact h1.writeLine'

theorem State.Tabled.fold {s : State} {ln who} (h : s.Tabled) : (s.fold ln who).1.Tabled := by
  unfold State.fold
  dsimp only
  split
  · exact h.foldNow.serveWaiting.ite h.foldNow
  · exact h

/-! ### Trace (R268 to R271, R286) -/

theorem State.Tabled.traceLost {s : State} {p r} (h : s.Tabled) : (s.traceLost p r).Tabled :=
  h.count.ite h

theorem State.Tabled.traceGuest {s : State} {p die r} (h : s.Tabled) : (s.traceGuest p die r).Tabled := by
  unfold State.traceGuest
  refine h.ite ?_
  refine .ite ?_ ?_
  · refine .modPart ?_
    split
    · exact h.devWrite
    · exact h
  · refine .traceLost ?_
    refine .modPart ?_
    split
    · exact h.devWrite
    · exact h

theorem State.Tabled.traceOp {s : State} {p die r} (h : s.Tabled) : (s.traceOp p die r).Tabled := by
  unfold State.traceOp
  refine h.ite ?_
  split
  · exact h
  · exact h.modPart
  · exact h.opRing.modPart.ite h.opRing.modPart.traceLost

theorem State.Tabled.trace {s : State} {p die r sel} (h : s.Tabled) : (s.trace p die r sel).Tabled := by
  unfold State.trace
  extract_lets takes q r s1
  have h1 : s1.Tabled := .ite h.readChron.traceGuest h.readChron
  exact .ite (.ite h1.traceOp h1) h

theorem State.Tabled.traceLane {s : State} {l kind flags payload sel} (h : s.Tabled) : (s.traceLane l kind flags payload sel).Tabled :=
  h.trace

/-! ### Events (R204) -/

theorem State.Tabled.addEvent {s : State} {p e n} (h : s.Tabled) : (s.addEvent p e n).Tabled :=
  h.modPart

/-! ### Partition faults (R237 to R239) -/

theorem State.Tabled.stopRing {s : State} {b} (h : s.Tabled) : (s.stopRing b).Tabled :=
  .msix h.opRing

theorem State.Tabled.halt {s : State} {p cause aux who} (h : s.Tabled) : (s.halt p cause aux who).Tabled := by
  unfold State.halt
  extract_lets x s1
  exact .ite (.stopRing (.same (s := s1) h.modPart rfl rfl rfl)) h

/-! ### Register writes of a VF (R251, R257, R297) -/

theorem steps_whenReady {s : State} {f} (hf : ∀ (u : State), u.Tabled → (f u).Tabled) : s.Steps (whenReady s f) :=
  .next (fun h1 => (hf _ h1).ite h1)

theorem State.Tabled.viaMmio {s : State} {p fn off width v act} (h : s.Tabled) (hact : ∀ (u : State), u.Tabled → (act u).Tabled) :
    (s.viaMmio p fn off width v act).Tabled := by
  unfold State.viaMmio
  refine h.ite ?_
  split
  · exact h.modPart
  · exact h
  · exact h
  · exact hact _ h
  · exact hact _ h
  · exact hact _ h

theorem State.Tabled.viaVf {s : State} {p off width v act} (h : s.Tabled) (hact : ∀ (u : State), u.Tabled → (act u).Tabled) :
    (s.viaVf p off width v act).Tabled :=
  h.viaMmio (fun _ h1 => hact _ h1)

/-! ### Taking a trap and returning from one (R222 to R228) -/

theorem State.Tabled.trapEntry {s : State} {l t} (h : s.Tabled) : (s.trapEntry l t).Tabled :=
  h.setLane.halt.ite (h.setLane.halt.ite (h.setLane.modLaunch.modPart.ite h.setLane.modLaunch))

theorem State.Tabled.raise {s : State} {l t} (h : s.Tabled) : (s.raise l t).Tabled :=
  h.trapEntry.ite h.setLane

theorem State.Tabled.raiseIllegal {s : State} {aux} (h : s.Tabled) : (raiseIllegal s aux).Tabled :=
  h.eachActive (fun _ _ h1 => h1.raise)

/-! ### Bundles -/

theorem State.Tabled.walkRead {s : State} {w a} (h : s.Tabled) : (s.walkRead w a).1.Tabled := by
  unfold State.walkRead
  split
  · exact h.homeRead
  · exact h
  · exact h.ite h.record

/-! ### TLBs and walk caches (R140) -/

theorem State.Tabled.fillTlb {s : State} {e} (h : s.Tabled) : (s.fillTlb e).Tabled := by
  unfold State.fillTlb
  dsimp only
  refine .ite ?_ h
  split <;> exact h.draw

theorem State.Tabled.cache {s : State} {w level va bits pte ends} (h : s.Tabled) : (s.cache w level va bits pte ends).Tabled :=
  .foldl h (fun _ _ h1 => h1.fillTlb)

theorem State.Tabled.promote {s : State} {w e} (h : s.Tabled) : (s.promote w e).Tabled :=
  h.foldl (fun _ _ h1 => h1.fillTlb)

/-! ### The walk (R136) -/

theorem State.Tabled.tableRead {s : State} {w fresh level a va} (h : s.Tabled) : (s.tableRead w fresh level a va).1.Tabled := by
  unfold State.tableRead
  split
  · exact h
  · exact h.walkRead

theorem State.Tabled.walkLevel {s : State} {w fresh va level bits a ends leaf pointer next} (h : s.Tabled)
    (hnext : ∀ (u : State) x1 x2, u.Tabled → (next u x1 x2).1.Tabled) : (s.walkLevel w fresh va level bits a ends leaf pointer next).1.Tabled := by
  unfold State.walkLevel
  dsimp only
  split
  · exact h.tableRead
  · split
    · exact h.tableRead
    · split
      · exact h.tableRead
      · split
        · exact h.tableRead
        · exact hnext _ _ _ h.tableRead.cache

theorem State.Tabled.walkLast {s : State} {w a bits ends} (h : s.Tabled) : (s.walkLast w a bits ends).1.Tabled := by
  unfold State.walkLast
  dsimp only
  split
  · exact h.walkRead
  · split
    · exact h.walkRead
    · split <;> exact h.walkRead

theorem State.Tabled.walk {s : State} {w fresh root va} (h : s.Tabled) : (s.walk w fresh root va).1.Tabled := by
  unfold State.walk
  split
  · exact h
  · refine h.walkLevel ?_
    intro _ _ _ h1
    refine h1.walkLevel ?_
    intro _ _ _ h2
    refine h2.walkLevel ?_
    intro _ _ _ h3
    split <;> exact h3.walkLast

/-- The walk is made a variable first: the kernel would evaluate it when it meets the definition's match. -/
theorem State.Tabled.walkAndCheck {s : State} {w va u block fresh} (h : s.Tabled) : (s.walkAndCheck w va u block fresh).1.Tabled := by
  obtain ⟨walk, ewalk, hw⟩ : ∃ f, f = @State.walk ∧ ∀ (s : State) w b r va, s.Tabled → (f s w b r va).1.Tabled :=
    ⟨_, rfl, fun _ _ _ _ _ h => h.walk⟩
  have e := @rfl _ @State.walkAndCheck
  conv at e => rhs; delta State.walkAndCheck
  rw [e, ← ewalk]
  dsimp only
  have hr := hw s w fresh (ctxRoot block) va h
  split
  · exact hr
  · exact hr
  · exact .beside (.ite hr (.cache hr))

theorem State.Tabled.translate {s : State} {w va u} (h : s.Tabled) : (s.translate w va u).1.Tabled := by
  unfold State.translate
  dsimp only
  split
  · exact h
  · split
    · split
      · exact h
      · split <;> exact h
    · split
      · exact h
      · split
        · split
          · exact h.promote
          · exact h.walkAndCheck
        · exact h.walkAndCheck

/-! ### The capacity tier (R147) -/

theorem State.Tabled.capFill {s : State} {p ln} (h : s.Tabled) : (s.capFill p ln).Tabled :=
  h.l3Use.ite h.l3Use

theorem State.Tabled.capRead {s : State} {p a n} (h : s.Tabled) : (s.capRead p a n).1.Tabled :=
  h.capFill

theorem State.Tabled.capWrite {s : State} {p a bs} (h : s.Tabled) : (s.capWrite p a bs).Tabled :=
  h.capFill

/-! ### Token transactions of an access -/

theorem State.Tabled.askTokens {s : State} {ln excl} (h : s.Tabled) : (s.askTokens ln excl).Tabled :=
  h.recallHost

theorem State.Tabled.countL2 {s : State} {a p ctx ev} (h : s.Tabled) : (s.countL2 a p ctx ev).Tabled :=
  h.count.ite h

theorem State.Tabled.fromHome {s : State} {ln p ctx} (h : s.Tabled) : (s.fromHome ln p ctx).Tabled :=
  h.l3Touch.ite h

theorem State.Tabled.persistDone {s : State} {ln a} (h : s.Tabled) : (s.persistDone ln a).Tabled :=
  .ite (.serveWaiting (h.modLine.foldl (fun _ _ h1 => h1.post))) h

theorem State.Tabled.checkDone {s : State} {ln a} (h : s.Tabled) : (s.checkDone ln a).Tabled :=
  h.ite (h.persistDone.ite (h.ite h.post))

theorem State.Tabled.satisfied {s : State} {ln a} (h : s.Tabled) : (s.satisfied ln a).Tabled :=
  .checkDone (h.modLine.ite h)

theorem State.Tabled.takeShared {s : State} {ln a p ctx} (h : s.Tabled) : (s.takeShared ln a p ctx).Tabled := by
  unfold State.takeShared
  refine h.fold.l2Touch.countL2.ite ?_
  refine .satisfied ?_
  refine .countL2 ?_
  refine .l2Touch ?_
  refine h.fold.landTokens.fromHome.ite ?_
  split
  · exact h.fold.landTokens.fromHome.modLine
  · exact h.fold.landTokens.fromHome

theorem State.Tabled.takeAll {s : State} {ln a p ctx} (h : s.Tabled) : (s.takeAll ln a p ctx).Tabled :=
  .satisfied (.l2Touch (.modLine (h.fold.countL2.ite h.fold.landTokens.fromHome.modLine.countL2)))

theorem State.Tabled.mergeLine {s : State} {ln a p ctx f} (h : s.Tabled) : (s.mergeLine ln a p ctx f).1.Tabled := by
  unfold State.mergeLine
  dsimp only
  split
  · split
    · exact h
    · exact h.setLineLa.modLine.l2Touch.countL2
  · exact .l2Touch (.modLine (h.ite h.landTokens.fromHome.modLine))

/-! ### The L1 (R116 to R118) -/

theorem State.Tabled.clearL1 {s : State} {cluster core} (h : s.Tabled) : (s.clearL1 cluster core).Tabled :=
  h.ite h.modCluster

theorem State.Tabled.storeL1 {s : State} {cluster a bs} (h : s.Tabled) : (s.storeL1 cluster a bs).Tabled :=
  h.modCluster.ite h

theorem State.Tabled.fillL1 {s : State} {cluster core ln data} (h : s.Tabled) : (s.fillL1 cluster core ln data).Tabled :=
  h.modCluster

theorem State.Tabled.askHost {s : State} {h0 own} (h : s.Tabled) : (s.askHost h0 own).Tabled :=
  h.ite h.emit

theorem State.Tabled.reachBut {s : State} {v va n u bars} (h : s.Tabled) : (s.reachBut v va n u bars).1.Tabled := by
  unfold State.reachBut
  dsimp only
  split
  · exact h.translate
  · exact h.translate
  · split
    · exact h.translate
    · split
      · exact h.translate
      · exact h.translate.record
      · split
        · split
          · exact h.translate.askHost
          · exact h.translate
        · split
          · exact h.translate
          · split
            · exact h.translate
            · split
              · exact h.translate.ite h.translate.record
              · exact h.translate
              · split
                · split
                  · exact h.translate.passFront.askTokens
                  · split
                    · exact h.translate.passFront.askTokens
                    · exact h.translate.passFront
                · split
                  · exact h.translate.askTokens
                  · split
                    · exact h.translate.askTokens
                    · exact h.translate

theorem State.Tabled.reach {s : State} {v va n u} (h : s.Tabled) : (s.reach v va n u).1.Tabled :=
  h.reachBut

/-! ### Host lines (R170) -/

theorem State.Tabled.hostPut {s : State} {a b} (h : s.Tabled) : (s.hostPut a b).Tabled :=
  h

theorem State.Tabled.hostWrite {s : State} {a bs} (h : s.Tabled) : (s.hostWrite a bs).Tabled := by
  induction bs generalizing s a with
  | nil => exact h
  | cons b bs ih => exact ih h.hostPut

/-! ### Reads and writes at a place -/

theorem State.Tabled.foldFor {s : State} {v ln} (h : s.Tabled) : (s.foldFor v ln).1.Tabled := by
  unfold State.foldFor
  dsimp only
  split
  · exact h.fold
  · exact h.fold.record

theorem State.Tabled.readAt {s : State} {v x n} (h : s.Tabled) : (s.readAt v x n).1.Tabled := by
  unfold State.readAt
  split
  · exact .beside h.capRead
  · dsimp only
    split
    · split <;> exact h.foldFor.homeObtain
    · split <;> exact h.foldFor.takeShared

theorem State.Tabled.overPoison {s : State} {v a n} (h : s.Tabled) : (s.overPoison v a n).Tabled :=
  h.ite (.ite h h.record)

theorem State.Tabled.writeAt {s : State} {v x bs} (h : s.Tabled) : (s.writeAt v x bs).1.Tabled := by
  unfold State.writeAt
  dsimp only
  split
  · exact h.capWrite.overPoison
  · split
    · exact h.foldFor
    · exact .overPoison (.writeMem (h.foldFor.l3Touch.homeTake.ite h.foldFor.takeAll))

/-! ### A lane's accesses -/

theorem State.Tabled.loadVia {s : State} {v va n} (h : s.Tabled) : (s.loadVia v va n).1.Tabled := by
  unfold State.loadVia
  dsimp only
  split
  · exact h.reach
  · exact h.reach
  · exact h.reach
  · exact h.reach
  · exact h.reach
  · split <;> exact h.reach.readAt

theorem State.Tabled.load {s : State} {l va n any} (h : s.Tabled) : (s.load l va n any).1.Tabled := by
  unfold State.load
  dsimp only
  split
  · exact h.loadVia
  · split
    · split
      · split
        · exact h.reach.countLane
        · split
          · exact h.reach.countLane.readAt.fillL1
          · exact h.reach.countLane.readAt
      · split <;> exact h.reach.readAt
    · exact h.reach
    · exact h.reach
    · exact h.reach
    · exact h.reach
    · exact h.reach

theorem State.Tabled.storeVia {s : State} {v va bs} (h : s.Tabled) : (s.storeVia v va bs).1.Tabled := by
  unfold State.storeVia
  dsimp only
  split
  · exact h.reach
  · exact h.reach
  · exact h.reach
  · exact h.reach
  · exact h.reach.hostWrite
  · exact h.reach.writeAt

theorem State.Tabled.store {s : State} {l va bs} (h : s.Tabled) : (s.store l va bs).1.Tabled := by
  unfold State.store
  dsimp only
  split
  · split
    · exact h.reach.writeAt
    · exact h.reach.writeAt.storeL1.ite h.reach.writeAt
  · exact h.reach
  · exact h.reach
  · exact h.reach
  · exact h.reach
  · exact h.reach.hostWrite

theorem State.Tabled.modified {s : State} {new n k} (h : s.Tabled) (hk : ∀ (u : State) x1, u.Tabled → (k u x1).Tabled) :
    (s.modified new n k).Tabled :=
  h.elim (fun _ => hk _ _ h)

theorem State.Tabled.rmw {s : State} {l va n f} (h : s.Tabled) : (s.rmw l va n f).1.Tabled := by
  unfold State.rmw
  dsimp only
  split
  · exact h.reachBut
  · exact h.reachBut
  · exact h.reachBut
  · exact h.reachBut
  · exact h.reachBut.modified (fun _ _ h1 => h1.hostWrite)
  · split
    · exact h.reachBut.readAt.modified (fun _ _ h1 => h1.writeAt)
    · exact h.reachBut.readAt

theorem State.Tabled.mergeVia {s : State} {v va f} (h : s.Tabled) : (s.mergeVia v va f).1.Tabled := by
  unfold State.mergeVia
  dsimp only
  split
  · exact h.reachBut
  · exact h.reachBut
  · exact h.reachBut
  · exact h.reachBut
  · exact h.reachBut
  · exact h.reachBut.mergeLine

/-! ### Peer requests (R299) -/

theorem State.Tabled.askPeer {s : State} {l n dpa op va store acq} (h : s.Tabled) : (s.askPeer l n dpa op va store acq).2.Tabled :=
  .sendPeer h

theorem steps_guarded {s : State} {i k} (hk : ∀ (u : State), u.Tabled → (k u).Tabled) : s.Steps (guarded i s k) := by
  unfold Machine.guarded
  split
  · exact .stay
  · split
    · exact .next (fun h1 => h1.raiseIllegal)
    · exact .next (fun h1 => hk _ h1)

theorem steps_laneOp {s : State} {i f} : s.Steps (laneOp i s f) :=
  steps_guarded (fun _ h1 => h1.mapActive)

theorem steps_laneOpF {s : State} {i f} : s.Steps (laneOpF i s f) :=
  steps_guarded (fun _ h1 => h1.mapActive.foldl (fun _ _ h2 => h2.orFlags))

/-! ### Page faults -/

theorem State.Tabled.pageRecord {s : State} {l f} (h : s.Tabled) : (s.pageRecord l f).Tabled := by
  unfold State.pageRecord
  extract_lets x fid ids mask s1 go s2
  have h2 : s2.Tabled := .same (s := s1) h.modPart rfl rfl rfl
  exact .ite (.halt h) (.ite h h2.record)

theorem State.Tabled.takePages {s : State} (h : s.Tabled) : s.takePages.Tabled := by
  unfold State.takePages
  refine h.foldl ?_
  intro _ _ h1
  split
  · split
    · exact h1.pageRecord
    · exact h1
  · exact h1

theorem State.Tabled.enginePage {s : State} {p recd f lane xfer coll repeats} (h : s.Tabled) :
    (s.enginePage p recd f lane xfer coll repeats).1.Tabled := by
  unfold State.enginePage
  split
  · exact h.halt
  · exact h.modPart.record

/-! ### Deferred results -/

theorem steps_deferOp {s : State} {i f} : s.Steps (deferOp i s f) :=
  steps_guarded (fun _ h1 => h1.mapActive)

/-! ### Markers -/

theorem State.Tabled.takeShare {s : State} {l} (h : s.Tabled) : (s.takeShare l).Tabled :=
  h.ite h

theorem State.Tabled.settleMarker {s : State} {l} (h : s.Tabled) : (s.settleMarker l).Tabled := by
  unfold State.settleMarker
  refine h.ite ?_
  refine h.ite ?_
  split
  · exact h.setLane.ite h
  · refine h.ite ?_
    split
    · exact h.takeShare.ite h.setLane
    · exact h.trapEntry
    · exact h

theorem State.Tabled.settleStep {s : State} {l} (h : s.Tabled) : (s.settleStep l).Tabled := by
  unfold State.settleStep
  split
  · exact h.raise.ite h
  · exact h

theorem State.Tabled.onLane {s : State} {id f} (h : s.Tabled) (hf : ∀ (u : State) x1, u.Tabled → (f u x1).Tabled) : (s.onLane id f).Tabled := by
  unfold State.onLane
  split
  · exact hf _ _ h
  · exact h

theorem State.Tabled.settle {s : State} {ids} (h : s.Tabled) : (s.settle ids).Tabled :=
  .foldl (.takePages (h.foldl (fun _ _ h1 => h1.onLane (fun _ _ h2 => h2.settleMarker)))) (fun _ _ h1 => h1.onLane (fun _ _ h2 => h2.settleStep))

theorem State.Tabled.waitFirst {s : State} {k} (h : s.Tabled) (hk : ∀ (u : State), u.Tabled → (k u).Tabled) : (waitFirst s k).Tabled :=
  h.mapActive.ite (hk _ h.mapActive)

/-! ### Earlier accesses (R180) -/

theorem State.Tabled.releaseFirst {s : State} {k} (h : s.Tabled) (hk : ∀ (u : State), u.Tabled → (k u).Tabled) : (releaseFirst s k).Tabled :=
  h.mapActive.ite (hk _ h.mapActive)

/-! ### Release of parks -/

theorem State.Tabled.together {s : State} {f} (h : s.Tabled) : (s.together f).Tabled :=
  h

theorem State.Tabled.release {s : State} {f} (h : s.Tabled) : (s.release f).Tabled :=
  .settle h

/-! ### CVT by code (R335) -/

theorem steps_execCvt {s : State} {d a k r t l} : s.Steps (execCvt d a k r t l s) :=
  steps_laneOpF

/-! ### MX blocks -/

theorem steps_execCvtF32Mx {s : State} {d a j r l} : s.Steps (execCvtF32Mx d a j r l s) :=
  steps_deferOp

theorem steps_execDqmx {s : State} {d a b l} : s.Steps (execDqmx d a b l s) :=
  steps_deferOp

theorem steps_execQmx {s : State} {d a b l} : s.Steps (execQmx d a b l s) :=
  steps_deferOp

/-! ### Planes (R31, R32) -/

theorem steps_execPslice {s : State} {d a} : s.Steps (execPslice d a s) :=
  steps_laneOp

theorem steps_execPmerge {s : State} {d a p} : s.Steps (execPmerge d a p s) :=
  steps_laneOp

theorem steps_kOp {s : State} {i k f} : s.Steps (kOp i s k f) :=
  steps_laneOp

theorem steps_execKclr {s : State} {k} : s.Steps (execKclr k s) :=
  steps_laneOp

theorem steps_execKadd {s : State} {k a f} : s.Steps (execKadd k a f s) :=
  steps_kOp

theorem steps_execKfma {s : State} {k a b f} : s.Steps (execKfma k a b f s) :=
  steps_kOp

theorem steps_execKdot2 {s : State} {k a b f} : s.Steps (execKdot2 k a b f s) :=
  steps_kOp

theorem steps_execKdot4 {s : State} {k a b f} : s.Steps (execKdot4 k a b f s) :=
  steps_kOp

theorem steps_execKiadd {s : State} {k a b} : s.Steps (execKiadd k a b s) :=
  steps_kOp

theorem steps_execKmrg {s : State} {k m} : s.Steps (execKmrg k m s) :=
  steps_kOp

theorem steps_execKmrgNeg {s : State} {k m} : s.Steps (execKmrgNeg k m s) :=
  steps_kOp

theorem steps_execKnorm {s : State} {k} : s.Steps (execKnorm k s) :=
  steps_laneOp

theorem steps_execKscl {s : State} {k a} : s.Steps (execKscl k a s) :=
  steps_kOp

theorem steps_execKseg {s : State} {k a b} : s.Steps (execKseg k a b s) :=
  steps_deferOp

theorem steps_execKstat {s : State} {k a} : s.Steps (execKstat k a s) :=
  steps_deferOp

theorem steps_execKrnd {s : State} {k a t r f} : s.Steps (execKrnd k a t r f s) :=
  steps_deferOp

/-! ### Ready lanes -/

theorem State.Tabled.thaw {s s0 : State} (h : s.Tabled) : (s.thaw s0).Tabled := h

/-! ### Fetch (R310, R313) -/

theorem State.Tabled.fetch {s : State} {l a} (h : s.Tabled) : (s.fetch l a).1.Tabled := by
  unfold State.fetch
  dsimp only
  split
  · split
    · split
      · split
        · exact h.askHost
        · exact h
      · split
        · split
          · exact h
          · exact .beside h.capRead
        · split
          · exact .beside h.record
          · split
            · exact h
            · exact .beside h.homeRead
    · exact h
  · split
    · exact h.reach
    · exact h.reach
    · exact h.reach
    · exact h.reach
    · exact h.reach
    · split <;> exact h.reach.readAt

theorem State.Tabled.fetchAt {s : State} {l a slot} (h : s.Tabled) : (s.fetchAt l a slot).1.Tabled := by
  unfold State.fetchAt
  dsimp only
  split
  · split
    · split
      · split <;> exact h.fetch.fetch
      · exact h.fetch.fetch
    · split <;> exact h.fetch
  · exact h.fetch

/-! ### Formation (R71, R483) -/

theorem State.Tabled.form {s : State} {q} (h : s.Tabled) : (s.form q).Tabled :=
  h

theorem State.Tabled.unyield {s : State} {q} (h : s.Tabled) : (s.unyield q).Tabled :=
  h.foldl (fun _ _ h1 => h1.modGroup)

/-! ### Choice (R75) -/

theorem State.Tabled.begin {s : State} {b} (h : s.Tabled) : (s.begin b).Tabled := by
  unfold State.begin
  split
  · exact h
  · exact .ite (.countLane (.countLane (.countLane h))) (.countLane (.countLane h))

theorem State.Tabled.choose {s : State} (h : s.Tabled) : TabledIf s.choose := by
  unfold State.choose
  split
  · exact .none
  · next q _ =>
    have h1 : (if (s.unyield q).formDue q then (s.unyield q).form q else s.unyield q).Tabled := .ite h.unyield.form h.unyield
    dsimp only
    split
    · exact .some (.begin h1)
    · exact .some h1

/-! ### Chains (R311) -/

theorem State.Tabled.chainWords {s : State} {l f a slot k} (h : s.Tabled) : (s.chainWords l f a slot k).1.Tabled := by
  induction k generalizing s f a slot with
  | zero => exact h
  | succ k ih =>
    unfold State.chainWords
    split
    · exact h
    · dsimp only
      split
      · split
        · exact h.fetchAt
        · split <;> exact ih h.fetchAt
      · exact h.fetchAt
      · exact h.fetchAt

theorem State.Tabled.chainTraps {s : State} {is} (h : s.Tabled) : (s.chainTraps is).Tabled :=
  h.eachActive (fun _ _ h1 => h1.elim (fun _ => h1.raise))

theorem State.Tabled.laneFetch {s : State} {l r a} (h : s.Tabled) : (s.laneFetch l r a).Tabled := by
  unfold State.laneFetch
  split
  · exact h.setLane
  · exact h.raise
  · exact h.setLane

theorem State.Tabled.noFetch {s : State} {r a} (h : s.Tabled) : (s.noFetch r a).Tabled :=
  h.eachActive (fun _ _ h1 => h1.laneFetch)

/-! ### What follows a word -/

theorem State.Tabled.sortWay {s : State} {tid grp w} (h : s.Tabled) : (s.sortWay tid grp w).Tabled :=
  h.ite h

theorem State.Tabled.sortWays {s : State} {tid grp} (h : s.Tabled) : (s.sortWays tid grp).Tabled :=
  h.foldl (fun _ _ h1 => h1.sortWay)

theorem State.Tabled.noteTrail {s : State} {f ids} (h : s.Tabled) : (s.noteTrail f ids).Tabled :=
  .foldl h (fun _ _ h1 => h1.sortWays)

theorem State.Tabled.markFlags {s : State} {tid grp} (h : s.Tabled) : (s.markFlags tid grp).Tabled :=
  h.foldl (fun _ _ h1 => h1.foldl (fun _ _ h2 => h2.ite h2.modGroup))

theorem State.Tabled.markAll {s : State} {ids} (h : s.Tabled) : (s.markAll ids).Tabled :=
  h.foldl (fun _ _ h1 => h1.markFlags)

theorem State.Tabled.unyieldFor {s : State} {ids} (h : s.Tabled) : (s.unyieldFor ids).Tabled :=
  h.elim (fun _ => h.unyield)

theorem State.Tabled.afterWord {s : State} {f ids stepped pc} (h : s.Tabled) : (s.afterWord f ids stepped pc).Tabled :=
  .unyieldFor (.settle (.noteTrail (h.markAll.ite h)))

theorem State.Tabled.endIssue {s : State} {ids} (h : s.Tabled) : (s.endIssue ids).Tabled :=
  .unyieldFor (.settle h)

theorem State.Tabled.quarterStop {s : State} {l} (h : s.Tabled) : (s.quarterStop l).Tabled :=
  .modPart h

theorem State.Tabled.breakLane {s : State} {l aux} (h : s.Tabled) : (s.breakLane l aux).Tabled :=
  h.setLane.quarterStop.ite h.raise

theorem State.Tabled.countWord {s : State} {ls l} (h : s.Tabled) : (s.countWord ls l).Tabled :=
  h.ite h.countLane

theorem State.Tabled.sound {s : State} {l sel} (h : s.Tabled) : (s.sound l sel).Tabled :=
  h.draw.traceLane.countLane

theorem State.Tabled.soundOne {s : State} {l stream m} (h : s.Tabled) : (s.soundOne l stream m).1.Tabled := by
  unfold State.soundOne
  split
  · exact h
  · exact h.modPart

theorem State.Tabled.soundCount {s : State} {l} (h : s.Tabled) : (s.soundCount l).1.Tabled :=
  h.soundOne.soundOne

theorem State.Tabled.soundWord {s : State} {l sel} (h : s.Tabled) : (s.soundWord l sel).Tabled := by
  unfold State.soundWord
  refine h.countLane.ite ?_
  split
  · exact h.sound.ite (h.countLane.ite h.modLane)
  · exact h.sound

theorem State.Tabled.writeResult {s : State} {l d} (h : s.Tabled) : (s.writeResult l d).Tabled := by
  unfold State.writeResult
  refine .ite ?_ ?_
  · refine .orFlags ?_
    refine .setLane ?_
    split
    · exact h.draw
    · exact h
  · refine .sound ?_
    refine .orFlags ?_
    refine .setLane ?_
    split
    · exact h.draw
    · exact h

theorem State.Tabled.sounded {t s : State} {i} (h : t.Tabled) : (t.sounded s i).Tabled := by
  unfold State.sounded
  split
  · exact h
  · exact .ite h (.ite h.soundCount h.soundCount.soundWord)

theorem State.Steps.runBroken {s : State} {run i aux} (hr : ∀ (u : State) j, u.Steps (run j u)) : s.Steps (s.runBroken run i aux) := by
  unfold State.runBroken
  obtain ⟨t, e, -⟩ := hr s i
  rw [e]
  dsimp only
  exact .ite (.next fun h => .foldl h fun _ _ h1 => h1.onLane fun _ _ h2 => h2.breakLane)
    (.trans (fun h => .foldl h fun _ _ h1 => h1.onLane fun _ _ h2 => h2.breakLane) (hr _ i))

theorem State.Tabled.splitChain {s : State} (h : s.Tabled) : s.splitChain.Tabled :=
  h.mapActive

theorem State.Tabled.firstAcquire {s : State} {cluster} (h : s.Tabled) : (s.firstAcquire cluster).Tabled :=
  h.foldl (fun _ _ h1 => h1.clearL1)

theorem State.Tabled.beginTeam {s : State} {l} (h : s.Tabled) : (s.beginTeam l).Tabled := by
  unfold State.beginTeam
  split
  · exact h.ite h.firstAcquire.modTeam
  · exact h

theorem State.Steps.issueWord {s : State} {run} (hr : ∀ (u : State) i, u.Steps (run i u)) : s.Steps (s.issueWord run) := by
  unfold State.issueWord
  split
  · exact .stay
  · next l _ =>
    extract_lets ids o slot r s1
    refine .ite (.next fun h => h.raiseIllegal.endIssue) ?_
    split
    · exact .next fun h => h.fetchAt.raiseIllegal.endIssue
    · exact .next fun h => h.fetchAt.noFetch.endIssue
    · next f _ =>
      extract_lets c
      have hc (h : s.Tabled) : c.1.Tabled := by
        unfold c
        split
        · exact h.fetchAt
        · exact h.fetchAt.chainWords
      split
      · exact .next fun h => (hc h).raiseIllegal.endIssue
      · exact .next fun h => (hc h).noFetch.endIssue
      · extract_lets s2 base s3 res
        have h2 (h : s.Tabled) : s2.Tabled := (hc h).chainTraps
        have hb (h : s.Tabled) : base.Tabled := (h2 h).beginTeam
        clear_value base
        have h3 (h : s.Tabled) : s3.Tabled := .same (hb h) rfl rfl rfl
        refine .ite (.next fun h => (h2 h).endIssue) (.ite (.next fun h => (h2 h).splitChain) ?_)
        have hres : s3.Steps res := by
          unfold res
          split
          · exact .runBroken hr
          · exact hr s3 f.instr
        clear_value res s3
        obtain ⟨t, rfl, k⟩ := hres
        exact .next fun h => (k (h3 h)).countWord.sounded.afterWord

theorem State.Tabled.placeTeam {s : State} {p L cluster} (h : s.Tabled) : (s.placeTeam p L cluster).Tabled :=
  .modLaunch (.readChron h)

/-! ### Acquires (R118, R180) -/

theorem State.Tabled.acquire {s : State} {l e} (h : s.Tabled) : (s.acquire l e).Tabled :=
  h.clearL1.ite h

theorem State.Tabled.acquireAll {s : State} {f e} (h : s.Tabled) : (s.acquireAll f e).Tabled :=
  .ite (h.foldl (fun _ _ h1 => h1.clearL1)) h

/-! ### Arrival and completion -/

theorem State.Tabled.completeBar {s : State} {t b} (h : s.Tabled) : (s.completeBar t b).Tabled :=
  .ite (.release (.together h)) h

theorem State.Tabled.completeCbar {s : State} {p seq cluster} (h : s.Tabled) : (s.completeCbar p seq cluster).Tabled :=
  .ite (.release (.together (.acquireAll h.modLaunch))) h

theorem State.Tabled.completeGbar {s : State} {p seq} (h : s.Tabled) : (s.completeGbar p seq).Tabled :=
  .ite (.release (.together (.acquireAll h.modLaunch))) h

theorem State.Tabled.completeAll {s : State} {l} (h : s.Tabled) : (s.completeAll l).Tabled := by
  unfold State.completeAll
  refine .completeGbar ?_
  refine .completeCbar ?_
  refine h.foldl ?_
  intro _ _ h1
  split
  · exact h1.completeBar
  · exact h1

/-! ### Events -/

theorem State.Tabled.retest {s : State} {f} (h : s.Tabled) : (s.retest f).Tabled :=
  .ite (.release (.acquireAll (.ite h.acquireAll h))) (.ite h.acquireAll h)

theorem State.Tabled.bumpEvent {s : State} {p e n} (h : s.Tabled) : (s.bumpEvent p e n).Tabled :=
  h.addEvent.retest

/-! ### Team barriers -/

theorem State.Tabled.arrive {s : State} {l m b go} (h : s.Tabled) : (s.arrive l m b go).Tabled := by
  unfold State.arrive
  dsimp only
  split
  · exact h
  · refine h.raise.ite ?_
    refine h.setLane.ite ?_
    refine h.raise.ite ?_
    split
    · exact h.modTeam.setLane.completeBar
    · exact h.modTeam.setLane

theorem steps_execBar {s : State} {m b} : s.Steps (execBar m b s) :=
  steps_guarded (fun _ h1 => h1.waitFirst (fun _ h2 => h2.releaseFirst (fun _ h3 => h3.eachActive (fun _ _ h4 => h4.arrive))))

theorem steps_execBara {s : State} {d m b} : s.Steps (execBara d m b s) :=
  steps_guarded (fun _ h1 => h1.releaseFirst (fun _ h2 => h2.eachActive (fun _ _ h3 => h3.arrive)))

theorem steps_execBarw {s : State} {b} : s.Steps (execBarw b s) :=
  steps_guarded (fun _ h1 => h1.waitFirst (fun _ h2 => h2.mapActive))

/-! ### Cluster and grid barriers -/

theorem steps_execCbar {s : State} : s.Steps (execCbar s) :=
  steps_guarded (fun _ h1 => h1.waitFirst (fun _ h2 => h2.releaseFirst (fun _ h3 => h3.eachActive
      (fun _ _ h4 => h4.raise.ite (h4.setLane.ite h4.setLane.completeCbar)))))

theorem steps_execGbar {s : State} : s.Steps (execGbar s) :=
  steps_guarded (fun _ h1 => h1.waitFirst (fun _ h2 => h2.releaseFirst (fun _ h3 => h3.eachActive
      (fun _ _ h4 => h4.raise.ite (h4.setLane.ite h4.setLane.completeGbar)))))

theorem steps_execWaitph {s : State} {p a b} : s.Steps (execWaitph p a b s) :=
  steps_guarded (fun _ h1 => h1.waitFirst (fun _ h2 => h2.eachActive (fun _ _ h3 => h3.raise.ite (h3.setLane.ite h3.setLane.acquire))))

/-! ### Events -/

theorem steps_execEvsig {s : State} {a b} : s.Steps (execEvsig a b s) :=
  steps_guarded (fun _ h1 => h1.mapActive.eachActive (fun _ _ h2 => h2.bumpEvent.ite h2.setLane))

theorem State.Tabled.doRels {s : State} {l} (h : s.Tabled) : (s.doRels l).Tabled :=
  h.modLane.foldl (fun _ _ h1 => h1.bumpEvent)

theorem steps_execEvwait {s : State} {a b} : s.Steps (execEvwait a b s) :=
  steps_guarded (fun _ h1 => h1.eachActive (fun _ _ h2 => h2.setLane.acquire.ite (h2.setLane.ite h2.setLane)))

/-! ### Fences -/

theorem State.Tabled.capFlush {s : State} {p} (h : s.Tabled) : (s.capFlush p).Tabled :=
  h.foldl (fun _ _ h1 => h1.capBack)

theorem steps_execFence {s : State} {e o} : s.Steps (execFence e o s) :=
  steps_guarded (fun _ h1 => h1.waitFirst (fun _ h2 => h2.eachActive (fun _ _ h3 => h3.setLane.ite
      (.setLane (.ite (.capFlush (h3.acquire.ite h3)) (h3.acquire.ite h3))))))

/-! ### The scratch space -/

theorem State.Tabled.modMacro {s : State} {cluster m f} (h : s.Tabled) : (s.modMacro cluster m f).Tabled :=
  h.modCluster

/-! ### Reads and writes of pieces -/

theorem State.Tabled.writePieces {s : State} {cluster code ps bs} (h : s.Tabled) : (s.writePieces cluster code ps bs).Tabled := by
  induction ps generalizing s bs with
  | nil => exact h
  | cons p ps ih => exact ih h.modMacro

/-! ### Order among a lane's accesses (R180 to R183) -/

theorem State.Tabled.awaiting {s k : State} {l us} (h : s.Tabled) (hk : k.Tabled) : (s.awaiting l us k).Tabled :=
  hk.ite h.setLane

theorem State.Tabled.systemRelease {s k : State} {l e o} (h : s.Tabled) (hk : k.Tabled) : (systemRelease s l e o k).Tabled :=
  .ite (h.setLane.ite (h.setLane.ite hk)) hk

theorem State.Tabled.inOrder {s k : State} {l i srcs} (h : s.Tabled) (hk : k.Tabled) : (inOrder s l i srcs k).Tabled :=
  h.awaiting (h.systemRelease hk)

theorem State.Tabled.withRelease {s k : State} {l e} (h : s.Tabled) (hk : k.Tabled) : (withRelease s l e k).Tabled :=
  h.awaiting (h.systemRelease hk)

/-! ### Records in another package's memory -/

theorem State.Tabled.farPart {s : State} {l va dpa} (h : s.Tabled) : (s.farPart l va dpa).1.Tabled := by
  unfold State.farPart
  split
  · exact h
  · split
    · exact h
    · exact h.askPeer

/-! ### Results -/

theorem State.Tabled.perfOf {s : State} {l n op ea aux rpl r} (h : s.Tabled) : (perfOf s l n op ea aux rpl r).1.Tabled := by
  unfold Machine.perfOf
  split
  · exact h
  · exact h
  · exact h
  · exact h.askPeer
  · exact h

theorem State.Tabled.acquireFor {s : State} {l i srcs} (h : s.Tabled) : (s.acquireFor l i srcs).Tabled :=
  h.acquire.ite h

theorem State.Tabled.acquired {l i srcs} {r : State × Perf} (h : r.1.Tabled) : (Machine.acquired l i srcs r).1.Tabled := by
  unfold Machine.acquired
  split
  · exact h.acquireFor
  · exact h

theorem State.Tabled.performLd {s : State} {l n i srcs} (h : s.Tabled) : (performLd s l n i srcs).1.Tabled :=
  h.load.perfOf.acquired

/-! ### Atomics (R353, R354, R368) -/

theorem State.Tabled.scratchRmw {s : State} {cluster ps n f} (h : s.Tabled) : (s.scratchRmw cluster ps n f).1.Tabled := by
  unfold State.scratchRmw
  split
  · exact h
  · exact h.elim (fun _ => h.writePieces)

theorem State.Tabled.atomic {s : State} {l i srcs} (h : s.Tabled) : (s.atomic l i srcs).1.Tabled := by
  unfold State.atomic
  dsimp only
  split
  · split
    · exact h
    · split
      · exact h
      · split <;> exact h.scratchRmw
  · exact h.rmw

theorem State.Tabled.performAtom {s : State} {l n i srcs} (h : s.Tabled) : (performAtom s l n i srcs).1.Tabled :=
  h.atomic.perfOf.acquired

/-! ### The deferred accesses -/

theorem State.Tabled.perform {s : State} {l n i srcs} (h : s.Tabled) : (s.perform l n i srcs).1.Tabled := by
  unfold State.perform
  dsimp only
  split
  · exact h.performLd
  · exact h.performLd
  · exact h.performLd
  · exact h.performLd
  · exact h.performLd
  · split
    · exact h.loadVia
    · exact h.loadVia.perfOf.acquired
  · split
    · exact h
    · split
      · exact h
      · split <;> exact h
  · split <;> exact h
  · exact h.performAtom
  · exact h.performAtom
  · exact h

/-! ### Issue of an access -/

theorem State.Tabled.noteAccess {s : State} {l i srcs} (h : s.Tabled) : (s.noteAccess l i srcs).Tabled := by
  unfold State.noteAccess
  dsimp only
  split <;> exact h.perform.setLane

theorem State.Tabled.endAccess {s : State} {l i srcs op ea aux r} (h : s.Tabled) : (s.endAccess l i srcs op ea aux r).Tabled := by
  unfold State.endAccess
  split
  · exact h.setLane
  · exact h.setLane
  · exact h.setLane
  · exact h.setLane
  · exact h.askPeer.setLane

theorem steps_accessWord {s : State} {i k} (hk : ∀ (u : State) x1 x2, u.Tabled → (k u x1 x2).Tabled) : s.Steps (accessWord i s k) := by
  unfold Machine.accessWord
  refine steps_guarded ?_
  intro _ h1
  refine h1.eachActive ?_
  intro _ _ h2
  refine h2.setLane.ite ?_
  split
  · exact h2.raise
  · exact h2.inOrder (hk _ _ _ h2)

/-! ### Order within a bundle (R355) -/

theorem State.Tabled.eachFree {s : State} {f} (h : s.Tabled) (hf : ∀ (u : State) x1, u.Tabled → (f u x1).Tabled) : (eachFree s f).Tabled := by
  unfold Machine.eachFree
  refine .foldl h ?_
  intro _ _ h1
  split
  · exact hf _ _ h1
  · exact h1

/-! ### Ordered forms (R356) -/

theorem State.Tabled.holdOrdered {s : State} {l i srcs returns} (h : s.Tabled) : (s.holdOrdered l i srcs returns).Tabled :=
  h.setLane.ite (.setLane (.modTeam h))

theorem steps_atomWord {s : State} {i ord returns} : s.Steps (atomWord i s ord returns) := by
  unfold Machine.atomWord
  refine steps_guarded ?_
  intro _ h1
  refine .ite ?_ ?_
  · refine h1.eachActive ?_
    intro _ _ h2
    refine h2.raise.ite ?_
    refine h2.setLane.ite ?_
    split
    · exact h2.raise
    · refine h2.inOrder ?_
      refine h2.holdOrdered.ite ?_
      refine .ite (h2.noteAccess.ite h2.setLane) ?_
      refine .endAccess ?_
      split
      · exact h2.atomic.acquireFor
      · exact h2.atomic
  · refine h1.eachFree ?_
    intro _ _ h2
    refine h2.raise.ite ?_
    refine h2.setLane.ite ?_
    split
    · exact h2.raise
    · refine h2.inOrder ?_
      refine h2.holdOrdered.ite ?_
      refine .ite (h2.noteAccess.ite h2.setLane) ?_
      refine .endAccess ?_
      split
      · exact h2.atomic.acquireFor
      · exact h2.atomic

theorem steps_execAtom {s : State} {d a b op z ord e o i} : s.Steps (execAtom d a b op z ord e o i s) :=
  steps_atomWord

theorem steps_execAtomNr {s : State} {a b op z ord e o i} : s.Steps (execAtomNr a b op z ord e o i s) :=
  steps_atomWord

theorem steps_execCas {s : State} {d a b c z ord e o i} : s.Steps (execCas d a b c z ord e o i s) :=
  steps_atomWord

theorem State.Tabled.fill {s : State} {l n x w} (h : s.Tabled) : (s.fill l n x w).Tabled :=
  h.setLane.countLane.ite h.setLane

theorem State.Tabled.pruneOrdered {s : State} {tid} (h : s.Tabled) : (s.pruneOrdered tid).Tabled :=
  h.modTeam

theorem steps_execOrderedAtomRelease {s : State} {tid} : s.Steps (execOrderedAtomRelease tid s) := by
  unfold Machine.execOrderedAtomRelease
  dsimp only
  split
  · exact .next (fun h1 => h1.pruneOrdered)
  · split
    · exact .next (fun h1 => h1.pruneOrdered)
    · split
      · split
        · exact .next (fun h1 => h1.pruneOrdered.performAtom)
        · refine .next ?_
          intro h1
          refine .settle ?_
          split <;> exact h1.pruneOrdered.performAtom.fill.modTeam
      · split
        · exact .next (fun h1 => h1.pruneOrdered.atomic)
        · exact .next (fun h1 => h1.pruneOrdered.atomic.acquireFor.modTeam)
        · exact .next (fun h1 => h1.pruneOrdered.atomic.askPeer.modTeam)
        · exact .next (fun h1 => h1.pruneOrdered.atomic.setLane.modTeam.settle)
        · exact .next (fun h1 => h1.pruneOrdered.atomic.setLane.modTeam.settle)

/-! ### Merges (R347 to R350) -/

theorem steps_mergeWord {s : State} {i f} : s.Steps (mergeWord i s f) :=
  steps_accessWord (fun _ _ _ h1 => h1.mergeVia.endAccess)

theorem steps_execAacc {s : State} {a b f e o i} : s.Steps (execAacc a b f e o i s) :=
  steps_mergeWord

theorem steps_execAaccMul {s : State} {a b c f e o i} : s.Steps (execAaccMul a b c f e o i s) :=
  steps_mergeWord

theorem steps_execAmrg {s : State} {a k e o i} : s.Steps (execAmrg a k e o i s) :=
  steps_mergeWord

theorem steps_execAmrgNeg {s : State} {a k e o i} : s.Steps (execAmrgNeg a k e o i s) :=
  steps_mergeWord

theorem State.Tabled.hostFold {s : State} {ln} (h : s.Tabled) : (s.hostFold ln).Tabled :=
  h.fold.foldLost

theorem State.Tabled.hostGives {s : State} {ln} (h : s.Tabled) : (s.hostGives ln).Tabled :=
  h.ite (.modLine h)

theorem State.Tabled.homeShared {s : State} {ln} (h : s.Tabled) : (s.homeShared ln).Tabled :=
  h.hostFold.hostGives.homeObtain

theorem State.Tabled.leaveHost {s : State} {ln how} (h : s.Tabled) : (s.leaveHost ln how).Tabled :=
  h.modLine.ite (h.homeTake.modLine.ite h)

theorem State.Tabled.hostStore {s : State} {a bs} (h : s.Tabled) : (s.hostStore a bs).Tabled := by
  unfold State.hostStore
  split
  · exact h.record
  · exact .serveWaiting (.ite h.hostFold.hostGives.passFront.homeTake.writeMem (.ite h.hostFold.hostGives.passFront.homeTake.writeMem
        (.record h.hostFold.hostGives.passFront.homeTake.writeMem)))

theorem State.Tabled.hostStores {s : State} {a k bs} (h : s.Tabled) : (s.hostStores a k bs).Tabled := by
  induction k generalizing s a bs with
  | zero => exact h
  | succ k ih => exact .ite h (ih h.hostStore)

theorem State.Tabled.hostOp {s : State} {o} (h : s.Tabled) : (s.hostOp o).Tabled := by
  unfold State.hostOp
  split
  · exact h.hostStores
  · exact h.emit
  · exact .foldl (.emit (h.foldl (fun _ _ h1 => h1.homeShared))) (fun _ _ h1 => h1.draw.leaveHost.serveWaiting)

theorem State.Tabled.hostAccess {s : State} {o} (h : s.Tabled) : (s.hostAccess o).Tabled :=
  .ite h h.hostOp

theorem State.Tabled.serveHost {s : State} (h : s.Tabled) : s.serveHost.Tabled :=
  .foldl h (fun _ _ h1 => h1.hostAccess)

/-! ### Persistent requests at the home (R158, R159) -/

theorem State.Tabled.setReq {s : State} {ln r} (h : s.Tabled) : (s.setReq ln r).Tabled :=
  h.modLine

theorem State.Tabled.activate {s : State} {ln} (h : s.Tabled) : (s.activate ln).Tabled := by
  unfold State.activate
  extract_lets l
  split
  · extract_lets s1 s2 s3 s4
    have h2 : s2.Tabled := .ite (.snoopHost h.modLine) h.modLine
    have h3 : s3.Tabled := .foldl h2 fun _ _ h => h.post
    have h4 : s4.Tabled := .ite h3.beginFold h3
    exact .ite h4 h4.sendAllTok.checkDone
  · exact h

theorem State.Tabled.ackDone {s : State} {ln} (h : s.Tabled) : (s.ackDone ln).Tabled :=
  h.modLine.serveHost.activate.ite h

theorem State.Tabled.countReq {s : State} {ln a ev} (h : s.Tabled) : (s.countReq ln a ev).Tabled :=
  h.count

theorem State.Tabled.enterPersist {s : State} {ln a age excl} (h : s.Tabled) : (s.enterPersist ln a age excl).Tabled :=
  h.ite h.modLine.countReq.activate

theorem State.Tabled.goPersistent {s : State} {ln r} (h : s.Tabled) : (s.goPersistent ln r).Tabled :=
  h.setReq.enterPersist.ite h.setReq.post

/-! ### Receiving (R152, R155, R156, R159) -/

theorem State.Tabled.receive {s : State} {ln a n own data dirty} (h : s.Tabled) : (s.receive ln a n own data dirty).Tabled :=
  h.setHold.sendAllTok.ite (h.setHold.l2Arrive.satisfied.serveWaiting.ite h.setHold.l2Arrive.satisfied)

theorem State.Tabled.getArrives {s : State} {m} (h : s.Tabled) : (s.getArrives m).Tabled :=
  h.ite (h.ite (h.homeAnswer.ite h.answer))

theorem State.Tabled.takePartial {s : State} {ln a p} (h : s.Tabled) : (s.takePartial ln a p).Tabled := by
  unfold State.takePartial
  refine .ite ?_ ?_
  · refine .serveWaiting ?_
    split
    · refine .checkDone ?_
      refine .sendAllTok ?_
      refine .endFold ?_
      refine .modLine ?_
      split
      · exact h
      · exact h.modLine.ite h.setLineLa
    · refine .endFold ?_
      refine .modLine ?_
      split
      · exact h
      · exact h.modLine.ite h.setLineLa
  · refine .modLine ?_
    split
    · exact h
    · exact h.modLine.ite h.setLineLa

/-! ### Delivery -/

theorem State.Tabled.deliver {s : State} {m kind send act} (h : s.Tabled) (hs : TabledIf (send s)) (ha : ∀ u : State, u.Tabled → (act u).Tabled) :
    (s.deliver m kind send act).Tabled := by
  unfold State.deliver
  refine .ite h (.ite (ha _ h) ?_)
  split
  · next t e => exact ha _ (hs t e)
  · exact h

theorem State.Tabled.parted {s : State} {m} (h : s.Tabled) : (s.parted m).Tabled :=
  h.setHold

theorem steps_execGets {s : State} {m} : s.Steps (execGets m s) :=
  .next (fun h1 => h1.deliver (.ite .none (.some h1.request)) (fun _ h2 => h2.getArrives))

theorem steps_execGetx {s : State} {m} : s.Steps (execGetx m s) :=
  .next (fun h1 => h1.deliver (.ite .none (.some h1.request)) (fun _ h2 => h2.getArrives))

theorem steps_execGetm {s : State} {m} : s.Steps (execGetm m s) :=
  .next (fun h1 => h1.deliver (.ite (.some h1.setHold) .none) (fun _ h2 => .homeMerge (h2.ite h2.receive)))

theorem steps_execTok {s : State} {m} : s.Steps (execTok m s) :=
  .next (fun h1 => h1.deliver (.ite (.some h1.parted) .none) (fun _ h2 => h2.receive.ite h2))

theorem steps_execPut {s : State} {m} : s.Steps (execPut m s) :=
  .next (fun h1 => h1.deliver (.ite (.some h1.parted) .none) (fun _ h2 => h2.receive.ite h2))

theorem steps_execPutp {s : State} {m} : s.Steps (execPutp m s) :=
  .next (fun h1 => h1.deliver (.ite (.some h1.setHold) .none) (fun _ h2 => h2.takePartial))

theorem steps_execFoldMsg {s : State} {m} : s.Steps (execFoldMsg m s) :=
  .next (fun h1 => h1.deliver (.ite (.some h1.beginFold) .none) (fun _ h2 => h2.setHold.post))

theorem steps_execPart {s : State} {m} : s.Steps (execPart m s) :=
  .next (fun h1 => h1.deliver (.ite (.some h1.setHold) .none) (fun _ h2 => h2.takePartial))

theorem steps_execPreq {s : State} {m} : s.Steps (execPreq m s) := by
  unfold Machine.execPreq
  refine .next ?_
  intro h1
  refine h1.deliver ?_ (fun _ h2 => h2.enterPersist)
  split
  · exact .ite (.some h1.setReq) .none
  · exact .none

theorem steps_execPdone {s : State} {m} : s.Steps (execPdone m s) :=
  .next (fun h1 => h1.deliver (.ite (.some h1) .none) (fun _ h2 => h2.persistDone))

theorem steps_execPact {s : State} {m} : s.Steps (execPact m s) := by
  unfold Machine.execPact
  refine .next ?_
  intro h1
  refine h1.deliver (.ite (.some h1) .none) ?_
  intro _ h2
  split
  · exact h2.post.ite (h2.post.setHold.checkDone.ite h2.post.setHold.sendAllTok)
  · exact h2.post

theorem steps_execPdeact {s : State} {m} : s.Steps (execPdeact m s) :=
  .next (fun h1 => h1.deliver (.ite (.some h1) .none) (fun _ h2 => h2.setHold.post))

theorem steps_execPersistentAck {s : State} {m} : s.Steps (execPersistentAck m s) :=
  .next (fun h1 => h1.deliver .none (fun _ h2 => h2.ite h2.modLine.ackDone))

/-! ### Attempts (R157, R158) -/

theorem steps_execTokenAttemptTimeout {s : State} {ln a} : s.Steps (execTokenAttemptTimeout ln a s) := by
  unfold Machine.execTokenAttemptTimeout
  split
  · exact .stay
  · exact .ite .stay (.ite (.next (fun h1 => h1.modLine.serveWaiting.ite h1.modLine)) (.ite (.next (fun h1 => h1.countReq.goPersistent))
        (.next (fun h1 => h1.countReq.draw.setReq))))

theorem steps_execTokenRetry {s : State} {ln a} : s.Steps (execTokenRetry ln a s) := by
  unfold Machine.execTokenRetry
  split
  · exact .stay
  · exact .ite .stay (.ite (.next (fun h1 => h1.goPersistent)) (.next (fun h1 => h1.setReq.broadcast)))

/-! ### The loss of a die (R162, R240) -/

theorem State.Tabled.sweepLine {s : State} {d ln} (h : s.Tabled) : (s.sweepLine d ln).Tabled := by
  unfold State.sweepLine
  dsimp only
  split
  · exact .ite (.persistDone (.modLine (h.ite h.snoopHost))) (.modLine (h.ite h.snoopHost))
  · exact .modLine (h.ite h.snoopHost)

theorem State.Tabled.afterSweep {s : State} {ln} (h : s.Tabled) : (s.afterSweep ln).Tabled := by
  unfold State.afterSweep
  refine .ackDone ?_
  refine .serveWaiting ?_
  split
  · exact .ite (h.endFold.ite h) (.checkDone (.sendAllTok (h.endFold.ite h)))
  · exact h.endFold.ite h

theorem State.Tabled.loseDie {s : State} {d} (h : s.Tabled) : (s.loseDie d).Tabled := by
  unfold State.loseDie
  split
  · exact h
  · extract_lets s1 s2 s3 s4 lns bad s5 gone s6
    have h2 : s2.Tabled := .foldl h fun _ _ h => h.modCluster
    have h3 : s3.Tabled := .foldl h2 fun _ _ h => h.halt
    have h4 : s4.Tabled := .foldl h3 fun _ _ h => .takePartial h
    have h5 : s5.Tabled := .foldl h4 fun _ _ h => h.sweepLine
    have h6 : s6.Tabled := .same h5 rfl rfl rfl
    exact .foldl (.foldl h6 fun _ _ h => h.draw.poisonLine) fun _ _ h => h.afterSweep

theorem steps_execDieLost {s : State} {d} : s.Steps (execDieLost d s) :=
  .next (fun h1 => h1.loseDie)

/-! ### Starting a transfer -/

theorem steps_xferWord {s : State} {i a e gather} : s.Steps (xferWord i s a e gather) := by
  unfold Machine.xferWord
  refine steps_guarded ?_
  intro _ h1
  refine h1.eachActive ?_
  intro _ _ h2
  refine h2.setLane.ite ?_
  split
  · exact h2.raise
  · exact h2.setLane.ite (h2.withRelease (.setLane h2))

theorem steps_execCpy {s : State} {a e} : s.Steps (execCpy a e s) :=
  steps_xferWord

theorem steps_execGthr {s : State} {a e} : s.Steps (execGthr a e s) :=
  steps_xferWord

/-! ### DRAIN (R211, R387) -/

theorem State.Tabled.drainTrap {s : State} {l pc e} (h : s.Tabled) : (s.drainTrap l pc e).Tabled :=
  h.raise

theorem steps_execDrain {s : State} {p} : s.Steps (execDrain p s) := by
  unfold Machine.execDrain
  refine steps_guarded ?_
  intro _ h1
  refine h1.eachActive ?_
  intro _ _ h2
  refine h2.setLane.ite ?_
  split
  · exact h2.drainTrap
  · exact h2.setLane.acquire

theorem State.Tabled.drained {s : State} (h : s.Tabled) : s.drained.Tabled := by
  unfold State.drained
  refine .ite ?_ ?_
  · refine .release ?_
    refine .acquireAll ?_
    refine h.foldl ?_
    intro _ _ h1
    split
    · exact h1.drainTrap
    · exact h1
  · refine h.foldl ?_
    intro _ _ h1
    split
    · exact h1.drainTrap
    · exact h1

/-! ### The transfer (R173, R209, R416) -/

theorem State.Tabled.setXfer {s : State} {x} (h : s.Tabled) : (s.setXfer x).Tabled :=
  h

theorem State.Tabled.askPeerX {s : State} {x dpa op va} (h : s.Tabled) : (s.askPeerX x dpa op va).1.Tabled :=
  .sendPeer h

theorem State.Tabled.gatherLine {s : State} {v va n hs} (h : s.Tabled) : (s.gatherLine v va n hs).1.Tabled := by
  unfold State.gatherLine
  dsimp only
  split
  · exact h.reach
  · exact h.reach
  · split
    · exact h.reach
    · split
      · exact h.reach.foldFor
      · exact h.reach.foldFor.takeAll
  · split
    · exact h.reach.askHost
    · exact h.reach
  · exact h.reach
  · exact h.reach

theorem State.Tabled.gatherDst {s : State} {x p ps} (h : s.Tabled) : (s.gatherDst x p ps).1.Tabled := by
  unfold State.gatherDst
  split
  · exact h
  · exact h.gatherLine

theorem State.Tabled.giveBack {s : State} {ln a} (h : s.Tabled) : (s.giveBack ln a).Tabled :=
  h.modLine

theorem State.Tabled.wholeLine {s : State} {v va} (h : s.Tabled) : (s.wholeLine v va).1.Tabled := by
  unfold State.wholeLine
  dsimp only
  split
  · exact h.reach
  · exact h.reach
  · exact h.reach
  · exact h.reach
  · exact h.reach
  · exact h.reach.readAt.ite h.reach.readAt.giveBack

theorem State.Tabled.readLine {s : State} {x va} (h : s.Tabled) : (s.readLine x va).1.Tabled := by
  unfold State.readLine
  dsimp only
  split
  · exact h
  · split
    · exact h.wholeLine
    · exact h.wholeLine
    · exact h.wholeLine
    · exact h.wholeLine
    · exact h.wholeLine.askPeerX

theorem State.Tabled.readPiece {s : State} {x p} (h : s.Tabled) : (s.readPiece x p).1.Tabled := by
  unfold State.readPiece
  dsimp only
  split
  · split
    · exact h
    · split <;> exact h
  · split
    · exact h
    · split <;> exact h.readLine

theorem State.Tabled.readAll {s : State} {x ps acc} (h : s.Tabled) : (s.readAll x ps acc).1.Tabled := by
  induction ps generalizing s x acc with
  | nil => exact h
  | cons p ps ih =>
    unfold State.readAll
    dsimp only
    split
    · exact ih h.readPiece
    · exact h.readPiece

theorem State.Tabled.writeRuns {s : State} {x ws} (h : s.Tabled) : (s.writeRuns x ws).1.Tabled := by
  induction ws generalizing s x with
  | nil => exact h
  | cons w ws ih =>
    unfold State.writeRuns
    dsimp only
    split
    · exact ih h.storeVia
    · exact h.storeVia
    · exact h.storeVia
    · exact h.storeVia
    · exact ih h.storeVia.askPeerX

theorem State.Tabled.writeLine {s : State} {x line ws} (h : s.Tabled) : (s.writeLine x line ws).1.Tabled := by
  unfold State.writeLine
  split
  · exact .ite (h.foldl (fun _ _ h1 => h1.elim (fun _ => h1.writePieces))) h
  · exact h.writeRuns

theorem State.Tabled.countIndex {s : State} {x ps} (h : s.Tabled) : (s.countIndex x ps).Tabled :=
  h.ite h.count

theorem State.Tabled.moveLine {s : State} {x line ps} (h : s.Tabled) : (s.moveLine x line ps).1.Tabled := by
  unfold State.moveLine
  dsimp only
  split
  · exact h
  · split
    · exact h.gatherDst
    · split
      · exact h.gatherDst.readAll.countIndex.writeLine.count
      · exact h.gatherDst.readAll
      · split
        · exact h.gatherDst.readAll.countIndex.writeLine.count
        · exact h.gatherDst.readAll.countIndex.writeLine

theorem State.Tabled.runXfer {s : State} {ps ls x} (h : s.Tabled) : (State.runXfer ps ls s x).1.Tabled := by
  induction ls generalizing s x with
  | nil => exact h
  | cons l ls ih =>
    unfold State.runXfer
    split
    · exact h
    · dsimp only
      split
      · exact ih h.moveLine
      · exact h.moveLine

theorem State.Tabled.endXfer {s : State} {id} (h : s.Tabled) : (s.endXfer id).Tabled :=
  .drained h

theorem State.Tabled.leaveErr {s : State} {x cause aux tval} (h : s.Tabled) : (s.leaveErr x cause aux tval).Tabled :=
  h.modLane

theorem State.Tabled.suspendXfer {s : State} {x f} (h : s.Tabled) : (s.suspendXfer x f).Tabled :=
  h.setXfer.ite h.enginePage.setXfer

theorem steps_execCopyComplete {s : State} {id} : s.Steps (execCopyComplete id s) := by
  unfold Machine.execCopyComplete
  dsimp only
  split
  · exact .stay
  · refine .ite .stay ?_
    refine .ite (.next (fun h1 => h1.endXfer)) ?_
    refine .ite .stay ?_
    split
    · exact .next (fun h1 => h1.runXfer.endXfer)
    · exact .next (fun h1 => h1.runXfer.setXfer)
    · exact .next (fun h1 => h1.runXfer.suspendXfer)
    · exact .next (fun h1 => h1.runXfer.leaveErr.endXfer)

/-! ### Shapes -/

theorem steps_fpOp {s : State} {i d a b f} : s.Steps (fpOp i s d a b f) :=
  steps_laneOpF

/-! ### The instructions -/

theorem steps_execFadd {s : State} {d a b r} : s.Steps (execFadd d a b r s) :=
  steps_fpOp

theorem steps_execFsub {s : State} {d a b r} : s.Steps (execFsub d a b r s) :=
  steps_fpOp

theorem steps_execFmul {s : State} {d a b r} : s.Steps (execFmul d a b r s) :=
  steps_fpOp

theorem steps_execFfma {s : State} {d a b r} : s.Steps (execFfma d a b r s) :=
  steps_fpOp

theorem steps_execFmin {s : State} {d a b} : s.Steps (execFmin d a b s) :=
  steps_fpOp

theorem steps_execFmax {s : State} {d a b} : s.Steps (execFmax d a b s) :=
  steps_fpOp

theorem steps_execFcmp {s : State} {p a b k} : s.Steps (execFcmp p a b k s) :=
  steps_laneOpF

theorem steps_execFclass {s : State} {d a} : s.Steps (execFclass d a s) :=
  steps_laneOp

theorem steps_execFadd2Bf16 {s : State} {d a b r} : s.Steps (execFadd2Bf16 d a b r s) :=
  steps_fpOp

theorem steps_execFma2Bf16 {s : State} {d a b r} : s.Steps (execFma2Bf16 d a b r s) :=
  steps_fpOp

theorem steps_execFadd2F16 {s : State} {d a b r} : s.Steps (execFadd2F16 d a b r s) :=
  steps_fpOp

theorem steps_execFma2F16 {s : State} {d a b r} : s.Steps (execFma2F16 d a b r s) :=
  steps_fpOp

/-! ### Handles and ends -/

theorem State.Tabled.setHandle {s : State} {p tid h0 x} (h : s.Tabled) : (s.setHandle p tid h0 x).Tabled :=
  h.modTeam.modPart

theorem State.Tabled.wakeCollw {s : State} {p tid h0 st} (h : s.Tabled) : (s.wakeCollw p tid h0 st).Tabled :=
  .ite (.release (.acquireAll (.setHandle h))) h

theorem State.Tabled.handleDone {s : State} {p tid h0 st} (h : s.Tabled) : (s.handleDone p tid h0 st).Tabled :=
  h.setHandle.wakeCollw

theorem State.Tabled.sendColl {s : State} {pkgs r} (h : s.Tabled) : (s.sendColl pkgs r).Tabled :=
  h.draw.emit

theorem State.Tabled.setPkgs {s : State} {p e} (h : s.Tabled) : (s.setPkgs p e).1.Tabled := by
  unfold State.setPkgs
  dsimp only
  split
  · exact h.homeRead
  · exact h

theorem State.Tabled.endColl {s : State} {c st} (h : s.Tabled) : (s.endColl c st).Tabled :=
  .handleDone (.count (.modPart h))

theorem State.Tabled.abortColl {s : State} {c st} (h : s.Tabled) : (s.abortColl c st).Tabled :=
  h.sendColl.endColl

theorem State.Tabled.setColl {s : State} {c} (h : s.Tabled) : (s.setColl c).Tabled :=
  h

/-! ### The engine's work at this member -/

theorem State.Tabled.suspendColl {s : State} {c f} (h : s.Tabled) : (s.suspendColl c f).Tabled :=
  h.setColl.ite h.enginePage.setColl

theorem State.Tabled.gatherDests {s : State} {c n k} (h : s.Tabled) : (s.gatherDests c n k).1.Tabled := by
  induction n generalizing s k with
  | zero => exact h
  | succ n ih =>
    unfold State.gatherDests
    split
    · exact h
    · dsimp only
      split
      · exact h.gatherLine
      · exact ih h.gatherLine

theorem State.Tabled.gatherOuts {s : State} {c} (h : s.Tabled) : (s.gatherOuts c).1.Tabled := by
  unfold State.gatherOuts
  split
  · exact h
  · exact h.gatherDests

theorem State.Tabled.collLine {s : State} {c va} (h : s.Tabled) : (s.collLine c va).1.Tabled := by
  unfold State.collLine
  dsimp only
  split
  · exact h
  · split <;> exact h.wholeLine

theorem State.Tabled.collRead {s : State} {c va n} (h : s.Tabled) : (s.collRead c va n).1.Tabled :=
  h.collLine

theorem State.Tabled.readElem {s : State} {c i} (h : s.Tabled) : (s.readElem c i).1.Tabled := by
  unfold State.readElem
  dsimp only
  split
  · exact .beside h.collRead
  · split
    · exact .beside h.collRead
    · split
      · exact .beside h.collRead
      · split
        · exact .beside h.collRead
        · split <;> exact .beside h.collRead.collRead

theorem State.Tabled.readOwn {s : State} {k n c} (h : s.Tabled) : (State.readOwn k n s c).1.Tabled := by
  induction n generalizing s c with
  | zero => exact h
  | succ n ih =>
    unfold State.readOwn
    split
    · exact h
    · dsimp only
      split
      · exact ih h.readElem
      · exact h.readElem

theorem State.Tabled.sendAll {s : State} {c xs} (h : s.Tabled) : (s.sendAll c xs).1.Tabled :=
  h.foldl (fun _ _ h1 => h1.ite h1.sendColl)

theorem State.Tabled.afterMag {s : State} {c} (h : s.Tabled) : (s.afterMag c).1.Tabled := by
  unfold State.afterMag
  split
  · exact h.sendAll
  · exact h

theorem State.Tabled.sendRead {s : State} {c i} (h : s.Tabled) : (s.sendRead c i).1.Tabled := by
  unfold State.sendRead
  dsimp only
  split
  · split
    · exact h
    · exact .afterMag (h.ite h.sendColl)
  · exact h.sendAll

theorem State.Tabled.takeReq {s : State} {c r} (h : s.Tabled) : (s.takeReq c r).Tabled := by
  unfold State.takeReq
  split
  · exact h.endColl
  · refine h.abortColl.ite ?_
    split
    · exact h.setColl
    · exact h.afterMag.setColl
    · exact h.setColl

theorem State.Tabled.takeEarly {s : State} {id rs} (h : s.Tabled) : (s.takeEarly id rs).Tabled := by
  induction rs generalizing s with
  | nil => exact h
  | cons r rs ih =>
    unfold State.takeEarly
    split
    · exact ih h.takeReq
    · exact h

/-! ### OUT and RES -/

theorem State.Tabled.putRuns {s : State} {c ws} (h : s.Tabled) : (s.putRuns c ws).1.Tabled := by
  induction ws generalizing s with
  | nil => exact h
  | cons w ws ih =>
    unfold State.putRuns
    dsimp only
    split
    · exact ih h.storeVia
    · exact h.storeVia

theorem State.Tabled.writeDest {s : State} {c k} (h : s.Tabled) : (s.writeDest c k).1.Tabled := by
  unfold State.writeDest
  split
  · split
    · exact h.mergeVia
    · exact h
  · exact h.putRuns

theorem State.Tabled.writeDests {s : State} {k n c} (h : s.Tabled) : (State.writeDests k n s c).1.Tabled := by
  induction n generalizing s c with
  | zero => exact h
  | succ n ih =>
    unfold State.writeDests
    split
    · exact h
    · dsimp only
      split
      · exact ih h.writeDest
      · exact h.writeDest

theorem State.Tabled.workColl {s : State} {c} (h : s.Tabled) : (s.workColl c).1.Tabled := by
  unfold State.workColl
  dsimp only
  split
  · exact h.gatherOuts
  · exact h.gatherOuts
  · split
    · exact h.gatherOuts.readOwn.sendRead
    · exact h.gatherOuts.readOwn.sendRead
    · exact h.gatherOuts.readOwn.sendRead.writeDests

theorem State.Tabled.runColl {s : State} {c} (h : s.Tabled) : (s.runColl c).Tabled := by
  unfold State.runColl
  dsimp only
  refine h.ite ?_
  split
  · exact h.workColl.endColl
  · exact h.workColl.setColl
  · exact h.workColl.suspendColl
  · exact h.workColl.abortColl

theorem steps_execCollComplete {s : State} {id} : s.Steps (execCollComplete id s) :=
  .next (fun h1 => h1.elim (fun _ => h1.runColl))

theorem steps_execCollTimeout {s : State} {id} : s.Steps (execCollTimeout id s) := by
  unfold Machine.execCollTimeout
  split
  · exact .stay
  · exact .ite (.next (fun h1 => h1.abortColl)) .stay

/-! ### Requests of other members (R301) -/

theorem State.Tabled.collArrives {s : State} {r} (h : s.Tabled) : (s.collArrives r).Tabled := by
  unfold State.collArrives
  split
  · exact h.takeReq
  · exact .ite h h

theorem steps_execVkacc {s : State} {r} : s.Steps (execVkacc r s) :=
  .next (fun h1 => h1.collArrives)

theorem steps_execVisum {s : State} {r} : s.Steps (execVisum r s) :=
  .next (fun h1 => h1.collArrives)

theorem steps_execVmaxr {s : State} {r} : s.Steps (execVmaxr r s) :=
  .next (fun h1 => h1.collArrives)

theorem steps_execVmax {s : State} {r} : s.Steps (execVmax r s) :=
  .next (fun h1 => h1.collArrives)

theorem steps_execVmin {s : State} {r} : s.Steps (execVmin r s) :=
  .next (fun h1 => h1.collArrives)

theorem steps_execVbcast {s : State} {r} : s.Steps (execVbcast r s) :=
  .next (fun h1 => h1.collArrives)

theorem steps_execVgath {s : State} {r} : s.Steps (execVgath r s) :=
  .next (fun h1 => h1.collArrives)

/-! ### COLL and COLLW (R218, R376) -/

theorem State.Tabled.kaccPages {s : State} {w d} (h : s.Tabled) : (s.kaccPages w d).1.Tabled :=
  h.foldl_fst (fun _ _ h1 => h1.translate)

theorem State.Tabled.refuseColl {s : State} {l h0 d pkgs st} (h : s.Tabled) : (s.refuseColl l h0 d pkgs st).Tabled := by
  unfold State.refuseColl
  refine .handleDone ?_
  split
  · exact h.sendColl.ite h
  · exact h

theorem State.Tabled.collChecks {s : State} {l d} (h : s.Tabled) : (s.collChecks l d).1.Tabled := by
  unfold State.collChecks
  dsimp only
  split
  · refine .setPkgs ?_
    split
    · exact h.kaccPages
    · exact h
  · split
    · exact h.kaccPages
    · exact h

theorem State.Tabled.startColl {s : State} {l h0 d e aligned bad} (h : s.Tabled) : (s.startColl l h0 d e aligned bad).Tabled := by
  unfold State.startColl
  extract_lets set c mine s1 s2 s3
  have h1 : s1.Tabled := .setHandle (.same h rfl rfl rfl)
  have h3 : s3.Tabled := .takeEarly (.ite h1.sendColl h1)
  exact .ite h.refuseColl (.ite h.refuseColl (.ite h.handleDone (.elim h3 fun _ => h3.runColl)))

theorem State.Tabled.readDesc {s : State} {l va} (h : s.Tabled) : (s.readDesc l va).1.Tabled := by
  unfold State.readDesc
  dsimp only
  split
  · split
    · exact h.loadVia
    · exact h.loadVia.loadVia
  · split
    · exact h.loadVia.farPart
    · exact h.loadVia
  · exact h.loadVia

theorem steps_execColl {s : State} {a h0 e} : s.Steps (execColl a h0 e s) := by
  unfold Machine.execColl
  dsimp only
  refine steps_guarded ?_
  intro _ h1
  split
  · exact h1
  · refine h1.mapActive.ite ?_
    split
    · exact h1.readDesc.mapActive
    · exact h1.readDesc.mapActive
    · refine (h1.readDesc.eachActive (fun _ _ h2 => h2.raise)).ite ?_
      split
      · split
        · exact h1.readDesc.collChecks.mapActive
        · exact h1.readDesc.collChecks.startColl.mapActive
      · exact h1.readDesc.handleDone.mapActive
      · exact h1.readDesc.handleDone.mapActive

theorem steps_execCollw {s : State} {d h0} : s.Steps (execCollw d h0 s) := by
  unfold Machine.execCollw
  refine steps_guarded ?_
  intro _ h1
  split
  · exact h1
  · split
    · exact h1.mapActive
    · exact h1.mapActive.acquireAll.setHandle
    · exact h1.mapActive.acquireAll
    · exact h1.mapActive.acquireAll

/-! ### Reading by the launch unit -/

theorem State.Tabled.gotAt {s : State} {v x2 x3} (h : s.Tabled) : (s.gotAt v x2 x3).1.Tabled := by
  unfold State.gotAt
  split
  · exact h.readAt
  · exact h
  · exact h
  · exact h

theorem State.Tabled.readWords {s : State} {v u va n} (h : s.Tabled) : (s.readWords v u va n).1.Tabled := by
  induction n generalizing s va with
  | zero => exact h
  | succ n ih =>
    unfold State.readWords
    dsimp only
    split
    · exact h.reach
    · exact h.reach
    · exact h.reach
    · split
      · exact h.reach.gotAt
      · split <;> exact ih h.reach.gotAt

/-! ### Code objects (R192) -/

theorem State.Tabled.readObject {s : State} {p ctx code sup} (h : s.Tabled) : (s.readObject p ctx code sup).1.Tabled := by
  unfold State.readObject
  dsimp only
  split
  · exact h
  · split
    · exact h.readWords
    · exact h.readWords
    · split
      · exact h.readWords
      · split <;> exact h.readWords.readWords

theorem State.Tabled.enter {s : State} {p a} (h : s.Tabled) : TabledIf (s.enter p a) :=
  .ite (.some h) (.ite .none (.some h.modPart))

theorem State.Tabled.releaseAdmit {s : State} {p ctx code} (h : s.Tabled) : (s.releaseAdmit p ctx code).Tabled := by
  unfold State.releaseAdmit
  dsimp only
  split
  · exact h.modPart.ite h
  · exact h

theorem State.Tabled.writeAdmitrel {s : State} {p ctx code} (h : s.Tabled) : (s.writeAdmitrel p ctx code).Tabled :=
  h.modPart.releaseAdmit

/-! ### The handler object (R223) -/

theorem State.Tabled.writeTvec {s : State} {p v} (h : s.Tabled) : (s.writeTvec p v).1.Tabled := by
  unfold State.writeTvec
  split
  · exact h.modPart
  · dsimp only
    split
    · split
      · next e => exact (h.readObject.enter _ e).modPart
      · exact h.readObject.modPart
    · exact h.readObject
    · exact h.readObject.modPart

theorem State.Tabled.tvecOrWait {s : State} {p v} (h : s.Tabled) : (s.tvecOrWait p v).Tabled :=
  h.writeTvec.modPart

theorem State.Tabled.retryTvec {s : State} (h : s.Tabled) : s.retryTvec.Tabled := by
  unfold State.retryTvec
  refine h.foldl ?_
  intro _ _ h1
  split
  · exact h1.tvecOrWait
  · exact h1

/-! ### Completion events (R203, R204) -/

theorem State.Tabled.doneCluster {s : State} {p r c} (h : s.Tabled) : (s.doneCluster p r c).Tabled :=
  h.bumpEvent.ite h

theorem State.Tabled.doneDie {s : State} {p r d} (h : s.Tabled) : (s.doneDie p r d).Tabled :=
  h.bumpEvent.ite h

theorem State.Tabled.doneDevice {s : State} {p r queue} (h : s.Tabled) : (s.doneDevice p r queue).Tabled :=
  .ite (.msix (h.bumpEvent.ite h)) (h.bumpEvent.ite h)

theorem State.Tabled.signalDone {s : State} {p x} (h : s.Tabled) : (s.signalDone p x).Tabled :=
  .doneDevice (.foldl (h.foldl (fun _ _ h1 => h1.doneCluster)) (fun _ _ h1 => h1.doneDie))

/-! ### Writing the record -/

theorem State.Tabled.hostDirect {s : State} {a bs} (h : s.Tabled) : (s.hostDirect a bs).Tabled :=
  h.writeHostMem

theorem State.Tabled.unitTry {s : State} {w} (h : s.Tabled) : (s.unitTry w).1.Tabled := by
  unfold State.unitTry
  dsimp only
  split
  · exact h
  · split
    · exact h.translate
    · exact h.translate
    · split
      · exact h.translate
      · split
        · exact h.translate.hostDirect
        · split
          · exact .sendPeer h.translate
          · split
            · exact h.translate.capWrite
            · split
              · exact h.translate
              · split
                · exact h.translate.recallHost
                · exact h.translate.putLine

theorem State.Tabled.unitDo {s : State} {w} (h : s.Tabled) : (s.unitDo w).Tabled := by
  unfold State.unitDo
  dsimp only
  split
  · exact h.unitTry.signalDone
  · exact h.unitTry

theorem State.Tabled.serveUnit {s : State} (h : s.Tabled) : s.serveUnit.Tabled :=
  .foldl h (fun _ _ h1 => h1.unitDo)

theorem State.Tabled.writeCmpl {s : State} {p r status cls teams tstart nfault x} (h : s.Tabled) :
    (s.writeCmpl p r status cls teams tstart nfault x).Tabled :=
  h.readChron.unitDo.ite h.signalDone

theorem State.Tabled.refuseLaunch {s : State} {p r queue status} (h : s.Tabled) : (s.refuseLaunch p r queue status).Tabled :=
  h.draw.writeCmpl

theorem State.Tabled.endLaunch {s : State} {p L status} (h : s.Tabled) : (s.endLaunch p L status).Tabled :=
  h.writeCmpl.modPart.releaseAdmit

/-! ### LAUNCH (R201) -/

theorem State.Tabled.readParts {s : State} {far v va n} (h : s.Tabled) (hf : ∀ (u : State) a b, u.Tabled → (far u a b).1.Tabled) :
    (s.readParts far v va n).1.Tabled := by
  induction n generalizing s va with
  | zero => exact h
  | succ n ih =>
    unfold State.readParts
    extract_lets r0 r q
    have hr : r.1.Tabled := by
      unfold r
      split
      · exact hf _ _ _ h.loadVia
      · exact h.loadVia
    split
    · exact hr
    · exact hr
    · exact hr
    · exact hr
    · split <;> exact ih hr

theorem State.Tabled.readRecord {s : State} {l va n} (h : s.Tabled) : (s.readRecord l va n).1.Tabled :=
  h.readParts (fun _ _ _ h1 => h1.farPart)

theorem State.Tabled.enqueueDq {s : State} {p ctx r} (h : s.Tabled) : (s.enqueueDq p ctx r).Tabled :=
  h.refuseLaunch.ite h.modPart

theorem steps_execLaunch {s : State} {a} : s.Steps (execLaunch a s) := by
  unfold Machine.execLaunch
  dsimp only
  refine steps_guarded ?_
  intro _ h1
  refine h1.eachActive ?_
  intro _ _ h2
  refine h2.raise.ite ?_
  refine h2.setLane.ite ?_
  refine h2.withRelease ?_
  split
  · exact h2.readRecord.setLane
  · exact h2.readRecord.raise
  · exact h2.readRecord.setLane
  · exact h2.readRecord.enqueueDq.setLane

/-! ### Transfers of control -/

theorem State.Tabled.branchRecord {s : State} {dest} (h : s.Tabled) : (s.branchRecord dest).Tabled := by
  unfold State.branchRecord
  dsimp only
  split
  · exact h.traceLane
  · exact h

theorem steps_transfer {s : State} {i dest link} : s.Steps (transfer i s dest link) := by
  unfold Machine.transfer
  refine steps_guarded ?_
  intro _ h1
  refine h1.branchRecord.eachActive ?_
  intro _ _ h2
  split
  · exact h2.setLane
  · exact h2.setLane.ite h2.raise

theorem steps_execBra {s : State} {h0 p n d} : s.Steps (execBra h0 p n d s) :=
  .trans (fun h1 => h1.elim (fun _ => h1.countLane.ite h1)) steps_transfer

theorem steps_execCall {s : State} {d i} : s.Steps (execCall d i s) :=
  steps_transfer

theorem steps_execRet {s : State} {a} : s.Steps (execRet a s) :=
  steps_transfer

theorem steps_execBrx {s : State} {a} : s.Steps (execBrx a s) :=
  steps_transfer

/-! ### The rest -/

theorem steps_execNop {s : State} : s.Steps (execNop s) :=
  steps_laneOp

theorem State.Tabled.exitLane {s : State} {l} (h : s.Tabled) : (s.exitLane l).Tabled :=
  .completeAll (h.setLane.modGroup.ite h.setLane)

theorem steps_execExit {s : State} : s.Steps (execExit s) := by
  unfold Machine.execExit
  refine steps_guarded ?_
  intro _ h1
  refine h1.waitFirst ?_
  intro _ h2
  refine h2.eachActive ?_
  intro _ _ h3
  split
  · exact h3.raise
  · exact h3.setLane.ite h3.exitLane

theorem steps_execYield {s : State} : s.Steps (execYield s) :=
  steps_guarded (fun _ h1 => h1.waitFirst (fun _ h2 => (h2.eachActive (fun _ _ h3 => h3.modGroup.ite h3)).mapActive))

theorem steps_execTrap {s : State} {i} : s.Steps (execTrap i s) :=
  steps_guarded (fun _ h1 => h1.waitFirst (fun _ h2 => h2.eachActive (fun _ _ h3 => h3.raise)))

theorem steps_execBkpt {s : State} : s.Steps (execBkpt s) :=
  steps_guarded (fun _ h1 => h1.eachActive (fun _ _ h2 => h2.setLane.quarterStop.ite h2.raise))

/-! ### The state word (R83) -/

theorem State.Tabled.setCv {s : State} {l v x} (h : s.Tabled) : (s.setCv l v x).Tabled :=
  h.modCluster

/-! ### Declarations and signatures -/

theorem steps_execCvdecl {s : State} {v t k} : s.Steps (execCvdecl v t k s) := by
  unfold Machine.execCvdecl
  refine steps_guarded ?_
  intro _ h1
  split
  · exact h1
  · exact (h1.eachActive (fun _ _ h2 => h2.raise)).ite (h1.setCv.mapActive.ite (h1.mapActive.ite (h1.eachActive (fun _ _ h2 => h2.raise))))

theorem State.Tabled.signal {s : State} {l v w waits} (h : s.Tabled) : (s.signal l v w waits).Tabled :=
  h.setCv.together.release.ite h.setCv

theorem steps_signWord {s : State} {i v waits} : s.Steps (signWord i s v waits) :=
  steps_guarded (fun _ h1 => h1.releaseFirst (fun _ h2 => h2.eachActive (fun _ _ h3 => h3.raise.ite h3.setLane.signal)))

theorem steps_execCvsign {s : State} {v} : s.Steps (execCvsign v s) :=
  steps_signWord

theorem steps_execCvsignW {s : State} {v} : s.Steps (execCvsignW v s) :=
  steps_signWord

/-! ### Contexts and small registers -/

theorem State.Tabled.writeCtx {s : State} {p ctx w v} (h : s.Tabled) : (s.writeCtx p ctx w v).Tabled :=
  h.modPart

theorem State.Tabled.writeLease {s : State} {p w} (h : s.Tabled) : (s.writeLease p w).Tabled :=
  h.modPart.ite h

theorem State.Tabled.writeColltmo {s : State} {p w} (h : s.Tabled) : (s.writeColltmo p w).Tabled :=
  h.ite h.modPart

theorem State.Tabled.writeBrk {s : State} {p k v} (h : s.Tabled) : (s.writeBrk p k v).Tabled :=
  h.modPart

theorem State.Tabled.l1waysTake {s : State} {cluster} (h : s.Tabled) : (s.l1waysTake cluster).Tabled := by
  unfold State.l1waysTake
  split
  · exact h
  · exact h.ite h.modCluster

theorem State.Tabled.writeL1ways {s : State} {p w} (h : s.Tabled) : (s.writeL1ways p w).Tabled :=
  h.ite (h.modPart.foldl (fun _ _ h1 => h1.l1waysTake))

theorem State.Tabled.writeDbgctl {s : State} {tid grp w} (h : s.Tabled) : (s.writeDbgctl tid grp w).Tabled :=
  .ite h h.modGroup

theorem State.Tabled.writeTrmark {s : State} {l w} (h : s.Tabled) : (s.writeTrmark l w).Tabled :=
  h.traceLane

theorem State.Tabled.writeFflags {s : State} {tid grp w raised} (h : s.Tabled) : (s.writeFflags tid grp w raised).Tabled :=
  h.modGroup

/-! ### Counter banks -/

theorem State.Tabled.setBank {s : State} {p n b} (h : s.Tabled) : (s.setBank p n b).Tabled :=
  h.modPart

/-! ### The reservation table (R205, R206, R454) -/

theorem State.Tabled.countTeam {s : State} {tid ev n} (h : s.Tabled) : (s.countTeam tid ev n).Tabled := by
  unfold State.countTeam
  split
  · exact h.count
  · exact h

theorem State.Tabled.fired {s : State} {tid v} (h : s.Tabled) : (s.fired tid v).Tabled := by
  unfold State.fired
  split
  · exact h
  · exact h.modCluster.release

theorem State.Tabled.enterEntry {s : State} {cluster e} (h : s.Tabled) : (s.enterEntry cluster e).Tabled := by
  unfold State.enterEntry
  split
  · exact h.modCluster.fired
  · exact h.modCluster

theorem State.Tabled.enterAll {s : State} {cluster k} (h : s.Tabled) : (s.enterAll cluster k).Tabled := by
  induction k generalizing s with
  | zero => exact h
  | succ k ih =>
    unfold State.enterAll
    split
    · exact ih h.enterEntry
    · exact h

theorem State.Tabled.pushEntry {s : State} {cluster e} (h : s.Tabled) : (s.pushEntry cluster e).Tabled :=
  h.modCluster.enterAll

/-! ### MXA (R87, R455, R456) -/

theorem State.Tabled.mxaSign {s : State} {l v tile slot o} (h : s.Tabled) : (s.mxaSign l v tile slot o).Tabled :=
  h.setCv.pushEntry.ite h.setCv

theorem steps_execMxa {s : State} {v a b l t} : s.Steps (execMxa v a b l t s) :=
  steps_guarded (fun _ h1 => h1.eachActive (fun _ _ h2 => h2.raise.ite (h2.setLane.ite h2.setLane.mxaSign)))

/-! ### MXZ, MXRD, MXSP, MXFL: issue (R454, R457 to R461) -/

theorem State.Tabled.eachGroup {s : State} {f} (h : s.Tabled) (hf : ∀ (u : State) x1 x2, u.Tabled → (f u x1 x2).Tabled) : (eachGroup s f).Tabled := by
  unfold Machine.eachGroup
  dsimp only
  refine h.foldl ?_
  intro _ _ h1
  split
  · exact hf _ _ _ h1
  · exact h1

theorem steps_execMxz {s : State} {l t} : s.Steps (execMxz l t s) :=
  steps_guarded (fun _ h1 => (h1.eachGroup (fun _ _ _ h2 => h2.pushEntry)).mapActive)

theorem steps_execMxrd {s : State} {a l t} : s.Steps (execMxrd a l t s) :=
  steps_guarded (fun _ h1 => h1.mapActive.eachGroup (fun _ _ _ h2 => .pushEntry (h2.foldl (fun _ _ h3 => h3.setLane))))

theorem steps_tileWord {s : State} {i a l t fill} : s.Steps (tileWord i s a l t fill) :=
  steps_guarded (fun _ h1 => h1.eachGroup (fun _ _ _ h2 => .ite (h2.foldl (fun _ _ h3 => h3.raise))
      (.ite (h2.foldl (fun _ _ h3 => h3.setLane)) (.ite (h2.foldl (fun _ _ h3 => h3.setLane)) (.pushEntry (h2.foldl (fun _ _ h3 => h3.setLane)))))))

theorem steps_execMxsp {s : State} {a l t} : s.Steps (execMxsp a l t s) :=
  steps_tileWord

theorem steps_execMxfl {s : State} {a l t} : s.Steps (execMxfl a l t s) :=
  steps_tileWord

/-! ### The engine (R206) -/

theorem steps_execMxeEntryGrant {s : State} {cluster} : s.Steps (execMxeEntryGrant cluster s) := by
  unfold Machine.execMxeEntryGrant
  refine .ite .stay ?_
  split
  · exact .stay
  · exact .next (fun h1 => h1.modCluster)

theorem steps_execMxeHeldFiringEnter {s : State} {cluster} : s.Steps (execMxeHeldFiringEnter cluster s) := by
  unfold Machine.execMxeHeldFiringEnter
  split
  · exact .next (fun h1 => h1.enterEntry)
  · exact .stay

theorem State.Tabled.runPass {s : State} {cluster e held} (h : s.Tabled) : (s.runPass cluster e held).Tabled :=
  h.draw.modCluster.countTeam.countTeam.ite h.draw.modCluster.countTeam

theorem State.Tabled.runRead {s : State} {cluster e a lanes} (h : s.Tabled) : (s.runRead cluster e a lanes).Tabled :=
  .ite (.countTeam (h.foldl (fun _ _ h1 => h1.modLane))) (h.foldl (fun _ _ h1 => h1.modLane))

theorem State.Tabled.tileReach {s : State} {x va u} (h : s.Tabled) : (s.tileReach x va u).1.Tabled := by
  unfold State.tileReach
  dsimp only
  split <;> exact h.translate

/-- Moving images keeps the tables in order. -/
def MoverKeeps (g : State → Xfer → State × Xfer × Move) : Prop := ∀ s x, s.Tabled → (g s x).1.Tabled

/-- The recursion by which `State.runTile` is defined. -/
theorem MoverKeeps.brecOn {f : (n : Nat) → Nat.below (motive := fun _ => State → Xfer → State × Xfer × Move) n → State → Xfer → State × Xfer × Move}
    (h0 : ∀ b, MoverKeeps (f 0 b)) (hs : ∀ n b, MoverKeeps b.1 → MoverKeeps (f (n + 1) b)) (n : Nat) : MoverKeeps (Nat.brecOn n f) := by
  induction n with
  | zero => exact h0 _
  | succ n ih => exact hs n _ ih

/-- The accesses are made variables first: the kernel would evaluate them when it meets the definition's matches. -/
theorem moverKeeps_runTile {tile fill n} : MoverKeeps (State.runTile tile fill n) := by
  have e := @rfl _ @State.runTile
  conv at e => rhs; delta State.runTile
  rw [e]
  refine .brecOn (fun _ _ _ h => h) (fun n b ih s x h => ?_) n
  obtain ⟨reach, ereach, hr⟩ : ∃ f, f = @State.tileReach ∧ ∀ (s : State) x va u, s.Tabled → (f s x va u).1.Tabled :=
    ⟨_, rfl, fun _ _ _ _ h => h.tileReach⟩
  obtain ⟨load, eload, hl⟩ : ∃ f, f = @State.loadVia ∧ ∀ (s : State) v va n, s.Tabled → (f s v va n).1.Tabled :=
    ⟨_, rfl, fun _ _ _ _ h => h.loadVia⟩
  obtain ⟨store, estore, hs⟩ : ∃ f, f = @State.storeVia ∧ ∀ (s : State) v va bs, s.Tabled → (f s v va bs).1.Tabled :=
    ⟨_, rfl, fun _ _ _ _ h => h.storeVia⟩
  have e := @rfl _ @State.runTile._f
  conv at e => rhs; delta State.runTile._f
  rw [e, ← ereach, ← eload, ← estore]
  dsimp only
  have h' u := hr s x ((dSrc x.desc + 128 * x.done) % 2 ^ 64) u h
  split
  · exact h' _
  · split
    · split
      · exact ih _ _ (State.Tabled.modCluster (hl _ _ _ _ (h' _)))
      · exact hl _ _ _ _ (h' _)
      · exact hl _ _ _ _ (h' _)
      · exact hl _ _ _ _ (h' _)
    · split
      · exact ih _ _ (hs _ _ _ _ (h' _))
      · exact hs _ _ _ _ (h' _)
      · exact hs _ _ _ _ (h' _)
      · exact hs _ _ _ _ (h' _)

theorem State.Tabled.runTile {s : State} {tile fill n x} (h : s.Tabled) : (State.runTile tile fill n s x).1.Tabled :=
  moverKeeps_runTile _ _ h

theorem State.Tabled.endEntry {s : State} {cluster e} (h : s.Tabled) : (s.endEntry cluster e).Tabled :=
  h.modCluster

theorem State.Tabled.runTileEntry {s : State} {cluster e id} (h : s.Tabled) : (s.runTileEntry cluster e id).Tabled := by
  unfold State.runTileEntry
  dsimp only
  split
  · exact h.endEntry
  · refine h.endXfer.endEntry.ite ?_
    refine h.ite ?_
    split
    · exact .endEntry (.endXfer (.runTile (h.countTeam.ite h)))
    · exact .setXfer (.runTile (h.countTeam.ite h))
    · exact .suspendXfer (.runTile (h.countTeam.ite h))
    · exact .endEntry (.endXfer (.leaveErr (.runTile (h.countTeam.ite h))))

theorem steps_execMxeEntryComplete {s : State} {cluster} : s.Steps (execMxeEntryComplete cluster s) := by
  unfold Machine.execMxeEntryComplete
  split
  · exact .stay
  · refine .ite .stay ?_
    split
    · exact .next (fun h1 => h1.runPass.endEntry)
    · exact .next (fun h1 => h1.modCluster.endEntry)
    · exact .next (fun h1 => h1.runRead.endEntry)
    · exact .next (fun h1 => h1.runTileEntry)

/-! ### Self-tests (R207) -/

theorem State.Tabled.mxeOut {s : State} {cluster hs} (h : s.Tabled) : (s.mxeOut cluster hs).Tabled :=
  h.foldl (fun _ _ h1 => h1.halt.modLaunch)

theorem steps_execMxeSelftest {s : State} {cluster failed} : s.Steps (execMxeSelftest cluster failed s) := by
  unfold Machine.execMxeSelftest
  extract_lets c hs ps s1
  have h1 (h : s.Tabled) : s1.Tabled := .foldl h.modCluster fun _ _ h => h.count
  refine .ite .stay ?_
  split
  · exact .next h1
  · extract_lets s2 s3
    have h3 (h : s.Tabled) : s3.Tabled := .foldl (h1 h).modCluster fun _ _ h => h.record
    exact .ite (.next h1) (.next fun h => .ite (h3 h) (h3 h).mxeOut)

/-! ### Pins -/

theorem State.Tabled.takePin {s : State} {part tid row} (h : s.Tabled) : (s.takePin part tid row).Tabled :=
  .ite h h

theorem State.Tabled.closeRow {s : State} {row} (h : s.Tabled) : (s.closeRow row).Tabled :=
  h

theorem State.Tabled.breakPins {s : State} {f reason} (h : s.Tabled) : (s.breakPins f reason).Tabled :=
  .foldl h (fun _ _ h1 => h1.closeRow.count)

theorem State.Tabled.releasePins {s : State} {tid f} (h : s.Tabled) : (s.releasePins tid f).Tabled :=
  h

/-! ### The instructions -/

theorem State.Tabled.performPin {s : State} {l va} (h : s.Tabled) : (s.performPin l va).1.Tabled := by
  unfold State.performPin
  dsimp only
  split
  · exact h.translate
  · exact h.translate
  · split
    · exact h.translate
    · split
      · exact h.translate.takePin
      · exact h.translate.takePin.hbmEnqueue

theorem State.Tabled.performQry {s : State} {l va} (h : s.Tabled) : (s.performQry l va).1.Tabled := by
  unfold State.performQry
  dsimp only
  split <;> exact h.translate

theorem State.Tabled.performRow {s : State} {l i srcs} (h : s.Tabled) : (s.performRow l i srcs).1.Tabled := by
  unfold State.performRow
  split
  · exact h.performQry
  · exact h.performPin

theorem steps_rowWord {s : State} {i d a} : s.Steps (rowWord i s d a) := by
  unfold Machine.rowWord
  dsimp only
  refine steps_guarded ?_
  intro _ h1
  refine h1.eachActive ?_
  intro _ _ h2
  refine h2.setLane.ite ?_
  refine h2.setLane.ite ?_
  split <;> exact h2.performRow.setLane

theorem steps_execRowpin {s : State} {d a} : s.Steps (execRowpin d a s) :=
  steps_rowWord

theorem steps_execRowqry {s : State} {d a} : s.Steps (execRowqry d a s) :=
  steps_rowWord

theorem steps_execRowrel {s : State} {a} : s.Steps (execRowrel a s) := by
  unfold Machine.execRowrel
  dsimp only
  refine steps_guarded ?_
  intro _ h1
  refine h1.eachActive ?_
  intro _ _ h2
  split
  · exact h2.translate.setLane
  · exact h2.translate.setLane
  · exact .setLane (h2.translate.releasePins.ite h2.translate)

theorem steps_execRowrelAll {s : State} : s.Steps (execRowrelAll s) :=
  steps_guarded (fun _ h1 => h1.eachActive (fun _ _ h2 => h2.releasePins.setLane))

/-! ### A deferred instruction again -/

theorem State.Tabled.redo {s : State} {l d} (h : s.Tabled) : (s.redo l d).1.Tabled := by
  unfold State.redo
  split
  · exact h.performRow
  · exact h.performRow
  · exact h.performAtom
  · exact h.perform

/-! ### TRET -/

theorem State.Tabled.resumeSlot {s : State} {l base slot} (h : s.Tabled) : (s.resumeSlot l base slot).1.Tabled := by
  unfold State.resumeSlot
  dsimp only
  split
  · exact h
  · split
    · split
      · exact h.fetch
      · split <;> exact h.fetch.fetch
    · exact h.fetch

theorem State.Tabled.resumable {s : State} {l a} (h : s.Tabled) : (s.resumable l a).1.Tabled := by
  unfold State.resumable
  dsimp only
  split
  · exact h.resumeSlot
  · exact h

theorem State.Tabled.tretReplay {s : State} {l back d} (h : s.Tabled) : (s.tretReplay l back d).Tabled := by
  unfold State.tretReplay
  dsimp only
  split
  · exact h.setLane
  · exact h.setLane
  · exact h.setLane
  · split
    · exact h.redo.setLane
    · exact h.redo.setLane
    · exact h.redo.setLane
    · exact h.redo.setLane
    · exact h.redo.raise
    · exact h.redo.setLane
    · exact h.redo.setLane

theorem State.Tabled.tret {s : State} {l} (h : s.Tabled) : (s.tret l).Tabled := by
  unfold State.tret
  dsimp only
  split
  · exact h.raise
  · split
    · exact h.resumable.raise
    · exact h.resumable.laneFetch
    · split
      · exact h.resumable.setLane
      · exact h.resumable.tretReplay

theorem steps_execTret {s : State} : s.Steps (execTret s) :=
  steps_guarded (fun _ h1 => h1.waitFirst (fun _ h2 => (h2.eachActive (fun _ _ h3 => h3.tret)).thaw))

/-! ### REPLAY (R233, R234) -/

theorem State.Tabled.replayLane {s : State} {fid repeats id} (h : s.Tabled) : (s.replayLane fid repeats id).Tabled := by
  unfold State.replayLane
  dsimp only
  split
  · exact h
  · refine h.ite ?_
    split
    · refine .ite ?_ h.setLane
      split <;> exact h.redo.setLane
    · exact h.setLane

theorem State.Tabled.abortLane {s : State} {fid reason x} (h : s.Tabled) : (s.abortLane fid reason x).Tabled := by
  unfold State.abortLane
  split
  · exact h
  · refine h.ite ?_
    split
    · exact h.trapEntry.ite h.raise
    · exact h.raise

theorem State.Tabled.resolveEngine {s : State} {f abort} (h : s.Tabled) : (s.resolveEngine f abort).Tabled := by
  unfold State.resolveEngine
  dsimp only
  split
  · refine .ite ?_ ?_
    · refine .abortColl ?_
      split
      · exact h.leaveErr.setXfer.ite h.setXfer
      · exact h
    · refine .setColl ?_
      split
      · exact h.leaveErr.setXfer.ite h.setXfer
      · exact h
  · split
    · exact h.leaveErr.setXfer.ite h.setXfer
    · exact h

theorem State.Tabled.writeReplay {s : State} {p w} (h : s.Tabled) : (s.writeReplay p w).Tabled := by
  unfold State.writeReplay
  dsimp only
  split
  · exact h.modPart
  · exact h.modPart.ite (.settle (h.modPart.resolveEngine.ite (h.modPart.foldl (fun _ _ h1 => h1.abortLane.ite h1.replayLane))))

theorem steps_execReplay {s : State} {p w} : s.Steps (execReplay p w s) :=
  .ite .stay (.next (fun h1 => h1.viaVf (fun _ h2 => h2.writeReplay)))

theorem steps_execReplayAbort {s : State} {p w} : s.Steps (execReplayAbort p w s) :=
  .ite (.next (fun h1 => h1.viaVf (fun _ h2 => h2.writeReplay))) .stay

/-! ### Pins (R133) -/

theorem State.Tabled.restorePin {s : State} {part tid p} (h : s.Tabled) : (s.restorePin part tid p).Tabled := by
  unfold State.restorePin
  refine h.ite ?_
  split
  · exact h
  · exact h.takePin.hbmEnqueue.ite h

/-! ### Lanes that were parked (R250) -/

theorem State.Tabled.resumeFault {s : State} {id} (h : s.Tabled) : (s.resumeFault id).Tabled := by
  unfold State.resumeFault
  split
  · exact h
  · refine .foldl ?_ (fun _ _ h1 => h1.onLane (fun _ _ h2 => h2.redo.modLane))
    split
    · exact h.setLane
    · exact h

theorem State.Tabled.restoreTeam {s : State} {p L v cluster} (h : s.Tabled) : (s.restoreTeam p L v cluster).Tabled := by
  unfold State.restoreTeam
  refine .settle ?_
  refine .completeGbar ?_
  refine .completeCbar ?_
  refine .drained ?_
  refine .retest ?_
  refine .foldl (.foldl (.foldl (.ite (.modPart (.modLaunch h)) (.modLaunch h)) (fun _ _ h1 => h1.restorePin)) (fun _ _ h1 => h1.resumeFault)) ?_
  intro _ _ h1
  split
  · exact h1.wakeCollw
  · exact h1

/-! ### Submission queues -/

theorem State.Tabled.modSq {s : State} {p q f} (h : s.Tabled) : (s.modSq p q f).Tabled :=
  h.modPart

theorem State.Tabled.doorbell {s : State} {p q t} (h : s.Tabled) : (s.doorbell p q t).Tabled :=
  h.modSq.ite h.modSq

theorem steps_execSqDoorbell {s : State} {p q t} : s.Steps (execSqDoorbell p q t s) :=
  .next (fun h1 => h1.viaVf (fun _ h2 => h2.doorbell))

theorem State.Tabled.sqHead {s : State} {p q} (h : s.Tabled) : (s.sqHead p q).1.Tabled := by
  unfold State.sqHead
  dsimp only
  split
  · exact h
  · split
    · exact h
    · exact h.homeRead

theorem State.Tabled.sqTaken {s : State} {p q} (h : s.Tabled) : (s.sqTaken p q).Tabled :=
  h.modSq.modPart

theorem State.Tabled.sqEntry {s : State} {p q t act} (h : s.Tabled) (hact : ∀ (u : State) x1, u.Tabled → (act u x1).Tabled) :
    (s.sqEntry p q t act).Tabled := by
  unfold State.sqEntry
  dsimp only
  refine .ite ?_ h
  split
  · exact h.sqHead.modSq.modPart
  · exact h.sqHead
  · exact (hact _ _ h.sqHead).ite h

theorem steps_execSqEntryNop {s : State} {p q} : s.Steps (execSqEntryNop p q s) :=
  .next (fun h1 => h1.sqEntry (fun _ _ h2 => h2.sqTaken))

theorem steps_execSqEntryEvsig {s : State} {p q} : s.Steps (execSqEntryEvsig p q s) :=
  .next (fun h1 => h1.sqEntry (fun _ _ h2 => h2.bumpEvent.sqTaken))

theorem steps_execSqEntryEvwait {s : State} {p q} : s.Steps (execSqEntryEvwait p q s) :=
  .next (fun h1 => h1.sqEntry (fun _ _ h2 => h2.sqTaken))

/-! ### The checks of a launch record (R191) -/

theorem State.Tabled.checkRecord {s : State} {p r} (h : s.Tabled) : (s.checkRecord p r).1.Tabled := by
  unfold State.checkRecord
  dsimp only
  split
  · exact h.readObject
  · exact h.readObject
  · exact h.readObject
  · split
    · exact h.readObject
    · split
      · exact h.readObject
      · split
        · exact h.readObject
        · next e => split <;> exact h.readObject.enter _ e

/-! ### Dependences (R194 to R196) -/

theorem State.Tabled.takeRecord {s : State} {p r prio queue c} (h : s.Tabled) : (s.takeRecord p r prio queue c).Tabled := by
  unfold State.takeRecord
  split
  · exact h
  · exact h.modPart.refuseLaunch
  · exact h.modPart.modPart

theorem State.Tabled.unitPart {s : State} {p va dpa} (h : s.Tabled) : (s.unitPart p va dpa).1.Tabled := by
  unfold State.unitPart
  split
  · exact h
  · split
    · exact h
    · exact .sendPeer h

theorem State.Tabled.unitRecord {s : State} {p e} (h : s.Tabled) : (s.unitRecord p e).1.Tabled :=
  h.readParts (fun _ _ _ h1 => h1.unitPart)

theorem steps_execSqEntryLaunch {s : State} {p q} : s.Steps (execSqEntryLaunch p q s) := by
  unfold Machine.execSqEntryLaunch
  dsimp only
  refine .next ?_
  intro h1
  refine h1.sqEntry ?_
  intro _ _ h2
  split
  · exact h2.unitRecord
  · exact h2.unitRecord.modPart.sqTaken.modPart
  · exact h2.unitRecord.modPart.sqTaken.modPart
  · split
    · exact h2.unitRecord.checkRecord
    · exact h2.unitRecord.checkRecord.takeRecord.sqTaken.modPart

theorem steps_execDqEntryTake {s : State} {p} : s.Steps (execDqEntryTake p s) := by
  unfold Machine.execDqEntryTake
  dsimp only
  refine .ite ?_ .stay
  split
  · exact .stay
  · split
    · exact .next (fun h1 => h1.checkRecord)
    · exact .next (fun h1 => h1.checkRecord.takeRecord.modPart)

/-! ### Placement (R197 to R199) -/

theorem State.Tabled.placeNext {s : State} {p L cluster} (h : s.Tabled) : (s.placeNext p L cluster).Tabled := by
  unfold State.placeNext
  split
  · exact h.restoreTeam
  · exact h.placeTeam

theorem State.Tabled.placeAll {s : State} {p seq cs} (h : s.Tabled) : TabledIf (s.placeAll p seq cs) := by
  induction cs generalizing s with
  | nil => exact .some h
  | cons c cs ih =>
    unfold State.placeAll
    split
    · exact .ite (ih h.placeNext) .none
    · exact .none

theorem steps_execTeamPlace {s : State} {p seq clusters} : s.Steps (execTeamPlace p seq clusters s) := by
  unfold execTeamPlace
  dsimp only
  split
  · exact .stay
  · refine .ite (.next fun h => ?_) .stay
    cases e : s.placeAll p seq clusters with
    | none => exact h
    | some t => exact h.placeAll t e

theorem steps_execPlacementHoldTimeout {s : State} {p} : s.Steps (execPlacementHoldTimeout p s) := by
  unfold Machine.execPlacementHoldTimeout
  split
  · exact .stay
  · exact .ite .stay (.next (fun h1 => h1.modLaunch))

/-! ### Retirement (R202) -/

theorem State.Tabled.freeTeam {s : State} {t} (h : s.Tabled) : (s.freeTeam t).Tabled := by
  unfold State.freeTeam
  extract_lets s1
  exact .same (s := s1) h.modCluster.releasePins rfl rfl rfl

theorem State.Tabled.lowerCounters {s : State} {t} (h : s.Tabled) : (s.lowerCounters t).Tabled := by
  unfold State.lowerCounters
  extract_lets die s1
  split
  · exact h.modLaunch
  · extract_lets c d s2 s3
    have h2 : s2.Tabled := h.modLaunch.modLaunch
    have h3 : s3.Tabled := .ite h2.doneCluster h2
    exact .ite h.modLaunch.endLaunch (.ite h.modLaunch (.ite h3.doneDie h3))

theorem steps_execTeamRetire {s : State} {tid} : s.Steps (execTeamRetire tid s) := by
  unfold Machine.execTeamRetire
  split
  · exact .stay
  · exact .ite (.next (fun h1 => h1.freeTeam.lowerCounters)) .stay

/-! ### Host accesses (R169) -/

theorem steps_execHostMemRead {s : State} {addr n} : s.Steps (execHostMemRead addr n s) :=
  steps_whenReady (fun _ h1 => h1.hostAccess.ite h1)

theorem steps_execHostMemWrite {s : State} {addr bytes} : s.Steps (execHostMemWrite addr bytes s) :=
  steps_whenReady (fun _ h1 => h1.hostAccess.ite h1)

/-! ### Back-invalidate (R168) -/

theorem steps_execBirsp {s : State} {r} : s.Steps (execBirsp r s) := by
  unfold Machine.execBirsp
  refine .ite .stay ?_
  refine .next ?_
  intro h1
  refine .retryTvec ?_
  refine .serveWaiting ?_
  refine .ite ?_ ?_
  · refine .setHold ?_
    split
    · exact .ite h1.writeMem h1
    · exact h1
  · refine .receive ?_
    refine .setHold ?_
    split
    · exact .ite h1.writeMem h1
    · exact h1

/-! ### The host-line cache (R170) -/

theorem State.Tabled.hostBack {s : State} {h0} (h : s.Tabled) : (s.hostBack h0).Tabled := by
  unfold State.hostBack
  split
  · exact .ite h.writeHostMem h
  · exact h

theorem State.Tabled.evictHost {s : State} {h0} (h : s.Tabled) : (s.evictHost h0).Tabled := by
  unfold State.evictHost
  refine h.ite ?_
  split
  · exact h
  · exact h.hostBack

theorem steps_execSnpinv {s : State} {hline} : s.Steps (execSnpinv hline s) := by
  unfold Machine.execSnpinv
  split
  · exact .next (fun h1 => h1.emit)
  · exact .next (fun h1 => .emit h1.hostBack)

theorem steps_execSnpdata {s : State} {hline} : s.Steps (execSnpdata hline s) := by
  unfold Machine.execSnpdata
  split
  · exact .next (fun h1 => h1.emit)
  · exact .next (fun h1 => .emit h1.hostBack)

theorem steps_execCxlCacheResponse {s : State} {hline bytes} : s.Steps (execCxlCacheResponse hline bytes s) :=
  .ite .stay (.next (fun h1 => .retryTvec (.writeHostMem (.evictHost h1))))

/-! ### Requests of other packages (R299) -/

theorem State.Tabled.peerDenied {s : State} {a write} (h : s.Tabled) : (s.peerDenied a write).Tabled :=
  .msix h.opRing

theorem State.Tabled.peerRefused {s : State} {p a write} (h : s.Tabled) : (s.peerRefused p a write).Tabled :=
  h.record

theorem State.Tabled.atHome {s : State} {ln write k} (h : s.Tabled) (hk : ∀ (u : State), u.Tabled → (k u).1.Tabled) :
    (s.atHome ln write k).1.Tabled := by
  unfold State.atHome
  split
  · split
    · exact h.recallHost
    · exact hk _ h
  · split
    · exact h.recallHost
    · exact hk _ h

theorem State.Tabled.peerRead {s : State} {p a n} (h : s.Tabled) : (s.peerRead p a n).1.Tabled := by
  unfold State.peerRead
  dsimp only
  split
  · exact h.peerRefused
  · exact h
  · refine h.atHome ?_
    intro _ h1
    split <;> exact h1.hostFold.homeObtain

theorem State.Tabled.peerWrite {s : State} {p a bs} (h : s.Tabled) : (s.peerWrite p a bs).1.Tabled := by
  unfold State.peerWrite
  split
  · exact h.record
  · exact h.atHome (fun _ h1 => h1.hostFold.putLine.record.ite h1.hostFold.putLine)
  · exact h.peerRefused

theorem State.Tabled.peerRmw {s : State} {p a n f} (h : s.Tabled) : (s.peerRmw p a n f).1.Tabled := by
  unfold State.peerRmw
  dsimp only
  split
  · exact h.record
  · refine h.atHome ?_
    intro _ h1
    split
    · exact h1.hostFold.passFront.l3Touch.homeTake
    · split
      · exact h1.hostFold.passFront.l3Touch.homeTake.writeMem
      · exact h1.hostFold.passFront.l3Touch.homeTake
  · exact h.peerRefused

theorem State.Tabled.uaPerform {s : State} {r} (h : s.Tabled) : (s.uaPerform r).1.Tabled := by
  unfold State.uaPerform
  split
  · exact h.peerDenied
  · exact h.peerDenied
  · exact h.peerDenied
  · exact h.peerRead
  · exact h.peerWrite
  · cases peerAtomic r.op with
    | none => exact h
    | some o => exact h.peerRmw

theorem State.Tabled.uaServe {s : State} {r} (h : s.Tabled) : (s.uaServe r).Tabled := by
  unfold State.uaServe
  dsimp only
  refine .ite h ?_
  split
  · exact h.uaPerform.emit
  · exact h.uaPerform
  · exact h.uaPerform

theorem State.Tabled.serveUa {s : State} (h : s.Tabled) : s.serveUa.Tabled :=
  .foldl h (fun _ _ h1 => h1.uaServe)

theorem steps_execUalinkRead {s : State} {r} : s.Steps (execUalinkRead r s) := by
  unfold Machine.execUalinkRead
  split
  · exact .next (fun h1 => h1.uaServe.ite h1)
  · exact .stay

theorem steps_execUalinkWrite {s : State} {r} : s.Steps (execUalinkWrite r s) := by
  unfold Machine.execUalinkWrite
  split
  · exact .next (fun h1 => h1.uaServe.ite h1)
  · exact .stay

theorem steps_execUalinkAtomic {s : State} {r} : s.Steps (execUalinkAtomic r s) := by
  unfold Machine.execUalinkAtomic
  split
  · exact .next (fun h1 => h1.uaServe.ite h1)
  · exact .stay

/-! ### Answers to this package's requests (R299) -/

theorem State.Tabled.dropPeer {s : State} {id} (h : s.Tabled) : (s.dropPeer id).Tabled :=
  h

theorem State.Tabled.laneAnswer {s : State} {l r bytes} (h : s.Tabled) : (s.laneAnswer l r bytes).Tabled := by
  unfold State.laneAnswer
  refine .settle ?_
  split
  · exact .acquireFor (h.setLane.ite h.setLane)
  · exact .acquire (h.setLane.ite h.setLane)
  · exact h.setLane.ite h.setLane

theorem State.Tabled.xferAnswer {s : State} {x r bytes} (h : s.Tabled) : (s.xferAnswer x r bytes).Tabled :=
  h.setXfer

theorem State.Tabled.unitAnswer {s : State} {r bytes} (h : s.Tabled) : (s.unitAnswer r bytes).Tabled :=
  h.modPart.ite h

theorem steps_execUalinkResponse {s : State} {req bytes} : s.Steps (execUalinkResponse req bytes s) := by
  unfold Machine.execUalinkResponse
  dsimp only
  split
  · exact .stay
  · split
    · exact .next (fun h1 => h1.dropPeer.xferAnswer)
    · split
      · exact .next (fun h1 => h1.dropPeer.laneAnswer)
      · exact .next (fun h1 => h1.dropPeer.unitAnswer)

theorem State.Tabled.laneLost {s : State} {l r} (h : s.Tabled) : (s.laneLost l r).Tabled :=
  .settle (.ite (.setLane (h.countLane.ite h)) (.ite (.setLane (h.countLane.ite h)) (.setLane (h.countLane.ite h))))

theorem steps_execPeerRequestTimeout {s : State} {req} : s.Steps (execPeerRequestTimeout req s) := by
  unfold Machine.execPeerRequestTimeout
  dsimp only
  split
  · exact .stay
  · refine .ite .stay ?_
    split
    · exact .next (fun h1 => h1.dropPeer.leaveErr.endXfer)
    · split
      · exact .next (fun h1 => h1.dropPeer.laneLost)
      · exact .next (fun h1 => h1.dropPeer.unitAnswer)

/-! ### Held records -/

theorem steps_execFaultQueueHeldWrite {s : State} {p} : s.Steps (execFaultQueueHeldWrite p s) := by
  unfold Machine.execFaultQueueHeldWrite
  split
  · exact .stay
  · exact .ite (.next (fun h1 => h1.modPart.fqPush)) .stay

/-! ### The halt -/

theorem State.Tabled.cmdHalt {s : State} {p} (h : s.Tabled) : (s.cmdHalt p).Tabled :=
  h.modPart.halt.ite h.modPart

theorem steps_execPartitionHalt {s : State} {p} : s.Steps (execPartitionHalt p s) :=
  steps_whenReady (fun _ h1 => h1.cmdHalt)

theorem State.Tabled.dropTeams {s : State} {p} (h : s.Tabled) : (s.dropTeams p).Tabled := by
  unfold State.dropTeams
  extract_lets s0 s1 qs s2
  have h0 : s0.Tabled := .foldl h fun _ _ h => .ite h h.countLane
  have h1 : s1.Tabled := .foldl h0 fun _ _ h => h.freeTeam
  exact .same (s := s2) h1.modPart rfl rfl rfl

theorem State.Tabled.opStop {s : State} {p pend team launch pc time skid cause unitId unit} (h : s.Tabled) :
    (s.opStop p pend team launch pc time skid cause unitId unit).Tabled := by
  unfold State.opStop
  dsimp only
  split
  · exact h
  · exact h.modPart
  · exact h.stopRing

theorem State.Tabled.stopUnit {s : State} {p u} (h : s.Tabled) : (s.stopUnit p u).Tabled :=
  .opStop (h.readChron.draw.ite h.readChron.draw.devWrite)

theorem State.Tabled.haltDone {s : State} {p} (h : s.Tabled) : (s.haltDone p).Tabled := by
  unfold State.haltDone
  refine .modPart ?_
  refine .dropTeams ?_
  refine h.modPart.record.foldl ?_
  intro _ _ h1
  split
  · exact h1.endLaunch
  · exact h1

theorem steps_execUnitStop {s : State} {p} : s.Steps (execUnitStop p s) := by
  unfold Machine.execUnitStop
  split
  · exact .stay
  · exact .next (fun h1 => h1.stopUnit.modPart.haltDone.ite h1.stopUnit.modPart)

theorem State.Tabled.finishHalt {s : State} {p} (h : s.Tabled) : (s.finishHalt p).Tabled :=
  .ite (.haltDone (h.foldl (fun _ _ h1 => h1.stopUnit.modPart))) h

/-! ### Quarter stops (R243) -/

theorem State.Tabled.devWrites {s : State} {p a k bs} (h : s.Tabled) : (s.devWrites p a k bs).Tabled := by
  induction k generalizing s a bs with
  | zero => exact h
  | succ k ih => exact .ite h (ih h.devWrite)

theorem steps_execQstopDump {s : State} {quarter} : s.Steps (execQstopDump quarter s) := by
  unfold Machine.execQstopDump
  refine .ite .stay ?_
  split
  · exact .stay
  · exact .stay
  · exact .next (fun h1 => .record (h1.devWrites.foldl (fun _ _ h2 => h2.devWrites)))

theorem State.Tabled.writePending {s : State} {l} (h : s.Tabled) : (s.writePending l).Tabled :=
  h.foldl (fun _ _ h1 => h1.onLane (fun _ _ h2 => h2.writeResult))

theorem State.Tabled.resumeQuarter {s : State} {p quarter} (h : s.Tabled) : (s.resumeQuarter p quarter).Tabled :=
  .ite (.settle (.foldl h (fun _ _ h1 => h1.writePending))) h

theorem steps_execQresume {s : State} {p quarter} : s.Steps (execQresume p quarter s) :=
  .next (fun h1 => h1.viaVf (fun _ h2 => h2.resumeQuarter))

/-! ### Translations -/

theorem steps_execTlbLeaseExpiry {s : State} {n} : s.Steps (execTlbLeaseExpiry n s) :=
  .stay

theorem State.Tabled.ptsync {s : State} {f width} (h : s.Tabled) : (s.ptsync f width).Tabled :=
  h.hostAccess

theorem steps_execPtsyncRead {s : State} {p} : s.Steps (execPtsyncRead p s) :=
  .next (fun h1 => h1.ptsync)

/-! ### The frame ownership table -/

theorem State.Tabled.recall {s : State} {frame} (h : s.Tabled) : (s.recall frame).Tabled :=
  .breakPins (h.foldl (fun _ _ h1 => h1.emit))

theorem State.Tabled.scrub {s : State} {frame v} (h : s.Tabled) : (s.scrub frame v).Tabled :=
  h.recall

theorem State.Tabled.writeFot {s : State} {v} (h : s.Tabled) : (s.writeFot v).Tabled :=
  .ite h (.ite (.scrub h) h)

theorem steps_execFotdataWrite {s : State} {v} : s.Steps (execFotdataWrite v s) :=
  steps_whenReady (fun _ h1 => h1.writeFot)

theorem steps_execScrubFrontAdvance {s : State} {frame} : s.Steps (execScrubFrontAdvance frame s) :=
  .ite .stay (.ite (.next (fun h1 => h1.passFront.ite h1)) (.next (fun h1 => h1.passFront.ite h1)))

/-! ### Capacity extents -/

theorem State.Tabled.setExtent {s : State} {n x} (h : s.Tabled) : (s.setExtent n x).Tabled :=
  h

theorem steps_execExtentEntryWrite {s : State} {n x} : s.Steps (execExtentEntryWrite n x s) :=
  steps_whenReady (fun _ h1 => h1.setExtent.ite h1)

theorem steps_execExtentDrain {s : State} {n} : s.Steps (execExtentDrain n s) := by
  unfold Machine.execExtentDrain
  refine steps_whenReady ?_
  intro _ h1
  split
  · exact h1.setExtent.ite h1
  · exact h1

theorem State.Tabled.dropExtent {s : State} {x} (h : s.Tabled) : (s.dropExtent x).Tabled :=
  h.foldl (fun _ _ h1 => h1.capDrop)

theorem steps_execExtentDrainComplete {s : State} {n} : s.Steps (execExtentDrainComplete n s) := by
  unfold Machine.execExtentDrainComplete
  split
  · exact .ite (.next (fun h1 => h1.dropExtent.setExtent)) .stay
  · exact .stay

/-! ### LD (R444, R445) -/

theorem steps_ldWord {s : State} {i} : s.Steps (ldWord i s) :=
  steps_accessWord (fun _ _ _ h1 => h1.setLane.ite (h1.setLane.ite h1.noteAccess))

theorem steps_execLdB8 {s : State} {d a e o f i} : s.Steps (execLdB8 d a e o f i s) :=
  steps_ldWord

theorem steps_execLdB16 {s : State} {d a e o f i} : s.Steps (execLdB16 d a e o f i s) :=
  steps_ldWord

theorem steps_execLdB32 {s : State} {d a e o f i} : s.Steps (execLdB32 d a e o f i s) :=
  steps_ldWord

theorem steps_execLdB64 {s : State} {d a e o f i} : s.Steps (execLdB64 d a e o f i s) :=
  steps_ldWord

theorem steps_execLdB128 {s : State} {d a e o f i} : s.Steps (execLdB128 d a e o f i s) :=
  steps_ldWord

/-! ### ST (R486 to R488) -/

theorem steps_stWord {s : State} {i d} : s.Steps (stWord i s d) :=
  steps_accessWord (fun _ _ _ h1 => h1.store.endAccess)

theorem steps_execStB8 {s : State} {d a e o i} : s.Steps (execStB8 d a e o i s) :=
  steps_stWord

theorem steps_execStB16 {s : State} {d a e o i} : s.Steps (execStB16 d a e o i s) :=
  steps_stWord

theorem steps_execStB32 {s : State} {d a e o i} : s.Steps (execStB32 d a e o i s) :=
  steps_stWord

theorem steps_execStB64 {s : State} {d a e o i} : s.Steps (execStB64 d a e o i s) :=
  steps_stWord

theorem steps_execStB128 {s : State} {d a e o i} : s.Steps (execStB128 d a e o i s) :=
  steps_stWord

/-! ### KLD and KST (R430 to R433) -/

theorem steps_execKld {s : State} {k a e o f i} : s.Steps (execKld k a e o f i s) :=
  steps_accessWord (fun _ _ _ h1 => h1.setLane.ite h1.noteAccess)

theorem steps_execKst {s : State} {k a e o i} : s.Steps (execKst k a e o i s) := by
  unfold Machine.execKst
  dsimp only
  refine steps_accessWord ?_
  intro _ _ _ h1
  split
  · exact h1.storeVia.setLane
  · exact h1.storeVia.endAccess

/-! ### PREF (R468) -/

theorem State.Tabled.prefetch {s : State} {l ea level} (h : s.Tabled) : (s.prefetch l ea level).Tabled := by
  unfold State.prefetch
  dsimp only
  refine h.ite ?_
  split
  · exact h.translate
  · exact h.translate
  · exact h.translate.ite (h.translate.ite (h.translate.l3Touch.ite (h.translate.takeShared.fillL1.ite h.translate.takeShared)))

theorem steps_execPref {s : State} {a l} : s.Steps (execPref a l s) :=
  steps_guarded (fun _ h1 => h1.eachActive (fun _ _ h2 => h2.prefetch.setLane))

/-! ### CINV and CFLUSH (R370, R371) -/

theorem State.Tabled.dropL1 {s : State} {l ln e} (h : s.Tabled) : (s.dropL1 l ln e).Tabled :=
  h.modCluster.ite h

theorem State.Tabled.hostDrop {s : State} {h0} (h : s.Tabled) : (s.hostDrop h0).Tabled := by
  unfold State.hostDrop
  split
  · exact h
  · exact .ite h.writeHostMem h

theorem State.Tabled.writeBackLine {s : State} {l x e} (h : s.Tabled) : (s.writeBackLine l x e).1.Tabled := by
  unfold State.writeBackLine
  dsimp only
  split
  · exact h
  · exact h.hostDrop.ite h
  · split
    · exact h.capBack.ite h
    · split
      · exact h
      · split
        · exact h.askTokens
        · split
          · exact h.foldFor
          · exact h.foldFor.homeObtain.hbmEnqueue

theorem steps_cacheWord {s : State} {i a e flush} : s.Steps (cacheWord i s a e flush) := by
  unfold Machine.cacheWord
  dsimp only
  refine steps_guarded ?_
  intro _ h1
  refine h1.eachActive ?_
  intro _ _ h2
  split
  · exact h2.translate.setLane
  · exact h2.translate.setLane
  · refine h2.translate.setLane.ite ?_
    refine .endAccess ?_
    split
    · exact .writeBackLine (h2.translate.ite h2.translate.dropL1)
    · exact h2.translate.ite h2.translate.dropL1

theorem steps_execCinv {s : State} {a e} : s.Steps (execCinv a e s) :=
  steps_cacheWord

theorem steps_execCflush {s : State} {a e} : s.Steps (execCflush a e s) :=
  steps_cacheWord

theorem State.Tabled.modBank {s : State} {k f} (h : s.Tabled) : (s.modBank k f).Tabled :=
  h

theorem State.Tabled.openRowFor {s : State} {r} (h : s.Tabled) : (s.openRowFor r).Tabled :=
  h.modBank.count

theorem State.Tabled.rowOpened {s : State} {row} (h : s.Tabled) : (s.rowOpened row).Tabled :=
  h

theorem State.Tabled.heatRow {s : State} {k row} (h : s.Tabled) : (s.heatRow k row).Tabled :=
  .ite h h

theorem State.Tabled.serveReq {s : State} {r} (h : s.Tabled) : (s.serveReq r).Tabled :=
  .heatRow (.rowOpened (h.count.ite h.openRowFor))

theorem State.Tabled.serveSide {s : State} {r} (h : s.Tabled) : (s.serveSide r).Tabled :=
  .ite (.serveReq h) (.rowOpened (.modBank (.count (.openRowFor h))))

theorem State.Tabled.breakFor {s : State} {r} (h : s.Tabled) : (s.breakFor r).Tabled :=
  h.breakPins

theorem State.Tabled.serveFreed {s : State} {r} (h : s.Tabled) : (s.serveFreed r).Tabled :=
  h.breakFor.serveReq

theorem State.Tabled.dropReq {s : State} {pc id} (h : s.Tabled) : (s.dropReq pc id).Tabled :=
  h

/-! ### The order of service (R124) -/

theorem steps_whenAwake {s : State} {f} (hf : ∀ (u : State), u.Steps (f u)) : s.Steps (whenAwake s f) :=
  .ite .stay (hf _)

/-! ### The events -/

theorem steps_execHbmRequestServed {s : State} {pc} : s.Steps (execHbmRequestServed pc s) := by
  unfold Machine.execHbmRequestServed
  refine steps_whenAwake ?_
  intro _
  split
  · exact .stay
  · exact .next (fun h1 => .serveFreed (.dropReq h1))

theorem steps_execAgecapExpiry {s : State} {req} : s.Steps (execAgecapExpiry req s) := by
  unfold Machine.execAgecapExpiry
  refine steps_whenAwake ?_
  intro _
  split
  · exact .ite .stay (.ite (.next (fun h1 => h1.dropReq.serveFreed)) .stay)
  · exact .ite .stay (.ite (.next (fun h1 => h1.breakFor.serveSide)) .stay)
  · exact .stay

theorem steps_execBankRefresh {s : State} {pc bank} : s.Steps (execBankRefresh pc bank s) :=
  steps_whenAwake (fun _ => .ite (.next (fun h1 => h1.modBank)) (.next (fun h1 => h1.breakPins.modBank)))

theorem steps_execHotSideActivation {s : State} {pc bank} : s.Steps (execHotSideActivation pc bank s) := by
  unfold Machine.execHotSideActivation
  dsimp only
  refine steps_whenAwake ?_
  intro _
  split
  · exact .stay
  · exact .next (fun h1 => h1.breakFor.serveSide)

theorem steps_execHotWindowEnd {s : State} {pc} : s.Steps (execHotWindowEnd pc s) :=
  .next (fun h1 => h1.foldl (fun _ _ => id))

/-! ### Shapes -/

theorem steps_binOp {s : State} {i d a b f} : s.Steps (binOp i s d a b f) :=
  steps_laneOp

theorem steps_triOp {s : State} {i d a b f} : s.Steps (triOp i s d a b f) :=
  steps_laneOp

theorem steps_unOp {s : State} {i d a f} : s.Steps (unOp i s d a f) :=
  steps_laneOp

/-! ### The instructions -/

theorem steps_execIadd {s : State} {d a b} : s.Steps (execIadd d a b s) :=
  steps_binOp

theorem steps_execIsub {s : State} {d a b} : s.Steps (execIsub d a b s) :=
  steps_binOp

theorem steps_execImul {s : State} {d a b} : s.Steps (execImul d a b s) :=
  steps_binOp

theorem steps_execImulhI32 {s : State} {d a b} : s.Steps (execImulhI32 d a b s) :=
  steps_binOp

theorem steps_execImulhN32 {s : State} {d a b} : s.Steps (execImulhN32 d a b s) :=
  steps_binOp

theorem steps_execIdivI32 {s : State} {d a b} : s.Steps (execIdivI32 d a b s) :=
  steps_binOp

theorem steps_execIdivN32 {s : State} {d a b} : s.Steps (execIdivN32 d a b s) :=
  steps_binOp

theorem steps_execIremI32 {s : State} {d a b} : s.Steps (execIremI32 d a b s) :=
  steps_binOp

theorem steps_execIremN32 {s : State} {d a b} : s.Steps (execIremN32 d a b s) :=
  steps_binOp

theorem steps_execIminI32 {s : State} {d a b} : s.Steps (execIminI32 d a b s) :=
  steps_binOp

theorem steps_execIminN32 {s : State} {d a b} : s.Steps (execIminN32 d a b s) :=
  steps_binOp

theorem steps_execImaxI32 {s : State} {d a b} : s.Steps (execImaxI32 d a b s) :=
  steps_binOp

theorem steps_execImaxN32 {s : State} {d a b} : s.Steps (execImaxN32 d a b s) :=
  steps_binOp

theorem steps_execAnd {s : State} {d a b} : s.Steps (execAnd d a b s) :=
  steps_binOp

theorem steps_execOr {s : State} {d a b} : s.Steps (execOr d a b s) :=
  steps_binOp

theorem steps_execXor {s : State} {d a b} : s.Steps (execXor d a b s) :=
  steps_binOp

theorem steps_execShl {s : State} {d a b} : s.Steps (execShl d a b s) :=
  steps_binOp

theorem steps_execShr {s : State} {d a b} : s.Steps (execShr d a b s) :=
  steps_binOp

theorem steps_execSar {s : State} {d a b} : s.Steps (execSar d a b s) :=
  steps_binOp

theorem steps_execBfeI32 {s : State} {d a b} : s.Steps (execBfeI32 d a b s) :=
  steps_binOp

theorem steps_execBfeN32 {s : State} {d a b} : s.Steps (execBfeN32 d a b s) :=
  steps_binOp

theorem steps_execImad {s : State} {d a b} : s.Steps (execImad d a b s) :=
  steps_triOp

theorem steps_execShf {s : State} {d a b} : s.Steps (execShf d a b s) :=
  steps_triOp

theorem steps_execBfi {s : State} {d a b} : s.Steps (execBfi d a b s) :=
  steps_triOp

theorem steps_execIabs {s : State} {d a} : s.Steps (execIabs d a s) :=
  steps_unOp

theorem steps_execPopc {s : State} {d a} : s.Steps (execPopc d a s) :=
  steps_unOp

theorem steps_execClz {s : State} {d a} : s.Steps (execClz d a s) :=
  steps_unOp

theorem steps_execBrev {s : State} {d a} : s.Steps (execBrev d a s) :=
  steps_unOp

theorem steps_execSel {s : State} {d a b p} : s.Steps (execSel d a b p s) :=
  steps_laneOp

theorem steps_execIcmp {s : State} {p a b k} : s.Steps (execIcmp p a b k s) :=
  steps_laneOp

theorem steps_execLadd {s : State} {d a b} : s.Steps (execLadd d a b s) :=
  steps_laneOp

theorem steps_execMov {s : State} {d a ag dg} : s.Steps (execMov d a ag dg s) :=
  steps_guarded (fun _ h1 => .mapActive (.ite (h1.foldl (fun _ _ h2 => h2.modGroup)) h1))

theorem steps_execIaddi {s : State} {d a i} : s.Steps (execIaddi d a i s) :=
  steps_laneOp

theorem steps_execAndi {s : State} {d a i} : s.Steps (execAndi d a i s) :=
  steps_laneOp

theorem steps_execOri {s : State} {d a i} : s.Steps (execOri d a i s) :=
  steps_laneOp

theorem steps_execXori {s : State} {d a i} : s.Steps (execXori d a i s) :=
  steps_laneOp

theorem steps_execShlImm {s : State} {d a i} : s.Steps (execShlImm d a i s) :=
  steps_laneOp

theorem steps_execShrImm {s : State} {d a i} : s.Steps (execShrImm d a i s) :=
  steps_laneOp

theorem steps_execSarImm {s : State} {d a i} : s.Steps (execSarImm d a i s) :=
  steps_laneOp

theorem steps_execMovi {s : State} {d i} : s.Steps (execMovi d i s) :=
  steps_laneOp

theorem steps_execMovh {s : State} {d i} : s.Steps (execMovh d i s) :=
  steps_laneOp

theorem steps_execLaddi {s : State} {d a i} : s.Steps (execLaddi d a i s) :=
  steps_laneOp

theorem steps_execLit {s : State} {d w} : s.Steps (execLit d w s) :=
  steps_laneOp

theorem steps_exchange {s : State} {i f} : s.Steps (exchange i s f) :=
  steps_guarded (fun _ h1 => h1.mapActive)

theorem steps_execShfl {s : State} {d a b m w} : s.Steps (execShfl d a b m w s) :=
  steps_exchange

theorem steps_execShflImm {s : State} {d a i m w} : s.Steps (execShflImm d a i m w s) :=
  steps_exchange

theorem steps_execVoteOr {s : State} {p q} : s.Steps (execVoteOr p q s) :=
  steps_exchange

theorem steps_execVoteAnd {s : State} {p q} : s.Steps (execVoteAnd p q s) :=
  steps_exchange

theorem steps_execVoteMask {s : State} {d q} : s.Steps (execVoteMask d q s) :=
  steps_exchange

theorem steps_execVoteCount {s : State} {d q} : s.Steps (execVoteCount d q s) :=
  steps_exchange

theorem steps_execVoteFirst {s : State} {d q} : s.Steps (execVoteFirst d q s) :=
  steps_exchange

theorem steps_execVmatch {s : State} {d a} : s.Steps (execVmatch d a s) :=
  steps_exchange

/-! ### Counter banks (R264) -/

theorem State.Tabled.bankCtl {s : State} {p n who w} (h : s.Tabled) : (s.bankCtl p n who w).Tabled :=
  h.setBank

theorem steps_execCbClaim {s : State} {p n who} : s.Steps (execCbClaim p n who s) :=
  steps_whenReady (fun _ h1 => h1.bankCtl)

theorem steps_execCbRelease {s : State} {p n who} : s.Steps (execCbRelease p n who s) :=
  steps_whenReady (fun _ h1 => h1.bankCtl)

theorem steps_execCbClear {s : State} {p n who} : s.Steps (execCbClear p n who s) :=
  steps_whenReady (fun _ h1 => h1.bankCtl)

theorem steps_execCbConfig {s : State} {p n who w} : s.Steps (execCbConfig p n who w s) :=
  steps_whenReady (fun _ h1 => h1.bankCtl.ite h1)

/-! ### Fixes (R276 to R278) -/

theorem State.Tabled.takeFix {s : State} {p src} (h : s.Tabled) : (s.takeFix p src).Tabled :=
  h.readChron.modPart.foldl (fun _ _ h1 => h1.trace)

theorem steps_execFixLatch {s : State} {p} : s.Steps (execFixLatch p s) := by
  unfold Machine.execFixLatch
  split
  · exact .next (fun h1 => h1.takeFix)
  · exact .stay

theorem steps_execFixin {s : State} : s.Steps (execFixin s) :=
  .next (fun h1 => h1.foldl (fun _ _ h2 => h2.modPart))

theorem steps_execFixRegisterWrite {s : State} {p} : s.Steps (execFixRegisterWrite p s) :=
  steps_whenReady (fun _ h1 => h1.modPart.ite h1)

/-! ### PC samples (R270) -/

theorem State.Tabled.sampleQuarter {s : State} {p die stream q} (h : s.Tabled) : (s.sampleQuarter p die stream q).Tabled := by
  unfold State.sampleQuarter
  dsimp only
  refine h.ite ?_
  split
  · exact h.modPart
  · exact h.modPart.trace

theorem State.Tabled.sampleStream {s : State} {p die stream} (h : s.Tabled) : (s.sampleStream p die stream).Tabled :=
  .ite (h.modPart.foldl (fun _ _ h1 => h1.sampleQuarter)) h

theorem steps_execTracePcSample {s : State} {p die} : s.Steps (execTracePcSample p die s) :=
  .next (fun h1 => h1.sampleStream.sampleStream)

/-! ### The end of a period (R286, R287) -/

theorem State.Tabled.periodTime {s : State} {p} (h : s.Tabled) : (s.periodTime p).2.Tabled :=
  h.modPart

theorem State.Tabled.faultSummary {s : State} {p time} (h : s.Tabled) : (s.faultSummary p time).Tabled :=
  h.ite (.modPart (.msix h.opRing))

theorem State.Tabled.traceSummary {s : State} {p time die} (h : s.Tabled) : (s.traceSummary p time die).Tabled :=
  h.ite h.opRing.modPart

theorem State.Tabled.stopSummary {s : State} {p time} (h : s.Tabled) : (s.stopSummary p time).Tabled :=
  h.ite h.draw.stopRing.modPart

theorem State.Tabled.periodEnd {s : State} {p} (h : s.Tabled) : (s.periodEnd p).Tabled :=
  .modPart (h.periodTime.faultSummary.stopSummary.foldl (fun _ _ h1 => h1.traceSummary))

theorem steps_execPolicyPeriodEnd {s : State} : s.Steps (execPolicyPeriodEnd s) :=
  .ite (.next (fun h1 => h1.foldl (fun _ _ h2 => h2.periodEnd))) .stay

/-! ### COMMIT (R281) -/

theorem State.Tabled.chronTake {s : State} {p} (h : s.Tabled) : (s.chronTake p).Tabled :=
  h.modPart

theorem steps_execChronCommit {s : State} {p} : s.Steps (execChronCommit p s) :=
  steps_whenReady (fun _ h1 => h1.chronTake)

/-! ### What RESETTING clears (R12, R258) -/

theorem State.Tabled.resetMsix {s : State} {fs} (h : s.Tabled) : (s.resetMsix fs).Tabled :=
  h

theorem State.Tabled.clearPart {s : State} {p} (h : s.Tabled) : (s.clearPart p).Tabled := by
  unfold State.clearPart
  extract_lets x s1 s2 s3
  have h2 : s2.Tabled := .foldl h.dropTeams fun _ _ h => h.modCluster
  exact .same (s := s3) h2.modPart.resetMsix rfl rfl rfl

/-! ### Commands of a guest (R244) -/

theorem State.Tabled.modPre {s : State} {p f} (h : s.Tabled) : (s.modPre p f).Tabled :=
  h.modPart

theorem State.Tabled.cmdPreempt {s : State} {p} (h : s.Tabled) : (s.cmdPreempt p).Tabled := by
  unfold State.cmdPreempt
  split <;> exact h.modPre

theorem steps_execPreempt {s : State} {p} : s.Steps (execPreempt p s) :=
  .next (fun h1 => h1.viaVf (fun _ h2 => h2.cmdPreempt.ite h2))

/-! ### Saving a team (R246) -/

theorem State.Tabled.revealFaults {s : State} {t} (h : s.Tabled) : (s.revealFaults t).Tabled :=
  .settle (h.foldl (fun _ _ h1 => h1.setLane))

theorem State.Tabled.lostSounds {s : State} {t} (h : s.Tabled) : (s.lostSounds t).Tabled :=
  h.foldl (fun _ _ h1 => h1.countLane.modLane)

theorem State.Tabled.saveTeam {s : State} {t} (h : s.Tabled) : (s.saveTeam t).Tabled :=
  h.halt.ite h.lostSounds.draw.freeTeam.modPart.modLaunch

theorem State.Tabled.saveStill {s : State} {p} (h : s.Tabled) : (s.saveStill p).Tabled :=
  .foldl (h.foldl (fun _ _ h1 => h1.revealFaults)) (fun _ _ h1 => h1.saveTeam.ite h1)

/-! ### The end of a save (R245, R247) -/

theorem State.Tabled.endGuestSave {s : State} {p} (h : s.Tabled) : (s.endGuestSave p).Tabled :=
  h.readChron.devWrites.modPart

theorem State.Tabled.endHypSave {s : State} {p} (h : s.Tabled) : (s.endHypSave p).Tabled :=
  h.draw.readChron.homeWrite.modPart

theorem steps_execDraintExpiry {s : State} {p} : s.Steps (execDraintExpiry p s) :=
  .ite .stay (.ite (.next (fun h1 => h1.modPart.saveStill)) (.ite (.next (fun h1 => h1.modPre.saveStill)) .stay))

theorem steps_execPreemptSaveComplete {s : State} {p} : s.Steps (execPreemptSaveComplete p s) :=
  .ite .stay (.next (fun h1 => .ite (.endGuestSave (h1.saveStill.ite h1)) (h1.saveStill.ite h1)))

/-! ### A deadline that passes (R252) -/

theorem State.Tabled.cancelAll {s : State} {p} (h : s.Tabled) : (s.cancelAll p).Tabled := by
  unfold State.cancelAll
  refine h.foldl ?_
  intro _ _ h1
  split
  · exact h1.endLaunch
  · exact h1

theorem State.Tabled.forceReset {s : State} {p} (h : s.Tabled) : (s.forceReset p).Tabled :=
  h.cancelAll.devWrites.modPart

theorem State.Tabled.forceHyp {s : State} {p} (h : s.Tabled) : (s.forceHyp p).Tabled :=
  h.cancelAll.clearPart.draw.homeWrite.modPart

theorem steps_execSavetExpiry {s : State} {p} : s.Steps (execSavetExpiry p s) :=
  .ite .stay (.ite (.next (fun h1 => h1.forceHyp)) (.ite (.next (fun h1 => h1.forceReset)) .stay))

/-! ### Resume (R250) -/

theorem State.Tabled.bringArea {s : State} {base frames} (h : s.Tabled) : (s.bringArea base frames).1.Tabled := by
  unfold State.bringArea
  dsimp only
  split
  · exact h.homeRead
  · split
    · exact h.homeRead
    · exact h.homeRead.homeRead

theorem State.Tabled.resumeCheck {s : State} {p} (h : s.Tabled) : (s.resumeCheck p).Tabled := by
  unfold State.resumeCheck
  refine h.bringArea.modPre.ite ?_
  split
  · exact h.bringArea.modPre
  · exact h.bringArea.modPart.modPre

theorem State.Tabled.cmdResume {s : State} {p} (h : s.Tabled) : (s.cmdResume p).Tabled := by
  unfold State.cmdResume
  split
  · exact h.modPre
  · exact h.resumeCheck

theorem State.Tabled.retryResume {s : State} {p} (h : s.Tabled) : (s.retryResume p).Tabled :=
  h.resumeCheck.ite h

theorem steps_execPreemptResume {s : State} {p} : s.Steps (execPreemptResume p s) :=
  .next (fun h1 => h1.viaVf (fun _ h2 => h2.cmdResume.ite h2))

/-! ### Rings (R231, R268) -/

theorem State.Tabled.writeGuestTrace {s : State} {p die off width v} (h : s.Tabled) : (s.writeGuestTrace p die off width v).Tabled :=
  h.modPart

/-! ### Submission queues (R186, R187) -/

theorem State.Tabled.writeSq {s : State} {p q off width v} (h : s.Tabled) : (s.writeSq p q off width v).Tabled :=
  h.modSq.doorbell.ite h.modSq

/-! ### Contexts (R135) -/

theorem State.Tabled.writeCtxBlock {s : State} {p ctx off width v} (h : s.Tabled) : (s.writeCtxBlock p ctx off width v).Tabled :=
  h.foldl (fun _ _ h1 => h1.writeCtx.ite h1)

/-! ### PREEMPT (R244) -/

theorem State.Tabled.writePreempt {s : State} {p off width v} (h : s.Tabled) : (s.writePreempt p off width v).Tabled := by
  unfold State.writePreempt
  refine .ite (h.modPre.ite h) ?_
  refine .ite ?_ h.modPre
  refine h.modPre.ite ?_
  split
  · exact h.modPre
  · exact h.modPre.cmdPreempt.ite h.modPre.cmdResume

/-! ### Debug (R241) -/

theorem State.Tabled.writeDbg {s : State} {p w} (h : s.Tabled) : (s.writeDbg p w).Tabled := by
  unfold State.writeDbg
  split
  · exact h.writeDbgctl
  · exact h

/-! ### Counter banks (R262, R263, R294) -/

theorem State.Tabled.writeBankReg {s : State} {p n who off width v} (h : s.Tabled) : (s.writeBankReg p n who off width v).Tabled := by
  unfold State.writeBankReg
  split
  · exact h
  · exact h.setBank

theorem State.Tabled.writeBank {s : State} {p n who off width v} (h : s.Tabled) : (s.writeBank p n who off width v).Tabled :=
  h.writeBankReg.writeBankReg.ite h.writeBankReg

/-! ### Device sets (R300) and interrupts (R296) -/

theorem State.Tabled.writeSet {s : State} {p n off width v} (h : s.Tabled) : (s.writeSet p n off width v).Tabled :=
  h.modPart

theorem State.Tabled.unmask {s : State} {f vec} (h : s.Tabled) : (s.unmask f vec).Tabled :=
  .ite (.emit (h.ite h)) (h.ite h)

theorem State.Tabled.mask {s : State} {f vec} (h : s.Tabled) : (s.mask f vec).Tabled :=
  h

theorem State.Tabled.writeMsix {s : State} {f off width v} (h : s.Tabled) : (s.writeMsix f off width v).Tabled :=
  .ite (.ite (.unmask h) (.mask h)) h

theorem steps_execMsixUnmask {s : State} {f vec} : s.Steps (execMsixUnmask f vec s) :=
  steps_whenReady (fun _ h1 => h1.unmask.ite h1)

/-! ### The space of a VF (R294) -/

theorem State.Tabled.vfWrite {s : State} {p fn off width v} (h : s.Tabled) : (s.vfWrite p fn off width v).Tabled :=
  h.ite (.ite (h.doorbell.ite h) (h.writeSq.ite (h.writeCtxBlock.ite (h.modPart.ite (h.writeReplay.ite
      (h.writePreempt.ite (h.modPart.ite (h.modPart.ite (h.resumeQuarter.ite (h.tvecOrWait.ite
      (h.modPart.ite (h.writeDbg.ite (.ite (h.bumpEvent.bumpEvent.ite h.bumpEvent) (h.writeBank.ite
      (h.writeGuestTrace.ite (h.writeSet.ite (h.writeMsix.ite h)))))))))))))))))

/-! ### Registers with rows of their own -/

theorem steps_execTvecWrite {s : State} {p v} : s.Steps (execTvecWrite p v s) :=
  .next (fun h1 => h1.viaVf (fun _ h2 => h2.tvecOrWait))

theorem steps_execEventMmioWrite {s : State} {p e n} : s.Steps (execEventMmioWrite p e n s) :=
  .next (fun h1 => h1.viaVf (fun _ h2 => h2.bumpEvent))

theorem steps_execL1waysWrite {s : State} {p w} : s.Steps (execL1waysWrite p w s) :=
  .next (fun h1 => h1.writeL1ways)

theorem steps_execL1waysTakeEffect {s : State} {cluster} : s.Steps (execL1waysTakeEffect cluster s) :=
  .next (fun h1 => h1.l1waysTake)

theorem steps_execAdmitrelWrite {s : State} {p ctx v} : s.Steps (execAdmitrelWrite p ctx v s) :=
  .next (fun h1 => h1.writeAdmitrel)

theorem steps_execAdmitrelTakeEffect {s : State} {p ctx code} : s.Steps (execAdmitrelTakeEffect p ctx code s) :=
  .next (fun h1 => h1.releaseAdmit)

theorem steps_execTrmarkWrite {s : State} {id w} : s.Steps (execTrmarkWrite id w s) := by
  unfold Machine.execTrmarkWrite
  split
  · exact .next (fun h1 => h1.writeTrmark)
  · exact .stay

theorem steps_execFflagsWrite {s : State} {tid grp w raised} : s.Steps (execFflagsWrite tid grp w raised s) :=
  .next (fun h1 => h1.writeFflags)

theorem steps_execLeaseWrite {s : State} {p w} : s.Steps (execLeaseWrite p w s) :=
  .next (fun h1 => h1.writeLease)

theorem steps_execCtxregWrite {s : State} {p sel v} : s.Steps (execCtxregWrite p sel v s) :=
  .next (fun h1 => h1.writeCtx)

theorem State.Tabled.setStatus {s : State} {p st} (h : s.Tabled) : (s.setStatus p st).Tabled :=
  h.modPart

/-! ### The disclosure policy (R283 to R285) -/

theorem State.Tabled.bringPolicy {s : State} {p} (h : s.Tabled) : (s.bringPolicy p).1.Tabled := by
  unfold State.bringPolicy
  dsimp only
  split
  · exact h
  · split
    · exact h
    · exact h.homeRead

/-! ### ACTIVATE (R256) -/

theorem State.Tabled.pendCmd {s : State} {p code} (h : s.Tabled) : (s.pendCmd p code).Tabled :=
  h.modPart

theorem State.Tabled.cmdFree {s k : State} {p} (h : s.Tabled) (hk : k.Tabled) : (s.cmdFree p k).Tabled :=
  .ite h.setStatus hk

theorem State.Tabled.activateNow {s : State} {p} (h : s.Tabled) : (s.activateNow p).Tabled := by
  unfold State.activateNow
  refine h.bringPolicy.pendCmd.ite ?_
  split
  · exact h.bringPolicy.setStatus
  · exact h.bringPolicy.modPart

theorem State.Tabled.cmdActivate {s : State} {p} (h : s.Tabled) : (s.cmdActivate p).Tabled := by
  unfold State.cmdActivate
  refine h.cmdFree ?_
  refine h.setStatus.ite ?_
  split
  · exact h.setStatus
  · exact h.activateNow

theorem steps_execPartitionActivate {s : State} {p} : s.Steps (execPartitionActivate p s) :=
  steps_whenReady (fun _ h1 => h1.cmdActivate)

/-! ### RESET and DEACTIVATE (R255, R258, R259) -/

theorem State.Tabled.beginReset {s : State} {p inactive} (h : s.Tabled) : (s.beginReset p inactive).Tabled :=
  .modPart h

theorem State.Tabled.cmdReset {s : State} {p} (h : s.Tabled) : (s.cmdReset p).Tabled :=
  h.finishHalt.beginReset.ite h.finishHalt.setStatus

theorem steps_execPartitionReset {s : State} {p} : s.Steps (execPartitionReset p s) :=
  steps_whenReady (fun _ h1 => h1.cmdReset)

theorem State.Tabled.scrubOwned {s : State} {p} (h : s.Tabled) : (s.scrubOwned p).Tabled :=
  h.foldl (fun _ _ h1 => .ite h1 h1.scrub)

theorem State.Tabled.unbind {s : State} {p} (h : s.Tabled) : (s.unbind p).Tabled :=
  h.modPart

theorem State.Tabled.cmdDeactivate {s : State} {p} (h : s.Tabled) : (s.cmdDeactivate p).Tabled :=
  h.cmdFree (h.finishHalt.beginReset.ite (h.finishHalt.clearPart.scrubOwned.unbind.setStatus.ite h.finishHalt.setStatus))

theorem steps_execPartitionDeactivate {s : State} {p} : s.Steps (execPartitionDeactivate p s) :=
  steps_whenReady (fun _ h1 => h1.cmdDeactivate)

theorem steps_execPartitionResetDone {s : State} {p} : s.Steps (execPartitionResetDone p s) :=
  .ite .stay (.next (fun h1 => h1.clearPart.scrubOwned.unbind.ite h1.clearPart.modPart))

/-! ### SUSPEND and RESUME (R251, R255) -/

theorem State.Tabled.cmdSuspend {s : State} {p} (h : s.Tabled) : (s.cmdSuspend p).Tabled :=
  h.finishHalt.modPart.ite h.finishHalt.setStatus

theorem steps_execPartitionSuspend {s : State} {p} : s.Steps (execPartitionSuspend p s) :=
  steps_whenReady (fun _ h1 => h1.cmdSuspend)

theorem steps_execPartitionSuspendDone {s : State} {p} : s.Steps (execPartitionSuspendDone p s) :=
  .ite .stay (.next (fun h1 => .ite (.endHypSave (h1.saveStill.ite h1)) (h1.saveStill.ite h1)))

theorem State.Tabled.flr {s : State} {p fn} (h : s.Tabled) : (s.flr p fn).Tabled := by
  unfold State.flr
  dsimp only
  split
  · exact h.finishHalt.beginReset
  · exact h.finishHalt.beginReset
  · exact h.finishHalt.modPart
  · exact h.finishHalt.modPart
  · exact h.finishHalt
  · exact h.finishHalt

theorem State.Tabled.releaseHeld {s : State} {p} (h : s.Tabled) : (s.releaseHeld p).Tabled :=
  h.modPart.foldl (fun _ _ h1 => h1.flr.ite (h1.viaMmio (fun _ h2 => h2.vfWrite)))

theorem State.Tabled.resumeWith {s : State} {p ls} (h : s.Tabled) : (s.resumeWith p ls).Tabled :=
  h.modPart.releaseHeld

theorem State.Tabled.cmdResumePart {s : State} {p} (h : s.Tabled) : (s.cmdResumePart p).Tabled := by
  unfold State.cmdResumePart
  refine h.cmdFree ?_
  refine h.setStatus.ite ?_
  refine h.resumeWith.ite ?_
  refine h.bringArea.pendCmd.ite ?_
  split
  · exact h.bringArea.setStatus
  · exact h.bringArea.resumeWith

theorem State.Tabled.retryCmd {s : State} {p} (h : s.Tabled) : (s.retryCmd p).Tabled := by
  unfold State.retryCmd
  split
  · exact h.modPart.cmdActivate
  · exact h.modPart.cmdResumePart
  · exact h

theorem steps_execPartitionResume {s : State} {p} : s.Steps (execPartitionResume p s) :=
  steps_whenReady (fun _ h1 => h1.cmdResumePart)

/-! ### Partition blocks (R254) -/

theorem State.Tabled.command {s : State} {p x2} (h : s.Tabled) : (s.command p x2).Tabled := by
  unfold State.command
  split
  · exact h.cmdActivate
  · exact h.cmdHalt
  · exact h.cmdReset
  · exact h.cmdSuspend
  · exact h.cmdResumePart
  · exact h.cmdDeactivate
  · exact h

theorem State.Tabled.writePartBlock {s : State} {p off width v} (h : s.Tabled) : (s.writePartBlock p off width v).Tabled :=
  .ite (.command (h.ite (h.modPart.ite h.setStatus))) (h.ite (h.modPart.ite h.setStatus))

theorem State.Tabled.writeChron {s : State} {p off width v} (h : s.Tabled) : (s.writeChron p off width v).Tabled :=
  h.modPart.chronTake.ite h.modPart

/-! ### The space of the PF (R295) -/

theorem State.Tabled.writeOpTrace {s : State} {p die off width v} (h : s.Tabled) : (s.writeOpTrace p die off width v).Tabled :=
  h.modPart

theorem State.Tabled.writeFtags {s : State} {p v n} (h : s.Tabled) : (s.writeFtags p v n).Tabled :=
  h.foldl (fun _ _ h1 => h1.modPart.ite h1)

theorem State.Tabled.writeFixes {s : State} {p n} (h : s.Tabled) : (s.writeFixes p n).Tabled :=
  h.foldl (fun _ _ h1 => h1.modPart.ite h1)

theorem State.Tabled.writeExtent {s : State} {n off width v} (h : s.Tabled) : (s.writeExtent n off width v).Tabled :=
  h

theorem State.Tabled.pfWrite {s : State} {off width v} (h : s.Tabled) : (s.pfWrite off width v).Tabled := by
  unfold State.pfWrite
  extract_lets n s1
  have h1 : s1.Tabled := by
    unfold s1
    split <;> exact .same h rfl rfl rfl
  refine .ite (.same h rfl rfl rfl) (.ite (.ite (.same h1 rfl rfl rfl) h1) (.ite h.writePartBlock
      (.ite h.modPart (.ite h.writeChron (.ite h.writeFixes
    (.ite h.writeFtags (.ite (.same h rfl rfl rfl) ?_)))))))
  exact .ite h.writeFot (.ite h.writeExtent (.ite h.writeOpTrace (.ite h.writeBank (.ite (.same h rfl rfl rfl)
    (.ite (.same h rfl rfl rfl) (.ite h.modPart (.ite h.writeMsix h)))))))

/-! ### REGISTER_WRITE -/

theorem steps_execRegisterWrite {s : State} {f off width v} : s.Steps (execRegisterWrite f off width v s) := by
  unfold Machine.execRegisterWrite
  refine .ite .stay ?_
  split
  · exact .next (fun h1 => h1.pfWrite)
  · split
    · exact .next (fun h1 => h1.viaMmio (fun _ h2 => h2.vfWrite))
    · exact .stay

/-! ### Resets (R297, R303) -/

theorem steps_execVfFlr {s : State} {vf} : s.Steps (execVfFlr vf s) := by
  unfold Machine.execVfFlr
  refine steps_whenReady ?_
  intro _ h1
  refine h1.ite ?_
  split
  · exact h1.flr
  · exact h1.resetMsix

/-- A reset leaves the host's memory and empties the other tables. -/
theorem steps_execDeviceReset {s : State} : s.Steps (execDeviceReset s) :=
  .next fun h => ⟨⟨rfl, h.1.2⟩, .nil⟩

/-- The zeroed HBM lists no byte. -/
theorem State.Tabled.bootDone {s : State} {img} (h : s.Tabled) : (s.bootDone img).Tabled :=
  ⟨⟨rfl, h.1.2⟩, h.2⟩

theorem steps_execFirmwareReady {s : State} {img} : s.Steps (execFirmwareReady img s) :=
  .ite .stay (.ite (.next (fun h1 => h1.bootDone)) (.ite .stay .stay))

theorem steps_execFirmwareRecoveryLoad {s : State} {img} : s.Steps (execFirmwareRecoveryLoad img s) :=
  .ite (.next (fun h1 => h1.bootDone)) .stay

/-! ### Identity (R304) -/

theorem State.Tabled.aliasSign {s : State} {m} (h : s.Tabled) : (s.aliasSign m).2.Tabled :=
  h.draw

/-! ### SPDM over the mailbox of each function (R305) -/

theorem State.Tabled.spdmAnswer {s : State} {f o} (h : s.Tabled) : (s.spdmAnswer f o).Tabled := by
  unfold State.spdmAnswer
  refine h.ite ?_
  split
  · exact h.emit.ite h
  · exact h
  · exact h.emit
  · exact h.emit
  · exact h.emit

theorem steps_execGetVersion {s : State} {f} : s.Steps (execGetVersion f s) :=
  .next (fun h1 => h1.spdmAnswer)

theorem steps_execGetCapabilities {s : State} {f} : s.Steps (execGetCapabilities f s) :=
  .next (fun h1 => h1.spdmAnswer)

theorem steps_execNegotiateAlgorithms {s : State} {f} : s.Steps (execNegotiateAlgorithms f s) :=
  .next (fun h1 => h1.spdmAnswer)

theorem steps_execGetDigests {s : State} {f} : s.Steps (execGetDigests f s) :=
  .next (fun h1 => h1.spdmAnswer)

theorem steps_execGetCertificate {s : State} {f} : s.Steps (execGetCertificate f s) :=
  .next (fun h1 => h1.spdmAnswer)

theorem steps_execChallenge {s : State} {f nonce} : s.Steps (execChallenge f nonce s) :=
  .next (fun h1 => h1.aliasSign.spdmAnswer)

theorem steps_execGetMeasurements {s : State} {f index} : s.Steps (execGetMeasurements f index s) :=
  .next (fun h1 => h1.aliasSign.spdmAnswer)

/-! ### Power and cooling (R290, R306 to R308) -/

theorem State.Tabled.setClock {s : State} {mhz} (h : s.Tabled) : (s.setClock mhz).Tabled :=
  h.ite (.emit h)

theorem State.Tabled.slower {s : State} (h : s.Tabled) : s.slower.Tabled :=
  h.setClock

theorem steps_execPowerClockStep {s : State} {avgMilliwatts} : s.Steps (execPowerClockStep avgMilliwatts s) :=
  .ite (.next (fun h1 => h1.slower)) (.ite (.next (fun h1 => h1.setClock)) .stay)

theorem State.Tabled.addEnergy {s : State} (h : s.Tabled) : s.addEnergy.Tabled :=
  h.foldl (fun _ _ h1 => .modPart h1)

theorem steps_execPackagePowerReport {s : State} {milliwatts} : s.Steps (execPackagePowerReport milliwatts s) :=
  .next (fun h1 => .emit h1.addEnergy)

theorem State.Tabled.thermalHalt {s : State} (h : s.Tabled) : s.thermalHalt.Tabled :=
  .emit (h.foldl (fun _ _ h1 => h1.halt))

theorem steps_execThermalSensorEvent {s : State} {t} : s.Steps (execThermalSensorEvent t s) := by
  unfold Machine.execThermalSensorEvent
  split
  · exact .next (fun h1 => .slower h1)
  · exact .next (fun h1 => .slower h1)
  · exact .next (fun h1 => .loseDie h1)
  · exact .next (fun h1 => .thermalHalt h1)
  · exact .next (fun h1 => .thermalHalt h1)
  · exact .stay
  · exact .stay
  · exact .stay
  · exact .stay
  · exact .stay

theorem steps_execD3hotRequest {s : State} : s.Steps (execD3hotRequest s) :=
  .ite .stay .stay

theorem steps_execD0Request {s : State} : s.Steps (execD0Request s) :=
  .next (fun h1 => .serveHost h1)

theorem steps_execPlimWrite {s : State} {watts} : s.Steps (execPlimWrite watts s) :=
  .stay

theorem steps_execLinkUp {s : State} {port combine} : s.Steps (execLinkUp port combine s) :=
  .ite .stay .stay

theorem steps_execBundleFormation {s : State} {quarter} : s.Steps (execBundleFormation quarter s) :=
  .ite .stay (.next (fun h1 => h1.unyield.form))

theorem steps_execDeferredResultWrite {s : State} {id n} : s.Steps (execDeferredResultWrite id n s) := by
  unfold Machine.execDeferredResultWrite
  dsimp only
  split
  · exact .stay
  · split
    · exact .stay
    · refine .ite (.next (fun h1 => h1.writeResult.settle)) ?_
      split
      · split
        · exact .next (fun h1 => h1.redo)
        · exact .next (fun h1 => h1.redo.modLane.settle)
      · exact .stay

theorem steps_execTrapEntry {s : State} {id} : s.Steps (execTrapEntry id s) := by
  unfold Machine.execTrapEntry
  split
  · exact .stay
  · split
    · exact .ite (.next (fun h1 => h1.trapEntry)) (.next (fun h1 => h1.settle))
    · exact .stay

/-! ### LDS and STS -/

theorem State.Tabled.countScratch {s : State} {i load} (h : s.Tabled) : (s.countScratch i load).Tabled := by
  unfold State.countScratch
  split
  · exact h
  · exact .ite (h.ite h.countLane) (.countLane (h.ite h.countLane))

theorem steps_execLds {s : State} {d a z w i} : s.Steps (execLds d a z w i s) := by
  unfold Machine.execLds
  split
  · exact .stay
  · exact .trans (fun h1 => h1.countScratch.ite h1) (steps_accessWord (fun _ _ _ h1 => h1.setLane.ite h1.noteAccess))

theorem steps_execSts {s : State} {d a z w i} : s.Steps (execSts d a z w i s) := by
  unfold execSts
  split
  · exact .stay
  · refine .trans (fun h => .ite h.countScratch h) (steps_accessWord fun u l srcs h => ?_)
    split
    · exact h
    · exact h.writePieces.setLane

/-! ### QPUSH and QPOP -/

theorem steps_queueWord {s : State} {i q push wait go} (hgo : ∀ (u : State) x1, u.Tabled → (go u x1).Tabled) : s.Steps
    (queueWord i s q push wait go) := by
  unfold Machine.queueWord
  refine steps_guarded ?_
  intro _ h1
  split
  · exact h1
  · refine h1.mapActive.ite ?_
    split
    · exact h1.mapActive.eachActive (fun _ _ h2 => h2.raise)
    · refine .ite ?_ ?_
      · refine h1.mapActive.eachActive ?_
        intro _ _ h2
        split
        · exact h2.raise
        · exact h2.ite h2.modMacro
      · refine .ite ?_ ?_
        · refine .mapActive ?_
          refine .modMacro ?_
          refine h1.mapActive.eachActive ?_
          intro _ _ h2
          split
          · exact h2.raise
          · exact h2.ite h2.modMacro
        · refine hgo _ _ ?_
          refine h1.mapActive.eachActive ?_
          intro _ _ h2
          split
          · exact h2.raise
          · exact h2.ite h2.modMacro

theorem steps_execQpush {s : State} {d q} : s.Steps (execQpush d q s) := by
  unfold Machine.execQpush
  refine steps_queueWord ?_
  intro _ _ h1
  split
  · exact h1
  · exact h1.mapActive.ite ((h1.eachActive (fun _ _ h2 => h2.modMacro)).mapActive)

theorem steps_execQpop {s : State} {d q} : s.Steps (execQpop d q s) := by
  unfold Machine.execQpop
  refine steps_queueWord ?_
  intro _ _ h1
  split
  · exact h1
  · exact h1.mapActive.ite (h1.eachActive (fun _ _ h2 => h2.noteAccess.modMacro))

theorem steps_execQueueWaitResume {s : State} {tid q} : s.Steps (execQueueWaitResume tid q s) :=
  .next (fun h1 => h1.release)

/-! ### SMODE (R111, R112, R484, R485) -/

theorem steps_smodeWord {s : State} {i a toQueue} : s.Steps (smodeWord i s a toQueue) := by
  unfold Machine.smodeWord
  refine steps_guarded ?_
  intro _ h1
  split
  · exact h1
  · exact h1.mapActive.ite (h1.mapActive.ite ((h1.eachActive (fun _ _ h2 => h2.raise)).ite h1.modTeam.mapActive))

theorem steps_execSmodeScratch {s : State} {a} : s.Steps (execSmodeScratch a s) :=
  steps_smodeWord

theorem steps_execSmodeQueue {s : State} {a} : s.Steps (execSmodeQueue a s) :=
  steps_smodeWord

theorem steps_execSmodeConvert {s : State} {tid} : s.Steps (execSmodeConvert tid s) := by
  unfold Machine.execSmodeConvert
  split
  · exact .stay
  · split
    · exact .stay
    · exact .ite .stay (.next (fun h1 => .release (.modTeam (h1.foldl (fun _ _ h2 => h2.modMacro)))))

/-! ### The instructions -/

theorem steps_sfuOp {s : State} {i d a f} : s.Steps (sfuOp i s d a f) :=
  steps_deferOp

theorem steps_execFrcp {s : State} {d a} : s.Steps (execFrcp d a s) :=
  steps_sfuOp

theorem steps_execFrsq {s : State} {d a} : s.Steps (execFrsq d a s) :=
  steps_sfuOp

theorem steps_execFsqrt {s : State} {d a r} : s.Steps (execFsqrt d a r s) :=
  steps_sfuOp

theorem steps_execFdiv {s : State} {d a b r} : s.Steps (execFdiv d a b r s) :=
  steps_deferOp

theorem steps_execFexp2 {s : State} {d a} : s.Steps (execFexp2 d a s) :=
  steps_sfuOp

theorem steps_execFlog2 {s : State} {d a} : s.Steps (execFlog2 d a s) :=
  steps_sfuOp

theorem steps_execFsin {s : State} {d a} : s.Steps (execFsin d a s) :=
  steps_sfuOp

theorem steps_execFcos {s : State} {d a} : s.Steps (execFcos d a s) :=
  steps_sfuOp

theorem steps_execFred {s : State} {d a} : s.Steps (execFred d a s) :=
  steps_deferOp

/-! ### Reading -/

theorem State.Tabled.privLanes {s : State} {r ok} (h : s.Tabled) : (privLanes s r ok).Tabled :=
  h.eachActive (fun _ _ h1 => h1.ite h1.raise)

theorem steps_execMfs {s : State} {d r} : s.Steps (execMfs d r s) := by
  refine steps_guarded fun u h => ?_
  dsimp only
  refine .mapActive ?_
  split
  · exact .ite h.privLanes.readChron h.privLanes
  · exact h.privLanes

/-! ### Writing -/

theorem State.Tabled.writeSys {s : State} {l r v} (h : s.Tabled) : (s.writeSys l r v).Tabled :=
  .ite (h.foldl (fun _ _ h1 => h1.writeFflags)) (h.writeTrmark.ite (h.modPart.ite (.ite (h.foldl (fun _ _ h1 => h1.writeDbgctl))
      (h.writeBrk.ite (h.writeL1ways.ite (h.writeCtx.ite (h.writeLease.ite (h.modPart.ite (h.writeAdmitrel.ite
      (h.writeColltmo.ite (h.setBank.ite h)))))))))))

theorem steps_execMts {s : State} {d r} : s.Steps (execMts d r s) := by
  refine steps_guarded fun u h => ?_
  dsimp only
  split
  · exact h.privLanes
  · exact .ite h.privLanes.writeTvec.mapActive h.privLanes.writeSys.mapActive.thaw

/-! ### CLK, CNTRD, RND -/

theorem steps_execClk {s : State} {d} : s.Steps (execClk d s) := by
  unfold Machine.execClk
  refine steps_guarded ?_
  intro _ h1
  split
  · exact h1
  · exact h1.readChron.mapActive

theorem steps_execCntrd {s : State} {d r} : s.Steps (execCntrd d r s) :=
  steps_deferOp

theorem steps_execRndLo {s : State} {d} : s.Steps (execRndLo d s) :=
  steps_laneOp

theorem steps_execRndHi {s : State} {d} : s.Steps (execRndHi d s) :=
  steps_laneOp

theorem steps_exec {s : State} {i} : s.Steps (exec i s) := by
  unfold Machine.exec
  split
  · exact steps_execNop
  · exact steps_execExit
  · exact steps_execYield
  · exact steps_execRet
  · exact steps_execBra
  · exact steps_execCall
  · exact steps_execTrap
  · exact steps_execTret
  · exact steps_execBkpt
  · exact steps_execBar
  · exact steps_execBara
  · exact steps_execBarw
  · exact steps_execCbar
  · exact steps_execGbar
  · exact steps_execWaitph
  · exact steps_execEvsig
  · exact steps_execEvwait
  · exact steps_execFence
  · exact steps_execDrain
  · exact steps_execMfs
  · exact steps_execMts
  · exact steps_execClk
  · exact steps_execCntrd
  · exact steps_execRndLo
  · exact steps_execRndHi
  · exact steps_execCvdecl
  · exact steps_execCvsign
  · exact steps_execCvsignW
  · exact steps_execBrx
  · exact steps_execIadd
  · exact steps_execIsub
  · exact steps_execImul
  · exact steps_execImulhI32
  · exact steps_execImulhN32
  · exact steps_execImad
  · exact steps_execIdivI32
  · exact steps_execIdivN32
  · exact steps_execIremI32
  · exact steps_execIremN32
  · exact steps_execIminI32
  · exact steps_execIminN32
  · exact steps_execImaxI32
  · exact steps_execImaxN32
  · exact steps_execIabs
  · exact steps_execAnd
  · exact steps_execOr
  · exact steps_execXor
  · exact steps_execShl
  · exact steps_execShr
  · exact steps_execSar
  · exact steps_execShf
  · exact steps_execPopc
  · exact steps_execClz
  · exact steps_execBrev
  · exact steps_execBfeI32
  · exact steps_execBfeN32
  · exact steps_execBfi
  · exact steps_execSel
  · exact steps_execIcmp
  · exact steps_execLadd
  · exact steps_execMov
  · exact steps_execIaddi
  · exact steps_execAndi
  · exact steps_execOri
  · exact steps_execXori
  · exact steps_execShlImm
  · exact steps_execShrImm
  · exact steps_execSarImm
  · exact steps_execMovi
  · exact steps_execMovh
  · exact steps_execLaddi
  · exact steps_execFadd
  · exact steps_execFsub
  · exact steps_execFmul
  · exact steps_execFfma
  · exact steps_execFmin
  · exact steps_execFmax
  · exact steps_execFcmp
  · exact steps_execFclass
  · exact steps_execFadd2Bf16
  · exact steps_execFadd2F16
  · exact steps_execFma2Bf16
  · exact steps_execFma2F16
  · exact steps_execFrcp
  · exact steps_execFrsq
  · exact steps_execFsqrt
  · exact steps_execFdiv
  · exact steps_execFexp2
  · exact steps_execFlog2
  · exact steps_execFsin
  · exact steps_execFcos
  · exact steps_execFred
  · exact steps_execCvt
  · exact steps_execCvtF32Mx
  · exact steps_execQmx
  · exact steps_execDqmx
  · exact steps_execPslice
  · exact steps_execPmerge
  · exact steps_execShfl
  · exact steps_execShflImm
  · exact steps_execVoteOr
  · exact steps_execVoteAnd
  · exact steps_execVoteMask
  · exact steps_execVoteCount
  · exact steps_execVoteFirst
  · exact steps_execVmatch
  · exact steps_execLdB8
  · exact steps_execLdB16
  · exact steps_execLdB32
  · exact steps_execLdB64
  · exact steps_execLdB128
  · exact steps_execStB8
  · exact steps_execStB16
  · exact steps_execStB32
  · exact steps_execStB64
  · exact steps_execStB128
  · exact steps_execLds
  · exact steps_execSts
  · exact steps_execQpush
  · exact steps_execQpop
  · exact steps_execPref
  · exact steps_execCinv
  · exact steps_execCflush
  · exact steps_execKclr
  · exact steps_execKadd
  · exact steps_execKfma
  · exact steps_execKdot2
  · exact steps_execKdot4
  · exact steps_execKiadd
  · exact steps_execKmrg
  · exact steps_execKmrgNeg
  · exact steps_execKnorm
  · exact steps_execKscl
  · exact steps_execKseg
  · exact steps_execKstat
  · exact steps_execKrnd
  · exact steps_execKld
  · exact steps_execKst
  · exact steps_execMxa
  · exact steps_execMxz
  · exact steps_execMxrd
  · exact steps_execMxsp
  · exact steps_execMxfl
  · exact steps_execLaunch
  · exact steps_execSmodeScratch
  · exact steps_execSmodeQueue
  · exact steps_execLit
  · exact steps_execAtom
  · exact steps_execAtomNr
  · exact steps_execOrderedAtomRelease
  · exact steps_execCas
  · exact steps_execAacc
  · exact steps_execAaccMul
  · exact steps_execAmrg
  · exact steps_execAmrgNeg
  · exact steps_execCpy
  · exact steps_execGthr
  · exact steps_execColl
  · exact steps_execCollw
  · exact steps_execRowpin
  · exact steps_execRowrel
  · exact steps_execRowrelAll
  · exact steps_execRowqry
  · exact steps_execSmodeConvert
  · exact steps_execBundleFormation
  · exact steps_execDeferredResultWrite
  · exact steps_execTrapEntry
  · exact steps_execQueueWaitResume
  · exact steps_execMxeEntryGrant
  · exact steps_execMxeEntryComplete
  · exact steps_execMxeHeldFiringEnter
  · exact steps_execMxeSelftest
  · exact steps_execCopyComplete
  · exact steps_execCollComplete
  · exact steps_execCollTimeout
  · exact steps_execSqDoorbell
  · exact steps_execSqEntryNop
  · exact steps_execSqEntryLaunch
  · exact steps_execSqEntryEvsig
  · exact steps_execSqEntryEvwait
  · exact steps_execDqEntryTake
  · exact steps_execTeamPlace
  · exact steps_execPlacementHoldTimeout
  · exact steps_execTeamRetire
  · exact steps_execGets
  · exact steps_execGetx
  · exact steps_execGetm
  · exact steps_execTok
  · exact steps_execPut
  · exact steps_execPutp
  · exact steps_execFoldMsg
  · exact steps_execPart
  · exact steps_execPact
  · exact steps_execPdeact
  · exact steps_execPersistentAck
  · exact steps_execPreq
  · exact steps_execPdone
  · exact steps_execTokenAttemptTimeout
  · exact steps_execTokenRetry
  · exact steps_execHostMemRead
  · exact steps_execHostMemWrite
  · exact steps_execBirsp
  · exact steps_execSnpinv
  · exact steps_execSnpdata
  · exact steps_execDieLost
  · exact steps_execBankRefresh
  · exact steps_execHotSideActivation
  · exact steps_execHotWindowEnd
  · exact steps_execAgecapExpiry
  · exact steps_execTlbLeaseExpiry
  · exact steps_execFotdataWrite
  · exact steps_execScrubFrontAdvance
  · exact steps_execExtentEntryWrite
  · exact steps_execExtentDrain
  · exact steps_execExtentDrainComplete
  · exact steps_execPtsyncRead
  · exact steps_execReplay
  · exact steps_execReplayAbort
  · exact steps_execFaultQueueHeldWrite
  · exact steps_execPreempt
  · exact steps_execPreemptResume
  · exact steps_execDraintExpiry
  · exact steps_execSavetExpiry
  · exact steps_execPreemptSaveComplete
  · exact steps_execPartitionActivate
  · exact steps_execPartitionHalt
  · exact steps_execPartitionReset
  · exact steps_execPartitionSuspend
  · exact steps_execPartitionResume
  · exact steps_execPartitionDeactivate
  · exact steps_execPartitionResetDone
  · exact steps_execPartitionSuspendDone
  · exact steps_execUnitStop
  · exact steps_execQstopDump
  · exact steps_execQresume
  · exact steps_execCbClaim
  · exact steps_execCbRelease
  · exact steps_execCbClear
  · exact steps_execCbConfig
  · exact steps_execFixLatch
  · exact steps_execFixin
  · exact steps_execFixRegisterWrite
  · exact steps_execTracePcSample
  · exact steps_execPolicyPeriodEnd
  · exact steps_execChronCommit
  · exact steps_execTvecWrite
  · exact steps_execL1waysWrite
  · exact steps_execL1waysTakeEffect
  · exact steps_execAdmitrelWrite
  · exact steps_execAdmitrelTakeEffect
  · exact steps_execTrmarkWrite
  · exact steps_execFflagsWrite
  · exact steps_execLeaseWrite
  · exact steps_execCtxregWrite
  · exact steps_execEventMmioWrite
  · exact steps_execMsixUnmask
  · exact steps_execRegisterWrite
  · exact steps_execVfFlr
  · exact steps_execDeviceReset
  · exact steps_execFirmwareRecoveryLoad
  · exact steps_execGetVersion
  · exact steps_execGetCapabilities
  · exact steps_execNegotiateAlgorithms
  · exact steps_execGetDigests
  · exact steps_execGetCertificate
  · exact steps_execChallenge
  · exact steps_execGetMeasurements
  · exact steps_execPowerClockStep
  · exact steps_execPackagePowerReport
  · exact steps_execThermalSensorEvent
  · exact steps_execD3hotRequest
  · exact steps_execLinkUp
  · exact steps_execUalinkRead
  · exact steps_execUalinkWrite
  · exact steps_execUalinkAtomic
  · exact steps_execUalinkResponse
  · exact steps_execPeerRequestTimeout
  · exact steps_execVkacc
  · exact steps_execVisum
  · exact steps_execVmaxr
  · exact steps_execVmax
  · exact steps_execVmin
  · exact steps_execVbcast
  · exact steps_execVgath
  · exact steps_execHbmRequestServed
  · exact steps_execCxlCacheResponse
  · exact steps_execD0Request
  · exact steps_execPlimWrite
  · exact steps_execFirmwareReady

/-! ### The space of a VF (R294) -/

theorem State.Tabled.vfRead {s : State} {p fn off width} (h : s.Tabled) : (s.vfRead p fn off width).2.Tabled := by
  unfold State.vfRead
  extract_lets x v q
  by_cases hc : fn = x.vfp ∧ 0x3080 ≤ off ∧ off < 0x3088
  · rw [if_pos hc]
    exact h.readChron
  · rw [if_neg hc]
    exact h

/-! ### The access -/

theorem State.Tabled.mmioRead {s : State} {f off width} (h : s.Tabled) : (s.mmioRead f off width).Tabled := by
  unfold State.mmioRead
  refine h.ite ?_
  refine h.emit.ite ?_
  split
  · exact h.emit
  · split
    · exact h.ptsync.ite h.vfRead.emit
    · exact h

theorem State.Tabled.configRead {s : State} {f} (h : s.Tabled) : (s.configRead f).Tabled := by
  unfold State.configRead
  refine h.ite ?_
  split
  · exact h.emit
  · exact h
  · exact h.emit
  · exact h.emit
  · exact h.emit

theorem State.Tabled.upsetLine {s : State} {ln structure'} (h : s.Tabled) : (s.upsetLine ln structure').Tabled :=
  .ite (.record h) h

theorem State.Tabled.upsetL1 {s : State} {cluster ln} (h : s.Tabled) : (s.upsetL1 cluster ln).Tabled :=
  h

theorem State.Tabled.upsetScratch {s : State} {cluster mac word} (h : s.Tabled) : (s.upsetScratch cluster mac word).Tabled := by
  unfold State.upsetScratch
  split
  · exact h
  · exact h.modCluster.record.ite h

theorem State.Tabled.upsetTeam {s : State} {tid aux} (h : s.Tabled) : (s.upsetTeam tid aux).Tabled := by
  unfold State.upsetTeam
  split
  · exact h
  · exact h.halt

theorem State.Tabled.upset {s : State} {x1} (h : s.Tabled) : (s.upset x1).Tabled := by
  unfold State.upset
  split
  · exact h
  · exact h.upsetLine
  · exact h.upsetL1
  · exact h.upsetScratch
  · exact h
  · exact h.upsetTeam
  · exact h.elim (fun _ => h.upsetTeam)
  · exact h.elim (fun _ => h.upsetTeam)

theorem State.Tabled.input {s : State} {x1} (h : s.Tabled) : (s.input x1).Tabled := by
  unfold State.input
  split
  · exact h.mmioRead
  · exact h.configRead
  · exact h.upset

/-! ### Time (R265, R267, R279) -/

theorem State.Tabled.tick {s : State} (h : s.Tabled) : s.tick.Tabled := by
  have keys : s.tick.parts.map (·.1) = s.parts.map (·.1) := by
    unfold State.tick
    rw [List.map_map]
    exact List.map_congr_left fun e _ => by dsimp only [Function.comp_apply]; split <;> rfl
  refine ⟨h.1, ?_⟩
  unfold Claims.Keyed
  rw [keys]
  exact h.2

/-! ### Events that are due at some time -/

theorem steps_deliverMsg {s : State} {m} : s.Steps (deliverMsg m s) := by
  unfold Machine.deliverMsg
  split
  · exact steps_execGets
  · exact steps_execGetx
  · exact steps_execGetm
  · exact steps_execTok
  · exact steps_execPut
  · exact steps_execPutp
  · exact steps_execFoldMsg
  · exact steps_execPart
  · exact steps_execPact
  · exact steps_execPdeact
  · exact steps_execPersistentAck
  · exact steps_execPreq
  · exact steps_execPdone

/-- The outcome that an answer may give is a step from `s`. -/
def State.StepsIf (s : State) (o : Option (Host.Outcome State Fault Refusal)) : Prop := ∀ p, o = some p → s.Steps p

theorem State.StepsIf.firstEvent {s : State} {es : List Event} (h : ∀ e ∈ es, s.Steps (e s)) : s.StepsIf (s.firstEvent es) := by
  induction es with
  | nil => exact nofun
  | cons e es ih =>
    obtain ⟨he, hes⟩ := List.forall_mem_cons.mp h
    obtain ⟨t, ht, k⟩ := he
    unfold State.firstEvent
    rw [ht]
    dsimp only
    split
    · exact ih hes
    · rintro _ ⟨⟩
      exact .next k

/-- Each of these events is a step, from whatever state. -/
def Tame (es : List Event) : Prop := ∀ e ∈ es, ∀ u : State, u.Steps (e u)

theorem Tame.nil : Tame [] := nofun

theorem Tame.cons {e : Event} {es : List Event} (he : ∀ u : State, u.Steps (e u)) (hes : Tame es) : Tame
    (e :: es) := List.forall_mem_cons.mpr ⟨he, hes⟩

theorem Tame.append {es fs : List Event} (he : Tame es) (hf : Tame fs) : Tame (es ++ fs) := List.forall_mem_append.mpr ⟨he, hf⟩

theorem Tame.ite {c : Prop} [Decidable c] {es fs : List Event} (he : Tame es) (hf : Tame fs) : Tame (if c then es else fs) := by
  split <;> assumption

theorem Tame.map {α : Type} {l : List α} {f : α → Event} (h : ∀ a (u : State), u.Steps (f a u)) : Tame (l.map f) :=
  List.forall_mem_map.mpr fun a _ => h a

theorem Tame.flatMap {α : Type} {l : List α} {f : α → List Event} (h : ∀ a, Tame (f a)) : Tame (l.flatMap f) := by
  intro e he
  obtain ⟨a, -, ha⟩ := List.mem_flatMap.mp he
  exact h a e ha

theorem tame_laneEvents {s : State} {l : Lane} : Tame (s.laneEvents l) :=
  .append (.append (.map fun _ _ => steps_execDeferredResultWrite) (.ite (.map fun _ _ => steps_execQueueWaitResume) .nil))
    (.ite .nil (.cons (fun _ => .next fun h => h.onLane fun _ _ h1 => h1.doRels) .nil))

theorem tame_teamEvents {t : Team} : Tame (teamEvents t) :=
  .append (.append (.ite .nil (.cons (fun _ => steps_execSmodeConvert) .nil)) (.ite .nil (.cons (fun _ => steps_execOrderedAtomRelease) .nil)))
    (.ite (.cons (fun _ => steps_execTeamRetire) .nil) .nil)

theorem tame_clusterEvents {c : Nat} {x : Cluster} : Tame (clusterEvents c x) :=
  .append (.ite (.cons (fun _ => steps_execMxeEntryComplete) .nil) (.ite .nil (.cons (fun _ => steps_execMxeEntryGrant) .nil)))
    (.ite .nil (.cons (fun _ => steps_execMxeHeldFiringEnter) .nil))

theorem tame_homeEvents {s : State} : Tame s.homeEvents :=
  .append (.append (.append (.append (.append
    (.ite .nil (.cons (fun _ => .next fun h => h.serveHost) .nil))
    (.ite .nil (.cons (fun _ => .next fun h => h.serveUa) .nil)))
    (.ite .nil (.cons (fun _ => .next fun h => h.serveUnit) .nil)))
    (.map fun _ _ => .next fun h => h.serveWaiting))
    (.map fun _ _ => .next fun h => h.retryCmd))
    (.map fun _ _ => .next fun h => h.retryResume)

/-- The dispatcher's events of a partition. -/
theorem tame_queueEvents {p q : Nat} : Tame
    (if q = dqNo then [execDqEntryTake p] else [execSqEntryNop p q, execSqEntryLaunch p q, execSqEntryEvsig p q, execSqEntryEvwait p q]) :=
  .ite (.cons (fun _ => steps_execDqEntryTake) .nil)
    (.cons (fun _ => steps_execSqEntryNop) (.cons (fun _ => steps_execSqEntryLaunch) (.cons (fun _ => steps_execSqEntryEvsig)
      (.cons (fun _ => steps_execSqEntryEvwait) .nil))))

theorem tame_partEvents {s : State} {p : Nat} {x : Part} : Tame (s.partEvents p x) := by
  unfold State.partEvents
  refine .append (.append (.append (.append (.append (.append (.append (.append (.append ?queue (.map fun _ _ => steps_execTeamPlace))
    (.cons (fun _ => steps_execPlacementHoldTimeout) .nil)) (.ite (.cons (fun _ => steps_execFixLatch) .nil) .nil))
    (.ite .nil (.cons (fun _ => steps_execFaultQueueHeldWrite) .nil))) (.ite .nil (.cons (fun _ => steps_execUnitStop) .nil))) ?life)
    (.map fun _ _ => steps_execL1waysTakeEffect)) (.map fun _ _ => steps_execTracePcSample)) (.map fun _ _ => steps_execAdmitrelTakeEffect)
  case queue =>
    split
    · exact tame_queueEvents
    · exact .nil
  case life =>
    have expiry (u : State) : u.Steps (execDraintExpiry p u) := steps_execDraintExpiry
    split
    · exact .cons (fun _ => steps_execPartitionResetDone) .nil
    · exact .cons expiry (.cons (fun _ => steps_execPartitionSuspendDone) .nil)
    · exact .ite .nil (.cons expiry (.cons (fun _ => steps_execPreemptSaveComplete) (.cons (fun _ => steps_execSavetExpiry) .nil)))
    · exact .nil
    · exact .nil
    · exact .nil

theorem tame_events {s : State} : Tame s.events :=
  .append (.append (.append (.append (.append (.append (.append (.append (.append (.append (.append (.append (.append (.append
    tame_homeEvents (.flatMap fun _ => tame_laneEvents)) (.flatMap fun _ => tame_teamEvents)) (.flatMap fun _ => tame_clusterEvents))
    (.map fun _ _ => steps_execCopyComplete)) (.flatMap fun _ => .cons (fun _ => steps_execCollComplete)
        (.cons (fun _ => steps_execCollTimeout) .nil)))
    (.flatMap fun _ => tame_partEvents)) (.map fun _ _ => steps_deliverMsg))
    (.flatMap fun _ => .flatMap fun _ => .cons (fun _ => steps_execTokenAttemptTimeout) (.cons (fun _ => steps_execTokenRetry) .nil)))
    (.map fun _ _ => steps_execPeerRequestTimeout)) (.map fun _ _ => steps_execScrubFrontAdvance)) (.map fun _ _ => steps_execExtentDrainComplete))
    (.flatMap fun _ => .cons (fun _ => steps_execHbmRequestServed) (.map fun _ _ => steps_execAgecapExpiry)))
        (.map fun _ _ => steps_execHotSideActivation))
    (.map fun _ _ => steps_execQstopDump)

theorem State.StepsIf.lazyEvent {s : State} : s.StepsIf s.lazyEvent := by
  unfold State.lazyEvent
  extract_lets es k
  intro o e
  refine .trans (t := { s with free := s.free + 1 }) (fun h => .same h rfl rfl rfl)
    (State.StepsIf.firstEvent (fun f hf => tame_events (s := s) f ?_ _) o e)
  rcases List.mem_append.mp hf with hf | hf
  · exact List.mem_of_mem_drop hf
  · exact List.mem_of_mem_take hf

theorem State.StepsIf.wordStep {s : State} : s.StepsIf s.wordStep := by
  intro o e
  obtain ⟨t, ht, rfl⟩ := Option.map_eq_some_iff.mp e
  exact .trans (fun h => h.choose t ht) (State.Steps.issueWord fun _ _ => steps_exec)

theorem State.StepsIf.orElse {s : State} {o p : Option (Host.Outcome State Fault Refusal)} (ho : s.StepsIf o) (hp : s.StepsIf p) :
    s.Steps ((o.orElse fun _ => p).getD (.next s)) := by
  cases o with
  | some q => exact ho q rfl
  | none =>
    cases p with
    | some q => exact hp q rfl
    | none => exact .stay

theorem steps_ownStep {s : State} : s.Steps s.ownStep := by
  unfold State.ownStep
  split
  · exact steps_exec
  · exact .ite (State.StepsIf.lazyEvent.orElse .wordStep) (State.StepsIf.wordStep.orElse .lazyEvent)

theorem steps_act {s : State} : s.Steps s.act := by
  unfold State.act
  split
  · exact .next (fun h1 => .input h1)
  · exact .ite .stay (.trans id steps_exec)
  · exact .ite (.issueWord (fun _ _ => steps_exec)) steps_ownStep

theorem State.Steps.ticked {s : State} {o : Host.Outcome State Fault Refusal} (h : s.Steps o) : s.Steps (Machine.ticked o) := by
  obtain ⟨t, rfl, k⟩ := h
  exact ⟨t.tick, rfl, fun hs => (k hs).tick⟩

theorem steps_step {s : State} : s.Steps (step s) :=
  .ite steps_execPolicyPeriodEnd (.ticked steps_act)

end Sys2Proof.Machine

/-- Settles O60: one lemma for each of the model's functions says that it keeps the tables in order, `step` the last. -/
theorem stepKeepsTables : Obligations.StepKeepsTables := by
  unfold Obligations.StepKeepsTables
  intro s t hmem hkey e
  obtain ⟨u, eu, keeps⟩ := Sys2Proof.Machine.steps_step (s := s)
  obtain rfl : u = t := Host.Outcome.next.inj (eu.symm.trans e)
  exact keeps ⟨hmem, hkey⟩

/-! ## Illegal words -/

namespace Sys2Proof.Machine
open Sys2Proof

/-- An outcome is what R14 and R336 give a word that may not act: nothing where no bundle issues, and the ILLEGAL trap in every active lane where the
word is illegal in its bundle. -/
def Guards (i : Instr) (s : State) (o : Host.Outcome State Fault Refusal) : Prop :=
  (s.lead = none → o = .next s) ∧ ∀ l a, s.lead = some l → s.illegalAt l i = some a → o = .next (raiseIllegal s a)

theorem guards_guarded {i : Instr} {s : State} {k : State → State} : Guards i s (guarded i s k) := by
  refine ⟨fun hlead => ?_, fun l a hlead hill => guarded_illegal hlead hill⟩
  unfold guarded
  rw [hlead]

theorem guards_laneOp {i : Instr} {s : State} {f : Lane → Lane} : Guards i s (laneOp i s f) :=
  guards_guarded

theorem guards_transfer {i : Instr} {s : State} {dest : State → Lane → Option DWord} {link : State → Lane → Lane} : Guards i s (transfer i s dest link) :=
  guards_guarded

theorem guards_deferOp {i : Instr} {s : State} {f : Lane → List (Nat × Word) × BitVec 5} : Guards i s (deferOp i s f) :=
  guards_guarded

theorem guards_signWord {i : Instr} {s : State} {v : Fin 16} {waits : Bool} : Guards i s (signWord i s v waits) :=
  guards_guarded

theorem guards_laneOpF {i : Instr} {s : State} {f : Lane → Lane × BitVec 5} : Guards i s (laneOpF i s f) :=
  guards_guarded

theorem guards_exchange {i : Instr} {s : State} {f : List Lane → Lane → Lane} : Guards i s (exchange i s f) :=
  guards_guarded

theorem guards_queueWord {i : Instr} {s : State} {q : Fin 64} {push : Bool} {wait : State → Lane → Option Bool}
    {go : State → Nat → State} : Guards i s (queueWord i s q push wait go) :=
  guards_guarded

theorem guards_cacheWord {i : Instr} {s : State} {a : VReg} {e : Scope} {flush : Bool} : Guards i s (cacheWord i s a e flush) :=
  guards_guarded

theorem guards_accessWord {i : Instr} {s : State} {k : State → Lane → List Word → State} : Guards i s (accessWord i s k) :=
  guards_guarded

theorem guards_tileWord {i : Instr} {s : State} {a : VReg} {l : Fin 8} {t : Fin 4} {fill : Bool} : Guards i s (tileWord i s a l t fill) :=
  guards_guarded

theorem guards_smodeWord {i : Instr} {s : State} {a : VReg} {toQueue : Bool} : Guards i s (smodeWord i s a toQueue) :=
  guards_guarded

theorem guards_atomWord {i : Instr} {s : State} {ord returns : Bool} : Guards i s (atomWord i s ord returns) :=
  guards_guarded

theorem guards_xferWord {i : Instr} {s : State} {a : VReg} {e : Scope} {gather : Bool} : Guards i s (xferWord i s a e gather) :=
  guards_guarded

theorem guards_rowWord {i : Instr} {s : State} {d a : VReg} : Guards i s (rowWord i s d a) :=
  guards_guarded

theorem guards_binOp {i : Instr} {s : State} {d a b : VReg} {f : Word → Word → Word} : Guards i s (binOp i s d a b f) :=
  guards_laneOp

theorem guards_triOp {i : Instr} {s : State} {d a b : VReg} {f : Word → Word → Word → Word} : Guards i s (triOp i s d a b f) :=
  guards_laneOp

theorem guards_unOp {i : Instr} {s : State} {d a : VReg} {f : Word → Word} : Guards i s (unOp i s d a f) :=
  guards_laneOp

theorem guards_fpOp {i : Instr} {s : State} {d a b : VReg} {f : Word → Word → Word → Word × Flags} : Guards i s (fpOp i s d a b f) :=
  guards_laneOpF

theorem guards_sfuOp {i : Instr} {s : State} {d a : VReg} {f : Word → Nat × Flags} : Guards i s (sfuOp i s d a f) :=
  guards_deferOp

theorem guards_ldWord {i : Instr} {s : State} : Guards i s (ldWord i s) :=
  guards_accessWord

theorem guards_stWord {i : Instr} {s : State} {d : VReg} : Guards i s (stWord i s d) :=
  guards_accessWord

theorem guards_kOp {i : Instr} {s : State} {k : KReg} {f : Lane → LA → LA} : Guards i s (kOp i s k f) :=
  guards_laneOp

theorem guards_mergeWord {i : Instr} {s : State} {f : Lane → LA → LA} : Guards i s (mergeWord i s f) :=
  guards_accessWord

/-- BRA counts a missed hint first, but not of an illegal word. -/
theorem guards_execBra {h : Hint} {p : PReg} {n : Bool} {d : BitVec 18} {s : State} : Guards (.bra h p n d) s (execBra h p n d s) := by
  unfold execBra transfer
  refine ⟨fun hlead => ?_, fun l a hlead hill => ?_⟩
  · simp only [hlead, Option.elim_none, guarded]
  · simp only [hlead, Option.elim_some, hill, Option.isNone_some, Bool.and_false, Bool.false_eq_true, if_false]
    exact guarded_illegal hlead hill

/-- A word that counts something first, but not where it is illegal. -/
theorem Guards.of_accessWord {i : Instr} {s : State} {o : Host.Outcome State Fault Refusal} {t : State} {k : State → Lane → List Word → State}
    (hnone : s.lead = none → o = .next s)
    (hsome : ∀ l, s.lead = some l → o = accessWord i (if (s.illegalAt l i).isNone then t else s) k) : Guards i s o := by
  refine ⟨hnone, fun l a hlead hill => ?_⟩
  rw [hsome l hlead, if_neg (by rw [hill]; exact Bool.false_ne_true)]
  exact guarded_illegal hlead hill

theorem guards_execLds {d a : VReg} {z : Size} {w : Fin 8} {i : BitVec 5} {s : State} : Guards (.lds d a z w i) s (execLds d a z w i s) :=
  .of_accessWord (fun hlead => by unfold execLds; rw [hlead]) (fun l hlead => by unfold execLds; rw [hlead])

theorem guards_execSts {d a : VReg} {z : Size} {w : Fin 8} {i : BitVec 5} {s : State} : Guards (.sts d a z w i) s (execSts d a z w i s) :=
  .of_accessWord (fun hlead => by unfold execSts; rw [hlead]) (fun l hlead => by unfold execSts; rw [hlead])

/-- Every word's meaning stands behind the guard of its shape. -/
theorem guards_exec {i : Instr} {s : State} (hword : i.isWord = true) : Guards i s (exec i s) := by
  unfold exec
  cases i with
  | bra => exact guards_execBra
  | lds => exact guards_execLds
  | sts => exact guards_execSts
  | exit | yield | trap | tret | bkpt | bar | bara | barw | cbar | gbar | waitph | evsig | evwait | fence | drain | mfs | mts | clk
    | cvdecl | mov | pref | mxa | mxz | mxrd | launch | coll | collw | rowrel | rowrelAll => exact guards_guarded
  | nop | rndLo | rndHi | sel | icmp | ladd | iaddi | andi | ori | xori | shlImm | shrImm | sarImm | movi | movh | laddi | fclass | pslice
    | pmerge | kclr | knorm | lit => exact guards_laneOp
  | ret | call | brx => exact guards_transfer
  | cntrd | fdiv | fred | cvtF32Mx | qmx | dqmx | kseg | kstat | krnd => exact guards_deferOp
  | cvsign | cvsignW => exact guards_signWord
  | fcmp | cvt => exact guards_laneOpF
  | shfl | shflImm | voteOr | voteAnd | voteMask | voteCount | voteFirst | vmatch => exact guards_exchange
  | qpush | qpop => exact guards_queueWord
  | cinv | cflush => exact guards_cacheWord
  | kld | kst => exact guards_accessWord
  | mxsp | mxfl => exact guards_tileWord
  | smodeScratch | smodeQueue => exact guards_smodeWord
  | atom | atomNr | cas => exact guards_atomWord
  | cpy | gthr => exact guards_xferWord
  | rowpin | rowqry => exact guards_rowWord
  | iadd | isub | imul | imulhI32 | imulhN32 | idivI32 | idivN32 | iremI32 | iremN32 | iminI32 | iminN32 | imaxI32 | imaxN32 | and | or
    | xor | shl | shr | sar | bfeI32 | bfeN32 => exact guards_binOp
  | imad | shf | bfi => exact guards_triOp
  | iabs | popc | clz | brev => exact guards_unOp
  | fadd | fsub | fmul | ffma | fmin | fmax | fadd2Bf16 | fadd2F16 | fma2Bf16 | fma2F16 => exact guards_fpOp
  | frcp | frsq | fsqrt | fexp2 | flog2 | fsin | fcos => exact guards_sfuOp
  | ldB8 | ldB16 | ldB32 | ldB64 | ldB128 => exact guards_ldWord
  | stB8 | stB16 | stB32 | stB64 | stB128 => exact guards_stWord
  | kadd | kfma | kdot2 | kdot4 | kiadd | kmrg | kmrgNeg | kscl => exact guards_kOp
  | aacc | aaccMul | amrg | amrgNeg => exact guards_mergeWord
  | orderedAtomRelease | smodeConvert | bundleFormation | deferredResultWrite | trapEntry | queueWaitResume | mxeEntryGrant
    | mxeEntryComplete | mxeHeldFiringEnter | mxeSelftest | copyComplete | collComplete | collTimeout | sqDoorbell | sqEntryNop
    | sqEntryLaunch | sqEntryEvsig | sqEntryEvwait | dqEntryTake | teamPlace | placementHoldTimeout | teamRetire | gets | getx | getm | tok
    | put | putp | foldMsg | part | pact | pdeact | persistentAck | preq | pdone | tokenAttemptTimeout | tokenRetry | hostMemRead
    | hostMemWrite | birsp | snpinv | snpdata | dieLost | bankRefresh | hotSideActivation | hotWindowEnd | agecapExpiry | tlbLeaseExpiry
    | fotdataWrite | scrubFrontAdvance | extentEntryWrite | extentDrain | extentDrainComplete | ptsyncRead | replay | replayAbort
    | faultQueueHeldWrite | preempt | preemptResume | draintExpiry | savetExpiry | preemptSaveComplete | partitionActivate | partitionHalt
    | partitionReset | partitionSuspend | partitionResume | partitionDeactivate | partitionResetDone | partitionSuspendDone | unitStop
    | qstopDump | qresume | cbClaim | cbRelease | cbClear | cbConfig | fixLatch | fixin | fixRegisterWrite | tracePcSample
    | policyPeriodEnd | chronCommit | tvecWrite | l1waysWrite | l1waysTakeEffect | admitrelWrite | admitrelTakeEffect | trmarkWrite
    | fflagsWrite | leaseWrite | ctxregWrite | eventMmioWrite | msixUnmask | registerWrite | vfFlr | deviceReset | firmwareRecoveryLoad
    | getVersion | getCapabilities | negotiateAlgorithms | getDigests | getCertificate | challenge | getMeasurements | powerClockStep
    | packagePowerReport | thermalSensorEvent | d3hotRequest | linkUp | ualinkRead | ualinkWrite | ualinkAtomic | ualinkResponse
    | peerRequestTimeout | vkacc | visum | vmaxr | vmax | vmin | vbcast | vgath | hbmRequestServed | cxlCacheResponse | d0Request
    | plimWrite | firmwareReady => cases hword

/-- A reserved value is the first reason of a word's illegality (log entry 22). -/
theorem State.illegalAt_of_reservedUse {s : State} {l : Lane} {i : Instr} (h : reservedUse i = true) : s.illegalAt l i = some 0 := by
  unfold State.illegalAt
  exact if_pos h

/-- A reason before the last does not take it away. -/
theorem exists_ite_some {c : Prop} [Decidable c] {a : Nat} {o : Option Nat} (h : ∃ b, o = some b) : ∃ b, (if c then some a else o) = some b := by
  split
  · exact ⟨a, rfl⟩
  · exact h

/-- A word that is misaligned by itself is illegal in every lane, if perhaps for another reason. -/
theorem State.illegalAt_of_misaligned {s : State} {l : Lane} {i : Instr} (h : misaligned i = true) : ∃ b, s.illegalAt l i = some b := by
  unfold State.illegalAt
  exact exists_ite_some (exists_ite_some (exists_ite_some ⟨2, if_pos (by rw [h, Bool.true_or])⟩))

theorem State.illegalAt_of_illegalAux {s : State} {l : Lane} {i : Instr} {a : Nat} (h : illegalAux i = some a) : ∃ b, s.illegalAt l i = some b := by
  unfold illegalAux at h
  split at h
  · next hres => exact ⟨0, illegalAt_of_reservedUse hres⟩
  · split at h
    · next hmis => exact illegalAt_of_misaligned hmis
    · cases h

theorem State.illegalAt_le_three {s : State} {l : Lane} {i : Instr} {a : Nat} (h : s.illegalAt l i = some a) : a ≤ 3 := by
  unfold State.illegalAt at h
  grind

theorem State.Steps.goesOn {s : State} {o : Host.Outcome State Fault Refusal} (h : s.Steps o) : Outcome.goesOn o := by
  obtain ⟨t, rfl, -⟩ := h
  trivial

end Sys2Proof.Machine

section
open Sys2Proof.Machine

/-- Settles O54: every word answers as R14 and R336 say where it may not act, by its shared shape; that every instruction and every step goes on is a part
of `steps_exec` and `steps_step`. -/
theorem illegalWords : Obligations.IllegalWords := by
  unfold Obligations.IllegalWords
  refine ⟨fun i s l a hword hlead hill => ?_, fun i s hword hlead => ?_, fun i s l => ⟨?_, ?_, ?_⟩, fun i s => ?_, fun s => ?_⟩
  · exact (guards_exec hword).2 l a hlead hill
  · exact (guards_exec hword).1 hlead
  · exact State.illegalAt_of_reservedUse
  · exact fun a => State.illegalAt_of_illegalAux
  · exact fun a => State.illegalAt_le_three
  · obtain ⟨t, e, -⟩ := steps_exec (s := s) (i := i)
    exact ⟨t, e⟩
  · exact steps_step.goesOn

end

/-! ## Byte memories -/

namespace Sys2Proof.Machine
open Sys2Proof

theorem Memory.wfFrom_cons {lo a : Nat} {b : Byte} {r : Memory} (h : Memory.wfFrom lo ((a, b) :: r) = true) :
    lo ≤ a ∧ b ≠ memDefault ∧ Memory.wfFrom (a + 1) r = true := by
  simpa [Memory.wfFrom, and_assoc] using h

theorem readByte_cons_self {a : Nat} {b : Byte} {r : Memory} : readByte ((a, b) :: r) a = b := if_pos rfl

theorem readByte_cons_of_ne {a c : Nat} {b : Byte} {r : Memory} (h : c ≠ a) : readByte ((a, b) :: r) c = readByte r c := if_neg h

/-- Of two canonical memories that read alike, the second does not start after the first. -/
theorem head_le_of_readByte_eq {lo lo' a a' : Nat} {b b' : Byte} {r r' : Memory} (h : Memory.wfFrom lo ((a, b) :: r) = true)
    (h' : Memory.wfFrom lo' ((a', b') :: r') = true) (e : ∀ c, readByte ((a, b) :: r) c = readByte ((a', b') :: r') c) : a' ≤ a := by
  obtain ⟨-, hb, -⟩ := Memory.wfFrom_cons h
  obtain ⟨-, hb', hr'⟩ := Memory.wfFrom_cons h'
  by_contra hlt
  refine hb ?_
  rw [← readByte_cons_self (a := a) (b := b) (r := r), e a, readByte_cons_of_ne (by omega), readByte_of_lt hr' (by omega)]

/-- Canonical memories that read alike are the same list. -/
theorem Memory.eq_of_readByte_eq {m m' : Memory} {lo : Nat} (h : Memory.wfFrom lo m = true) (h' : Memory.wfFrom lo m' = true)
    (e : ∀ a, readByte m a = readByte m' a) : m = m' := by
  induction m generalizing m' lo with
  | nil =>
    cases m' with
    | nil => rfl
    | cons c' r' =>
      obtain ⟨-, hb', -⟩ := Memory.wfFrom_cons h'
      exact absurd ((e c'.1).trans readByte_cons_self).symm hb'
  | cons c r ih =>
    obtain ⟨a, b⟩ := c
    cases m' with
    | nil =>
      obtain ⟨-, hb, -⟩ := Memory.wfFrom_cons h
      exact absurd (readByte_cons_self.symm.trans (e a)) hb
    | cons c' r' =>
      obtain ⟨a', b'⟩ := c'
      obtain rfl : a = a' := Nat.le_antisymm (head_le_of_readByte_eq h' h fun c => (e c).symm) (head_le_of_readByte_eq h h' e)
      obtain ⟨-, -, hr⟩ := Memory.wfFrom_cons h
      obtain ⟨-, -, hr'⟩ := Memory.wfFrom_cons h'
      obtain rfl : b = b' := readByte_cons_self.symm.trans ((e a).trans readByte_cons_self)
      refine congrArg _ (ih hr hr' fun x => ?_)
      by_cases hx : x < a + 1
      · rw [readByte_of_lt hr hx, readByte_of_lt hr' hx]
      · have hne : x ≠ a := by omega
        rw [← readByte_cons_of_ne hne (r := r), ← readByte_cons_of_ne hne (r := r'), e x]

/-- A canonical memory is a function of its bytes. -/
theorem Memory.ext {m m' : Memory} (h : m.wf = true) (h' : m'.wf = true) (e : ∀ a, readByte m a = readByte m' a) : m = m' :=
  Memory.eq_of_readByte_eq h h' e

theorem writeBytes_readBytes {m : Memory} (h : m.wf = true) (a n : Nat) : writeBytes m a (readBytes m a n) = m := by
  refine Memory.ext (Memory.wf_writeBytes h a _) h fun c => ?_
  rw [readByte_writeBytes h, readBytes_length]
  split
  · next hc =>
    have hget := readBytes_getElem? m a n (c - a) (by omega)
    rw [show a + (c - a) = c by omega] at hget
    rw [List.getElem!_eq_getElem?_getD, hget, Option.getD_some]
  · rfl

theorem writeBytes_writeBytes_same {m : Memory} (h : m.wf = true) (a : Nat) {bs cs : List Byte} (hlen : bs.length = cs.length) :
    writeBytes (writeBytes m a bs) a cs = writeBytes m a cs := by
  have hb := Memory.wf_writeBytes h a bs
  refine Memory.ext (Memory.wf_writeBytes hb a cs) (Memory.wf_writeBytes h a cs) fun c => ?_
  rw [readByte_writeBytes hb, readByte_writeBytes h, readByte_writeBytes h, hlen]
  split <;> rfl

theorem writeBytes_comm {m : Memory} (h : m.wf = true) {a b : Nat} {bs cs : List Byte} (hapart : a + bs.length ≤ b) :
    writeBytes (writeBytes m a bs) b cs = writeBytes (writeBytes m b cs) a bs := by
  have ha := Memory.wf_writeBytes h a bs
  have hb := Memory.wf_writeBytes h b cs
  refine Memory.ext (Memory.wf_writeBytes ha b cs) (Memory.wf_writeBytes hb a bs) fun c => ?_
  rw [readByte_writeBytes ha, readByte_writeBytes h, readByte_writeBytes hb, readByte_writeBytes h]
  by_cases hc : b ≤ c
  · rw [if_neg (c := a ≤ c ∧ c < a + bs.length) (by omega)]
    rw [if_neg (c := a ≤ c ∧ c < a + bs.length) (by omega)]
  · rw [if_neg (c := b ≤ c ∧ c < b + cs.length) (by omega)]
    rw [if_neg (c := b ≤ c ∧ c < b + cs.length) (by omega)]

theorem toNat_leBytes_getElem! (x : Nat) {n i : Nat} (hi : i < n) : (leBytes x n)[i]!.toNat = x / 256 ^ i % 256 := by
  induction n generalizing x i with
  | zero => omega
  | succ n ih =>
    cases i with
    | zero => simp [leBytes]
    | succ i =>
      rw [leBytes, List.getElem!_cons_succ, ih (x / 256) (by omega), Nat.div_div_eq_div_mul, Nat.pow_succ, Nat.mul_comm 256]

theorem readByte_writeNat {m : Memory} (h : m.wf = true) (a x : Nat) {n i : Nat} (hi : i < n) :
    (readByte (writeNat m a x n) (a + i)).toNat = x / 256 ^ i % 256 := by
  rw [writeNat, readByte_writeBytes h, leBytes_length, if_pos (by omega), Nat.add_sub_cancel_left, toNat_leBytes_getElem! x hi]

end Sys2Proof.Machine

section
open Sys2Proof.Machine

/-- Settles O55: a canonical memory is determined by what it reads, so each law of writes follows from what is read after them. -/
theorem memoryIsItsBytes : Obligations.MemoryIsItsBytes := by
  unfold Obligations.MemoryIsItsBytes
  exact ⟨fun _ _ => Memory.ext, fun _ a n h => writeBytes_readBytes h a n, fun _ a _ _ h hlen => writeBytes_writeBytes_same h a hlen,
    fun _ _ _ _ _ h hapart => writeBytes_comm h hapart, fun _ a _ x _ h hi => readByte_writeNat h a x hi⟩

end

/-! ## The machine after reset -/

namespace Sys2Proof.Machine
open Sys2Proof

theorem State.part_reset (p : Nat) : State.reset.part p = part0 := rfl

theorem State.line_reset (ln : Nat) : State.reset.line ln = line0 := rfl

theorem State.bank_reset (p n : Nat) : State.reset.bank p n = bank0 := rfl

theorem State.fotOf_reset (f : Nat) : State.reset.fotOf f = 0 := rfl

/-- A line's tokens are all at its home (R151). -/
theorem line0_holds : line0.holds[(8 : Fin 10)].t = 16 ∧ line0.mash = false ∧ ∀ a : Fin 10, a ≠ 8 → line0.holds[a].t = 0 := by decide

/-- Memory and partitions are empty. -/
theorem State.tabled_reset : State.reset.Tabled := ⟨⟨rfl, rfl⟩, .nil⟩

end Sys2Proof.Machine

section
open Sys2Proof.Machine

/-- Settles O56: after reset every table is empty, so each part, line and bank is the one that an empty table holds. -/
theorem resetState : Obligations.ResetState := by
  unfold Obligations.ResetState
  obtain ⟨hmem, hkey⟩ := State.tabled_reset
  refine ⟨rfl, rfl, rfl, hmem, hkey, rfl, rfl, rfl, rfl, fun f => ?fot, fun ln => ?line, fun p => ?part⟩
  case fot =>
    rw [State.fotOf_reset]
    rfl
  case line =>
    rw [State.line_reset]
    exact line0_holds
  case part =>
    simp only [State.part_reset, State.bank_reset]
    exact ⟨rfl, rfl, rfl, rfl, rfl, rfl, rfl, rfl, rfl, rfl, rfl, rfl, rfl, rfl, rfl, fun _ => rfl, fun _ => rfl, fun _ => ⟨rfl, rfl⟩⟩

end

/-! ## Rounding an exact real -/

namespace Sys2Proof.Machine
open Sys2Proof Sys2Proof.Claims

/-- The real that a decoded number stands for; none for a NaN or an infinity. -/
def Num.value? : Num → Option ℚ
  | .zero _ => some 0
  | .fin n m e => some ((if n then -1 else 1) * m * (2 : ℚ) ^ e)
  | .nan _ => none
  | .inf _ => none

theorem finite?_eq_value? (f : Fmt) (bits : Nat) : finite? f bits = (f.decode bits).value? := by
  unfold finite? Num.value?
  cases f.decode bits <;> rfl

/-- A format whose exponent and mantissa have the widths that its special codes suppose (R21). -/
structure Fmt.Wf (f : Fmt) : Prop where
  w_pos : 1 ≤ f.w
  eb_pos : 1 ≤ f.eb
  e4m3 : f.special = .e4m3 → f.w = 3 ∧ f.eb = 4
  e2m1 : f.special = .e2m1 → f.eb + f.w = 3

/-- The magnitude of a code, and what it would be for codes past the largest (R22): steps of one size in each binade, the lowest binade twice as long. -/
def Fmt.mag (f : Fmt) (c : Nat) : ℚ := ((c - (c / 2 ^ f.w - 1) * 2 ^ f.w : Nat) : ℚ) * (2 : ℚ) ^ ((c / 2 ^ f.w - 1 : Nat) + f.emin - f.w)

/-- A code in or at the end of a binade. -/
theorem Fmt.mag_add (f : Fmt) {E j : Nat} (hE : E = 0 ∨ 2 ^ f.w ≤ j) (hj : j ≤ 2 ^ (f.w + 1)) :
    f.mag (E * 2 ^ f.w + j) = j * (2 : ℚ) ^ (E + f.emin - f.w) := by
  have hpos : 0 < 2 ^ f.w := Nat.two_pow_pos _
  rw [Nat.pow_succ] at hj
  obtain hlt | rfl := Nat.lt_or_eq_of_le hj
  · have hdiv : (E * 2 ^ f.w + j) / 2 ^ f.w - 1 = E := by
      rw [Nat.mul_comm, Nat.mul_add_div hpos]
      have h1 : j / 2 ^ f.w < 2 := Nat.div_lt_of_lt_mul hlt
      obtain rfl | hj' := hE
      · omega
      · have h2 : 0 < j / 2 ^ f.w := Nat.div_pos hj' hpos
        omega
    rw [Fmt.mag, hdiv, Nat.add_sub_cancel_left]
  · have hdiv : (E * 2 ^ f.w + 2 ^ f.w * 2) / 2 ^ f.w - 1 = E + 1 := by
      rw [← Nat.mul_comm 2, ← Nat.add_mul, Nat.mul_div_cancel _ hpos]
      omega
    have hsub : E * 2 ^ f.w + 2 ^ f.w * 2 - (E + 1) * 2 ^ f.w = 2 ^ f.w := by
      rw [Nat.add_mul]
      omega
    rw [Fmt.mag, hdiv, hsub, show ((E + 1 : Nat) : Int) + f.emin - f.w = (E + f.emin - f.w) + 1 by push_cast; ring, zpow_add_one₀ two_ne_zero]
    push_cast
    ring

/-- Each code lies in a binade. -/
theorem Fmt.exists_binade (f : Fmt) (c : Nat) : ∃ E j, c = E * 2 ^ f.w + j ∧ (E = 0 ∨ 2 ^ f.w ≤ j) ∧ j < 2 ^ (f.w + 1) := by
  have hpos : 0 < 2 ^ f.w := Nat.two_pow_pos _
  have hdm := Nat.div_add_mod' c (2 ^ f.w)
  have hlt := Nat.mod_lt c hpos
  rw [Nat.pow_succ]
  by_cases h : c / 2 ^ f.w = 0
  · exact ⟨0, c, by omega, .inl rfl, by rw [h] at hdm; omega⟩
  · refine ⟨c / 2 ^ f.w - 1, 2 ^ f.w + c % 2 ^ f.w, ?_, .inr (by omega), by omega⟩
    obtain ⟨e, he⟩ := Nat.exists_eq_succ_of_ne_zero h
    rw [he] at hdm ⊢
    rw [Nat.succ_mul] at hdm
    rw [Nat.succ_sub_one]
    omega

theorem Fmt.mag_lt_succ (f : Fmt) (c : Nat) : f.mag c < f.mag (c + 1) := by
  obtain ⟨E, j, rfl, hE, hj⟩ := f.exists_binade c
  rw [f.mag_add hE hj.le, Nat.add_assoc, f.mag_add (hE.imp id Nat.le_succ_of_le) hj]
  exact mul_lt_mul_of_pos_right (by push_cast; linarith) (by positivity)

theorem Fmt.mag_strictMono (f : Fmt) : StrictMono f.mag := strictMono_nat_of_lt_succ f.mag_lt_succ

theorem Fmt.mag_zero (f : Fmt) : f.mag 0 = 0 := by simp [Fmt.mag]

theorem Fmt.mag_nonneg (f : Fmt) (c : Nat) : 0 ≤ f.mag c := f.mag_zero ▸ f.mag_strictMono.monotone c.zero_le

/-! ### The elements of a format -/

theorem Fmt.two_pow_width (f : Fmt) : 2 ^ f.width = f.signBit * 2 := by
  rw [Fmt.width, Fmt.signBit, show 1 + f.eb + f.w = f.eb + f.w + 1 by omega, Nat.pow_succ]

theorem Fmt.signBit_eq (f : Fmt) : f.signBit = 2 ^ f.eb * 2 ^ f.w := Nat.pow_add ..

/-- What an element with a sign and a magnitude code decodes to: past the largest finite code, an infinity or a NaN (R21 to R23). -/
theorem Fmt.decode_signed {f : Fmt} (hf : f.Wf) (n : Bool) {c : Nat} (hc : c < f.signBit) :
    f.decode (f.signed n c) =
      if f.maxCode < c then (if c % 2 ^ f.w = 0 then .inf n else .nan (f.special == .ieee && c % 2 ^ f.w / 2 ^ (f.w - 1) % 2 == 0))
      else if c / 2 ^ f.w = 0 then (if c % 2 ^ f.w = 0 then .zero n else .fin n (c % 2 ^ f.w) (f.emin - f.w))
      else .fin n (2 ^ f.w + c % 2 ^ f.w) ((c / 2 ^ f.w : Nat) - f.bias - f.w) := by
  have hsign : (f.signed n c / f.signBit % 2 == 1) = n ∧ f.signed n c % f.signBit = c := by
    cases n
    · simp [Fmt.signed, Nat.div_eq_of_lt hc, Nat.mod_eq_of_lt hc]
    · simp [Fmt.signed, Nat.add_div_left _ (Nat.zero_lt_of_lt hc), Nat.div_eq_of_lt hc, Nat.mod_eq_of_lt hc]
  have hpos : 0 < 2 ^ f.w := Nat.two_pow_pos _
  have heb : 2 ≤ 2 ^ f.eb := Nat.le_self_pow (by have := hf.eb_pos; omega) 2
  unfold Fmt.decode
  rw [hsign.1, hsign.2]
  refine if_congr ?special rfl rfl
  unfold Fmt.maxCode Fmt.infCode
  rw [Fmt.signBit_eq] at hc
  cases hs : f.special with
  | ieee =>
    have h1 : c / 2 ^ f.w < 2 ^ f.eb := Nat.div_lt_of_lt_mul (by rwa [Nat.mul_comm])
    have h2 : 0 < (2 ^ f.eb - 1) * 2 ^ f.w := Nat.mul_pos (by omega) hpos
    have h3 := Nat.le_div_iff_mul_le hpos (x := 2 ^ f.eb - 1) (y := c)
    simp only [beq_iff_eq]
    omega
  | e4m3 =>
    obtain ⟨hw, he⟩ := hf.e4m3 hs
    rw [hw, he] at hc
    simp only [beq_iff_eq]
    omega
  | e2m1 =>
    rw [← Nat.pow_add, hf.e2m1 hs] at hc
    simp only [Bool.false_eq_true, false_iff]
    omega

/-- The value of a magnitude code (R22). -/
theorem Fmt.mag_eq (f : Fmt) (c : Nat) : f.mag c = if c / 2 ^ f.w = 0 then ((c % 2 ^ f.w : Nat) : ℚ) * (2 : ℚ) ^ (f.emin - f.w)
    else ((2 ^ f.w + c % 2 ^ f.w : Nat) : ℚ) * (2 : ℚ) ^ ((c / 2 ^ f.w : Nat) - f.bias - f.w) := by
  have hdm := Nat.div_add_mod' c (2 ^ f.w)
  unfold Fmt.mag
  split
  · next h =>
    rw [h, Nat.zero_mul] at hdm
    rw [h, show c - (0 - 1) * 2 ^ f.w = c % 2 ^ f.w by omega]
    norm_num
  · next h =>
    obtain ⟨e, he⟩ := Nat.exists_eq_succ_of_ne_zero h
    rw [he, Nat.succ_mul] at hdm
    rw [he, Nat.succ_sub_one, show c - e * 2 ^ f.w = 2 ^ f.w + c % 2 ^ f.w by omega, Fmt.emin]
    congr 2
    push_cast
    ring

/-- An element with a sign and a magnitude code (R22). -/
theorem Fmt.finite?_signed {f : Fmt} (hf : f.Wf) (n : Bool) {c : Nat} (hc : c < f.signBit) :
    finite? f (f.signed n c) = if c ≤ f.maxCode then some ((if n then -1 else 1) * f.mag c) else none := by
  rw [finite?_eq_value?, Fmt.decode_signed hf n hc, Fmt.mag_eq]
  by_cases hmax : f.maxCode < c
  · rw [if_pos hmax, if_neg (Nat.not_le.2 hmax)]
    split <;> rfl
  · rw [if_neg hmax, if_pos (Nat.not_lt.1 hmax)]
    split
    · split
      · next hm => simp [Num.value?, hm]
      · simp only [Num.value?, mul_assoc]
    · simp only [Num.value?, mul_assoc]

/-- Each element has a sign and a magnitude code. -/
theorem Fmt.exists_signed (f : Fmt) {bits : Nat} (hb : bits < 2 ^ f.width) : ∃ n c, c < f.signBit ∧ bits = f.signed n c := by
  rw [Fmt.two_pow_width] at hb
  by_cases h : bits < f.signBit
  · exact ⟨false, bits, h, rfl⟩
  · exact ⟨true, bits - f.signBit, by omega, by simp [Fmt.signed]; omega⟩

theorem Fmt.signed_lt (f : Fmt) (n : Bool) {c : Nat} (hc : c < f.signBit) : f.signed n c < 2 ^ f.width := by
  rw [Fmt.two_pow_width]
  cases n <;> simp [Fmt.signed] <;> omega

theorem Fmt.testBit_signed (f : Fmt) (n : Bool) {c : Nat} (hc : c < f.signBit) : (f.signed n c).testBit (f.width - 1) = n := by
  rw [Fmt.width, show 1 + f.eb + f.w - 1 = f.eb + f.w by omega]
  cases n
  · exact Nat.testBit_lt_two_pow hc
  · rw [Fmt.signed, if_pos rfl, Fmt.signBit, Nat.testBit_two_pow_add_eq, Nat.testBit_lt_two_pow hc, Bool.not_false]

theorem Fmt.signed_mod_two {f : Fmt} (hf : f.Wf) (n : Bool) (c : Nat) : f.signed n c % 2 = c % 2 := by
  have h : f.signBit = 2 * 2 ^ (f.eb + f.w - 1) := by
    rw [Fmt.signBit, ← Nat.pow_succ', show (f.eb + f.w - 1).succ = f.eb + f.w by have := hf.w_pos; omega]
  cases n <;> simp [Fmt.signed, h]

theorem Fmt.maxCode_lt {f : Fmt} (hf : f.Wf) : f.maxCode < f.signBit := by
  have hpos : 0 < 2 ^ f.w := Nat.two_pow_pos _
  have heb : 0 < 2 ^ f.eb := Nat.two_pow_pos _
  unfold Fmt.maxCode Fmt.infCode
  cases hs : f.special with
  | ieee =>
    rw [Fmt.signBit_eq, Nat.sub_mul]
    have := Nat.mul_pos heb hpos
    dsimp only
    omega
  | e4m3 =>
    obtain ⟨hw, he⟩ := hf.e4m3 hs
    rw [Fmt.signBit, hw, he]
    norm_num
  | e2m1 =>
    rw [Fmt.signBit, hf.e2m1 hs]
    norm_num

/-- What a format holds: the magnitudes up to the largest, with either sign. -/
theorem Fmt.holds_iff {f : Fmt} (hf : f.Wf) (u : ℚ) : Holds f u ↔ ∃ (n : Bool) (j : Nat), j ≤ f.maxCode ∧ u = (if n then -1 else 1) * f.mag j := by
  constructor
  · rintro ⟨bits, hb, e⟩
    obtain ⟨n, c, hc, rfl⟩ := f.exists_signed hb
    rw [Fmt.finite?_signed hf n hc] at e
    split at e
    · next hle => exact ⟨n, c, hle, (Option.some.inj e).symm⟩
    · cases e
  · rintro ⟨n, j, hj, rfl⟩
    have hlt := hj.trans_lt (Fmt.maxCode_lt hf)
    exact ⟨f.signed n j, f.signed_lt n hlt, by rw [Fmt.finite?_signed hf n hlt, if_pos hj]⟩

/-! ### Choosing between two neighbours -/

/-- Of the numbered values lo < hi, number k and the next, a lies in [lo, hi) and the mode rounds it to number c (R33). -/
structure Picks (rm : Rm) (n : Bool) (k : Nat) (lo a hi : ℚ) (c : Nat) (inexact : Bool) : Prop where
  lo_le : lo ≤ a
  lt_hi : a < hi
  inexact_iff : inexact = true ↔ lo ≠ a
  eq : c = if roundsUp rm n (k % 2 == 1) (cmp (2 * a) (lo + hi)) inexact then k + 1 else k

theorem cmp_eq_ite_of_nat (a b : Nat) : cmp a b = if a < b then .lt else if a = b then .eq else .gt := by
  rcases lt_trichotomy a b with h | rfl | h
  · rw [if_pos h, (cmp_eq_lt_iff a b).2 h]
  · rw [if_neg (lt_irrefl a), if_pos rfl, cmp_self_eq_eq]
  · rw [if_neg h.not_gt, if_neg h.ne', (cmp_eq_gt_iff a b).2 h]

/-- Rounding to a multiple of 2^q chooses between neighbouring multiples. -/
theorem roundTo_picks (rm : Rm) (n : Bool) (m : Nat) (e q : Int) :
    ∃ j : Nat, Picks rm n j (j * (2 : ℚ) ^ q) (m * (2 : ℚ) ^ e) ((j + 1 : Nat) * (2 : ℚ) ^ q) (roundTo rm n m e false q).1 (roundTo rm n m e false q).2 := by
  have hq : (0 : ℚ) < 2 ^ q := by positivity
  unfold roundTo
  split
  · next hle =>
    have ha : (m : ℚ) * 2 ^ e = ((m * 2 ^ (e - q).toNat : Nat) : ℚ) * 2 ^ q := by
      push_cast
      rw [mul_assoc, ← zpow_natCast, ← zpow_add₀ two_ne_zero, Int.toNat_of_nonneg (by omega), Int.sub_add_cancel]
    refine ⟨_, ha.ge, by rw [ha]; exact mul_lt_mul_of_pos_right (by push_cast; linarith) hq, by simp [ha], ?_⟩
    rw [ha, (cmp_eq_lt_iff _ _).2 (by push_cast; linarith)]
    cases rm <;> rfl
  · next hlt =>
    set d := 2 ^ (q - e).toNat with hd
    have hdq : (2 : ℚ) ^ q = d * 2 ^ e := by
      rw [hd, Nat.cast_pow, Nat.cast_ofNat, ← zpow_natCast, ← zpow_add₀ two_ne_zero, Int.toNat_of_nonneg (by omega), Int.sub_add_cancel]
    have hp : (0 : ℚ) < 2 ^ e := by positivity
    have hdm : (m : ℚ) = (m / d : Nat) * d + (m % d : Nat) := by exact_mod_cast (Nat.div_add_mod' m d).symm
    have hmod : m % d < d := Nat.mod_lt m (Nat.two_pow_pos _)
    have hlo : ((m / d : Nat) : ℚ) * 2 ^ q = (m / d : Nat) * d * 2 ^ e := by rw [hdq, mul_assoc]
    have hhi : ((m / d + 1 : Nat) : ℚ) * 2 ^ q = ((m / d : Nat) * d + d) * 2 ^ e := by
      rw [hdq]
      push_cast
      ring
    have hcmp : cmp (2 * (m * (2 : ℚ) ^ e)) ((m / d : Nat) * 2 ^ q + (m / d + 1 : Nat) * 2 ^ q) = cmp (2 * (m % d)) d := by
      have hl : 2 * (m * (2 : ℚ) ^ e) = ((2 * (m % d) : Nat) + 2 * ((m / d : Nat) * d)) * 2 ^ e := by
        rw [hdm]
        push_cast
        ring
      have hr : ((m / d : Nat) : ℚ) * 2 ^ q + (m / d + 1 : Nat) * 2 ^ q = (d + 2 * ((m / d : Nat) * d)) * 2 ^ e := by
        rw [hlo, hhi]
        ring
      rw [hl, hr, cmp_mul_pos_right hp, cmp_add_right, Nat.strictMono_cast.cmp_map_eq]
    refine ⟨m / d, ?_, ?_, ?_, ?_⟩
    · rw [hlo, hdm]
      exact mul_le_mul_of_nonneg_right (by simp) hp.le
    · rw [hhi]
      exact mul_lt_mul_of_pos_right (by rw [hdm]; gcongr) hp
    · rw [hlo, hdm, Ne, mul_left_inj' hp.ne']
      simp
    · rw [hcmp]
      dsimp only
      rw [cmp_eq_ite_of_nat]
      congr 3

/-- The exponent of m * 2^e, as `Fmt.roundFin` takes it. -/
def topOf (m : Nat) (e : Int) : Int := (Nat.log2 m : Int) + e

theorem two_zpow_topOf_le {m : Nat} (hm : 0 < m) (e : Int) : (2 : ℚ) ^ topOf m e ≤ m * 2 ^ e := by
  rw [topOf, zpow_add₀ two_ne_zero, zpow_natCast]
  gcongr
  exact_mod_cast Nat.log2_self_le hm.ne'

theorem lt_two_zpow_topOf_succ (m : Nat) (e : Int) : m * (2 : ℚ) ^ e < 2 ^ (topOf m e + 1) := by
  rw [topOf, add_right_comm, zpow_add₀ two_ne_zero, ← Nat.cast_succ, zpow_natCast]
  gcongr
  exact_mod_cast Nat.lt_log2_self

/-- The exponent at which the format rounds: that of the value, or of the smallest normal one. -/
def Fmt.expOf (f : Fmt) (m : Nat) (e : Int) : Int := max (topOf m e) f.emin

/-- The code that rounding gives, should it not overflow, and whether it is inexact. -/
def Fmt.codeOf (f : Fmt) (rm : Rm) (n : Bool) (m : Nat) (e : Int) : Nat :=
  (f.expOf m e - f.emin).toNat * 2 ^ f.w + (roundTo rm n m e false (f.expOf m e - f.w)).1
def Fmt.inexact (f : Fmt) (rm : Rm) (n : Bool) (m : Nat) (e : Int) : Bool := (roundTo rm n m e false (f.expOf m e - f.w)).2
def Fmt.tiny (f : Fmt) (rm : Rm) (n : Bool) (m : Nat) (e : Int) : Bool :=
  decide (topOf m e < f.emin) && (decide (topOf m e < f.emin - 1) || decide ((roundTo rm n m e false (topOf m e - f.w)).1 < 2 ^ (f.w + 1)))

theorem Fmt.roundFin_eq (f : Fmt) (rm : Rm) (sat n : Bool) (m : Nat) (e : Int) : f.roundFin rm sat n m e false =
    if f.maxCode < f.codeOf rm n m e then f.overflow rm sat n
    else (f.signed n (f.codeOf rm n m e), if f.inexact rm n m e then (if f.tiny rm n m e then flagUF ||| flagNX else flagNX) else 0) := rfl

/-- Where the value lies among the multiples of the last place, in the binade of the exponent at which the format rounds. -/
theorem roundTo_quotient {f : Fmt} {m : Nat} {e x : Int} {rm : Rm} {n : Bool} {j c : Nat} {b : Bool} (hx : m * (2 : ℚ) ^ e < 2 ^ (x + 1))
    (h : Picks rm n j (j * (2 : ℚ) ^ (x - f.w)) (m * (2 : ℚ) ^ e) ((j + 1 : Nat) * (2 : ℚ) ^ (x - f.w)) c b) :
    j < 2 ^ (f.w + 1) ∧ ((2 : ℚ) ^ x ≤ m * 2 ^ e → 2 ^ f.w ≤ j) := by
  have hp : (0 : ℚ) < 2 ^ (x - f.w) := by positivity
  have hpow : ∀ k : Nat, (2 : ℚ) ^ (x - f.w + k) = (2 ^ k : Nat) * 2 ^ (x - f.w) := fun k => by
    rw [zpow_add₀ two_ne_zero, zpow_natCast, mul_comm]
    push_cast
    rfl
  constructor
  · have h1 := h.lo_le.trans_lt hx
    rw [show x + 1 = x - f.w + (f.w + 1 : Nat) by push_cast; ring, hpow] at h1
    exact_mod_cast lt_of_mul_lt_mul_right h1 hp.le
  · intro hle
    have h1 := hle.trans_lt h.lt_hi
    rw [show x = x - f.w + (f.w : Nat) by ring, hpow, show x - f.w + f.w - f.w = x - f.w by ring] at h1
    exact Nat.lt_succ_iff.1 (by exact_mod_cast lt_of_mul_lt_mul_right h1 hp.le)

theorem Fmt.lt_two_zpow_expOf_succ (f : Fmt) (m : Nat) (e : Int) : m * (2 : ℚ) ^ e < 2 ^ (f.expOf m e + 1) :=
  (lt_two_zpow_topOf_succ m e).trans_le (zpow_le_zpow_right₀ one_le_two (by unfold Fmt.expOf; omega))

/-- Rounding into a format chooses between the two neighbouring magnitudes. -/
theorem Fmt.codeOf_picks {f : Fmt} (hf : f.Wf) (rm : Rm) (n : Bool) {m : Nat} (hm : 0 < m) (e : Int) :
    ∃ k, Picks rm n k (f.mag k) (m * (2 : ℚ) ^ e) (f.mag (k + 1)) (f.codeOf rm n m e) (f.inexact rm n m e) := by
  obtain ⟨j, hj⟩ := roundTo_picks rm n m e (f.expOf m e - f.w)
  obtain ⟨hlt, hge⟩ := roundTo_quotient (f.lt_two_zpow_expOf_succ m e) hj
  set E := (f.expOf m e - f.emin).toNat with hEdef
  have hcast : (E : Int) + f.emin = f.expOf m e := by
    unfold Fmt.expOf at hEdef ⊢
    omega
  have hE : E = 0 ∨ 2 ^ f.w ≤ j := by
    by_cases h0 : E = 0
    · exact .inl h0
    · refine .inr (hge ?_)
      rw [show f.expOf m e = topOf m e by unfold Fmt.expOf at hEdef ⊢; omega]
      exact two_zpow_topOf_le hm e
  have hpar : (E * 2 ^ f.w + j) % 2 = j % 2 := by
    obtain ⟨w, hw⟩ := Nat.exists_eq_add_of_le' hf.w_pos
    rw [hw, Nat.pow_succ, ← mul_assoc]
    omega
  refine ⟨E * 2 ^ f.w + j, ?_⟩
  rw [f.mag_add hE hlt.le, Nat.add_assoc, f.mag_add (hE.imp id Nat.le_succ_of_le) hlt, hcast]
  refine ⟨hj.lo_le, hj.lt_hi, hj.inexact_iff, ?_⟩
  rw [hpar, Fmt.codeOf, ← hEdef, hj.eq, Nat.add_assoc]
  exact apply_ite (E * 2 ^ f.w + ·) _ _ _

theorem Picks.eq_or {rm : Rm} {n : Bool} {k c : Nat} {lo a hi : ℚ} {b : Bool} (h : Picks rm n k lo a hi c b) : c = k ∨ c = k + 1 := by
  rw [h.eq]
  split
  · exact .inr rfl
  · exact .inl rfl

/-- A mode rounds to nearest, toward zero or away from zero (R33). -/
theorem mode_cases (rm : Rm) (n : Bool) : rm = .rne ∨ (rm ≠ .rne ∧ TowardZero rm n = true) ∨ (rm ≠ .rne ∧ TowardZero rm n = false) := by
  cases rm <;> cases n <;> decide

/-- When the choice is the upper neighbour. -/
theorem Picks.up_iff {rm : Rm} {n : Bool} {k c : Nat} {lo a hi : ℚ} {b : Bool} (h : Picks rm n k lo a hi c b) :
    c = k + 1 ↔ if rm = .rne then lo + hi < 2 * a ∨ (2 * a = lo + hi ∧ k % 2 = 1) else TowardZero rm n = false ∧ lo ≠ a := by
  have hc : c = k + 1 ↔ roundsUp rm n (k % 2 == 1) (cmp (2 * a) (lo + hi)) b = true := by
    rw [h.eq]
    split <;> simp [*]
  rw [hc, ← h.inexact_iff]
  cases rm
  · simp [roundsUp]
  · simp [roundsUp, TowardZero]
  · cases n <;> simp [roundsUp, TowardZero]
  · cases n <;> simp [roundsUp, TowardZero]

section
variable {G : Nat → ℚ} {rm : Rm} {n : Bool} {k c : Nat} {a : ℚ} {b : Bool}

/-- The choice is exact where no rounding is needed, and only there. -/
theorem Picks.exact_iff (hG : StrictMono G) (h : Picks rm n k (G k) a (G (k + 1)) c b) : G c = a ↔ b = false := by
  have hlt := hG k.lt_succ_self
  have hup := h.up_iff
  have hhi := h.lt_hi
  rw [← Bool.not_eq_true, h.inexact_iff, not_not]
  obtain rfl | rfl := h.eq_or
  · rfl
  · refine ⟨fun e => absurd e hhi.ne', fun e => ?_⟩
    have := hup.1 rfl
    split at this
    · rw [← e] at this
      rcases this with h1 | ⟨h1, -⟩ <;> linarith
    · exact absurd e this.2

/-- Toward zero: the largest of the values up to a. -/
theorem Picks.toward (hG : StrictMono G) (h : Picks rm n k (G k) a (G (k + 1)) c b) (hrm : rm ≠ .rne) (ht : TowardZero rm n = true) :
    G c ≤ a ∧ ∀ j, G j ≤ a → G j ≤ G c := by
  obtain rfl | rfl := h.eq_or
  · exact ⟨h.lo_le, fun j hj => hG.monotone (Nat.lt_succ_iff.1 (hG.lt_iff_lt.1 (hj.trans_lt h.lt_hi)))⟩
  · have := h.up_iff.1 rfl
    simp [hrm, ht] at this

/-- Away from zero: the smallest of the values from a on. -/
theorem Picks.away (hG : StrictMono G) (h : Picks rm n k (G k) a (G (k + 1)) c b) (hrm : rm ≠ .rne) (ht : TowardZero rm n = false) :
    a ≤ G c ∧ ∀ j, a ≤ G j → G c ≤ G j := by
  have hup := h.up_iff
  simp only [hrm, if_false, ht, true_and] at hup
  obtain rfl | rfl := h.eq_or
  · have he : G c = a := by
      by_contra hne
      exact absurd (hup.2 hne) (by omega)
    exact ⟨he.ge, fun j hj => he ▸ hj⟩
  · exact ⟨h.lt_hi.le, fun j hj => hG.monotone (hG.lt_iff_lt.1 ((lt_of_le_of_ne h.lo_le (hup.1 rfl)).trans_le hj))⟩

/-- To nearest: no value is nearer, and of two at one distance the one with the even number. -/
theorem Picks.nearest (hG : StrictMono G) (h : Picks .rne n k (G k) a (G (k + 1)) c b) (j : Nat) :
    |G c - a| ≤ |G j - a| ∧ (|G c - a| = |G j - a| → j ≠ c → c % 2 = 0) := by
  have hup := h.up_iff
  have hlo := h.lo_le
  have hhi := h.lt_hi
  rw [if_pos rfl] at hup
  have hj : (G j ≤ G k ∧ (G j = G k → j = k)) ∨ (G (k + 1) ≤ G j ∧ (G j = G (k + 1) → j = k + 1)) := by
    rcases Nat.lt_or_ge k j with h1 | h1
    · exact .inr ⟨hG.monotone h1, fun e => hG.injective e⟩
    · exact .inl ⟨hG.monotone h1, fun e => hG.injective e⟩
  obtain rfl | rfl := h.eq_or
  · have hnot : ¬ (G c + G (c + 1) < 2 * a ∨ 2 * a = G c + G (c + 1) ∧ c % 2 = 1) := fun hx => absurd (hup.2 hx) (by omega)
    push Not at hnot
    rw [abs_of_nonpos (by linarith : G c - a ≤ 0)]
    rcases hj with ⟨h1, h2⟩ | ⟨h1, h2⟩
    · rw [abs_of_nonpos (by linarith : G j - a ≤ 0)]
      exact ⟨by linarith, fun e hne => absurd (h2 (by linarith)) hne⟩
    · rw [abs_of_nonneg (by linarith : 0 ≤ G j - a)]
      exact ⟨by linarith, fun e _ => by have := hnot.2 (by linarith); omega⟩
  · have hle : G k + G (k + 1) ≤ 2 * a ∧ (2 * a = G k + G (k + 1) → k % 2 = 1) := by
      rcases hup.1 rfl with h1 | ⟨h1, h2⟩
      · exact ⟨h1.le, fun e => absurd e h1.ne'⟩
      · exact ⟨h1.ge, fun _ => h2⟩
    rw [abs_of_nonneg (by linarith : 0 ≤ G (k + 1) - a)]
    rcases hj with ⟨h1, h2⟩ | ⟨h1, h2⟩
    · rw [abs_of_nonpos (by linarith : G j - a ≤ 0)]
      exact ⟨by linarith, fun e _ => by have := hle.2 (by linarith); omega⟩
    · rw [abs_of_nonneg (by linarith : 0 ≤ G j - a)]
      exact ⟨by linarith, fun e hne => absurd (h2 (by linarith)) hne⟩

end

/-! ### The formats of the lane -/

/-- What the statements' limits of a format say of the model's. -/
structure LimitsOk (t : Limits) : Prop where
  wf : t.fmt.Wf
  max : t.max = t.fmt.mag t.fmt.maxCode
  next : t.next = t.fmt.mag (t.fmt.maxCode + 1)
  least : t.least = (2 : ℚ) ^ t.fmt.emin
  top : ∀ n, bySign t.top n = t.fmt.signed n t.fmt.maxCode
  overflow : ∀ rm sat n, t.fmt.overflow rm sat n =
    (bySign (if TowardZero rm n then t.top else if sat then t.ovfSat else t.ovf) n, flagOF ||| flagNX)

theorem limitsOk_of_mem {t : Limits} (ht : t ∈ formats) : LimitsOk t := by
  simp only [formats, List.mem_cons, List.not_mem_nil, or_false] at ht
  rcases ht with rfl | rfl | rfl | rfl | rfl | rfl
  all_goals
    refine ⟨⟨by decide, by decide, by decide, by decide⟩, ?_, ?_, ?_, by decide, fun rm sat n => by cases rm <;> cases sat <;> cases n <;> rfl⟩
  all_goals norm_num [limF32, limBf16, limF16, limE4m3, limE5m2, limE2m1, Fmt.mag, Fmt.maxCode, Fmt.infCode, Fmt.emin, fmtF32, fmtF16, fmtBf16, fmtE4m3, fmtE5m2, fmtE2m1]

theorem abs_sign_mul (n : Bool) {a : ℚ} (ha : 0 ≤ a) : |(if n then -1 else 1) * a| = a := by
  cases n <;> simp [abs_of_nonneg ha]

theorem abs_sign (n : Bool) : |(if n then -1 else 1 : ℚ)| = 1 := by
  cases n <;> simp

theorem sign_mul_neg_iff (n : Bool) {a : ℚ} (ha : 0 < a) : decide ((if n then -1 else 1) * a < 0) = n := by
  cases n <;> simp [ha, ha.le]

section
variable {t : Limits} {rm : Rm} {n : Bool} {k c : Nat} {a : ℚ} {b : Bool}

/-- A chosen code past the largest is what R37 calls an overflow. -/
theorem Picks.overflows_iff (ht : LimitsOk t) (ha : 0 < a) (h : Picks rm n k (t.fmt.mag k) a (t.fmt.mag (k + 1)) c b) :
    Overflows t rm ((if n then -1 else 1) * a) ↔ t.fmt.maxCode < c := by
  have hG := t.fmt.mag_strictMono
  have hup := h.up_iff
  have hlo := h.lo_le
  have hhi := h.lt_hi
  have htop : t.top.1 = t.fmt.maxCode := ht.top false
  have hnext := hG t.fmt.maxCode.lt_succ_self
  unfold Overflows
  rw [abs_sign_mul n ha.le, sign_mul_neg_iff n ha, htop, ht.max, ht.next]
  rcases lt_trichotomy k t.fmt.maxCode with hk | rfl | hk
  · have h1 := hG.monotone (Nat.succ_le_of_lt hk)
    have hc : ¬ t.fmt.maxCode < c := by
      have := h.eq_or
      omega
    simp only [hc, iff_false]
    split_ifs <;> linarith
  · have hc : t.fmt.maxCode < c ↔ c = t.fmt.maxCode + 1 := by
      have := h.eq_or
      omega
    rw [hc, hup]
    rcases mode_cases rm n with rfl | ⟨hrm, htz⟩ | ⟨hrm, htz⟩
    · rw [if_pos rfl, if_pos rfl]
      rcases Nat.mod_two_eq_zero_or_one t.fmt.maxCode with hpar | hpar
      · simp only [hpar, if_true, zero_ne_one, and_false, or_false]
        constructor <;> intro <;> linarith
      · simp only [hpar, one_ne_zero, if_false, and_true]
        rw [eq_comm, ← le_iff_lt_or_eq]
        constructor <;> intro <;> linarith
    · simp [hrm, htz, hhi]
    · simp [hrm, htz, lt_iff_le_and_ne, hlo]
  · have h1 := hG.monotone (Nat.succ_le_of_lt hk)
    have hc : t.fmt.maxCode < c := by
      have := h.eq_or
      omega
    simp only [hc, iff_true]
    split_ifs <;> linarith

end

/-- The unbounded rounding that R39's tininess speaks of, one binade below the smallest normal value: the multiples of u = 2^(emin - 1 - w) up to
N u = 2^emin. -/
theorem Picks.tiny_iff {rm : Rm} {n : Bool} {j c N : Nat} {a u : ℚ} {b : Bool} (h : Picks rm n j (j * u) a ((j + 1 : Nat) * u) c b) (hj : j < N) (hN : N % 2 = 0)
    (hu : 0 < u) : c < N ↔ if rm = .rne then a < N * u - u / 2 else if TowardZero rm n then a < N * u else a ≤ N * u - u := by
  have hup := h.up_iff
  have hlo := h.lo_le
  have hhi := h.lt_hi
  rcases Nat.lt_or_ge (j + 1) N with hlt | hge
  · have hc : c < N := by
      have := h.eq_or
      omega
    have hle : ((j + 1 : Nat) : ℚ) * u + u ≤ N * u := by
      rw [← add_one_mul]
      exact mul_le_mul_of_nonneg_right (by exact_mod_cast hlt) hu.le
    simp only [hc, true_iff]
    split_ifs <;> linarith
  · obtain rfl : N = j + 1 := by omega
    have hc : c < j + 1 ↔ ¬ c = j + 1 := by
      have := h.eq_or
      omega
    have hsum : ((j + 1 : Nat) : ℚ) * u = j * u + u := by
      push_cast
      ring
    rw [hc, hup]
    rw [hsum] at hhi ⊢
    rcases mode_cases rm n with rfl | ⟨hrm, htz⟩ | ⟨hrm, htz⟩
    · have hodd : j % 2 = 1 := by omega
      simp only [if_true, hodd, and_true, not_or, not_lt]
      exact ⟨fun ⟨h1, h2⟩ => by linarith [lt_of_le_of_ne h1 h2], fun h1 => ⟨by linarith, by intro; linarith⟩⟩
    · simp [hrm, htz, hhi]
    · simp [hrm, htz, le_antisymm_iff, hlo]

/-- The model's test of tininess is R39's. -/
theorem Fmt.tiny_iff {t : Limits} (ht : LimitsOk t) (rm : Rm) (n : Bool) {m : Nat} (hm : 0 < m) (e : Int) :
    t.fmt.tiny rm n m e = true ↔ Tiny t rm ((if n then -1 else 1) * (m * (2 : ℚ) ^ e)) := by
  have ha : (0 : ℚ) < m * 2 ^ e := by positivity
  have hle := two_zpow_topOf_le hm e
  have hlt := lt_two_zpow_topOf_succ m e
  have hw : ∀ k : Nat, t.least / 2 ^ (t.fmt.w + (k + 1)) ≤ t.least / 2 := fun k => by
    have : (0 : ℚ) < t.least := by rw [ht.least]; positivity
    gcongr
    exact le_self_pow₀ one_le_two (by omega)
  have hpos : ∀ k : Nat, 0 < t.least / 2 ^ (t.fmt.w + k) := fun k => by rw [ht.least]; positivity
  unfold Fmt.tiny Tiny
  rw [abs_sign_mul n ha.le, sign_mul_neg_iff n ha]
  rcases lt_trichotomy (topOf m e) (t.fmt.emin - 1) with htop | htop | htop
  · have hhalf : (2 : ℚ) ^ (topOf m e + 1) ≤ t.least / 2 := by
      rw [ht.least, div_eq_mul_inv, ← zpow_sub_one₀ (two_ne_zero' ℚ)]
      exact zpow_le_zpow_right₀ one_le_two (by omega)
    have h1 := hw 0
    have h2 := hw 1
    have h3 : topOf m e < t.fmt.emin := by omega
    simp only [htop, h3, decide_true, Bool.true_or, Bool.and_self, true_iff]
    split_ifs <;> linarith
  · obtain ⟨j, hj⟩ := roundTo_picks rm n m e (topOf m e - t.fmt.w)
    obtain ⟨hjlt, -⟩ := roundTo_quotient hlt hj
    have hu : (0 : ℚ) < 2 ^ (topOf m e - t.fmt.w) := by positivity
    have hleast : t.least = (2 ^ (t.fmt.w + 1) : Nat) * (2 : ℚ) ^ (topOf m e - t.fmt.w) := by
      rw [ht.least, Nat.cast_pow, Nat.cast_ofNat, ← zpow_natCast, ← zpow_add₀ two_ne_zero]
      congr 1
      push_cast
      omega
    have h1 : t.least / 2 ^ (t.fmt.w + 1) = (2 : ℚ) ^ (topOf m e - t.fmt.w) := by
      rw [hleast, Nat.cast_pow, Nat.cast_ofNat, mul_div_cancel_left₀]
      positivity
    have h2 : t.least / 2 ^ (t.fmt.w + 2) = (2 : ℚ) ^ (topOf m e - t.fmt.w) / 2 := by
      rw [pow_succ, ← div_div, h1]
    have h3 : topOf m e < t.fmt.emin := by omega
    have h4 : ¬ topOf m e < t.fmt.emin - 1 := by omega
    rw [h1, h2, hleast]
    simp only [h3, h4, decide_true, decide_false, Bool.false_or, Bool.true_and, decide_eq_true_eq]
    exact hj.tiny_iff hjlt (by rw [Nat.pow_succ]; omega) hu
  · have hge : t.least ≤ m * 2 ^ e := by
      refine le_trans ?_ hle
      rw [ht.least]
      exact zpow_le_zpow_right₀ one_le_two (by omega)
    have h1 := hpos 1
    have h2 := hpos 2
    have h3 : ¬ topOf m e < t.fmt.emin := by omega
    simp only [h3, decide_false, Bool.false_and, Bool.false_eq_true, false_iff]
    split_ifs <;> linarith

/-- A held value is not nearer than its magnitude, and as near only with the sign of v. -/
theorem abs_sub_le_abs_sign_sub (n p : Bool) {g a : ℚ} (hg : 0 ≤ g) (ha : 0 < a) :
    |g - a| ≤ |(if p then -1 else 1) * g - (if n then -1 else 1) * a| ∧
    (|g - a| = |(if p then -1 else 1) * g - (if n then -1 else 1) * a| → (if p then -1 else 1) * g = (if n then -1 else 1) * g) := by
  by_cases hpn : p = n
  · rw [hpn, ← mul_sub, abs_mul, abs_sign, one_mul]
    exact ⟨le_rfl, fun _ => rfl⟩
  · have hsum : |(if p then -1 else 1) * g - (if n then -1 else 1) * a| = g + a := by
      rw [← abs_of_pos (add_pos_of_nonneg_of_pos hg ha)]
      obtain rfl : p = !n := Bool.eq_not_of_ne hpn
      cases n
      · rw [← abs_neg]
        simp [add_comm]
      · simp
    rw [hsum]
    rcases abs_cases (g - a) with ⟨h, -⟩ | ⟨h, -⟩
    · rw [h]
      exact ⟨by linarith, fun e => by linarith⟩
    · rw [h]
      have h0 : -(g - a) = g + a → g = 0 := fun e => by linarith
      exact ⟨by linarith, fun e => by rw [h0 e, mul_zero, mul_zero]⟩

section
variable {t : Limits} {rm : Rm} {n : Bool} {k c : Nat} {a : ℚ} {b : Bool}

theorem Fmt.Holds.neg {f : Fmt} (hf : f.Wf) {u : ℚ} (h : Holds f u) : Holds f (-u) := by
  rw [Fmt.holds_iff hf] at h ⊢
  obtain ⟨p, j, hj, rfl⟩ := h
  exact ⟨!p, j, hj, by cases p <;> simp⟩

/-- Toward zero, among what the format holds. -/
theorem Picks.toward_holds (ht : LimitsOk t) (h : Picks rm n k (t.fmt.mag k) a (t.fmt.mag (k + 1)) c b) (hrm : rm ≠ .rne)
    (htz : TowardZero rm n = true) : t.fmt.mag c ≤ a ∧ ∀ u, Holds t.fmt u → u ≤ a → u ≤ t.fmt.mag c := by
  obtain ⟨hle, hmax⟩ := h.toward t.fmt.mag_strictMono hrm htz
  refine ⟨hle, fun u hu hua => ?_⟩
  obtain ⟨p, j, -, rfl⟩ := (Fmt.holds_iff ht.wf u).1 hu
  have hj := t.fmt.mag_nonneg j
  have hc := t.fmt.mag_nonneg c
  cases p
  · simpa using hmax j (by simpa using hua)
  · simp only [if_true]
    linarith

/-- Away from zero, among what the format holds. -/
theorem Picks.away_holds (ht : LimitsOk t) (ha : 0 < a) (h : Picks rm n k (t.fmt.mag k) a (t.fmt.mag (k + 1)) c b) (hrm : rm ≠ .rne)
    (htz : TowardZero rm n = false) : a ≤ t.fmt.mag c ∧ ∀ u, Holds t.fmt u → a ≤ u → t.fmt.mag c ≤ u := by
  obtain ⟨hle, hmin⟩ := h.away t.fmt.mag_strictMono hrm htz
  refine ⟨hle, fun u hu hua => ?_⟩
  obtain ⟨p, j, -, rfl⟩ := (Fmt.holds_iff ht.wf u).1 hu
  have hj := t.fmt.mag_nonneg j
  cases p
  · simpa using hmin j (by simpa using hua)
  · simp only [if_true] at hua
    linarith

/-- What R33 asks of the value w that v is rounded to, r being its element. -/
def BestOf (f : Fmt) (r : Nat) (w v : ℚ) : Rm → Prop
  | .rne => ∀ u, Holds f u → |w - v| ≤ |u - v| ∧ (|w - v| = |u - v| → u ≠ w → r % 2 = 0)
  | .rz => |w| ≤ |v| ∧ 0 ≤ w * v ∧ ∀ u, Holds f u → |u| ≤ |v| → 0 ≤ u * v → |u| ≤ |w|
  | .ru => v ≤ w ∧ ∀ u, Holds f u → v ≤ u → w ≤ u
  | .rd => w ≤ v ∧ ∀ u, Holds f u → u ≤ v → u ≤ w

/-- The chosen magnitude, with its sign, is the value that the mode names among all that the format holds (R33). -/
theorem Picks.bestOf (ht : LimitsOk t) (ha : 0 < a) (h : Picks rm n k (t.fmt.mag k) a (t.fmt.mag (k + 1)) c b) {r : Nat} (hr : r % 2 = c % 2) :
    BestOf t.fmt r ((if n then -1 else 1) * t.fmt.mag c) ((if n then -1 else 1) * a) rm := by
  have hG := t.fmt.mag_strictMono
  have h0 := t.fmt.mag_nonneg
  have hc := abs_sign_mul n (h0 c)
  have hv := abs_sign_mul n ha.le
  cases rm with
  | rne =>
    intro u hu
    obtain ⟨p, j, -, rfl⟩ := (Fmt.holds_iff ht.wf u).1 hu
    obtain ⟨hle, heven⟩ := h.nearest hG j
    obtain ⟨hdist, hsign⟩ := abs_sub_le_abs_sign_sub n p (h0 j) ha
    rw [← mul_sub, abs_mul, abs_sign, one_mul]
    refine ⟨hle.trans hdist, fun e hne => ?_⟩
    have e1 : |t.fmt.mag c - a| = |t.fmt.mag j - a| := le_antisymm hle (e ▸ hdist)
    rw [hr]
    refine heven e1 ?_
    rintro rfl
    exact hne (hsign (e1.symm.trans e))
  | rz =>
    obtain ⟨hle, hmax⟩ := h.toward_holds ht (by decide) rfl
    refine ⟨by rwa [hc, hv], ?_, fun u hu hua _ => ?_⟩
    · cases n <;> simp [mul_nonneg (h0 c) ha.le]
    · rw [hv] at hua
      rw [hc]
      rcases abs_choice u with hu' | hu'
      · rw [hu'] at hua ⊢
        exact hmax u hu hua
      · rw [hu'] at hua ⊢
        exact hmax (-u) (Fmt.Holds.neg ht.wf hu) hua
  | ru =>
    cases n with
    | false => simpa [BestOf] using h.away_holds ht ha (by decide) rfl
    | true =>
      obtain ⟨hle, hmax⟩ := h.toward_holds ht (by decide) rfl
      exact ⟨by simpa using hle, fun u hu hua => by simpa [neg_le] using hmax (-u) (Fmt.Holds.neg ht.wf hu) (by simpa [neg_le] using hua)⟩
  | rd =>
    cases n with
    | false => simpa [BestOf] using h.toward_holds ht (by decide) rfl
    | true =>
      obtain ⟨hle, hmin⟩ := h.away_holds ht ha (by decide) rfl
      exact ⟨by simpa using hle, fun u hu hua => by simpa [le_neg] using hmin (-u) (Fmt.Holds.neg ht.wf hu) (by simpa [le_neg] using hua)⟩

end

/-- A non-zero real is rounded once into each format as the mode says, with the flags of R38. -/
theorem Fmt.roundFin_roundsTo {t : Limits} (ht : LimitsOk t) (rm : Rm) (sat n : Bool) {m : Nat} (hm : 0 < m) (e : Int) :
    RoundsTo t rm sat (t.fmt.roundFin rm sat n m e false) ((if n then -1 else 1) * m * (2 : ℚ) ^ e) := by
  have ha : (0 : ℚ) < m * 2 ^ e := by positivity
  obtain ⟨k, h⟩ := Fmt.codeOf_picks ht.wf rm n hm e
  have hG := t.fmt.mag_strictMono
  rw [mul_assoc]
  unfold RoundsTo
  simp only [sign_mul_neg_iff n ha]
  rw [h.overflows_iff ht ha, Fmt.roundFin_eq, ← Fmt.tiny_iff ht rm n hm e]
  refine ⟨fun hov => ?_, fun hov => ?_⟩
  · rw [if_pos hov]
    exact ht.overflow rm sat n
  · have hlt := (Nat.not_lt.1 hov).trans_lt (Fmt.maxCode_lt ht.wf)
    have hexact : (if n then -1 else 1) * t.fmt.mag (t.fmt.codeOf rm n m e) = (if n then -1 else 1) * (m * 2 ^ e) ↔ t.fmt.inexact rm n m e = false := by
      rw [← h.exact_iff hG]
      cases n <;> simp
    rw [if_neg hov]
    refine ⟨_, by rw [Fmt.finite?_signed ht.wf n hlt, if_pos (Nat.not_lt.1 hov)], t.fmt.testBit_signed n hlt, ?_, ?_, ?_, ?_⟩
    · intro he
      simp [hexact.1 he]
    · intro hne htiny
      rw [Ne, hexact, Bool.not_eq_false] at hne
      simp [hne, htiny]
    · intro hne htiny
      rw [Ne, hexact, Bool.not_eq_false] at hne
      simp [hne, htiny]
    · have hbest := h.bestOf ht ha (Fmt.signed_mod_two ht.wf n _)
      cases rm <;> exact hbest

/-! ### The statements -/

theorem LimitsOk.finite?_top {t : Limits} (ht : LimitsOk t) : finite? t.fmt t.top.1 = some t.max ∧ finite? t.fmt t.top.2 = some (-t.max) := by
  have h : ∀ n, finite? t.fmt (bySign t.top n) = some ((if n then -1 else 1) * t.max) := fun n => by
    rw [ht.top, Fmt.finite?_signed ht.wf n (Fmt.maxCode_lt ht.wf), if_pos le_rfl, ht.max]
  exact ⟨by simpa [bySign] using h false, by simpa [bySign] using h true⟩

/-- The largest of what a format holds. -/
theorem LimitsOk.holds_max {t : Limits} (ht : LimitsOk t) : Holds t.fmt t.max ∧ ∀ u, Holds t.fmt u → |u| ≤ t.max := by
  simp only [Fmt.holds_iff ht.wf]
  refine ⟨⟨false, t.fmt.maxCode, le_rfl, by simp [ht.max]⟩, ?_⟩
  rintro u ⟨p, j, hj, rfl⟩
  rw [abs_sign_mul p (t.fmt.mag_nonneg j), ht.max]
  exact t.fmt.mag_strictMono.monotone hj

/-- What R37 gives for a NaN, an infinity and a zero. -/
theorem round_special {t : Limits} (ht : t ∈ formats) (rm : Rm) (sat n : Bool) :
    t.fmt.round rm sat (.nan n) = (t.nan, if n || t.nan = 0 then flagNV else 0) ∧
    t.fmt.round rm sat (.inf n) = (bySign t.inf n, t.infFlags) ∧
    t.fmt.round rm sat (.zero n) = (if n then 2 ^ (t.fmt.width - 1) else 0, 0) := by
  simp only [formats, List.mem_cons, List.not_mem_nil, or_false] at ht
  rcases ht with rfl | rfl | rfl | rfl | rfl | rfl <;> cases n <;> exact ⟨rfl, rfl, rfl⟩

end Sys2Proof.Machine

section
open Sys2Proof.Machine

/-- Settles O7: rounding chooses between the two neighbouring magnitudes of a format (`Fmt.codeOf_picks`), and what the mode, the overflow and the flags
ask is read off that choice. -/
theorem roundingIsCorrect : Obligations.RoundingIsCorrect := by
  unfold Obligations.RoundingIsCorrect
  refine ⟨fun t ht rm sat n m e hm => ?_, fun t ht => ?_, fun t ht rm sat n => round_special ht rm sat n⟩
  · exact Fmt.roundFin_roundsTo (limitsOk_of_mem ht) rm sat n hm e
  · have hok := limitsOk_of_mem ht
    exact ⟨hok.holds_max.1, hok.holds_max.2, hok.finite?_top⟩

end

/-! ## Exact sums and products -/

namespace Sys2Proof.Machine
open Sys2Proof Sys2Proof.Claims

theorem Num.value?_neg {x : Num} {u : ℚ} (hx : x.value? = some u) : x.neg.value? = some (-u) := by
  cases x with
  | nan => cases hx
  | inf => cases hx
  | zero => simpa [Num.neg, Num.value?, eq_comm] using hx
  | fin n m e =>
    obtain rfl := Option.some.inj hx
    cases n <;> simp [Num.neg, Num.value?]

theorem sgn_cast (n : Bool) (m : Nat) : ((sgn n m : Int) : ℚ) = (if n then -1 else 1) * m := by
  cases n <;> simp [sgn]

theorem Num.value?_ofInt (i e : Int) (z : Bool) : (Num.ofInt i e z).value? = some (i * (2 : ℚ) ^ e) := by
  unfold Num.ofInt
  split
  · next h => simp [Num.value?, h]
  · have h : ((if decide (i < 0) then -1 else 1 : ℚ)) * i.natAbs = i := by
      rw [Nat.cast_natAbs]
      rcases lt_or_ge i 0 with hi | hi
      · simp [hi, abs_of_neg hi]
      · simp [hi.not_gt, abs_of_nonneg hi]
    rw [Num.value?, h]

theorem scaleTo_cast {i e e0 : Int} (h : e0 ≤ e) : ((scaleTo i e e0 : Int) : ℚ) * (2 : ℚ) ^ e0 = i * 2 ^ e := by
  rw [scaleTo]
  push_cast
  rw [mul_assoc, ← zpow_natCast, ← zpow_add₀ two_ne_zero, Int.toNat_of_nonneg (by omega), Int.sub_add_cancel]

/-- The sum of two finite numbers is exact (R35). -/
theorem Num.value?_add (rm : Rm) {x y : Num} {u v : ℚ} (hx : x.value? = some u) (hy : y.value? = some v) :
    (Num.add rm x y).1.value? = some (u + v) ∧ (Num.add rm x y).2 = 0 := by
  cases x with
  | nan => cases hx
  | inf => cases hx
  | zero a =>
    obtain rfl := Option.some.inj hx
    cases y with
    | nan => cases hy
    | inf => cases hy
    | zero b =>
      obtain rfl := Option.some.inj hy
      simp [Num.add, Num.value?]
    | fin => exact ⟨by rw [zero_add]; exact hy, rfl⟩
  | fin n m e =>
    cases y with
    | nan => cases hy
    | inf => cases hy
    | zero b =>
      obtain rfl := Option.some.inj hy
      exact ⟨by rw [add_zero]; exact hx, rfl⟩
    | fin k j g =>
      obtain rfl := Option.some.inj hx
      obtain rfl := Option.some.inj hy
      refine ⟨?_, rfl⟩
      rw [Num.add, Num.value?_ofInt, Int.cast_add, add_mul, scaleTo_cast (min_le_left e g), scaleTo_cast (min_le_right e g), sgn_cast, sgn_cast]

theorem sign_xor (n k : Bool) : ((if n != k then -1 else 1 : ℚ)) = (if n then -1 else 1) * (if k then -1 else 1) := by
  cases n <;> cases k <;> simp

/-- The product of two finite numbers is exact (R35, R47). -/
theorem Num.value?_mul {x y : Num} {u v : ℚ} (hx : x.value? = some u) (hy : y.value? = some v) :
    (Num.mul x y).1.value? = some (u * v) ∧ (Num.mul x y).2 = 0 := by
  cases x with
  | nan => cases hx
  | inf => cases hx
  | zero a =>
    obtain rfl := Option.some.inj hx
    cases y with
    | nan => cases hy
    | inf => cases hy
    | zero b => simp [Num.mul, Num.value?]
    | fin => simp [Num.mul, Num.value?]
  | fin n m e =>
    cases y with
    | nan => cases hy
    | inf => cases hy
    | zero b =>
      obtain rfl := Option.some.inj hy
      simp [Num.mul, Num.value?]
    | fin k j g =>
      obtain rfl := Option.some.inj hx
      obtain rfl := Option.some.inj hy
      refine ⟨?_, rfl⟩
      rw [Num.mul, Num.value?, Num.sign, Num.sign, sign_xor, zpow_add₀ two_ne_zero]
      push_cast
      congr 1
      ring

/-- A number with a value that is not zero is rounded to that value. -/
theorem Fmt.round_roundsTo {t : Limits} (ht : t ∈ formats) (rm : Rm) (sat : Bool) {x : Num} {v : ℚ} (hx : x.value? = some v) (hv : v ≠ 0) :
    RoundsTo t rm sat (t.fmt.round rm sat x) v := by
  cases x with
  | nan => cases hx
  | inf => cases hx
  | zero => exact absurd (Option.some.inj hx).symm hv
  | fin n m e =>
    obtain rfl := Option.some.inj hx
    refine Fmt.roundFin_roundsTo (limitsOk_of_mem ht) rm sat n (Nat.pos_of_ne_zero ?_) e
    rintro rfl
    simp at hv

theorem roundResult_roundsTo {t : Limits} (ht : t ∈ formats) (rm : Rm) {x : Num × Flags} {v : ℚ} (hx : x.1.value? = some v ∧ x.2 = 0) (hv : v ≠ 0) :
    RoundsTo t rm false (roundResult t.fmt rm x) v := by
  have h : roundResult t.fmt rm x = t.fmt.round rm false x.1 := by
    simp [roundResult, hx.2]
  rw [h]
  exact Fmt.round_roundsTo ht rm false hx.1 hv

end Sys2Proof.Machine

section
open Sys2Proof.Machine

/-- Settles O6: sums and products of finite numbers are exact and raise nothing (`Num.value?_add`, `Num.value?_mul`), and what is exact is rounded once. -/
theorem roundedOnceFromExact : Obligations.RoundedOnceFromExact := by
  unfold Obligations.RoundedOnceFromExact
  intro t ht rm x y z u v w f _ _ _ hx hy hz
  rw [finite?_eq_value?] at hx hy hz
  have hmem : t ∈ Sys2Proof.Claims.formats := by
    simp only [List.mem_cons, List.not_mem_nil, or_false] at ht
    rcases ht with rfl | rfl | rfl <;> simp [Sys2Proof.Claims.formats]
  obtain ⟨hmul, hmul0⟩ := Num.value?_mul hx hy
  obtain ⟨hfma, hfma0⟩ := Num.value?_add rm hmul hz
  refine ⟨fun h => ?_, fun h => ?_, fun h => ?_, fun h => ?_⟩
  · exact roundResult_roundsTo hmem rm (Num.value?_add rm hx hy) h
  · rw [sub_eq_add_neg] at h ⊢
    exact roundResult_roundsTo hmem rm (Num.value?_add rm hx (Num.value?_neg hy)) h
  · exact roundResult_roundsTo hmem rm ⟨hmul, hmul0⟩ h
  · exact roundResult_roundsTo hmem rm ⟨hfma, by rw [hmul0, hfma0, BitVec.or_self]⟩ h

end

/-! ## The order of FP32 words -/

namespace Sys2Proof.Machine
open Sys2Proof Sys2Proof.Claims

theorem fmtF32_wf : fmtF32.Wf := ⟨by decide, by decide, by decide, by decide⟩

/-- The sign and the magnitude code of a word as FP32 (R22). -/
def signOf (x : Word) : Bool := x.getLsbD 31
def codeOf (x : Word) : Nat := x.toNat % 2 ^ 31
/-- The sign and the magnitude code as one integer, in the order of the values; both zeros are 0. -/
def ordOf (x : Word) : Int := if signOf x then -(codeOf x : Int) else codeOf x
/-- The same, -0 below +0 (R36). -/
def keyOf (x : Word) : Int := if signOf x then -1 - (codeOf x : Int) else codeOf x

theorem codeOf_lt (x : Word) : codeOf x < fmtF32.signBit := Nat.mod_lt _ (by decide)

theorem toNat_eq_signed (x : Word) : x.toNat = fmtF32.signed (signOf x) (codeOf x) := by
  have hlt := x.isLt
  have hmsb : signOf x = decide (2 ^ 31 ≤ x.toNat) := by
    rw [signOf, show x.getLsbD 31 = x.msb from rfl, BitVec.msb_eq_decide]
  rw [hmsb, Fmt.signed, codeOf, show fmtF32.signBit = 2 ^ 31 by decide]
  by_cases h : 2 ^ 31 ≤ x.toNat
  · simp only [h, decide_true, if_true]
    omega
  · simp only [h, decide_false, Bool.false_eq_true, if_false]
    omega

theorem signOf_eq_decide (x : Word) : signOf x = decide (keyOf x < 0) := by
  unfold keyOf
  cases signOf x
  · simp
  · simp only [if_true, true_eq_decide_iff]
    omega

theorem keyOf_injective : Function.Injective keyOf := by
  intro x y h
  have hs : signOf x = signOf y := by rw [signOf_eq_decide, h, ← signOf_eq_decide]
  have hc : codeOf x = codeOf y := by
    unfold keyOf at h
    rw [hs] at h
    split at h <;> omega
  exact BitVec.eq_of_toNat_eq (by rw [toNat_eq_signed x, toNat_eq_signed y, hs, hc])

/-- What a word decodes to as FP32: a NaN past the code of infinity, that infinity, or a finite number. -/
theorem f32Of_cases (x : Word) : ((f32Of x).isNan = true ∧ 0x7F800000 < codeOf x) ∨ (f32Of x = .inf (signOf x) ∧ codeOf x = 0x7F800000) ∨
    ((f32Of x).isNan = false ∧ codeOf x < 0x7F800000 ∧ (f32Of x).sign = signOf x ∧
      (f32Of x).value? = some ((if signOf x then -1 else 1) * fmtF32.mag (codeOf x))) := by
  have hdec := Fmt.decode_signed fmtF32_wf (signOf x) (codeOf_lt x)
  have hfin := Fmt.finite?_signed fmtF32_wf (signOf x) (codeOf_lt x)
  rw [finite?_eq_value?] at hfin
  rw [← toNat_eq_signed] at hdec hfin
  have hlt : codeOf x < 2 ^ 31 := codeOf_lt x
  change f32Of x = _ at hdec
  change (f32Of x).value? = _ at hfin
  rw [show fmtF32.maxCode = 0x7F7FFFFF by decide] at hdec hfin
  rw [show fmtF32.w = 23 from rfl] at hdec
  rcases lt_trichotomy (codeOf x) 0x7F800000 with h | h | h
  · refine .inr (.inr ⟨?_, h, ?_, by rw [hfin, if_pos (by omega)]⟩)
    · rw [hdec, if_neg (by omega)]
      split_ifs <;> rfl
    · rw [hdec, if_neg (by omega)]
      split_ifs <;> rfl
  · exact .inr (.inl ⟨by rw [hdec, if_pos (by omega), if_pos (by omega)], h⟩)
  · exact .inl ⟨by rw [hdec, if_pos (by omega), if_neg (by omega)]; rfl, h⟩

theorem codeOf_le_of_not_nan {x : Word} (h : (f32Of x).isNan = false) : codeOf x ≤ 0x7F800000 := by
  rcases f32Of_cases x with ⟨h1, -⟩ | ⟨-, h2⟩ | ⟨-, h2, -⟩
  · rw [h] at h1
    cases h1
  · exact h2.le
  · exact h2.le

theorem sign_f32Of {x : Word} (h : (f32Of x).isNan = false) : (f32Of x).sign = signOf x := by
  rcases f32Of_cases x with ⟨h1, -⟩ | ⟨h2, -⟩ | ⟨-, -, h2, -⟩
  · rw [h] at h1
    cases h1
  · rw [h2]
    rfl
  · exact h2

theorem compare_scaleTo (i j e g : Int) :
    compare (scaleTo i e (min e g)) (scaleTo j g (min e g)) = cmp (i * (2 : ℚ) ^ e) (j * (2 : ℚ) ^ g) := by
  rw [← scaleTo_cast (min_le_left e g), ← scaleTo_cast (min_le_right e g), cmp_mul_pos_right (by positivity), Int.cast_strictMono.cmp_map_eq,
    cmp_eq_compare]

/-- The integer and the exponent that `Num.cmp` compares stand for the value. -/
theorem Num.exists_of_value? {x : Num} {u : ℚ} (hx : x.value? = some u) :
    (∃ z, x = .zero z ∧ u = (0 : Int) * (2 : ℚ) ^ (0 : Int)) ∨ ∃ n m e, x = .fin n m e ∧ u = sgn n m * (2 : ℚ) ^ e := by
  cases x with
  | nan => cases hx
  | inf => cases hx
  | zero z => exact .inl ⟨z, rfl, by simpa [Num.value?, eq_comm] using hx⟩
  | fin n m e => exact .inr ⟨n, m, e, rfl, by rw [sgn_cast]; exact (Option.some.inj hx).symm⟩

/-- Numbers with a value are ordered by it. -/
theorem numCmp_eq_cmp {x y : Num} {u v : ℚ} (hx : x.value? = some u) (hy : y.value? = some v) : Num.cmp x y = cmp u v := by
  obtain ⟨a, rfl, rfl⟩ | ⟨n, m, e, rfl, rfl⟩ := Num.exists_of_value? hx <;>
    obtain ⟨b, rfl, rfl⟩ | ⟨k, j, g, rfl, rfl⟩ := Num.exists_of_value? hy <;> exact compare_scaleTo _ _ _ _

/-- The value of a signed code. -/
def Fmt.signedMag (f : Fmt) (i : Int) : ℚ := if i < 0 then -f.mag i.natAbs else f.mag i.natAbs

theorem Fmt.signedMag_strictMono (f : Fmt) : StrictMono f.signedMag := by
  intro i j hij
  have hi := f.mag_nonneg i.natAbs
  have hj := f.mag_nonneg j.natAbs
  unfold Fmt.signedMag
  by_cases hi0 : i < 0
  · have hpos : 0 < f.mag i.natAbs := f.mag_zero ▸ f.mag_strictMono (by omega)
    by_cases hj0 : j < 0
    · rw [if_pos hi0, if_pos hj0]
      exact neg_lt_neg (f.mag_strictMono (by omega))
    · rw [if_pos hi0, if_neg hj0]
      linarith
  · rw [if_neg hi0, if_neg (by omega)]
    exact f.mag_strictMono (by omega)

theorem Fmt.signedMag_eq (f : Fmt) (n : Bool) (c : Nat) : f.signedMag (if n then -(c : Int) else c) = (if n then -1 else 1) * f.mag c := by
  unfold Fmt.signedMag
  cases n
  · simp
  · rcases Nat.eq_zero_or_pos c with rfl | h
    · simp [Fmt.mag_zero]
    · simp [h]

/-- The value of a word whose code is below infinity's. -/
theorem value?_f32Of {x : Word} (h : codeOf x < 0x7F800000) : (f32Of x).value? = some (fmtF32.signedMag (ordOf x)) := by
  rcases f32Of_cases x with ⟨-, h1⟩ | ⟨-, h1⟩ | ⟨-, -, -, h1⟩
  · omega
  · omega
  · rw [h1, ordOf, Fmt.signedMag_eq]

theorem numCmp_inf_left (n : Bool) {y : Num} {v : ℚ} (hy : y.value? = some v) : Num.cmp (.inf n) y = if n then .lt else .gt := by
  obtain ⟨b, rfl, -⟩ | ⟨k, j, g, rfl, -⟩ := Num.exists_of_value? hy <;> rfl

theorem numCmp_inf_right (n : Bool) {x : Num} {u : ℚ} (hx : x.value? = some u) : Num.cmp x (.inf n) = if n then .gt else .lt := by
  obtain ⟨b, rfl, -⟩ | ⟨k, j, g, rfl, -⟩ := Num.exists_of_value? hx <;> rfl

theorem f32Of_inf {x : Word} (h : codeOf x = 0x7F800000) : f32Of x = .inf (signOf x) := by
  rcases f32Of_cases x with ⟨-, h1⟩ | ⟨h1, -⟩ | ⟨-, h1, -⟩
  · omega
  · exact h1
  · omega

/-- FP32 words that are not NaN are ordered as their signed codes. -/
theorem numCmp_f32Of {x y : Word} (hx : (f32Of x).isNan = false) (hy : (f32Of y).isNan = false) :
    Num.cmp (f32Of x) (f32Of y) = cmp (ordOf x) (ordOf y) := by
  have hcx := codeOf_le_of_not_nan hx
  have hcy := codeOf_le_of_not_nan hy
  rcases hcx.lt_or_eq with hcx | hcx <;> rcases hcy.lt_or_eq with hcy | hcy
  · rw [numCmp_eq_cmp (value?_f32Of hcx) (value?_f32Of hcy), fmtF32.signedMag_strictMono.cmp_map_eq]
  · rw [f32Of_inf hcy, numCmp_inf_right _ (value?_f32Of hcx)]
    symm
    unfold ordOf
    cases signOf y
    · simp only [Bool.false_eq_true, if_false, cmp_eq_lt_iff]
      split <;> omega
    · simp only [if_true, cmp_eq_gt_iff]
      split <;> omega
  · rw [f32Of_inf hcx, numCmp_inf_left _ (value?_f32Of hcy)]
    symm
    unfold ordOf
    cases signOf x
    · simp only [Bool.false_eq_true, if_false, cmp_eq_gt_iff]
      split <;> omega
    · simp only [if_true, cmp_eq_lt_iff]
      split <;> omega
  · rw [f32Of_inf hcx, f32Of_inf hcy, ordOf, ordOf, hcx, hcy]
    cases signOf x <;> cases signOf y <;> rfl

/-! ### FMIN, FMAX -/

/-- Of two words that are not NaN, FMIN takes the one with the smaller key and FMAX the other, in either order (R36). -/
theorem minMaxW_of_key_le {x y : Word} (hx : (f32Of x).isNan = false) (hy : (f32Of y).isNan = false) (h : keyOf x ≤ keyOf y) :
    (minMaxW false x y).1 = x ∧ (minMaxW false y x).1 = x ∧ (minMaxW true x y).1 = y ∧ (minMaxW true y x).1 = y := by
  rcases h.lt_or_eq with h | h
  · have hord : ordOf x < ordOf y ∨ (ordOf x = ordOf y ∧ signOf x = true ∧ signOf y = false) := by
      unfold keyOf at h
      unfold ordOf
      cases hsx : signOf x <;> cases hsy : signOf y <;> simp [hsx, hsy] at h ⊢ <;> omega
    have hsx := sign_f32Of hx
    have hsy := sign_f32Of hy
    rcases hord with hlt | ⟨heq, hnx, hny⟩
    · have h1 := (cmp_eq_lt_iff (ordOf x) (ordOf y)).2 hlt
      have h2 := (cmp_eq_gt_iff (ordOf y) (ordOf x)).2 hlt
      simp [minMaxW, hx, hy, numCmp_f32Of, h1, h2]
    · have h1 := (cmp_eq_eq_iff (ordOf x) (ordOf y)).2 heq
      have h2 := (cmp_eq_eq_iff (ordOf y) (ordOf x)).2 heq.symm
      simp [minMaxW, hx, hy, numCmp_f32Of, h1, h2, hsx, hsy, hnx, hny]
  · obtain rfl := keyOf_injective h
    simp [minMaxW, hx, numCmp_f32Of]

/-- FMIN and FMAX of a NaN and another operand: the other (R36). -/
theorem minMaxW_of_nan {x y : Word} (hx : (f32Of x).isNan = true) (hy : (f32Of y).isNan = false) (isMax : Bool) :
    (minMaxW isMax x y).1 = y ∧ (minMaxW isMax y x).1 = y := by
  simp [minMaxW, hx, hy]

theorem minMaxW_of_nan_nan {x y : Word} (hx : (f32Of x).isNan = true) (hy : (f32Of y).isNan = true) (isMax : Bool) :
    (minMaxW isMax x y).1 = 0x7FC00000 := by
  simp [minMaxW, hx, hy]

/-- Key and value agree in their order. -/
theorem keyOf_le_of_ordOf_lt {x y : Word} (h : ordOf x < ordOf y) : keyOf x ≤ keyOf y := by
  unfold ordOf at h
  unfold keyOf
  split at h <;> split at h <;> simp only [*, if_true, Bool.false_eq_true, if_false] <;> omega

theorem keyOf_bounds {x : Word} (h : (f32Of x).isNan = false) : keyOf 0xFF800000 ≤ keyOf x ∧ keyOf x ≤ keyOf 0x7F800000 := by
  have hc := codeOf_le_of_not_nan h
  rw [show keyOf 0xFF800000 = -1 - 0x7F800000 by decide, show keyOf 0x7F800000 = 0x7F800000 by decide]
  unfold keyOf
  split <;> omega

theorem not_nan_of_value? {x : Num} {u : ℚ} (h : x.value? = some u) : x.isNan = false := by
  cases x with
  | nan => cases h
  | _ => rfl

/-- Words with values compare as they do. -/
theorem ordOf_cmp_of_finite? {x y : Word} {u v : ℚ} (hx : finite? fmtF32 x.toNat = some u) (hy : finite? fmtF32 y.toNat = some v) :
    cmp (ordOf x) (ordOf y) = cmp u v := by
  rw [finite?_eq_value?] at hx hy
  rw [← numCmp_f32Of (not_nan_of_value? hx) (not_nan_of_value? hy)]
  exact numCmp_eq_cmp hx hy

/-! ### FCLASS -/

/-- FCLASS reads the class off the fields of the word (R397). -/
theorem classBit_eq (x : Word) : classBit x =
    (let n := x.getLsbD 31
     let e := x.toNat / 2 ^ 23 % 256
     let m := x.toNat % 2 ^ 23
     if e = 255 then (if m = 0 then (if n then 0 else 7) else if x.getLsbD 22 then 9 else 8)
     else if e = 0 then (if m = 0 then (if n then 3 else 4) else (if n then 2 else 5))
     else if n then 1 else 6) := by
  have hdec := Fmt.decode_signed fmtF32_wf (signOf x) (codeOf_lt x)
  rw [← toNat_eq_signed, show fmtF32.maxCode = 0x7F7FFFFF by decide, show fmtF32.w = 23 from rfl] at hdec
  have he : x.toNat / 2 ^ 23 % 256 = codeOf x / 2 ^ 23 := by
    unfold codeOf
    omega
  have hm : x.toNat % 2 ^ 23 = codeOf x % 2 ^ 23 := by
    unfold codeOf
    omega
  have hq : x.getLsbD 22 = decide (codeOf x % 2 ^ 23 / 2 ^ 22 = 1) := by
    rw [BitVec.getLsbD, Nat.testBit_eq_decide_div_mod_eq]
    unfold codeOf
    congr 1
    apply propext
    omega
  have hlt : codeOf x < 2 ^ 31 := codeOf_lt x
  dsimp only
  rw [he, hm, hq, show x.getLsbD 31 = signOf x from rfl]
  unfold classBit f32Of
  rw [hdec]
  by_cases hmax : 0x7F7FFFFF < codeOf x
  · rw [if_pos hmax, if_pos (show codeOf x / 2 ^ 23 = 255 by omega)]
    by_cases hz : codeOf x % 2 ^ 23 = 0
    · rw [if_pos hz, if_pos hz]
    · rw [if_neg hz, if_neg hz]
      have hlt2 : codeOf x % 2 ^ 23 / 2 ^ 22 < 2 := by omega
      rw [show 23 - 1 = 22 from rfl]
      generalize codeOf x % 2 ^ 23 / 2 ^ 22 = q at hlt2 ⊢
      interval_cases q <;> rfl
  · rw [if_neg hmax, if_neg (show ¬ codeOf x / 2 ^ 23 = 255 by omega)]
    by_cases he0 : codeOf x / 2 ^ 23 = 0
    · rw [if_pos he0, if_pos he0]
      by_cases hz : codeOf x % 2 ^ 23 = 0
      · rw [if_pos hz, if_pos hz]
      · rw [if_neg hz, if_neg hz]
        exact if_pos (Nat.mod_lt _ (by decide))
    · rw [if_neg he0, if_neg he0]
      exact if_neg (by omega)

/-! ### FCMP -/

/-- An unordered comparison (R399). -/
theorem fcmpW_of_nan {x y : Word} (h : (f32Of x).isNan = true ∨ (f32Of y).isNan = true) (k : FCond) :
    fcmpW k x y = (decide (k = .ne ∨ k = .un),
      if k = .lt ∨ k = .le ∨ k = .gt ∨ k = .ge ∨ (f32Of x).isSig ∨ (f32Of y).isSig then flagNV else 0) := by
  have hor : ((f32Of x).isNan || (f32Of y).isNan) = true := by simpa using h
  unfold fcmpW sigNv
  dsimp only
  rw [if_pos hor]
  cases k <;> simp [FCond.signals]

/-- What an ordered comparison says of two words in a linear order (R398). -/
def fcondHolds {α : Type} [LinearOrder α] (a b : α) : FCond → Bool
  | .eq => decide (a = b)
  | .lt => decide (a < b)
  | .le => decide (a ≤ b)
  | .un => false
  | .ne => decide (a ≠ b)
  | .gt => decide (b < a)
  | .ge => decide (b ≤ a)
  | .or => true

theorem fcondHolds_congr {α β : Type} [LinearOrder α] [LinearOrder β] {a b : α} {c d : β} (h : cmp a b = cmp c d) : fcondHolds a b = fcondHolds c d := by
  have hlt : a < b ↔ c < d := by rw [← cmp_eq_lt_iff, h, cmp_eq_lt_iff]
  have heq : a = b ↔ c = d := by rw [← cmp_eq_eq_iff, h, cmp_eq_eq_iff]
  have hgt : b < a ↔ d < c := by rw [← cmp_eq_gt_iff, h, cmp_eq_gt_iff]
  funext k
  cases k <;> simp [fcondHolds, hlt, heq, hgt, ← not_lt]

theorem fcmpW_of_not_nan {x y : Word} (hx : (f32Of x).isNan = false) (hy : (f32Of y).isNan = false) (k : FCond) :
    fcmpW k x y = (fcondHolds (ordOf x) (ordOf y) k, 0) := by
  unfold fcmpW
  dsimp only
  rw [hx, hy, numCmp_f32Of hx hy]
  rcases lt_trichotomy (ordOf x) (ordOf y) with h | h | h
  · rw [(cmp_eq_lt_iff _ _).2 h]
    cases k <;> simp [fcondHolds, h, h.ne, h.le, h.not_gt, h.not_ge]
  · rw [(cmp_eq_eq_iff _ _).2 h, h]
    cases k <;> simp [fcondHolds]
  · rw [(cmp_eq_gt_iff _ _).2 h]
    cases k <;> simp [fcondHolds, h, h.ne', h.le, h.not_gt, h.not_ge]

/-- The word of an infinity is the only one of its order. -/
theorem ordOf_eq_infinity {y : Word} : (ordOf y = 0x7F800000 ↔ y = 0x7F800000) ∧ (ordOf y = -0x7F800000 ↔ y = 0xFF800000) := by
  constructor
  · refine ⟨fun h => keyOf_injective ?_, fun h => h ▸ by decide⟩
    rw [show keyOf 0x7F800000 = 0x7F800000 by decide, ← h]
    unfold ordOf at h
    unfold ordOf keyOf
    split at h
    · omega
    · simp [*]
  · refine ⟨fun h => keyOf_injective ?_, fun h => h ▸ by decide⟩
    rw [show keyOf 0xFF800000 = -1 - 0x7F800000 by decide]
    unfold ordOf at h
    unfold keyOf
    split at h
    · simp only [*, if_true]
      omega
    · omega

theorem ordOf_bounds {x : Word} (h : (f32Of x).isNan = false) : -0x7F800000 ≤ ordOf x ∧ ordOf x ≤ 0x7F800000 := by
  have hc := codeOf_le_of_not_nan h
  unfold ordOf
  split <;> omega

end Sys2Proof.Machine

section
open Sys2Proof.Machine

theorem floatMinMaxClass : Sys2Proof.Claims.FloatMinMaxClass := by
  unfold Sys2Proof.Claims.FloatMinMaxClass
  refine ⟨⟨fun x y => (minMaxW false x y).1, fun x y => (minMaxW true x y).1, sigNv, ?_, ?_, fun _ _ => rfl, ?_, ?_, ?_, ?_, ?_⟩, classBit, ?_, classBit_eq⟩
  · exact fun d a b s ⟨l, hl, hlegal⟩ => laneOpF_next hl hlegal
  · exact fun d a b s ⟨l, hl, hlegal⟩ => laneOpF_next hl hlegal
  · exact fun x y hx hy => ⟨minMaxW_of_nan_nan hx hy false, minMaxW_of_nan_nan hx hy true⟩
  · exact fun x y hx hy => ⟨(minMaxW_of_nan hx hy false).1, (minMaxW_of_nan hx hy false).2, (minMaxW_of_nan hx hy true).1, (minMaxW_of_nan hx hy true).2⟩
  · intro x y u v hx hy huv
    have hord : ordOf x < ordOf y := (cmp_eq_lt_iff _ _).1 ((ordOf_cmp_of_finite? hx hy).trans ((cmp_eq_lt_iff u v).2 huv))
    rw [finite?_eq_value?] at hx hy
    exact minMaxW_of_key_le (not_nan_of_value? hx) (not_nan_of_value? hy) (keyOf_le_of_ordOf_lt hord)
  · intro x hx
    change (f32Of x).isNan = false at hx
    obtain ⟨hneg, hpos⟩ := keyOf_bounds hx
    obtain ⟨h1, -, h2, -⟩ := minMaxW_of_key_le hx hx le_rfl
    obtain ⟨p1, p2, p3, p4⟩ := minMaxW_of_key_le hx (by decide) hpos
    obtain ⟨n1, n2, n3, n4⟩ := minMaxW_of_key_le (by decide) hx hneg
    exact ⟨h1, h2, p1, p2, p3, p4, n2, n1, n4, n3⟩
  · obtain ⟨h1, h2, h3, h4⟩ := minMaxW_of_key_le (x := 0x80000000) (y := 0) (by decide) (by decide) (by decide)
    exact ⟨h2, h1, h4, h3⟩
  · exact fun d a s ⟨l, hl, hlegal⟩ => laneOp_next hl hlegal

theorem compareFloats : Sys2Proof.Claims.CompareFloats := by
  unfold Sys2Proof.Claims.CompareFloats
  refine ⟨fun k x y => (fcmpW k x y).1, fun k x y => (fcmpW k x y).2, ?_, fun _ _ => rfl, ?_, ?_⟩
  · exact fun p a b k s ⟨l, hl, hlegal⟩ => laneOpF_next hl hlegal
  · intro x y hx hy
    change (f32Of x).isNan = false at hx
    change (f32Of y).isNan = false at hy
    obtain ⟨hxlo, hxhi⟩ := ordOf_bounds hx
    obtain ⟨hylo, hyhi⟩ := ordOf_bounds hy
    have hneg : (f32Of 0xFF800000).isNan = false := by decide
    have hpos : (f32Of 0x7F800000).isNan = false := by decide
    have eneg : ordOf 0xFF800000 = -0x7F800000 := by decide
    have epos : ordOf 0x7F800000 = 0x7F800000 := by decide
    simp only [fcmpW_of_not_nan, hx, hy, hneg, hpos, eneg, epos, fcondHolds, ne_eq, ← ordOf_eq_infinity.1, ← ordOf_eq_infinity.2]
    refine ⟨fun _ => trivial, decide_not, ?le, trivial, trivial, trivial, trivial, decide_eq_decide.2 (by omega), decide_eq_false (by omega),
      decide_eq_decide.2 (by omega), decide_eq_false (by omega), trivial, trivial⟩
    rw [← Bool.decide_or, decide_eq_decide]
    exact le_iff_lt_or_eq
  · intro k x y
    refine ⟨fun h => ?_, fun u v hx hy => ?_⟩
    · dsimp only
      rw [fcmpW_of_nan h]
      exact ⟨rfl, rfl⟩
    · have hcmp := ordOf_cmp_of_finite? hx hy
      rw [finite?_eq_value?] at hx hy
      dsimp only
      rw [fcmpW_of_not_nan (not_nan_of_value? hx) (not_nan_of_value? hy), fcondHolds_congr hcmp]
      refine ⟨rfl, ?_⟩
      cases k <;> simp [fcondHolds]

/-- Settles O9: on words that are not NaN, FMIN, FMAX and FCMP follow the order of the signed codes (`numCmp_f32Of`). -/
theorem floatOrderAndClass : Obligations.FloatOrderAndClass := by
  unfold Obligations.FloatOrderAndClass
  exact ⟨floatMinMaxClass, compareFloats⟩

end

/-! ## The algebra of long accumulators -/

namespace Sys2Proof.Machine
open Sys2Proof Sys2Proof.Claims

theorem laMerge_comm (a b : LA) : laMerge a b false = laMerge b a false := by
  simp [laMerge, BitVec.add_comm, Bool.and_comm, Bool.or_comm]

theorem laMerge_assoc (a b c : LA) : laMerge (laMerge a b false) c false = laMerge a (laMerge b c false) false := by
  simp only [laMerge, Bool.false_eq_true, if_false, BitVec.add_assoc, Bool.and_assoc, Bool.or_assoc, LA.mk.injEq, true_and]
  generalize a.pi = a1, a.ni = a2, a.nv = a3, b.pi = b1, b.ni = b2, b.nv = b3, c.pi = c1, c.ni = c2, c.nv = c3
  grind

/-- Adding an addend is merging the accumulator that holds it alone (R47, R48). -/
theorem laAdd_eq_laMerge (a : LA) (x : Num) : laAdd a x = laMerge a (laAdd LA0 x) false := by
  cases x with
  | nan s => simp [laAdd, laMerge, LA0]
  | inf n => cases n <;> simp [laAdd, laMerge, LA0]
  | zero n => cases n <;> simp [laAdd, laMerge, LA0]
  | fin n m e => simp [laAdd, laMerge, LA0]

theorem laAdd_right_comm (a : LA) (x y : Num) : laAdd (laAdd a x) y = laAdd (laAdd a y) x := by
  rw [laAdd_eq_laMerge (laAdd a x), laAdd_eq_laMerge a x, laMerge_assoc, laMerge_comm (laAdd LA0 x), ← laMerge_assoc, ← laAdd_eq_laMerge,
    ← laAdd_eq_laMerge]

theorem laMerge_laAdd_left (a b : LA) (x : Num) : laMerge (laAdd a x) b false = laAdd (laMerge a b false) x := by
  rw [laAdd_eq_laMerge a x, laAdd_eq_laMerge (laMerge a b false) x, laMerge_assoc, laMerge_comm (laAdd LA0 x), ← laMerge_assoc]

theorem laMerge_laAdd_right (a b : LA) (x : Num) : laMerge a (laAdd b x) false = laAdd (laMerge a b false) x := by
  rw [laAdd_eq_laMerge b x, laAdd_eq_laMerge (laMerge a b false) x, laMerge_assoc]

/-- An accumulator whose NV says that it has met both infinities, as every sum of addends does (R47). -/
def Saturated (a : LA) : Prop := (a.pi && a.ni) = true → a.nv = true

theorem saturated_laAdd (a : LA) (x : Num) : Saturated (laAdd a x) := by
  intro h
  unfold laAdd at h ⊢
  simp only at h ⊢
  rw [h, Bool.or_true]

theorem saturated_foldl_laAdd {a : LA} (ha : Saturated a) (xs : List Num) : Saturated (xs.foldl laAdd a) := by
  induction xs generalizing a with
  | nil => exact ha
  | cons x xs ih => exact ih (saturated_laAdd a x)

theorem laMerge_LA0 {a : LA} (ha : Saturated a) : laMerge a LA0 false = a := by
  unfold Saturated at ha
  have hnv : (a.nv || (a.pi && a.ni)) = a.nv := by
    cases h : a.pi && a.ni
    · rw [Bool.or_false]
    · rw [ha h, Bool.or_true]
  simp [laMerge, LA0, hnv]

/-- Adding the addends of one list after those of another is merging the two sums (R49). -/
theorem laMerge_foldl_laAdd {a : LA} (ha : Saturated a) (ys : List Num) : laMerge a (ys.foldl laAdd LA0) false = ys.foldl laAdd a := by
  induction ys using List.reverseRecOn with
  | nil => exact laMerge_LA0 ha
  | append_singleton ys y ih => simp only [List.foldl_append, List.foldl_cons, List.foldl_nil, laMerge_laAdd_right, ih]

theorem foldl_laAdd_perm {xs ys : List Num} (h : xs.Perm ys) (a : LA) : xs.foldl laAdd a = ys.foldl laAdd a := by
  have : RightCommutative laAdd := ⟨laAdd_right_comm⟩
  exact h.foldl_eq a

/-! ### The addends -/

/-- The integer that a finite addend adds: its value times 2^298 (R47). -/
theorem sgn_mul_two_pow_eq {n : Bool} {m : Nat} {e X : Int} (he : -298 ≤ e)
    (hX : (X : ℚ) = (if n then -1 else 1) * m * (2 : ℚ) ^ e * (2 : ℚ) ^ (298 : Nat)) : sgn n m * 2 ^ (e + 298).toNat = X := by
  have h : ((sgn n m * 2 ^ (e + 298).toNat : Int) : ℚ) = X := by
    rw [hX]
    push_cast
    rw [sgn_cast, mul_assoc _ ((2 : ℚ) ^ e), ← zpow_natCast, ← zpow_natCast, ← zpow_add₀ two_ne_zero, Int.toNat_of_nonneg (by omega)]
    rfl
  exact_mod_cast h

theorem laProduct_fin (n k : Bool) (m j : Nat) (e f : Int) : laProduct (.fin n m e) (.fin k j f) = .fin (n != k) (m * j) (e + f) := rfl

/-- An infinity times what is neither a NaN nor a zero. -/
theorem laProduct_inf {y : Num} (hnan : y.isNan = false) (hzero : ∀ j, y ≠ .zero j) (n : Bool) :
    laProduct (.inf n) y = .inf (n != y.sign) ∧ laProduct y (.inf n) = .inf (y.sign != n) := by
  cases y with
  | nan => cases hnan
  | zero j => exact absurd rfl (hzero j)
  | inf => exact ⟨rfl, rfl⟩
  | fin => exact ⟨rfl, rfl⟩

/-- A zero times what is neither a NaN nor an infinity. -/
theorem laProduct_zero {y : Num} (hnan : y.isNan = false) (hinf : ∀ j, y ≠ .inf j) (n : Bool) :
    laProduct (.zero n) y = .zero (n != y.sign) ∧ laProduct y (.zero n) = .zero (y.sign != n) := by
  cases y with
  | nan => cases hnan
  | inf j => exact absurd rfl (hinf j)
  | zero => exact ⟨rfl, rfl⟩
  | fin => exact ⟨rfl, rfl⟩

theorem laProduct_nan {x y : Num} (h : x.isNan = true ∨ y.isNan = true) : (laProduct x y).isNan = true := by
  cases x with
  | nan => rfl
  | _ =>
    cases y with
    | nan => rfl
    | _ => simp [Num.isNan] at h

/-! ### The largest and the smallest of a collective's words -/

/-- Of two words the one with the smaller key, the first of two equal ones. -/
def pick (key : Word → Int) (x y : Word) : Word := if key x ≤ key y then x else y

theorem pick_comm {key : Word → Int} (hkey : Function.Injective key) (x y : Word) : pick key x y = pick key y x := by
  unfold pick
  rcases lt_trichotomy (key x) (key y) with h | h | h
  · rw [if_pos h.le, if_neg h.not_ge]
  · rw [hkey h]
  · rw [if_neg h.not_ge, if_pos h.le]

theorem pick_assoc (key : Word → Int) (x y z : Word) : pick key (pick key x y) z = pick key x (pick key y z) := by
  unfold pick
  by_cases hxy : key x ≤ key y <;> by_cases hyz : key y ≤ key z
  · simp [hxy, hyz, hxy.trans hyz]
  · simp [hxy, hyz]
  · simp [hxy, hyz]
  · simp [hxy, hyz, show ¬ key x ≤ key z by omega]

theorem pick_eq_left {key : Word → Int} {x y : Word} (h : key x ≤ key y) : pick key x y = x := if_pos h

theorem pick_eq_right {key : Word → Int} (hkey : Function.Injective key) {x y : Word} (h : key y ≤ key x) : pick key x y = y := by
  rw [pick_comm hkey, pick_eq_left h]

theorem pick_eq_or (key : Word → Int) (x y : Word) : pick key x y = x ∨ pick key x y = y := ite_eq_or_eq ..

/-- The key by which FMIN, or FMAX, chooses the smaller. -/
def minMaxKey (isMax : Bool) (w : Word) : Int := if isMax then -keyOf w else keyOf w

theorem minMaxKey_injective (isMax : Bool) : Function.Injective (minMaxKey isMax) := by
  intro x y h
  refine keyOf_injective ?_
  unfold minMaxKey at h
  split at h <;> omega

theorem minMaxW_eq_pick (isMax : Bool) {x y : Word} (hx : (f32Of x).isNan = false) (hy : (f32Of y).isNan = false) :
    (minMaxW isMax x y).1 = pick (minMaxKey isMax) x y := by
  have hinj := minMaxKey_injective isMax
  rcases le_total (keyOf x) (keyOf y) with h | h
  · obtain ⟨h1, -, h2, -⟩ := minMaxW_of_key_le hx hy h
    cases isMax
    · rw [h1, pick_eq_left (by simpa [minMaxKey] using h)]
    · rw [h2, pick_eq_right hinj (by simpa [minMaxKey] using h)]
  · obtain ⟨-, h1, -, h2⟩ := minMaxW_of_key_le hy hx h
    cases isMax
    · rw [h1, pick_eq_right hinj (by simpa [minMaxKey] using h)]
    · rw [h2, pick_eq_left (by simpa [minMaxKey] using h)]

theorem minMaxW_not_nan (isMax : Bool) {x y : Word} (hx : (f32Of x).isNan = false) (hy : (f32Of y).isNan = false) :
    (f32Of (minMaxW isMax x y).1).isNan = false := by
  rw [minMaxW_eq_pick isMax hx hy]
  rcases pick_eq_or (minMaxKey isMax) x y with h | h <;> rw [h]
  · exact hx
  · exact hy

theorem minMaxW_comm (isMax : Bool) (x y : Word) : (minMaxW isMax x y).1 = (minMaxW isMax y x).1 := by
  cases hx : (f32Of x).isNan <;> cases hy : (f32Of y).isNan
  · rw [minMaxW_eq_pick isMax hx hy, minMaxW_eq_pick isMax hy hx, pick_comm (minMaxKey_injective isMax)]
  · rw [(minMaxW_of_nan hy hx isMax).1, (minMaxW_of_nan hy hx isMax).2]
  · rw [(minMaxW_of_nan hx hy isMax).1, (minMaxW_of_nan hx hy isMax).2]
  · rw [minMaxW_of_nan_nan hx hy, minMaxW_of_nan_nan hy hx]

theorem minMaxW_assoc (isMax : Bool) (x y z : Word) :
    (minMaxW isMax (minMaxW isMax x y).1 z).1 = (minMaxW isMax x (minMaxW isMax y z).1).1 := by
  have hcanon : (f32Of 0x7FC00000).isNan = true := by decide
  cases hx : (f32Of x).isNan <;> cases hy : (f32Of y).isNan <;> cases hz : (f32Of z).isNan
  · rw [minMaxW_eq_pick isMax (minMaxW_not_nan isMax hx hy) hz, minMaxW_eq_pick isMax hx (minMaxW_not_nan isMax hy hz),
      minMaxW_eq_pick isMax hx hy, minMaxW_eq_pick isMax hy hz, pick_assoc]
  · rw [(minMaxW_of_nan hz hy isMax).2, (minMaxW_of_nan hz (minMaxW_not_nan isMax hx hy) isMax).2]
  · rw [(minMaxW_of_nan hy hx isMax).2, (minMaxW_of_nan hy hz isMax).1]
  · rw [(minMaxW_of_nan hy hx isMax).2, (minMaxW_of_nan hz hx isMax).2, minMaxW_of_nan_nan hy hz, (minMaxW_of_nan hcanon hx isMax).2]
  · rw [(minMaxW_of_nan hx hy isMax).1, (minMaxW_of_nan hx (minMaxW_not_nan isMax hy hz) isMax).1]
  · rw [(minMaxW_of_nan hx hy isMax).1, (minMaxW_of_nan hz hy isMax).2, (minMaxW_of_nan hx hy isMax).1]
  · rw [minMaxW_of_nan_nan hx hy, (minMaxW_of_nan hcanon hz isMax).1, (minMaxW_of_nan hy hz isMax).1, (minMaxW_of_nan hx hz isMax).1]
  · rw [minMaxW_of_nan_nan hx hy, minMaxW_of_nan_nan hcanon hz, minMaxW_of_nan_nan hy hz, minMaxW_of_nan_nan hx hcanon]

/-- The signed integer, or its negative: the key of a collective's largest or smallest. -/
def intKey (isMax : Bool) (w : Word) : Int := if isMax then -w.toInt else w.toInt

theorem intKey_injective (isMax : Bool) : Function.Injective (intKey isMax) := by
  intro x y h
  refine BitVec.eq_of_toInt_eq ?_
  unfold intKey at h
  split at h <;> omega

/-- The largest (operation 2) or the smallest (3) of two words, floats or integers (R219). -/
def extremum (op type : Nat) (x y : Word) : Word := if type = 1 then pick (intKey (op == 2)) x y else (minMaxW (op == 2) x y).1

theorem combine_word {op : Nat} (hop : op = 2 ∨ op = 3) (type : Nat) (x y : Word) :
    combine op type (.word x) (.word y) = .word (extremum op type x y) := by
  have hint : (if (op = 2) = (y.toInt ≤ x.toInt) then x else y) = pick (intKey (op == 2)) x y := by
    rcases lt_trichotomy x.toInt y.toInt with h | h | h
    · rcases hop with rfl | rfl <;> simp [pick, intKey, h.le, h.not_ge]
    · obtain rfl := BitVec.eq_of_toInt_eq h
      simp [pick]
    · rcases hop with rfl | rfl <;> simp [pick, intKey, h.le, h.not_ge]
  simp only [combine, if_pos hop, hint, extremum]
  split <;> rfl

theorem extremum_comm (op type : Nat) (x y : Word) : extremum op type x y = extremum op type y x := by
  unfold extremum
  split
  · exact pick_comm (intKey_injective _) x y
  · exact minMaxW_comm _ x y

theorem extremum_assoc (op type : Nat) (x y z : Word) : extremum op type (extremum op type x y) z = extremum op type x (extremum op type y z) := by
  unfold extremum
  split
  · exact pick_assoc _ x y z
  · exact minMaxW_assoc _ x y z

end Sys2Proof.Machine

section
open Sys2Proof.Machine

/-- Settles O16: an addend is merged as an accumulator of its own (`laAdd_eq_laMerge`), and merging is commutative and associative. -/
theorem accumulatorAlgebra : Obligations.AccumulatorAlgebra := by
  unfold Obligations.AccumulatorAlgebra
  refine ⟨fun a s => ?nan, fun a n => ?inf, fun a n => ?zero, fun a n m e X hm he hX => ?fin, fun x y => ⟨laProduct_nan, fun n k => ⟨rfl, rfl, ?pinf, ?pzero⟩⟩,
    fun n k m j e f => ⟨_, _, _, laProduct_fin n k m j e f, ?product⟩, laMerge_assoc, laMerge_comm, laAdd_right_comm, laMerge_laAdd_left,
    fun xs ys h => foldl_laAdd_perm h LA0, fun xs ys => ?append, fun op hop type htype x y z => ?words⟩
  case nan => simp [laAdd]
  case inf => cases n <;> simp [laAdd]
  case zero => cases n <;> simp [laAdd]
  case fin => simp [laAdd, sgn_mul_two_pow_eq he hX]
  case pinf => exact fun hnan hzero => laProduct_inf hnan hzero n
  case pzero => exact fun hnan hinf => laProduct_zero hnan hinf n
  case product =>
    rw [sign_xor, zpow_add₀ two_ne_zero]
    push_cast
    ring
  case append =>
    rw [List.foldl_append]
    exact laMerge_foldl_laAdd (saturated_foldl_laAdd (by simp [Saturated, LA0]) xs) ys
  case words =>
    have hop' : op = 2 ∨ op = 3 := by simpa using hop
    simp only [combine_word hop']
    exact ⟨by rw [extremum_comm], by rw [extremum_assoc]⟩

end

/-! ## Images and rounding of long accumulators -/

namespace Sys2Proof.Machine
open Sys2Proof Sys2Proof.Claims

theorem fld_eq (x p n : Nat) : fld x p n = x / 2 ^ p % 2 ^ n := rfl

theorem fld_one_beq (x p : Nat) : (fld x p 1 == 1) = x.testBit p := by
  rw [fld_eq, Nat.testBit_eq_decide_div_mod_eq]
  rfl

theorem signedOf_fld (x p n : Nat) : signedOf n (fld x p n) = (BitVec.ofNat n (x / 2 ^ p)).toInt := by
  rw [signedOf, fld_eq]
  congr 1
  exact BitVec.eq_of_toNat_eq (by simp)

/-- The sum of the first carries of an image, each with its weight (R43). -/
theorem carrySum_eq_sum (img n : Nat) :
    carrySum img n = ∑ i ∈ Finset.range n, (BitVec.ofNat 8 (img / 2 ^ (640 + 8 * i))).toInt * 2 ^ (64 * (i + 1)) := by
  induction n with
  | zero => rfl
  | succ n ih => rw [carrySum, Finset.sum_range_succ, ih, signedOf_fld]

theorem laOfImage_val (img : Nat) : (laOfImage img).val =
    BitVec.ofInt 640 ((img % 2 ^ 640 : Nat) + ∑ i ∈ Finset.range 10, (BitVec.ofNat 8 (img / 2 ^ (640 + 8 * i))).toInt * 2 ^ (64 * (i + 1))) := by
  rw [← carrySum_eq_sum, BitVec.ofInt_add, BitVec.ofInt_natCast, laOfImage, fld_eq, Nat.pow_zero, Nat.div_one]

/-- The status byte of an accumulator, by its bits (R46). -/
theorem laStatus_eq (a : LA) : laStatus a = a.em.toNat * 16 + a.nz.toNat * 8 + a.ni.toNat * 4 + a.pi.toNat * 2 + a.nv.toNat := by
  unfold laStatus
  cases a.em <;> cases a.nz <;> cases a.ni <;> cases a.pi <;> cases a.nv <;> rfl

theorem laStatus_lt (a : LA) : laStatus a < 32 := by
  rw [laStatus_eq]
  have h := fun b : Bool => Bool.toNat_le b
  have := h a.em
  have := h a.nz
  have := h a.ni
  have := h a.pi
  have := h a.nv
  omega

theorem laStatus_testBit (a : LA) : (laStatus a).testBit 4 = a.em ∧ (laStatus a).testBit 3 = a.nz ∧ (laStatus a).testBit 2 = a.ni ∧
    (laStatus a).testBit 1 = a.pi ∧ (laStatus a).testBit 0 = a.nv := by
  unfold laStatus
  cases a.em <;> cases a.nz <;> cases a.ni <;> cases a.pi <;> cases a.nv <;> decide

/-- The fields of a canonical image (R44, R45). -/
theorem laImage_fields (a : LA) : laImage a < 2 ^ 768 ∧ laImage a % 2 ^ 640 = a.val.toNat ∧ laImage a / 2 ^ 640 % 2 ^ 80 = 0 ∧
    laImage a / 2 ^ 720 = laStatus a := by
  have hv := a.val.isLt
  have hs := laStatus_lt a
  unfold laImage
  refine ⟨?_, ?_, ?_, ?_⟩ <;> omega

theorem testBit_laImage (a : LA) (i : Nat) : (laImage a).testBit (720 + i) = (laStatus a).testBit i := by
  rw [← (laImage_fields a).2.2.2, Nat.testBit_div_two_pow, Nat.add_comm]

/-- A field within a field of zeros. -/
theorem fld_eq_zero_of_fld {x p k i n : Nat} (h : fld x p k = 0) (hle : i + n ≤ k) : fld x (p + i) n = 0 := by
  rw [fld_eq] at h ⊢
  obtain ⟨c, hc⟩ := Nat.dvd_of_mod_eq_zero h
  rw [Nat.pow_add, ← Nat.div_div_eq_div_mul, hc, show k = i + (n + (k - (i + n))) by omega, Nat.pow_add, Nat.mul_assoc,
    Nat.mul_div_cancel_left _ (Nat.two_pow_pos _), Nat.pow_add, Nat.mul_assoc, Nat.mul_mod_right]

/-- A canonical image has no pending carry. -/
theorem carrySum_laImage (a : LA) {n : Nat} (hn : n ≤ 10) : carrySum (laImage a) n = 0 := by
  induction n with
  | zero => rfl
  | succ n ih =>
    have hcarries : fld (laImage a) 640 80 = 0 := (laImage_fields a).2.2.1
    rw [carrySum, ih (by omega), fld_eq_zero_of_fld hcarries (by omega)]
    simp [signedOf]

theorem laOfImage_laImage (a : LA) : laOfImage (laImage a) = a := by
  obtain ⟨-, hval, -, -⟩ := laImage_fields a
  obtain ⟨h4, h3, h2, h1, h0⟩ := laStatus_testBit a
  unfold laOfImage
  simp only [fld_one_beq, carrySum_laImage a le_rfl]
  rw [testBit_laImage a 4, testBit_laImage a 3, testBit_laImage a 2, testBit_laImage a 1, testBit_laImage a 0, h4, h3, h2, h1, h0, fld_eq, Nat.pow_zero,
    Nat.div_one, hval]
  simp

/-! ### Rounding (R50) -/

theorem laValue_eq (x : Int) :
    ((x : ℚ)) * (2 : ℚ) ^ (-298 : Int) = (if decide (x < 0) then -1 else 1) * (x.natAbs : ℚ) * (2 : ℚ) ^ (-298 : Int) := by
  rw [Nat.cast_natAbs]
  rcases lt_or_ge x 0 with h | h
  · simp [h, abs_of_neg h]
  · simp [h.not_gt, abs_of_nonneg h]

/-- An accumulator of finite addends whose value is not zero is rounded once (R50). -/
theorem roundLa_roundsTo {t : Limits} (ht : t ∈ formats) {a : LA} (rm : Rm) (sat : Bool) (hnv : a.nv = false) (hpi : a.pi = false) (hni : a.ni = false)
    (hval : a.val ≠ 0) : RoundsTo t rm sat (roundLa a t.fmt rm sat) ((a.val.toInt : ℚ) * (2 : ℚ) ^ (-298 : Int)) := by
  have hpos : 0 < a.val.toInt.natAbs := Int.natAbs_pos.2 fun h => hval (BitVec.toInt_inj.1 (h.trans BitVec.toInt_zero.symm))
  have hr : roundLa a t.fmt rm sat = t.fmt.roundFin rm sat (decide (a.val.toInt < 0)) a.val.toInt.natAbs (-298) false := by
    rw [roundLa, hnv, hpi, hni, if_neg (by decide), if_neg (by decide), if_neg (by decide), if_neg hval]
  rw [hr, laValue_eq]
  exact Fmt.roundFin_roundsTo (limitsOk_of_mem ht) rm sat _ hpos _

/-- The NaN of a format's limits is the model's. -/
theorem nan_of_mem {t : Limits} (ht : t ∈ formats) : t.fmt.nan = t.nan := by
  simpa [Fmt.round] using congrArg Prod.fst (round_special ht .rne false false).1

theorem roundLa_zero {t : Limits} {a : LA} (rm : Rm) (sat : Bool) (hnv : a.nv = false) (hpi : a.pi = false) (hni : a.ni = false) (hval : a.val = 0) :
    roundLa a t.fmt rm sat = (if a.em then 0 else if a.nz && rm != .rd then 0 else 2 ^ (t.fmt.width - 1), 0) := by
  have hw : 2 ^ (t.fmt.width - 1) = t.fmt.signBit := by
    rw [Fmt.width, Fmt.signBit, show 1 + t.fmt.eb + t.fmt.w - 1 = t.fmt.eb + t.fmt.w by omega]
  rw [hw, roundLa, hnv, hpi, hni, if_neg (by decide), if_neg (by decide), if_neg (by decide), if_pos hval]
  cases a.em <;> cases a.nz <;> cases rm <;> rfl

end Sys2Proof.Machine

section
open Sys2Proof.Machine

/-- Settles O17: the fields of an image, and rounding through `Fmt.roundFin_roundsTo`. -/
theorem accumulatorImageAndRounding : Obligations.AccumulatorImageAndRounding := by
  unfold Obligations.AccumulatorImageAndRounding
  refine ⟨fun a => ?image, fun img => ⟨laOfImage_val img, fld_one_beq img 724, fld_one_beq img 723, fld_one_beq img 722, fld_one_beq img 721, fld_one_beq img 720⟩,
    fun a rm sat t ht hnv hpi hni hval => roundLa_roundsTo ht rm sat hnv hpi hni hval, fun a rm sat t ht => ⟨fun h => ?nan, fun hnv hpi hni => ?pos, fun hnv hpi hni => ?neg,
      fun hnv hpi hni hval => roundLa_zero rm sat hnv hpi hni hval⟩⟩
  case image =>
    obtain ⟨hlt, hval, hcarry, hstatus⟩ := laImage_fields a
    exact ⟨laOfImage_laImage a, hlt, hval, hcarry, hstatus.trans (laStatus_eq a)⟩
  case nan =>
    have hc : (a.nv || (a.pi && a.ni)) = true := by simpa using h
    rw [roundLa, if_pos hc, nan_of_mem ht]
  case pos =>
    rw [← (round_special ht rm sat false).2.1]
    simp [roundLa, hnv, hpi, hni]
  case neg =>
    rw [← (round_special ht rm sat true).2.1]
    simp [roundLa, hnv, hpi, hni]

end

/-! ## What the device's units leave to the lanes and the clusters -/

namespace Sys2Proof.Machine
open Sys2Proof

/-- The lanes and the clusters are as in s0. -/
def State.SameUnits (s0 s : State) : Prop := s.lanes = s0.lanes ∧ s.clusters = s0.clusters

section
variable {s0 s : State}

theorem State.SameUnits.refl : s0.SameUnits s0 := ⟨rfl, rfl⟩

theorem State.SameUnits.cluster (h : s0.SameUnits s) (c : Nat) : s.cluster c = s0.cluster c := by
  unfold State.cluster
  rw [h.2]

/-- A state with the same lanes and clusters. -/
theorem State.SameUnits.same {t : State} (h : s0.SameUnits s) (hl : t.lanes = s.lanes) (hc : t.clusters = s.clusters) : s0.SameUnits t :=
  ⟨hl.trans h.1, hc.trans h.2⟩

theorem State.SameUnits.ite {p : Prop} [Decidable p] {t : State} (hs : s0.SameUnits s) (ht : s0.SameUnits t) : s0.SameUnits (if p then s else t) := by
  split <;> assumption

theorem State.SameUnits.foldl {β : Type} {f : State → β → State} {bs : List β} (h : s0.SameUnits s) (hf : ∀ u b, s0.SameUnits u → s0.SameUnits (f u b)) :
    s0.SameUnits (bs.foldl f s) := by
  induction bs generalizing s with
  | nil => exact h
  | cons b bs ih => exact ih (hf s b h)

theorem State.SameUnits.modPart {p f} (h : s0.SameUnits s) : s0.SameUnits (s.modPart p f) := h

theorem State.SameUnits.modLaunch {p seq f} (h : s0.SameUnits s) : s0.SameUnits (s.modLaunch p seq f) := h

theorem State.SameUnits.count {p ctx ev n} (h : s0.SameUnits s) : s0.SameUnits (s.count p ctx ev n) := h.ite h.modPart

theorem State.SameUnits.countTeam {tid ev n} (h : s0.SameUnits s) : s0.SameUnits (s.countTeam tid ev n) := by
  unfold State.countTeam
  split
  · exact h.count
  · exact h

theorem State.SameUnits.emit {o} (h : s0.SameUnits s) : s0.SameUnits (s.emit o) := h

theorem State.SameUnits.modLine {n f} (h : s0.SameUnits s) : s0.SameUnits (s.modLine n f) := h

theorem State.SameUnits.passFront {a} (h : s0.SameUnits s) : s0.SameUnits (s.passFront a) := by
  unfold State.passFront
  dsimp only
  split
  · exact h.same rfl rfl
  · exact h

theorem State.SameUnits.capBack {ln} (h : s0.SameUnits s) : s0.SameUnits (s.capBack ln) := by
  unfold State.capBack
  dsimp only
  split
  · exact h
  · split
    · split
      · exact h.same rfl rfl
      · exact h.same rfl rfl
    · exact h.same rfl rfl

theorem State.SameUnits.capDrop {ln} (h : s0.SameUnits s) : s0.SameUnits (s.capDrop ln) := h.capBack.same rfl rfl

theorem State.SameUnits.l3Use {ln} (h : s0.SameUnits s) : s0.SameUnits (s.l3Use ln).1 := by
  unfold State.l3Use
  dsimp only
  split
  · split
    · exact State.SameUnits.capDrop (h.same rfl rfl)
    · exact h.same rfl rfl
  · exact h.same rfl rfl

theorem State.SameUnits.hbmEnqueue {p ctx a} (h : s0.SameUnits s) : s0.SameUnits (s.hbmEnqueue p ctx a) := by
  unfold State.hbmEnqueue
  dsimp only
  split
  · exact h.same rfl rfl
  · exact h.same rfl rfl

theorem State.SameUnits.l3Touch {p ctx ln} (h : s0.SameUnits s) : s0.SameUnits (s.l3Touch p ctx ln) := h.l3Use.ite h.l3Use.hbmEnqueue

theorem State.SameUnits.sendAllTok {ln a b} (h : s0.SameUnits s) : s0.SameUnits (s.sendAllTok ln a b) := by
  unfold State.sendAllTok
  dsimp only
  split
  · exact h
  · exact h.same rfl rfl

theorem State.SameUnits.snoopHost {ln excl} (h : s0.SameUnits s) : s0.SameUnits (s.snoopHost ln excl) := h.ite h.emit

theorem State.SameUnits.setLineLa {ln a} (h : s0.SameUnits s) : s0.SameUnits (s.setLineLa ln a) := by
  unfold State.setLineLa
  exact h.same rfl rfl

theorem State.SameUnits.foldNow {ln who} (h : s0.SameUnits s) : s0.SameUnits (s.foldNow ln who).1 := by
  unfold State.foldNow
  extract_lets l bad fly s1 s2 s3 owner ctx
  have h1 : s0.SameUnits s1 := by
    unfold s1
    split
    · exact h
    · exact h.setLineLa
  have h3 : s0.SameUnits s3 := h1.same rfl rfl
  split
  · exact h3.count
  · exact h

theorem State.SameUnits.homeTake {ln} (h : s0.SameUnits s) : s0.SameUnits (s.homeTake ln) := by
  have h1 : s0.SameUnits { (s.foldNow ln none).1 with net := netWithout (s.foldNow ln none).1.net ln } := h.foldNow.same rfl rfl
  unfold State.homeTake
  dsimp only
  split
  · exact .sendAllTok (h1.ite h1.modLine)
  · exact h1.ite h1.modLine

theorem State.SameUnits.putLine {a bs} (h : s0.SameUnits s) : s0.SameUnits (s.putLine a bs) :=
  h.passFront.l3Touch.homeTake.same rfl rfl

theorem State.SameUnits.writeLine' {a bs} (h : s0.SameUnits s) : s0.SameUnits (s.writeLine' a bs) :=
  .ite (.modLine (.ite h.snoopHost h)) h.putLine

theorem State.SameUnits.writeLines {a k bs} (h : s0.SameUnits s) : s0.SameUnits (s.writeLines a k bs) := by
  induction k generalizing s a bs with
  | zero => exact h
  | succ k ih => exact .ite h (ih h.writeLine')

theorem State.SameUnits.devWrite {p a bs} (h : s0.SameUnits s) : s0.SameUnits (s.devWrite p a bs).1 := by
  unfold State.devWrite
  split
  · exact h.writeLines
  · exact h

theorem State.SameUnits.msix {f vec} (h : s0.SameUnits s) : s0.SameUnits (s.msix f vec) := h.ite (h.emit.ite (h.ite (h.same rfl rfl)))

theorem State.SameUnits.opRing {r b} (h : s0.SameUnits s) : s0.SameUnits (s.opRing r b).1 := by
  unfold State.opRing
  split
  · exact h.same rfl rfl
  · exact h

theorem State.SameUnits.opFault {p r} (h : s0.SameUnits s) : s0.SameUnits (s.opFault p r) := by
  unfold State.opFault
  dsimp only
  split
  · exact h
  · exact h
  · exact .msix (h.opRing.same rfl rfl)

theorem State.SameUnits.fqPush {p b} (h : s0.SameUnits s) : s0.SameUnits (s.fqPush p b) :=
  .ite (.msix (h.devWrite.modPart)) h.devWrite.modPart

theorem State.SameUnits.flushHeld {p} (h : s0.SameUnits s) : s0.SameUnits (s.flushHeld p) :=
  h.foldl fun _ _ hu => .ite hu.modPart.fqPush hu

theorem State.SameUnits.record {p r} (h : s0.SameUnits s) : s0.SameUnits (s.record p r) := by
  unfold State.record
  extract_lets q r s1 s2 s3
  have h1 : s0.SameUnits s1 := State.SameUnits.opFault (s := q.2) h.modPart
  have h3 : s0.SameUnits s3 := .flushHeld (.ite h1.count h1)
  exact .ite h3.fqPush (.ite h3.modPart h3.modPart)

theorem State.SameUnits.stopRing {b} (h : s0.SameUnits s) : s0.SameUnits (s.stopRing b) := .msix (h.opRing.same rfl rfl)

/-- A halt stops the lanes of its partition; the clusters stay. -/
theorem State.halt_clusters (s : State) (p cause aux : Nat) (who : Option HaltWho) : (s.halt p cause aux who).clusters = s.clusters := by
  unfold State.halt
  dsimp only
  split
  · exact (State.SameUnits.stopRing .refl).2
  · rfl

end

end Sys2Proof.Machine

/-! ## The matrix engine -/

namespace Sys2Proof.Machine
open Sys2Proof

/-! ### The cells of a tile -/

theorem tget_of_keys_ne {α : Type} {d : α} {k : Nat} {t : Tbl α} (h : ∀ e ∈ t, e.1 ≠ k) : tget d k t = d := by
  induction t with
  | nil => rfl
  | cons e t ih =>
    obtain ⟨j, x⟩ := e
    simp only [List.mem_cons, forall_eq_or_imp] at h
    rw [tget, if_neg (Ne.symm h.1), ih h.2]

theorem tget_append_right {α : Type} {d : α} {k : Nat} {t u : Tbl α} (h : ∀ e ∈ t, e.1 ≠ k) : tget d k (t ++ u) = tget d k u := by
  induction t with
  | nil => rfl
  | cons e t ih =>
    obtain ⟨j, x⟩ := e
    simp only [List.mem_cons, forall_eq_or_imp] at h
    rw [List.cons_append, tget, if_neg (Ne.symm h.1), ih h.2]

theorem tget_append_left {α : Type} {d : α} {k : Nat} {t u : Tbl α} (h : ∀ e ∈ u, e.1 ≠ k) : tget d k (t ++ u) = tget d k t := by
  induction t with
  | nil => exact tget_of_keys_ne h
  | cons e t ih =>
    obtain ⟨j, x⟩ := e
    rw [List.cons_append, tget, tget, ih]

/-- The entries of some keys of a table. -/
theorem tget_filter_keys {α : Type} (d : α) (q : Nat → Bool) {k : Nat} (hk : q k = true) (t : Tbl α) : tget d k (t.filter fun e => q e.1) = tget d k t := by
  induction t with
  | nil => rfl
  | cons e t ih =>
    obtain ⟨j, x⟩ := e
    by_cases hj : q j = true
    · rw [List.filter_cons_of_pos (by exact hj), tget, tget, ih]
    · rw [List.filter_cons_of_neg (by exact hj), tget, if_neg (by rintro rfl; exact hj hk), ih]

/-- A table of the values of f that are not the default. -/
theorem tget_tabulated {α : Type} [DecidableEq α] (d : α) (f : Nat → α) (b N n : Nat) :
    tget d (b + n) (((List.range N).map fun i => (b + i, f i)).filter fun e => e.2 != d) = if n < N then f n else d := by
  induction N with
  | zero => rfl
  | succ N ih =>
    rw [List.range_succ, List.map_append, List.filter_append]
    have hlast : ∀ e ∈ [(b + N, f N)].filter (fun e => e.2 != d), e.1 = b + N := fun e he => by
      rw [List.mem_singleton.1 (List.mem_filter.1 he).1]
    rcases lt_trichotomy n N with h | rfl | h
    · rw [List.map_singleton, tget_append_left (fun e he => by rw [hlast e he]; omega), ih, if_pos h, if_pos (by omega)]
    · have hprev : ∀ e ∈ ((List.range n).map fun i => (b + i, f i)).filter (fun e => e.2 != d), e.1 ≠ b + n := by
        intro e he
        obtain ⟨i, hi, rfl⟩ := List.mem_map.1 (List.mem_filter.1 he).1
        have := List.mem_range.1 hi
        dsimp only
        omega
      rw [List.map_singleton, tget_append_right hprev, if_pos (by omega)]
      by_cases hd : f n = d
      · simp [hd, tget]
      · simp [hd, tget]
    · rw [List.map_singleton, tget_append_left (fun e he => by rw [hlast e he]; omega), ih, if_neg (by omega), if_neg (by omega)]

theorem Cluster.cellN_setTile (c : Cluster) (tile : Nat) (f : Nat → LA) (tile' : Nat) {n : Nat} (hn : n < 4096) :
    (c.setTile tile f).cellN tile' n = if tile' = tile then f n else c.cellN tile' n := by
  have hkey : (tile' * 4096 + n) / 4096 = tile' := by omega
  have hnew : ∀ e ∈ ((List.range tileCells).map fun n => (tile * 4096 + n, f n)).filter (fun e => e.2 != LA0), e.1 / 4096 = tile := by
    intro e he
    obtain ⟨he, -⟩ := List.mem_filter.1 he
    obtain ⟨i, hi, rfl⟩ := List.mem_map.1 he
    rw [List.mem_range, tileCells] at hi
    exact (Nat.div_eq_iff (by decide)).2 (by omega)
  have hlow : ∀ e ∈ c.cells.filter (fun e => decide (e.1 / 4096 < tile)), e.1 / 4096 < tile := fun e he => by simpa using (List.mem_filter.1 he).2
  have hhigh : ∀ e ∈ c.cells.filter (fun e => decide (tile < e.1 / 4096)), tile < e.1 / 4096 := fun e he => by simpa using (List.mem_filter.1 he).2
  have hne : ∀ e : Nat × LA, e.1 / 4096 ≠ tile' → e.1 ≠ tile' * 4096 + n := fun e h heq => h (by rw [heq, hkey])
  unfold Cluster.setTile Cluster.cellN
  dsimp only
  rcases lt_trichotomy tile' tile with h | rfl | h
  · rw [if_neg h.ne, tget_append_left fun e he => hne e (by have := hhigh e he; omega), tget_append_left fun e he => hne e (by have := hnew e he; omega),
      tget_filter_keys LA0 (fun k => decide (k / 4096 < tile)) (by simpa [hkey] using h)]
  · rw [if_pos rfl, tget_append_left fun e he => hne e (hhigh e he).ne', tget_append_right fun e he => hne e (hlow e he).ne, tget_tabulated]
    exact if_pos hn
  · rw [if_neg h.ne', List.append_assoc, tget_append_right fun e he => hne e (by have := hlow e he; omega),
      tget_append_right fun e he => hne e (by have := hnew e he; omega), tget_filter_keys LA0 (fun k => decide (tile < k / 4096)) (by simpa [hkey] using h)]

theorem Cluster.cellN_zeroTile (c : Cluster) (tile tile' : Nat) {n : Nat} (hn : n < 4096) :
    (c.zeroTile tile).cellN tile' n = if tile' = tile then LA0 else c.cellN tile' n := by
  have hkey : (tile' * 4096 + n) / 4096 = tile' := by omega
  unfold Cluster.zeroTile Cluster.cellN
  dsimp only
  split
  · next h =>
    refine tget_of_keys_ne fun e he heq => ?_
    have hne := (List.mem_filter.1 he).2
    rw [heq, hkey, h, bne_self_eq_false] at hne
    cases hne
  · next h => exact tget_filter_keys LA0 (fun k => k / 4096 != tile) (by simpa [hkey] using h) _

/-- A pass changes the forms of cells beside their values, and nothing else of the cluster (R57). -/
theorem Cluster.reform_eq (free : Nat) (old new : Cluster) (tile : Nat) : ∃ fs, old.reform free new tile = { new with forms := fs } := by
  have hextend : ∀ (c : Cluster) (pick key : Nat), ∃ fs, c.extend pick key = { c with forms := fs } := fun c pick key => by
    unfold Cluster.extend
    dsimp only
    split
    · exact ⟨_, rfl⟩
    · exact ⟨_, rfl⟩
  unfold Cluster.reform
  dsimp only
  generalize (List.range tileCells).filter _ = moves
  induction moves generalizing new with
  | nil => exact ⟨new.forms, rfl⟩
  | cons n ns ih =>
    rw [List.foldl_cons]
    obtain ⟨fs, hfs⟩ := hextend new (free / 2 ^ 4096) (tile * 4096 + n)
    obtain ⟨gs, hgs⟩ := ih (new.extend (free / 2 ^ 4096) (tile * 4096 + n))
    exact ⟨gs, by rw [hgs, hfs]⟩

/-! ### The entry that is granted (R206) -/

theorem foldl_choose_mem {α : Type} (r : α → α → Prop) [∀ a b, Decidable (r a b)] (x : α) (es : List α) :
    es.foldl (fun b e => if r b e then e else b) x ∈ x :: es := by
  induction es generalizing x with
  | nil => exact List.mem_singleton.2 rfl
  | cons e es ih =>
    rw [List.foldl_cons]
    rcases List.mem_cons.1 (ih (if r x e then e else x)) with h | h
    · rw [h]
      split
      · exact List.mem_cons_of_mem _ List.mem_cons_self
      · exact List.mem_cons_self
    · exact List.mem_cons_of_mem _ (List.mem_cons_of_mem _ h)

/-- Taking the entry of larger priority at each step ends with one of the largest. -/
theorem foldl_choose_prio (x : MxEntry) (es : List MxEntry) :
    ∀ o ∈ x :: es, o.prio ≤ (es.foldl (fun b e => if b.prio < e.prio then e else b) x).prio := by
  induction es generalizing x with
  | nil => simp
  | cons e es ih =>
    have hstep := ih (if x.prio < e.prio then e else x)
    simp only [List.mem_cons, forall_eq_or_imp, List.foldl_cons] at hstep ⊢
    obtain ⟨hhead, htail⟩ := hstep
    by_cases h : x.prio < e.prio
    · rw [if_pos h] at hhead htail ⊢
      exact ⟨h.le.trans hhead, hhead, htail⟩
    · rw [if_neg h] at hhead htail ⊢
      exact ⟨hhead, (Nat.not_lt.1 h).trans hhead, htail⟩

/-- An eligible entry has no older entry of its tile before it. -/
theorem exists_of_mem_eligibleEntries {t : List MxEntry} {e : MxEntry} (h : e ∈ eligibleEntries t) :
    ∃ i, t[i]? = some e ∧ ∀ o ∈ t.take i, o.tile ≠ e.tile := by
  obtain ⟨⟨e', i⟩, hmem, rfl⟩ := List.mem_map.1 h
  obtain ⟨hzip, hfirst⟩ := List.mem_filter.1 hmem
  exact ⟨i, List.mem_zipIdx_iff_getElem?.1 hzip, by simpa using hfirst⟩

theorem grantOf_mem {cycle : Nat} {t : List MxEntry} {e : MxEntry} (h : grantOf cycle t = some e) : e ∈ eligibleEntries t := by
  unfold grantOf at h
  dsimp only at h
  split at h
  · next x r hx =>
    obtain rfl := Option.some.inj h
    exact (List.mem_filter.1 (hx ▸ foldl_choose_mem (fun b e : MxEntry => e.age < b.age) x r)).1
  · split at h
    · cases h
    · next x r hx =>
      obtain rfl := Option.some.inj h
      exact hx ▸ foldl_choose_mem (fun b e : MxEntry => b.prio < e.prio) x r

/-- Where no entry has waited long, the granted one has the largest priority. -/
theorem grantOf_prio {cycle : Nat} {t : List MxEntry} {e : MxEntry} (h : grantOf cycle t = some e) (hage : ∀ o ∈ t, cycle - o.age ≤ 1024) :
    ∀ o ∈ eligibleEntries t, o.prio ≤ e.prio := by
  have hnone : (eligibleEntries t).filter (fun e => decide (1024 < cycle - e.age)) = [] := by
    refine List.filter_eq_nil_iff.2 fun o ho => ?_
    obtain ⟨i, hi, -⟩ := exists_of_mem_eligibleEntries ho
    have := hage o (List.mem_of_getElem? hi)
    simpa using this
  unfold grantOf at h
  dsimp only at h
  rw [hnone] at h
  dsimp only at h
  split at h
  · cases h
  · next x r hx =>
    obtain rfl := Option.some.inj h
    exact hx ▸ foldl_choose_prio x r

/-! ### What an entry's operation leaves -/

theorem State.countTeam_quiet (s : State) (tid ev n : Nat) : s.Quiet (s.countTeam tid ev n) := by
  unfold State.countTeam
  split
  · exact s.quiet_count _ _ _ _
  · exact .refl s

/-- Cell n of a tile after a pass, as the pass computes it from lists of rows and columns. -/
def passCell (x : Cluster) (e : MxEntry) (held : List (Nat × Nat × List Operand)) (n : Nat) : LA :=
  dotInto (x.cellN e.tile n) ((((List.range 64).map (rowA e.slot held))[n / 64]?).getD []) ((((List.range 64).map (colB e.slot held))[n % 64]?).getD [])

theorem passCell_eq (x : Cluster) (e : MxEntry) (held : List (Nat × Nat × List Operand)) {n : Nat} (hn : n < 4096) :
    passCell x e held n = dotInto (x.cellN e.tile n) (rowA e.slot held (n / 64)) (colB e.slot held (n % 64)) := by
  have h1 : n / 64 < 64 := by omega
  have h2 : n % 64 < 64 := by omega
  simp [passCell, h1, h2]

/-- A pass changes the cells of its cluster, and counts beside them. -/
theorem State.runPass_eq (s : State) (c : Nat) (e : MxEntry) (held : List (Nat × Nat × List Operand)) :
    ∃ (fs : Tbl CellForm) (u : State), u = s.draw.2.modCluster c (fun _ => { (s.cluster c).setTile e.tile (passCell (s.cluster c) e held) with forms := fs }) ∧
      u.Quiet (s.runPass c e held) ∧ u.SameUnits (s.runPass c e held) := by
  obtain ⟨fs, hfs⟩ := Cluster.reform_eq s.draw.1 (s.cluster c) ((s.cluster c).setTile e.tile (passCell (s.cluster c) e held)) e.tile
  refine ⟨fs, _, rfl, ?_⟩
  rw [← hfs]
  unfold State.runPass
  extract_lets d x rows cols c1 c2 s1
  split
  · exact ⟨(State.countTeam_quiet _ _ _ _).trans (State.countTeam_quiet _ _ _ _), State.SameUnits.refl.countTeam.countTeam⟩
  · exact ⟨State.countTeam_quiet _ _ _ _, State.SameUnits.refl.countTeam⟩

/-- A cluster after its entry has ended. -/
theorem State.endEntry_cluster (s : State) (c : Nat) (e : MxEntry) :
    (s.endEntry c e).cluster c = { s.cluster c with table := (s.cluster c).table.erase e } := by
  simp [State.endEntry]

/-- What a completed entry's operation does to its cluster's tiles (R56, R461). -/
structure TileDone (s t : State) (c : Nat) (e : MxEntry) (f : Nat → LA) : Prop where
  table : (t.cluster c).table = (s.cluster c).table.erase e
  cells : ∀ n < 4096, (t.cluster c).cellN e.tile n = f n
  others : ∀ tile n, n < 4096 → tile ≠ e.tile → (t.cluster c).cellN tile n = (s.cluster c).cellN tile n
  lanes : t.lanes = s.lanes
  mem : t.mem = s.mem
  teams : t.teams = s.teams

theorem State.runPass_done (s : State) (c : Nat) (e : MxEntry) (held : List (Nat × Nat × List Operand)) :
    TileDone s ((s.runPass c e held).endEntry c e) c e fun n =>
      dotInto ((s.cluster c).cellN e.tile n) (rowA e.slot held (n / 64)) (colB e.slot held (n % 64)) := by
  obtain ⟨fs, u, rfl, hquiet, hunits⟩ := s.runPass_eq c e held
  obtain ⟨hlanes, hteams, hmem, -⟩ := hquiet
  have hcluster : ((s.runPass c e held).endEntry c e).cluster c =
      { (s.cluster c).setTile e.tile (passCell (s.cluster c) e held) with forms := fs, table := (s.cluster c).table.erase e } := by
    rw [State.endEntry_cluster, hunits.cluster]
    simp [Cluster.setTile]
  have hcell : ∀ tile n, (((s.runPass c e held).endEntry c e).cluster c).cellN tile n =
      ((s.cluster c).setTile e.tile (passCell (s.cluster c) e held)).cellN tile n := fun tile n => by
    rw [hcluster]
    rfl
  refine ⟨by rw [hcluster], fun n hn => ?_, fun tile n hn hne => ?_, hlanes, hmem, hteams⟩
  · rw [hcell, Cluster.cellN_setTile _ _ _ _ hn, if_pos rfl, passCell_eq _ _ _ hn]
  · rw [hcell, Cluster.cellN_setTile _ _ _ _ hn, if_neg hne]

theorem State.zeroTile_done (s : State) (c : Nat) (e : MxEntry) :
    TileDone s ((s.modCluster c fun x => x.zeroTile e.tile).endEntry c e) c e fun _ => LA0 := by
  have hcluster : ((s.modCluster c fun x => x.zeroTile e.tile).endEntry c e).cluster c =
      { (s.cluster c).zeroTile e.tile with table := (s.cluster c).table.erase e } := by
    rw [State.endEntry_cluster]
    simp [Cluster.zeroTile]
  have hcell : ∀ tile n, (((s.modCluster c fun x => x.zeroTile e.tile).endEntry c e).cluster c).cellN tile n =
      ((s.cluster c).zeroTile e.tile).cellN tile n := fun tile n => by
    rw [hcluster]
    rfl
  refine ⟨by rw [hcluster], fun n hn => ?_, fun tile n hn hne => ?_, rfl, rfl, rfl⟩
  · rw [hcell, Cluster.cellN_zeroTile _ _ _ hn, if_pos rfl]
  · rw [hcell, Cluster.cellN_zeroTile _ _ _ hn, if_neg hne]

/-- MXRD of one lane: its deferred result is noted, and the tile stays (R459). -/
theorem State.runRead_done (s : State) (c : Nat) (e : MxEntry) (a : Nat) (id : LaneId) (n : Nat) :
    let t := (s.runRead c e a [(id, n)]).endEntry c e
    let r := (s.cluster c).readOut e.tile e.slot (id.grp % 4) id.slot
    (t.cluster c).table = (s.cluster c).table.erase e ∧ (t.cluster c).cells = (s.cluster c).cells ∧
      t.lanes = s.lanes.map fun l => if l.id = id then
        { l with deferred := l.deferred.map fun d =>
            if d.n = n then { d with vdst := r.1.mapIdx fun j w => (a + j, w), flags := r.2, wait := .ready } else d } else l := by
  intro t r
  let s1 := s.modLane id fun l =>
    { l with deferred := l.deferred.map fun d =>
        if d.n = n then { d with vdst := r.1.mapIdx fun j w => (a + j, w), flags := r.2, wait := .ready } else d }
  have hunits : s1.SameUnits (s.runRead c e a [(id, n)]) := by
    unfold State.runRead
    dsimp only [List.foldl]
    split
    · exact State.SameUnits.refl.countTeam
    · exact .refl
  have hcluster : t.cluster c = { s.cluster c with table := (s.cluster c).table.erase e } := by
    rw [State.endEntry_cluster, hunits.cluster]
    rfl
  exact ⟨by rw [hcluster], by rw [hcluster], hunits.1⟩

/-! ### Self-tests (R207) -/

/-- Taking an engine out of service halts partitions; the clusters stay. -/
theorem State.mxeOut_clusters (s : State) (c : Nat) (hs : List (Nat × Nat)) : (s.mxeOut c hs).clusters = s.clusters := by
  unfold State.mxeOut
  induction hs generalizing s with
  | nil => rfl
  | cons h hs ih =>
    rw [List.foldl_cons, ih]
    exact State.halt_clusters _ _ _ _ _

/-- What a fenced array has recorded and halted leaves the clusters as they are. -/
theorem State.fence_cluster (s : State) (c d : Nat) (ps : List Nat) (r : Rec) (hs : List (Nat × Nat)) (alone : Bool) :
    (if alone = true then ps.foldl (fun s p => s.record p r) s else (ps.foldl (fun s p => s.record p r) s).mxeOut c hs).cluster d = s.cluster d := by
  have h : s.SameUnits (ps.foldl (fun s p => s.record p r) s) := State.SameUnits.refl.foldl fun _ _ hu => hu.record
  split
  · exact h.cluster d
  · rw [State.cluster, State.mxeOut_clusters]
    exact h.cluster d

section
variable {s : State} {c : Nat} (hidle : ∀ x ∈ (s.cluster c).table, x.granted = false) (hdue : (s.cluster c).nextTest ≤ s.cycle) (hin : (s.cluster c).out = false)

include hidle hdue hin

/-- A self-test is run where no entry is granted, none was run lately and the engine is in service. -/
theorem selftest_due : ¬ ((s.cluster c).table.any (·.granted) || decide (s.cycle < (s.cluster c).nextTest) || (s.cluster c).out) = true := by
  have hany : (s.cluster c).table.any (·.granted) = false := by simpa using hidle
  simp [hany, hdue, hin]

theorem State.execMxeSelftest_pass :
    ∃ t, exec (.mxeSelftest c none) s = .next t ∧ t.cluster c = { s.cluster c with nextTest := s.cycle + 2 ^ 20 } := by
  change ∃ t, execMxeSelftest c none s = .next t ∧ _
  rw [execMxeSelftest, if_neg (selftest_due hidle hdue hin)]
  refine ⟨_, rfl, ?_⟩
  rw [(State.SameUnits.refl.foldl fun _ _ hu => hu.count).cluster, modCluster_cluster, if_pos rfl]

theorem State.execMxeSelftest_fail (q : Fin 4) :
    ∃ u, exec (.mxeSelftest c (some q)) s = .next u ∧ (q ∉ (s.cluster c).fenced →
      (u.cluster c).fenced = (s.cluster c).fenced ++ [q] ∧ (u.cluster c).out = !(s.cluster c).fenced.isEmpty) := by
  change ∃ u, execMxeSelftest c (some q) s = .next u ∧ _
  rw [execMxeSelftest, if_neg (selftest_due hidle hdue hin)]
  by_cases hq : q ∈ (s.cluster c).fenced
  · dsimp only
    rw [if_pos (by simpa using hq)]
    exact ⟨_, rfl, fun hnot => absurd hq hnot⟩
  · dsimp only
    rw [if_neg (by simpa using hq)]
    refine ⟨_, rfl, fun _ => ?_⟩
    rw [State.fence_cluster, modCluster_cluster, if_pos rfl, (State.SameUnits.refl.foldl fun _ _ hu => hu.count).cluster, modCluster_cluster, if_pos rfl]
    exact ⟨rfl, rfl⟩

end

end Sys2Proof.Machine

section
open Sys2Proof Sys2Proof.Machine

/-- Settles O29: what each of the engine's events does to its cluster, its other effects being counts, records and halts. -/
theorem matrixEngine : Obligations.MatrixEngine := by
  unfold Obligations.MatrixEngine
  refine ⟨fun s c e hroom hfirst => ?enter, fun s c hfull => ?full, fun s c e hgo hidle hgrant => ?grant, fun cycle t e h => ⟨?mem, ?first, ?prio⟩,
    fun s c e hgo hfirst => ⟨fun held hop => ?pass, fun hop => ?zero, fun a id n hop => ?read⟩, fun s c q hidle hdue hin => ?test⟩
  case enter =>
    have hnext : (s.cluster c).nextEntry = some e := by
      rw [Cluster.nextEntry, if_neg (by omega), hfirst]
    change execMxeHeldFiringEnter c s = _
    rw [execMxeHeldFiringEnter, hnext]
    rfl
  case full =>
    change execMxeHeldFiringEnter c s = _
    rw [execMxeHeldFiringEnter, Cluster.nextEntry, if_pos hfull]
  case grant =>
    change execMxeEntryGrant c s = _
    have hany : (s.cluster c).table.any (·.granted) = false := by simpa using hidle
    rw [execMxeEntryGrant, hgo, hany, hgrant]
    rfl
  case mem =>
    obtain ⟨i, hi, -⟩ := exists_of_mem_eligibleEntries (grantOf_mem h)
    exact List.mem_of_getElem? hi
  case first => exact exists_of_mem_eligibleEntries (grantOf_mem h)
  case prio => exact grantOf_prio h
  case pass =>
    obtain ⟨htable, hcells, hothers, hlanes, hmem, hteams⟩ := s.runPass_done c e held
    refine ⟨_, ?_, htable, hcells, hothers, hlanes, hmem, hteams⟩
    change execMxeEntryComplete c s = _
    simp only [execMxeEntryComplete, hfirst, hgo, hop]
    rfl
  case zero =>
    obtain ⟨htable, hcells, hothers, hlanes, hmem, -⟩ := s.zeroTile_done c e
    refine ⟨_, ?_, htable, hcells, hothers, hlanes, hmem⟩
    change execMxeEntryComplete c s = _
    simp only [execMxeEntryComplete, hfirst, hgo, hop]
    rfl
  case read =>
    obtain ⟨htable, hcells, hlanes⟩ := s.runRead_done c e a id n
    refine ⟨_, ?_, htable, hcells, hlanes⟩
    change execMxeEntryComplete c s = _
    simp only [execMxeEntryComplete, hfirst, hgo, hop]
    rfl
  case test =>
    obtain ⟨t, ht, hcluster⟩ := State.execMxeSelftest_pass hidle hdue hin
    obtain ⟨u, hu, hfenced⟩ := State.execMxeSelftest_fail hidle hdue hin q
    exact ⟨t, u, ht, hu, by rw [hcluster], by rw [hcluster], by rw [hcluster]; exact hin, hfenced⟩

end


/-! ## Merges into accumulator lines -/

namespace Sys2Proof.Machine
open Sys2Proof Sys2Proof.Claims

/-! ### What a touch of a cache leaves of the touched line -/

@[simp] theorem State.count_line (s : State) (p : Nat) (c : Option Nat) (ev n ln : Nat) : (s.count p c ev n).line ln = s.line ln := by
  unfold State.count
  split <;> simp

/-- A line that leaves an L2 slice changes no other line. -/
theorem State.evictL2_line_of_ne {s : State} {ln v : Nat} (h : ln ≠ v) (a : Fin 10) (p : Nat) (c : Option Nat) :
    (s.evictL2 a v p c).line ln = s.line ln := by
  have sent (x : Hold) (m : Msg) : ((s.setHold v a x).post m).line ln = s.line ln := by
    change (s.modLine v fun l => { l with holds := l.holds.set a x }).line ln = _
    simp [h]
  unfold State.evictL2
  dsimp only
  split <;> split <;> simp [sent]

/-- A line that a fill sends out is another one than the line that comes in. -/
@[simp] theorem State.l2Touch_line (s : State) (a : Fin 10) (ln p : Nat) (c : Option Nat) : (s.l2Touch a ln p c).line ln = s.line ln := by
  unfold State.l2Touch
  dsimp only
  split
  · rfl
  · split
    case h_1 v hv =>
      have hmem : v ∈ (tget [] (l2Key a ln) s.l2).filter fun x => x != ln && s.resident a x := List.mem_of_getElem? (by simpa using hv)
      have hne : ln ≠ v := by
        rintro rfl
        simp at hmem
      rw [State.evictL2_line_of_ne hne]
      rfl
    case h_2 => rfl

@[simp] theorem State.countL2_line (s : State) (a : Fin 10) (p : Nat) (c : Option Nat) (ev ln : Nat) : (s.countL2 a p c ev).line ln = s.line ln := by
  unfold State.countL2
  split <;> simp

@[simp] theorem State.fromHome_line (s : State) (ln p : Nat) (c : Option Nat) (n : Nat) : (s.fromHome ln p c).line n = s.line n := by
  unfold State.fromHome
  split
  · simp [State.line, State.l3Touch_lines]
  · rfl

/-! ### Tokens that land, and tokens gathered at the home, leave the partials -/

theorem Line.land_partialLA (l : Line) (m : Msg) (a : Fin 10) : (l.land m).holds[a].partialLA = l.holds[a].partialLA := by
  simp only [Line.land, Fin.getElem_fin, Vector.getElem_set]
  split
  · next h => simp [h]
  · rfl

/-- The line after its tokens have landed is the line with some of its messages landed. -/
theorem State.landTokens_line (s : State) (ln : Nat) : ∃ ms : List Msg, (s.landTokens ln).line ln = ms.foldl Line.land (s.line ln) := by
  have arrives (ms : List Msg) (t : State) : (ms.foldl (fun s m => s.l2Arrive m.dst ln) t).line ln = t.line ln :=
    List.foldlRecOn (motive := fun b => b.line ln = t.line ln) ms _ rfl fun b hb m _ => (State.l2Touch_line b _ _ _ _).trans hb
  unfold State.landTokens
  dsimp only
  split
  · exact ⟨[], rfl⟩
  · refine ⟨(s.net.filter fun m => m.line == ln && m.tokens != 0).filter fun m => m.epoch == s.epochOf ln, (arrives _ _).trans ?_⟩
    exact (modLine_line s ln ln fun l => List.foldl Line.land l _).trans (if_pos rfl)

theorem State.landTokens_partialLA (s : State) (ln : Nat) (a : Fin 10) :
    ((s.landTokens ln).line ln).holds[a].partialLA = (s.line ln).holds[a].partialLA := by
  obtain ⟨ms, h⟩ := s.landTokens_line ln
  rw [h]
  exact List.foldlRecOn (motive := fun b => b.holds[a].partialLA = (s.line ln).holds[a].partialLA) ms Line.land rfl
    fun b hb m _ => (Line.land_partialLA b m a).trans hb

theorem Line.grantAll_partialLA {l : Line} {a b : Fin 10} (h : a ≠ b) : (l.grantAll a).holds[b].partialLA = l.holds[b].partialLA := by
  have hv : a.val ≠ b.val := fun hab => h (Fin.ext hab)
  simp [Line.grantAll, hv]

theorem Line.grantAll_tokens (l : Line) (a : Fin 10) : (l.grantAll a).holds[a].t = 16 := by simp [Line.grantAll]

/-! ### The three ways of a merge (R163, R164) -/

/-- The line has its merge in agent a's partial: the line is in the merge state and the partial has taken f. -/
def Line.Merged (l l' : Line) (a : Fin 10) (f : LA → LA) : Prop :=
  l'.mash = true ∧ a ∈ l'.holders ∧ l'.holds[a].partialLA = some (f ((l.holds[a].partialLA).getD LA0))

theorem State.mergeLine_inPlace {s : State} {ln : Nat} {a : Fin 10} (hw : (s.line ln).mayWrite a = true) (hm : (s.line ln).mash = false)
    (hp : ln ∉ s.poison) (p : Nat) (c : Option Nat) (f : LA → LA) :
    ∃ t, (s.setLineLa ln (f (s.lineLa ln))).Quiet t ∧ s.mergeLine ln a p c f = (t, false) := by
  unfold State.mergeLine
  simp only [hw, hm, List.contains_eq_mem, hp, Bool.not_false, Bool.and_self, if_true, decide_false, Bool.false_eq_true, if_false]
  exact ⟨_, ((State.quiet_modLine _ _ _).trans (State.quiet_l2Touch _ _ _ _ _)).trans (State.quiet_countL2 _ _ _ _ _), rfl⟩

theorem State.mergeLine_poisoned {s : State} {ln : Nat} {a : Fin 10} (hw : (s.line ln).mayWrite a = true) (hm : (s.line ln).mash = false)
    (hp : ln ∈ s.poison) (p : Nat) (c : Option Nat) (f : LA → LA) : s.mergeLine ln a p c f = (s, true) := by
  simp [State.mergeLine, hw, hm, hp]

/-- The last step of a merge into a partial, whatever brought the line into the merge state. -/
theorem Line.merged_partial {l : Line} (hm : l.mash = true) (a : Fin 10) (f : LA → LA) :
    l.Merged { l with holders := if l.holders.contains a then l.holders else l.holders ++ [a],
                      holds := l.holds.set a { l.holds[a] with t := 0, owner := false, valid := false, partialLA := some (f ((l.holds[a].partialLA).getD LA0)) } }
      a f := by
  refine ⟨hm, ?_, by simp⟩
  dsimp only
  split
  · next h => simpa using h
  · simp

theorem State.mergeLine_mash {s : State} {ln : Nat} {a : Fin 10} (hm : (s.line ln).mash = true) (p : Nat) (c : Option Nat) (f : LA → LA) :
    ∃ t, s.Quiet t ∧ s.mergeLine ln a p c f = (t, false) ∧ (s.line ln).Merged (t.line ln) a f := by
  unfold State.mergeLine
  simp only [hm, Bool.not_true, Bool.and_false, Bool.false_eq_true, if_false, if_true]
  refine ⟨_, (State.quiet_modLine _ _ _).trans (State.quiet_l2Touch _ _ _ _ _), rfl, ?_⟩
  rw [State.l2Touch_line, modLine_line, if_pos rfl]
  exact Line.merged_partial hm a f

theorem State.mergeLine_enters {s : State} {ln : Nat} {a : Fin 10} (ha : a ≠ home) (hw : (s.line ln).mayWrite a = false)
    (hm : (s.line ln).mash = false) (p : Nat) (c : Option Nat) (f : LA → LA) :
    ∃ t, s.Quiet t ∧ s.mergeLine ln a p c f = (t, false) ∧ (s.line ln).Merged (t.line ln) a f ∧ (t.line ln).holds[home].t = 16 := by
  have hv : a.val ≠ home.val := fun h => ha (Fin.ext h)
  unfold State.mergeLine
  simp only [hw, hm, Bool.not_false, Bool.false_and, Bool.false_eq_true, if_false]
  refine ⟨_, (((((State.quiet_landTokens _ _).trans (State.quiet_fromHome _ _ _ _)).trans (State.quiet_modLine _ _ _)).trans
    (State.quiet_modLine _ _ _)).trans (State.quiet_l2Touch _ _ _ _ _)), rfl, ?_, ?_⟩
  · rw [State.l2Touch_line, modLine_line, if_pos rfl, modLine_line, if_pos rfl, State.fromHome_line]
    have hold := (Line.grantAll_partialLA (l := (s.landTokens ln).line ln) ha.symm).trans (State.landTokens_partialLA s ln a)
    have hmerged := Line.merged_partial (l := { ((s.landTokens ln).line ln).grantAll home with mash := true, holders := [] }) rfl a f
    obtain ⟨h1, h2, h3⟩ := hmerged
    exact ⟨h1, h2, h3.trans (by rw [← hold])⟩
  · rw [State.l2Touch_line, modLine_line, if_pos rfl, modLine_line, if_pos rfl]
    simp only [Fin.getElem_fin, Vector.getElem_set, if_neg hv]
    exact Line.grantAll_tokens _ _

/-! ### A word in its order among the lane's accesses (R180, R299) -/

theorem inOrder_waits (s : State) (l : Lane) (i : Instr) (k : State) : Waits s l i (inOrder s l i (srcsOf l i) k) := by
  unfold inOrder State.awaiting
  refine ⟨fun h => ?_, fun h hr => ?_⟩
  · rw [if_neg (by simpa [firsts] using h)]
    rfl
  · have hsys : (orderOf i (srcsOf l i)).1 = .system ∧ Order.releases (orderOf i (srcsOf l i)).2 = true := by
      obtain ⟨h1, h2 | h2⟩ := hr <;> simp [h1, h2, Order.releases]
    rw [if_pos (by simpa [firsts] using h), systemRelease, if_pos hsys]
    refine ⟨fun hl => ?_, fun hl hp => ?_⟩
    · rw [if_pos hl, Lane.hold, Bool.or_true]
    · rw [if_neg (by simp [hl]), if_pos hp]

theorem inOrder_of_inTurn {s : State} {l : Lane} {i : Instr} (h : InTurn s l i) (k : State) : inOrder s l i (srcsOf l i) k = k := by
  obtain ⟨hf, hr⟩ := h
  unfold inOrder State.awaiting
  rw [if_pos (by simpa [firsts] using hf), systemRelease]
  split
  · next hs =>
    have hsys : SystemRelease l i := by
      obtain ⟨h1, h2⟩ := hs
      refine ⟨h1, ?_⟩
      cases ho : (orderOf i (srcsOf l i)).2 <;> simp_all [Order.releases]
    obtain ⟨h1, h2⟩ := hr hsys
    simp [h1, h2]
  · rfl

/-! ### Where a merge is performed (R163, R299, R349) -/

section
variable {s u : State} {v : Via} {va : Nat} {f : LA → LA}

theorem State.mergeVia_fault {g : PageFault} (h : s.translate v.who va .write = (u, .fault g)) : s.mergeVia v va f = (u, .page g) := by
  simp [State.mergeVia, State.reachBut, h]

theorem State.mergeVia_wait (h : s.translate v.who va .write = (u, .wait)) : s.mergeVia v va f = (u, .busy) := by
  simp [State.mergeVia, State.reachBut, h]

theorem State.mergeVia_denied {x : Phys} (h : s.translate v.who va .write = (u, .ok x)) (ha : x.attr ≠ .acc) :
    s.mergeVia v va f = (u, .page (pageFault 2 va .write)) := by
  simp [State.mergeVia, State.reachBut, h, ha]

/-- A merge that nothing keeps from its ACC line is performed there. -/
theorem State.mergeVia_performed {x : Phys} (h : s.translate v.who va .write = (u, .ok x)) (ha : x.attr = .acc) (hb : inHbm x.addr = true)
    (hc : u.codeFrame v.who.part x.addr = none) (hr : x.addr / 65536 ∉ u.reserved) (hs : fotState (u.fotOf (x.addr / 65536)) = 1)
    (ho : fotOwner (u.fotOf (x.addr / 65536)) = v.who.part) (hf : u.lineBusy (x.addr / 128) v.agent true = false) :
    s.mergeVia v va f =
      let q := u.mergeLine (x.addr / 128) v.agent v.who.part (some v.who.ctx) f
      (q.1, if q.2 then .ue false else .data []) := by
  have hkey : x.codeKey = x.addr / 65536 := by simp [Phys.codeKey, ha, hb]
  have hcode : u.codeAt v.who.part x.codeKey = none := by rw [hkey]; exact hc
  have hpeer : inPeer x.addr = false := by
    simp only [inHbm, decide_eq_true_eq] at hb
    simp only [inPeer, Bool.and_eq_false_iff, decide_eq_false_iff_not]
    exact .inl (by omega)
  have hown : u.ownCheck v.who.part x.addr true = .performed := by simp [State.ownCheck, hr, hs, ho]
  have hfront : u.passFront x.addr = u := by simp [State.passFront, hs]
  have hreach : s.reachBut v va 96 .write (fun x => x.attr != .acc) = (u, .at x) := by
    simp [State.reachBut, h, ha, hcode, hpeer, inCap_of_inHbm hb, hown, hfront, hf]
  simp [State.mergeVia, hreach]

end

theorem kept_of_quiet {s t : State} (h : s.Quiet t) : Kept s t := by
  obtain ⟨-, hteams, -, hhost, -, -, hparts⟩ := h
  exact ⟨hteams, fun c => (hhost c).1, hparts⟩

theorem kept_setLane {s t : State} (h : Kept s t) (l : Lane) : Kept s (t.setLane l) := h

theorem sameMem_of_quiet {s t : State} (h : s.Quiet t) : SameMem s t := fun a => by rw [h.2.2.1]

theorem lanes_setLane_of_eq {s t : State} (h : t.lanes = s.lanes) (l : Lane) : (t.setLane l).lanes = (s.setLane l).lanes := by
  simp [State.setLane, State.modLane, h]

/-- What stands after bytes are stored and only caches and counts change besides. -/
theorem stored_of_quiet {s t : State} {a : Nat} {bs : List Byte} (h : ({ s with mem := writeBytes s.mem a bs } : State).Quiet t) (hm : s.mem.wf = true) :
    Kept s t ∧ Stored s t a bs ∧ t.lanes = s.lanes := by
  obtain ⟨hlanes, hteams, hmem, hhost, -, -, hparts⟩ := h
  exact ⟨⟨hteams, fun c => (hhost c).1, hparts⟩, fun b => (congrArg (readByte · b) hmem).trans (readByte_writeBytes hm _ _ _), hlanes⟩

/-! ### The merge words -/

/-- Word i is a merge at pair a + sext(off), of f into the LA. -/
structure IsMerge (i : Instr) (a : VReg) (off : BitVec 16) (f : Lane → LA → LA) : Prop where
  acts : ∀ s, exec i s = mergeWord i s f
  scratch : ∀ srcs, onScratch i srcs = false
  unordered : inSlotOrder i = false
  cause : ∀ s l, State.accessCause s l i (srcsOf l i) = alignCause i (eaSrc i (srcsOf l i))
  align : alignLog i = 7
  len : instrLen i = 8
  ea : ∀ l, eaSrc i (srcsOf l i) = (l.pair a + BitVec.ofInt 64 off.toInt).toNat

/-- A merge in its turn. -/
def mergeStep (i : Instr) (f : Lane → LA → LA) (s : State) (l : Lane) : State :=
  let r := s.mergeVia (s.via l) (eaSrc i (srcsOf l i)) (f l)
  r.1.endAccess l i (srcsOf l i) (.write []) (eaSrc i (srcsOf l i)) 2 r.2

/-- What a merge word does in a lane. -/
def mergeAct (i : Instr) (f : Lane → LA → LA) (s : State) (l : Lane) : State :=
  match alignCause i (eaSrc i (srcsOf l i)) with
  | some c => s.raise l (l.causeHere c.1 c.2.1 c.2.2)
  | none => inOrder s l i (srcsOf l i) (mergeStep i f s l)

section
variable {i : Instr} {a : VReg} {off : BitVec 16} {f : Lane → LA → LA}

theorem IsMerge.exec_next (h : IsMerge i a off f) {s : State} (hl : Legal s i) : exec i s = .next (eachActive s (mergeAct i f)) := by
  obtain ⟨l, h1, h2⟩ := hl
  rw [h.acts, mergeWord, accessWord, guarded_next h1 h2]
  congr 2
  funext s l
  simp only [h.scratch, State.behindStore, h.unordered, Bool.false_and, Bool.or_self, Bool.false_eq_true, if_false, h.cause]
  rfl

theorem IsMerge.act_misaligned (h : IsMerge i a off f) (s : State) (l : Lane) (hm : eaSrc i (srcsOf l i) % 128 ≠ 0) :
    mergeAct i f s l = s.raise l (l.causeHere 0x04 7 (BitVec.ofNat 64 (eaSrc i (srcsOf l i)))) := by
  have hc : alignCause i (eaSrc i (srcsOf l i)) = some (causeAlign, 7, BitVec.ofNat 64 (eaSrc i (srcsOf l i))) := by
    rw [alignCause, h.align, if_pos (by omega), BitVec.ofInt_natCast]
  rw [mergeAct, hc]
  rfl

theorem IsMerge.act_aligned (h : IsMerge i a off f) (s : State) (l : Lane) (hm : eaSrc i (srcsOf l i) % 128 = 0) :
    mergeAct i f s l = inOrder s l i (srcsOf l i) (mergeStep i f s l) := by
  have hc : alignCause i (eaSrc i (srcsOf l i)) = none := by rw [alignCause, h.align, if_neg (by omega)]
  rw [mergeAct, hc]

end

/-! ### What a merge does in its turn -/

section
variable {i : Instr} {a : VReg} {off : BitVec 16} {f : Lane → LA → LA} {s u : State} {l : Lane}

theorem IsMerge.step_data (h : IsMerge i a off f) {t : State} {bs : List Byte}
    (hm : s.mergeVia (s.via l) (eaSrc i (srcsOf l i)) (f l) = (t, .data bs)) : mergeStep i f s l = t.setLane (l.adv 8) := by
  simp only [mergeStep, hm, State.endAccess, h.len]

theorem IsMerge.step_poisoned (h : IsMerge i a off f) {t : State}
    (hm : s.mergeVia (s.via l) (eaSrc i (srcsOf l i)) (f l) = (t, .ue false)) :
    mergeStep i f s l =
      t.setLane ((l.defer i (srcsOf l i) [] [] 0 (.dataUe 2 (BitVec.ofNat 64 (eaSrc i (srcsOf l i))) false)).adv 8) := by
  simp only [mergeStep, hm, State.endAccess, h.len, Lane.lateUe, Bool.false_eq_true, if_false]

theorem mergeStep_fault {g : PageFault} (h : s.translate (s.who l) (eaSrc i (srcsOf l i)) .write = (u, .fault g)) :
    mergeStep i f s l = u.setLane (faultsHere l g) := by
  rw [mergeStep, State.mergeVia_fault (v := s.via l) h]
  rfl

theorem mergeStep_wait (h : s.translate (s.who l) (eaSrc i (srcsOf l i)) .write = (u, .wait)) : mergeStep i f s l = u.setLane l.stall := by
  rw [mergeStep, State.mergeVia_wait (v := s.via l) h]
  rfl

theorem mergeStep_denied {x : Phys} (h : s.translate (s.who l) (eaSrc i (srcsOf l i)) .write = (u, .ok x)) (ha : x.attr ≠ .acc) :
    mergeStep i f s l = u.setLane (faultsHere l { reason := 2, va := eaSrc i (srcsOf l i), write := true, fetch := false }) := by
  rw [mergeStep, State.mergeVia_denied (v := s.via l) h ha]
  rfl

end

/-- A die's L2 slice is not the home. -/
theorem l2Slice_ne_home (l : Lane) : Fin.ofNat 10 (l.die % 4) ≠ home := by
  intro h
  have hv := congrArg Fin.val h
  simp only [Fin.val_ofNat, home] at hv
  have : l.die % 4 < 4 := Nat.mod_lt _ (by norm_num)
  have h8 : ((8 : Fin 10) : Nat) = 8 := rfl
  omega

section
variable {i : Instr} {a : VReg} {off : BitVec 16} {f : Lane → LA → LA} {s u : State} {l : Lane} {x : Phys}

/-- At a place: a merge in place over a line that is not poisoned. -/
theorem IsMerge.step_inPlace (h : IsMerge i a off f) (hp : PlaceAt s u l (eaSrc i (srcsOf l i)) 96 .write x) (ha : x.attr = .acc)
    (hw : (u.line (x.addr / 128)).mayWrite (Fin.ofNat 10 (l.die % 4)) = true) (hn : x.addr / 128 ∉ u.poison) :
    Kept u (mergeStep i f s l) ∧ (mergeStep i f s l).lanes = (u.setLane (l.adv 8)).lanes ∧
      Stored u (mergeStep i f s l) (128 * (x.addr / 128)) (leBytes (laImage (f l (u.lineLa (x.addr / 128)))) 96) := by
  obtain ⟨htr, -, hb, -, hc, hr, hs, ho, hbusy, -, hmash, hwf⟩ := hp
  have hvia := State.mergeVia_performed (v := s.via l) (f := f l) htr ha hb hc hr hs ho (hbusy (by simp [ha]))
  obtain ⟨t, hq, ht⟩ := State.mergeLine_inPlace (a := (s.via l).agent) hw hmash hn (s.via l).who.part (some (s.via l).who.ctx) (f l)
  rw [ht] at hvia
  rw [h.step_data hvia]
  unfold State.setLineLa at hq
  obtain ⟨hkept, hstored, hlanes⟩ := stored_of_quiet hq hwf
  exact ⟨hkept, lanes_setLane_of_eq hlanes _, hstored⟩

/-- Over a poisoned line the merge is not performed, and the error waits for the lane's marker (R175). -/
theorem IsMerge.step_overPoison (h : IsMerge i a off f) (hp : PlaceAt s u l (eaSrc i (srcsOf l i)) 96 .write x) (ha : x.attr = .acc)
    (hw : (u.line (x.addr / 128)).mayWrite (Fin.ofNat 10 (l.die % 4)) = true) (hn : x.addr / 128 ∈ u.poison) :
    mergeStep i f s l =
      u.setLane ((l.defer i (srcsOf l i) [] [] 0 (.dataUe 2 (BitVec.ofNat 64 (eaSrc i (srcsOf l i))) false)).adv 8) := by
  obtain ⟨htr, -, hb, -, hc, hr, hs, ho, hbusy, -, hmash, hwf⟩ := hp
  have hvia := State.mergeVia_performed (v := s.via l) (f := f l) htr ha hb hc hr hs ho (hbusy (by simp [ha]))
  rw [State.mergeLine_poisoned (a := (s.via l).agent) hw hmash hn] at hvia
  exact h.step_poisoned hvia

/-- A line that the agent does not hold whole enters the merge state (R164). -/
theorem IsMerge.step_enters (h : IsMerge i a off f) (hp : PlaceAt s u l (eaSrc i (srcsOf l i)) 96 .write x) (ha : x.attr = .acc)
    (hw : (u.line (x.addr / 128)).mayWrite (Fin.ofNat 10 (l.die % 4)) = false) :
    ∃ t, u.Quiet t ∧ mergeStep i f s l = t.setLane (l.adv 8) ∧
      (u.line (x.addr / 128)).Merged (t.line (x.addr / 128)) (Fin.ofNat 10 (l.die % 4)) (f l) ∧ (t.line (x.addr / 128)).holds[home].t = 16 := by
  obtain ⟨htr, -, hb, -, hc, hr, hs, ho, hbusy, -, hmash, hwf⟩ := hp
  have hvia := State.mergeVia_performed (v := s.via l) (f := f l) htr ha hb hc hr hs ho (hbusy (by simp [ha]))
  obtain ⟨t, hq, ht, hmerged, htokens⟩ :=
    State.mergeLine_enters (a := (s.via l).agent) (l2Slice_ne_home l) hw hmash (s.via l).who.part (some (s.via l).who.ctx) (f l)
  rw [ht] at hvia
  exact ⟨t, hq, h.step_data hvia, hmerged, htokens⟩

/-- At a place, a merge keeps what accesses keep. -/
theorem IsMerge.step_kept (h : IsMerge i a off f) (hp : PlaceAt s u l (eaSrc i (srcsOf l i)) 96 .write x) : Kept u (mergeStep i f s l) := by
  by_cases ha : x.attr = .acc
  · cases hw : (u.line (x.addr / 128)).mayWrite (Fin.ofNat 10 (l.die % 4)) with
    | true =>
      by_cases hn : x.addr / 128 ∈ u.poison
      · rw [h.step_overPoison hp ha hw hn]
        exact kept_setLane (kept_of_quiet (.refl u)) _
      · exact (h.step_inPlace hp ha hw hn).1
    | false =>
      obtain ⟨t, hq, ht, -⟩ := h.step_enters hp ha hw
      rw [ht]
      exact kept_setLane (kept_of_quiet hq) _
  · rw [mergeStep_denied hp.1 ha]
    exact kept_setLane (kept_of_quiet (.refl u)) _

end

/-- The address that the words of a base pair and a byte offset form (R107). -/
theorem eaOf_pair (l : Lane) (a : VReg) (rest : List Word) (off : Int) :
    eaOf (srcAt (l.vs a 2 ++ rest) 0) (srcAt (l.vs a 2 ++ rest) 1) off = (l.pair a + BitVec.ofInt 64 off).toNat := by
  simp [eaOf, srcAt, Lane.vs, Lane.pair, Lane.v!, List.range_succ]

/-- The four merge words. -/
theorem isMerge_aacc (a b : VReg) (g : Fs) (e : Scope) (o : Order) (i : BitVec 16) :
    IsMerge (.aacc a b g e o i) a i fun l x => addElems x (fsElem g (l.getV b)) (fsCount g) :=
  ⟨fun _ => rfl, fun _ => rfl, rfl, fun _ _ => rfl, rfl, rfl, fun l => eaOf_pair l a _ _⟩
theorem isMerge_aaccMul (a b c : VReg) (g : Fs) (e : Scope) (o : Order) (i : BitVec 16) :
    IsMerge (.aaccMul a b c g e o i) a i fun l x => addElems x (prodElem g (l.getV b) (l.getV c)) (fsCount g) :=
  ⟨fun _ => rfl, fun _ => rfl, rfl, fun _ _ => rfl, rfl, rfl, fun l => eaOf_pair l a (l.vs b 1 ++ l.vs c 1) _⟩
theorem isMerge_amrg (a : VReg) (k : KReg) (e : Scope) (o : Order) (i : BitVec 16) :
    IsMerge (.amrg a k e o i) a i fun l x => laMerge x (l.getK k) false :=
  ⟨fun _ => rfl, fun _ => rfl, rfl, fun _ _ => rfl, rfl, rfl, fun l => eaOf_pair l a _ _⟩
theorem isMerge_amrgNeg (a : VReg) (k : KReg) (e : Scope) (o : Order) (i : BitVec 16) :
    IsMerge (.amrgNeg a k e o i) a i fun l x => laMerge x (l.getK k) true :=
  ⟨fun _ => rfl, fun _ => rfl, rfl, fun _ _ => rfl, rfl, rfl, fun l => eaOf_pair l a _ _⟩

end Sys2Proof.Machine

section
open Sys2Proof Sys2Proof.Machine Sys2Proof.Claims

/-- Settles O33: a merge goes through `mergeLine`, whose three ways each leave the line and memory as the statement says. -/
theorem merges : Obligations.Merges := by
  intro a b c k g e o i w hw
  have h : IsMerge w.1 a i w.2 := by
    simp only [List.mem_cons, List.not_mem_nil, or_false] at hw
    obtain rfl | rfl | rfl | rfl := hw
    · exact isMerge_aacc a b g e o i
    · exact isMerge_aaccMul a b c g e o i
    · exact isMerge_amrg a k e o i
    · exact isMerge_amrgNeg a k e o i
  refine ⟨mergeAct w.1 w.2, fun s hl => h.exec_next hl, fun s l => ?_⟩
  dsimp only
  rw [← h.ea l]
  refine ⟨h.act_misaligned s l, fun hm => ?_, fun hm ht => ?_, fun hm ht => ?_⟩
  · rw [h.act_aligned s l hm]
    exact inOrder_waits s l w.1 _
  · rw [h.act_aligned s l hm, inOrder_of_inTurn ht]
    refine ⟨fun u g => mergeStep_fault, fun u => mergeStep_wait, fun u x => mergeStep_denied, fun u x hp => ⟨h.step_kept hp, ?_, ?_, ?_⟩⟩
    · exact fun ha hw hn => (h.step_inPlace hp ha hw hn).2
    · intro ha hw hn
      rw [h.step_overPoison hp ha hw hn]
      exact ⟨fun _ => rfl, rfl⟩
    · intro ha hw hnone
      obtain ⟨t, hq, heq, ⟨hmash, -, hpartial⟩, htokens⟩ := h.step_enters hp ha hw
      rw [hnone] at hpartial
      rw [heq]
      exact ⟨lanes_setLane_of_eq hq.1 _, fun b => sameMem_of_quiet hq b, hmash, hpartial, htokens⟩
  · intro u x htr ha hb _ hc hr hs ho hmash hbusy
    rw [h.act_aligned s l hm, inOrder_of_inTurn ht]
    have hvia := State.mergeVia_performed (v := s.via l) (f := w.2 l) htr ha hb hc hr hs ho hbusy
    obtain ⟨t, hq, heq, hmerged⟩ := State.mergeLine_mash (a := (s.via l).agent) hmash (s.via l).who.part (some (s.via l).who.ctx) (w.2 l)
    rw [heq] at hvia
    rw [h.step_data hvia]
    exact ⟨lanes_setLane_of_eq hq.1 _, fun b => sameMem_of_quiet hq b, kept_setLane (kept_of_quiet hq) _, hmerged⟩

end


/-! ## An event register's write reaches lanes that are not parked at it -/

namespace Sys2Proof.Machine
open Sys2Proof Sys2Proof.Claims

/-- A lane that has issued EVWAIT for event 0 and count 1 while a result was outstanding: it stands at the marker, and is not parked at its event yet
(R390). -/
def atMarkerLane : Lane :=
  { newLane 0 (newLaunch 1 programRecord 0 none 0 [] false) 0 0 0 0 0 with
    marker := true, evw := some (0, 1), nextDef := 1,
    deferred := [{ n := 0, pc := 0x10040, instr := .frcp 3 4, srcs := [], vdst := [(3, 7)], kdst := [], touched := [], kcar := 0, flags := 0, sounded := 0, wait := .ready }] }

/-- That lane alone, in an active partition 0. -/
def atMarkerState : State :=
  { State.reset with boot := .ready, lanes := [atMarkerLane], parts := [(0, { part0 with state := .active })] }

theorem atMarkerState_open : Open atMarkerState 0 := ⟨rfl, .inl rfl⟩

theorem atMarkerState_noneParked : ∀ l ∈ atMarkerState.lanes, ∀ x m, l.park ≠ .evwait x m := by
  intro l hl x m hp
  obtain rfl : l = atMarkerLane := by simpa [atMarkerState] using hl
  cases hp

theorem exec_eventMmioWrite_of_open {s : State} {p : Nat} (h : Open s p) (e : Nat) (n : Word) :
    exec (.eventMmioWrite p e n) s = .next (s.bumpEvent p e n) := by
  obtain ⟨hboot, hstate | hstate | hstate⟩ := h <;>
    exact congrArg Host.Outcome.next (by simp [State.viaVf, State.viaMmio, hboot, hstate])

/-- The write makes event 0 reach the lane's target, so that the lane no longer waits for it. -/
theorem atMarkerState_bumped : (atMarkerState.bumpEvent 0 0 1).lanes.map (·.evw) = [none] := by decide +kernel

end Sys2Proof.Machine

section
open Sys2Proof Sys2Proof.Machine Sys2Proof.Claims

/-- Refutes O51: its clause on event registers says that a write changes the event alone where no lane is parked at an EVWAIT; but a lane at a
marker behind its EVWAIT is not parked there, and the write that reaches its target clears what it waits for (R390). -/
theorem not_registerWrites : ¬ Obligations.RegisterWrites := by
  intro h
  obtain ⟨-, -, -, -, -, -, -, -, -, hevent, -⟩ := h
  have hall := (hevent atMarkerState 0 0 1 atMarkerState_open).2 atMarkerState_noneParked
  rw [exec_eventMmioWrite_of_open atMarkerState_open] at hall
  injection hall with hstate
  have hevw : ([none] : List (Option (Nat × Word))) = [some (0, 1)] := atMarkerState_bumped.symm.trans (congrArg (fun t => t.lanes.map (·.evw)) hstate)
  cases hevw

end

/-! ## The write of a deferred result -/

namespace Sys2Proof.Machine
open Sys2Proof Sys2Proof.Claims

/-! ### What a word's write notes in the results outstanding (R80) -/

@[simp] theorem Deferred.touch_n (r : Nat) (d : Deferred) : (d.touch r).n = d.n := by
  unfold Deferred.touch
  split <;> rfl

@[simp] theorem Deferred.touch_wait (r : Nat) (d : Deferred) : (d.touch r).wait = d.wait := by
  unfold Deferred.touch
  split <;> rfl

@[simp] theorem Deferred.touch_faulted (r : Nat) (d : Deferred) : (d.touch r).faulted = d.faulted := by simp [Deferred.faulted]

/-- Lane m is lane l but for registers and for what its outstanding results note of later writes. -/
def Lane.SameButRegs (l m : Lane) : Prop :=
  { m with v := l.v, k := l.k, kc := l.kc, deferred := l.deferred } = l ∧
    m.deferred.map (fun e => (e.n, e.faulted)) = l.deferred.map fun e => (e.n, e.faulted)

theorem Lane.SameButRegs.setV {l m : Lane} (h : l.SameButRegs m) (r : VReg) (x : Word) : l.SameButRegs (m.setV r x) :=
  ⟨h.1, by simpa [Lane.setV, Function.comp_def] using h.2⟩

theorem Lane.SameButRegs.setKC {l m : Lane} (h : l.SameButRegs m) (k : KReg) (x : LA) (c : BitVec 80) : l.SameButRegs (m.setKC k x c) :=
  ⟨h.1, by simpa [Lane.setKC, Lane.setK, Function.comp_def] using h.2⟩

theorem Lane.SameButRegs.ite {l m n : Lane} {c : Prop} [Decidable c] (hm : l.SameButRegs m) (hn : l.SameButRegs n) :
    l.SameButRegs (if c then m else n) := by
  split <;> assumption

/-! ### The registers that a result writes -/

theorem Lane.getV_setV! (l : Lane) (n : Nat) (x : Word) (r : VReg) : (l.setV! n x).getV r = if n % 64 = r.val then x else l.getV r := by
  simp [Lane.getV, Lane.setV!, Lane.setV, Vector.getElem_set]

theorem Lane.getK_setKC (l : Lane) (n : Nat) (x : LA) (c : BitVec 80) (k : KReg) :
    (l.setKC (Fin.ofNat 16 n) x c).getK k = if n % 16 = k.val then x else l.getK k := by
  simp [Lane.getK, Lane.setKC, Lane.setK, Vector.getElem_set]

@[simp] theorem Lane.getK_setV! (l : Lane) (n : Nat) (x : Word) (k : KReg) : (l.setV! n x).getK k = l.getK k := rfl
@[simp] theorem Lane.getV_setKC (l : Lane) (j : KReg) (x : LA) (c : BitVec 80) (r : VReg) : (l.setKC j x c).getV r = l.getV r := rfl

/-- The last of the writes es that names place r, if a lane takes any for it. -/
theorem foldl_last_write {α : Type} {w : Lane → Nat → α → Lane} {get : Lane → α} {r m : Nat}
    (hw : ∀ l n x, get (w l n x) = if n % m = r then x else get l) (takes : Nat → Bool) (es : List (Nat × α)) (l : Lane) :
    get (es.foldl (fun l e => if takes (e.1 % m) then w l e.1 e.2 else l) l) =
      if takes r then ((es.reverse.find? fun e => e.1 % m == r).map (·.2)).getD (get l) else get l := by
  induction es generalizing l with
  | nil => simp
  | cons e es ih =>
    rw [List.foldl_cons, ih, List.reverse_cons, List.find?_append]
    by_cases he : e.1 % m = r
    · subst he
      cases ht : takes (e.1 % m) with
      | false => simp
      | true => cases hf : es.reverse.find? fun x => x.1 % m == e.1 % m <;> simp [hw]
    · have hstep : get (if takes (e.1 % m) then w l e.1 e.2 else l) = get l := by
        split
        · rw [hw, if_neg he]
        · rfl
      simp [hstep, he]

/-- A register takes the result but where a later word has written it and the choice is against it. -/
theorem Lane.getV_writeBack (l : Lane) (d : Deferred) (pick : Nat) (r : VReg) :
    (l.writeBack d pick).getV r = if r.val ∈ d.touched ∧ pick.testBit r.val = false then l.getV r
      else ((d.vdst.reverse.find? fun e => e.1 % 64 == r.val).map (·.2)).getD (l.getV r) := by
  unfold Lane.writeBack
  dsimp only
  have hk (m : Lane) : (d.kdst.foldl (fun l e => if (!d.touched.contains (64 + e.1 % 16) || pick.testBit (64 + e.1 % 16)) = true
      then l.setKC (Fin.ofNat 16 e.1) e.2 d.kcar else l) m).getV r = m.getV r :=
    List.foldlRecOn (motive := fun b : Lane => b.getV r = m.getV r) d.kdst _ rfl fun b hb e _ => by
      split
      · exact hb
      · exact hb
  rw [hk, foldl_last_write (w := Lane.setV!) (get := fun l => l.getV r) (fun l n x => l.getV_setV! n x r) fun n => !d.touched.contains n || pick.testBit n]
  by_cases h : r.val ∈ d.touched <;> cases pick.testBit r.val <;> simp [h, Lane.getV]

theorem Lane.getK_writeBack (l : Lane) (d : Deferred) (pick : Nat) (k : KReg) :
    (l.writeBack d pick).getK k = if 64 + k.val ∈ d.touched ∧ pick.testBit (64 + k.val) = false then l.getK k
      else ((d.kdst.reverse.find? fun e => e.1 % 16 == k.val).map (·.2)).getD (l.getK k) := by
  unfold Lane.writeBack
  dsimp only
  rw [foldl_last_write (w := fun l n x => l.setKC (Fin.ofNat 16 n) x d.kcar) (get := fun l => l.getK k) (fun l n x => l.getK_setKC n x d.kcar k)
    fun n => !d.touched.contains (64 + n) || pick.testBit (64 + n)]
  have hv (m : Lane) : (d.vdst.foldl (fun l e => if (!d.touched.contains (e.1 % 64) || pick.testBit (e.1 % 64)) = true
      then l.setV! e.1 e.2 else l) m).getK k = m.getK k :=
    List.foldlRecOn (motive := fun b : Lane => b.getK k = m.getK k) d.vdst _ rfl fun b hb e _ => by
      split
      · exact hb
      · exact hb
  rw [hv]
  by_cases h : 64 + k.val ∈ d.touched <;> cases pick.testBit (64 + k.val) <;> simp [h, Lane.getK]

/-- A result that is written leaves the list of those outstanding; beside registers nothing else changes. -/
theorem Lane.sameButRegs_writeBack (l : Lane) (d : Deferred) (pick : Nat) :
    Lane.SameButRegs { l with deferred := l.deferred.filter fun e => e.n != d.n } (l.writeBack d pick) := by
  unfold Lane.writeBack
  refine List.foldlRecOn (motive := fun m => Lane.SameButRegs _ m) d.kdst _ ?_ fun m hm e _ => (hm.setKC _ _ _).ite hm
  exact List.foldlRecOn (motive := fun m => Lane.SameButRegs _ m) d.vdst _ ⟨rfl, rfl⟩ fun m hm e _ => (hm.setV _ _).ite hm

theorem Lane.writeBack_deferred (l : Lane) (d : Deferred) (pick : Nat) :
    (l.writeBack d pick).deferred.map (fun e => (e.n, e.faulted)) = (l.deferred.filter fun e => e.n != d.n).map fun e => (e.n, e.faulted) :=
  (l.sameButRegs_writeBack d pick).2

theorem Lane.writeBack_frame (l : Lane) (d : Deferred) (pick : Nat) :
    { l.writeBack d pick with v := l.v, k := l.k, kc := l.kc, deferred := l.deferred } = l := by
  have h := congrArg (fun m : Lane => { m with deferred := l.deferred }) (l.sameButRegs_writeBack d pick).1
  exact h

section
variable (l : Lane) (d : Deferred) (pick : Nat)

@[simp] theorem Lane.writeBack_id : (l.writeBack d pick).id = l.id := (congrArg Lane.id (l.writeBack_frame d pick) :)
@[simp] theorem Lane.writeBack_marker : (l.writeBack d pick).marker = l.marker := (congrArg Lane.marker (l.writeBack_frame d pick) :)
@[simp] theorem Lane.writeBack_trap : (l.writeBack d pick).trap = l.trap := (congrArg Lane.trap (l.writeBack_frame d pick) :)
@[simp] theorem Lane.writeBack_pfault : (l.writeBack d pick).pfault = l.pfault := (congrArg Lane.pfault (l.writeBack_frame d pick) :)
@[simp] theorem Lane.writeBack_stepPend : (l.writeBack d pick).stepPend = l.stepPend := (congrArg Lane.stepPend (l.writeBack_frame d pick) :)
@[simp] theorem Lane.writeBack_early : (l.writeBack d pick).early = l.early := (congrArg Lane.early (l.writeBack_frame d pick) :)
@[simp] theorem Lane.writeEarly_id : (l.writeEarly d).id = l.id := l.writeBack_id _ _
@[simp] theorem Lane.writeEarly_marker : (l.writeEarly d).marker = l.marker := l.writeBack_marker _ _
@[simp] theorem Lane.writeEarly_trap : (l.writeEarly d).trap = l.trap := l.writeBack_trap _ _
@[simp] theorem Lane.writeEarly_pfault : (l.writeEarly d).pfault = l.pfault := l.writeBack_pfault _ _
@[simp] theorem Lane.writeEarly_stepPend : (l.writeEarly d).stepPend = l.stepPend := l.writeBack_stepPend _ _

/-- A k register is written at the marker alone (R432). -/
theorem Lane.writeEarly_k : (l.writeEarly d).k = l.k := by
  have hk (k : KReg) : (l.writeBack { d with kdst := [] } allTake).getK k = l.getK k := by simp [Lane.getK_writeBack]
  exact Vector.ext fun i hi => hk ⟨i, hi⟩

end

/-- What a lane that leaves its marker keeps of a field that results do not write. -/
theorem Lane.landed_field {α : Type} (f : Lane → α) (hw : ∀ l d, f (l.writeBack d allTake) = f l) (he : ∀ l : Lane, f { l with early := [] } = f l)
    (l : Lane) : f l.landed = f l :=
  (he _).trans (List.foldlRecOn (motive := fun m => f m = f l) l.early _ rfl fun m hm d _ => (hw m d).trans hm)

@[simp] theorem Lane.landed_id (l : Lane) : l.landed.id = l.id := Lane.landed_field Lane.id (by simp) (fun _ => rfl) l
@[simp] theorem Lane.landed_pfault (l : Lane) : l.landed.pfault = l.pfault := Lane.landed_field Lane.pfault (by simp) (fun _ => rfl) l
@[simp] theorem Lane.landed_stepPend (l : Lane) : l.landed.stepPend = l.stepPend := Lane.landed_field Lane.stepPend (by simp) (fun _ => rfl) l
@[simp] theorem Lane.unmarked_id (l : Lane) (c : Nat) : (l.unmarked c).id = l.id := l.landed_id
@[simp] theorem Lane.unmarked_pfault (l : Lane) (c : Nat) : (l.unmarked c).pfault = l.pfault := l.landed_pfault
@[simp] theorem Lane.unmarked_stepPend (l : Lane) (c : Nat) : (l.unmarked c).stepPend = l.stepPend := l.landed_stepPend

theorem allTake_testBit {r : Nat} (h : r < 80) : allTake.testBit r = true := by
  unfold allTake
  rw [Nat.testBit_two_pow_sub_one, decide_eq_true h]

/-- Results written early stand at the marker. -/
theorem Lane.landed_single {l : Lane} {d : Deferred} (h : l.early = [d]) :
    (∀ r, l.landed.getV r = ((d.vdst.reverse.find? fun e => e.1 % 64 == r.val).map (·.2)).getD (l.getV r)) ∧
      ∀ k, l.landed.getK k = ((d.kdst.reverse.find? fun e => e.1 % 16 == k.val).map (·.2)).getD (l.getK k) := by
  have hl : l.landed = { l.writeBack d allTake with early := [] } := by simp [Lane.landed, h]
  rw [hl]
  refine ⟨fun r => (l.getV_writeBack d allTake r).trans (if_neg ?_), fun k => (l.getK_writeBack d allTake k).trans (if_neg ?_)⟩
  · simp [allTake_testBit (show r.val < 80 by omega)]
  · simp [allTake_testBit (show 64 + k.val < 80 by omega)]

theorem Lane.landed_of_early_nil {l : Lane} (h : l.early = []) : l.landed = l := by
  simp only [Lane.landed, h, List.foldl_nil]
  rw [← h]

/-! ### A lane that has just been set -/

theorem State.lane?_id {s : State} {id : LaneId} {l : Lane} (h : s.lane? id = some l) : l.id = id := by
  simpa using List.find?_some h

theorem State.lane?_mem {s : State} {id : LaneId} {l : Lane} (h : s.lane? id = some l) : l ∈ s.lanes := List.mem_of_find?_eq_some h

theorem State.lane?_setLane {s : State} {id : LaneId} {l m : Lane} (h : s.lane? id = some l) (hm : m.id = id) : (s.setLane m).lane? id = some m := by
  unfold State.lane? at h ⊢
  rw [setLane_lanes, List.find?_map]
  have hcomp : ((fun x : Lane => x.id == id) ∘ fun x => if x.id = m.id then m else x) = fun x => x.id == id := by
    funext x
    simp only [Function.comp_apply]
    split
    · next hx => rw [hx]
    · rfl
  rw [hcomp, h, Option.map_some, if_pos]
  rw [hm]
  simpa using List.find?_some h

theorem State.orFlags_lanes (s : State) (id : LaneId) (f : BitVec 5) : (s.orFlags id f).lanes = s.lanes := by
  unfold State.orFlags
  split <;> rfl

theorem State.orFlags_cycle (s : State) (id : LaneId) (f : BitVec 5) : (s.orFlags id f).cycle = s.cycle := by
  unfold State.orFlags
  split <;> rfl

theorem State.lane?_of_lanes {s t : State} (h : t.lanes = s.lanes) (id : LaneId) : t.lane? id = s.lane? id := by rw [State.lane?, h]; rfl

/-- No lane has met a page fault: none is recorded. -/
theorem State.takePages_of_none {s : State} (h : ∀ m ∈ s.lanes, m.pfault = none) : s.takePages = s := by
  have hf : s.lanes.filter (fun l => l.pfault.isSome) = [] := List.filter_eq_nil_iff.mpr fun m hm => by simp [h m hm]
  rw [State.takePages, hf, List.foldl_nil]

theorem State.settleStep_of_none {s : State} {l : Lane} (h : l.stepPend = none) : s.settleStep l = s := by rw [State.settleStep, h]

theorem State.onLane_of_some {s : State} {id : LaneId} {l : Lane} (h : s.lane? id = some l) (f : State → Lane → State) : s.onLane id f = f s l := by
  rw [State.onLane, h]

/-- One lane is settled where no lane has a page fault to record and it owes no step: its marker alone is looked at. -/
theorem State.settle_single {s u : State} {id : LaneId} {l m : Lane} (hl : s.lane? id = some l) (hu : s.settleMarker l = u)
    (hp : ∀ m ∈ u.lanes, m.pfault = none) (hm : u.lane? id = some m) (hs : m.stepPend = none) : s.settle [id] = u := by
  unfold State.settle
  simp only [List.foldl_cons, List.foldl_nil]
  rw [State.onLane_of_some hl, hu, State.takePages_of_none hp, State.onLane_of_some hm, State.settleStep_of_none hs]

theorem State.pfault_setLane {s : State} (h : ∀ m ∈ s.lanes, m.pfault = none) {l : Lane} (hl : l.pfault = none) :
    ∀ m ∈ (s.setLane l).lanes, m.pfault = none := by
  intro m hm
  rw [setLane_lanes] at hm
  obtain ⟨x, hx, rfl⟩ := List.mem_map.mp hm
  split
  · exact hl
  · exact h x hx

theorem State.settleMarker_unmarked {s : State} {l : Lane} (hm : l.marker = false) (ht : l.trap = none) : s.settleMarker l = s := by
  simp [State.settleMarker, hm, ht]

theorem State.settleMarker_waits {s : State} {l : Lane} (h : ∃ e ∈ l.deferred, e.faulted = false) : s.settleMarker l = s := by
  have hany : l.deferred.any (fun d => !d.faulted) = true := by simpa using h
  unfold State.settleMarker
  rw [hany]
  simp

theorem State.settleMarker_ends {s : State} {l : Lane} (hm : l.marker = true) (hd : l.deferred = []) :
    s.settleMarker l = s.setLane (l.unmarked s.cycle) := by
  simp [State.settleMarker, hm, hd]

/-! ### The event -/

section
variable {s : State} {id : LaneId} {n : Nat} {l : Lane} {d : Deferred}

theorem exec_deferredResultWrite_unwritable (hl : s.lane? id = some l) (hd : l.deferred.find? (fun e => e.n == n) = some d) (hw : d.wait = .ready)
    (hno : s.writable l d = false) : exec (.deferredResultWrite id n) s = .next s := by
  change execDeferredResultWrite id n s = _
  simp [execDeferredResultWrite, hl, hd, hno, hw]

theorem exec_deferredResultWrite_writable (hl : s.lane? id = some l) (hd : l.deferred.find? (fun e => e.n == n) = some d)
    (hyes : s.writable l d = true) : exec (.deferredResultWrite id n) s = .next ((s.writeResult l d).settle [id]) := by
  change execDeferredResultWrite id n s = _
  simp [execDeferredResultWrite, hl, hd, hyes]

/-- The machine in which a lane has written a result and its flags. -/
theorem State.lane?_written {m : Lane} (hl : s.lane? id = some l) (hid : m.id = id) (f : BitVec 5) : ((s.setLane m).orFlags id f).lane? id = some m :=
  (State.lane?_of_lanes (State.orFlags_lanes _ _ _) _).trans (State.lane?_setLane hl hid)

theorem State.pfault_written (hp : ∀ x ∈ s.lanes, x.pfault = none) {m : Lane} (hm : m.pfault = none) (f : BitVec 5) :
    ∀ x ∈ ((s.setLane m).orFlags id f).lanes, x.pfault = none := by
  rw [State.orFlags_lanes]
  exact State.pfault_setLane hp hm

/-- A lane that writes a result and has to wait on, or has none to wait for: nothing else happens. -/
theorem State.settle_written {m : Lane} (hl : s.lane? id = some l) (hid : m.id = id) (hp : ∀ x ∈ s.lanes, x.pfault = none) (hm : m.pfault = none)
    (hs : m.stepPend = none) (f : BitVec 5) (hsettled : ∀ u : State, u.settleMarker m = u) :
    ((s.setLane m).orFlags id f).settle [id] = (s.setLane m).orFlags id f :=
  State.settle_single (State.lane?_written hl hid f) (hsettled _) (State.pfault_written hp hm f) (State.lane?_written hl hid f) hs

/-- A lane at its marker that writes the last of its results goes on. -/
theorem State.settle_written_last {m : Lane} (hl : s.lane? id = some l) (hid : m.id = id) (hp : ∀ x ∈ s.lanes, x.pfault = none) (hm : m.pfault = none)
    (hs : m.stepPend = none) (f : BitVec 5) (hmark : m.marker = true) (hlast : m.deferred = []) :
    ((s.setLane m).orFlags id f).settle [id] = ((s.setLane m).orFlags id f).setLane (m.unmarked s.cycle) := by
  refine State.settle_single (State.lane?_written hl hid f) ?_ (State.pfault_setLane (State.pfault_written hp hm f) ?_)
    (State.lane?_setLane (State.lane?_written hl hid f) ?_) ?_
  · rw [State.settleMarker_ends hmark hlast, State.orFlags_cycle]
    rfl
  · rw [Lane.unmarked_pfault, hm]
  · rw [Lane.unmarked_id, hid]
  · rw [Lane.unmarked_stepPend, hs]

theorem State.writeResult_early (hid : l.id = id) (hsnd : d.sounded = 0) (hm : l.marker = false) (ht : l.trap = none) :
    s.writeResult l d = (s.setLane (l.writeEarly d)).orFlags id d.flags := by
  simp [State.writeResult, hm, ht, hsnd, hid]

theorem State.writeResult_untouched (hid : l.id = id) (hsnd : d.sounded = 0) (hw : l.marker = true ∨ l.trap.isSome = true) (htouch : d.touched = []) :
    s.writeResult l d = (s.setLane (l.writeBack d allTake)).orFlags id d.flags := by
  simp [State.writeResult, hw, htouch, hsnd, hid]

/-- At the marker, the registers that take the result are a free choice (R80). -/
theorem State.writeResult_atMarker (s : State) (hid : l.id = id) (hsnd : d.sounded = 0) (hw : l.marker = true ∨ l.trap.isSome = true) :
    ∃ pick free : Nat, s.writeResult l d = (({ s with free := free } : State).setLane (l.writeBack d pick)).orFlags id d.flags := by
  by_cases ht : d.touched = []
  · exact ⟨allTake, s.free, State.writeResult_untouched hid hsnd hw ht⟩
  · refine ⟨Config.freeNat s.free, s.free + 1, ?_⟩
    simp [State.writeResult, hw, ht, hsnd, hid, State.draw]

/-- A result that the lane still waits for beside the one that is written. -/
theorem Lane.writeBack_waits (hwait : ∃ e ∈ l.deferred, e.n ≠ d.n ∧ e.faulted = false) (pick : Nat) :
    ∃ e ∈ (l.writeBack d pick).deferred, e.faulted = false := by
  obtain ⟨e, he, hn, hf⟩ := hwait
  have hmem : (e.n, e.faulted) ∈ (l.writeBack d pick).deferred.map fun e => (e.n, e.faulted) := by
    rw [Lane.writeBack_deferred]
    exact List.mem_map_of_mem (List.mem_filter.mpr ⟨he, by simpa using hn⟩)
  obtain ⟨x, hx, hxe⟩ := List.mem_map.mp hmem
  exact ⟨x, hx, (Prod.mk.inj hxe).2.trans hf⟩

theorem Lane.writeBack_last (h : l.deferred = [d]) (pick : Nat) : (l.writeBack d pick).deferred = [] := by
  simpa [h] using l.writeBack_deferred d pick

theorem State.not_writable (h : s.isFrozen l.quarter = true ∨ (d.kdst ≠ [] ∧ l.marker = false ∧ l.trap = none ∧ l.room = true ∧ s.saving l = false)) :
    s.writable l d = false := by
  obtain hf | ⟨hk, hm, ht, hr, hs⟩ := h
  · simp [State.writable, hf]
  · simp [State.writable, hk, hm, ht, hr, hs]

theorem State.writable_of (hw : d.wait = .ready) (hf : s.isFrozen l.quarter = false)
    (h : d.kdst = [] ∨ l.marker = true ∨ l.trap.isSome = true ∨ l.room = false ∨ s.saving l = true) : s.writable l d = true := by
  simp only [State.writable, hw, hf, beq_self_eq_true, Bool.not_false, Bool.and_self, Bool.true_and, Bool.or_eq_true, List.isEmpty_iff, Bool.not_eq_true']
  tauto

end

end Sys2Proof.Machine

section
open Sys2Proof Sys2Proof.Machine Sys2Proof.Claims

/-- Settles O14: what a result writes is the last of its writes for each register, and what its lane then waits for decides whether the write is all that
happens. -/
theorem deferredResultReturns : Obligations.DeferredResultReturns := by
  unfold Obligations.DeferredResultReturns
  refine ⟨fun s id n l d hl hid hd hwait hsnd => ⟨fun hno => ?unwritable, fun hfroz hstep hpf => ⟨fun hm ht hk => ?early, fun hw hmore => ?marker,
    fun hm ht honly htouch => ?last⟩⟩, fun l d pick => ?registers⟩
  case unwritable => exact exec_deferredResultWrite_unwritable hl hd hwait (State.not_writable hno)
  case early =>
    have hyes : s.writable l d = true := State.writable_of hwait hfroz (by tauto)
    rw [exec_deferredResultWrite_writable hl hd hyes, State.writeResult_early hid hsnd hm ht]
    have hpl : l.pfault = none := hpf l (State.lane?_mem hl)
    rw [State.settle_written hl ((l.writeEarly_id d).trans hid) hpf (by rw [Lane.writeEarly_pfault, hpl]) (by rw [Lane.writeEarly_stepPend, hstep])
      d.flags fun u => State.settleMarker_unmarked (by rw [Lane.writeEarly_marker, hm]) (by rw [Lane.writeEarly_trap, ht])]
  case marker =>
    have hyes : s.writable l d = true := State.writable_of hwait hfroz (by tauto)
    have hn : d.n = n := by simpa using List.find?_some hd
    have hpl : l.pfault = none := hpf l (State.lane?_mem hl)
    have settled (u : State) (pick : Nat) (hu : u.lanes = s.lanes) :
        ((u.setLane (l.writeBack d pick)).orFlags id d.flags).settle [id] = (u.setLane (l.writeBack d pick)).orFlags id d.flags :=
      State.settle_written ((State.lane?_of_lanes hu id).trans hl) ((l.writeBack_id d pick).trans hid) (hu ▸ hpf) (by rw [Lane.writeBack_pfault, hpl])
        (by rw [Lane.writeBack_stepPend, hstep]) d.flags fun _ => State.settleMarker_waits (Lane.writeBack_waits (hn ▸ hmore) pick)
    rw [exec_deferredResultWrite_writable hl hd hyes]
    refine ⟨fun htouch => ?_, ?_⟩
    · rw [State.writeResult_untouched hid hsnd hw htouch, settled s _ rfl]
    · obtain ⟨pick, free, h⟩ := State.writeResult_atMarker s hid hsnd hw
      exact ⟨pick, free, by rw [h, settled { s with free := free } pick rfl]⟩
  case last =>
    have hyes : s.writable l d = true := State.writable_of hwait hfroz (.inr (.inl hm))
    have hpl : l.pfault = none := hpf l (State.lane?_mem hl)
    rw [exec_deferredResultWrite_writable hl hd hyes, State.writeResult_untouched hid hsnd (.inl hm) htouch]
    rw [State.settle_written_last hl ((l.writeBack_id d _).trans hid) hpf (by rw [Lane.writeBack_pfault, hpl]) (by rw [Lane.writeBack_stepPend, hstep])
      d.flags (by rw [Lane.writeBack_marker, hm]) (Lane.writeBack_last honly _)]
  case registers =>
    refine ⟨?_, l.getV_writeBack d pick, l.getK_writeBack d pick, l.writeBack_frame d pick, fun r => allTake_testBit, rfl, l.writeEarly_k d,
      Lane.landed_single, Lane.landed_of_early_nil⟩
    simpa [Function.comp_def] using congrArg (List.map Prod.fst) (l.writeBack_deferred d pick)

end

/-! ## Reads of system registers, and draws -/

namespace Sys2Proof.Machine
open Sys2Proof Sys2Proof.Claims

theorem State.activeAt_some {s : State} {n : Nat} {l : Lane} (h : s.activeAt n = some l) : l ∈ s.lanes ∧ l.issuing = true ∧ l.id.slot = n := by
  have hp : (l.issuing && l.id.slot == n) = true := List.find?_some (p := fun l : Lane => l.issuing && l.id.slot == n) h
  simp only [Bool.and_eq_true, beq_iff_eq] at hp
  exact ⟨List.mem_of_find?_eq_some h, hp⟩

/-- An act that leaves the machine alone in every active lane. -/
theorem eachActive_of_unchanged {s : State} {f : State → Lane → State} (h : ∀ l ∈ s.lanes, l.issuing = true → f s l = s) : eachActive s f = s := by
  unfold eachActive
  refine List.foldlRecOn (motive := fun t => t = s) _ _ rfl fun t ht n _ => ?_
  subst ht
  split
  · next l hl =>
    obtain ⟨hmem, hi, -⟩ := State.activeAt_some hl
    exact h l hmem hi
  · rfl

/-- A register that every active lane may access traps in none. -/
theorem privLanes_of_ok {s : State} {r : Nat} {ok : Lane → Bool} (h : Actives s fun l => ok l = true) : privLanes s r ok = s :=
  eachActive_of_unchanged fun l hl hi => if_pos (h l hl hi)

theorem mapActive_congr {s : State} {f g : Lane → Lane} (h : ∀ l, f l = g l) : mapActive s f = mapActive s g := congrArg (mapActive s) (funext h)

/-- What MFS writes in a lane, once the chronometer has been read where it is %chron that is read. -/
theorem exec_mfs {s : State} {d : VReg} {r : BitVec 12} {l : Lane} (hlegal : Legal s (.mfs d r)) (hlead : s.lead = some l)
    (hok : Actives s fun l => sysMfsOk r.toNat l.sup = true) :
    exec (.mfs d r) s =
      let u := if r.toNat = 0x014 then (s.readChron l.part).2 else s
      .next (mapActive u fun m => if r.toNat = 0x010 && u.flagsDue m then m.stall else (m.setSys d (sysWide r.toNat) (u.readSys m r.toNat)).adv 4) := by
  obtain ⟨l', h1, h2⟩ := hlegal
  change execMfs d r s = _
  rw [execMfs, guarded_next h1 h2]
  dsimp only
  rw [privLanes_of_ok hok, hlead]

theorem State.lead_of_legal {s : State} {i : Instr} (h : Legal s i) : ∃ l, s.lead = some l := h.imp fun _ hl => hl.1

/-- The user's registers are read at either level. -/
theorem sysMfsOk_fflags (sup : Bool) : sysMfsOk 0x010 sup = true := by cases sup <;> rfl
theorem sysMfsOk_chron (sup : Bool) : sysMfsOk 0x014 sup = true := by cases sup <;> rfl

/-! ### The value that is read -/

theorem State.readSys_fflags (s : State) (l : Lane) : s.readSys l 0x010 = ((s.group? l.id).elim 0 (·.fflags)).setWidth 64 := by
  change BitVec.ofNat 64 ((s.group? l.id).elim 0 (·.fflags.toNat)) = _
  cases s.group? l.id with
  | none => rfl
  | some g => simp [BitVec.ofNat_toNat]

theorem State.readSys_dbgctl (s : State) (l : Lane) : s.readSys l 0x105 = ((s.group? l.id).elim 0 (·.dbgctl)).setWidth 64 := by
  change BitVec.ofNat 64 ((s.group? l.id).elim 0 (·.dbgctl.toNat)) = _
  cases s.group? l.id with
  | none => rfl
  | some g => simp [BitVec.ofNat_toNat]

theorem State.readSys_brk (s : State) (l : Lane) {k : Nat} (hk : k < 4) : s.readSys l (0x108 + k) = tget 0 k (s.part l.part).brk := by
  have h : s.readSys l (0x108 + k) = BitVec.ofNat 64 (tget 0 k (s.part l.part).brk).toNat := by
    interval_cases k <;> rfl
  rw [h, BitVec.ofNat_toNat, BitVec.setWidth_eq]

theorem State.readSys_slot (s : State) (l : Lane) {k : Nat} (hk : k < 8) : s.readSys l (0x020 + k) = (recSlot (s.laneRec l) k).setWidth 64 := by
  have h : s.readSys l (0x020 + k) = BitVec.ofNat 64 (recSlot (s.laneRec l) k).toNat := by
    interval_cases k <;> rfl
  rw [h, BitVec.ofNat_toNat]

theorem State.readSys_role (s : State) (l : Lane) : s.readSys l 0x003 = (match l.role with | .con => 0 | .pro => 1) := by
  change BitVec.ofNat 64 (match l.role with | .con => 0 | .pro => 1) = _
  cases l.role <;> rfl

theorem ofNat_toNat_self {w : Nat} (x : BitVec w) : BitVec.ofNat w x.toNat = x := by rw [BitVec.ofNat_toNat, BitVec.setWidth_eq]

/-- The group's flags that an engine still has to raise (R40). -/
theorem State.flagsDue_iff (s : State) (l : Lane) : s.flagsDue l = true ↔ ∃ m ∈ s.lanes, m.id.tid = l.id.tid ∧ m.id.grp = l.id.grp ∧
    ∃ x ∈ m.deferred, (∃ a f t, x.instr = .mxrd a f t) ∧ ∃ n, x.wait = .engine n := by
  have key (x : Deferred) : (match x.instr, x.wait with | .mxrd .., .engine _ => true | _, _ => false) = true ↔
      (∃ a f t, x.instr = .mxrd a f t) ∧ ∃ n, x.wait = .engine n := by
    constructor
    · intro h
      split at h
      · next hi hw => exact ⟨⟨_, _, _, hi⟩, _, hw⟩
      · cases h
    · rintro ⟨⟨a, f, t, hi⟩, n, hw⟩
      rw [hi, hw]
  unfold State.flagsDue
  simp only [List.any_eq_true, Bool.and_eq_true, beq_iff_eq, and_assoc]
  exact exists_congr fun m => and_congr_right fun _ => and_congr_right fun _ => and_congr_right fun _ =>
    exists_congr fun x => and_congr_right fun _ => key x

/-! ### Lanes of a team that is placed -/

theorem State.readChron_lanes (s : State) (p : Nat) : (s.readChron p).2.lanes = s.lanes := rfl

/-- A team's lanes come behind those that are there, each as its launch starts it. -/
theorem State.placeTeam_lanes (s : State) (p : Nat) (L : Launch) (c : Nat) :
    (s.placeTeam p L c).lanes = s.lanes ++ (List.range (recGroups L.lrec)).flatMap fun g =>
      (List.range 32).map fun k => { newLane p L s.nextTid L.placed c g k with since := s.cycle } := rfl

theorem State.placeTeam_new {s : State} {p c : Nat} {L : Launch} {l : Lane} (h : l ∈ (s.placeTeam p L c).lanes) :
    l ∈ s.lanes ∨ ∃ g < recGroups L.lrec, ∃ k < 32, l = { newLane p L s.nextTid L.placed c g k with since := s.cycle } := by
  rw [State.placeTeam_lanes, List.mem_append] at h
  refine h.imp_right fun h => ?_
  obtain ⟨g, hg, hl⟩ := List.mem_flatMap.mp h
  obtain ⟨k, hk, rfl⟩ := List.mem_map.mp hl
  exact ⟨g, List.mem_range.mp hg, k, List.mem_range.mp hk, rfl⟩

end Sys2Proof.Machine

section
open Sys2Proof Sys2Proof.Machine Sys2Proof.Claims

/-- MFS and CLK: what each register reads as, and what a read leaves. -/
theorem Sys2Proof.Claims.systemRegisterReads : Claims.SystemRegisterReads := by
  refine ⟨fun d r s hlegal hchron hflags hok => ?plain, fun d s hlegal => ?fflags, State.flagsDue_iff, fun d s l hlegal hlead => ?chron,
    fun d s l hlegal hlead => ?clk, fun s l => ?values, fun c t t' => le_max_right _ _⟩
  case plain =>
    obtain ⟨l, hlead⟩ := State.lead_of_legal hlegal
    have h14 : r.toNat ≠ 0x014 := BitVec.toNat_ne_iff_ne.mpr hchron
    have h10 : r.toNat ≠ 0x010 := BitVec.toNat_ne_iff_ne.mpr hflags
    rw [exec_mfs hlegal hlead hok]
    simp only [if_neg h14, decide_eq_false h10, Bool.false_and, Bool.false_eq_true, if_false]
    rfl
  case fflags =>
    obtain ⟨l, hlead⟩ := State.lead_of_legal hlegal
    rw [exec_mfs hlegal hlead fun m _ _ => sysMfsOk_fflags m.sup]
    refine congrArg Host.Outcome.next (mapActive_congr fun m => ?_)
    change (if s.flagsDue m then m.stall else (m.setV d ((s.readSys m 0x010).setWidth 32)).adv 4) = _
    rw [State.readSys_fflags]
    cases s.group? m.id <;> simp
  case chron =>
    rw [exec_mfs hlegal hlead fun m _ _ => sysMfsOk_chron m.sup]
    rfl
  case clk =>
    obtain ⟨l', h1, h2⟩ := hlegal
    change execClk d s = _
    rw [execClk, guarded_next h1 h2]
    dsimp only
    rw [hlead]
  case values =>
    exact ⟨rfl, rfl, s.readSys_role l, rfl, rfl, s.readSys_fflags l, rfl, rfl, ofNat_toNat_self _, (BitVec.ofNat_toNat _ _), ofNat_toNat_self _,
      ofNat_toNat_self _, ofNat_toNat_self _, ofNat_toNat_self _, s.readSys_dbgctl l, fun k => s.readSys_brk l, BitVec.ofNat_toNat _ _, rfl,
      fun k => s.readSys_slot l⟩

/-- RND: the generator written out, the counter at the launch and its step. -/
theorem Sys2Proof.Claims.randomDraws : Claims.RandomDraws := by
  refine ⟨rndDraw, fun _ _ _ => rfl, fun s p c L l hl => ?start, fun d s => ⟨fun hlegal => ?lo, fun hlegal => ?hi⟩⟩
  case start =>
    refine (State.placeTeam_new hl).imp_right fun h => ?_
    obtain ⟨g, -, k, -, rfl⟩ := h
    rfl
  case lo =>
    obtain ⟨l, h1, h2⟩ := hlegal
    exact laneOp_next h1 h2
  case hi =>
    obtain ⟨l, h1, h2⟩ := hlegal
    exact laneOp_next h1 h2

/-- Settles O21: a read is the value that `readSys` gives each register, and a draw is `rndDraw` of the lane's counter. -/
theorem systemRegisterReadsAndDraws : Obligations.SystemRegisterReadsAndDraws := ⟨Claims.systemRegisterReads, Claims.randomDraws⟩

end

/-! ## Convergence registers, and the words that reach the matrix engine -/

namespace Sys2Proof.Machine
open Sys2Proof Sys2Proof.Claims

/-! ### The state word (R83) -/

theorem bit_le_one (b : Bool) : bit b ≤ 1 := by cases b <;> decide

theorem cvWord_cvWordOf (gen armed : Bool) {action qheld count signed : Nat} (ha : action < 4) (hq : qheld < 16) (hc : count < 2048) (hs : signed < 2048) :
    CvWord (cvWordOf gen armed action qheld count signed) gen armed action qheld count signed := by
  have hg := bit_le_one gen
  have hr := bit_le_one armed
  have hn : (cvWordOf gen armed action qheld count signed).toNat =
      bit gen * 2 ^ 31 + bit armed * 2 ^ 30 + action * 2 ^ 28 + qheld * 2 ^ 24 + count * 2 ^ 11 + signed := by
    rw [cvWordOf, BitVec.toNat_ofNat]
    omega
  have hbit (j : Nat) : (cvWordOf gen armed action qheld count signed).getLsbD j = decide ((cvWordOf gen armed action qheld count signed).toNat / 2 ^ j % 2 = 1) := by
    rw [BitVec.getLsbD, Nat.testBit_eq_decide_div_mod_eq]
  refine ⟨?_, ?_, ?_, ?_, ?_, ?_⟩
  · rw [hbit, hn, show (bit gen * 2 ^ 31 + bit armed * 2 ^ 30 + action * 2 ^ 28 + qheld * 2 ^ 24 + count * 2 ^ 11 + signed) / 2 ^ 31 % 2 = bit gen by omega]
    cases gen <;> rfl
  · rw [hbit, hn, show (bit gen * 2 ^ 31 + bit armed * 2 ^ 30 + action * 2 ^ 28 + qheld * 2 ^ 24 + count * 2 ^ 11 + signed) / 2 ^ 30 % 2 = bit armed by omega]
    cases armed <;> rfl
  all_goals
    rw [hn]
    unfold fld
    omega

theorem fld_lt (w lo n : Nat) : fld w lo n < 2 ^ n := Nat.mod_lt _ (Nat.two_pow_pos n)

/-- A word's fields are those that the readers of the model give. -/
theorem cvWord_fields {w : Word} {g a : Bool} {act q c n : Nat} (h : CvWord w g a act q c n) :
    cvGen w = g ∧ cvArmed w = a ∧ cvAction w = act ∧ cvQheld w = q ∧ cvCount w = c ∧ cvSigned w = n := h

theorem cvWord_bounds {w : Word} {g a : Bool} {act q c n : Nat} (h : CvWord w g a act q c n) : act < 4 ∧ q < 16 ∧ c < 2048 := by
  obtain ⟨-, -, rfl, rfl, rfl, -⟩ := h
  exact ⟨fld_lt _ _ _, fld_lt _ _ _, fld_lt _ _ _⟩

/-! ### CVDECL (R84) -/

/-- A declaration that R84 admits: of 1 to 1,024 signatures, for SIGNAL, or of 128 for MXA. -/
theorem cvdecl_good_iff (t : Fin 4) (k : BitVec 11) :
    (k.toNat == 0 || decide (1024 < k.toNat) || decide (2 ≤ t.val) || (t.val == 1 && k.toNat != 128)) = false ↔
      k ≠ 0 ∧ k.toNat ≤ 1024 ∧ (t = 0 ∨ (t = 1 ∧ k = 128)) := by
  have hk0 : k = 0 ↔ k.toNat = 0 := by rw [← BitVec.toNat_inj]; rfl
  have hk128 : k = 128 ↔ k.toNat = 128 := by rw [← BitVec.toNat_inj]; rfl
  simp only [Bool.or_eq_false_iff, beq_eq_false_iff_ne, decide_eq_false_iff_not, Bool.and_eq_false_iff, bne_eq_false_iff_eq, ne_eq, hk0, hk128, Fin.ext_iff]
  change _ ↔ _ ∧ _ ∧ (t.val = 0 ∨ t.val = 1 ∧ _)
  omega

section
variable {s : State} {v : Fin 16} {t : Fin 4} {k : BitVec 11} {l : Lane}

/-- A declaration that is not admitted, or that disagrees with the register, is CVSTATE in every lane. -/
def State.cvStateAll (s : State) (v : Nat) : State := eachActive s fun s l => s.raise l (l.causeHere 0x08 v 0)

theorem exec_cvdecl (hlegal : Legal s (.cvdecl v t k)) (hlead : s.lead = some l) :
    exec (.cvdecl v t k) s = .next
      (if k ≠ 0 ∧ k.toNat ≤ 1024 ∧ (t = 0 ∨ (t = 1 ∧ k = 128)) then
        if cvArmed (s.cvAt l v.val).word = false then
          mapActive (s.setCv l v.val { s.cvAt l v.val with word := cvWordOf (cvGen (s.cvAt l v.val).word) true t.val 0 k.toNat 0, held := [], form := none })
            fun l => l.adv 4
        else if cvSigned (s.cvAt l v.val).word = 0 ∧ cvCount (s.cvAt l v.val).word = k.toNat ∧ cvAction (s.cvAt l v.val).word = t.val then
          mapActive s fun l => l.adv 4
        else s.cvStateAll v.val
      else s.cvStateAll v.val) := by
  obtain ⟨l', h1, h2⟩ := hlegal
  change execCvdecl v t k s = _
  rw [execCvdecl, guarded_next h1 h2]
  dsimp only
  rw [hlead]
  dsimp only
  congr 1
  by_cases hgood : k ≠ 0 ∧ k.toNat ≤ 1024 ∧ (t = 0 ∨ (t = 1 ∧ k = 128))
  · rw [if_pos hgood, (cvdecl_good_iff t k).mpr hgood]
    simp only [Bool.false_eq_true, if_false, Bool.not_eq_true']
    rfl
  · rw [if_neg hgood, Bool.eq_true_of_not_eq_false fun h => hgood ((cvdecl_good_iff t k).mp h), if_pos rfl]
    rfl

end

/-! ### CVSIGN (R85, R86, R379) -/

/-- What CVSIGN and CVSIGN.w do in a lane. -/
def signAct (v : Fin 16) (waits : Bool) (s : State) (l : Lane) : State :=
  let w := (s.cvAt l v.val).word
  if !cvArmed w || cvAction w != 0 then s.raise l (l.cvTrap v.val)
  else (s.setLane (if waits && !decide (cvSigned w + 1 = cvCount w) then (l.adv 4).parked (.conv v.val) else l.adv 4)).signal l v.val w waits

theorem State.exists_activeAt_of_lead {s : State} {l : Lane} (h : s.lead = some l) : ∃ n < 32, s.activeAt n = some l := by
  obtain ⟨n, hn, hl⟩ := List.exists_of_findSome?_eq_some h
  exact ⟨n, List.mem_range.mp hn, hl⟩

/-- The lane that leads a bundle is one of its active lanes. -/
theorem State.mem_actives_of_lead {s : State} {l : Lane} (h : s.lead = some l) : l ∈ s.actives := by
  obtain ⟨n, hn, hl⟩ := State.exists_activeAt_of_lead h
  exact List.mem_filterMap.mpr ⟨n, List.mem_range.mpr hn, hl⟩

/-- An act that leaves every active lane alone. -/
theorem mapActive_of_unchanged {s : State} {f : Lane → Lane} (h : Actives s fun l => f l = l) : mapActive s f = s := by
  have hl : (s.lanes.map fun l => if l.issuing then f l else l) = s.lanes := by
    rw [List.map_congr_left (g := id) fun l hl => ?_, List.map_id]
    split
    · next hi => exact h l hl hi
    · rfl
  rw [mapActive, hl]

/-- Where the accesses of the active lanes have been performed, a release does not wait. -/
theorem releaseFirst_of_performed {s : State} {l : Lane} (h : Performed s) (hlead : s.lead = some l) (k : State → State) : releaseFirst s k = k s := by
  have hs : (mapActive s fun l => if s.outstanding l then l.hold (l.deferred.any Deferred.faulted) else l) = s :=
    mapActive_of_unchanged fun m hm hi => if_neg (by rw [h m hm hi]; exact Bool.false_ne_true)
  have hne : s.actives.isEmpty = false := List.isEmpty_eq_false_iff_exists_mem.mpr ⟨l, State.mem_actives_of_lead hlead⟩
  rw [releaseFirst, hs, if_neg (by rw [hne]; exact Bool.false_ne_true)]

theorem exec_cvsign {s : State} {v : Fin 16} {waits : Bool} (hlegal : Legal s (if waits then .cvsignW v else .cvsign v)) (h : Performed s) :
    exec (if waits then .cvsignW v else .cvsign v) s = .next (eachActive s (signAct v waits)) := by
  obtain ⟨l, h1, h2⟩ := hlegal
  have hsign : signWord (if waits then .cvsignW v else .cvsign v) s v waits = .next (eachActive s (signAct v waits)) := by
    rw [signWord, guarded_next h1 h2, releaseFirst_of_performed h h1]
    rfl
  cases waits
  · exact hsign
  · exact hsign

theorem cvAt_setLane (s : State) (m l : Lane) (v : Nat) : (s.setLane m).cvAt l v = s.cvAt l v := rfl

section
variable {s : State} {l : Lane} {v : Fin 16} {g a : Bool} {act q c n : Nat} (waits : Bool)

theorem signAct_unarmed (hw : CvWord (s.cvAt l v.val).word g a act q c n) (h : a = false ∨ act ≠ 0) :
    signAct v waits s l = s.raise l (l.causeHere 0x08 v.val 0) := by
  obtain ⟨-, harmed, haction, -, -, -⟩ := cvWord_fields hw
  unfold signAct
  dsimp only
  rw [harmed, haction, if_pos (by simpa using h)]
  rfl

theorem signAct_more (hw : CvWord (s.cvAt l v.val).word g true 0 q c n) (hn : n + 1 < c) :
    ∃ w', CvWord w' g true 0 q c (n + 1) ∧ signAct v waits s l =
      (s.setLane (if waits then { l.adv 4 with park := .conv v.val, bundle := none, issuing := false } else l.adv 4)).setCv l v.val
        { s.cvAt l v.val with word := w' } := by
  obtain ⟨hgen, harmed, haction, hheld, hcount, hsigned⟩ := cvWord_fields hw
  obtain ⟨-, hq, hc⟩ := cvWord_bounds hw
  refine ⟨cvWordOf g true 0 q c (n + 1), cvWord_cvWordOf g true (by decide) hq hc (by omega), ?_⟩
  unfold signAct State.signal cvSign
  simp only [cvAt_setLane, hgen, harmed, haction, hheld, hcount, hsigned, if_neg (show n + 1 ≠ c by omega), decide_eq_false (show n + 1 ≠ c by omega),
    Bool.not_true, Bool.not_false, Bool.and_true, bne_self_eq_false, Bool.or_self, Bool.false_eq_true, if_false]
  rfl

/-- The last signature fires the register (R85). -/
theorem signAct_last (hw : CvWord (s.cvAt l v.val).word g true 0 q c n) (hn : n + 1 = c) :
    ∃ w', CvWord w' (!g) false 0 0 c 0 ∧ signAct v waits s l =
      (((s.setLane (l.adv 4)).setCv l v.val { s.cvAt l v.val with word := w', held := [], form := none }).together fun m =>
          (m.id.tid == l.id.tid && m.park == .conv v.val) || (waits && m.id == l.id)).release fun m =>
        m.id.tid == l.id.tid && m.park == .conv v.val := by
  obtain ⟨hgen, harmed, haction, -, hcount, hsigned⟩ := cvWord_fields hw
  obtain ⟨-, -, hc⟩ := cvWord_bounds hw
  refine ⟨cvWordOf (!g) false 0 0 c 0, cvWord_cvWordOf (!g) false (by decide) (by decide) hc (by decide), ?_⟩
  unfold signAct State.signal cvFired
  simp only [cvAt_setLane, hgen, harmed, haction, hcount, hsigned, if_pos hn, decide_eq_true hn, Bool.not_true, Bool.and_false, bne_self_eq_false,
    Bool.or_self, Bool.false_eq_true, if_false]
  rfl

end

/-- Lanes that go on together differ from before in the record of their paths alone. -/
theorem lanesAre_together (s : State) (f : Lane → Bool) : LanesAre (s.together f) s.lanes := by
  unfold LanesAre State.together
  rw [List.map_map]
  refine List.map_congr_left fun l _ => ?_
  rw [Function.comp_apply]
  split <;> rfl

/-! ### MXA (R87, R456) -/

/-- What MXA does in a lane. -/
def mxaAct (v : Fin 16) (a b : VReg) (f : Fin 8) (t : Fin 4) (s : State) (x : Lane) : State :=
  let r := s.cvAt x v.val
  if !cvArmed r.word || cvAction r.word != 1 || (r.form.isSome && r.form != some (t.val, f.val)) then s.raise x (x.cvTrap v.val)
  else if mxaWaits r x then s.setLane (x.parkAgain (.mxaWait v.val))
  else (s.setLane (x.adv 4)).mxaSign x v.val t f (mxaOperand (s.laneSlot x f) x a b)

theorem exec_mxa {s : State} {v : Fin 16} {a b : VReg} {f : Fin 8} {t : Fin 4} (h : Legal s (.mxa v a b f t)) :
    exec (.mxa v a b f t) s = .next (eachActive s (mxaAct v a b f t)) := by
  obtain ⟨l, h1, h2⟩ := h
  change execMxa v a b f t s = _
  rw [execMxa, guarded_next h1 h2]
  rfl

theorem mxaWaits_iff (x : CvReg) (l : Lane) : mxaWaits x l = true ↔ (cvQheld x.word).testBit l.core = true ∨
    ∃ e, x.held.find? (fun e => e.1 == l.core) = some e ∧ (e.2.1 ≠ l.id.grp ∨ ∃ o ∈ e.2.2, o.slot = l.id.slot) := by
  unfold mxaWaits
  rw [Bool.or_eq_true]
  refine or_congr Iff.rfl ?_
  cases x.held.find? fun e => e.1 == l.core <;> simp

/-- The first disagreement that MXA meets is CVSTATE (log entry 35). -/
theorem mxaAct_disagrees {s : State} {v : Fin 16} {l : Lane} {t : Fin 4} {f : Fin 8} (a b : VReg)
    (h : cvArmed (s.cvAt l v.val).word = false ∨ cvAction (s.cvAt l v.val).word ≠ 1 ∨ ∃ y, (s.cvAt l v.val).form = some y ∧ y ≠ (t.val, f.val)) :
    mxaAct v a b f t s l = s.raise l (l.causeHere 0x08 v.val 0) := by
  unfold mxaAct
  dsimp only
  rw [if_pos]
  · rfl
  · obtain h | h | ⟨y, hy, hne⟩ := h
    · simp [h]
    · simp [h]
    · simp [hy, hne]

theorem mxaAct_agrees {s : State} {v : Fin 16} {l : Lane} {t : Fin 4} {f : Fin 8} (a b : VReg) (harmed : cvArmed (s.cvAt l v.val).word = true)
    (haction : cvAction (s.cvAt l v.val).word = 1) (hform : (s.cvAt l v.val).form = none ∨ (s.cvAt l v.val).form = some (t.val, f.val)) :
    mxaAct v a b f t s l = if mxaWaits (s.cvAt l v.val) l then s.setLane (l.parkAgain (.mxaWait v.val))
      else (s.setLane (l.adv 4)).mxaSign l v.val t f (mxaOperand (s.laneSlot l f) l a b) := by
  unfold mxaAct
  dsimp only
  rw [if_neg]
  obtain h | h := hform <;> simp [harmed, haction, h]

end Sys2Proof.Machine

section
open Sys2Proof Sys2Proof.Machine Sys2Proof.Claims

/-- CVDECL and CVSIGN: each case of the register's state word. -/
theorem Sys2Proof.Claims.convergenceSignatures : Claims.ConvergenceSignatures := by
  refine ⟨fun v t k s l hlegal hlead => ?decl, fun v waits => ⟨signAct v waits, fun s => exec_cvsign, fun s l => ?sign⟩,
    fun s f => ⟨lanesAre_together s f, rfl⟩⟩
  case decl =>
    rw [exec_cvdecl hlegal hlead]
    refine ⟨fun hgood hun => ?fresh, fun g q hgood hw => ?again, fun g a q c n h => ?bad⟩
    case fresh =>
      have hk : k.toNat ≤ 1024 := hgood.2.1
      refine ⟨_, cvWord_cvWordOf (cvGen (s.cvAt l v.val).word) true t.isLt (by decide) (by omega) (by decide), ?_⟩
      rw [if_pos hgood, cvArmed, if_pos hun]
    case again =>
      obtain ⟨-, harmed, haction, -, hcount, hsigned⟩ := cvWord_fields hw
      rw [if_pos hgood, harmed, if_neg (by decide), if_pos ⟨hsigned, hcount, haction⟩]
    case bad =>
      obtain hbad | ⟨hw, hne⟩ := h
      · rw [if_neg hbad]
        rfl
      · obtain ⟨-, harmed, haction, -, hcount, hsigned⟩ := cvWord_fields hw
        rw [harmed, hsigned, hcount, haction, if_neg (show ¬ (true = false) by decide), if_neg (show ¬ (n = 0 ∧ c = k.toNat ∧ a = t.val) by tauto), ite_self]
        rfl
  case sign =>
    intro g a act q c n hw
    refine ⟨signAct_unarmed waits hw, ?_, ?_⟩
    · rintro rfl rfl
      exact signAct_more waits hw
    · rintro rfl rfl
      exact signAct_last waits hw

/-- The words that reach the matrix engine. -/
theorem Sys2Proof.Claims.matrixWords : Claims.MatrixWords := by
  refine ⟨fun v a b f t => ⟨mxaAct v a b f t, fun s => exec_mxa, fun s l => ?mxa⟩, fun s a f t => ⟨?mxz, ?mxrd, fun i fill hi hlegal => ?tile⟩⟩
  case mxa =>
    refine ⟨mxaAct_disagrees a b, fun harmed haction hform => ⟨fun hwait => ?wait, fun hbit hheld => ?sign⟩⟩
    case wait =>
      rw [mxaAct_agrees a b harmed haction hform, if_pos ((mxaWaits_iff _ _).mpr hwait)]
      rfl
    case sign =>
      have hgo : ¬ mxaWaits (s.cvAt l v.val) l = true := by
        rw [mxaWaits_iff]
        rintro (h | ⟨e, he, h⟩)
        · rw [hbit] at h
          cases h
        · obtain ⟨hgrp, hslot⟩ := hheld e (List.mem_of_find?_eq_some he) (by simpa using List.find?_some he)
          obtain h | ⟨o, ho, h⟩ := h
          · exact h hgrp
          · exact hslot o ho h
      rw [mxaAct_agrees a b harmed haction hform, if_neg hgo]
      exact ⟨fun hmore => if_neg hmore, fun hlast => if_pos hlast⟩
  case mxz =>
    rintro ⟨l, h1, h2⟩
    change execMxz f t s = _
    rw [execMxz, guarded_next h1 h2]
  case mxrd =>
    rintro ⟨l, h1, h2⟩
    change execMxrd a f t s = _
    rw [execMxrd, guarded_next h1 h2]
  case tile =>
    have hexec : exec i s = tileWord i s a f t fill := by
      obtain ⟨rfl, rfl⟩ | ⟨rfl, rfl⟩ := hi <;> rfl
    obtain ⟨l, h1, h2⟩ := hlegal
    rw [hexec, tileWord, guarded_next h1 h2]
    rfl

/-- Settles O28: each word is what the register's state word and its held operands make of it. -/
theorem convergenceAndMatrixWords : Obligations.ConvergenceAndMatrixWords := ⟨Claims.convergenceSignatures, Claims.matrixWords⟩

end

/-! ## The formation and the choice of bundles -/

namespace Sys2Proof.Machine
open Sys2Proof Sys2Proof.Claims

/-! ### Formation (R71, R483) -/

/-- Two lanes may be in one bundle. -/
def Lane.Bundles (l m : Lane) : Prop :=
  l.id.tid = m.id.tid ∧ l.role = m.role ∧ l.pc = m.pc ∧ l.obj = m.obj ∧ l.id.slot ≠ m.id.slot

theorem Lane.Bundles.symm {l m : Lane} (h : l.Bundles m) : m.Bundles l := by
  obtain ⟨htid, hrole, hpc, hobj, hslot⟩ := h
  exact ⟨htid.symm, hrole.symm, hpc.symm, hobj.symm, hslot.symm⟩

/-- A lane that agrees with the first lane of a bundle, and has a slot of its own, bundles with all of them. -/
theorem bundles_of_head {a l m : Lane} {r : List Lane} (hb : (a :: r).Pairwise Lane.Bundles) (htid : a.id.tid = l.id.tid) (hrole : a.role = l.role)
    (hpc : a.pc = l.pc) (hobj : a.obj = l.obj) (hslot : ∀ m ∈ a :: r, m.id.slot ≠ l.id.slot) (hm : m ∈ a :: r) : m.Bundles l := by
  obtain rfl | hr := List.mem_cons.mp hm
  · exact ⟨htid, hrole, hpc, hobj, hslot m hm⟩
  · obtain ⟨h1, h2, h3, h4, -⟩ := (List.pairwise_cons.mp hb).1 m hr
    exact ⟨h1.symm.trans htid, h2.symm.trans hrole, h3.symm.trans hpc, h4.symm.trans hobj, hslot m hm⟩

/-- The bundles so far: what each holds may be together, and all that they hold is ls. -/
def Gathers (acc : List (Bool × List Lane)) (ls : List Lane) : Prop :=
  (∀ b ∈ acc, b.2.Pairwise Lane.Bundles) ∧ ∀ m, (∃ b ∈ acc, m ∈ b.2) ↔ m ∈ ls

/-- Placing a lane: it joins the first bundle that it fits, or forms one alone. -/
theorem gathers_placeLane_go {xl : Bool × Lane} {l : Lane} (hl : xl.2 = l) {fits : Bool × List Lane → Bool}
    (hfits : ∀ b : Bool × List Lane, fits b = true → b.2.Pairwise Lane.Bundles → ∀ m ∈ b.2, m.Bundles l) {acc : List (Bool × List Lane)} {ls : List Lane}
    (h : Gathers acc ls) : Gathers (placeLane.go xl l fits acc) (l :: ls) := by
  induction acc generalizing ls with
  | nil =>
    obtain ⟨-, hmem⟩ := h
    refine ⟨by simp [placeLane.go], fun m => ?_⟩
    have hno : m ∉ ls := fun hm => by simpa using (hmem m).mpr hm
    simp [placeLane.go, hno]
  | cons b acc ih =>
    obtain ⟨hpair, hmem⟩ := h
    have hb : b.2.Pairwise Lane.Bundles := hpair b List.mem_cons_self
    rw [placeLane.go]
    split
    · next hfit =>
      refine ⟨fun c hc => ?_, fun m => ?_⟩
      · obtain rfl | hc := List.mem_cons.mp hc
        · exact List.pairwise_append.mpr ⟨hb, List.pairwise_singleton _ _, fun m hm n hn => by
            obtain rfl := List.mem_singleton.mp hn
            exact hfits b hfit hb m hm⟩
        · exact hpair c (List.mem_cons_of_mem _ hc)
      · rw [List.mem_cons, ← hmem m]
        simp only [List.mem_cons, exists_eq_or_imp, List.mem_append, List.not_mem_nil, or_false]
        tauto
    · have hrest : Gathers acc (ls.filter fun m => decide (∃ c ∈ acc, m ∈ c.2)) := by
        refine ⟨fun c hc => hpair c (List.mem_cons_of_mem _ hc), fun m => ?_⟩
        rw [List.mem_filter, ← hmem m]
        simp only [List.mem_cons, exists_eq_or_imp, decide_eq_true_eq]
        tauto
      obtain ⟨hpair', hmem'⟩ := ih hrest
      refine ⟨fun c hc => ?_, fun m => ?_⟩
      · obtain rfl | hc := List.mem_cons.mp hc
        · exact hb
        · exact hpair' c hc
      · have hsplit := hmem m
        simp only [List.mem_cons, exists_eq_or_imp, hmem', List.mem_filter, decide_eq_true_eq] at hsplit ⊢
        tauto

theorem gathers_placeLane {acc : List (Bool × List Lane)} {ls : List Lane} (xl : Bool × Lane) (h : Gathers acc ls) :
    Gathers (placeLane acc xl) (xl.2 :: ls) := by
  refine gathers_placeLane_go rfl (fun b hfit hpair m hm => ?_) h
  obtain ⟨x, b⟩ := b
  cases b with
  | nil => cases hfit
  | cons a r =>
    simp only [Bool.and_eq_true, beq_iff_eq, Bool.not_eq_true', List.any_eq_false] at hfit
    obtain ⟨⟨⟨⟨⟨htid, hrole⟩, hpc⟩, hobj⟩, -⟩, hslot⟩ := hfit
    exact bundles_of_head hpair htid hrole hpc hobj hslot hm

theorem gathers_foldl (xs : List (Bool × Lane)) {acc : List (Bool × List Lane)} {ls : List Lane} (h : Gathers acc ls) :
    Gathers (xs.foldl placeLane acc) ((xs.map (·.2)).reverse ++ ls) := by
  induction xs generalizing acc ls with
  | nil => exact h
  | cons x xs ih => simpa using ih (gathers_placeLane x h)

/-- The bundles of a quarter hold its ready lanes, those of one bundle fit to be together. -/
theorem State.bundles_spec (s : State) (q : Nat) : (∀ b ∈ s.bundles q, b.Pairwise Lane.Bundles) ∧
    ∀ m, (∃ b ∈ s.bundles q, m ∈ b) ↔ m ∈ s.lanes ∧ m.quarter = q ∧ s.ready m = true := by
  obtain ⟨hpair, hmem⟩ := gathers_foldl ((s.lanes.filter fun l => l.quarter == q && s.ready l).map fun l => (s.nextExchange l, l))
    (acc := []) (ls := []) ⟨by simp, by simp⟩
  unfold State.bundles
  refine ⟨fun b hb => ?_, fun m => ?_⟩
  · obtain ⟨c, hc, rfl⟩ := List.mem_map.mp hb
    exact hpair c hc
  have h := hmem m
  simp only [List.map_map, List.append_nil, List.mem_reverse, List.mem_map, List.mem_filter, Bool.and_eq_true, beq_iff_eq, Function.comp_apply, exists_eq_right] at h
  simpa only [List.mem_map (f := fun b : Bool × List Lane => b.2), exists_exists_and_eq_and] using h

/-- The number of the bundle, among those of a quarter, that holds a lane. -/
def State.bundleNum (s : State) (q : Nat) (l : Lane) : Option Nat :=
  (((s.bundles q).mapIdx fun i b => (i, b.map (·.id))).find? fun e => e.2.contains l.id).map (·.1)

theorem State.bundleNum_some {s : State} {q i : Nat} {l : Lane} (h : s.bundleNum q l = some i) : ∃ b, (s.bundles q)[i]? = some b ∧ ∃ m ∈ b, m.id = l.id := by
  obtain ⟨e, he, rfl⟩ := Option.map_eq_some_iff.mp h
  obtain ⟨j, hj, rfl⟩ := List.mem_mapIdx.mp (List.mem_of_find?_eq_some he)
  have hin := List.find?_some he
  simp only [List.contains_eq_mem, decide_eq_true_eq, List.mem_map] at hin
  exact ⟨_, List.getElem?_eq_getElem hj, hin⟩

theorem State.bundleNum_isSome {s : State} {q : Nat} {l : Lane} {b : List Lane} (hb : b ∈ s.bundles q) (hl : l ∈ b) : (s.bundleNum q l).isSome = true := by
  obtain ⟨i, hi, rfl⟩ := List.mem_iff_getElem.mp hb
  unfold State.bundleNum
  rw [Option.isSome_map, List.find?_isSome]
  exact ⟨_, List.mem_mapIdx.mpr ⟨i, hi, rfl⟩, by simpa using ⟨l, hl, rfl⟩⟩

/-- Lanes of different numbers: one listed under an id. -/
theorem eq_of_id_eq {ls : List Lane} (h : (ls.map (·.id)).Nodup) {l m : Lane} (hl : l ∈ ls) (hm : m ∈ ls) (he : l.id = m.id) : l = m :=
  List.inj_on_of_nodup_map h hl hm he

/-- The lane that a bundle holds under a lane's id is that lane, and it is ready. -/
theorem State.bundleNum_holds {s : State} (hids : (s.lanes.map (·.id)).Nodup) {q i : Nat} {l : Lane} (hl : l ∈ s.lanes) (h : s.bundleNum q l = some i) :
    ∃ b, (s.bundles q)[i]? = some b ∧ l ∈ b ∧ s.ready l = true := by
  obtain ⟨b, hb, m, hm, hid⟩ := State.bundleNum_some h
  obtain ⟨hmem, -, hready⟩ := ((s.bundles_spec q).2 m).mp ⟨b, List.mem_of_getElem? hb, hm⟩
  obtain rfl := eq_of_id_eq hids hmem hl hid
  exact ⟨b, hb, hm, hready⟩

theorem State.bundleNum_isSome_iff {s : State} (hids : (s.lanes.map (·.id)).Nodup) {q : Nat} {l : Lane} (hl : l ∈ s.lanes) (hq : l.quarter = q) :
    (s.bundleNum q l).isSome = true ↔ s.ready l = true := by
  refine ⟨fun h => ?_, fun h => ?_⟩
  · obtain ⟨i, hi⟩ := Option.isSome_iff_exists.mp h
    obtain ⟨-, -, -, hready⟩ := State.bundleNum_holds hids hl hi
    exact hready
  · obtain ⟨b, hb, hlb⟩ := ((s.bundles_spec q).2 l).mpr ⟨hl, hq, h⟩
    exact State.bundleNum_isSome hb hlb

theorem State.bundleNum_eq {s : State} (hids : (s.lanes.map (·.id)).Nodup) {q : Nat} {l m : Lane} (hl : l ∈ s.lanes) (hm : m ∈ s.lanes)
    (heq : s.bundleNum q l = s.bundleNum q m) (hsome : s.bundleNum q l ≠ none) (hne : l.id ≠ m.id) : l.Bundles m := by
  obtain ⟨i, hi⟩ := Option.ne_none_iff_exists'.mp hsome
  obtain ⟨b, hb, hlb, -⟩ := State.bundleNum_holds hids hl hi
  obtain ⟨c, hc, hmc, -⟩ := State.bundleNum_holds hids hm (heq ▸ hi)
  obtain rfl := Option.some.inj (hb.symm.trans hc)
  have : Std.Symm Lane.Bundles := ⟨fun _ _ => Lane.Bundles.symm⟩
  exact ((s.bundles_spec q).1 b (List.mem_of_getElem? hb)).forall hlb hmc fun h => hne (congrArg Lane.id h)

/-! ### Choice (R75) -/

/-- Outside D-mode no group is yielded. -/
theorem State.unyield_of_no_dm {s : State} (h : ∀ l ∈ s.lanes, l.dm = false) (q : Nat) : s.unyield q = s := by
  have hnone : s.lanes.filter (fun l => l.quarter == q && l.dm && (s.runningGroup q l.part l.seq).isNone) = [] :=
    List.filter_eq_nil_iff.mpr fun l hl => by simp [h l hl]
  rw [State.unyield, hnone, List.foldl_nil]

@[simp] theorem State.countLane_turn (s : State) (l : Lane) (ev n : Nat) : (s.countLane l ev n).turn = s.turn := by
  unfold State.countLane State.count
  split <;> rfl
@[simp] theorem State.countLane_formed (s : State) (l : Lane) (ev n : Nat) : (s.countLane l ev n).formed = s.formed := by
  unfold State.countLane State.count
  split <;> rfl

/-- A bundle's issue begins: what its lanes are numbered, and what is formed, stays. -/
theorem State.begin_keeps (s : State) (b : List Lane) : (s.begin b).turn = s.turn ∧ (s.begin b).formed = s.formed ∧
    (s.begin b).lanes.map (·.bundle) = s.lanes.map (·.bundle) := by
  have hmap (c : Lane → Bool) : (s.lanes.map fun l => if c l then { l with issuing := true } else l).map (·.bundle) = s.lanes.map (·.bundle) := by
    rw [List.map_map]
    refine List.map_congr_left fun l _ => ?_
    rw [Function.comp_apply]
    split <;> rfl
  cases b with
  | nil => exact ⟨rfl, rfl, hmap _⟩
  | cons a r =>
    unfold State.begin
    dsimp only
    have hlanes (t : State) (ev n : Nat) : (t.countLane a ev n).lanes = t.lanes := (State.quiet_countLane t a ev n).1
    split
    · simp only [State.countLane_turn, State.countLane_formed, hlanes, hmap, and_self]
    · simp only [State.countLane_turn, State.countLane_formed, hlanes, hmap, and_self]

/-- The quarter that is next has its bundles formed where that is due, and the turn passes it. -/
theorem State.choose_some {s t : State} (h : s.choose = some t) : ∃ q, s.nextQuarter = some q ∧ t.turn = q + 1 ∧
    let u := if (s.unyield q).formDue q then (s.unyield q).form q else s.unyield q
    t.formed = u.formed ∧ t.lanes.map (·.bundle) = u.lanes.map (·.bundle) := by
  unfold State.choose at h
  split at h
  · cases h
  · next q hq =>
    refine ⟨q, hq, ?_⟩
    dsimp only at h
    split at h
    · obtain rfl := Option.some.inj h
      exact State.begin_keeps _ _
    · obtain rfl := Option.some.inj h
      exact ⟨rfl, rfl, rfl⟩

end Sys2Proof.Machine

section
open Sys2Proof Sys2Proof.Machine Sys2Proof.Claims

/-- Settles O40: the fold that places lanes keeps the lanes of each bundle fit to be together, and holds each ready lane. -/
theorem bundleFormation : Obligations.BundleFormation := by
  refine ⟨fun s q hbusy => ?busy, fun s q hidle => ⟨?idle, fun h => State.unyield_of_no_dm h q⟩, fun s t h => ?choice, fun s q hids => ?formed⟩
  case busy =>
    exact if_pos (by simpa using hbusy)
  case idle =>
    exact if_neg (by simpa using hidle)
  case choice =>
    obtain ⟨q, hq, hturn, hformed, hbundles⟩ := State.choose_some h
    refine ⟨q, hq, hturn, fun hdm => ?_⟩
    rw [State.unyield_of_no_dm hdm] at hformed hbundles
    refine ⟨fun hdue => ?_, fun hnot => ?_⟩
    · rw [hformed, if_pos (show s.formDue q = true from decide_eq_true hdue)]
      simp [State.form]
    · have hno : ¬ s.formDue q = true := by simpa [State.formDue] using hnot
      rw [if_neg hno] at hformed hbundles
      exact ⟨hformed, hbundles⟩
  case formed =>
    exact ⟨s.bundleNum q, rfl, fun l hl hq => State.bundleNum_isSome_iff hids hl hq,
      fun l hl m hm _ _ heq hsome hne => State.bundleNum_eq hids hl hm heq hsome hne⟩

end

/-! ## Placement and retirement of teams -/

namespace Sys2Proof.Machine
open Sys2Proof Sys2Proof.Claims

/-! ### Presence bits of an L1 (R118) -/

/-- The presence bits of core k are clear in a cluster's L1. -/
def State.L1Clear (s : State) (c k : Nat) : Prop := ∀ y ∈ (s.cluster c).l1, y.mask.getLsbD k = false

theorem State.l1Clear_clearL1 (s : State) (c : Nat) {k : Nat} (hk : k < 4) : (s.clearL1 c k).L1Clear c k := by
  unfold State.clearL1 State.L1Clear
  split
  · next h =>
    intro y hy
    rw [List.isEmpty_iff.mp h] at hy
    cases hy
  · intro y hy
    rw [modCluster_cluster, if_pos rfl] at hy
    obtain ⟨x, -, rfl⟩ := List.mem_map.mp hy
    simp [hk]

theorem State.L1Clear.clearL1 {s : State} {c j : Nat} (h : s.L1Clear c j) (k : Nat) : (s.clearL1 c k).L1Clear c j := by
  unfold State.clearL1
  split
  · exact h
  · intro y hy
    rw [modCluster_cluster, if_pos rfl] at hy
    obtain ⟨x, hx, rfl⟩ := List.mem_map.mp hy
    simp [h x hx]

/-- After the acquire of a team's first word no core of its cluster holds a line (R195). -/
theorem State.firstAcquire_l1 (s : State) (c : Nat) : ∀ y ∈ ((s.firstAcquire c).cluster c).l1, y.mask = 0 := by
  have h : ∀ k < 4, (s.firstAcquire c).L1Clear c k := by
    have hfold : s.firstAcquire c = (((s.clearL1 c 0).clearL1 c 1).clearL1 c 2).clearL1 c 3 := rfl
    rw [hfold]
    intro k hk
    interval_cases k
    · exact (((s.l1Clear_clearL1 c (by decide)).clearL1 1).clearL1 2).clearL1 3
    · exact ((State.l1Clear_clearL1 _ c (by decide)).clearL1 2).clearL1 3
    · exact (State.l1Clear_clearL1 _ c (by decide)).clearL1 3
    · exact State.l1Clear_clearL1 _ c (by decide)
  intro y hy
  exact BitVec.eq_of_getLsbD_eq fun k hk => (h k hk y hy).trans BitVec.getLsbD_zero.symm

theorem State.quiet_firstAcquire (s : State) (c : Nat) : s.Quiet (s.firstAcquire c) := State.quiet_foldl _ (fun s k => s.quiet_clearL1 c k) _ s

theorem State.team?_tid {s : State} {tid : Nat} {tm : Team} (h : s.team? tid = some tm) : tm.tid = tid := by simpa using List.find?_some h

/-- A team that is looked up after an update of it is an updated one. -/
theorem State.team?_modTeam {s : State} {tid : Nat} {f : Team → Team} {y : Team} (h : (s.modTeam tid f).team? tid = some y) :
    ∃ t ∈ s.teams, t.tid = tid ∧ y = f t := by
  have htid := State.team?_tid h
  obtain ⟨t, ht, rfl⟩ := List.mem_map.mp (List.mem_of_find?_eq_some h)
  by_cases he : t.tid = tid
  · exact ⟨t, ht, he, if_pos he⟩
  · rw [if_neg he] at htid
    exact absurd htid he

/-! ### The state a team's lanes start in (R63, R200) -/

section
variable (p : Nat) (L : Launch) (tid index c g k now : Nat)

theorem newLane_getP (q : PReg) : (newLane p L tid index c g k).getP q = (q.val == 0) := by
  change (q.val == 0 || BitVec.getLsbD 1 q.val) = _
  revert q
  decide

theorem newLane_getV (r : VReg) : (newLane p L tid index c g k).getV r = 0 := Vector.getElem_replicate ..

theorem newLane_getK (r : KReg) : (newLane p L tid index c g k).getK r = LA0 := Vector.getElem_replicate ..

end

theorem LA0_zero : LA0.val = 0 ∧ laStatus LA0 = 0x10 := ⟨rfl, rfl⟩

theorem newGroup_g (r grp : Nat) (i : Fin 16) : (newGroup r grp).g[i] = recGinit r i.val := Vector.getElem_ofFn ..

theorem replicate_bar (tm : Team) (h : tm.bars = List.replicate 4 bar0) {b : Nat} (hb : b < 4) : tm.bar b = { phase := 0, mask := 0 } := by
  rw [Team.bar, h, List.getElem?_replicate, if_pos hb]
  rfl

/-- The lanes of a new team, group by group. -/
theorem newLanes_length (p : Nat) (L : Launch) (tid index c now n : Nat) : ((List.range n).flatMap fun g =>
    (List.range 32).map fun k => { newLane p L tid index c g k with since := now }).length = 32 * n := by
  simp [List.length_flatMap, Nat.mul_comm]

end Sys2Proof.Machine

section
open Sys2Proof Sys2Proof.Machine Sys2Proof.Claims

/-- Settles O42: a placed team is the record that `placeTeam` writes, its first acquire clears each core's presence bits, and a team that retires is
filtered out with its lanes and pins. -/
theorem placement : Obligations.Placement := by
  refine ⟨fun s u p seq cs L hserve hfind hlen hpass => ?place, fun s p seq c L hL hrest => ?one, fun s p c L => ?team, fun s l tm htm => ?begins,
    fun s t ht hserve => ?retire, fun s t => ?free, fun s p L r hq => ?hold⟩
  case place =>
    have hexec : exec (.teamPlace p seq cs) s = .next ((s.placeAll p seq cs).getD s) := by
      change execTeamPlace p seq cs s = _
      simp only [execTeamPlace, hfind, hserve, hlen, hpass, beq_self_eq_true, Bool.and_self, if_true]
    rw [hexec]
    exact ⟨fun h => by rw [h]; rfl, fun h => by rw [h]; rfl⟩
  case one =>
    simp only [State.placeAll, hL, State.placeNext, hrest]
  case team =>
    refine ⟨rfl, rfl, ⟨_, s.placeTeam_lanes p L c, newLanes_length .., fun l hl => ?lane⟩, _, rfl, rfl, rfl, rfl, rfl, rfl, fun g hg => ?group, ?groups,
      fun b => replicate_bar _ rfl⟩
    case lane =>
      obtain ⟨g, hg, hl⟩ := List.mem_flatMap.mp hl
      obtain ⟨k, hk, rfl⟩ := List.mem_map.mp hl
      exact ⟨rfl, List.mem_range.mp hg, List.mem_range.mp hk, rfl, rfl, rfl, fun r => newLane_getV p L s.nextTid L.placed c g k r,
        fun q => newLane_getP p L s.nextTid L.placed c g k q,
        fun r => (newLane_getK p L s.nextTid L.placed c g k r).symm ▸ LA0_zero, rfl, rfl, rfl, rfl, rfl⟩
    case group =>
      obtain ⟨n, -, rfl⟩ := List.mem_map.mp hg
      exact ⟨rfl, rfl, fun i => newGroup_g _ n i⟩
    case groups =>
      simp
  case begins =>
    refine ⟨fun hbegun => ?_, fun hbegun => ?_⟩
    · simp only [State.beginTeam, htm, hbegun, if_true]
    · have hbegin : s.beginTeam l = (s.firstAcquire tm.cluster).modTeam l.id.tid fun t => { t with begun := true } := by
        simp only [State.beginTeam, htm, hbegun, Bool.false_eq_true, if_false, State.team?_tid htm]
      have hquiet := s.quiet_firstAcquire tm.cluster
      rw [hbegin]
      refine ⟨s.firstAcquire_l1 tm.cluster, hquiet.1, hquiet.2.2.1, fun y hy => ?_⟩
      obtain ⟨t, -, -, rfl⟩ := State.team?_modTeam hy
      rfl
  case retire =>
    have hexec : exec (.teamRetire t.tid) s =
        if s.serving t.part && t.groups.all (·.retired) && !s.teamBusy t then .next ((s.freeTeam t).lowerCounters t) else .next s := by
      change execTeamRetire t.tid s = _
      simp only [execTeamRetire, ht]
    rw [hexec, hserve]
    refine ⟨fun h => if_neg ?_, fun hall hbusy => if_pos ?_⟩
    · obtain h | h := h <;> simp [h]
    · simp [hall, hbusy]
  case free =>
    refine ⟨fun l hl => ?_, fun u hu => ?_, fun x hx => ?_, fun l hl hne => ?_⟩
    · simpa using (List.mem_filter.mp hl).2
    · simpa using (List.mem_filter.mp hu).2
    · simpa using (List.mem_filter.mp hx).2
    · exact List.mem_filter.mpr ⟨hl, by simpa using hne⟩
  case hold =>
    have hexec : exec (.placementHoldTimeout p) s =
        if s.fitsSome p L || decide (s.time - L.since < 1000000) then .next s else .next (s.modLaunch p L.seq fun M => { M with held := true }) := by
      change execPlacementHoldTimeout p s = _
      simp only [execPlacementHoldTimeout, hq]
    rw [hexec]
    refine ⟨fun hfit hwait => if_neg ?_, fun h => if_pos ?_⟩
    · simp [hfit, hwait]
    · simpa using h

end

/-! ## What a translation keeps -/

namespace Sys2Proof.Machine
open Sys2Proof

section
variable {s0 s : State}

theorem State.SameUnits.setHold {ln a x} (h : s0.SameUnits s) : s0.SameUnits (s.setHold ln a x) := h

theorem State.SameUnits.post {m} (h : s0.SameUnits s) : s0.SameUnits (s.post m) := h

theorem State.SameUnits.evictL2 {a ln p ctx} (h : s0.SameUnits s) : s0.SameUnits (s.evictL2 a ln p ctx) := by
  unfold State.evictL2
  dsimp only
  have hput : ∀ o : Option LA, s0.SameUnits (match o with
      | some x => (s.setHold ln a { s.hold ln a with partialLA := none }).post { msg0 .putp ln a home with la := some x }
      | none => (s.setHold ln a (s.hold ln a).spent).post
          { msg0 .put ln a home with tokens := (s.hold ln a).t, owner := (s.hold ln a).owner, data := (s.hold ln a).owner, dirty := (s.hold ln a).dirty }) := by
    rintro (_ | x)
    · exact h.setHold.post
    · exact h.setHold.post
  exact (hput _).count.ite (hput _).count

theorem State.SameUnits.l2Touch {a ln p ctx} (h : s0.SameUnits s) : s0.SameUnits (s.l2Touch a ln p ctx) := by
  unfold State.l2Touch
  split
  · exact h
  · dsimp only
    split
    · exact State.SameUnits.evictL2 (h.same rfl rfl)
    · exact h.same rfl rfl

theorem State.SameUnits.landTokens {ln} (h : s0.SameUnits s) : s0.SameUnits (s.landTokens ln) := by
  unfold State.landTokens
  dsimp only
  split
  · exact h
  · exact State.SameUnits.foldl (h.same rfl rfl) fun _ _ hu => hu.l2Touch

theorem State.SameUnits.homeObtain {ln p ctx} (h : s0.SameUnits s) : s0.SameUnits (s.homeObtain ln p ctx) :=
  h.l3Touch.ite (h.landTokens.l3Touch.ite h.landTokens.l3Touch.modLine)

theorem State.SameUnits.homeRead {a n} (h : s0.SameUnits s) : s0.SameUnits (s.homeRead a n).1 := by
  unfold State.homeRead
  split
  · exact h.snoopHost.ite h
  · exact h.foldl fun _ _ hu => hu.foldNow.homeObtain

theorem State.SameUnits.walkRead {w a} (h : s0.SameUnits s) : s0.SameUnits (s.walkRead w a).1 := by
  unfold State.walkRead
  split
  · exact h.homeRead
  · exact h
  · exact h.ite h.record

theorem State.SameUnits.fillTlb {e} (h : s0.SameUnits s) : s0.SameUnits (s.fillTlb e) := by
  unfold State.fillTlb
  dsimp only
  split
  · split
    · exact h.same rfl rfl
    · exact h.same rfl rfl
  · exact h.same rfl rfl

theorem State.SameUnits.cache {w level va bits pte ends} (h : s0.SameUnits s) : s0.SameUnits (s.cache w level va bits pte ends) :=
  State.SameUnits.foldl (h.same rfl rfl) fun _ _ hu => hu.fillTlb

theorem State.SameUnits.promote {w e} (h : s0.SameUnits s) : s0.SameUnits (s.promote w e) := h.foldl fun _ _ hu => hu.fillTlb

theorem State.SameUnits.tableRead {w fresh level a va} (h : s0.SameUnits s) : s0.SameUnits (s.tableRead w fresh level a va).1 := by
  unfold State.tableRead
  split
  · exact h
  · exact h.walkRead

theorem State.SameUnits.walkLevel {w fresh va level bits a ends leaf pointer next} (h : s0.SameUnits s)
    (hnext : ∀ u e t, s0.SameUnits u → s0.SameUnits (next u e t).1) :
    s0.SameUnits (s.walkLevel w fresh va level bits a ends leaf pointer next).1 := by
  have hr : s0.SameUnits (s.tableRead w fresh level a va).1 := h.tableRead
  unfold State.walkLevel
  dsimp only
  split
  · exact hr
  · split
    · exact hr
    · split
      · exact hr
      · split
        · exact hr
        · exact hnext _ _ _ hr.cache

theorem State.SameUnits.walkLast {w a bits ends} (h : s0.SameUnits s) : s0.SameUnits (s.walkLast w a bits ends).1 := by
  have hr : s0.SameUnits (s.walkRead w a).1 := h.walkRead
  unfold State.walkLast
  dsimp only
  split
  · exact hr
  · split
    · exact hr
    · split <;> exact hr

theorem State.SameUnits.walk {w fresh root va} (h : s0.SameUnits s) : s0.SameUnits (s.walk w fresh root va).1 := by
  unfold State.walk
  split
  · exact h
  · refine h.walkLevel fun _ _ _ h1 => h1.walkLevel fun _ _ _ h2 => h2.walkLevel fun _ _ _ h3 => ?_
    split
    · exact h3.walkLast
    · exact h3.walkLast

/-- The walk is made a variable first: the kernel would evaluate it when it meets the definition's match. -/
theorem State.SameUnits.walkAndCheck {w va u block fresh} (h : s0.SameUnits s) : s0.SameUnits (s.walkAndCheck w va u block fresh).1 := by
  obtain ⟨walk, ewalk, hw⟩ : ∃ f, f = @State.walk ∧ s0.SameUnits (f s w fresh (ctxRoot block) va).1 := ⟨_, rfl, h.walk⟩
  have e := @rfl _ @State.walkAndCheck
  conv at e => rhs; delta State.walkAndCheck
  rw [e, ← ewalk]
  dsimp only
  split
  · exact hw
  · exact hw
  · exact hw.ite hw.cache

/-- A translation changes no lane and no cluster. -/
theorem State.SameUnits.translate {w va use} (h : s0.SameUnits s) : s0.SameUnits (s.translate w va use).1 := by
  unfold State.translate
  dsimp only
  split
  · exact h
  · split
    · split
      · exact h
      · split <;> exact h
    · split
      · exact h
      · split
        · split
          · exact h.promote
          · exact h.walkAndCheck
        · exact h.walkAndCheck

theorem State.sameUnits_of_translate {u : State} {w : Who} {va : Nat} {use : Use} {r : Trans} (h : s.translate w va use = (u, r)) : s.SameUnits u := by
  have hu : s.SameUnits (s.translate w va use).1 := State.SameUnits.refl.translate
  rwa [h] at hu

end

end Sys2Proof.Machine

/-! ## Numbers in parts of byte strings -/

namespace Sys2Proof.Machine
open Sys2Proof Sys2Proof.Claims

theorem leNat_append (a b : List Byte) : leNat (a ++ b) = leNat a + 256 ^ a.length * leNat b := by
  induction a with
  | nil => simp [leNat]
  | cons x a ih =>
    simp only [List.cons_append, leNat, ih, List.length_cons, Nat.pow_succ]
    ring

theorem leNat_lt (bs : List Byte) : leNat bs < 256 ^ bs.length := by
  induction bs with
  | nil => simp [leNat]
  | cons b r ih =>
    have hb : b.toNat < 256 := b.isLt
    simp only [leNat, List.length_cons, Nat.pow_succ]
    omega

theorem leNat_take (bs : List Byte) (n : Nat) : leNat (bs.take n) = leNat bs % 256 ^ n := by
  rcases Nat.le_total n bs.length with hn | hn
  · have happ := leNat_append (bs.take n) (bs.drop n)
    have hlt := leNat_lt (bs.take n)
    rw [List.take_append_drop] at happ
    rw [List.length_take, Nat.min_eq_left hn] at happ hlt
    rw [happ, Nat.add_mul_mod_self_left, Nat.mod_eq_of_lt hlt]
  · rw [List.take_of_length_le hn, Nat.mod_eq_of_lt]
    exact (leNat_lt bs).trans_le (Nat.pow_le_pow_right (by norm_num) hn)

theorem leNat_drop (bs : List Byte) (n : Nat) : leNat (bs.drop n) = leNat bs / 256 ^ n := by
  rcases Nat.le_total n bs.length with hn | hn
  · have happ := leNat_append (bs.take n) (bs.drop n)
    have hlt := leNat_lt (bs.take n)
    rw [List.take_append_drop] at happ
    rw [List.length_take, Nat.min_eq_left hn] at happ hlt
    rw [happ, Nat.add_mul_div_left _ _ (by positivity), Nat.div_eq_of_lt hlt, Nat.zero_add]
  · rw [List.drop_of_length_le hn, Nat.div_eq_of_lt]
    · rfl
    · exact (leNat_lt bs).trans_le (Nat.pow_le_pow_right (by norm_num) hn)

theorem leNat_zeros (n : Nat) : leNat (zeros n) = 0 := by
  induction n with
  | zero => rfl
  | succ n ih => simpa [zeros, List.replicate_succ, leNat] using ih

/-- Part of a read is a read of that part. -/
theorem readBytes_drop_take (m : Memory) (a k n w : Nat) (h : k + n ≤ w) : ((readBytes m a w).drop k).take n = readBytes m (a + k) n := by
  apply List.ext_getElem?
  intro j
  rw [List.getElem?_take, List.getElem?_drop]
  split
  · next hj => rw [readBytes_getElem? _ _ _ _ hj, readBytes_getElem? _ _ _ _ (by omega), Nat.add_assoc]
  · rw [List.getElem?_eq_none (by rw [readBytes_length]; omega)]

/-- The number that a read at a place returns. -/
theorem leNat_seenAt (s : State) (x : Phys) (n : Nat) : leNat (s.seenAt x n) = shown s x n := by
  unfold State.seenAt shown
  split
  · have hlt : laImage (s.lineLa (x.addr / 128)) < 256 ^ 96 :=
      lt_of_lt_of_eq (laImage_fields _).1 (by rw [show (256 : Nat) = 2 ^ 8 from rfl, ← Nat.pow_mul])
    rw [leNat_take, leNat_drop, leNat_append, leNat_zeros, leNat_leBytes, Nat.mod_eq_of_lt hlt, Nat.mul_zero, Nat.add_zero]
  · rfl

/-! ## An access that reaches its place -/

/-- Nothing keeps an access from the place that `ReachesAt` describes. -/
theorem State.reachBut_of_reachesAt {s u : State} {v : Via} {va n : Nat} {use : Use} {x : Phys} {bars : Phys → Bool}
    (h : ReachesAt s u v.who v.agent va n use x) (hb : bars x = false) : s.reachBut v va n use bars = (u, .at x) := by
  obtain ⟨htr, hhost, hin, -, hcode, hres, hown, howner, hbusy, haway, -, -⟩ := h
  have hkey : x.codeKey = x.addr / 65536 := by simp [Phys.codeKey, hhost, hin]
  have hcode' : u.codeAt v.who.part x.codeKey = none := by rw [hkey]; exact hcode
  have hpeer : inPeer x.addr = false := by
    simp only [inHbm, decide_eq_true_eq] at hin
    simp only [inPeer, Bool.and_eq_false_iff, decide_eq_false_iff_not]
    exact .inl (by omega)
  have hperf : u.ownCheck v.who.part x.addr (use == .write) = .performed := by simp [State.ownCheck, hres, hown, howner]
  have hfront : (if use = .write then u.passFront x.addr else u) = u := by simp [State.passFront, hown]
  have hdev : ¬ (x.attr = .device ∧ (if use = .write then u.homeBusy (x.addr / 128) else u.away (x.addr / 128)) = true) :=
    fun ⟨h1, h2⟩ => by simp [haway h1] at h2
  have hgath : (x.attr ≠ .device && u.lineBusy (x.addr / 128) v.agent (use == .write)) = false := by
    by_cases hd : x.attr = .device
    · simp [hd]
    · simp [hbusy hd]
  unfold State.reachBut
  simp only [htr, hb, hcode', hpeer, inCap_of_inHbm hin, hperf, hfront, hgath, hdev, Bool.false_eq_true, if_false]

theorem State.reach_of_reachesAt {s u : State} {v : Via} {va n : Nat} {use : Use} {x : Phys} (h : ReachesAt s u v.who v.agent va n use x) :
    s.reach v va n use = (u, .at x) := State.reachBut_of_reachesAt h rfl

theorem State.reachBut_fault {s u : State} {v : Via} {va n : Nat} {use : Use} {f : PageFault} {bars : Phys → Bool}
    (h : s.translate v.who va use = (u, .fault f)) : s.reachBut v va n use bars = (u, .page f) := by
  simp [State.reachBut, h]

theorem State.reachBut_wait {s u : State} {v : Via} {va n : Nat} {use : Use} {bars : Phys → Bool}
    (h : s.translate v.who va use = (u, .wait)) : s.reachBut v va n use bars = (u, .busy) := by
  simp [State.reachBut, h]

/-- A read of HBM by an agent over a line that needs no fold: the bytes of memory as the page shows them, or nothing where the line is poisoned. -/
theorem State.readAt_of_not_mash {s : State} {v : Via} {x : Phys} {n : Nat} (ha : v.agent ≠ home) (hb : inHbm x.addr = true)
    (h : (s.line (x.addr / 128)).mash = false) :
    ∃ t, s.readAt v x n = (t, if x.addr / 128 ∈ s.poison then none else some (s.seenAt x n)) ∧ s.Quiet t := by
  by_cases hp : x.addr / 128 ∈ s.poison
  · have hq : s.Quiet (if x.attr = .device then s.homeObtain (x.addr / 128) v.who.part (some v.who.ctx)
        else s.takeShared (x.addr / 128) v.agent v.who.part (some v.who.ctx)) := by
      split
      · exact State.quiet_homeObtain _ _ _ _
      · exact State.quiet_takeShared h ha _ _
    have hpois := hq.2.2.2.2.1
    refine ⟨_, ?_, hq⟩
    simp only [State.readAt, inCap_of_inHbm hb, State.foldFor_of_not_mash h, Bool.false_eq_true, if_false, hp, if_true]
    rw [if_pos (by simp [State.poisoned, hb, hpois, hp])]
  · rw [if_neg hp]
    exact State.readAt_plain ha hb h hp

end Sys2Proof.Machine

/-! ## A load at a place -/

namespace Sys2Proof.Machine
open Sys2Proof Sys2Proof.Claims

theorem State.load_fault {s u : State} {l : Lane} {ea n : Nat} {any : Bool} {f : PageFault} (h : s.translate (s.who l) ea .read = (u, .fault f)) :
    s.load l ea n any = (u, .page f) := by
  have hr : s.reach (s.via l) ea n .read = (u, .page f) := State.reachBut_fault (v := s.via l) h
  simp only [State.load, State.loadVia, hr, ite_self]

theorem State.load_wait {s u : State} {l : Lane} {ea n : Nat} {any : Bool} (h : s.translate (s.who l) ea .read = (u, .wait)) :
    s.load l ea n any = (u, .busy) := by
  have hr : s.reach (s.via l) ea n .read = (u, .busy) := State.reachBut_wait (v := s.via l) h
  simp only [State.load, State.loadVia, hr, ite_self]

theorem State.countLane_lines (s : State) (l : Lane) (ev n : Nat) : (s.countLane l ev n).lines = s.lines := by
  unfold State.countLane State.count
  split <;> rfl

section
variable {s u : State} {l : Lane} {ea n : Nat} {x : Phys}

theorem l1Line_ne_none {y : L1Line} (h : l1Line u l x = some y) : x.attr = .normal ∧ (u.cluster l.cluster).cacheWays ≠ 0 ∧
    ((u.cluster l.cluster).l1.find? fun e => e.line == x.addr / 128 && e.mask.getLsbD l.core) = some y := by
  unfold l1Line at h
  split at h
  · next hc => exact ⟨hc.1, hc.2, h⟩
  · cases h

/-- A relaxed .any load takes the bytes of the L1 line that is there. -/
theorem State.load_hit {y : L1Line} (hp : PlaceAt s u l ea n .read x) (hy : l1Line u l x = some y) :
    ∃ t bs, s.load l ea n true = (t, .data bs) ∧ leNat bs = y.data.toNat / 256 ^ (x.addr % 128) % 256 ^ n ∧ u.Quiet t := by
  obtain ⟨hnormal, hways, hfind⟩ := l1Line_ne_none hy
  have hr : s.reach (s.via l) ea n .read = (u, .at x) := State.reach_of_reachesAt (v := s.via l) hp
  obtain ⟨htr, -, hin, -⟩ := hp
  rw [(State.sameUnits_of_translate htr).cluster] at hways
  have hlt : y.data.toNat < 256 ^ 128 := lt_of_lt_of_eq y.data.isLt (by rw [show (256 : Nat) = 2 ^ 8 from rfl, ← Nat.pow_mul])
  refine ⟨u.countLane l evL1Hit 1, ((leBytes y.data.toNat 128).drop (x.addr % 128)).take n, ?_, ?_, u.quiet_countLane _ _ _⟩
  · have hno : (!true || (s.cluster l.cluster).cacheWays == 0) = false := by simpa using hways
    simp only [State.load, hno, hr, hnormal, hin, hfind, Bool.false_eq_true, if_false, if_true, and_self]
  · rw [leNat_take, leNat_drop, leNat_leBytes, Nat.mod_eq_of_lt hlt]

/-- What a read past the L1 answers at a place. -/
def readAnswer (u : State) (x : Phys) (n : Nat) : Res := if x.addr / 128 ∈ u.poison then .ue false else .data (u.seenAt x n)

theorem State.loadVia_at (hp : PlaceAt s u l ea n .read x) : ∃ t, s.loadVia (s.via l) ea n = (t, readAnswer u x n) ∧ u.Quiet t := by
  have hr : s.reach (s.via l) ea n .read = (u, .at x) := State.reach_of_reachesAt (v := s.via l) hp
  obtain ⟨-, -, hin, -, -, -, -, -, -, -, hmash, -⟩ := hp
  obtain ⟨t, ht, hq⟩ := State.readAt_of_not_mash (v := s.via l) (n := n) (l2Slice_ne_home l) hin hmash
  refine ⟨t, ?_, hq⟩
  simp only [State.loadVia, hr, ht, readAnswer, State.mashed, hmash]
  by_cases hpois : x.addr / 128 ∈ u.poison
  · simp only [hpois, if_true]
  · simp only [hpois, if_false]

/-- The read that fills the L1 brings the whole line, a load's bytes among it. -/
theorem State.readAt_line {v : Via} (ha : v.agent ≠ home) (hin : inHbm x.addr = true) (hmash : (u.line (x.addr / 128)).mash = false)
    (hn : x.attr = .normal) (hspan : x.addr % 128 + n ≤ 128) :
    ∃ t bs, u.readAt v { attr := .normal, addr := 128 * (x.addr / 128) } 128 = (t, if x.addr / 128 ∈ u.poison then none else some bs) ∧
      (bs.drop (x.addr % 128)).take n = u.seenAt x n ∧ u.Quiet t := by
  have hline : 128 * (x.addr / 128) / 128 = x.addr / 128 := by omega
  have hin' : inHbm (128 * (x.addr / 128)) = true := by
    simp only [inHbm, decide_eq_true_eq] at hin ⊢
    omega
  obtain ⟨t, ht, hq⟩ := State.readAt_of_not_mash (x := { attr := .normal, addr := 128 * (x.addr / 128) }) (n := 128) ha hin' (by rwa [hline])
  rw [hline] at ht
  refine ⟨t, _, ht, ?_, hq⟩
  simp only [State.seenAt, hn]
  rw [if_neg (by decide), if_neg (by decide), readBytes_drop_take _ _ _ _ _ hspan]
  congr 1
  omega

/-- A load that no L1 line serves takes the bytes that memory holds, or brings the whole line and takes them from it. -/
theorem State.load_at {any : Bool} (hp : PlaceAt s u l ea n .read x) (hy : any = false ∨ l1Line u l x = none) :
    ∃ t, s.load l ea n any = (t, readAnswer u x n) ∧ u.Quiet t := by
  cases hno : (!any || (s.cluster l.cluster).cacheWays == 0) with
  | true =>
    rw [State.load, hno]
    exact State.loadVia_at hp
  | false =>
    obtain ⟨rfl, hways⟩ : any = true ∧ (s.cluster l.cluster).cacheWays ≠ 0 := by simpa using hno
    have hvia := State.loadVia_at hp
    have hr : s.reach (s.via l) ea n .read = (u, .at x) := State.reach_of_reachesAt (v := s.via l) hp
    obtain ⟨htr, -, hin, hspan, -, -, -, -, -, -, hmash, -⟩ := hp
    by_cases hn : x.attr = .normal
    · rw [← (State.sameUnits_of_translate htr).cluster] at hways
      have hfind : ((u.cluster l.cluster).l1.find? fun e => e.line == x.addr / 128 && e.mask.getLsbD l.core) = none := by
        simpa [l1Line, hn, hways] using hy
      have hcount := u.quiet_countLane l evL1Miss 1
      have hmash' : ((u.countLane l evL1Miss 1).line (x.addr / 128)).mash = false := by rwa [State.line, State.countLane_lines]
      obtain ⟨t, bs, ht, hpart, hq⟩ := State.readAt_line (v := s.via l) (l2Slice_ne_home l) hin hmash' hn hspan
      rw [State.seenAt_of_mem hcount.2.2.1] at hpart
      rw [hcount.2.2.2.2.1] at ht
      by_cases hpois : x.addr / 128 ∈ u.poison
      · simp only [hpois, if_true] at ht
        refine ⟨t, ?_, hcount.trans hq⟩
        simp only [State.load, hno, hr, hn, hin, hfind, ht, readAnswer, hpois, State.mashed, hmash, Bool.false_eq_true, if_false, if_true, and_self]
      · simp only [hpois, if_false] at ht
        refine ⟨t.fillL1 l.cluster l.core (x.addr / 128) (leNat bs), ?_, (hcount.trans hq).trans (State.quiet_fillL1 _ _ _ _ _)⟩
        simp only [State.load, hno, hr, hn, hin, hfind, ht, readAnswer, hpois, hpart, Bool.false_eq_true, if_false, if_true, and_self]
    · rw [State.load]
      simp only [hno, hr, hn, Bool.false_eq_true, if_false, false_and]
      simp only [State.loadVia, hr] at hvia
      exact hvia

end

end Sys2Proof.Machine

/-! ## Words that access global memory -/

namespace Sys2Proof.Machine
open Sys2Proof Sys2Proof.Claims

/-- Word i accesses memory, at its base pair's address. -/
structure IsGlobal (i : Instr) : Prop where
  offScratch : ∀ srcs, onScratch i srcs = false
  cause : ∀ s l srcs, State.accessCause s l i srcs = alignCause i (eaSrc i srcs)

/-- What such a word does in a lane, s0 being the state in which it issued: k is its access in its turn. -/
def globalAct (i : Instr) (k : State → Lane → List Word → State) (s0 s : State) (l : Lane) : State :=
  if s.behindStore s0 l i (srcsOf l i) then s.setLane l.stall
  else
    match alignCause i (eaSrc i (srcsOf l i)) with
    | some c => s.raise l (l.causeHere c.1 c.2.1 c.2.2)
    | none => inOrder s l i (srcsOf l i) (k s l (srcsOf l i))

theorem alignCause_misaligned {i : Instr} {a : Nat} (h : a % 2 ^ alignLog i ≠ 0) :
    alignCause i a = some (causeAlign, alignLog i, BitVec.ofNat 64 a) := by
  rw [alignCause, if_pos (by exact_mod_cast h), BitVec.ofInt_natCast]

theorem alignCause_aligned {i : Instr} {a : Nat} (h : a % 2 ^ alignLog i = 0) : alignCause i a = none := by
  rw [alignCause, if_neg (by simpa using (by exact_mod_cast h : (a : Int) % 2 ^ alignLog i = 0))]

section
variable {i : Instr} {k : State → Lane → List Word → State} {s0 s : State} {l : Lane}

theorem IsGlobal.accessWord_next (h : IsGlobal i) (hl : Legal s i) : accessWord i s k = .next (eachActive s (globalAct i k s)) := by
  obtain ⟨m, h1, h2⟩ := hl
  rw [accessWord, guarded_next h1 h2]
  simp only [h.offScratch, h.cause, Bool.false_and, Bool.false_or]
  rfl

theorem globalAct_behind (h : s.behindStore s0 l i (srcsOf l i) = true) : globalAct i k s0 s l = s.setLane l.stall := if_pos h

theorem globalAct_misaligned (h : s.behindStore s0 l i (srcsOf l i) = false) (ha : eaSrc i (srcsOf l i) % 2 ^ alignLog i ≠ 0) :
    globalAct i k s0 s l = s.raise l (l.causeHere 0x04 (alignLog i) (BitVec.ofNat 64 (eaSrc i (srcsOf l i)))) := by
  rw [globalAct, h, alignCause_misaligned ha]
  rfl

theorem globalAct_aligned (h : s.behindStore s0 l i (srcsOf l i) = false) (ha : eaSrc i (srcsOf l i) % 2 ^ alignLog i = 0) :
    globalAct i k s0 s l = inOrder s l i (srcsOf l i) (k s l (srcsOf l i)) := by
  rw [globalAct, h, alignCause_aligned ha]
  rfl

theorem globalAct_waits (h : s.behindStore s0 l i (srcsOf l i) = false) (ha : eaSrc i (srcsOf l i) % 2 ^ alignLog i = 0) :
    Waits s l i (globalAct i k s0 s l) := by
  rw [globalAct_aligned h ha]
  exact inOrder_waits s l i _

theorem globalAct_inTurn (h : s.behindStore s0 l i (srcsOf l i) = false) (ha : eaSrc i (srcsOf l i) % 2 ^ alignLog i = 0) (ht : InTurn s l i) :
    globalAct i k s0 s l = k s l (srcsOf l i) := by
  rw [globalAct_aligned h ha, inOrder_of_inTurn ht]

theorem State.behindStore_of_unordered (h : inSlotOrder i = false) (srcs : List Word) : s.behindStore s0 l i srcs = false := by
  rw [State.behindStore, h, Bool.false_and]

/-- A word whose lanes keep no order of slots does not look at the state in which it issued. -/
theorem globalAct_start (h : inSlotOrder i = false) : globalAct i k s0 = fun s l => globalAct i k s s l := by
  funext s l
  simp only [globalAct, State.behindStore_of_unordered h]

end

/-! ## What an access acquires -/

theorem wide_iff (e : Scope) : wide e = true ↔ e = .cluster ∨ e = .die ∨ e = .device ∨ e = .system := by
  cases e <;> simp [wide, Scope.rank]

theorem acquires_iff (o : Order) : Order.acquires o = true ↔ o = .acq ∨ o = .ar := by
  cases o <;> simp [Order.acquires]

theorem State.acquired_acquireFor (s : State) (l : Lane) {i : Instr} {srcs : List Word} {e : Scope} {o : Order} (h : orderOf i srcs = (e, o)) :
    Acquired (s.acquireFor l i srcs) l e o := by
  intro ho he
  rw [State.acquireFor, h, if_pos ((acquires_iff o).mpr ho), State.acquire, if_pos ((wide_iff e).mpr he)]
  exact State.l1Clear_clearL1 s l.cluster (k := l.core) (Nat.mod_lt _ (by norm_num))

theorem State.quiet_acquireFor (s : State) (l : Lane) (i : Instr) (srcs : List Word) : s.Quiet (s.acquireFor l i srcs) := by
  unfold State.acquireFor
  split
  · exact s.quiet_acquire _ _
  · exact .refl s

end Sys2Proof.Machine

/-! ## Deferred loads -/

namespace Sys2Proof.Machine
open Sys2Proof Sys2Proof.Claims

/-- Word i loads n bytes with an order; `any` says that the L1 may serve it. Its access is that of a load, but for a peer's answer. -/
structure IsLoad (i : Instr) (n : Nat) (e : Scope) (o : Order) (any : Bool) : Prop where
  global : IsGlobal i
  unordered : inSlotOrder i = false
  order : ∀ srcs, orderOf i srcs = (e, o)
  performs : ∀ (s t : State) l m srcs r, s.load l (eaSrc i srcs) n any = (t, r) → (∀ a, r ≠ .peer a) →
    s.perform l m i srcs = acquired l i srcs (perfOf t l m (.read n) (eaSrc i srcs) 0 true r)

section
variable {i : Instr} {n : Nat} {e : Scope} {o : Order} {any : Bool} {s u t : State} {l : Lane} {srcs : List Word} {x : Phys}

theorem noteAccess_got {v : Nat} {w : Wait} (h : s.perform l l.nextDef i srcs = (t, .got v w)) :
    s.noteAccess l i srcs = t.setLane (l.noted i srcs v w) := by
  simp only [State.noteAccess, h]

theorem IsLoad.note_data (h : IsLoad i n e o any) {bs : List Byte} (hl : s.load l (eaSrc i srcs) n any = (t, .data bs)) :
    s.noteAccess l i srcs = (t.acquireFor l i srcs).setLane (l.noted i srcs (leNat bs) .ready) :=
  noteAccess_got (h.performs _ _ _ _ _ _ hl (by simp))

theorem IsLoad.note_fault (h : IsLoad i n e o any) {f : PageFault} (hl : s.load l (eaSrc i srcs) n any = (t, .page f)) :
    s.noteAccess l i srcs = (t.acquireFor l i srcs).setLane (l.noted i srcs 0 (.page f 0)) :=
  noteAccess_got (h.performs _ _ _ _ _ _ hl (by simp))

theorem IsLoad.note_poisoned (h : IsLoad i n e o any) (hl : s.load l (eaSrc i srcs) n any = (t, .ue false)) :
    s.noteAccess l i srcs = (t.acquireFor l i srcs).setLane (l.noted i srcs 0 (.dataUe 0 (BitVec.ofNat 64 (eaSrc i srcs)) true)) :=
  noteAccess_got (h.performs _ _ _ _ _ _ hl (by simp))

theorem IsLoad.note_busy (h : IsLoad i n e o any) (hl : s.load l (eaSrc i srcs) n any = (t, .busy)) :
    s.noteAccess l i srcs = t.setLane l.stall := by
  have hb : s.perform l l.nextDef i srcs = (t, .busy) := h.performs _ _ _ _ _ _ hl (by simp)
  simp only [State.noteAccess, hb]

/-- What every way of noting a load at a place keeps. -/
theorem IsLoad.kept (h : IsLoad i n e o any) (hq : u.Quiet t) {m : Lane} :
    SameMem u ((t.acquireFor l i srcs).setLane m) ∧ Kept u ((t.acquireFor l i srcs).setLane m) ∧
      Acquired ((t.acquireFor l i srcs).setLane m) l e o ∧ ((t.acquireFor l i srcs).setLane m).lanes = (u.setLane m).lanes := by
  have hq' := hq.trans (t.quiet_acquireFor l i srcs)
  exact ⟨fun b => sameMem_of_quiet hq' b, kept_setLane (kept_of_quiet hq') m, t.acquired_acquireFor l (h.order srcs), lanes_setLane_of_eq hq'.1 m⟩

/-- A load in its turn does what the statements say of it. -/
theorem IsLoad.loadsAt (h : IsLoad i n e o any) (s : State) (l : Lane) :
    LoadsAt s l (s.noteAccess l i srcs) (eaSrc i srcs) n e o any (fun v w => l.noted i srcs v w) := by
  refine ⟨fun u f htr => ?_, fun u htr => h.note_busy (State.load_wait htr), fun u x hp => ?_⟩
  · rw [h.note_fault (State.load_fault htr)]
    have hq := u.quiet_acquireFor l i srcs
    exact ⟨lanes_setLane_of_eq hq.1 _, hq.2.2.1⟩
  · by_cases hhit : ∃ y, any = true ∧ l1Line u l x = some y
    · obtain ⟨y, rfl, hy⟩ := hhit
      obtain ⟨t, bs, hload, hval, hq⟩ := State.load_hit hp hy
      rw [h.note_data hload, hval]
      obtain ⟨hmem, hkept, hacq, hlanes⟩ := h.kept (l := l) (srcs := srcs) hq (m := l.noted i srcs (y.data.toNat / 256 ^ (x.addr % 128) % 256 ^ n) .ready)
      refine ⟨hmem, hkept, hacq, fun z _ hz => ?_, fun hno => ?_⟩
      · obtain rfl : y = z := Option.some.inj (hy.symm.trans hz)
        exact hlanes
      · simp [hy] at hno
    · have hmiss : any = false ∨ l1Line u l x = none := by
        cases any <;> cases hy : l1Line u l x <;> simp_all
      obtain ⟨t, hload, hq⟩ := State.load_at hp hmiss
      by_cases hpois : x.addr / 128 ∈ u.poison
      · rw [readAnswer, if_pos hpois] at hload
        rw [h.note_poisoned hload]
        obtain ⟨hmem, hkept, hacq, hlanes⟩ := h.kept (l := l) (srcs := srcs) hq (m := l.noted i srcs 0 (.dataUe 0 (BitVec.ofNat 64 (eaSrc i srcs)) true))
        exact ⟨hmem, hkept, hacq, fun z ha hz => absurd ⟨z, ha, hz⟩ hhit, fun _ => ⟨fun hn => absurd hpois hn, fun _ => hlanes⟩⟩
      · rw [readAnswer, if_neg hpois] at hload
        rw [h.note_data hload, leNat_seenAt]
        obtain ⟨hmem, hkept, hacq, hlanes⟩ := h.kept (l := l) (srcs := srcs) hq (m := l.noted i srcs (shown u x n) .ready)
        exact ⟨hmem, hkept, hacq, fun z ha hz => absurd ⟨z, ha, hz⟩ hhit, fun _ => ⟨fun _ => hlanes, fun hn => absurd hn hpois⟩⟩

end

end Sys2Proof.Machine

/-! ## LD and KLD -/

namespace Sys2Proof.Machine
open Sys2Proof Sys2Proof.Claims

/-- What the words of LD have in common: their bytes are 2^k, of c registers from d, at a base pair and an offset. -/
structure IsLd (i : Instr) (k c : Nat) (d a : VReg) (e : Scope) (o : Order) (any : Bool) (off : BitVec 6) : Prop where
  acts : ∀ s, exec i s = ldWord i s
  load : IsLoad i (2 ^ k) e o any
  align : alignLog i = k
  ea : ∀ l, eaSrc i (srcsOf l i) = (l.pair a + BitVec.ofInt 64 (off.toInt * ((2 ^ k : Nat) : Int))).toNat
  noted : ∀ (l : Lane) x y, l.noted i (srcsOf l i) x y = (l.defer i (l.vs a 2) (regsFrom d c x) [] 0 y).adv 4

/-- LD's access, from what the load gives. -/
theorem performLd_of_load {s t : State} {l : Lane} {m : Nat} {i : Instr} {srcs : List Word} {r : Res}
    (h : s.load l (eaSrc i srcs) (spanOf i) (anyLoad i) = (t, r)) :
    performLd s l m i srcs = acquired l i srcs (perfOf t l m (.read (spanOf i)) (eaSrc i srcs) 0 true r) := by
  simp only [performLd, h]

/-- The address that a base pair and an offset form (R107). -/
theorem eaOf_vs (l : Lane) (a : VReg) (off : Int) : eaOf (srcAt (l.vs a 2) 0) (srcAt (l.vs a 2) 1) off = (l.pair a + BitVec.ofInt 64 off).toNat := by
  simpa using eaOf_pair l a [] off

theorem isLd_of_mem {d a : VReg} {e : Scope} {o : Order} {f : Bool} {i : BitVec 6} {w : Instr × Nat × Nat} (h : w ∈ loads d a e o f i) :
    IsLd w.1 w.2.1 w.2.2 d a e o (!f && o == .rlx) i := by
  simp only [loads, List.mem_cons, List.not_mem_nil, or_false] at h
  obtain rfl | rfl | rfl | rfl | rfl := h
  all_goals
    exact ⟨fun _ => rfl, ⟨⟨fun _ => rfl, fun _ _ _ => rfl⟩, rfl, fun _ => rfl, fun _ _ _ _ _ _ hl _ => performLd_of_load hl⟩, rfl,
      fun l => (eaOf_vs l a _).trans (by simp [byteOff]), fun _ _ _ => rfl⟩

/-- LD in its turn. -/
def ldStep (i : Instr) (s : State) (l : Lane) (srcs : List Word) : State :=
  if 2 ^ 57 ≤ eaSrc i srcs then s.setLane (l.pageHere (pageFault 4 (eaSrc i srcs) .read))
  else if !l.room then s.setLane l.stall
  else s.noteAccess l i srcs

theorem ldWord_next {i : Instr} (h : IsGlobal i) {s : State} (hl : Legal s i) : ldWord i s = .next (eachActive s (globalAct i (ldStep i) s)) :=
  h.accessWord_next hl

/-- KLD in its turn. -/
def kldStep (i : Instr) (s : State) (l : Lane) (srcs : List Word) : State :=
  if !l.room then s.setLane l.stall else s.noteAccess l i srcs

theorem isLoad_kld (k : KReg) (a : VReg) (e : Scope) (o : Order) (f : Bool) (i : BitVec 7) : IsLoad (.kld k a e o f i) 96 e o false := by
  refine ⟨⟨fun _ => rfl, fun _ _ _ => rfl⟩, rfl, fun _ => rfl, fun s t l m srcs r hl hr => ?_⟩
  have hvia : s.loadVia (s.via l) (eaSrc (.kld k a e o f i) srcs) 96 = (t, r) := hl
  simp only [State.perform, hvia]

theorem execKld_next {k : KReg} {a : VReg} {e : Scope} {o : Order} {f : Bool} {i : BitVec 7} {s : State} (hl : Legal s (.kld k a e o f i)) :
    execKld k a e o f i s = .next (eachActive s (globalAct (.kld k a e o f i) (kldStep (.kld k a e o f i)) s)) :=
  (isLoad_kld k a e o f i).global.accessWord_next hl

end Sys2Proof.Machine

section
open Sys2Proof Sys2Proof.Machine Sys2Proof.Claims

/-- Settles O30: a load that reaches its place is answered by the L1 line that is there or by memory, and is noted with what it acquires. -/
theorem globalLoads : Obligations.GlobalLoads := by
  refine ⟨fun d a e o f i w hw => ?_, fun k a e o f i => ?_, fun s w va use => State.SameUnits.refl.translate⟩
  · have h := isLd_of_mem hw
    refine ⟨fun s l => globalAct w.1 (ldStep w.1) s s l, fun s hl => ?_, fun s l => ?_⟩
    · rw [h.acts, ldWord_next h.load.global hl, globalAct_start h.load.unordered]
    · have hbehind := State.behindStore_of_unordered (s0 := s) (s := s) (l := l) h.load.unordered (srcsOf l w.1)
      dsimp only
      rw [← h.ea l, ← h.align]
      refine ⟨globalAct_misaligned hbehind, globalAct_waits hbehind, fun ha ht => ?_⟩
      rw [globalAct_inTurn hbehind ha ht, ldStep]
      refine ⟨fun hbig => if_pos hbig, fun hsmall hroom => ?_, fun hsmall hroom => ?_⟩
      · rw [if_neg (by omega), hroom]
        rfl
      · rw [if_neg (by omega), hroom, h.align]
        simp only [← h.noted]
        exact h.load.loadsAt s l
  · have h := isLoad_kld k a e o f i
    refine ⟨fun s l => globalAct (.kld k a e o f i) (kldStep (.kld k a e o f i)) s s l, fun s hl => ?_, fun s l => ?_⟩
    · rw [← globalAct_start h.unordered]
      exact execKld_next hl
    · have hbehind := State.behindStore_of_unordered (s0 := s) (s := s) (l := l) h.unordered (srcsOf l (.kld k a e o f i))
      have hea : eaSrc (.kld k a e o f i) (srcsOf l (.kld k a e o f i)) = (l.pair a + BitVec.ofInt 64 (i.toInt * 128)).toNat := eaOf_vs l a _
      dsimp only
      rw [← hea]
      refine ⟨globalAct_misaligned hbehind, globalAct_waits hbehind, fun ha ht => ?_⟩
      rw [globalAct_inTurn hbehind ha ht, kldStep]
      refine ⟨fun hroom => by rw [hroom]; rfl, fun hroom => ?_⟩
      rw [hroom]
      exact h.loadsAt s l

end


/-! ## A store at a place -/

namespace Sys2Proof.Machine
open Sys2Proof Sys2Proof.Claims

/-- Memory may be put beside what only caches and counts changed. -/
theorem State.Quiet.withMem {s t : State} (h : s.Quiet t) (m : Memory) : ({ s with mem := m } : State).Quiet { t with mem := m } := by
  obtain ⟨hlanes, hteams, -, hhost, hpoison, hfot, hparts⟩ := h
  exact ⟨hlanes, hteams, rfl, hhost, hpoison, hfot, hparts⟩

/-- The state t is what storing bytes at x leaves of u, but for caches and counts. -/
def StoredAt (u t : State) (x : Phys) (bs : List Byte) : Prop :=
  ({ u with mem := writeBytes u.mem x.addr (accKeep x.attr x.addr bs) } : State).Quiet t

section
variable {s u : State} {l : Lane} {ea : Nat} {bs : List Byte} {x : Phys}

theorem State.store_fault {f : PageFault} (h : s.translate (s.who l) ea .write = (u, .fault f)) : s.store l ea bs = (u, .page f) := by
  have hr : s.reach (s.via l) ea bs.length .write = (u, .page f) := State.reachBut_fault (v := s.via l) h
  simp only [State.store, hr]

theorem State.store_wait (h : s.translate (s.who l) ea .write = (u, .wait)) : s.store l ea bs = (u, .busy) := by
  have hr : s.reach (s.via l) ea bs.length .write = (u, .busy) := State.reachBut_wait (v := s.via l) h
  simp only [State.store, hr]

theorem State.storeVia_fault {f : PageFault} (h : s.translate (s.who l) ea .write = (u, .fault f)) : s.storeVia (s.via l) ea bs = (u, .page f) := by
  have hr : s.reach (s.via l) ea bs.length .write = (u, .page f) := State.reachBut_fault (v := s.via l) h
  simp only [State.storeVia, hr]

theorem State.storeVia_wait (h : s.translate (s.who l) ea .write = (u, .wait)) : s.storeVia (s.via l) ea bs = (u, .busy) := by
  have hr : s.reach (s.via l) ea bs.length .write = (u, .busy) := State.reachBut_wait (v := s.via l) h
  simp only [State.storeVia, hr]

/-- The write of a lane at a plain place. -/
theorem State.writeAt_of_plainAt (hp : PlainAt s u l ea bs.length .write x) :
    ∃ t, u.writeAt (s.via l) x bs = (t, false) ∧ StoredAt u t x bs := by
  obtain ⟨⟨-, -, hin, -, -, -, -, -, -, -, hmash, -⟩, hpois⟩ := hp
  obtain ⟨t, hq, ht⟩ := State.writeAt_plain (v := s.via l) (bs := bs) (l2Slice_ne_home l) hin hmash hpois
  exact ⟨_, ht, hq.withMem _⟩

/-- A store past the L1. -/
theorem State.storeVia_plain (hp : PlainAt s u l ea bs.length .write x) :
    ∃ t, s.storeVia (s.via l) ea bs = (t, .data []) ∧ StoredAt u t x bs := by
  have hr : s.reach (s.via l) ea bs.length .write = (u, .at x) := State.reach_of_reachesAt (v := s.via l) hp.1
  obtain ⟨t, ht, hs⟩ := State.writeAt_of_plainAt hp
  refine ⟨t, ?_, hs⟩
  simp only [State.storeVia, hr, ht, Bool.false_eq_true, if_false]

/-- A store, which its cluster's L1 sees too. -/
theorem State.store_plain (hp : PlainAt s u l ea bs.length .write x) : ∃ t, s.store l ea bs = (t, .data []) ∧ StoredAt u t x bs := by
  have hr : s.reach (s.via l) ea bs.length .write = (u, .at x) := State.reach_of_reachesAt (v := s.via l) hp.1
  obtain ⟨t, ht, hs⟩ := State.writeAt_of_plainAt hp
  obtain ⟨⟨-, -, hin, -⟩, -⟩ := hp
  refine ⟨t.storeL1 l.cluster x.addr (accKeep x.attr x.addr bs), ?_, hs.trans (t.quiet_storeL1 _ _ _)⟩
  simp only [State.store, hr, ht, hin, Bool.false_eq_true, if_false, if_true]

/-- What a store leaves, and where. -/
theorem StoredAt.stored {t : State} (h : StoredAt u t x bs) (hm : u.mem.wf = true) :
    Kept u t ∧ Stored u t x.addr (if x.attr = .acc then bs.take (96 - x.addr % 128) else bs) ∧ t.lanes = u.lanes :=
  stored_of_quiet h hm

end

/-! ## ST and KST -/

/-- ST in its turn. -/
def stStep (i : Instr) (d : VReg) (s : State) (l : Lane) (srcs : List Word) : State :=
  let bs := leBytes (wordsNat (l.vs d ((spanOf i + 3) / 4))) (spanOf i)
  let r := s.store l (eaSrc i srcs) bs
  r.1.endAccess l i srcs (.write bs) (eaSrc i srcs) 0 r.2

/-- KST in its turn. -/
def kstStep (i : Instr) (k : KReg) (s : State) (l : Lane) (srcs : List Word) : State :=
  let bs := leBytes (laImage (l.getK k)) 96
  let r := s.storeVia (s.via l) (eaSrc i srcs) bs
  match r.2 with
  | .peer _ => r.1.setLane (l.pageHere (pageFault 2 (eaSrc i srcs) .write))
  | q => r.1.endAccess l i srcs (.write bs) (eaSrc i srcs) 0 q

/-- Word i stores, one instruction word long. -/
structure IsStore (i : Instr) : Prop where
  global : IsGlobal i
  ordered : inSlotOrder i = true
  len : instrLen i = 4

theorem behindStore_iff {i : Instr} (h : inSlotOrder i = true) (s0 s : State) (l : Lane) :
    s.behindStore s0 l i (srcsOf l i) = true ↔ StoresLate s0 s l i := by
  simp only [State.behindStore, h, Bool.true_and, List.any_eq_true, StoresLate, Bool.and_eq_true, decide_eq_true_eq, and_assoc]
  refine exists_congr fun m => and_congr_right fun _ => and_congr_right fun _ => and_congr_left fun _ => ?_
  cases s.lane? m.id with
  | none => simp
  | some x => simp [and_assoc]

section
variable {i : Instr} {d : VReg} {k : KReg} {s : State} {l : Lane}

/-- A store that ends as a write does: the common part of ST and KST. -/
theorem storesAt_of {i : Instr} {step : State} {ea : Nat} {bs : List Byte} (hlen : instrLen i = 4)
    (hf : ∀ u f, s.translate (s.who l) ea .write = (u, .fault f) → step = u.setLane (l.pageHere f))
    (hw : ∀ u, s.translate (s.who l) ea .write = (u, .wait) → step = u.setLane l.stall)
    (hp : ∀ u x, PlainAt s u l ea bs.length .write x → ∃ t, step = t.setLane (l.adv (instrLen i)) ∧ StoredAt u t x bs) :
    StoresAt s l step ea bs := by
  refine ⟨hf, hw, fun u x h => ?_⟩
  obtain ⟨t, rfl, hs⟩ := hp u x h
  obtain ⟨-, -, -, -, -, -, -, -, -, -, -, hwf⟩ := h.1
  obtain ⟨hkept, hstored, hlanes⟩ := hs.stored hwf
  rw [hlen]
  exact ⟨lanes_setLane_of_eq hlanes _, kept_setLane hkept _, hstored⟩

theorem IsStore.stStep_storesAt (h : IsStore i) (srcs : List Word) :
    StoresAt s l (stStep i d s l srcs) (eaSrc i srcs) (leBytes (wordsNat (l.vs d ((spanOf i + 3) / 4))) (spanOf i)) := by
  refine storesAt_of h.len (fun u f htr => ?_) (fun u htr => ?_) fun u x hp => ?_
  · rw [stStep, State.store_fault htr]
    rfl
  · rw [stStep, State.store_wait htr]
    rfl
  · obtain ⟨t, ht, hs⟩ := State.store_plain hp
    exact ⟨t, by rw [stStep, ht]; rfl, hs⟩

theorem IsStore.kstStep_storesAt (h : IsStore i) (srcs : List Word) :
    StoresAt s l (kstStep i k s l srcs) (eaSrc i srcs) (leBytes (laImage (l.getK k)) 96) := by
  refine storesAt_of h.len (fun u f htr => ?_) (fun u htr => ?_) fun u x hp => ?_
  · rw [kstStep, State.storeVia_fault htr]
    rfl
  · rw [kstStep, State.storeVia_wait htr]
    rfl
  · obtain ⟨t, ht, hs⟩ := State.storeVia_plain hp
    exact ⟨t, by rw [kstStep, ht]; rfl, hs⟩

/-- What a store word does in a lane, from what it does in its turn. -/
theorem IsStore.act (h : IsStore i) {step : State → Lane → List Word → State} {s0 : State} {bs : List Byte} {n c ea : Nat}
    (hea : eaSrc i (srcsOf l i) = ea) (hc : alignLog i = c) (hn : 2 ^ c = n)
    (hstep : StoresAt s l (step s l (srcsOf l i)) (eaSrc i (srcsOf l i)) bs) :
    (StoresLate s0 s l i → globalAct i step s0 s l = s.setLane l.stall) ∧ (¬ StoresLate s0 s l i →
      (ea % n ≠ 0 → globalAct i step s0 s l = s.raise l (l.causeHere 0x04 c (BitVec.ofNat 64 ea))) ∧
      (ea % n = 0 → Waits s l i (globalAct i step s0 s l)) ∧
      (ea % n = 0 → InTurn s l i → StoresAt s l (globalAct i step s0 s l) ea bs)) := by
  subst hea hc hn
  rw [← behindStore_iff h.ordered]
  refine ⟨globalAct_behind, fun hb => ?_⟩
  rw [Bool.not_eq_true] at hb
  refine ⟨globalAct_misaligned hb, globalAct_waits hb, fun ha ht => ?_⟩
  rw [globalAct_inTurn hb ha ht]
  exact hstep

end

/-- What the words of ST have in common: their bytes are 2^k from register d on, at a base pair and an offset. -/
structure IsSt (i : Instr) (k : Nat) (d a : VReg) (off : BitVec 6) : Prop where
  acts : ∀ s, exec i s = stWord i s d
  store : IsStore i
  align : alignLog i = k
  span : spanOf i = 2 ^ k
  ea : ∀ l, eaSrc i (srcsOf l i) = (l.pair a + BitVec.ofInt 64 (off.toInt * ((2 ^ k : Nat) : Int))).toNat

theorem isSt_of_mem {d a : VReg} {e : Scope} {o : Order} {i : BitVec 6} {w : Instr × Nat} (h : w ∈ stores d a e o i) : IsSt w.1 w.2 d a i := by
  simp only [stores, List.mem_cons, List.not_mem_nil, or_false] at h
  obtain rfl | rfl | rfl | rfl | rfl := h
  all_goals
    exact ⟨fun _ => rfl, ⟨⟨fun _ => rfl, fun _ _ _ => rfl⟩, rfl, rfl⟩, rfl, rfl, fun l => (eaOf_vs l a _).trans (by simp [byteOff])⟩

theorem stWord_next {i : Instr} (h : IsGlobal i) {s : State} {d : VReg} (hl : Legal s i) :
    stWord i s d = .next (eachActive s (globalAct i (stStep i d) s)) := h.accessWord_next hl

theorem isStore_kst (k : KReg) (a : VReg) (e : Scope) (o : Order) (i : BitVec 7) : IsStore (.kst k a e o i) :=
  ⟨⟨fun _ => rfl, fun _ _ _ => rfl⟩, rfl, rfl⟩

theorem execKst_next {k : KReg} {a : VReg} {e : Scope} {o : Order} {i : BitVec 7} {s : State} (hl : Legal s (.kst k a e o i)) :
    execKst k a e o i s = .next (eachActive s (globalAct (.kst k a e o i) (kstStep (.kst k a e o i) k) s)) :=
  (isStore_kst k a e o i).global.accessWord_next hl

/-- The stores. -/
theorem stores_holds : Stores := by
  refine ⟨fun d a e o i w hw => ?_, fun k a e o i => ?_⟩
  · have h := isSt_of_mem hw
    refine ⟨globalAct w.1 (stStep w.1 d), fun s hl => ?_, fun s0 s l => ?_⟩
    · rw [h.acts, stWord_next h.store.global hl]
    · refine h.store.act (h.ea l) h.align rfl ?_
      rw [← h.span]
      exact h.store.stStep_storesAt _
  · have h := isStore_kst k a e o i
    refine ⟨globalAct (.kst k a e o i) (kstStep (.kst k a e o i) k), fun s hl => ?_, fun s0 s l => ?_⟩
    · exact execKst_next hl
    · exact h.act (eaOf_vs l a _) rfl rfl (h.kstStep_storesAt _)

/-! ## A lane's accesses in order -/

theorem acquiring_iff (i : Instr) (srcs : List Word) :
    acquiring i srcs = true ↔ ((orderOf i srcs).2 = .acq ∨ (orderOf i srcs).2 = .ar) ∧ (orderOf i srcs).1 ≠ .lane := by
  rw [acquiring, acquiresAt, Bool.and_eq_true, acquires_iff, bne_iff_ne]

theorem releasesAt_eq_false {e : Scope} {o : Order} (h : o = .rlx ∨ o = .acq) : releasesAt e o = false := by
  obtain rfl | rfl := h <;> rfl

theorem releasesAt_of {e : Scope} {o : Order} (h : o = .rel ∨ o = .ar) (he : e ≠ .lane) : releasesAt e o = true := by
  obtain rfl | rfl := h <;> simpa [releasesAt, Order.releases] using he

/-- Accesses whose bytes meet, neither beyond its page, touch. -/
theorem Pend.touches_of_meet {p : Pend} {a n k : Nat} (hs : onScratch p.instr p.srcs = false) (ha : a ≤ k) (han : k < a + n)
    (hb : eaSrc p.instr p.srcs ≤ k) (hbn : k < eaSrc p.instr p.srcs + spanOf p.instr) (hap : a % 4096 + n ≤ 4096)
    (hbp : eaSrc p.instr p.srcs % 4096 + spanOf p.instr ≤ 4096) : p.touches a n = true := by
  simp only [Pend.touches, hs, Bool.not_false, Bool.true_and, meets]
  split <;> simp only [Bool.and_eq_true, decide_eq_true_eq] <;> omega

/-- Accesses apart within their pages do not touch. -/
theorem Pend.touches_of_apart {p : Pend} {a n : Nat} (hf : p.faulted = false)
    (h : a % 4096 + n ≤ eaSrc p.instr p.srcs % 4096 ∨ eaSrc p.instr p.srcs % 4096 + spanOf p.instr ≤ a % 4096) : p.touches a n = false := by
  simp only [Pend.touches, hf, Bool.false_eq_true, if_false, meets, Bool.and_eq_false_iff, decide_eq_false_iff_not]
  omega

section
variable {s : State} {l : Lane} {i : Instr} {srcs : List Word} {p : Pend}

theorem State.overlaps_global (h : onScratch i srcs = false) (hp : onScratch p.instr p.srcs = false) :
    s.overlaps l i srcs p = p.touches (eaSrc i srcs) (spanOf i) := by
  simp [State.overlaps, h, hp]

theorem State.overlaps_apart (h : onScratch i srcs ≠ onScratch p.instr p.srcs) : s.overlaps l i srcs p = false := by
  simp [State.overlaps, h]

/-- A word that releases nothing is not kept waiting by an access that neither acquires nor meets it. -/
theorem State.comesFirst_eq_false (hq : (orderOf i srcs).2 = .rlx ∨ (orderOf i srcs).2 = .acq) (ha : p.acquires = false)
    (h : s.overlaps l i srcs p = false ∨ (anyLoad i = true ∧ readOnly p.instr = true)) : s.comesFirst l i srcs p = false := by
  simp only [State.comesFirst, releasesAt_eq_false hq, ha, Bool.false_or]
  obtain h | ⟨h1, h2⟩ := h
  · rw [h, Bool.false_and]
  · rw [h1, h2, Bool.and_self, Bool.not_true, Bool.and_false]

end

/-- The order of a lane's accesses. -/
theorem accessOrder_holds : AccessOrder := by
  refine ⟨fun s l d hd hu => ?_, fun s l r hr hl ha => ?_, fun s l h hh hl => ?_, fun s l i p => ⟨fun ho he => ?_, fun ha => ?_, fun hi hp => ⟨?_, ?_⟩, ?_⟩⟩
  · refine ⟨{ instr := d.instr, srcs := d.srcs, faulted := d.faulted, acquires := acquiring d.instr d.srcs }, ?_, rfl, rfl, acquiring_iff _ _⟩
    exact List.mem_append_left _ (List.mem_append_left _ (List.mem_map_of_mem (List.mem_filter.mpr ⟨hd, hu⟩)))
  · refine ⟨{ instr := .nop, srcs := [], faulted := false, acquires := true }, ?_, rfl⟩
    refine List.mem_append_right _ (List.mem_map.mpr ⟨r, List.mem_filter.mpr ⟨hr, ?_⟩, rfl⟩)
    simpa [hl] using Option.isSome_iff_ne_none.mpr ha
  · refine ⟨{ instr := h.instr, srcs := h.srcs, faulted := false, acquires := acquiring h.instr h.srcs }, ?_, rfl, rfl⟩
    exact List.mem_append_left _ (List.mem_append_right _ (List.mem_map_of_mem (List.mem_filter.mpr ⟨hh, by simpa using hl⟩)))
  · rw [State.comesFirst, releasesAt_of ho he, Bool.true_or, Bool.true_or]
  · rw [State.comesFirst, ha, Bool.or_true, Bool.true_or]
  · intro k ha han hb hbn hap hbp hro
    have hnot : (anyLoad i && readOnly p.instr) = false := (Bool.and_eq_false_iff ..).mpr hro
    rw [State.comesFirst, State.overlaps_global hi hp, Pend.touches_of_meet hp ha han hb hbn hap hbp, hnot, Bool.not_false, Bool.and_self, Bool.or_true]
  · intro hq ha h hf
    refine State.comesFirst_eq_false hq ha ?_
    obtain h | h := h
    · exact .inr h
    · exact .inl ((State.overlaps_global hi hp).trans (Pend.touches_of_apart hf h))
  · exact fun hne hq ha => State.comesFirst_eq_false hq ha (.inl (State.overlaps_apart hne))

end Sys2Proof.Machine

section
open Sys2Proof Sys2Proof.Machine Sys2Proof.Claims

/-- Settles O31: a store goes to the place that its address translates to, in its lane's turn, which `comesFirst` decides. -/
theorem globalStores : Obligations.GlobalStores := ⟨stores_holds, accessOrder_holds⟩

end

/-! ## What a trace record and a sounding keep -/

namespace Sys2Proof.Machine
open Sys2Proof Sys2Proof.Claims

theorem State.count_teams (s : State) (p : Nat) (c : Option Nat) (ev n : Nat) : (s.count p c ev n).teams = s.teams := (s.quiet_count p c ev n).2.1

theorem State.passFront_teams (s : State) (a : Nat) : (s.passFront a).teams = s.teams := by
  unfold State.passFront
  dsimp only
  split <;> rfl

theorem State.foldNow_teams (s : State) (ln : Nat) (who : Option (Nat × Option Nat)) : (s.foldNow ln who).1.teams = s.teams := by
  unfold State.foldNow
  extract_lets l bad fly s1 s2 s3 owner ctx
  have h1 : s1.teams = s.teams := by
    unfold s1 State.setLineLa
    split <;> rfl
  split
  · exact (State.count_teams _ _ _ _ _).trans h1
  · rfl

theorem State.homeTake_teams (s : State) (ln : Nat) : (s.homeTake ln).teams = s.teams := by
  have h1 := s.foldNow_teams ln none
  unfold State.homeTake
  extract_lets s1 l s2 s3
  have h3 : s3.teams = s.teams := by
    unfold s3
    split <;> exact h1
  split
  · exact ((State.quiet_sendAllTok _ _ _ _).2.1).trans h3
  · exact h3

theorem State.putLine_teams (s : State) (a : Nat) (bs : List Byte) : (s.putLine a bs).teams = s.teams :=
  (State.homeTake_teams _ _).trans (((State.quiet_l3Touch _ _ _ _).2.1).trans (s.passFront_teams _))

theorem State.recallHost_teams (s : State) (ln : Nat) (excl : Bool) : (s.recallHost ln excl).teams = s.teams := by
  unfold State.recallHost
  dsimp only
  generalize (if excl then decide (0 < (s.hold ln 9).t) else (s.hold ln 9).owner) = asks
  cases asks
  · rfl
  · exact (s.quiet_snoopHost ln excl).2.1

theorem State.writeLine'_teams (s : State) (a : Nat) (bs : List Byte) : (s.writeLine' a bs).teams = s.teams := by
  unfold State.writeLine'
  dsimp only
  split
  · exact s.recallHost_teams _ _
  · exact s.putLine_teams a bs

theorem State.writeLines_teams (s : State) (a k : Nat) (bs : List Byte) : (s.writeLines a k bs).teams = s.teams := by
  induction k generalizing s a bs with
  | zero => rfl
  | succ k ih =>
    rw [State.writeLines]
    split
    · rfl
    · exact (ih _ _ _).trans (s.writeLine'_teams _ _)

theorem State.devWrite_teams (s : State) (p a : Nat) (bs : List Byte) : (s.devWrite p a bs).1.teams = s.teams := by
  unfold State.devWrite
  split
  · exact s.writeLines_teams _ _ _
  · rfl

theorem State.traceLost_teams (s : State) (p : Nat) (r : TraceRec) : (s.traceLost p r).teams = s.teams := by
  unfold State.traceLost
  split
  · exact s.count_teams _ _ _ _
  · rfl

theorem State.traceGuest_teams (s : State) (p die : Nat) (r : TraceRec) : (s.traceGuest p die r).teams = s.teams := by
  unfold State.traceGuest
  extract_lets g w s1
  have h1 : s1.teams = s.teams := by
    change w.1.teams = s.teams
    unfold w
    split
    · exact s.devWrite_teams _ _ _
    · rfl
  split
  · rfl
  · split
    · exact h1
    · exact (s1.traceLost_teams p r).trans h1

theorem State.opRing_teams (s : State) (r : Ring) (b : BitVec 512) : (s.opRing r b).1.teams = s.teams := by
  unfold State.opRing
  split <;> rfl

theorem State.traceOp_teams (s : State) (p die : Nat) (r : TraceRec) : (s.traceOp p die r).teams = s.teams := by
  unfold State.traceOp
  extract_lets x o c w s1
  have h1 : s1.teams = s.teams := s.opRing_teams _ _
  split
  · rfl
  · split
    · rfl
    · rfl
    · split
      · exact h1
      · exact (s1.traceLost_teams p r).trans h1

theorem State.trace_teams (s : State) (p die : Nat) (r : TraceRec) (sel : Nat) : (s.trace p die r sel).teams = s.teams := by
  unfold State.trace
  extract_lets takes q r s1
  have h1 : s1.teams = s.teams := by
    unfold s1
    split
    · exact State.traceGuest_teams _ _ _ _
    · rfl
  split
  · split
    · exact (s1.traceOp_teams _ _ _).trans h1
    · exact h1
  · rfl

theorem State.sound_teams (s : State) (l : Lane) (sel : Nat) : (s.sound l sel).teams = s.teams :=
  (State.count_teams _ _ _ _ _).trans (State.trace_teams _ _ _ _ _)

theorem State.soundWord_teams (s : State) (l : Lane) (sel : Nat) : (s.soundWord l sel).teams = s.teams := by
  unfold State.soundWord
  split
  · exact s.count_teams _ _ _ _
  · split
    · split
      · exact s.sound_teams l sel
      · split
        · exact s.count_teams _ _ _ _
        · rfl
    · exact s.sound_teams l sel

theorem State.soundOne_teams (s : State) (l : Lane) (stream m : Nat) : (s.soundOne l stream m).1.teams = s.teams := by
  unfold State.soundOne
  dsimp only
  split <;> rfl

theorem State.soundCount_teams (s : State) (l : Lane) : (s.soundCount l).1.teams = s.teams :=
  (State.soundOne_teams _ _ _ _).trans (s.soundOne_teams _ _ _)

theorem State.sounded_teams (done s : State) (i : Instr) : (done.sounded s i).teams = done.teams := by
  unfold State.sounded
  split
  · rfl
  · dsimp only
    split
    · rfl
    · split
      · exact done.soundCount_teams _
      · exact (State.soundWord_teams _ _ _).trans (done.soundCount_teams _)

/-- A word that no sounding rides on. -/
theorem State.sounded_of_not_soundable (done s : State) {i : Instr} (h : soundable i = false) : done.sounded s i = done := by
  unfold State.sounded
  split
  · rfl
  · simp [h]

theorem State.countWord_teams (s : State) (ls : List Lane) (l : Lane) : (s.countWord ls l).teams = s.teams := by
  unfold State.countWord
  split
  · rfl
  · exact s.count_teams _ _ _ _

end Sys2Proof.Machine

/-! ## A step -/

namespace Sys2Proof.Machine
open Sys2Proof Sys2Proof.Claims

theorem step_of_periodDue {s : State} (h : (s.period + 1) * 2 ^ 20 ≤ s.time) : step s = execPolicyPeriodEnd s := by
  have hd : s.periodDue = true := decide_eq_true h
  rw [step, hd, if_pos rfl]

theorem step_of_act {s t : State} (h : s.time < (s.period + 1) * 2 ^ 20) (ha : s.act = .next t) : step s = .next t.tick := by
  have hd : s.periodDue = false := decide_eq_false (Nat.not_le.mpr h)
  rw [step, hd, ha]
  rfl

section
variable {s : State}

theorem State.act_input {i : Input} {r : List Input} (h : s.inputs = i :: r) : s.act = .next (({ s with inputs := r } : State).input i) := by
  rw [State.act, h]

theorem State.act_event {e : Instr} {r : List Instr} (h : s.inputs = []) (hs : s.sched = e :: r) (he : e.isWord = false) :
    s.act = exec e { s with sched := r } := by
  rw [State.act, h, hs]
  simp only [he, Bool.false_eq_true, if_false]

theorem State.act_word {e : Instr} {r : List Instr} (h : s.inputs = []) (hs : s.sched = e :: r) (he : e.isWord = true) :
    s.act = .next { s with sched := r } := by
  rw [State.act, h, hs]
  simp only [he, if_true]

theorem State.act_issue {l : Lane} (h : s.inputs = []) (hs : s.sched = []) (hl : s.lead = some l) : s.act = s.issueWord exec := by
  rw [State.act, h, hs]
  simp only [hl, Option.isSome_some, if_true]

/-! ### The word that issues -/

/-- Where no word of the chain raises anything in an active lane, its lanes go on. -/
theorem State.chainTraps_of_none {is : List Instr} (h : ∀ m ∈ s.actives, ∀ i ∈ is, s.chainCause m i = none) : s.chainTraps is = s := by
  unfold State.chainTraps eachActive
  refine List.foldlRecOn (motive := fun t => t = s) _ _ rfl fun t ht n hn => ?_
  subst ht
  split
  · next m hm =>
    have hnone : is.findSome? (t.chainCause m) = none := List.findSome?_eq_none_iff.mpr (h m (List.mem_filterMap.mpr ⟨n, hn, hm⟩))
    simp only [hnone, Option.elim_none]
  · rfl

/-- The state in which a word of lane l runs, when it has been fetched with the words that chain after it. -/
def State.issuing (s c : State) (l : Lane) (f : Fetched) : State :=
  { c.beginTeam l with
    latch := { c := f.hdr.c, s := f.hdr.s, chained := s.latch.chained, pc := l.pc, len := f.len, pipes := f.pipe :: s.latch.pipes, raised := s.latch.raised },
    lastWord := tset l.quarter { tid := l.id.tid, seq := l.seq, index := (s.team? l.id.tid).elim 0 (·.index), pc := l.pc } c.lastWord }

section
variable {run : Instr → State → Host.Outcome State Fault Refusal} {l : Lane} {v c : State} {f : Fetched} {is : List Instr}

/-- A word that a bundle has fetched, its chain raising nothing: it waits for its pipe, or it runs. -/
theorem State.issueWord_fetched (hl : s.lead = some l) (hlo : (s.objOf l).1 ≤ l.pc.toNat) (hhi : l.pc.toNat < (s.objOf l).1 + (s.objOf l).2)
    (hf : s.fetchAt l l.pc.toNat (s.slotOf l) = (v, .word f))
    (hc : (if s.latch.chained then (v, .words []) else v.chainWords l f l.pc.toNat (s.slotOf l) 2) = (c, .words is))
    (hact : c.actives ≠ []) (hcause : ∀ m ∈ c.actives, ∀ i ∈ is, c.chainCause m i = none) :
    s.issueWord run =
      if s.latch.pipes.contains f.pipe then .next c.splitChain
      else
        match (match (s.issuing c l f).breakAt l with
          | some k => (s.issuing c l f).runBroken run f.instr k
          | none => run f.instr (s.issuing c l f)) with
        | .next done =>
          .next (((done.countWord (s.issuing c l f).actives l).sounded (s.issuing c l f) f.instr).afterWord f (s.actives.map (·.id))
            ((s.actives.filter (·.ss)).map (·.id)) l.pc)
        | e => e := by
  have hin : ¬ (l.pc.toNat < (s.objOf l).1 ∨ (s.objOf l).1 + (s.objOf l).2 ≤ l.pc.toNat) := by omega
  have hne : c.actives.isEmpty = false := by simpa using hact
  unfold State.issueWord
  simp only [hl, hin, hf, hc, State.chainTraps_of_none hcause, hne, if_false, Bool.false_eq_true]
  rfl

end

end

end Sys2Proof.Machine

/-! ## Fetching and decoding -/

namespace Sys2Proof.Machine
open Sys2Proof Sys2Proof.Claims

theorem State.chainWords_end {s : State} {f : Fetched} (h : f.hdr.c = false) (l : Lane) (a slot k : Nat) :
    s.chainWords l f a slot k = (s, .words []) := by
  cases k with
  | zero => rfl
  | succ k => rw [State.chainWords, h]; rfl

theorem State.chainWords_legal {s v c : State} {l : Lane} {f g : Fetched} {a slot k : Nat} {is : List Instr} (h : f.hdr.c = true)
    (hf : s.fetchAt l (a + f.len) (slot + f.len / 4) = (v, .word g)) (hl : s.illegalAt l g.instr = none)
    (hr : v.chainWords l g (a + f.len) (slot + f.len / 4) k = (c, .words is)) :
    s.chainWords l f a slot (k + 1) = (c, .words (g.instr :: is)) := by
  rw [State.chainWords]
  simp only [h, hf, hl, hr, Bool.not_true, Bool.false_eq_true, if_false, Option.isSome_none]

theorem State.chainCause_illegal {s : State} {l : Lane} {i : Instr} {x : Nat} (h : s.illegalAt l i = some x) :
    s.chainCause l i = some (0x01, x, 0) := by
  unfold State.chainCause
  split
  · next y hy =>
    rw [h] at hy
    cases hy
    rfl
  · next hy =>
    rw [h] at hy
    cases hy

/-- What decoding a fetched word gives, in its slot. -/
theorem decodeAt_eq_some_iff (slot w e : Nat) (f : Fetched) : decodeAt slot w e = some f ↔ decodeInstr w e = .ok f.instr ∧ f.hdr = decodeHdr w ∧
    f.len = (if isTwoWord w then 8 else 4) ∧ f.pipe = pipeOf (majorOf w) ∧ ¬ (isTwoWord w = true ∧ slot = 2) ∧
    ¬ (f.hdr.c = true ∧ slot * 4 + f.len = 12) := by
  unfold decodeAt
  dsimp only
  generalize (if isTwoWord w then 8 else 4) = len
  by_cases h : isTwoWord w = true ∧ slot = 2
  · have hb : (isTwoWord w && slot == 2) = true := by simpa using h
    rw [hb, if_pos rfl]
    exact iff_of_false (fun hn => nomatch hn) fun ⟨_, _, _, _, hnot, _⟩ => hnot h
  · have hb : (isTwoWord w && slot == 2) = false := by simpa using h
    rw [hb, if_neg Bool.false_ne_true]
    cases decodeInstr w e with
    | error r => exact iff_of_false (fun hn => nomatch hn) fun ⟨hn, _⟩ => nomatch hn
    | ok i =>
      by_cases hc : (decodeHdr w).c = true ∧ slot * 4 + len = 12
      · have hcb : ((decodeHdr w).c && slot * 4 + len == 12) = true := by simpa using hc
        simp only [hcb, if_true]
        refine iff_of_false (fun hn => nomatch hn) fun ⟨_, hh, hlen, _, _, hnot⟩ => hnot ?_
        rw [hh, hlen]
        exact hc
      · have hcb : ((decodeHdr w).c && slot * 4 + len == 12) = false := by simpa using hc
        simp only [hcb, Bool.false_eq_true, if_false]
        constructor
        · rintro ⟨⟩
          exact ⟨rfl, rfl, rfl, rfl, h, hc⟩
        · rintro ⟨hi, hh, hlen, hpipe, -, -⟩
          obtain ⟨hdr, instr, l, pipe⟩ := f
          cases hi
          subst hh hlen hpipe
          rfl

theorem State.fetchAt_one {s v : State} {l : Lane} {a slot : Nat} {bs : List Byte} {f : Fetched} (h : s.fetch l a = (v, .data bs))
    (h1 : isTwoWord (leNat bs) = false) (hd : decodeAt slot (leNat bs) 0 = some f) : s.fetchAt l a slot = (v, .word f) := by
  unfold State.fetchAt
  simp only [h, h1, hd, Bool.false_and, Bool.false_eq_true, if_false]

theorem State.fetchAt_two {s v u : State} {l : Lane} {a slot : Nat} {bs cs : List Byte} {f : Fetched} (h : s.fetch l a = (v, .data bs))
    (h2 : isTwoWord (leNat bs) = true) (hs : slot < 2) (hn : v.fetch l (a + 4) = (u, .data cs))
    (hd : decodeAt slot (leNat bs) (leNat cs) = some f) : s.fetchAt l a slot = (u, .word f) := by
  unfold State.fetchAt
  simp only [h, h2, hs, hn, hd, decide_true, Bool.and_self, if_true]

/-- A fetch in HBM reaches its place, whatever object its frame belongs to. -/
theorem State.reach_fetch {s u : State} {v : Via} {va n : Nat} {x : Phys} (htr : s.translate v.who va .fetch = (u, .ok x)) (hhost : x.attr ≠ .hostc)
    (hin : inHbm x.addr = true) (hperf : u.ownCheck v.who.part x.addr false = .performed)
    (haway : x.attr = .device → u.away (x.addr / 128) = false) (hbusy : x.attr ≠ .device → u.lineBusy (x.addr / 128) v.agent false = false) :
    s.reach v va n .fetch = (u, .at x) := by
  have hpeer : inPeer x.addr = false := by
    simp only [inHbm, decide_eq_true_eq] at hin
    simp only [inPeer, Bool.and_eq_false_iff, decide_eq_false_iff_not]
    exact .inl (by omega)
  have hnw : (Use.fetch == Use.write) = false := rfl
  have hnw' : ¬ (Use.fetch = Use.write) := by decide
  have hgath : (x.attr ≠ .device && u.lineBusy (x.addr / 128) v.agent false) = false := by
    by_cases hd : x.attr = .device
    · simp [hd]
    · simp [hbusy hd]
  have hdev : ¬ (x.attr = .device ∧ u.away (x.addr / 128) = true) := fun ⟨h1, h2⟩ => by simp [haway h1] at h2
  unfold State.reach State.reachBut
  simp only [htr, hpeer, inCap_of_inHbm hin, hnw, hnw', hperf, hgath, hdev, Bool.false_eq_true, if_false]
  cases u.codeAt v.who.part x.codeKey <;> rfl

/-- What a lane of a launched object fetches from HBM. -/
theorem State.fetch_launched {s u : State} {l : Lane} {a : Nat} {x : Phys} (hobj : l.obj = .launched) (htr : s.translate (s.who l) a .fetch = (u, .ok x))
    (hhost : x.attr ≠ .hostc) (hacc : x.attr ≠ .acc) (hin : inHbm x.addr = true) (hperf : u.ownCheck l.part x.addr false = .performed)
    (haway : x.attr = .device → u.away (x.addr / 128) = false)
    (hbusy : x.attr ≠ .device → u.lineBusy (x.addr / 128) (Fin.ofNat 10 (l.die % 4)) false = false)
    (hmash : (u.line (x.addr / 128)).mash = false) (hpois : x.addr / 128 ∉ u.poison) :
    ∃ v, s.fetch l a = (v, .data (readBytes u.mem x.addr 4)) ∧ u.Quiet v := by
  have hr : s.reach (s.via l) a 4 .fetch = (u, .at x) := State.reach_fetch (v := s.via l) htr hhost hin hperf haway hbusy
  obtain ⟨t, ht, hq⟩ := State.readAt_plain (v := s.via l) (n := 4) (l2Slice_ne_home l) hin hmash hpois
  refine ⟨t, ?_, hq⟩
  unfold State.fetch
  simp only [hobj, hr, ht, State.seenAt, hacc, if_false]

/-! ## Time -/

/-- A cycle of a partition's banks changes their counts and may trigger a fix. -/
theorem State.partCycle_eq (s : State) (p : Nat) (x : Part) : ∃ b f, s.partCycle p x = { x with banks := b, fixPend := f } := by
  unfold State.partCycle
  dsimp only
  split
  · unfold Part.trigger
    split <;> exact ⟨_, _, rfl⟩
  · exact ⟨_, _, rfl⟩

theorem tget_map_of_eq {α : Type} {d : α} {k : Nat} {t : Tbl α} {f : Nat × α → Nat × α} (hf : ∀ e, (f e).1 = e.1) {R : α → α → Prop}
    (hd : R d d) (hR : ∀ e, R e.2 (f e).2) : R (tget d k t) (tget d k (t.map f)) := by
  induction t with
  | nil => exact hd
  | cons e r ih =>
    obtain ⟨j, y⟩ := e
    have hj : (f (j, y)).1 = j := hf (j, y)
    rw [List.map_cons, show f (j, y) = (j, (f (j, y)).2) from Prod.ext hj rfl, tget, tget]
    split
    · exact hR (j, y)
    · exact ih

theorem State.tick_kept (s : State) : Kept s s.tick := by
  refine ⟨rfl, fun _ => rfl, fun p => ?_⟩
  refine tget_map_of_eq (R := fun x y : Part => ∃ b f, y = { x with banks := b, fixPend := f }) (fun e => ?_) ⟨_, _, rfl⟩ fun e => ?_
  · split <;> rfl
  · split
    · exact ⟨_, _, rfl⟩
    · exact s.partCycle_eq e.1 e.2

end Sys2Proof.Machine

section
open Sys2Proof Sys2Proof.Machine Sys2Proof.Claims

/-- Settles O57, by following a step through what it looks at first, and a word through its fetch, its chain and its issue. -/
theorem stepRunsDecoded : Obligations.StepRunsDecoded := by
  refine ⟨fun s h => step_of_periodDue h, fun s h => ⟨fun i r hi => step_of_act h (State.act_input hi), fun e r hi hs => ⟨fun he t ht => ?_, fun he => ?_⟩, ?_⟩,
    fun s v l f g a slot k => ⟨fun hc => State.chainWords_end hc l a slot k, fun hc hf hl c is hr => State.chainWords_legal hc hf hl hr,
      fun i x => State.chainCause_illegal⟩,
    fun s v l a slot bs h => ⟨fun h1 f hd => State.fetchAt_one h h1 hd, fun h2 hs u cs f hn hd => State.fetchAt_two h h2 hs hn hd⟩,
    decodeAt_eq_some_iff, fun m => ?_, ?_, fun s => ⟨rfl, rfl, rfl, rfl, Nat.le_add_right _ _, s.tick_kept⟩⟩
  · exact step_of_act h ((State.act_event hi hs he).trans ht)
  · exact step_of_act h (State.act_word hi hs he)
  · intro l hi hs hl o v c f is hlo hhi hf hc hact hcause
    have hchain : (if s.latch.chained then (v, .words []) else v.chainWords l f l.pc.toNat (s.slotOf l) 2) = (c, ChainRes.words is) := by
      obtain ⟨hch, rfl, rfl⟩ | ⟨hch, hw⟩ := hc
      · rw [hch]; rfl
      · rw [hch]; exact hw
    have hissue := State.issueWord_fetched (run := exec) hl hlo hhi hf hchain hact hcause
    refine ⟨fun hp => ?_, ?_⟩
    · refine step_of_act h ((State.act_issue hi hs hl).trans ?_)
      rw [hissue, if_pos (by simpa using hp)]
      rfl
    · intro hp w hbrk x hx
      refine ⟨(x.countWord w.actives l).sounded w f.instr, ?_, (State.sounded_teams _ _ _).trans (State.countWord_teams _ _ _),
        fun hsnd => State.sounded_of_not_soundable _ _ hsnd⟩
      refine step_of_act h ((State.act_issue hi hs hl).trans ?_)
      have hbrk' : (s.issuing c l f).breakAt l = none := hbrk
      have hx' : exec f.instr (s.issuing c l f) = .next x := hx
      rw [hissue, if_neg (by simpa using hp), hbrk']
      simp only [hx']
      rfl
  · unfold pipeOf
    refine ⟨fun hm => if_pos hm, fun h1 h2 => ?_, fun hm => ?_, fun hm => ?_, fun hm => ?_, fun hm => ?_, fun hm => ?_, fun hm => ?_⟩
    · rw [if_neg (by omega), if_pos (by omega)]
    · rw [if_neg (by omega), if_neg (by omega), if_neg (by omega), if_pos (by omega)]
    · rw [if_neg (by omega), if_neg (by omega), if_pos hm]
    · rw [if_neg (by omega), if_neg (by omega), if_neg (by omega), if_neg (by omega), if_pos hm]
    · rw [if_neg (by omega), if_neg (by omega), if_neg (by omega), if_neg (by omega), if_neg (by omega), if_neg (by omega), if_neg (by omega)]
    · rw [if_neg (by omega), if_neg (by omega), if_neg (by omega), if_neg (by omega), if_neg (by omega), if_pos hm]
    · rw [if_neg (by omega), if_neg (by omega), if_neg (by omega), if_neg (by omega), if_neg (by omega), if_neg (by omega), if_pos hm]
  · intro s u l a x hobj htr hhost hacc hin hperf haway hbusy hmash hpois
    obtain ⟨v, hv, hq⟩ := State.fetch_launched hobj htr hhost hacc hin hperf haway hbusy hmash hpois
    exact ⟨v, hv, hq.1, fun b => sameMem_of_quiet hq b, kept_of_quiet hq⟩

end


/-! ## A page fault is recorded as an ordered atomic is performed -/

namespace Sys2Proof.Machine
open Sys2Proof Sys2Proof.Claims

/-- An ATOM.add of 32 bits that adds 16 to the word at 0x100, held for its turn; its result is the deferred one of number 0. -/
def heldAtom : OrderedAtom :=
  { id := 0, lane := ⟨0, 0, 0⟩, instr := .atom 3 4 6 .add .b32 true .lane .rlx 0, srcs := [0x100, 0, 0x10], n := some 0, pc := 0x10040, sent := none }
/-- Its launch: one team has been placed. -/
def heldLaunch : Launch := { newLaunch 1 programRecord 0 none 0 [] false with placed := 1 }
/-- Its lane, which has met a page fault that no record tells of yet. -/
def heldLane : Lane :=
  { newLane 0 heldLaunch 0 0 0 0 0 with pfault := some ({ reason := 1, va := 0x50000, write := false, fetch := false }, 0x10040, 0) }
def heldTeam : Team :=
  { tid := 0, part := 0, seq := 1, index := 0, cluster := 0, set := 0, groups := [newGroup programRecord 0], macros := [], cvs := [],
    tiles := [], bars := [], handles := [], smode := [], ordered := [heldAtom], begun := true }
/-- An active partition whose virtual addresses below 0x20000 are device addresses, the first frame its own, with its fault queue at 0x2000. -/
def heldState : State :=
  { State.reset with
    boot := .ready, lanes := [heldLane], teams := [heldTeam], nextTid := 1, nextId := 1, fot := [(0, 0x100)]
    parts := [(0, { part0 with state := .active, ctxs := [(0, 0x20000 * 2 ^ 128 + 0x38 * 2 ^ 288)], window := [heldLaunch],
                               fq := { ring0 4 with en := true, base := 0x2000 } })] }

/-- A byte of memory after a step. -/
def byteAfter (o : Host.Outcome State Fault Refusal) (a : Nat) : Option Byte :=
  match o with
  | .next t => some (readByte t.mem a)
  | _ => none

theorem heldState_plainAt : PlainAt heldState heldState heldLane 0x100 4 .write { attr := .normal, addr := 0x100 } := by
  unfold PlainAt PlaceAt ReachesAt
  decide +kernel

theorem heldState_turn : heldState.orderedTurn heldLane = true := by decide +kernel

/-- The lane's page fault is recorded as its atomic is performed: a byte of the fault queue has changed. -/
theorem heldState_records : byteAfter (exec (.orderedAtomRelease 0) heldState) 0x2000 = some 1 := by decide +kernel
end Sys2Proof.Machine

section
open Sys2Proof Sys2Proof.Machine Sys2Proof.Claims

/-- Refutes O32: the clause on ordered atomics performed in their turn says that every byte but those of the new value keeps its value, also where a
lane has a page fault to take; but the release settles the lane, and the PAGE record of such a fault goes to the fault queue in memory (R229, R231). -/
theorem not_atomics : ¬ Obligations.Atomics := by
  intro h
  obtain ⟨-, -, -, hrelease, -⟩ := h
  obtain ⟨t, ht, hstored, -⟩ := hrelease heldState heldState heldTeam heldAtom heldLane { attr := .normal, addr := 0x100 } rfl
    (by decide +kernel) (List.mem_singleton.mpr rfl) (by simp [heldTeam]) rfl heldState_turn (by decide) heldState_plainAt (by decide)
  have hbyte := hstored 16 (by decide +kernel) 0x2000
  have hkept : readByte t.mem 0x2000 = 0 := hbyte
  have hrecord := heldState_records
  rw [show heldTeam.tid = 0 from rfl] at ht
  rw [ht] at hrecord
  simp only [byteAfter, hkept] at hrecord
  exact absurd hrecord (by decide)

end


/-! ## A lane that names another queue leaves the bundle of a lane that names none -/

namespace Sys2Proof.Machine
open Sys2Proof Sys2Proof.Claims

/-- An active lane of the held launch in a lane slot: it has waited at a queue, or at none. -/
def queueLane (slot : Nat) (waited : Option Nat) : Lane :=
  { newLane 0 heldLaunch 0 0 0 0 slot with issuing := true, qmac := waited }
/-- The lane in slot 0 has waited at SRAM 5, which is no queue; the lane with slot number 32 is not among `actives`, and names SRAM 0. -/
def strayState : State :=
  { State.reset with
    boot := .ready, nextTid := 1, nextId := 1, parts := [(0, { part0 with state := .active, tvec := 0x10000, window := [heldLaunch] })]
    lanes := [queueLane 0 (some 5), queueLane 32 none]
    teams := [{ heldTeam with ordered := [], macros := [0] }]
    clusters := [(0, { cluster0 with sram := [(0, { sram0 with mode := .queue })] })] }

/-- Which lanes issue after a step. -/
def issuingAfter (o : Host.Outcome State Fault Refusal) : Option (List Bool) :=
  match o with
  | .next t => some (t.lanes.map (·.issuing))
  | _ => none

theorem strayState_lead : strayState.lead = some (queueLane 0 (some 5)) := by decide +kernel
theorem strayState_actives : strayState.actives = [queueLane 0 (some 5)] := by decide +kernel
theorem strayState_queueOf : strayState.queueOf (queueLane 0 (some 5)) 0 = none := by decide +kernel
theorem strayState_legal : strayState.illegalAt (queueLane 0 (some 5)) (.qpush 0 0) = none := by decide +kernel

/-- QPUSH stalls the lane that names another queue before the others trap. -/
theorem strayState_qpush : issuingAfter (exec (.qpush 0 0) strayState) = some [false, false] := by decide +kernel
/-- Traps in the lanes of `actives` alone leave it issuing. -/
theorem strayState_raises : issuingAfter (.next (eachActive strayState fun s k => s.raise k (k.causeHere 0x0A 0 0))) = some [false, true] := by
  decide +kernel
end Sys2Proof.Machine

section
open Sys2Proof Sys2Proof.Machine Sys2Proof.Claims

/-- Refutes O36: the clause on a bundle whose lanes name no queue asks it of the lanes in `actives` only, the first issuing lane of each of the slots
0 to 31, and says that nothing but their traps happens; but QPUSH first takes out of the bundle every issuing lane that names another queue than
the lead, and so one with a slot number past 31. -/
theorem not_queuesAndModes : ¬ Obligations.QueuesAndModes := by
  intro h
  obtain ⟨hqueues, -⟩ := h
  obtain ⟨-, -, hnone, -⟩ := hqueues 0 0 strayState (queueLane 0 (some 5)) strayState_lead
  have hactives : ∀ k ∈ strayState.actives, strayState.queueOf k 0 = none := by
    rw [strayState_actives]
    intro k hk
    rw [List.mem_singleton.mp hk]
    exact strayState_queueOf
  have hnext := hnone (by decide +kernel) hactives (.qpush 0 0) (by simp) ⟨_, strayState_lead, strayState_legal⟩
  have hstalled := strayState_qpush
  rw [hnext] at hstalled
  exact absurd (strayState_raises.symm.trans hstalled) (by decide)

end


/-! ## A write that waits at another line fills a poisoned line -/

namespace Sys2Proof.Machine
open Sys2Proof Sys2Proof.Claims

/-- A line whose dirty owner token agent 0 of die 0 holds. -/
def dirtyLine : Line :=
  { line0 with holds := (line0.holds.set 0 { hold0 with t := 1, owner := true, valid := true, dirty := true }).set 8 { hold0 with t := 15 } }
/-- Line 5 is dirty on die 0; a write of all its bytes waits at line 7. -/
def crossedState : State :=
  { State.reset with boot := .ready, lines := [(5, dirtyLine), (7, { line0 with waiting := [.write 640 (List.replicate 128 1)] })] }

/-- Is a line poisoned after a step? -/
def poisonAfter (o : Host.Outcome State Fault Refusal) (ln : Nat) : Option Bool :=
  match o with
  | .next t => some (t.poison.contains ln)
  | _ => none

/-- The loss of die 0 poisons line 5, and then serves what waits at line 7, which fills line 5 anew. -/
theorem crossedState_dieLost : poisonAfter (exec (.dieLost 0) crossedState) 5 = some false := by decide +kernel
end Sys2Proof.Machine

section
open Sys2Proof Sys2Proof.Machine Sys2Proof.Claims

/-- Refutes O44: the clause that a line is poisoned whose dirty owner token the lost die held says nothing of the other lines; but the same step then
serves what waits at each line, and a write that waits at another line and covers this one whole fills it and clears its poison. -/
theorem not_hostAndDieLoss : ¬ Obligations.HostAndDieLoss := by
  rintro ⟨-, -, hlost⟩
  obtain ⟨t, ht, -, -, -, -, -, -, hlines⟩ := hlost crossedState 0 List.Pairwise.nil (by decide)
  obtain ⟨-, -, hpoison⟩ := hlines rfl (fun m hm => absurd hm (List.not_mem_nil)) (5, dirtyLine) (by simp [crossedState]) rfl rfl rfl rfl rfl
    (by decide) (by decide)
  have hmem : 5 ∈ t.poison := hpoison ⟨0, by decide⟩ (by decide)
  have hclean := crossedState_dieLost
  rw [show exec (.dieLost 0) crossedState = .next t from ht] at hclean
  simp [poisonAfter, hmem] at hclean

end


/-! ## The scratch space: swizzles, pieces, writes -/

namespace Sys2Proof.Machine
open Sys2Proof Sys2Proof.Claims

/-- A swizzle of 2^k SRAMs, code by code (R114). -/
theorem swizzle_two_pow (code k w : Nat) : swizzle code (2 ^ k) w =
    if code = 0 then (w % 2 ^ k, w / 2 ^ k)
    else if code = 1 then ((w % 2 ^ k) ^^^ (w / 2 ^ k % 2 ^ k), w / 2 ^ k)
    else if code = 2 then ((w % 2 ^ k) ^^^ (2 * (w / 2 ^ k) % 2 ^ k), w / 2 ^ k)
    else if code = 3 then ((w % 2 ^ k) ^^^ (4 * (w / 2 ^ k) % 2 ^ k), w / 2 ^ k)
    else if code = 4 then ((w % 2 ^ k + w / 2 ^ k) % 2 ^ k, w / 2 ^ k)
    else if code = 5 then ((w + w / 2 ^ k) % 2 ^ k, (w + w / 2 ^ k) / 2 ^ k)
    else if code = 6 then ((w + w / 2 ^ (k + 1)) % 2 ^ k, (w + w / 2 ^ (k + 1)) / 2 ^ k)
    else (w / 2 ^ k % 2 ^ k, w / 2 ^ (2 * k) * 2 ^ k + w % 2 ^ k) := by
  simp only [swizzle, Nat.log2_two_pow]
  rfl

theorem eq_of_mod_div {n w w' : Nat} (hm : w % n = w' % n) (hd : w / n = w' / n) : w = w' := by
  rw [← Nat.div_add_mod w n, hm, hd, Nat.div_add_mod]

/-- Adding to a word its quotient keeps words apart: codes 5 and 6. -/
theorem eq_of_add_div {n w w' : Nat} (h : w + w / n = w' + w' / n) : w = w' := by
  rcases Nat.le_total w w' with hle | hle <;> have := Nat.div_le_div_right (c := n) hle <;> omega

/-- Every swizzle keeps words apart. -/
theorem swizzle_inj {code k w w' : Nat} (h : swizzle code (2 ^ k) w = swizzle code (2 ^ k) w') : w = w' := by
  rw [swizzle_two_pow, swizzle_two_pow] at h
  have hpos : 0 < 2 ^ k := Nat.two_pow_pos k
  split at h
  · obtain ⟨hm, hd⟩ := Prod.mk.inj h
    exact eq_of_mod_div hm hd
  iterate 3
    split at h
    · obtain ⟨hm, hd⟩ := Prod.mk.inj h
      rw [hd] at hm
      exact eq_of_mod_div (Nat.xor_left_inj.mp hm) hd
  split at h
  · obtain ⟨hm, hd⟩ := Prod.mk.inj h
    rw [hd] at hm
    have hmod : w % 2 ^ k ≡ w' % 2 ^ k [MOD 2 ^ k] := Nat.ModEq.add_right_cancel' _ hm
    exact eq_of_mod_div (by simpa [Nat.ModEq] using hmod) hd
  split at h
  · obtain ⟨hm, hd⟩ := Prod.mk.inj h
    exact eq_of_add_div (eq_of_mod_div hm hd)
  split at h
  · obtain ⟨hm, hd⟩ := Prod.mk.inj h
    exact eq_of_add_div (eq_of_mod_div hm hd)
  · obtain ⟨hr, hq⟩ := Prod.mk.inj h
    have hrow : ∀ x, (x / 2 ^ (2 * k) * 2 ^ k + x % 2 ^ k) % 2 ^ k = x % 2 ^ k := fun x => by
      rw [Nat.mul_comm, Nat.mul_add_mod, Nat.mod_mod]
    have hc : w % 2 ^ k = w' % 2 ^ k := by rw [← hrow w, hq, hrow]
    have hd : w / 2 ^ k / 2 ^ k = w' / 2 ^ k / 2 ^ k := by
      rw [hc] at hq
      rw [Nat.div_div_eq_div_mul, Nat.div_div_eq_div_mul, ← Nat.pow_add, ← Nat.two_mul]
      exact Nat.eq_of_mul_eq_mul_right hpos (Nat.add_right_cancel hq)
    exact eq_of_mod_div hc (eq_of_mod_div hr hd)

/-- A swizzle names one of the n positions. -/
theorem swizzle_macro_lt (code k w : Nat) : (swizzle code (2 ^ k) w).1 < 2 ^ k := by
  have hmod : ∀ x, x % 2 ^ k < 2 ^ k := fun x => Nat.mod_lt x (Nat.two_pow_pos k)
  have hxor : ∀ x y, (x % 2 ^ k) ^^^ (y % 2 ^ k) < 2 ^ k := fun x y => Nat.xor_lt_two_pow (hmod x) (hmod y)
  rw [swizzle_two_pow]
  split_ifs <;> simp only [hmod, hxor]

/-- A swizzle without padding names one of the 6,144 words of an SRAM. -/
theorem swizzle_word_lt {code n w : Nat} (hcode : code ≠ 5 ∧ code ≠ 6) (hn : n ∈ [8, 16, 32]) (hw : w < n * 6144) :
    (swizzle code n w).2 < 6144 := by
  obtain ⟨h5, h6⟩ := hcode
  simp only [List.mem_cons, List.not_mem_nil, or_false] at hn
  have hr : ∀ k, n = 2 ^ k → w / 2 ^ k < 6144 := fun k hk => Nat.div_lt_of_lt_mul (hk ▸ hw)
  obtain ⟨k, rfl, hk⟩ : ∃ k, n = 2 ^ k ∧ (k = 3 ∨ k = 4 ∨ k = 5) := by
    rcases hn with rfl | rfl | rfl
    · exact ⟨3, rfl, by simp⟩
    · exact ⟨4, rfl, by simp⟩
    · exact ⟨5, rfl, by simp⟩
  have hrow : w / 2 ^ k < 6144 := hr k rfl
  rw [swizzle_two_pow, if_neg h5, if_neg h6]
  iterate 5
    split
    · exact hrow
  · rcases hk with rfl | rfl | rfl <;> simp only [] <;> omega

/-- The bytes of an access that its first k words hold. -/
theorem sum_pieceLens (a n k : Nat) (hk : k ≤ (a + n + 7) / 8 - a / 8) :
    ((List.range k).map fun i => min (a + n) (8 * (a / 8 + i) + 8) - max a (8 * (a / 8 + i))).sum = min (a + n) (max a (8 * (a / 8 + k))) - a := by
  induction k with
  | zero => simp; omega
  | succ k ih =>
    rw [List.range_succ, List.map_append, List.sum_append, ih (by omega)]
    simp only [List.map_cons, List.map_nil, List.sum_cons, List.sum_nil]
    omega

/-- An access outside the scratch space falls on no word (R109). -/
theorem pieces_eq_none {list : List Nat} {code : Nat} {a : Int} {n : Nat} (h : a < 0 ∨ list.length * 49152 < a.toNat + n) :
    pieces list code a n = none := if_pos h

/-- The words of an access hold its bytes, each within a word of its SRAM. -/
theorem of_pieces_eq_some {list : List Nat} {code : Nat} {a : Int} {n : Nat} {ps : List Piece} (h : pieces list code a n = some ps) :
    (ps.map (·.len)).sum = n ∧ ∀ p ∈ ps, p.word < 6144 ∧ p.byte + p.len ≤ 8 := by
  unfold pieces at h
  split at h
  · exact absurd h (by simp)
  · dsimp only at h
    split at h
    · exact absurd h (by simp)
    · rename_i hin
      obtain rfl := Option.some.inj h
      refine ⟨?_, fun p hp => ⟨?_, ?_⟩⟩
      · rw [List.map_map]
        refine (sum_pieceLens a.toNat n _ le_rfl).trans ?_
        omega
      · have hword : ¬ macroWords ≤ p.word := fun hle => hin (List.any_eq_true.mpr ⟨p, hp, by simpa using hle⟩)
        exact Nat.lt_of_not_le hword
      · obtain ⟨i, hi, rfl⟩ := List.mem_map.mp hp
        dsimp only
        have := List.mem_range.mp hi
        omega

/-- An SRAM of a cluster. -/
def State.sramAt (s : State) (c m : Nat) : Sram := tget sram0 m (s.cluster c).sram

/-- The SRAMs after a change of one. -/
theorem State.modMacro_sramAt (s : State) (c m : Nat) (f : Sram → Sram) (c' m' : Nat) :
    (s.modMacro c m f).sramAt c' m' = if c' = c ∧ m' = m then f (s.sramAt c m) else s.sramAt c' m' := by
  unfold State.modMacro State.sramAt
  rw [modCluster_cluster]
  by_cases hc : c' = c
  · subst hc
    rw [if_pos rfl]
    unfold Cluster.modMacro
    rw [tget_tmod]
    by_cases hm : m' = m
    · rw [if_pos hm, if_pos ⟨rfl, hm⟩, hm]
    · rw [if_neg hm, if_neg fun h => hm h.2]
  · rw [if_neg hc, if_neg fun h => hc h.1]

/-- An SRAM after one piece has been written into it (R115, R489). -/
def Sram.putPiece (x : Sram) (code : Nat) (p : Piece) (bs : List Byte) : Sram :=
  { x with data := writeBytes x.data (8 * p.word + p.byte) bs, tags := tset p.word code x.tags,
           poison := if p.len = 8 then x.poison.filter (· != p.word) else x.poison }

theorem State.writePieces_cons (s : State) (c code : Nat) (p : Piece) (ps : List Piece) (bs : List Byte) :
    s.writePieces c code (p :: ps) bs =
      (s.modMacro c p.mac fun x => x.putPiece code p (bs.take p.len)).writePieces c code ps (bs.drop p.len) := rfl

/-- A written piece changes the bytes of its own alone. -/
theorem Sram.putPiece_byte {x : Sram} (hx : x.data.wf = true) (code : Nat) (p : Piece) (bs : List Byte) {b : Nat}
    (hb : b < 8 * p.word + p.byte ∨ 8 * p.word + p.byte + p.len ≤ b) :
    readByte (x.putPiece code p (bs.take p.len)).data b = readByte x.data b := by
  have hlen := List.length_take_le p.len bs
  rw [Sram.putPiece, readByte_writeBytes hx, if_neg (by omega)]

section Write
variable (c code : Nat)

/-- The SRAMs of a cluster are well formed after a piece has been written. -/
theorem State.wf_putPiece {s : State} (h : ∀ m, (s.sramAt c m).data.wf = true) (p : Piece) (bs : List Byte) (m : Nat) :
    ((s.modMacro c p.mac fun x => x.putPiece code p bs).sramAt c m).data.wf = true := by
  rw [State.modMacro_sramAt]
  split
  · exact Memory.wf_writeBytes (h p.mac) _ _
  · exact h m

theorem State.writePieces_byte {s : State} {ps : List Piece} {bs : List Byte} (h : ∀ m, (s.sramAt c m).data.wf = true) {m b : Nat}
    (hb : ∀ p ∈ ps, p.mac = m → b < 8 * p.word + p.byte ∨ 8 * p.word + p.byte + p.len ≤ b) :
    readByte ((s.writePieces c code ps bs).sramAt c m).data b = readByte (s.sramAt c m).data b := by
  induction ps generalizing s bs with
  | nil => rfl
  | cons p ps ih =>
    rw [State.writePieces_cons, ih (State.wf_putPiece c code h p _) fun q hq => hb q (List.mem_cons_of_mem _ hq), State.modMacro_sramAt]
    split
    · next hm => rw [Sram.putPiece_byte (h p.mac) code p bs (hb p List.mem_cons_self hm.2.symm), hm.2]
    · rfl

theorem State.writePieces_tag_of_ne {s : State} {ps : List Piece} {bs : List Byte} {m w : Nat} (hw : ∀ p ∈ ps, p.mac = m → p.word ≠ w) :
    tget 8 w ((s.writePieces c code ps bs).sramAt c m).tags = tget 8 w (s.sramAt c m).tags := by
  induction ps generalizing s bs with
  | nil => rfl
  | cons p ps ih =>
    rw [State.writePieces_cons, ih fun q hq => hw q (List.mem_cons_of_mem _ hq), State.modMacro_sramAt]
    split
    · next hm => rw [Sram.putPiece, tget_tset, if_neg (hw p List.mem_cons_self hm.2.symm).symm, hm.2]
    · rfl

/-- A word with the access's tag keeps it. -/
theorem State.writePieces_tag_of_eq {s : State} {ps : List Piece} {bs : List Byte} {m w : Nat}
    (h : tget 8 w (s.sramAt c m).tags = code) : tget 8 w ((s.writePieces c code ps bs).sramAt c m).tags = code := by
  induction ps generalizing s bs with
  | nil => exact h
  | cons p ps ih =>
    rw [State.writePieces_cons]
    apply ih
    rw [State.modMacro_sramAt]
    split
    · next hm =>
      rw [Sram.putPiece, tget_tset]
      split
      · rfl
      · rw [← hm.2, h]
    · exact h

theorem State.writePieces_tag {s : State} {ps : List Piece} {bs : List Byte} {p : Piece} (hp : p ∈ ps) :
    tget 8 p.word ((s.writePieces c code ps bs).sramAt c p.mac).tags = code := by
  induction ps generalizing s bs with
  | nil => exact absurd hp List.not_mem_nil
  | cons q ps ih =>
    rw [State.writePieces_cons]
    rcases List.mem_cons.mp hp with rfl | hp
    · exact State.writePieces_tag_of_eq c code (by rw [State.modMacro_sramAt, if_pos ⟨rfl, rfl⟩, Sram.putPiece, tget_tset, if_pos rfl])
    · exact ih hp

/-- One piece read: its bytes, unless its word is poisoned. -/
theorem State.readPieces_single (s : State) (p : Piece) : s.readPieces c [p] =
    if p.word ∈ (s.sramAt c p.mac).poison then none else some (readBytes (s.sramAt c p.mac).data (8 * p.word + p.byte) p.len) := by
  simp only [State.readPieces, List.any_cons, List.any_nil, Bool.or_false, List.contains_eq_mem, decide_eq_true_eq, List.flatMap_cons,
    List.flatMap_nil, List.append_nil]
  rfl

/-- A piece reads back as it was written, where its word is whole or was not poisoned (R236, R489). -/
theorem State.readPieces_writePieces {s : State} {p : Piece} {bs : List Byte} (h : (s.sramAt c p.mac).data.wf = true)
    (hlen : bs.length = p.len) (hp : p.len = 8 ∨ p.word ∉ (s.sramAt c p.mac).poison) :
    (s.writePieces c code [p] bs).readPieces c [p] = some bs := by
  have hclean : p.word ∉ ((s.sramAt c p.mac).putPiece code p bs).poison := by
    rw [Sram.putPiece]
    split
    · simp
    · next h8 => exact hp.resolve_left h8
  rw [State.writePieces_cons, State.writePieces, State.readPieces_single, List.take_of_length_le hlen.le, State.modMacro_sramAt,
    if_pos (c := c = c ∧ p.mac = p.mac) ⟨rfl, rfl⟩, if_neg hclean, Sram.putPiece, ← hlen, readBytes_writeBytes h]

end Write
end Sys2Proof.Machine

section
open Sys2Proof Sys2Proof.Machine Sys2Proof.Claims

/-- Settles O34, code by code for the swizzles, and for a write by induction on its pieces. -/
theorem scratchSpace : Obligations.ScratchSpace := by
  have hpow : ∀ n ∈ [8, 16, 32], ∃ k, n = 2 ^ k := by
    intro n hn
    simp only [List.mem_cons, List.not_mem_nil, or_false] at hn
    rcases hn with rfl | rfl | rfl
    · exact ⟨3, rfl⟩
    · exact ⟨4, rfl⟩
    · exact ⟨5, rfl⟩
  refine ⟨fun code _ n hn w w' h => ?_, fun code _ n hn w hw => ⟨?_, fun h5 h6 => swizzle_word_lt ⟨h5, h6⟩ hn hw⟩,
    fun _ _ _ _ => pieces_eq_none, fun _ _ _ _ _ => of_pieces_eq_some, fun s c code ps bs hwf =>
      ⟨fun _ _ => State.writePieces_byte c code hwf, fun _ _ => State.writePieces_tag_of_ne c code, fun _ => State.writePieces_tag c code, ?_⟩⟩
  · obtain ⟨k, rfl⟩ := hpow n hn
    exact swizzle_inj h
  · obtain ⟨k, rfl⟩ := hpow n hn
    exact swizzle_macro_lt code k w
  · rintro p rfl hlen hp
    exact State.readPieces_writePieces c code (hwf p.mac) hlen hp

end


/-! ## LDS and STS -/

namespace Sys2Proof.Machine
open Sys2Proof Sys2Proof.Claims

/-- The scratch address of a lane's LDS or STS (R446). -/
def scratchAt (l : Lane) (a : VReg) (z : Size) (k : BitVec 5) : Int := (l.getV a).toNat + k.toInt * z.bytes

/-- What the two words have in common: their bytes lie at the scratch address, under their swizzle. -/
structure IsScratch (i : Instr) (a : VReg) (z : Size) (w : Fin 8) (k : BitVec 5) : Prop where
  onScratch : ∀ srcs, onScratch i srcs = true
  align : alignLog i = Nat.log2 z.bytes
  cause : ∀ s l, State.accessCause s l i (srcsOf l i) =
    (alignCause i (scratchAt l a z k)).orElse fun _ => rangeCause (s.scratchPieces l i (srcsOf l i)) (scratchAt l a z k)
  pieces : ∀ s l, State.scratchPieces s l i (srcsOf l i) = pieces (s.scratchList (s.teamOf l)) w.val (scratchAt l a z k) z.bytes

theorem scratchAddr_vs (l : Lane) (a : VReg) (k : BitVec 5) (z : Size) : scratchAddr (srcAt (l.vs a 1) 0) k z = scratchAt l a z k := by
  have hv : srcAt (l.vs a 1) 0 = l.getV a := congrArg l.getV (Fin.ext (Nat.mod_eq_of_lt a.isLt))
  rw [scratchAddr, hv, scratchAt]

theorem isScratch_lds (d a : VReg) (z : Size) (w : Fin 8) (k : BitVec 5) : IsScratch (.lds d a z w k) a z w k :=
  ⟨fun _ => rfl, rfl, fun s l => by rw [← scratchAddr_vs]; rfl, fun s l => by rw [← scratchAddr_vs]; rfl⟩

theorem isScratch_sts (d a : VReg) (z : Size) (w : Fin 8) (k : BitVec 5) : IsScratch (.sts d a z w k) a z w k :=
  ⟨fun _ => rfl, rfl, fun s l => by rw [← scratchAddr_vs]; rfl, fun s l => by rw [← scratchAddr_vs]; rfl⟩

theorem two_pow_log2_bytes (z : Size) : 2 ^ Nat.log2 z.bytes = z.bytes := by cases z <;> decide

/-- What such a word does in a lane, s0 being the state in which it issued: k is its access in its turn. -/
def scratchAct (i : Instr) (k : State → Lane → List Word → State) (s0 s : State) (l : Lane) : State :=
  if (s.teamOf l).converting || s.behindStore s0 l i (srcsOf l i) then s.setLane l.stall
  else
    match s.accessCause l i (srcsOf l i) with
    | some c => s.raise l (l.causeHere c.1 c.2.1 c.2.2)
    | none => inOrder s l i (srcsOf l i) (k s l (srcsOf l i))

section
variable {i : Instr} {a : VReg} {z : Size} {w : Fin 8} {b : BitVec 5} {k : State → Lane → List Word → State} {s0 s : State} {l : Lane}

theorem IsScratch.accessWord_next (h : IsScratch i a z w b) (hl : Legal s i) : accessWord i s k = .next (eachActive s (scratchAct i k s)) := by
  obtain ⟨m, hlead, hlegal⟩ := hl
  rw [accessWord, guarded_next hlead hlegal]
  simp only [h.onScratch, Bool.true_and]
  rfl

theorem scratchAct_waits (h : (s.teamOf l).converting = true ∨ s.behindStore s0 l i (srcsOf l i) = true) :
    scratchAct i k s0 s l = s.setLane l.stall := if_pos (by simpa using h)

/-- A lane that neither waits for a conversion nor stands behind a store takes its cause, or goes on. -/
theorem scratchAct_eq (hc : (s.teamOf l).converting = false) (hb : s.behindStore s0 l i (srcsOf l i) = false) : scratchAct i k s0 s l =
    match s.accessCause l i (srcsOf l i) with
    | some c => s.raise l (l.causeHere c.1 c.2.1 c.2.2)
    | none => inOrder s l i (srcsOf l i) (k s l (srcsOf l i)) := by
  rw [scratchAct, hc, hb]
  rfl

theorem IsScratch.cause_misaligned (h : IsScratch i a z w b) (ha : scratchAt l a z b % z.bytes ≠ 0) :
    s.accessCause l i (srcsOf l i) = some (0x04, Nat.log2 z.bytes, BitVec.ofInt 64 (scratchAt l a z b)) := by
  have hmod : scratchAt l a z b % 2 ^ alignLog i ≠ 0 := by
    rwa [h.align, show (2 : Int) ^ Nat.log2 z.bytes = (z.bytes : Int) from by exact_mod_cast two_pow_log2_bytes z]
  rw [h.cause, alignCause, if_pos hmod, h.align]
  rfl

theorem IsScratch.cause_aligned (h : IsScratch i a z w b) (ha : scratchAt l a z b % z.bytes = 0) :
    s.accessCause l i (srcsOf l i) = rangeCause (s.scratchPieces l i (srcsOf l i)) (scratchAt l a z b) := by
  have hmod : ¬ scratchAt l a z b % 2 ^ alignLog i ≠ 0 := by
    rwa [h.align, show (2 : Int) ^ Nat.log2 z.bytes = (z.bytes : Int) from by exact_mod_cast two_pow_log2_bytes z, not_not]
  rw [h.cause, alignCause, if_neg hmod]
  rfl

/-- What such a word does in a lane that performs it: ALIGN, then SCRATCH_RANGE, at the word; else its access in its order. -/
theorem IsScratch.act (h : IsScratch i a z w b) (hc : (s.teamOf l).converting = false) (hb : s.behindStore s0 l i (srcsOf l i) = false) :
    let list := s.scratchList (s.teamOf l)
    (scratchAt l a z b % z.bytes ≠ 0 →
      scratchAct i k s0 s l = s.raise l (l.causeHere 0x04 (Nat.log2 z.bytes) (BitVec.ofInt 64 (scratchAt l a z b)))) ∧
    (scratchAt l a z b % z.bytes = 0 → Machine.pieces list w.val (scratchAt l a z b) z.bytes = none →
      scratchAct i k s0 s l = s.raise l (l.causeHere 0x06 0 (BitVec.ofInt 64 (scratchAt l a z b)))) ∧
    (scratchAt l a z b % z.bytes = 0 → ∀ ps, Machine.pieces list w.val (scratchAt l a z b) z.bytes = some ps →
      Waits s l i (scratchAct i k s0 s l) ∧ (InTurn s l i → scratchAct i k s0 s l = k s l (srcsOf l i))) := by
  rw [scratchAct_eq hc hb]
  refine ⟨fun ha => ?_, fun ha hps => ?_, fun ha ps hps => ?_⟩
  · rw [h.cause_misaligned ha]
  · rw [h.cause_aligned ha, h.pieces, hps]
    rfl
  · rw [h.cause_aligned ha, h.pieces, hps]
    exact ⟨inOrder_waits s l i _, fun ht => inOrder_of_inTurn ht _⟩

end

/-! ### The words' own steps -/

/-- LDS in its turn: it notes its bytes, or issues again where the lane has no room for another result. -/
def ldsStep (i : Instr) (s : State) (l : Lane) (srcs : List Word) : State := if !l.room then s.setLane l.stall else s.noteAccess l i srcs
/-- STS in its turn. -/
def stsStep (i : Instr) (d : VReg) (z : Size) (w : Fin 8) (s : State) (l : Lane) (srcs : List Word) : State :=
  match s.scratchPieces l i srcs with
  | none => s
  | some ps => (s.writePieces l.cluster w.val ps (leBytes (wordsNat (l.vs d (regsOf z))) z.bytes)).setLane (l.adv 4)

section
variable {d a : VReg} {z : Size} {w : Fin 8} {b : BitVec 5} {s : State} {l : Lane} {ps : List Piece}

theorem stsStep_eq (h : pieces (s.scratchList (s.teamOf l)) w.val (scratchAt l a z b) z.bytes = some ps) :
    stsStep (.sts d a z w b) d z w s l (srcsOf l (.sts d a z w b)) =
      (s.writePieces l.cluster w.val ps (leBytes (wordsNat (l.vs d (regsOf z))) z.bytes)).setLane (l.adv 4) := by
  rw [stsStep, (isScratch_sts d a z w b).pieces, h]

theorem ldsStep_full {i : Instr} {srcs : List Word} (h : l.room = false) : ldsStep i s l srcs = s.setLane l.stall := by
  rw [ldsStep, h]
  rfl

/-- What performing LDS gives: the bytes of its pieces, or its poison. -/
theorem perform_lds (n : Nat) (h : pieces (s.scratchList (s.teamOf l)) w.val (scratchAt l a z b) z.bytes = some ps)
    (hc : (s.teamOf l).converting = false) :
    s.perform l n (.lds d a z w b) (srcsOf l (.lds d a z w b)) =
      match s.readPieces l.cluster ps with
      | some bs => (s, .got (leNat bs) .ready)
      | none => (s, .got 0 (s.scratchUe l.cluster ps fun _ => BitVec.ofInt 64 (scratchAt l a z b))) := by
  unfold State.perform
  simp only [(isScratch_lds d a z w b).pieces, h, hc, Bool.false_eq_true, if_false]
  rw [← scratchAddr_vs]
  rfl

theorem ldsStep_data {bs : List Byte} (hr : l.room = true) (h : pieces (s.scratchList (s.teamOf l)) w.val (scratchAt l a z b) z.bytes = some ps)
    (hc : (s.teamOf l).converting = false) (hbs : s.readPieces l.cluster ps = some bs) :
    ldsStep (.lds d a z w b) s l (srcsOf l (.lds d a z w b)) =
      s.setLane ((l.defer (.lds d a z w b) (l.vs a 1) (regsFrom d (regsOf z) (leNat bs)) [] 0 .ready).adv 4) := by
  have hp := perform_lds (d := d) l.nextDef h hc
  rw [hbs] at hp
  rw [ldsStep, hr]
  exact noteAccess_got hp

/-- Where a read finds poison there is a first poisoned word. -/
theorem State.poisonedPiece_of_readPieces {c : Nat} (h : s.readPieces c ps = none) : ∃ p, s.poisonedPiece c ps = some p := by
  unfold State.readPieces at h
  dsimp only at h
  split at h
  · next hany =>
    rw [List.any_eq_true] at hany
    exact Option.isSome_iff_exists.mp (List.find?_isSome.mpr hany)
  · cases h

theorem ldsStep_poison (hr : l.room = true) (h : pieces (s.scratchList (s.teamOf l)) w.val (scratchAt l a z b) z.bytes = some ps)
    (hc : (s.teamOf l).converting = false) (hbs : s.readPieces l.cluster ps = none) :
    ldsStep (.lds d a z w b) s l (srcsOf l (.lds d a z w b)) =
      s.setLane ((l.defer (.lds d a z w b) (l.vs a 1) (regsFrom d (regsOf z) 0) [] 0
        (.dataUe 4 (BitVec.ofInt 64 (scratchAt l a z b)) true)).adv 4) := by
  obtain ⟨p, hpoison⟩ := State.poisonedPiece_of_readPieces hbs
  have hp := perform_lds (d := d) l.nextDef h hc
  rw [hbs, State.scratchUe, hpoison] at hp
  rw [ldsStep, hr]
  exact noteAccess_got hp

end

/-! ### The counts of a bundle -/

theorem State.countScratch_eq {s : State} {l : Lane} (h : s.lead = some l) (i : Instr) (load : Option Nat) :
    s.countScratch i load =
      let ps := s.bundlePieces i
      let c := conflictCycles ps (s.scratchList (s.teamOf l)).length
      let x := load.elim 0 fun code => s.crossWords l.cluster code ps
      let u := if c = 0 then s else s.countLane l 0x08 c
      if x = 0 then u else u.countLane l 0x09 x := by
  unfold State.countScratch
  rw [h]
  rfl

theorem State.quiet_countScratch (s : State) (i : Instr) (load : Option Nat) : s.Quiet (s.countScratch i load) := by
  have hcount : ∀ (t : State) (l : Lane) (ev n : Nat), s.Quiet t → s.Quiet (if n = 0 then t else t.countLane l ev n) := by
    intro t l ev n h
    split
    · exact h
    · exact h.trans (t.quiet_countLane l ev n)
  unfold State.countScratch
  split
  · exact .refl s
  · exact hcount _ _ _ _ (hcount s _ _ _ (.refl s))

/-- A lane's launch record is not changed by what counts events. -/
theorem laneRec_of_kept {s t : State} (h : Kept s t) (l : Lane) : t.laneRec l = s.laneRec l := by
  obtain ⟨-, -, hparts⟩ := h
  obtain ⟨b, f, hp⟩ := hparts l.part
  unfold State.laneRec State.recOf State.launch? Part.launch?
  rw [hp]

theorem lead_of_lanes {s t : State} (h : t.lanes = s.lanes) : t.lead = s.lead := by
  unfold State.lead State.activeAt
  rw [h]

/-- Counting leaves a legal word legal. -/
theorem legal_of_quiet {s t : State} {i : Instr} (h : s.Quiet t) (hl : Legal s i) : Legal t i := by
  obtain ⟨l, hlead, hill⟩ := hl
  refine ⟨l, (lead_of_lanes h.1).trans hlead, ?_⟩
  rw [State.illegalAt, laneRec_of_kept (kept_of_quiet h)]
  exact hill

section
variable {d a : VReg} {z : Size} {w : Fin 8} {b : BitVec 5} {s : State}

theorem execLds_next (h : Legal s (.lds d a z w b)) :
    let u := s.countScratch (.lds d a z w b) (some w.val)
    execLds d a z w b s = .next (eachActive u (scratchAct (.lds d a z w b) (ldsStep (.lds d a z w b)) u)) := by
  have hlegal := legal_of_quiet (s.quiet_countScratch (.lds d a z w b) (some w.val)) h
  obtain ⟨l, hlead, hill⟩ := h
  unfold execLds
  rw [hlead]
  simp only [hill, Option.isNone_none, if_true]
  exact (isScratch_lds d a z w b).accessWord_next hlegal

theorem execSts_next (h : Legal s (.sts d a z w b)) :
    let u := s.countScratch (.sts d a z w b) none
    execSts d a z w b s = .next (eachActive u (scratchAct (.sts d a z w b) (stsStep (.sts d a z w b) d z w) u)) := by
  have hlegal := legal_of_quiet (s.quiet_countScratch (.sts d a z w b) none) h
  obtain ⟨l, hlead, hill⟩ := h
  unfold execSts
  rw [hlead]
  simp only [hill, Option.isNone_none, if_true]
  exact (isScratch_sts d a z w b).accessWord_next hlegal

end

theorem State.performsScratch_iff (s : State) (i : Instr) (l : Lane) :
    s.performsScratch i l = true ↔ s.accessCause l i (srcsOf l i) = none ∧ firsts s l i = [] ∧
      (immediateScratch i = true ∨ l.room = true) ∧ (s.teamOf l).converting = false := by
  have hfirst : ((!(s.pendings l).any (s.comesFirst l i (srcsOf l i))) = true) ↔ firsts s l i = [] := by
    simp [firsts, List.filter_eq_nil_iff]
  simp only [State.performsScratch, Bool.and_eq_true, Bool.or_eq_true, hfirst, Option.isNone_iff_eq_none, Bool.not_eq_true', and_assoc]

/-- The largest number of a list is one of them, and no smaller than any. -/
theorem max?_getD_spec {xs : List Nat} (h : xs ≠ []) : xs.max?.getD 0 ∈ xs ∧ ∀ x ∈ xs, x ≤ xs.max?.getD 0 := by
  cases hm : xs.max? with
  | none => exact absurd (List.max?_eq_none_iff.mp hm) h
  | some m => exact List.max?_eq_some_iff.mp hm

/-- The conflict cycles of a bundle: the most words that one SRAM has, less what n of them serve at once. -/
theorem conflictCycles_spec {ps : List Piece} {n : Nat} (hn : 0 < n) (hps : ps ≠ []) : let words := (ps.map fun p => (p.mac, p.word)).eraseDups
    ∃ d, (∀ m, (words.filter fun y => y.1 == m).length ≤ d) ∧ (∃ m, (words.filter fun y => y.1 == m).length = d) ∧
      conflictCycles ps n = d - (words.length + n - 1) / n := by
  intro words
  have hwords : words ≠ [] := by
    obtain ⟨p, hp⟩ := List.exists_mem_of_ne_nil ps hps
    exact List.ne_nil_of_mem (List.mem_eraseDups.mpr (List.mem_map.mpr ⟨p, hp, rfl⟩))
  obtain ⟨hmem, hle⟩ := max?_getD_spec (xs := words.map fun w => (words.filter fun x => x.1 == w.1).length) (by simpa using hwords)
  refine ⟨_, fun m => ?_, ?_, by rw [conflictCycles, Nat.max_eq_left hn]; rfl⟩
  · by_cases hm : ∃ y ∈ words, y.1 = m
    · obtain ⟨y, hy, rfl⟩ := hm
      exact hle _ (List.mem_map.mpr ⟨y, hy, rfl⟩)
    · have hnone : (words.filter fun y => y.1 == m) = [] := by
        rw [List.filter_eq_nil_iff]
        exact fun y hy hbeq => hm ⟨y, hy, by simpa using hbeq⟩
      rw [hnone]
      exact Nat.zero_le _
  · obtain ⟨y, -, hy⟩ := List.mem_map.mp hmem
    exact ⟨y.1, hy⟩

end Sys2Proof.Machine

section
open Sys2Proof Sys2Proof.Machine Sys2Proof.Claims

/-- Settles O35: LDS and STS are one shape of word, which counts first, and each has its own step where it is performed. -/
theorem scratchAccesses : Obligations.ScratchAccesses := by
  refine ⟨fun d a z w i store => ?_, fun ps n => conflictCycles_spec⟩
  cases store with
  | false =>
    have h := isScratch_lds d a z w i
    refine ⟨scratchAct (.lds d a z w i) (ldsStep (.lds d a z w i)), fun s hl => execLds_next hl, fun s0 s l => ?_, fun s l => ⟨?_, fun hlead => ?_⟩⟩
    · have hb : s.behindStore s0 l (.lds d a z w i) (srcsOf l (.lds d a z w i)) = false := State.behindStore_of_unordered rfl _
      refine ⟨fun hw => scratchAct_waits (.inl (hw.resolve_right fun hs => nomatch hs.1)), fun hc _ => ?_⟩
      obtain ⟨halign, hrange, hgo⟩ := h.act (k := ldsStep (.lds d a z w i)) hc hb
      refine ⟨halign, hrange, fun ha ps hps => ?_⟩
      obtain ⟨hwaits, hturn⟩ := hgo ha ps hps
      refine ⟨hwaits, fun ht => ⟨nofun, fun _ hr => (hturn ht).trans (ldsStep_full hr), fun _ hr => ⟨fun bs hbs => ?_, fun hbs => ?_⟩⟩⟩
      · exact (hturn ht).trans (ldsStep_data hr hps hc hbs)
      · exact (hturn ht).trans (ldsStep_poison hr hps hc hbs)
    · simpa [immediateScratch] using s.performsScratch_iff (.lds d a z w i) l
    · exact State.countScratch_eq hlead _ _
  | true =>
    have h := isScratch_sts d a z w i
    refine ⟨scratchAct (.sts d a z w i) (stsStep (.sts d a z w i) d z w), fun s hl => execSts_next hl, fun s0 s l => ?_, fun s l => ⟨?_, fun hlead => ?_⟩⟩
    · have hlate : s.behindStore s0 l (.sts d a z w i) (srcsOf l (.sts d a z w i)) = true ↔ StoresLate s0 s l (.sts d a z w i) :=
        behindStore_iff rfl s0 s l
      refine ⟨fun hw => scratchAct_waits (hw.imp_right fun hs => hlate.mpr hs.2), fun hc hn => ?_⟩
      have hb : s.behindStore s0 l (.sts d a z w i) (srcsOf l (.sts d a z w i)) = false :=
        Bool.not_eq_true _ ▸ fun hbehind => hn ⟨rfl, hlate.mp hbehind⟩
      obtain ⟨halign, hrange, hgo⟩ := h.act (k := stsStep (.sts d a z w i) d z w) hc hb
      refine ⟨halign, hrange, fun ha ps hps => ?_⟩
      obtain ⟨hwaits, hturn⟩ := hgo ha ps hps
      exact ⟨hwaits, fun ht => ⟨fun _ => (hturn ht).trans (stsStep_eq hps), nofun, nofun⟩⟩
    · simpa [immediateScratch] using s.performsScratch_iff (.sts d a z w i) l
    · exact State.countScratch_eq hlead _ _

end


/-! ## Broken pins, tables by member, ranges of memory -/

namespace Sys2Proof.Machine
open Sys2Proof Sys2Proof.Claims

/-- The banks after the rows of some pins have been closed. -/
def closedRows (ps : List Pin) (b : Tbl Bank) : Tbl Bank :=
  ps.foldl (fun b p => tmod dbank0 (rowBank p.row) (fun y => { y with openRow := tdel (rowSag p.row) y.openRow }) b) b

/-- Counting an event changes the counter banks of a partition alone. -/
theorem State.count_eq (s : State) (p : Nat) (ctx : Option Nat) (ev n : Nat) : ∃ q, s.count p ctx ev n = { s with parts := q } := by
  unfold State.count
  split
  · exact ⟨s.parts, rfl⟩
  · exact ⟨_, rfl⟩

theorem State.closeRows_eq (f : State → Pin → Option Nat) (ps : List Pin) (s : State) :
    ∃ q, ps.foldl (fun s p => (s.closeRow p.row).count p.part (f s p) evPinBreak 1) s = { s with banks := closedRows ps s.banks, parts := q } := by
  induction ps generalizing s with
  | nil => exact ⟨s.parts, rfl⟩
  | cons p ps ih =>
    obtain ⟨q, hq⟩ := (s.closeRow p.row).count_eq p.part (f s p) evPinBreak 1
    rw [List.foldl_cons, hq]
    exact ih _

/-- A pin after those that satisfy f have broken. -/
def Pin.broken (f : Pin → Bool) (reason : Nat) (p : Pin) : Pin := if p.live && f p then { p with state := .broken reason } else p

/-- Breaking pins closes their rows and counts, and changes nothing else. -/
theorem State.breakPins_eq (s : State) (f : Pin → Bool) (reason : Nat) : ∃ q, s.breakPins f reason =
    { s with pins := s.pins.map (Pin.broken f reason), banks := closedRows (s.pins.filter fun p => p.live && f p) s.banks, parts := q } :=
  State.closeRows_eq State.pinCtx _ _

/-- The members of a table in which one key has been set. -/
theorem mem_tset {α : Type} {e : Nat × α} {k : Nat} {x : α} {t : Tbl α} (h : e ∈ tset k x t) : e = (k, x) ∨ e ∈ t := by
  induction t with
  | nil => exact .inl (List.mem_singleton.mp h)
  | cons y r ih =>
    rw [tset] at h
    split_ifs at h with hlt heq
    · exact List.mem_cons.mp h
    · exact (List.mem_cons.mp h).imp_right (List.mem_cons_of_mem _)
    · rcases List.mem_cons.mp h with rfl | h
      · exact .inr List.mem_cons_self
      · exact (ih h).imp_right (List.mem_cons_of_mem _)

theorem mem_tset_of_ne {α : Type} {e : Nat × α} {k : Nat} (x : α) {t : Tbl α} (hk : e.1 ≠ k) (h : e ∈ t) : e ∈ tset k x t := by
  induction t with
  | nil => exact absurd h List.not_mem_nil
  | cons y r ih =>
    rw [tset]
    split_ifs with hlt heq
    · exact List.mem_cons_of_mem _ h
    · rcases List.mem_cons.mp h with rfl | h
      · exact absurd heq.symm hk
      · exact List.mem_cons_of_mem _ h
    · rcases List.mem_cons.mp h with rfl | h
      · exact List.mem_cons_self
      · exact List.mem_cons_of_mem _ (ih h)

theorem mem_tdel {α : Type} {e : Nat × α} {k : Nat} {t : Tbl α} : e ∈ tdel k t ↔ e ∈ t ∧ e.1 ≠ k := by simp [tdel]

/-- Bytes that lie beside what is written stay. -/
theorem readBytes_writeBytes_apart {m : Memory} (hm : m.wf = true) {a c n : Nat} {bs : List Byte} (h : c + n ≤ a ∨ a + bs.length ≤ c) :
    readBytes (writeBytes m a bs) c n = readBytes m c n := by
  induction n generalizing c with
  | zero => rfl
  | succ n ih =>
    rw [readBytes, readBytes, ih (by omega), readByte_writeBytes hm, if_neg (by omega)]

end Sys2Proof.Machine

/-! ## Leases, the frame table, the scrub front, extents -/

namespace Sys2Proof.Machine
open Sys2Proof Sys2Proof.Claims

/-! ### Translations -/

theorem tlbLeaseExpiry_spec (n : Nat) (s : State) : ∃ t, exec (.tlbLeaseExpiry n) s = .next t ∧ { t with tlb := s.tlb } = s ∧
    ∀ e, e ∈ t.tlb ↔ e ∈ s.tlb ∧ (e.n = n → 7 * s.time < e.ends) := by
  refine ⟨_, rfl, rfl, fun e => ?_⟩
  simp only [List.mem_filter, Bool.not_eq_true', Bool.and_eq_false_iff, beq_eq_false_iff_ne, decide_eq_false_iff_not, Nat.not_le,
    ← imp_iff_not_or]

theorem ptsyncRead_spec (p : Nat) (s : State) : let f := Fn.vf (s.part p).vfp
    ((∀ w ∈ s.hostWait, w.data = none) → exec (.ptsyncRead p) s = .next (s.emit (.mmioData f 4 0))) ∧
    ((∃ w ∈ s.hostWait, w.data ≠ none) → exec (.ptsyncRead p) s =
      .next { s with hostWait := s.hostWait ++ [{ addr := 0, n := 0, data := none, sync := some (f, 4) }] }) := by
  have hmust : s.hostMust { addr := 0, n := 0, data := none, sync := some ((s.part p).primary, 4) } = true ↔ ∃ w ∈ s.hostWait, w.data ≠ none := by
    simp [State.hostMust, Option.isSome_iff_ne_none]
  refine ⟨fun h => ?_, fun h => ?_⟩
  · refine congrArg Host.Outcome.next (if_neg fun hw => ?_)
    obtain ⟨w, hmem, hdata⟩ := hmust.mp hw
    exact hdata (h w hmem)
  · exact congrArg Host.Outcome.next (if_pos (hmust.mpr h))

/-! ### The frame ownership table -/

/-- What a write of an entry reports (R146). -/
theorem State.fotStatus_spec (s : State) (f : Nat) (v : BitVec 16) :
    let old := s.fotOf f
    let st := s.fotStatus f v
    let dark := fld (s.part (fld v.toNat 10 6)).colours (f % 64) 1 = 0
    (8388608 ≤ f ∨ f ∈ s.reserved → st = 3) ∧
    (f < 8388608 → f ∉ s.reserved → (fld old.toNat 8 2 = 2 → st = 2) ∧ (fld old.toNat 8 2 = 1 → fld v.toNat 8 2 = 0 → st = 2) ∧
      (fld old.toNat 8 2 = 1 → fld v.toNat 8 2 ≠ 2 → fld v.toNat 10 6 ≠ fld old.toNat 10 6 → st = 2) ∧
      (fld old.toNat 8 2 = 0 → fld v.toNat 8 2 = 1 ∨ fld v.toNat 8 2 = 3 → (dark → st = 1) ∧ (¬ dark → st = 0))) := by
  dsimp only
  unfold State.fotStatus
  simp only [fotState, fotOwner, fotFrames, frameColour, List.contains_eq_mem, decide_eq_true_eq, beq_iff_eq]
  refine ⟨fun h => if_pos h, fun hf hr => ?_⟩
  rw [if_neg (by rintro (h | h); exacts [by omega, hr h])]
  refine ⟨fun h => if_pos (.inl h), fun h hv => if_pos (.inr (.inr ⟨h, hv⟩)), fun h hv ho => if_pos (.inr (.inl ⟨h, hv, ho⟩)), fun h hv => ?_⟩
  rw [if_neg (by omega)]
  exact ⟨fun hd => if_pos ⟨hd, .inl ⟨h, hv⟩⟩, fun hd => if_neg fun hbad => hd hbad.1⟩

theorem State.foldl_emit_eq {α : Type} (g : α → Out) (xs : List α) (s : State) :
    ∃ o, xs.foldl (fun s x => s.emit (g x)) s = { s with out := o } := by
  induction xs generalizing s with
  | nil => exact ⟨s.out, rfl⟩
  | cons x xs ih => exact ih (s.emit (g x))

/-- The recall that begins a scrub: what it drops, and that it changes nothing else. -/
theorem State.recall_eq (s : State) (f : Nat) : ∃ o b q, s.recall f =
    { s with
      out := o, lines := s.lines.filter (fun e => !(e.1 / 512 == f)), net := s.net.filter (fun m => !(m.line / 512 == f)),
      clusters := s.clusters.map fun e => (e.1, { e.2 with l1 := e.2.l1.filter fun x => !(x.line / 512 == f) }),
      fronts := tdel f s.fronts, pins := s.pins.map (Pin.broken (fun p => p.row / 64 == f) 3), banks := b, parts := q } := by
  unfold State.recall
  dsimp only
  obtain ⟨o, ho⟩ := State.foldl_emit_eq (fun ln => .bisnp ln true) 
    ((s.lines.filter fun e : Nat × Line => e.1 / 512 == f && decide (0 < e.2.holds[9].t)).map (·.1)) s
  rw [ho]
  obtain ⟨q, hq⟩ := State.breakPins_eq
    { s with
      out := o, lines := s.lines.filter (fun e => !(e.1 / 512 == f)), net := s.net.filter (fun m => !(m.line / 512 == f)),
      clusters := s.clusters.map fun e => (e.1, { e.2 with l1 := e.2.l1.filter fun x => !(x.line / 512 == f) }),
      fronts := tdel f s.fronts } (fun p => p.row / 64 == f) 3
  exact ⟨o, _, q, hq⟩

/-- No pin that was to break is still PINNED. -/
theorem Pin.broken_state {f : Pin → Bool} {reason : Nat} {p : Pin} (h : f (p.broken f reason) = true) :
    (p.broken f reason).state ≠ .pinned := by
  by_cases hb : (p.live && f p) = true
  · rw [Pin.broken, if_pos hb]
    simp
  · have hsame : p.broken f reason = p := if_neg hb
    rw [hsame] at h ⊢
    intro hp
    exact hb (by simp [Pin.live, hp, h])

theorem State.scrub_spec (s : State) (f : Nat) (v : BitVec 16) : let t := s.scrub f v
    t.fotOf f = v ∧ t.frontOf f = 0 ∧ t.fotstat = s.fotstat ∧ (∀ e ∈ t.lines, e.1 / 512 ≠ f) ∧ (∀ m ∈ t.net, m.line / 512 ≠ f) ∧
      (∀ p ∈ t.pins, p.row / 64 = f → p.state ≠ .pinned) ∧ (∀ c ∈ t.clusters, ∀ x ∈ c.2.l1, x.line / 512 ≠ f) ∧ t.mem = s.mem ∧ t.lanes = s.lanes := by
  obtain ⟨o, b, q, h⟩ := s.recall_eq f
  simp only [State.scrub, h, State.fotOf, State.frontOf, tget_tset, tget_tdel, if_true]
  refine ⟨trivial, trivial, trivial, fun e he => ?_, fun m hm => ?_, fun p hp hrow => ?_, fun c hc x hx => ?_, trivial, trivial⟩
  · simpa using (List.mem_filter.mp he).2
  · simpa using (List.mem_filter.mp hm).2
  · obtain ⟨y, -, rfl⟩ := List.mem_map.mp hp
    exact Pin.broken_state (f := fun p => p.row / 64 == f) (by simpa using hrow)
  · obtain ⟨e, -, rfl⟩ := List.mem_map.mp hc
    simpa using (List.mem_filter.mp hx).2

/-- A write of FOTDATA, by what it reports (R146). -/
theorem fotdataWrite_spec {s : State} (hboot : s.boot = .ready) (v : BitVec 16) :
    let f := s.fotidx
    let st := s.fotStatus f v
    (st ≠ 0 → exec (.fotdataWrite v) s = .next { s with fotstat := st }) ∧
    (st = 0 → fld v.toNat 8 2 ≠ 2 → exec (.fotdataWrite v) s = .next { s with fotstat := 0, fot := tset f (v &&& 0xFF80) s.fot }) ∧
    (st = 0 → fld v.toNat 8 2 = 2 → exec (.fotdataWrite v) s = .next (State.scrub { s with fotstat := 0 } f (v &&& 0xFF80))) := by
  have hexec : exec (.fotdataWrite v) s = .next (s.writeFot v) := congrArg Host.Outcome.next (if_pos hboot)
  rw [hexec]
  dsimp only
  unfold State.writeFot
  dsimp only
  refine ⟨fun h => by rw [if_pos h], fun h hv => ?_, fun h hv => ?_⟩
  · rw [if_neg (not_not.mpr h), if_neg (show ¬ fotState v = 2 from hv), h]
  · rw [if_neg (not_not.mpr h), if_pos (show fotState v = 2 from hv), h]

/-! ### The scrub front -/

theorem State.passFront_line {s : State} {f : Nat} (hst : fotState (s.fotOf f) = 2) (hf : s.frontOf f < 512) :
    ∃ po, s.passFront (65536 * f + 128 * s.frontOf f) =
      { s with mem := writeBytes s.mem (65536 * f + 128 * s.frontOf f) (zeros 128), poison := po, fronts := tset f (s.frontOf f + 1) s.fronts } := by
  unfold State.passFront
  have hframe : (65536 * f + 128 * s.frontOf f) / 65536 = f := by omega
  have hline : (65536 * f + 128 * s.frontOf f) / 128 % 512 = s.frontOf f := by omega
  have hlen : ((65536 * f + 128 * s.frontOf f) / 128 + 1) * 128 - (f * 65536 + s.frontOf f * 128) = 128 := by omega
  dsimp only
  rw [hframe, hline, if_pos ⟨hst, le_rfl⟩, hlen, Nat.mul_comm f, Nat.mul_comm (s.frontOf f)]
  exact ⟨_, rfl⟩

theorem zeros_getElem! (n i : Nat) : (zeros n)[i]! = 0 := by
  by_cases h : i < n
  · simp [zeros, h]
  · simp [zeros, Nat.le_of_not_lt h]
    rfl

theorem readByte_zeroed {m : Memory} (hm : m.wf = true) (f g a : Nat) :
    readByte (writeBytes m (65536 * f + 128 * g) (zeros 128)) a = if a / 128 = 512 * f + g then 0 else readByte m a := by
  rw [readByte_writeBytes hm]
  by_cases h : a / 128 = 512 * f + g
  · rw [if_pos h, if_pos (by simp only [zeros, List.length_replicate]; omega)]
    exact zeros_getElem! _ _
  · rw [if_neg h, if_neg (by simp only [zeros, List.length_replicate]; omega)]

theorem fotEnded_fields (e : BitVec 16) : fotState (fotEnded e) = (if fotThenFree e then 0 else 1) ∧ fotOwner (fotEnded e) = fotOwner e := by
  have ho : fotOwner e < 2 ^ 6 := fld_lt _ _ _
  unfold fotEnded fotState
  generalize hn : fotOwner e = n at ho
  unfold fotOwner fld
  rw [BitVec.toNat_ofNat]
  split <;> omega

theorem scrubFrontAdvance_spec {s : State} {f : Nat} (hst : fotState (s.fotOf f) = 2) (hr : f ∉ s.reserved) (hd : s.d3 = false)
    (hm : s.mem.wf = true) (hf : s.frontOf f < 512) : ∃ t, exec (.scrubFrontAdvance f) s = .next t ∧ t.lanes = s.lanes ∧
      (∀ a, readByte t.mem a = if a / 128 = 512 * f + s.frontOf f then 0 else readByte s.mem a) ∧
      (s.frontOf f < 511 → t.frontOf f = s.frontOf f + 1 ∧ t.fot = s.fot) ∧
      (s.frontOf f = 511 → fotState (t.fotOf f) = (if fotThenFree (s.fotOf f) then 0 else 1) ∧ fotOwner (t.fotOf f) = fotOwner (s.fotOf f)) := by
  obtain ⟨po, hpass⟩ := s.passFront_line hst hf
  have hgo : ¬ (fotState (s.fotOf f) ≠ 2 ∨ s.reserved.contains f = true ∨ s.d3 = true) := by simp [hst, hr, hd]
  change ∃ t, execScrubFrontAdvance f s = .next t ∧ _
  unfold execScrubFrontAdvance
  dsimp only
  rw [if_neg hgo, if_pos hf, hpass]
  split
  · next hlt =>
    refine ⟨_, rfl, rfl, ?_, fun _ => ⟨?_, rfl⟩, fun h => absurd h (by omega)⟩
    · intro a
      dsimp only
      rw [readByte_zeroed hm]
    simp only [State.frontOf, tget_tset, if_true]
  · next hge =>
    refine ⟨_, rfl, rfl, ?_, fun h => absurd h hge, fun _ => ?_⟩
    · intro a
      dsimp only
      rw [readByte_zeroed hm]
    simp only [State.fotOf, tget_tset, if_true]
    exact fotEnded_fields _

/-! ### Extents -/

theorem extentOfRaw_same (x : Extent) (raw : Nat) : extentOfRaw x raw raw = x := by
  obtain ⟨off, hpa, len, owner, state⟩ := x
  cases state <;> simp [extentOfRaw, extentCode]

theorem State.setExtent_eq (s : State) (n : Nat) (x : Extent) : ∃ raw, s.setExtent n x = { s with extents := tset n x s.extents, extRaw := raw } :=
  ⟨_, rfl⟩

/-- Where a line of an extent lies in host memory. -/
def extentAddr (x : Extent) (ln : Nat) : Nat := x.hpa + (128 * ln - 2 ^ 44 - x.off)

theorem extentAddr_apart {x : Extent} {k ln : Nat} (hk : Extent.covers x k = true) (hl : Extent.covers x ln = true) (hne : ln ≠ k) :
    extentAddr x ln + 128 ≤ extentAddr x k ∨ extentAddr x k + 128 ≤ extentAddr x ln := by
  simp only [Extent.covers, Bool.and_eq_true, decide_eq_true_eq] at hk hl
  unfold extentAddr
  omega

theorem State.capLine?_none {s : State} {k : Nat} (h : ∀ e ∈ s.capLines, e.1 ≠ k) : s.capLine? k = none := by
  rw [State.capLine?, List.find?_eq_none.mpr fun e he => by simpa using h e he]
  rfl

/-- Keys name one line each. -/
def CapKeyed (t : Tbl CapLine) : Prop := ∀ e ∈ t, ∀ e' ∈ t, e.1 = e'.1 → e = e'

theorem State.capLine?_some {s : State} (hk : CapKeyed s.capLines) {e : Nat × CapLine} (he : e ∈ s.capLines) : s.capLine? e.1 = some e.2 := by
  cases hf : s.capLines.find? (fun y => y.1 == e.1) with
  | none => exact absurd (beq_self_eq_true e.1) (List.find?_eq_none.mp hf e he)
  | some y =>
    rw [State.capLine?, hf, ← hk y (List.mem_of_find?_eq_some hf) e he (by simpa using List.find?_some hf)]
    rfl

/-- A line that leaves the home slices: what it changes. -/
theorem State.capDrop_eq (s : State) (k : Nat) : ∃ m c, s.capDrop k = { s with hostMem := m, capLines := c } ∧
    ∀ e, e ∈ c ↔ e ∈ s.capLines ∧ e.1 ≠ k := by
  unfold State.capDrop State.capBack
  dsimp only
  split
  · exact ⟨s.hostMem, _, rfl, fun e => mem_tdel⟩
  · next c hc =>
    have hmem : ∀ e : Nat × CapLine, e ∈ tdel k (tset k { c with dirty := false } s.capLines) ↔ e ∈ s.capLines ∧ e.1 ≠ k := by
      intro e
      rw [mem_tdel]
      refine ⟨fun ⟨h, hne⟩ => ⟨(mem_tset h).resolve_left fun heq => hne (by rw [heq]), hne⟩, fun ⟨h, hne⟩ => ⟨mem_tset_of_ne _ hne h, hne⟩⟩
    split
    · split
      · exact ⟨_, _, rfl, hmem⟩
      · exact ⟨s.hostMem, _, rfl, hmem⟩
    · exact ⟨s.hostMem, _, rfl, hmem⟩

theorem State.foldl_capDrop_eq (ks : List Nat) (s : State) : ∃ m c, ks.foldl State.capDrop s = { s with hostMem := m, capLines := c } ∧
    ∀ e, e ∈ c ↔ e ∈ s.capLines ∧ e.1 ∉ ks := by
  induction ks generalizing s with
  | nil => exact ⟨s.hostMem, s.capLines, rfl, fun e => by simp⟩
  | cons k ks ih =>
    obtain ⟨m, c, hk, hc⟩ := s.capDrop_eq k
    obtain ⟨m', c', hks, hc'⟩ := ih (s.capDrop k)
    refine ⟨m', c', ?_, fun e => ?_⟩
    · rw [List.foldl_cons, hks, hk]
    · rw [hc', hk, hc, List.mem_cons, not_or, and_assoc]

/-- What one line's leaving does to host memory: a dirty line goes to its place in its extent. -/
theorem State.capDrop_hostMem {s : State} {n : Nat} {x : Extent} (hx : s.extents = [(n, x)]) (hst : x.state ≠ .free) {k : Nat}
    (hk : Extent.covers x k = true) : (s.capDrop k).hostMem =
      (match s.capLine? k with
       | some c => if c.dirty then writeBytes s.hostMem (extentAddr x k) (c.data.take 128) else s.hostMem
       | none => s.hostMem) := by
  simp only [Extent.covers, Bool.and_eq_true, decide_eq_true_eq] at hk
  unfold State.capDrop State.capBack
  dsimp only
  split
  · next hc => rw [hc]
  · next c hc =>
    simp only [hx, hc, List.map_cons, List.map_nil, List.find?_cons, bne_iff_ne.mpr hst, hk.1, hk.2, decide_true, Bool.and_self]
    split <;> rfl

/-- The state of a drain: one extent in use, its lines of 128 bytes, each key once, host memory canonical. -/
structure Draining (s : State) (n : Nat) (x : Extent) : Prop where
  extents : s.extents = [(n, x)]
  mem : s.hostMem.wf = true
  keyed : CapKeyed s.capLines
  data : ∀ e ∈ s.capLines, e.2.data.length = 128

section
variable {s : State} {n : Nat} {x : Extent} {k : Nat}

theorem Draining.capDrop (h : Draining s n x) (hst : x.state ≠ .free) (hk : Extent.covers x k = true) : Draining (s.capDrop k) n x := by
  obtain ⟨m, c, heq, hc⟩ := s.capDrop_eq k
  have hsub : ∀ e ∈ (s.capDrop k).capLines, e ∈ s.capLines := fun e he => by rw [heq, hc] at he; exact he.1
  refine ⟨?_, ?_, fun e he e' he' => h.keyed e (hsub e he) e' (hsub e' he'), fun e he => h.data e (hsub e he)⟩
  · rw [heq]
    exact h.extents
  · rw [State.capDrop_hostMem h.extents hst hk]
    split
    · split
      · exact Memory.wf_writeBytes h.mem _ _
      · exact h.mem
    · exact h.mem

/-- The place of a line that is no longer held keeps its bytes. -/
theorem Draining.place_kept (h : Draining s n x) (hst : x.state ≠ .free) {ks : List Nat} (hks : ∀ k ∈ ks, Extent.covers x k = true) {ln : Nat}
    (hl : Extent.covers x ln = true) (hgone : ∀ e ∈ s.capLines, e.1 ≠ ln) :
    readBytes (ks.foldl State.capDrop s).hostMem (extentAddr x ln) 128 = readBytes s.hostMem (extentAddr x ln) 128 := by
  induction ks generalizing s with
  | nil => rfl
  | cons k ks ih =>
    have hk := hks k List.mem_cons_self
    obtain ⟨m, c, heq, hc⟩ := s.capDrop_eq k
    rw [List.foldl_cons, ih (h.capDrop hst hk) (fun j hj => hks j (List.mem_cons_of_mem _ hj)) fun e he => hgone e (by rw [heq, hc] at he; exact he.1),
      State.capDrop_hostMem h.extents hst hk]
    by_cases hne : ln = k
    · rw [← hne, State.capLine?_none hgone]
    · split
      · split
        · refine readBytes_writeBytes_apart h.mem ?_
          have := extentAddr_apart hk hl hne
          have := List.length_take_le 128 (by assumption : CapLine).data
          omega
        · rfl
      · rfl

/-- A dirty line that leaves is in host memory. -/
theorem Draining.written (h : Draining s n x) (hst : x.state ≠ .free) {ks : List Nat} (hks : ∀ k ∈ ks, Extent.covers x k = true) {e : Nat × CapLine}
    (he : e ∈ s.capLines) (hin : e.1 ∈ ks) (hd : e.2.dirty = true) :
    readBytes (ks.foldl State.capDrop s).hostMem (extentAddr x e.1) 128 = e.2.data := by
  induction ks generalizing s with
  | nil => exact absurd hin List.not_mem_nil
  | cons k ks ih =>
    have hk := hks k List.mem_cons_self
    have hrest : ∀ j ∈ ks, Extent.covers x j = true := fun j hj => hks j (List.mem_cons_of_mem _ hj)
    obtain ⟨m, c, heq, hc⟩ := s.capDrop_eq k
    rw [List.foldl_cons]
    by_cases hne : e.1 = k
    · have hlen : (e.2.data.take 128).length = 128 := by rw [List.length_take, h.data e he]; rfl
      rw [← hne] at hk heq hc ⊢
      rw [(h.capDrop hst hk).place_kept hst hrest hk fun y hy => by rw [heq, hc] at hy; exact hy.2, State.capDrop_hostMem h.extents hst hk,
        State.capLine?_some h.keyed he]
      simp only [hd, if_true]
      have hread := readBytes_writeBytes h.mem (extentAddr x e.1) (e.2.data.take 128)
      rw [hlen] at hread
      rw [hread, List.take_of_length_le (h.data e he).le]
    · exact ih (h.capDrop hst hk) hrest (by rw [heq, hc]; exact ⟨he, hne⟩) ((List.mem_cons.mp hin).resolve_left hne)

end

theorem capKeyed_of_sorted {t : Tbl CapLine} (h : (t.map (·.1)).Pairwise (· < ·)) : CapKeyed t := by
  intro e he e' he' hk
  exact List.inj_on_of_nodup_map (h.imp fun hlt => hlt.ne) he he' hk

/-- A drain's end: the extent's lines have left the homes, its dirty ones are in host memory, and its entry reads FREE (R148). -/
theorem extentDrainComplete_spec {s : State} {n : Nat} {x : Extent} (hf : s.extents.find? (fun e => e.1 == n) = some (n, x))
    (hst : x.state = .draining) : ∃ t, exec (.extentDrainComplete n) s = .next t ∧ t.extents = tset n { x with state := .free } s.extents ∧
      t.mem = s.mem ∧ t.lanes = s.lanes ∧
      (∀ n, 2 ^ 44 + x.off ≤ 128 * n → 128 * n < 2 ^ 44 + x.off + x.len →
        (∀ e ∈ t.capLines, e.1 ≠ n) ∧ (∀ e ∈ t.l3, n ∉ e.2) ∧ n ∉ t.poison) ∧
      (s.extents = [(n, x)] → s.hostMem.wf = true → (s.capLines.map (·.1)).Pairwise (· < ·) → (∀ e ∈ s.capLines, e.2.data.length = 128) →
        ∀ e ∈ s.capLines, e.2.dirty = true → 2 ^ 44 + x.off ≤ 128 * e.1 → 128 * e.1 < 2 ^ 44 + x.off + x.len →
          readBytes t.hostMem (x.hpa + (128 * e.1 - 2 ^ 44 - x.off)) 128 = e.2.data) := by
  have hcovers : ∀ k, Extent.covers x k = true ↔ 2 ^ 44 + x.off ≤ 128 * k ∧ 128 * k < 2 ^ 44 + x.off + x.len := fun k => by simp [Extent.covers]
  have hexec : exec (.extentDrainComplete n) s = .next ((s.dropExtent x).setExtent n { x with state := .free }) := by
    change execExtentDrainComplete n s = _
    unfold execExtentDrainComplete State.extent?
    rw [hf]
    exact if_pos hst
  have hmem : ∀ k, k ∈ (s.capLines.map (·.1)).filter (Extent.covers x) ↔ (∃ e ∈ s.capLines, e.1 = k) ∧ Extent.covers x k = true := fun k => by
    rw [List.mem_filter, List.mem_map]
  obtain ⟨m, c, hdrop, hc⟩ := State.foldl_capDrop_eq ((s.capLines.map (·.1)).filter (Extent.covers x)) s
  have hdropped : s.dropExtent x = { s with
      hostMem := m, capLines := c, l3 := s.l3.map fun e => (e.1, e.2.filter fun ln => !Extent.covers x ln),
      poison := s.poison.filter fun ln => !Extent.covers x ln } := by
    unfold State.dropExtent
    rw [hdrop]
  rw [hexec, hdropped]
  refine ⟨_, rfl, rfl, rfl, rfl, fun k hlo hhi => ⟨fun e he hk => ?_, fun e he hin => ?_, fun hin => ?_⟩, fun hx hwf hsorted hdata e he hd hlo hhi => ?_⟩
  · obtain ⟨hold, hnot⟩ := (hc e).mp he
    exact hnot ((hmem e.1).mpr ⟨⟨e, hold, rfl⟩, (hcovers e.1).mpr (hk ▸ ⟨hlo, hhi⟩)⟩)
  · obtain ⟨y, -, rfl⟩ := List.mem_map.mp he
    simp [(hcovers k).mpr ⟨hlo, hhi⟩] at hin
  · have hnot := (List.mem_filter.mp hin).2
    simp [(hcovers k).mpr ⟨hlo, hhi⟩] at hnot
  · have hdrain : Draining s n x := ⟨hx, hwf, capKeyed_of_sorted hsorted, hdata⟩
    have hwritten := hdrain.written (by simp [hst]) (ks := (s.capLines.map (·.1)).filter (Extent.covers x)) (fun k hk => ((hmem k).mp hk).2) he
      ((hmem e.1).mpr ⟨⟨e, he, rfl⟩, (hcovers e.1).mpr ⟨hlo, hhi⟩⟩) hd
    rw [hdrop] at hwritten
    exact hwritten

end Sys2Proof.Machine

section
open Sys2Proof Sys2Proof.Machine Sys2Proof.Claims

/-- Settles O46, one event at a time; the drain of an extent by induction on the lines that leave. -/
theorem framesAndExtents : Obligations.FramesAndExtents := by
  refine ⟨fun s n => tlbLeaseExpiry_spec n s, fun s p => ptsyncRead_spec p s, fun s v h => congrArg Host.Outcome.next (if_neg h),
    fun s v hboot => ?_, fun s f => ⟨fun h => ?_, scrubFrontAdvance_spec⟩, fun s n x => ⟨fun hn hboot => ?_, fun h => ?_, extentOfRaw_same x⟩,
    fun s n x hf => ⟨fun hst hboot => ?_, fun h => ?_, fun hst => ?_, extentDrainComplete_spec hf⟩⟩
  · obtain ⟨hrange, hseq⟩ := s.fotStatus_spec s.fotidx v
    obtain ⟨hbad, hset, hscrub⟩ := fotdataWrite_spec hboot v
    refine ⟨hrange, hseq, hbad, hset, fun hst hv => ⟨_, hscrub hst hv, ?_⟩⟩
    exact State.scrub_spec { s with fotstat := 0 } s.fotidx (v &&& 0xFF80)
  · exact if_pos (by simpa using h)
  · exact ⟨_, congrArg Host.Outcome.next ((if_pos hboot).trans (if_pos hn))⟩
  · refine congrArg Host.Outcome.next ?_
    rcases h with hn | hboot
    · dsimp only
      rw [if_neg (by omega : ¬ n < 256), ite_self]
    · exact if_neg hboot
  · obtain ⟨raw, hraw⟩ := s.setExtent_eq n { x with state := .draining }
    refine ⟨raw, congrArg Host.Outcome.next ((if_pos hboot).trans ?_)⟩
    simp only [State.extent?, hf, Option.map_some, hst, if_true, ← hraw]
  · refine congrArg Host.Outcome.next ?_
    simp only [State.extent?, hf, Option.map_some]
    rcases h with hst | hboot
    · rw [if_neg hst, ite_self]
    · exact if_neg hboot
  · change execExtentDrainComplete n s = _
    unfold execExtentDrainComplete State.extent?
    rw [hf]
    exact if_neg hst

end


/-! ## What a controller's service of a request changes -/

namespace Sys2Proof.Machine
open Sys2Proof Sys2Proof.Claims

theorem fld_rowBase (a : Nat) {k : Nat} (hk : 10 ≤ k) (n : Nat) : fld (1024 * (a / 1024)) k n = fld a k n := by
  obtain ⟨j, rfl⟩ := Nat.exists_eq_add_of_le hk
  unfold fld
  rw [Nat.pow_add, ← Nat.div_div_eq_div_mul, ← Nat.div_div_eq_div_mul, show (2 : Nat) ^ 10 = 1024 from rfl,
    Nat.mul_div_cancel_left _ (by norm_num)]

/-- A request lies in the bank and the subarray group of its row. -/
theorem HbmReq.rowBank_row (r : HbmReq) : rowBank r.row = r.bank := by
  simp [rowBank, HbmReq.row, HbmReq.bank, rowOf, hbmPc, hbmBank, fld_rowBase]

theorem HbmReq.rowSag_row (r : HbmReq) : rowSag r.row = r.sag := by
  simp [rowSag, HbmReq.row, HbmReq.sag, rowOf, hbmSag, fld_rowBase]

theorem State.openRow_of_succ {s : State} {bank sag row : Nat} (h : tget 0 sag (tget dbank0 bank s.banks).openRow = row + 1) :
    s.openRow bank sag = some row := by
  rw [State.openRow, h]

theorem State.rowHit_iff (s : State) (r : HbmReq) : s.rowHit r = true ↔ s.openRow r.bank r.sag = some r.row := by
  rw [State.rowHit, beq_iff_eq]

/-- A row that a pin holds open is hit. -/
theorem State.rowHit_of_heldRow {s : State} {r : HbmReq} (h : s.heldRow r.dpa = true) : s.rowHit r = true := by
  simp only [State.heldRow, Bool.and_eq_true, beq_iff_eq] at h
  exact (s.rowHit_iff r).mpr (State.openRow_of_succ h.2)

/-- Counts of a bank as they were: its activations and refreshes. -/
def SameCounts (x y : Bank) : Prop := y.acts = x.acts ∧ y.refreshes = x.refreshes

/-- A row becoming hot moves requests to the side queue, and no bank's open rows, activations or refreshes change. -/
theorem State.heatRow_eq (s : State) (k row : Nat) : ∃ b q d, s.heatRow k row = { s with banks := b, hbmq := q, sideq := d } ∧
    (∀ j, (tget dbank0 j b).openRow = (tget dbank0 j s.banks).openRow ∧ SameCounts (tget dbank0 j s.banks) (tget dbank0 j b)) ∧
    ∀ pc, ∀ x ∈ tget [] pc q, x ∈ tget [] pc s.hbmq := by
  unfold State.heatRow
  dsimp only
  split
  · refine ⟨_, _, _, rfl, fun j => ?_, fun pc x hx => ?_⟩
    · simp only [State.modBank, tget_tmod]
      split <;> exact ⟨rfl, rfl, rfl⟩
    · rw [tget_tset] at hx
      split at hx
      · next hpc => rw [hpc]; exact (List.mem_filter.mp hx).1
      · exact hx
  · exact ⟨s.banks, s.hbmq, s.sideq, rfl, fun _ => ⟨rfl, rfl, rfl⟩, fun _ _ hx => hx⟩

/-- The bank in which a row has been opened for a request. -/
def Bank.withRow (b : Bank) (r : HbmReq) (pinned : Bool) : Bank :=
  { b with openRow := tset r.sag (r.row + 1) b.openRow, acts := if pinned then b.acts else tmod 0 r.row (· + 1) b.acts }

theorem State.openRowFor_eq (s : State) (r : HbmReq) : ∃ q, s.openRowFor r =
    { s with banks := tmod dbank0 r.bank (fun b => b.withRow r (s.rowPinned r.row)) s.banks, parts := q } :=
  State.count_eq _ _ _ _ _

theorem State.openRow_withRow {s : State} {r : HbmReq} {b : Tbl Bank} {pinned : Bool}
    (h : (tget dbank0 r.bank s.banks).openRow = (tget dbank0 r.bank (tmod dbank0 r.bank (fun y => y.withRow r pinned) b)).openRow) :
    s.openRow r.bank r.sag = some r.row := by
  refine State.openRow_of_succ ?_
  rw [h, tget_tmod, if_pos rfl]
  simp only [Bank.withRow, tget_tset, if_true]

/-- What serving a request leaves: its row open, memory, pins and credits as they were, no request new in a queue. -/
structure Serves (s t : State) (r : HbmReq) : Prop where
  row : t.openRow r.bank r.sag = some r.row
  mem : t.mem = s.mem
  pins : t.pins = s.pins
  deficits : t.deficits = s.deficits
  queue : ∀ pc, ∀ x ∈ tget [] pc t.hbmq, x ∈ tget [] pc s.hbmq

theorem State.serveReq_serves (s : State) (r : HbmReq) : Serves s (s.serveReq r) r := by
  unfold State.serveReq
  dsimp only
  split
  · next hit =>
    obtain ⟨p, hp⟩ := s.count_eq r.part r.ctx evHbmHit 1
    rw [hp]
    obtain ⟨b, q, d, hheat, hbank, hqueue⟩ := State.heatRow_eq (State.rowOpened { s with parts := p } r.row) r.bank r.row
    rw [hheat]
    refine ⟨?_, rfl, rfl, rfl, hqueue⟩
    rw [State.openRow, (hbank r.bank).1]
    exact (s.rowHit_iff r).mp hit
  · obtain ⟨p, hp⟩ := s.openRowFor_eq r
    rw [hp]
    obtain ⟨b, q, d, hheat, hbank, hqueue⟩ := State.heatRow_eq (State.rowOpened { s with
      banks := tmod dbank0 r.bank (fun b => b.withRow r (s.rowPinned r.row)) s.banks, parts := p } r.row) r.bank r.row
    rw [hheat]
    exact ⟨State.openRow_withRow (hbank r.bank).1, rfl, rfl, rfl, hqueue⟩

/-- A row hit leaves the counts of every bank. -/
theorem State.serveReq_counts {s : State} {r : HbmReq} (h : s.rowHit r = true) (j : Nat) :
    SameCounts (tget dbank0 j s.banks) (tget dbank0 j (s.serveReq r).banks) := by
  unfold State.serveReq
  dsimp only
  rw [if_pos h]
  obtain ⟨p, hp⟩ := s.count_eq r.part r.ctx evHbmHit 1
  rw [hp]
  obtain ⟨b, q, d, hheat, hbank, -⟩ := State.heatRow_eq (State.rowOpened { s with parts := p } r.row) r.bank r.row
  rw [hheat]
  exact (hbank j).2

/-- The machine with a request gone from its bank's side queue. -/
def State.dropSide (s : State) (r : HbmReq) : State :=
  { s with sideq := tmod [] r.bank (fun q => q.filter fun x => x.id != r.id) s.sideq }

theorem State.serveSide_held {s : State} {r : HbmReq} (h : s.heldRow r.dpa = true) : s.serveSide r = (s.dropSide r).serveReq r := if_pos h

theorem State.serveSide_free {s : State} {r : HbmReq} (h : s.heldRow r.dpa = false) : ∃ l p, s.serveSide r =
    { s.dropSide r with
      banks := tmod dbank0 r.bank (fun b => { b with refreshes := b.refreshes + 1 })
        (tmod dbank0 r.bank (fun b => b.withRow r (s.rowPinned r.row)) s.banks)
      lanes := l, parts := p } := by
  have hno : ¬ (s.dropSide r).heldRow r.dpa = true := by
    rw [Bool.not_eq_true]
    exact h
  obtain ⟨p, hp⟩ := (s.dropSide r).openRowFor_eq r
  obtain ⟨p', hp'⟩ := State.count_eq ((s.dropSide r).openRowFor r) r.part r.ctx evHotThrottle 1
  refine ⟨((s.dropSide r).rowOpened r.row).lanes, p', (if_neg hno).trans ?_⟩
  change ((((s.dropSide r).openRowFor r).count r.part r.ctx evHotThrottle 1).modBank r.bank _).rowOpened r.row = _
  rw [hp', hp]
  rfl

theorem State.serveSide_serves (s : State) (r : HbmReq) : Serves s (s.serveSide r) r := by
  cases h : s.heldRow r.dpa with
  | true =>
    rw [State.serveSide_held h]
    obtain ⟨hrow, hmem, hpins, hdef, hqueue⟩ := (s.dropSide r).serveReq_serves r
    exact ⟨hrow, hmem, hpins, hdef, hqueue⟩
  | false =>
    obtain ⟨l, p, heq⟩ := State.serveSide_free h
    rw [heq]
    refine ⟨State.openRow_withRow (b := s.banks) (pinned := s.rowPinned r.row) ?_, rfl, rfl, rfl, fun _ _ hx => hx⟩
    dsimp only
    rw [tget_tmod, if_pos rfl]

/-! ### Pins that hold a request off -/

/-- Does a pin hold a request off: another row of its subarray group? -/
def Pin.holds (r : HbmReq) (p : Pin) : Bool := p.row != r.row && rowBank p.row == r.bank && rowSag p.row == r.sag

theorem State.breakFor_eq (s : State) (r : HbmReq) : ∃ q, s.breakFor r =
    { s with pins := s.pins.map (Pin.broken (Pin.holds r) 2), banks := closedRows (s.pins.filter fun p => p.live && p.holds r) s.banks, parts := q } :=
  s.breakPins_eq (Pin.holds r) 2

/-- A request that no pin holds off breaks none. -/
theorem State.breakFor_of_not_heldOff {s : State} {r : HbmReq} (h : s.heldOff r = false) : s.breakFor r = s := by
  have hpin : ∀ p ∈ s.pins, (p.live && p.holds r) = false := by
    intro p hp
    have hno := List.any_eq_false.mp h p hp
    rw [HbmReq.rowBank_row, HbmReq.rowSag_row] at hno
    simpa [Pin.holds, Bool.and_assoc] using hno
  have hpins : (s.pins.map fun p => if p.live && p.holds r then { p with state := .broken 2 } else p) = s.pins := by
    conv_rhs => rw [← List.map_id s.pins]
    exact List.map_congr_left fun p hp => if_neg (by rw [hpin p hp]; exact Bool.false_ne_true)
  have hnone : (s.pins.filter fun p => p.live && p.holds r) = [] := List.filter_eq_nil_iff.mpr fun p hp => by rw [hpin p hp]; exact Bool.false_ne_true
  change List.foldl _ { s with pins := s.pins.map fun p => if p.live && p.holds r then { p with state := .broken 2 } else p }
    (s.pins.filter fun p => p.live && p.holds r) = s
  rw [hnone, hpins]
  rfl

/-- A request is served where the pin that holds it off breaks as it is. -/
def Freed (s t : State) (r : HbmReq) : Prop :=
  t.openRow r.bank r.sag = some r.row ∧ SameMem s t ∧ t.pins = s.pins.map fun p =>
    if p.live && (p.row != r.row && rowBank p.row == r.bank && rowSag p.row == r.sag) then { p with state := .broken 2 } else p

theorem freed_of_serves {s t : State} {r : HbmReq} (h : Serves (s.breakFor r) t r) : Freed s t r := by
  obtain ⟨q, hq⟩ := s.breakFor_eq r
  obtain ⟨hrow, hmem, hpins, -, -⟩ := h
  rw [hq] at hmem hpins
  exact ⟨hrow, fun a => by rw [hmem], hpins⟩

theorem State.serveFreed_freed (s : State) (r : HbmReq) : Freed s (s.serveFreed r) r := freed_of_serves (State.serveReq_serves _ _)

/-! ## Which request is served -/

/-- The request that comes first is of the list, a row hit where one is, and the oldest of its kind. -/
theorem State.firstReq_spec {s : State} {q : List HbmReq} {r : HbmReq} (h : s.firstReq q = some r) :
    r ∈ q ∧ ∀ x ∈ q, (s.rowHit x = true → s.rowHit r = true) ∧ (s.rowHit x = s.rowHit r → r.age ≤ x.age) := by
  induction q generalizing r with
  | nil => cases h
  | cons y rest ih =>
    rw [State.firstReq] at h
    cases hrest : s.firstReq rest with
    | none =>
      have hnil : rest = [] := by
        cases rest with
        | nil => rfl
        | cons z zs =>
          rw [State.firstReq] at hrest
          split at hrest <;> cases hrest
      rw [hrest] at h
      obtain rfl := Option.some.inj h
      subst hnil
      exact ⟨List.mem_cons_self, fun x hx => by rw [List.mem_singleton.mp hx]; exact ⟨id, fun _ => le_rfl⟩⟩
    | some z =>
      rw [hrest] at h
      obtain ⟨hz, hmin⟩ := ih hrest
      have hr := Option.some.inj h
      have hpick : (r = z ∧ (s.rowHit y = true → s.rowHit z = true) ∧ (s.rowHit y = s.rowHit z → z.age ≤ y.age)) ∨
          (r = y ∧ (s.rowHit z = true → s.rowHit y = true) ∧ (s.rowHit z = s.rowHit y → y.age ≤ z.age)) := by
        cases hhz : s.rowHit z <;> cases hhy : s.rowHit y <;>
          simp only [hhz, hhy, Bool.not_true, Bool.not_false, Bool.and_true, Bool.and_false, Bool.false_eq_true, if_true, if_false] at hr
        · split at hr
          · exact .inl ⟨hr.symm, nofun, fun _ => by omega⟩
          · exact .inr ⟨hr.symm, nofun, fun _ => by omega⟩
        · exact .inr ⟨hr.symm, nofun, nofun⟩
        · exact .inl ⟨hr.symm, nofun, nofun⟩
        · split at hr
          · exact .inl ⟨hr.symm, id, fun _ => by omega⟩
          · exact .inr ⟨hr.symm, id, fun _ => by omega⟩
      rcases hpick with ⟨rfl, hhit, hage⟩ | ⟨rfl, hhit, hage⟩
      · refine ⟨List.mem_cons_of_mem _ hz, fun x hx => ?_⟩
        rcases List.mem_cons.mp hx with rfl | hx
        · exact ⟨hhit, hage⟩
        · exact hmin x hx
      · refine ⟨List.mem_cons_self, fun x hx => ?_⟩
        rcases List.mem_cons.mp hx with rfl | hx
        · exact ⟨id, fun _ => le_rfl⟩
        · obtain ⟨hxhit, hxage⟩ := hmin x hx
          refine ⟨fun hxh => hhit (hxhit hxh), fun heq => ?_⟩
          cases hhz : s.rowHit z with
          | true => exact (hage (by rw [hhz, hhit hhz])).trans (hxage (by rw [heq, hhz, hhit hhz]))
          | false =>
            have hxf : s.rowHit x = false := by
              cases hx' : s.rowHit x with
              | true => rw [hxhit hx'] at hhz; cases hhz
              | false => rfl
            exact (hage (by rw [hhz, ← heq, hxf])).trans (hxage (by rw [hxf, hhz]))

theorem State.firstReq_ne_none {s : State} {q : List HbmReq} (h : q ≠ []) : s.firstReq q ≠ none := by
  cases q with
  | nil => exact absurd rfl h
  | cons y rest =>
    rw [State.firstReq]
    split <;> simp

/-! ### The shares -/

/-- Rounds of credit: no partition loses by them, and each of the list gains at least its own. -/
theorem le_tget_credit (w : Nat → Nat) (ps : List Nat) (t : Tbl Nat) (k : Nat) :
    tget 0 k t ≤ tget 0 k (ps.foldl (fun t p => tmod 0 p (· + w p) t) t) ∧
      (k ∈ ps → tget 0 k t + w k ≤ tget 0 k (ps.foldl (fun t p => tmod 0 p (· + w p) t) t)) := by
  induction ps generalizing t with
  | nil => exact ⟨le_rfl, fun h => absurd h List.not_mem_nil⟩
  | cons p ps ih =>
    rw [List.foldl_cons]
    obtain ⟨hle, hin⟩ := ih (tmod 0 p (· + w p) t)
    rw [tget_tmod] at hle hin
    by_cases hk : k = p
    · subst hk
      rw [if_pos rfl] at hle hin
      exact ⟨by omega, fun _ => hle⟩
    · rw [if_neg hk] at hle hin
      exact ⟨hle, fun h => hin ((List.mem_cons.mp h).resolve_left hk)⟩

theorem foldl_min_mem (f : Nat → Nat) (ps : List Nat) (a : Nat) :
    ∃ p ∈ a :: ps, ps.foldl (fun n p => min n (f p)) (f a) = f p := by
  induction ps generalizing a with
  | nil => exact ⟨a, List.mem_cons_self, rfl⟩
  | cons b ps ih =>
    rw [List.foldl_cons]
    rcases Nat.le_total (f a) (f b) with hle | hle
    · rw [Nat.min_eq_left hle]
      obtain ⟨p, hp, heq⟩ := ih a
      exact ⟨p, (List.mem_cons.mp hp).elim (fun h => h ▸ List.mem_cons_self) fun h => List.mem_cons_of_mem _ (List.mem_cons_of_mem _ h), heq⟩
    · rw [Nat.min_eq_right hle]
      obtain ⟨p, hp, heq⟩ := ih b
      exact ⟨p, List.mem_cons_of_mem _ hp, heq⟩

/-- After its rounds a partition has the credit of a request. -/
theorem State.credit_of_rounds (s : State) (pc p : Nat) : 256 ≤ tget 0 (deficitKey pc p) s.deficits + s.roundsFor pc p * s.weight p := by
  have hw : 0 < s.weight p := Nat.lt_of_lt_of_le Nat.zero_lt_one (Nat.le_max_right _ _)
  have hceil := Nat.lt_div_mul_add (a := 256 - tget 0 (deficitKey pc p) s.deficits + s.weight p - 1) hw
  unfold State.roundsFor
  omega

/-- A controller with requests has a partition to serve. -/
theorem State.nextShare_of_ne_nil {s : State} {pc : Nat} {ps : List Nat} (h : ps ≠ []) : ∃ p ∈ ps, ∃ c, s.nextShare pc ps = some (p, c) := by
  cases ps with
  | nil => exact absurd rfl h
  | cons a ps =>
    obtain ⟨p, hp, hrounds⟩ := foldl_min_mem (s.roundsFor pc) ps a
    have hkey : ∀ t : Tbl Nat, ∀ n, (a :: ps).foldl (fun t p => tmod 0 (deficitKey pc p) (· + n * s.weight p) t) t =
        ((a :: ps).map (deficitKey pc)).foldl (fun t k => tmod 0 k (· + n * s.weight (k - pc * 64)) t) t := by
      intro t n
      rw [List.foldl_map]
      simp only [deficitKey, Nat.add_sub_cancel_left]
    have hcredit : 256 ≤ tget 0 (deficitKey pc p)
        ((a :: ps).foldl (fun t q => tmod 0 (deficitKey pc q) (· + s.roundsFor pc p * s.weight q) t) s.deficits) := by
      rw [hkey]
      refine le_trans ?_ ((le_tget_credit (fun k => s.roundsFor pc p * s.weight (k - pc * 64)) _ s.deficits (deficitKey pc p)).2 (List.mem_map_of_mem hp))
      have hrec : deficitKey pc p - pc * 64 = p := Nat.add_sub_cancel_left _ _
      rw [hrec]
      exact s.credit_of_rounds pc p
    rw [State.nextShare, hrounds]
    cases hfind : (a :: ps).find? fun q => decide (256 ≤ tget 0 (deficitKey pc q)
        ((a :: ps).foldl (fun t q => tmod 0 (deficitKey pc q) (· + s.roundsFor pc p * s.weight q) t) s.deficits)) with
    | none => exact absurd (decide_eq_true hcredit) (List.find?_eq_none.mp hfind p hp)
    | some q => exact ⟨q, List.mem_of_find?_eq_some hfind, _, rfl⟩

/-! ### The controller's choice -/

/-- Does an older request past the cap bar a request of its bank? -/
def Barred (s : State) (q : List HbmReq) (r : HbmReq) : Prop :=
  (s.rowHit r = true ∨ s.overAge r = true) ∧ ∃ e ∈ q, s.overAge e = true ∧ e.bank = r.bank ∧ (e.age < r.age ∨ (e.age = r.age ∧ e.id < r.id))
/-- May a request be served: no pin holds it off, or it is past the cap, and none bars it? -/
def Servable (s : State) (q : List HbmReq) (r : HbmReq) : Prop := (s.heldOff r = false ∨ s.overAge r = true) ∧ ¬ Barred s q r

theorem State.barred_iff (s : State) (q : List HbmReq) (r : HbmReq) : s.barred q r = true ↔ Barred s q r := by
  simp only [State.barred, Barred, Bool.and_eq_true, Bool.or_eq_true, List.any_eq_true, decide_eq_true_eq, beq_iff_eq, and_assoc]

/-- The requests among which a controller chooses. -/
def State.choices (s : State) (pc : Nat) : List HbmReq :=
  (tget [] pc s.hbmq).filter fun r => (!s.heldOff r || s.overAge r) && !s.barred (tget [] pc s.hbmq) r

theorem State.mem_choices {s : State} {pc : Nat} {r : HbmReq} : r ∈ s.choices pc ↔ r ∈ tget [] pc s.hbmq ∧ Servable s (tget [] pc s.hbmq) r := by
  simp only [State.choices, List.mem_filter, Servable, ← State.barred_iff, Bool.and_eq_true, Bool.or_eq_true, Bool.not_eq_true', Bool.not_eq_true]

theorem State.pickReq_eq (s : State) (pc : Nat) : s.pickReq pc =
    match s.nextShare pc ((s.choices pc).map (·.part)).eraseDups with
    | none => none
    | some d => (s.firstReq ((s.choices pc).filter fun r => r.part == d.1)).map fun r => (r, d.2) := rfl

theorem State.pickReq_ne_none {s : State} {pc : Nat} (h : ∃ r ∈ tget [] pc s.hbmq, Servable s (tget [] pc s.hbmq) r) : s.pickReq pc ≠ none := by
  obtain ⟨r, hr⟩ := h
  have hne : ((s.choices pc).map (·.part)).eraseDups ≠ [] :=
    List.ne_nil_of_mem (List.mem_eraseDups.mpr (List.mem_map_of_mem (State.mem_choices.mpr hr)))
  obtain ⟨p, hp, c, hc⟩ := State.nextShare_of_ne_nil (s := s) (pc := pc) hne
  obtain ⟨y, hy, rfl⟩ := List.mem_map.mp (List.mem_eraseDups.mp hp)
  have hfirst : s.firstReq ((s.choices pc).filter fun r => r.part == y.part) ≠ none :=
    State.firstReq_ne_none (List.ne_nil_of_mem (List.mem_filter.mpr ⟨hy, beq_self_eq_true _⟩))
  rw [State.pickReq_eq, hc]
  simpa using hfirst

/-- The oldest request past the cap may be served. -/
theorem exists_servable {s : State} {q : List HbmReq} (h : ∃ x ∈ q, s.overAge x = true) : ∃ r ∈ q, Servable s q r := by
  obtain ⟨x, hx, hover⟩ := h
  obtain ⟨r, ⟨hr, hro⟩, hmin⟩ := (InvImage.wf (fun r : HbmReq => (r.age, r.id)) (WellFounded.prod_lex Nat.lt_wfRel.wf Nat.lt_wfRel.wf)).has_min
    {y | y ∈ q ∧ s.overAge y = true} ⟨x, hx, hover⟩
  refine ⟨r, hr, .inr hro, ?_⟩
  rintro ⟨-, e, he, heo, -, hlt⟩
  exact hmin e ⟨he, heo⟩ (Prod.lex_def.mpr hlt)

theorem State.pickReq_spec {s : State} {pc : Nat} {r : HbmReq} {c : Tbl Nat} (h : s.pickReq pc = some (r, c)) :
    r ∈ tget [] pc s.hbmq ∧ Servable s (tget [] pc s.hbmq) r ∧ ∀ x ∈ tget [] pc s.hbmq, Servable s (tget [] pc s.hbmq) x → x.part = r.part →
      (s.rowHit x = true → s.rowHit r = true) ∧ (s.rowHit x = s.rowHit r → r.age ≤ x.age) := by
  rw [State.pickReq_eq] at h
  split at h
  · cases h
  · next d hd =>
    obtain ⟨r', hfirst, heq⟩ := Option.map_eq_some_iff.mp h
    obtain ⟨rfl, -⟩ := Prod.mk.inj heq
    obtain ⟨hmem, hmin⟩ := State.firstReq_spec hfirst
    obtain ⟨hchoice, hpart⟩ := List.mem_filter.mp hmem
    obtain ⟨hq, hserv⟩ := State.mem_choices.mp hchoice
    refine ⟨hq, hserv, fun x hx hxs hxp => hmin x (List.mem_filter.mpr ⟨State.mem_choices.mpr ⟨hx, hxs⟩, ?_⟩)⟩
    rw [hxp]
    exact hpart

/-! ### The events -/

theorem whenAwake_of {s : State} (h : s.d3 = false) (f : State → Host.Outcome State Fault Refusal) : whenAwake s f = f s := by
  rw [whenAwake, h]
  rfl

/-- A controller serves what it picks: its request leaves the queue, and the credits are those of the choice. -/
theorem hbmRequestServed_spec {s : State} {pc : Nat} (hpc : pc < 512) (hd : s.d3 = false) {r : HbmReq} {c : Tbl Nat} (h : s.pickReq pc = some (r, c)) :
    ∃ t, exec (.hbmRequestServed pc) s = .next t ∧ Freed s t r ∧ t.deficits = c ∧ ∀ x ∈ tget [] pc t.hbmq, x.id ≠ r.id := by
  refine ⟨(State.dropReq { s with deficits := c } pc r.id).serveFreed r, ?_, State.serveFreed_freed (State.dropReq { s with deficits := c } pc r.id) r, ?_⟩
  · change execHbmRequestServed pc s = _
    rw [execHbmRequestServed, whenAwake_of hd, Nat.mod_eq_of_lt hpc, h]
  · obtain ⟨q, hq⟩ := State.breakFor_eq (State.dropReq { s with deficits := c } pc r.id) r
    obtain ⟨-, -, -, hdef, hqueue⟩ := State.serveReq_serves ((State.dropReq { s with deficits := c } pc r.id).breakFor r) r
    rw [hq] at hdef hqueue
    refine ⟨by rw [State.serveFreed, hq]; exact hdef, fun x hx => ?_⟩
    rw [State.serveFreed, hq] at hx
    have hin := hqueue pc x hx
    simp only [State.dropReq, tget_tmod, if_true] at hin
    simpa using (List.mem_filter.mp hin).2

/-- The age cap of a request in a main queue (R124, R132). -/
theorem agecapExpiry_main {s : State} {x : Nat × HbmReq} (hd : s.d3 = false) (hx : findReq x.2.id s.hbmq = some x) :
    let first := (oldestReq (((tget [] x.1 s.hbmq).filter fun r => r.bank == x.2.bank).filter s.overAge)).map (·.id)
    (s.cycle - x.2.age ≤ s.agecap → exec (.agecapExpiry x.2.id) s = .next s) ∧
    (s.agecap < s.cycle - x.2.age → s.heldOff x.2 = false ∨ first ≠ some x.2.id → exec (.agecapExpiry x.2.id) s =
      .next { s with hbmq := tmod [] x.1 (fun q => q.map fun y => if y.id = x.2.id then { y with expired := true } else y) s.hbmq }) ∧
    (s.agecap < s.cycle - x.2.age → s.heldOff x.2 = true → first = some x.2.id →
      ∃ t, exec (.agecapExpiry x.2.id) s = .next t ∧ Freed s t x.2) := by
  change (_ → execAgecapExpiry x.2.id s = _) ∧ (_ → _ → execAgecapExpiry x.2.id s = _) ∧ (_ → _ → _ → ∃ t, execAgecapExpiry x.2.id s = _ ∧ _)
  rw [execAgecapExpiry, whenAwake_of hd]
  simp only [hx]
  refine ⟨fun h => if_pos h, fun h hn => ?_, fun h hheld hfirst => ⟨(s.dropReq x.1 x.2.id).serveFreed x.2, ?_, State.serveFreed_freed _ _⟩⟩
  · rw [if_neg (by omega), if_neg]
    rintro ⟨hheld, hfirst⟩
    exact hn.elim (fun hf => by rw [hf] at hheld; cases hheld) fun hf => hf hfirst
  · rw [if_neg (by omega), if_pos ⟨hheld, hfirst⟩]

/-- The age cap of a request in a side queue. -/
theorem agecapExpiry_side {s : State} {x : Nat × HbmReq} (hd : s.d3 = false) (hnone : findReq x.2.id s.hbmq = none)
    (hx : findReq x.2.id s.sideq = some x) : let first := (oldestReq ((tget [] x.1 s.sideq).filter s.overAge)).map (·.id)
    (s.cycle - x.2.age ≤ s.agecap → exec (.agecapExpiry x.2.id) s = .next s) ∧
    (s.agecap < s.cycle - x.2.age → s.heldOff x.2 = true → first = some x.2.id →
      ∃ t, exec (.agecapExpiry x.2.id) s = .next t ∧ Freed s t x.2) := by
  change (_ → execAgecapExpiry x.2.id s = _) ∧ (_ → _ → _ → ∃ t, execAgecapExpiry x.2.id s = _ ∧ _)
  rw [execAgecapExpiry, whenAwake_of hd]
  simp only [hnone, hx]
  refine ⟨fun h => if_pos h, fun h hheld hfirst => ⟨(s.breakFor x.2).serveSide x.2, ?_, freed_of_serves (State.serveSide_serves _ _)⟩⟩
  rw [if_neg (by omega), if_pos ⟨hheld, hfirst⟩]

/-- Is a row of the bank pinned? -/
def BankPinned (s : State) (k : Nat) : Prop := ∃ p ∈ s.pins, p.state = .pinned ∧ rowBank p.row = k

theorem bankPinned_iff (s : State) (k : Nat) : (s.pins.any fun p => p.live && rowBank p.row == k) = true ↔ BankPinned s k := by
  simp only [List.any_eq_true, Bool.and_eq_true, Pin.live, beq_iff_eq, BankPinned]

/-- A refresh that a pin postpones, and one that is performed (R125, R132). -/
theorem bankRefresh_spec {s : State} {pc bank : Nat} (hpc : pc < 512) (hb : bank < 16) (hd : s.d3 = false) :
    let k := pc * 16 + bank
    let b := tget dbank0 k s.banks
    (BankPinned s k → b.owed + 1 < 8 →
      exec (.bankRefresh pc bank) s = .next { s with banks := tmod dbank0 k (fun b => { b with owed := b.owed + 1 }) s.banks }) ∧
    (¬ BankPinned s k ∨ 8 ≤ b.owed + 1 →
      ∃ t, exec (.bankRefresh pc bank) s = .next t ∧ (tget dbank0 k t.banks).owed = 0 ∧ (tget dbank0 k t.banks).openRow = [] ∧
        t.pins = (s.pins.map fun p => if p.state = .pinned ∧ rowBank p.row = k then { p with state := .broken 1 } else p) ∧
        t.lanes = s.lanes ∧ SameMem s t) := by
  change (_ → _ → execBankRefresh pc bank s = _) ∧ (_ → ∃ t, execBankRefresh pc bank s = _ ∧ _)
  rw [execBankRefresh, whenAwake_of hd, Nat.mod_eq_of_lt hpc, Nat.mod_eq_of_lt hb]
  dsimp only [bankKey]
  refine ⟨fun hp ho => ?_, fun h => ?_⟩
  · rw [if_pos (by rw [(bankPinned_iff s _).mpr hp]; exact decide_eq_true ho)]
    rfl
  · rw [if_neg]
    · obtain ⟨q, hq⟩ := s.breakPins_eq (fun p => rowBank p.row == pc * 16 + bank) 1
      rw [hq]
      refine ⟨_, rfl, ?_, ?_, ?_, rfl, fun _ => rfl⟩
      · simp only [State.modBank, tget_tmod, if_true]
      · simp only [State.modBank, tget_tmod, if_true]
      · exact List.map_congr_left fun p _ => if_congr (by simp [Pin.live]) rfl rfl
    · rw [Bool.and_eq_true, bankPinned_iff, decide_eq_true_eq]
      rintro ⟨hp, ho⟩
      exact h.elim (fun hn => hn hp) fun hge => absurd (show (tget dbank0 (pc * 16 + bank) s.banks).owed + 1 < 8 from ho) (by omega)

/-- The oldest of a side queue that may be served. -/
def State.sideFirst (s : State) (k : Nat) : Option HbmReq := oldestReq ((tget [] k s.sideq).filter fun r => !s.heldOff r || s.overAge r)

theorem hotSideActivation_eq {s : State} {pc bank : Nat} (hpc : pc < 512) (hb : bank < 16) (hd : s.d3 = false) :
    exec (.hotSideActivation pc bank) s =
      match s.sideFirst (pc * 16 + bank) with
      | none => .next s
      | some r => .next ((s.breakFor r).serveSide r) := by
  change execHotSideActivation pc bank s = _
  rw [execHotSideActivation, whenAwake_of hd, Nat.mod_eq_of_lt hpc, Nat.mod_eq_of_lt hb]
  rfl

/-- A request served where its row is held open takes no activation. -/
theorem State.serveSide_held_counts {s : State} {r : HbmReq} (h : s.heldRow r.dpa = true) (k : Nat) :
    SameCounts (tget dbank0 k s.banks) (tget dbank0 k (s.serveSide r).banks) := by
  rw [State.serveSide_held h]
  exact State.serveReq_counts (s := s.dropSide r) (State.rowHit_of_heldRow (s := s.dropSide r) h) k

/-- Another takes one activation, after a refresh of the neighbours, and leaves the side queue. -/
theorem State.serveSide_free_counts {s : State} {r : HbmReq} {k : Nat} (h : s.heldRow r.dpa = false) (hk : r.bank = k) :
    let b := tget dbank0 k s.banks
    tget [] k (s.serveSide r).sideq = ((tget [] k s.sideq).filter fun x => x.id != r.id) ∧
      (tget dbank0 k (s.serveSide r).banks).refreshes = b.refreshes + 1 ∧
      (s.rowPinned r.row = false → tget 0 r.row (tget dbank0 k (s.serveSide r).banks).acts = tget 0 r.row b.acts + 1) := by
  subst hk
  obtain ⟨l, p, heq⟩ := State.serveSide_free h
  rw [heq]
  refine ⟨?_, ?_, fun hp => ?_⟩
  · simp only [State.dropSide, tget_tmod, if_true]
  · simp only [tget_tmod, if_true, Bank.withRow]
  · simp only [tget_tmod, if_true, Bank.withRow, hp, Bool.false_eq_true, if_false]

/-- The end of a hot window in one bank. -/
def State.coolBank (s : State) (pc i : Nat) : State :=
  { s.modBank (pc * 16 + i) fun b => { b with acts := [], hot := [] } with
    hbmq := tmod [] pc (· ++ tget [] (pc * 16 + i) s.sideq) s.hbmq, sideq := tdel (pc * 16 + i) s.sideq }

/-- What the end of a hot window does to the banks of a list: counts and hot rows go, the side queues' requests return to the main queue. -/
theorem State.coolBanks_spec (s : State) (pc : Nat) (is : List Nat) : let t := is.foldl (fun s i => s.coolBank pc i) s
    t.lanes = s.lanes ∧ t.mem = s.mem ∧ (∀ r ∈ tget [] pc s.hbmq, r ∈ tget [] pc t.hbmq) ∧
    ∀ k, (tget [] k s.sideq = [] → tget [] k t.sideq = []) ∧
      ((tget dbank0 k s.banks).hot = [] ∧ (tget dbank0 k s.banks).acts = [] → (tget dbank0 k t.banks).hot = [] ∧ (tget dbank0 k t.banks).acts = []) ∧
      ((∃ i ∈ is, k = pc * 16 + i) → (tget dbank0 k t.banks).hot = [] ∧ (tget dbank0 k t.banks).acts = [] ∧ tget [] k t.sideq = [] ∧
        ∀ r ∈ tget [] k s.sideq, r ∈ tget [] pc t.hbmq) := by
  induction is generalizing s with
  | nil => exact ⟨rfl, rfl, fun _ h => h, fun k => ⟨id, id, fun ⟨_, hi, _⟩ => absurd hi List.not_mem_nil⟩⟩
  | cons j is ih =>
    rw [List.foldl_cons]
    obtain ⟨hlanes, hmem, hq, hk⟩ := ih (s.coolBank pc j)
    have hside : ∀ k, tget [] k (s.coolBank pc j).sideq = if k = pc * 16 + j then [] else tget [] k s.sideq := fun k => by
      simp only [State.coolBank, tget_tdel]
    have hbank : ∀ k, tget dbank0 k (s.coolBank pc j).banks =
        if k = pc * 16 + j then { tget dbank0 k s.banks with acts := [], hot := [] } else tget dbank0 k s.banks := fun k => by
      simp only [State.coolBank, State.modBank, tget_tmod]
    have hmain : tget [] pc (s.coolBank pc j).hbmq = tget [] pc s.hbmq ++ tget [] (pc * 16 + j) s.sideq := by
      simp only [State.coolBank, tget_tmod, if_true]
    refine ⟨hlanes, hmem, fun r hr => hq r (by rw [hmain]; exact List.mem_append_left _ hr), fun k => ?_⟩
    obtain ⟨hempty, hcool, hin⟩ := hk k
    rw [hside] at hempty hin
    rw [hbank] at hcool
    by_cases hkj : k = pc * 16 + j
    · rw [if_pos hkj] at hempty hcool
      have hgone := hempty rfl
      obtain ⟨hhot, hacts⟩ := hcool ⟨rfl, rfl⟩
      refine ⟨fun _ => hgone, fun _ => ⟨hhot, hacts⟩, fun _ => ⟨hhot, hacts, hgone, fun r hr => hq r ?_⟩⟩
      rw [hmain, ← hkj]
      exact List.mem_append_right _ hr
    · rw [if_neg hkj] at hempty hcool hin
      refine ⟨hempty, hcool, fun ⟨i, hi, hki⟩ => hin ⟨i, (List.mem_cons.mp hi).resolve_left fun h => hkj (by rw [hki, h]), hki⟩⟩

theorem hotWindowEnd_spec {s : State} {pc bank : Nat} (hpc : pc < 512) (hb : bank < 16) : let k := pc * 16 + bank
    ∃ t, exec (.hotWindowEnd pc) s = .next t ∧ (tget dbank0 k t.banks).hot = [] ∧ (tget dbank0 k t.banks).acts = [] ∧ tget [] k t.sideq = [] ∧
      (∀ r ∈ tget [] k s.sideq, r ∈ tget [] pc t.hbmq) ∧ (∀ r ∈ tget [] pc s.hbmq, r ∈ tget [] pc t.hbmq) ∧ t.lanes = s.lanes ∧ t.mem = s.mem := by
  have hexec : exec (.hotWindowEnd pc) s = .next ((List.range 16).foldl (fun s i => s.coolBank pc i) s) := by
    change execHotWindowEnd pc s = _
    rw [execHotWindowEnd, Nat.mod_eq_of_lt hpc]
    rfl
  obtain ⟨hlanes, hmem, hq, hk⟩ := s.coolBanks_spec pc (List.range 16)
  obtain ⟨-, -, hin⟩ := hk (pc * 16 + bank)
  obtain ⟨hhot, hacts, hside, hreq⟩ := hin ⟨bank, List.mem_range.mpr hb, rfl⟩
  exact ⟨_, hexec, hhot, hacts, hside, hreq, hq, hlanes, hmem⟩

end Sys2Proof.Machine

section
open Sys2Proof Sys2Proof.Machine Sys2Proof.Claims

/-- Settles O45, event by event: what a request's service changes, which request the choice is, and the banks of a hot window by induction. -/
theorem memoryControllers : Obligations.MemoryControllers := by
  refine ⟨fun s pc bank n hd i hi => ?_, fun s pc hpc hd => ⟨fun h => ?_, State.pickReq_ne_none, exists_servable, fun r c h => ?_⟩,
    fun s x hd => ⟨agecapExpiry_main hd, agecapExpiry_side hd⟩, fun s pc bank hpc hb hd => ?_⟩
  · simp only [List.mem_cons, List.not_mem_nil, or_false] at hi
    rcases hi with rfl | rfl | rfl | rfl <;> exact if_pos hd
  · change execHbmRequestServed pc s = _
    rw [execHbmRequestServed, whenAwake_of hd, Nat.mod_eq_of_lt hpc, h]
  · obtain ⟨hq, hserv, hmin⟩ := State.pickReq_spec h
    exact ⟨hq, hserv, hmin, hbmRequestServed_spec hpc hd h⟩
  · obtain ⟨howes, hrefresh⟩ := bankRefresh_spec hpc hb hd
    have hside := hotSideActivation_eq hpc hb hd
    refine ⟨howes, hrefresh, fun h => ?_, fun r h hk => ⟨(s.breakFor r).serveSide r, ?_, freed_of_serves (State.serveSide_serves _ _), fun hheld hrow => ?_,
      fun hheld hrow => ?_⟩, hotWindowEnd_spec hpc hb⟩
    · rw [hside, State.sideFirst, h]
    · rw [hside, State.sideFirst, h]
    · rw [State.breakFor_of_not_heldOff hheld]
      exact State.serveSide_held_counts hrow _
    · rw [State.breakFor_of_not_heldOff hheld]
      exact State.serveSide_free_counts hrow hk

end


/-! ## Row pins -/

namespace Sys2Proof.Machine
open Sys2Proof Sys2Proof.Claims

/-- A word that acts lane by lane behind its guard. -/
theorem each_of_guarded {i : Instr} {act : State → Lane → State} {spec : State → Lane → State → Prop}
    (h : ∀ s, exec i s = guarded i s fun s => eachActive s act) (hs : ∀ s l, spec s l (act s l)) : Each i spec := by
  refine ⟨act, fun s hl => ?_, hs⟩
  obtain ⟨l, hlead, hill⟩ := hl
  rw [h, guarded_next hlead hill]

theorem two_le_length_eraseDups (xs : List Nat) : 2 ≤ xs.eraseDups.length ↔ ∃ a ∈ xs, ∃ b ∈ xs, a ≠ b := by
  cases xs with
  | nil => simp
  | cons x xs =>
    rw [List.eraseDups_cons, List.length_cons]
    constructor
    · intro h
      obtain ⟨y, hy⟩ := List.exists_mem_of_length_pos (by omega : 0 < (xs.filter fun b => !b == x).eraseDups.length)
      obtain ⟨hy, hne⟩ := List.mem_filter.mp (List.mem_eraseDups.mp hy)
      exact ⟨x, List.mem_cons_self, y, List.mem_cons_of_mem _ hy, fun heq => by simp [heq] at hne⟩
    · rintro ⟨a, ha, b, hb, hab⟩
      obtain ⟨y, hy, hne⟩ : ∃ y ∈ xs, y ≠ x := by
        by_cases hax : a = x
        · exact ⟨b, (List.mem_cons.mp hb).resolve_left fun h => hab (hax.trans h.symm), fun h => hab (hax.trans h.symm)⟩
        · exact ⟨a, (List.mem_cons.mp ha).resolve_left hax, hax⟩
      have hmem : y ∈ (xs.filter fun b => !b == x).eraseDups := List.mem_eraseDups.mpr (List.mem_filter.mpr ⟨hy, by simpa using hne⟩)
      have := List.length_pos_of_mem hmem
      omega

section
variable (s : State) (p tid row : Nat)

theorem State.otherPin_iff : s.otherPin p tid row = true ↔ ∃ q ∈ s.pins, q.part = p ∧ q.row = row ∧ q.tid ≠ tid := by
  simp only [State.otherPin, List.any_eq_true, Bool.and_eq_true, beq_iff_eq, bne_iff_ne, and_assoc]

theorem State.pinConflict_iff : s.pinConflict row = true ↔
    ∃ q ∈ s.pins, q.state = .pinned ∧ q.row ≠ row ∧ rowBank q.row = rowBank row ∧ rowSag q.row = rowSag row := by
  simp only [State.pinConflict, Pin.live, List.any_eq_true, Bool.and_eq_true, beq_iff_eq, bne_iff_ne, and_assoc]

/-- Two other subarray groups of the bank are pinned: two pins in groups that differ. -/
theorem State.pinBankFull_iff : s.pinBankFull row = true ↔
    ∃ q ∈ s.pins, ∃ r ∈ s.pins, q.state = .pinned ∧ r.state = .pinned ∧ rowBank q.row = rowBank row ∧ rowBank r.row = rowBank row ∧
      rowSag q.row ≠ rowSag row ∧ rowSag r.row ≠ rowSag row ∧ rowSag q.row ≠ rowSag r.row := by
  have hmem : ∀ q, q ∈ (s.pins.filter fun p => p.live && rowBank p.row == rowBank row && rowSag p.row != rowSag row) ↔
      q ∈ s.pins ∧ q.state = .pinned ∧ rowBank q.row = rowBank row ∧ rowSag q.row ≠ rowSag row := fun q => by
    simp only [Pin.live, List.mem_filter, Bool.and_eq_true, beq_iff_eq, bne_iff_ne, and_assoc]
  rw [State.pinBankFull, decide_eq_true_eq, two_le_length_eraseDups]
  constructor
  · rintro ⟨a, ha, b, hb, hab⟩
    obtain ⟨q, hq, rfl⟩ := List.mem_map.mp ha
    obtain ⟨r, hr, rfl⟩ := List.mem_map.mp hb
    obtain ⟨hqs, hqp, hqb, hqg⟩ := (hmem q).mp hq
    obtain ⟨hrs, hrp, hrb, hrg⟩ := (hmem r).mp hr
    exact ⟨q, hqs, r, hrs, hqp, hrp, hqb, hrb, hqg, hrg, hab⟩
  · rintro ⟨q, hqs, r, hrs, hqp, hrp, hqb, hrb, hqg, hrg, hab⟩
    exact ⟨_, List.mem_map_of_mem ((hmem q).mpr ⟨hqs, hqp, hqb, hqg⟩), _, List.mem_map_of_mem ((hmem r).mpr ⟨hrs, hrp, hrb, hrg⟩), hab⟩

theorem State.pinnable_iff (x : Phys) : s.pinnable p x = true ↔ (x.attr = .normal ∨ x.attr = .acc) ∧ inHbm x.addr = true ∧
    x.addr / 65536 ∉ s.reserved ∧ fotState (s.fotOf (x.addr / 65536)) = 1 ∧ fotOwner (s.fotOf (x.addr / 65536)) = p := by
  simp only [State.pinnable, State.owned, Bool.and_eq_true, Bool.or_eq_true, beq_iff_eq, Bool.not_eq_true', List.contains_eq_mem,
    decide_eq_false_iff_not, and_assoc]

/-- The statuses of a ROWPIN in their order (R129). -/
theorem State.pinStatus_spec (x : Phys) :
    let row := x.addr / 1024
    let own := s.ownPin p tid row
    (s.pinnable p x = false → s.pinStatus p tid x = 6) ∧ (s.pinnable p x = true → s.otherPin p tid row = true → s.pinStatus p tid x = 5) ∧
    (s.pinnable p x = true → s.otherPin p tid row = false →
      (∀ q, own = some q → q.state = .pinned → s.pinStatus p tid x = 1) ∧
      ((∀ q, own = some q → q.state ≠ .pinned) →
        (s.pinConflict row = true → s.pinStatus p tid x = 4) ∧ (s.pinConflict row = false → s.pinBankFull row = true → s.pinStatus p tid x = 3) ∧
        (s.pinConflict row = false → s.pinBankFull row = false →
          (own ≠ none → s.pinStatus p tid x = 0) ∧
          (own = none → s.pinStatus p tid x = if 64 ≤ (s.pins.filter fun q => q.part == p).length then 2 else 0)))) := by
  dsimp only
  unfold State.pinStatus
  dsimp only [rowOf]
  refine ⟨fun h => ?_, fun h ho => ?_, fun h ho => ⟨fun q hq hp => ?_, fun hown => ?_⟩⟩
  · rw [h]
    rfl
  · rw [h, ho]
    rfl
  · rw [h, ho, hq]
    simp [Pin.live, hp]
  · have hlive : (s.ownPin p tid (x.addr / 1024)).elim false Pin.live = false := by
      cases hq : s.ownPin p tid (x.addr / 1024) with
      | none => rfl
      | some q => simpa [Pin.live] using hown q hq
    rw [h, ho, hlive]
    refine ⟨fun hc => ?_, fun hc hf => ?_, fun hc hf => ⟨fun hn => ?_, fun hn => ?_⟩⟩
    · rw [hc]
      rfl
    · rw [hc, hf]
      rfl
    · rw [hc, hf, Option.isSome_iff_ne_none.mpr hn]
      rfl
    · rw [hc, hf, hn]
      rfl

/-- The word of ROWQRY (R130). -/
theorem State.pinWord_spec (x : Phys) : let row := x.addr / 1024
    (inHbm x.addr = false ∨ x.attr = .hostc → s.pinWord p tid x = 0) ∧
    (inHbm x.addr = true → x.attr ≠ .hostc →
      (s.ownPin p tid row = none → (s.otherPin p tid row = true → s.pinWord p tid x = 3) ∧ (s.otherPin p tid row = false → s.pinWord p tid x = 0)) ∧
      ∀ q, s.ownPin p tid row = some q → (q.state = .pinned → s.pinWord p tid x = 1) ∧ ∀ r, q.state = .broken r → s.pinWord p tid x = 2 + 256 * r) := by
  dsimp only
  unfold State.pinWord
  dsimp only [rowOf]
  refine ⟨fun h => if_pos (by simpa using h), fun hin hattr => ?_⟩
  rw [if_neg (by simp [hin, hattr])]
  refine ⟨fun hn => ?_, fun q hq => ?_⟩
  · rw [hn]
    exact ⟨fun ho => if_pos ho, fun ho => if_neg (by rw [ho]; exact Bool.false_ne_true)⟩
  · rw [hq]
    dsimp only
    exact ⟨fun hp => by rw [hp], fun r hr => by rw [hr]⟩

end

/-- What a ROWPIN that takes its pin changes. -/
theorem State.takePin_eq (s : State) (p tid row : Nat) :
    (s.ownPin p tid row = none → s.takePin p tid row = { s with pins := s.pins ++ [{ tid := tid, part := p, row := row, state := .pinned }] }) ∧
    (s.ownPin p tid row ≠ none → s.takePin p tid row =
      { s with pins := s.pins.map fun q => if q.part = p ∧ q.row = row ∧ q.tid = tid then { q with state := .pinned } else q }) := by
  unfold State.takePin
  refine ⟨fun h => if_neg (by rw [h]; exact Bool.false_ne_true), fun h => if_pos (Option.isSome_iff_ne_none.mpr h)⟩

theorem State.takePin_pins (s : State) (p tid row : Nat) : ∃ q, s.takePin p tid row = { s with pins := q } := by
  by_cases h : s.ownPin p tid row = none
  · exact ⟨_, (s.takePin_eq p tid row).1 h⟩
  · exact ⟨_, (s.takePin_eq p tid row).2 h⟩

/-- A request stands in its controller's queue or in its bank's side queue. -/
theorem State.hbmEnqueue_queued (s : State) (p : Nat) (ctx : Option Nat) (a : Nat) :
    ∃ r ∈ tget [] (hbmPc a) (s.hbmEnqueue p ctx a).hbmq ++ tget [] (bankKey (hbmPc a) (hbmBank a)) (s.hbmEnqueue p ctx a).sideq, r.dpa = a := by
  refine ⟨{ id := s.nextId, part := p, ctx := ctx, dpa := a, age := s.cycle, expired := false }, ?_, rfl⟩
  unfold State.hbmEnqueue
  dsimp only
  split
  · exact List.mem_append_right _ (by simp only [tget_tmod, if_true]; exact List.mem_append_right _ (List.mem_singleton.mpr rfl))
  · exact List.mem_append_left _ (by simp only [tget_tmod, if_true]; exact List.mem_append_right _ (List.mem_singleton.mpr rfl))

/-! ### ROWPIN and ROWQRY in a lane -/

/-- What such a word does in a lane. -/
def rowAct (i : Instr) (d a : VReg) (s : State) (l : Lane) : State :=
  if 2 ^ 57 ≤ (l.pair a).toNat then s.setLane (l.pageHere (pageFault 4 (l.pair a).toNat .read))
  else if !l.room then s.setLane l.stall
  else
    match (s.performRow l i (l.vs a 2)).2 with
    | .got x w => (s.performRow l i (l.vs a 2)).1.setLane (l.notedRow i (l.vs a 2) d x w)
    | .busy => (s.performRow l i (l.vs a 2)).1.setLane l.stall

theorem eaOf_vs_zero (l : Lane) (a : VReg) : eaOf (srcAt (l.vs a 2) 0) (srcAt (l.vs a 2) 1) 0 = (l.pair a).toNat := by
  rw [eaOf_vs]
  simp

section
variable {i : Instr} {d a : VReg} {s u : State} {l : Lane} {x : Nat} {w : Wait}

/-- A word that gets its status notes it. -/
theorem rowAct_got (hva : (l.pair a).toNat < 2 ^ 57) (hr : l.room = true) (h : s.performRow l i (l.vs a 2) = (u, .got x w)) :
    rowAct i d a s l = u.setLane ((l.defer i (l.vs a 2) (regsFrom d 1 x) [] 0 w).adv 8) := by
  rw [rowAct, if_neg (by omega), hr, h]
  rfl

theorem rowAct_busy (hva : (l.pair a).toNat < 2 ^ 57) (hr : l.room = true) (h : s.performRow l i (l.vs a 2) = (u, .busy)) :
    rowAct i d a s l = u.setLane l.stall := by
  rw [rowAct, if_neg (by omega), hr, h]
  rfl

end

section
variable {d a : VReg} {s u : State} {l : Lane}

theorem performRow_pin : s.performRow l (.rowpin d a) (l.vs a 2) = s.performPin l (l.pair a).toNat := by
  rw [← eaOf_vs_zero]
  rfl

theorem performRow_qry : s.performRow l (.rowqry d a) (l.vs a 2) = s.performQry l (l.pair a).toNat := by
  rw [← eaOf_vs_zero]
  rfl

theorem performPin_fault {va : Nat} {f : PageFault} (h : s.translate (s.who l) va .read = (u, .fault f)) : s.performPin l va = (u, .got 0 (.page f 0)) := by
  rw [State.performPin, h]

theorem performPin_wait {va : Nat} (h : s.translate (s.who l) va .read = (u, .wait)) : s.performPin l va = (u, .busy) := by
  rw [State.performPin, h]

theorem performPin_refused {va : Nat} {x : Phys} (h : s.translate (s.who l) va .read = (u, .ok x)) (hst : u.pinStatus l.part l.id.tid x ≠ 0) :
    s.performPin l va = (u, .got (u.pinStatus l.part l.id.tid x) .ready) := by
  rw [State.performPin, h]
  exact if_pos hst

theorem performPin_taken {va : Nat} {x : Phys} (h : s.translate (s.who l) va .read = (u, .ok x)) (hst : u.pinStatus l.part l.id.tid x = 0) :
    let row := x.addr / 1024
    let v := u.takePin l.part l.id.tid row
    s.performPin l va = if v.openRow (rowBank row) (rowSag row) = some row then (v, .got 0 .ready)
      else (v.hbmEnqueue l.part (some (v.laneCtx l)) (1024 * row), .got 0 (.engine row)) := by
  rw [State.performPin, h]
  exact if_neg (not_not.mpr hst)

theorem performQry_fault {va : Nat} {f : PageFault} (h : s.translate (s.who l) va .read = (u, .fault f)) : s.performQry l va = (u, .got 0 (.page f 0)) := by
  rw [State.performQry, h]

theorem performQry_wait {va : Nat} (h : s.translate (s.who l) va .read = (u, .wait)) : s.performQry l va = (u, .busy) := by
  rw [State.performQry, h]

theorem performQry_ok {va : Nat} {x : Phys} (h : s.translate (s.who l) va .read = (u, .ok x)) :
    s.performQry l va = (u, .got (u.pinWord l.part l.id.tid x) .ready) := by
  rw [State.performQry, h]

theorem State.quiet_takePin (s : State) (p tid row : Nat) : s.Quiet (s.takePin p tid row) := by
  obtain ⟨q, hq⟩ := s.takePin_pins p tid row
  rw [hq]
  exact .of_eq rfl rfl rfl rfl rfl rfl rfl rfl

theorem State.hbmEnqueue_pins (s : State) (p : Nat) (ctx : Option Nat) (a : Nat) : (s.hbmEnqueue p ctx a).pins = s.pins := by
  unfold State.hbmEnqueue
  dsimp only
  split <;> rfl

/-- A ROWPIN with status OK (R129): it takes its pin, and its status waits until the row is open. -/
theorem rowpin_taken {x : Phys} (hva : (l.pair a).toNat < 2 ^ 57) (hr : l.room = true)
    (h : s.translate (s.who l) (l.pair a).toNat .read = (u, .ok x)) (hst : u.pinStatus l.part l.id.tid x = 0) :
    let i := Instr.rowpin d a
    let t := rowAct i d a s l
    let row := x.addr / 1024
    let note := fun (x : Nat) (w : Wait) => (l.defer i (l.vs a 2) (regsFrom d 1 x) [] 0 w).adv 8
    SameMem u t ∧ Kept u t ∧
      (u.ownPin l.part l.id.tid row = none → t.pins = u.pins ++ [{ tid := l.id.tid, part := l.part, row := row, state := .pinned }]) ∧
      (u.ownPin l.part l.id.tid row ≠ none → t.pins = u.pins.map fun q =>
        if q.part = l.part ∧ q.row = row ∧ q.tid = l.id.tid then { q with state := .pinned } else q) ∧
      (u.openRow (rowBank row) (rowSag row) = some row → t.lanes = (u.setLane (note 0 .ready)).lanes) ∧
      (u.openRow (rowBank row) (rowSag row) ≠ some row → t.lanes = (u.setLane (note 0 (.engine row))).lanes ∧
        ∃ r ∈ tget [] (hbmPc (1024 * row)) t.hbmq ++ tget [] (rowBank row) t.sideq, r.dpa = 1024 * row) := by
  dsimp only
  have hperf := performPin_taken h hst
  dsimp only at hperf
  have hquiet := u.quiet_takePin l.part l.id.tid (x.addr / 1024)
  obtain ⟨hnew, hold⟩ := u.takePin_eq l.part l.id.tid (x.addr / 1024)
  have hopen : (u.takePin l.part l.id.tid (x.addr / 1024)).openRow (rowBank (x.addr / 1024)) (rowSag (x.addr / 1024)) =
      u.openRow (rowBank (x.addr / 1024)) (rowSag (x.addr / 1024)) := by
    obtain ⟨q, hq⟩ := u.takePin_pins l.part l.id.tid (x.addr / 1024)
    rw [hq]
    rfl
  rw [hopen] at hperf
  by_cases hrow : u.openRow (rowBank (x.addr / 1024)) (rowSag (x.addr / 1024)) = some (x.addr / 1024)
  · rw [if_pos hrow] at hperf
    rw [rowAct_got hva hr (performRow_pin.trans hperf)]
    exact ⟨fun b => sameMem_of_quiet hquiet b, kept_setLane (kept_of_quiet hquiet) _, fun hn => by rw [hnew hn]; rfl, fun hn => by rw [hold hn]; rfl,
      fun _ => lanes_setLane_of_eq hquiet.1 _, fun hn => absurd hrow hn⟩
  · rw [if_neg hrow] at hperf
    have hq := hquiet.trans (State.quiet_hbmEnqueue (u.takePin l.part l.id.tid (x.addr / 1024)) l.part
      (some ((u.takePin l.part l.id.tid (x.addr / 1024)).laneCtx l)) (1024 * (x.addr / 1024)))
    rw [rowAct_got hva hr (performRow_pin.trans hperf)]
    refine ⟨fun b => sameMem_of_quiet hq b, kept_setLane (kept_of_quiet hq) _, fun hn => ?_, fun hn => ?_, fun ho => absurd ho hrow,
      fun _ => ⟨lanes_setLane_of_eq hq.1 _, State.hbmEnqueue_queued _ _ _ _⟩⟩
    · change (State.hbmEnqueue _ _ _ _).pins = _
      rw [State.hbmEnqueue_pins, hnew hn]
    · change (State.hbmEnqueue _ _ _ _).pins = _
      rw [State.hbmEnqueue_pins, hold hn]

end

/-- Row pins. -/
theorem rowPins_holds : RowPins := by
  refine ⟨fun s p tid x => ?_, fun d a query => ?_, fun a => ?_, ?_⟩
  · obtain ⟨h6, h5, hrest⟩ := s.pinStatus_spec p tid x
    obtain ⟨hout, hin⟩ := s.pinWord_spec p tid x
    simp only [← State.pinnable_iff, ← State.otherPin_iff, ← State.pinConflict_iff, ← State.pinBankFull_iff, Bool.not_eq_true]
    exact ⟨h6, h5, hrest, hout, hin⟩
  · cases query with
    | false =>
      refine each_of_guarded (act := rowAct (.rowpin d a) d a) (fun s => rfl) fun s l => ?_
      refine ⟨fun hva => if_pos hva, fun hva hr => ?_, fun hva hr => ⟨fun u f h => ?_, fun u h => ?_, fun u x h => ⟨nofun, fun _ hst => ?_, fun _ hst => ?_⟩⟩⟩
      · rw [rowAct, if_neg (by omega), hr]
        rfl
      · exact rowAct_got hva hr (performRow_pin.trans (performPin_fault h))
      · exact rowAct_busy hva hr (performRow_pin.trans (performPin_wait h))
      · exact rowAct_got hva hr (performRow_pin.trans (performPin_refused h hst))
      · exact rowpin_taken hva hr h hst
    | true =>
      refine each_of_guarded (act := rowAct (.rowqry d a) d a) (fun s => rfl) fun s l => ?_
      refine ⟨fun hva => if_pos hva, fun hva hr => ?_, fun hva hr => ⟨fun u f h => ?_, fun u h => ?_, fun u x h => ⟨fun _ => ?_, nofun, nofun⟩⟩⟩
      · rw [rowAct, if_neg (by omega), hr]
        rfl
      · exact rowAct_got hva hr (performRow_qry.trans (performQry_fault h))
      · exact rowAct_busy hva hr (performRow_qry.trans (performQry_wait h))
      · exact rowAct_got hva hr (performRow_qry.trans (performQry_ok h))
  · refine each_of_guarded (fun s => rfl) fun s l => ?_
    refine ⟨fun u f h => ?_, fun u h => ?_, fun u x h => ?_⟩
    · rw [h]
      rfl
    · rw [h]
    · rw [h]
      dsimp only
      by_cases hin : inHbm x.addr = true ∧ x.attr ≠ .hostc
      · rw [if_pos hin, if_pos (by simpa using hin)]
        rfl
      · rw [if_neg hin, if_neg (by simpa using hin)]
  · refine each_of_guarded (fun s => rfl) fun s l => ?_
    simp only [State.releasePins, Bool.and_true]

end Sys2Proof.Machine


/-! ## PREF -/

namespace Sys2Proof.Machine
open Sys2Proof Sys2Proof.Claims

section
variable {s0 s : State}

theorem State.SameUnits.countL2 {a p ctx ev} (h : s0.SameUnits s) : s0.SameUnits (s.countL2 a p ctx ev) := h.count.ite h

theorem State.SameUnits.fromHome {ln p ctx} (h : s0.SameUnits s) : s0.SameUnits (s.fromHome ln p ctx) := h.l3Touch.ite h

theorem State.SameUnits.checkDone {ln a} (ha : a ≠ home) (h : s0.SameUnits s) : s0.SameUnits (s.checkDone ln a) := by
  unfold State.checkDone
  dsimp only
  rw [if_neg ha]
  exact h.ite (h.ite h.post)

theorem State.SameUnits.satisfied {ln a} (ha : a ≠ home) (h : s0.SameUnits s) : s0.SameUnits (s.satisfied ln a) :=
  .checkDone ha (h.modLine.ite h)

/-- A fold that waits for nobody serves nothing. -/
theorem State.SameUnits.fold {ln who} (hf : (s.line ln).mash = true → (s.line ln).folding = false) (h : s0.SameUnits s) :
    s0.SameUnits (s.fold ln who).1 := by
  unfold State.fold
  dsimp only
  split
  · next hm =>
    rw [if_neg (by rw [hf hm]; exact Bool.false_ne_true)]
    exact h.foldNow
  · exact h

theorem State.SameUnits.takeShared {ln a p ctx} (ha : a ≠ home) (hf : (s.line ln).mash = true → (s.line ln).folding = false)
    (h : s0.SameUnits s) : s0.SameUnits (s.takeShared ln a p ctx) := by
  have hfold := h.fold (who := some (p, ctx)) hf
  unfold State.takeShared
  dsimp only
  refine hfold.l2Touch.countL2.ite (.satisfied ha (.countL2 (.l2Touch (.ite hfold.landTokens.fromHome ?_))))
  split
  · exact hfold.landTokens.fromHome.modLine
  · exact hfold.landTokens.fromHome

end

/-- Where an access does not wait, its line does not fold. -/
theorem State.folding_of_not_lineBusy {s : State} {ln : Nat} {a : Fin 10} {excl : Bool} (h : s.lineBusy ln a excl = false)
    (hm : (s.line ln).mash = true) : (s.line ln).folding = false := by
  unfold State.lineBusy at h
  simp only [hm, Bool.not_true, Bool.and_false, Bool.false_eq_true, if_false, Bool.or_eq_false_iff] at h
  exact h.1.1.1.1.1

/-- PREF may fetch a line: it is of HBM under a cacheable page, the partition may read it, and nothing is in its way. -/
def Fetchable (u : State) (l : Lane) (x : Phys) : Prop :=
  (x.attr = .normal ∨ x.attr = .acc) ∧ inHbm x.addr = true ∧ u.ownCheck l.part x.addr false = .performed ∧ u.codeFrame l.part x.addr = none ∧
    x.addr / 128 ∉ u.poison ∧ u.lineBusy (x.addr / 128) (Fin.ofNat 10 (l.die % 4)) false = false

/-- What PREF does with the line of a place: it brings it to a level. -/
def State.fetchLine (u : State) (l : Lane) (x : Phys) (level : Nat) : State :=
  if level = 2 then u.l3Touch l.part (some (u.laneCtx l)) (x.addr / 128)
  else
    let v := u.takeShared (x.addr / 128) (Fin.ofNat 10 (l.die % 4)) l.part (some (u.laneCtx l))
    if level = 0 ∧ x.attr = .normal then v.fillL1 l.cluster l.core (x.addr / 128) (readNat v.mem (128 * (x.addr / 128)) 128) else v

section
variable {s u : State} {l : Lane} {va level : Nat} {x : Phys}

theorem prefetch_high (h : 2 ^ 57 ≤ va) : s.prefetch l va level = s := if_pos h

theorem prefetch_fault {f : PageFault} (hva : va < 2 ^ 57) (h : s.translate { s.who l with quiet := true } va .read = (u, .fault f)) :
    s.prefetch l va level = u := by
  rw [State.prefetch, if_neg (by omega), h]

theorem prefetch_wait (hva : va < 2 ^ 57) (h : s.translate { s.who l with quiet := true } va .read = (u, .wait)) : s.prefetch l va level = u := by
  rw [State.prefetch, if_neg (by omega), h]

/-- A place that PREF may not fetch from is left alone; else its line is fetched. -/
theorem prefetch_ok (hva : va < 2 ^ 57) (h : s.translate { s.who l with quiet := true } va .read = (u, .ok x)) :
    (¬ Fetchable u l x → s.prefetch l va level = u) ∧ (Fetchable u l x → s.prefetch l va level = u.fetchLine l x level) := by
  have hpois : inHbm x.addr = true → (u.poisoned x = true ↔ x.addr / 128 ∈ u.poison) := fun hin => by
    simp [State.poisoned, hin]
  rw [State.prefetch, if_neg (by omega), h]
  dsimp only
  constructor
  · intro hno
    split
    · rfl
    · next hkind =>
      rw [not_or, not_or] at hkind
      obtain ⟨hdev, hhost, hin⟩ := hkind
      have hin : inHbm x.addr = true := by simpa using hin
      rw [if_pos]
      by_contra hgo
      simp only [Bool.or_eq_true, not_or, bne_iff_ne, ne_eq, not_not, hpois hin, Bool.not_eq_true, Option.isSome_eq_false_iff,
        Option.isNone_iff_eq_none] at hgo
      obtain ⟨⟨⟨hown, hcode⟩, hclean⟩, hbusy⟩ := hgo
      refine hno ⟨?_, hin, hown, hcode, hclean, hbusy⟩
      cases hx : x.attr with
      | normal => exact .inl rfl
      | acc => exact .inr rfl
      | device => exact absurd hx hdev
      | hostc => exact absurd hx hhost
  · rintro ⟨hattr, hin, hown, hcode, hclean, hbusy⟩
    rw [if_neg (by rcases hattr with h | h <;> simp [h, hin]), if_neg]
    · rfl
    · simp only [Bool.or_eq_true, not_or, bne_iff_ne, ne_eq, not_not, hpois hin, Bool.not_eq_true, Option.isSome_eq_false_iff,
        Option.isNone_iff_eq_none]
      exact ⟨⟨⟨hown, hcode⟩, hclean⟩, hbusy⟩

/-- A line that comes to the L3 is in its set. -/
theorem State.mem_l3_l3Touch (s : State) (p : Nat) (ctx : Option Nat) (ln : Nat) : ln ∈ tget [] (l3Key ln) (s.l3Touch p ctx ln).l3 := by
  have hcap : ∀ (t : State) v, (t.capDrop v).l3 = t.l3 := fun t v => by
    obtain ⟨m, c, h, -⟩ := t.capDrop_eq v
    rw [h]
  have henq : ∀ t : State, (t.hbmEnqueue p ctx (128 * ln)).l3 = t.l3 := fun t => by
    unfold State.hbmEnqueue
    dsimp only
    split <;> rfl
  have huse : ln ∈ tget [] (l3Key ln) (s.l3Use ln).1.l3 := by
    have hset : ∀ r : List Nat, ln ∈ tget [] (l3Key ln) (tset (l3Key ln) ((ln :: r).take 16) s.l3) := fun r => by
      rw [tget_tset, if_pos rfl]
      exact List.mem_cons_self
    unfold State.l3Use
    dsimp only
    split
    · split
      · rw [hcap]
        exact hset _
      · exact hset _
    · exact hset _
  unfold State.l3Touch
  dsimp only
  split
  · exact huse
  · rw [henq]
    exact huse

theorem State.quiet_fetchLine (hm : (u.line (x.addr / 128)).mash = false) : u.Quiet (u.fetchLine l x level) := by
  have htake := u.quiet_takeShared hm (l2Slice_ne_home l) l.part (some (u.laneCtx l))
  unfold State.fetchLine
  dsimp only
  split
  · exact u.quiet_l3Touch _ _ _
  · split
    · exact htake.trans (State.quiet_fillL1 _ _ _ _ _)
    · exact htake

theorem State.fetchLine_lanes (hf : (u.line (x.addr / 128)).mash = true → (u.line (x.addr / 128)).folding = false) :
    (u.fetchLine l x level).lanes = u.lanes := by
  have htake := State.SameUnits.refl.takeShared (s0 := u) (p := l.part) (ctx := some (u.laneCtx l)) (l2Slice_ne_home l) hf
  unfold State.fetchLine
  dsimp only
  split
  · exact (State.SameUnits.refl.l3Touch).1
  · split <;> exact htake.1

/-- PREF changes no lane. -/
theorem prefetch_lanes : (s.prefetch l va level).lanes = s.lanes := by
  by_cases hva : va < 2 ^ 57
  · rcases htr : s.translate { s.who l with quiet := true } va .read with ⟨u, r⟩
    have hu := (State.sameUnits_of_translate htr).1
    cases r with
    | fault f => rw [prefetch_fault hva htr, hu]
    | wait => rw [prefetch_wait hva htr, hu]
    | ok x =>
      obtain ⟨hno, hgo⟩ := prefetch_ok (level := level) hva htr
      by_cases hx : Fetchable u l x
      · rw [hgo hx]
        obtain ⟨-, -, -, -, -, hbusy⟩ := hx
        rw [State.fetchLine_lanes (State.folding_of_not_lineBusy hbusy), hu]
      · rw [hno hx, hu]
  · rw [prefetch_high (by omega)]

/-- A line that a core fetches stands in its cluster's L1. -/
theorem State.fillL1_mem (s : State) (c k ln data : Nat) (hw : (s.cluster c).cacheWays ≠ 0) (hk : k < 4) :
    ∃ e ∈ ((s.fillL1 c k ln data).cluster c).l1, e.line = ln ∧ e.mask.getLsbD k = true ∧ e.data = BitVec.ofNat 1024 data := by
  unfold State.fillL1
  rw [modCluster_cluster, if_pos rfl]
  dsimp only
  rw [if_neg hw]
  refine ⟨_, List.mem_append_right _ (List.mem_singleton.mpr rfl), rfl, ?_, rfl⟩
  simp [hk]

/-- A line fetched to the L1 with its bytes as they were. -/
theorem State.fetchLine_l1 (hn : x.attr = .normal) (hm : (u.line (x.addr / 128)).mash = false) (hw : (u.cluster l.cluster).cacheWays ≠ 0) :
    ∃ e ∈ ((u.fetchLine l x 0).cluster l.cluster).l1, e.line = x.addr / 128 ∧ e.mask.getLsbD l.core = true ∧
      e.data = BitVec.ofNat 1024 (readNat u.mem (128 * (x.addr / 128)) 128) := by
  have hmem := (u.quiet_takeShared hm (l2Slice_ne_home l) l.part (some (u.laneCtx l))).2.2.1
  have hunits := State.SameUnits.refl.takeShared (s0 := u) (p := l.part) (ctx := some (u.laneCtx l)) (l2Slice_ne_home l)
    fun h => absurd h (by rw [hm]; exact Bool.false_ne_true)
  unfold State.fetchLine
  rw [if_neg (by decide), if_pos ⟨rfl, hn⟩, ← hmem]
  refine State.fillL1_mem _ _ _ _ _ ?_ (Nat.mod_lt _ (by norm_num))
  rw [hunits.cluster]
  exact hw

end

end Sys2Proof.Machine


/-! ## CINV and CFLUSH -/

namespace Sys2Proof.Machine
open Sys2Proof Sys2Proof.Claims

/-! ### Presence bits -/

/-- An L1 line with a core's presence bit cleared, or all of them. -/
def L1Line.cleared (e : Scope) (core : Nat) (y : L1Line) : L1Line := { y with mask := if wide e then 0 else y.mask &&& ~~~ BitVec.twoPow 4 core }

/-- The lines of a cluster's L1 after a word has cleared presence bits of one. -/
def clearedL1 (ln : Nat) (e : Scope) (core : Nat) (ys : List L1Line) : List L1Line := ys.map fun y => if y.line = ln then y.cleared e core else y

theorem State.dropL1_eq (u : State) (l : Lane) (ln : Nat) (e : Scope) : ∃ c, u.dropL1 l ln e = { u with clusters := c } := by
  unfold State.dropL1
  split
  · exact ⟨_, rfl⟩
  · exact ⟨u.clusters, rfl⟩

theorem State.dropL1_l1 (u : State) (l : Lane) (ln : Nat) (e : Scope) :
    ((u.dropL1 l ln e).cluster l.cluster).l1 = clearedL1 ln e l.core (u.cluster l.cluster).l1 := by
  unfold State.dropL1
  split
  · rw [modCluster_cluster, if_pos rfl]
    rfl
  · next hno =>
    have hne : ∀ y ∈ (u.cluster l.cluster).l1, y.line ≠ ln := fun y hy heq => hno (List.any_eq_true.mpr ⟨y, hy, by simpa using heq⟩)
    exact ((List.map_congr_left fun y hy => if_neg (hne y hy)).trans (List.map_id _)).symm

theorem clearedL1_same {ln core : Nat} {e : Scope} {ys : List L1Line} (hc : core < 4) {y : L1Line} (hy : y ∈ clearedL1 ln e core ys) (hl : y.line = ln) :
    y.mask.getLsbD core = false ∧ (wide e = true → y.mask = 0) := by
  obtain ⟨z, -, rfl⟩ := List.mem_map.mp hy
  by_cases hz : z.line = ln
  · rw [if_pos hz]
    unfold L1Line.cleared
    cases hw : wide e with
    | true => simp
    | false => simp [hc]
  · rw [if_neg hz] at hl
    exact absurd hl hz

theorem mem_clearedL1_of_ne {ln core : Nat} {e : Scope} {ys : List L1Line} {y : L1Line} (hl : y.line ≠ ln) : y ∈ clearedL1 ln e core ys ↔ y ∈ ys := by
  constructor
  · intro hy
    obtain ⟨z, hz, rfl⟩ := List.mem_map.mp hy
    by_cases hzl : z.line = ln
    · rw [if_pos hzl] at hl
      exact absurd hzl hl
    · rwa [if_neg hzl]
  · exact fun hy => List.mem_map.mpr ⟨y, hy, if_neg hl⟩

/-! ### The write-back of a line -/

section
variable {s0 s : State}

theorem State.SameUnits.hostDrop {h} (hs : s0.SameUnits s) : s0.SameUnits (s.hostDrop h) := by
  unfold State.hostDrop
  split
  · exact hs
  · exact .ite (hs.same rfl rfl) (hs.same rfl rfl)

theorem State.SameUnits.askTokens {ln excl} (h : s0.SameUnits s) : s0.SameUnits (s.askTokens ln excl) := by
  unfold State.askTokens State.recallHost
  exact .ite h.snoopHost h

theorem State.SameUnits.foldFor {v ln} (hf : (s.line ln).mash = true → (s.line ln).folding = false) (h : s0.SameUnits s) :
    s0.SameUnits (s.foldFor v ln).1 := by
  unfold State.foldFor
  dsimp only
  split
  · exact h.fold hf
  · exact (h.fold hf).record

end

/-- Is the line of a place one that CFLUSH brings home: of HBM under a cacheable page, and the partition may read it? -/
def Homeward (v : State) (l : Lane) (x : Phys) : Prop :=
  (x.attr = .normal ∨ x.attr = .acc) ∧ inHbm x.addr = true ∧ v.ownCheck l.part x.addr false = .performed

/-- Must a write-back wait? -/
def HomeBusy (v : State) (ln : Nat) : Prop := v.away ln = true ∨ v.lineBusy ln home false = true

/-- Does a fold of the line discard its partials over poison? -/
def FoldLoses (v : State) (ln : Nat) : Prop := (v.line ln).mash = true ∧ ln ∈ v.poison

/-- What brings a line home and queues its write, where nothing is in the way. -/
def State.bringHome (v : State) (l : Lane) (x : Phys) : State × Res :=
  let q := v.foldFor (v.via l) (x.addr / 128)
  if q.2 then (q.1, .ue true)
  else ((q.1.homeObtain (x.addr / 128) l.part (some (v.laneCtx l))).hbmEnqueue l.part (some (v.laneCtx l)) x.addr, .data [])

section
variable {v : State} {l : Lane} {x : Phys} {e : Scope}

theorem writeBackLine_homeward (h : Homeward v l x) :
    (HomeBusy v (x.addr / 128) → v.writeBackLine l x e = (v.askTokens (x.addr / 128) false, .busy)) ∧
    (¬ HomeBusy v (x.addr / 128) → v.writeBackLine l x e = v.bringHome l x) := by
  obtain ⟨hattr, hin, hown⟩ := h
  have hcap := inCap_of_inHbm hin
  have hrest : v.writeBackLine l x e =
      if v.away (x.addr / 128) || v.lineBusy (x.addr / 128) home false then (v.askTokens (x.addr / 128) false, .busy) else v.bringHome l x := by
    unfold State.writeBackLine
    rcases hattr with ha | ha <;> simp only [ha, hcap, hin, hown, bne_self_eq_false, Bool.not_true, Bool.or_self, Bool.false_eq_true, if_false] <;> rfl
  rw [hrest]
  exact ⟨fun hb => if_pos (by simpa [HomeBusy] using hb), fun hb => if_neg (by simpa [HomeBusy] using hb)⟩

theorem writeBackLine_device (h : x.attr = .device) : v.writeBackLine l x e = (v, .data []) := by
  unfold State.writeBackLine
  rw [h]

theorem writeBackLine_hostc (h : x.attr = .hostc) : v.writeBackLine l x e = (if e = .system then v.hostDrop (x.addr / 64) else v, .data []) := by
  unfold State.writeBackLine
  rw [h]

/-- A cacheable line that is not brought home: the capacity tier's is written back at system scope. -/
theorem writeBackLine_capacity (hattr : x.attr = .normal ∨ x.attr = .acc) (h : ¬ Homeward v l x) :
    v.writeBackLine l x e = (if inCap x.addr = true ∧ e = .system then v.capBack (x.addr / 128) else v, .data []) := by
  have hno : (!inHbm x.addr || v.ownCheck l.part x.addr false != .performed) = true := by
    by_contra hgo
    simp only [Bool.or_eq_true, not_or, Bool.not_eq_true', Bool.not_eq_false, bne_iff_ne, ne_eq, not_not] at hgo
    exact h ⟨hattr, hgo.1, hgo.2⟩
  have hsplit : v.writeBackLine l x e =
      if inCap x.addr then (if e = .system then v.capBack (x.addr / 128) else v, .data []) else (v, .data []) := by
    unfold State.writeBackLine
    rcases hattr with ha | ha <;> simp only [ha, hno, if_true]
  rw [hsplit]
  by_cases hc : inCap x.addr = true
  · rw [if_pos hc]
    simp only [hc, true_and]
  · rw [if_neg hc, if_neg fun hand => hc hand.1]

theorem foldFor_loses_iff (v : State) (w : Via) (ln : Nat) : (v.foldFor w ln).2 = true ↔ FoldLoses v ln := by
  have hfold : (v.fold ln (some (w.who.part, some w.who.ctx))).2.isSome = true ↔ FoldLoses v ln := by
    unfold State.fold State.foldNow FoldLoses
    dsimp only
    by_cases hm : (v.line ln).mash = true
    · by_cases hp : ln ∈ v.poison <;> simp [hm, hp]
    · simp [hm]
  rw [← hfold]
  unfold State.foldFor
  dsimp only
  split
  · next hn => simp [hn]
  · next n hn => simp [hn]

theorem State.folding_of_not_away {s : State} {ln : Nat} (h : s.away ln = false) : (s.line ln).folding = false := by
  unfold State.away at h
  simp only [Bool.or_eq_false_iff] at h
  exact h.1.1.1.1.2

theorem bringHome_answer (v : State) (l : Lane) (x : Phys) :
    (FoldLoses v (x.addr / 128) → (v.bringHome l x).2 = .ue true) ∧ (¬ FoldLoses v (x.addr / 128) → (v.bringHome l x).2 = .data []) := by
  unfold State.bringHome
  dsimp only
  rw [← foldFor_loses_iff v (v.via l)]
  exact ⟨fun h => by rw [if_pos h], fun h => by rw [if_neg h]⟩

theorem State.SameUnits.bringHome (h : ¬ HomeBusy v (x.addr / 128)) : v.SameUnits (v.bringHome l x).1 := by
  have haway : v.away (x.addr / 128) = false := by
    rw [← Bool.not_eq_true]
    exact fun ha => h (.inl ha)
  have hfold := State.SameUnits.refl.foldFor (s0 := v) (v := v.via l) (ln := x.addr / 128) fun _ => State.folding_of_not_away haway
  unfold State.bringHome
  dsimp only
  split
  · exact hfold
  · exact hfold.homeObtain.hbmEnqueue

/-- The write-back changes no lane and no cluster. -/
theorem State.SameUnits.writeBackLine : v.SameUnits (v.writeBackLine l x e).1 := by
  by_cases h : Homeward v l x
  · obtain ⟨hwait, hgo⟩ := writeBackLine_homeward (e := e) h
    by_cases hb : HomeBusy v (x.addr / 128)
    · rw [hwait hb]
      exact State.SameUnits.refl.askTokens
    · rw [hgo hb]
      exact .bringHome hb
  · cases ha : x.attr with
    | device => rw [writeBackLine_device ha]; exact .refl
    | hostc => rw [writeBackLine_hostc ha]; exact .ite (.hostDrop .refl) .refl
    | normal => rw [writeBackLine_capacity (.inl ha) h]; exact .ite (.capBack .refl) .refl
    | acc => rw [writeBackLine_capacity (.inr ha) h]; exact .ite (.capBack .refl) .refl

/-- Elsewhere the word is done. -/
theorem writeBackLine_done (h : ¬ Homeward v l x) : (v.writeBackLine l x e).2 = .data [] := by
  cases ha : x.attr with
  | device => rw [writeBackLine_device ha]
  | hostc => rw [writeBackLine_hostc ha]
  | normal => rw [writeBackLine_capacity (.inl ha) h]
  | acc => rw [writeBackLine_capacity (.inr ha) h]

/-- After the home has obtained a line it may read it. -/
theorem State.homeObtain_mayRead (s : State) (ln p : Nat) (ctx : Option Nat) : ((s.homeObtain ln p ctx).line ln).mayRead home = true := by
  have htouch : ∀ t : State, (t.l3Touch p ctx ln).line ln = t.line ln := fun t => by rw [State.line, State.l3Touch_lines]; rfl
  unfold State.homeObtain
  dsimp only
  split
  · next h => rwa [htouch]
  · split
    · next h => exact h
    · rw [modLine_line, if_pos rfl]
      simp [Line.mayRead, Line.grantAll]

theorem State.homeObtain_readable {s : State} {ln p : Nat} {ctx : Option Nat} (h : (s.line ln).mayRead home = true) :
    (s.homeObtain ln p ctx).line ln = s.line ln := by
  unfold State.homeObtain
  rw [if_pos h, State.line, State.l3Touch_lines]
  rfl

/-- A line brought home that has nothing to fold: memory as it was, the write queued, the home able to read. -/
theorem bringHome_plain (hm : (v.line (x.addr / 128)).mash = false) : let t := (v.bringHome l x).1
    v.Quiet t ∧ (∃ r ∈ tget [] (hbmPc x.addr) t.hbmq ++ tget [] (bankKey (hbmPc x.addr) (hbmBank x.addr)) t.sideq, r.dpa = x.addr) ∧
      ((v.line (x.addr / 128)).mayRead home = true → t.line (x.addr / 128) = v.line (x.addr / 128)) ∧ (t.line (x.addr / 128)).mayRead home = true := by
  dsimp only
  have hline : ∀ s : State, (s.hbmEnqueue l.part (some (v.laneCtx l)) x.addr).line (x.addr / 128) = s.line (x.addr / 128) := fun s => by
    rw [State.line, State.hbmEnqueue_lines]
    rfl
  rw [State.bringHome, State.foldFor_of_not_mash hm]
  refine ⟨(v.quiet_homeObtain _ _ _).trans (State.quiet_hbmEnqueue _ _ _ _), State.hbmEnqueue_queued _ _ _ _, fun hr => ?_, ?_⟩
  · exact (hline _).trans (State.homeObtain_readable hr)
  · rw [if_neg Bool.false_ne_true, hline]
    exact v.homeObtain_mayRead _ _ _

end

/-! ### Host lines and lines of the capacity tier -/

/-- A host line that the device gives up: gone from its cache, in host memory if it was dirty. -/
theorem State.hostDrop_spec {s : State} {h : Nat} {y : Nat × HostLine} (hy : s.hostLines.find? (fun z => z.1 == h) = some y) (hlen : y.2.data.length = 64)
    (hm : s.hostMem.wf = true) : (s.hostDrop h).hostLines.find? (fun z => z.1 == h) = none ∧
      (y.2.dirty = true → readBytes (s.hostDrop h).hostMem (64 * h) 64 = y.2.data) ∧ (y.2.dirty = false → (s.hostDrop h).hostMem = s.hostMem) := by
  have hgone : (tdel h s.hostLines).find? (fun z => z.1 == h) = none :=
    List.find?_eq_none.mpr fun z hz => by simpa using (mem_tdel.mp hz).2
  unfold State.hostDrop
  rw [hy]
  dsimp only
  cases hd : y.2.dirty with
  | true =>
    refine ⟨hgone, fun _ => ?_, nofun⟩
    have hread := readBytes_writeBytes hm (64 * h) y.2.data
    rwa [hlen] at hread
  | false => exact ⟨hgone, nofun, fun _ => rfl⟩

theorem find?_tset {α : Type} (k : Nat) (x : α) (t : Tbl α) : (tset k x t).find? (fun e => e.1 == k) = some (k, x) := by
  induction t with
  | nil => simp [tset]
  | cons y r ih =>
    rw [tset]
    split_ifs with hlt heq
    · simp
    · simp
    · rw [List.find?_cons_of_neg (by simpa using fun h => heq h.symm)]
      exact ih

/-- The extent in use that holds a line of the capacity tier, the first of several. -/
def State.extentAt (s : State) (ln : Nat) : Option Extent :=
  (s.extents.map (·.2)).find? fun g => g.state != .free && decide (2 ^ 44 + g.off ≤ 128 * ln) && decide (128 * ln < 2 ^ 44 + g.off + g.len)

/-- A line of the capacity tier that is written back: a clean copy stays, and its bytes are in the pooled memory. -/
theorem State.capBack_spec {s : State} {ln : Nat} {c : CapLine} (hc : s.capLine? ln = some c) :
    (s.capBack ln).capLine? ln = some { c with dirty := false } ∧
      ∀ g, s.extentAt ln = some g → c.dirty = true → c.data.length = 128 → s.hostMem.wf = true →
        readBytes (s.capBack ln).hostMem (g.hpa + (128 * ln - 2 ^ 44 - g.off)) 128 = c.data := by
  have hclean : ∀ m, State.capLine? { s with hostMem := m, capLines := tset ln { c with dirty := false } s.capLines } ln = some { c with dirty := false } :=
    fun m => by rw [State.capLine?, find?_tset]; rfl
  have hback : s.capBack ln =
      match s.extentAt ln with
      | some g => if c.dirty then
          { s with
            hostMem := writeBytes s.hostMem (g.hpa + (128 * ln - 2 ^ 44 - g.off)) (c.data.take 128)
            capLines := tset ln { c with dirty := false } s.capLines }
          else { s with capLines := tset ln { c with dirty := false } s.capLines }
      | none => { s with capLines := tset ln { c with dirty := false } s.capLines } := by
    unfold State.capBack
    rw [hc]
    rfl
  rw [hback]
  refine ⟨?_, fun g hg hd hlen hm => ?_⟩
  · split
    · split
      · exact hclean _
      · exact hclean s.hostMem
    · exact hclean s.hostMem
  · rw [hg]
    dsimp only
    rw [if_pos hd, List.take_of_length_le hlen.le]
    have hread := readBytes_writeBytes hm (g.hpa + (128 * ln - 2 ^ 44 - g.off)) c.data
    rwa [hlen] at hread

/-! ### The words -/

/-- The machine after a word has cleared presence bits of a place's line: host lines are in no L1. -/
def State.clearedAt (u : State) (l : Lane) (x : Phys) (e : Scope) : State := if x.attr = .hostc then u else u.dropL1 l (x.addr / 128) e

/-- What such a word does beyond the L1: CFLUSH at device or system scope writes back. -/
def State.cacheDone (u : State) (l : Lane) (x : Phys) (e : Scope) (flush : Bool) : State × Res :=
  if flush && (e == .device || e == .system) then (u.clearedAt l x e).writeBackLine l x e else (u.clearedAt l x e, .data [])

/-- What such a word does in a lane. -/
def cacheAct (i : Instr) (a : VReg) (e : Scope) (flush : Bool) (s : State) (l : Lane) : State :=
  let r := s.translate (s.who l) (l.pair a).toNat .read
  match r.2 with
  | .fault f => r.1.setLane (l.pageHere f)
  | .wait => r.1.setLane l.stall
  | .ok x =>
    if (r.1.codeAt l.part x.codeKey).isSome then r.1.setLane (l.pageHere (pageFault 2 (l.pair a).toNat .read))
    else (r.1.cacheDone l x e flush).1.endAccess l i [] (.read 1) (l.pair a).toNat 2 (r.1.cacheDone l x e flush).2

section
variable {u : State} {l : Lane} {x : Phys} {e : Scope} {flush : Bool}

theorem State.clearedAt_eq (u : State) (l : Lane) (x : Phys) (e : Scope) : ∃ c, u.clearedAt l x e = { u with clusters := c } := by
  unfold State.clearedAt
  split
  · exact ⟨u.clusters, rfl⟩
  · exact u.dropL1_eq _ _ _

theorem cacheDone_of_not (h : flush = false ∨ (e ≠ .device ∧ e ≠ .system)) : u.cacheDone l x e flush = (u.clearedAt l x e, .data []) := by
  refine if_neg ?_
  simp only [Bool.and_eq_true, Bool.or_eq_true, beq_iff_eq]
  rintro ⟨hf, he⟩
  rcases h with h | ⟨hd, hs⟩
  · rw [h] at hf
    cases hf
  · exact he.elim hd hs

theorem cacheDone_of (hf : flush = true) (he : e = .device ∨ e = .system) : u.cacheDone l x e flush = (u.clearedAt l x e).writeBackLine l x e :=
  if_pos (by simpa [hf] using he)

/-- Beyond its presence bits the word changes no lane and no cluster. -/
theorem cacheDone_units : (u.clearedAt l x e).SameUnits (u.cacheDone l x e flush).1 := by
  unfold State.cacheDone
  split
  · exact .writeBackLine
  · exact .refl

/-- CFLUSH brings the line of a place home. -/
def FlushesHome (u : State) (l : Lane) (x : Phys) (e : Scope) (flush : Bool) : Prop := flush = true ∧ (e = .device ∨ e = .system) ∧ Homeward u l x

/-- What a lane does after the word, by what the word met. -/
theorem cacheDone_answer :
    (FlushesHome u l x e flush → HomeBusy u (x.addr / 128) → (u.cacheDone l x e flush).2 = .busy) ∧
    (FlushesHome u l x e flush → ¬ HomeBusy u (x.addr / 128) → FoldLoses u (x.addr / 128) → (u.cacheDone l x e flush).2 = .ue true) ∧
    (¬ (FlushesHome u l x e flush ∧ (HomeBusy u (x.addr / 128) ∨ FoldLoses u (x.addr / 128))) → (u.cacheDone l x e flush).2 = .data []) := by
  obtain ⟨c, hv⟩ := u.clearedAt_eq l x e
  have hhome : FlushesHome u l x e flush → u.cacheDone l x e flush = (u.clearedAt l x e).writeBackLine l x e := fun ⟨hf, he, _⟩ => cacheDone_of hf he
  refine ⟨fun hb hbusy => ?_, fun hb hbusy hlost => ?_, fun hno => ?_⟩
  · rw [hhome hb, hv]
    rw [(writeBackLine_homeward (v := { u with clusters := c }) (e := e) hb.2.2).1 hbusy]
  · rw [hhome hb, hv]
    rw [(writeBackLine_homeward (v := { u with clusters := c }) (e := e) hb.2.2).2 hbusy]
    exact (bringHome_answer { u with clusters := c } l x).1 hlost
  · by_cases hf : flush = true ∧ (e = .device ∨ e = .system)
    · rw [cacheDone_of hf.1 hf.2, hv]
      by_cases hh : Homeward u l x
      · have hfree : ¬ (HomeBusy u (x.addr / 128) ∨ FoldLoses u (x.addr / 128)) := fun h => hno ⟨⟨hf.1, hf.2, hh⟩, h⟩
        rw [not_or] at hfree
        rw [(writeBackLine_homeward (v := { u with clusters := c }) (e := e) hh).2 hfree.1]
        exact (bringHome_answer { u with clusters := c } l x).2 hfree.2
      · exact writeBackLine_done (v := { u with clusters := c }) hh
    · rw [cacheDone_of_not]
      rw [not_and_or, not_or, Bool.not_eq_true] at hf
      exact hf

/-- The presence bits after the word. -/
theorem cacheDone_l1 : let ys := (((u.cacheDone l x e flush).1).cluster l.cluster).l1
    (∀ y ∈ ys, y.line = x.addr / 128 → x.attr ≠ .hostc → y.mask.getLsbD l.core = false ∧
      (e = .cluster ∨ e = .die ∨ e = .device ∨ e = .system → y.mask = 0)) ∧
    ∀ y, y.line ≠ x.addr / 128 → (y ∈ ys ↔ y ∈ (u.cluster l.cluster).l1) := by
  dsimp only
  rw [cacheDone_units.cluster]
  by_cases ha : x.attr = .hostc
  · rw [State.clearedAt, if_pos ha]
    exact ⟨fun _ _ _ hn => absurd ha hn, fun _ _ => Iff.rfl⟩
  · rw [State.clearedAt, if_neg ha, State.dropL1_l1]
    refine ⟨fun y hy hl _ => ?_, fun y hl => mem_clearedL1_of_ne hl⟩
    obtain ⟨hbit, hall⟩ := clearedL1_same (Nat.mod_lt _ (by norm_num)) hy hl
    exact ⟨hbit, fun he => hall ((wide_iff e).mpr he)⟩

/-- Where nothing is written back. -/
theorem cacheDone_plain (h : flush = false ∨ (e ≠ .device ∧ e ≠ .system) ∨ x.attr = .device ∨ (inPeer x.addr = true ∧ x.attr ≠ .hostc)) :
    (u.cacheDone l x e flush).1 = u.clearedAt l x e := by
  by_cases hf : flush = false ∨ (e ≠ .device ∧ e ≠ .system)
  · rw [cacheDone_of_not hf]
  · have hrest := (or_assoc.mpr h).resolve_left hf
    rw [not_or, Bool.not_eq_false, not_and_or, not_not, not_not] at hf
    rw [cacheDone_of hf.1 hf.2]
    rcases hrest with ha | ⟨hpeer, ha⟩
    · rw [writeBackLine_device ha]
    · simp only [inPeer, Bool.and_eq_true, decide_eq_true_eq] at hpeer
      have hhbm : inHbm x.addr = false := by simp only [inHbm, decide_eq_false_iff_not]; omega
      have hcap : inCap x.addr = false := by simp only [inCap, Bool.and_eq_false_iff, decide_eq_false_iff_not]; omega
      have hno : ¬ Homeward (u.clearedAt l x e) l x := fun ⟨_, hin, _⟩ => by rw [hhbm] at hin; cases hin
      have hskip : ¬ (inCap x.addr = true ∧ e = .system) := fun ⟨hc, _⟩ => by rw [hcap] at hc; cases hc
      cases hattr : x.attr with
      | hostc => exact absurd hattr ha
      | device => rw [writeBackLine_device hattr]
      | normal => rw [writeBackLine_capacity (.inl hattr) hno, if_neg hskip]
      | acc => rw [writeBackLine_capacity (.inr hattr) hno, if_neg hskip]

end

/-- What such a word leaves a lane that it lets go on, wait or take a data error. -/
theorem endAccess_eq {i : Instr} {s : State} {l : Lane} {op : PeerOp} {ea : Nat} {r : Res} (hi : instrLen i = 4) :
    (r = .data [] → s.endAccess l i [] op ea 2 r = s.setLane (l.adv 4)) ∧ (r = .busy → s.endAccess l i [] op ea 2 r = s.setLane l.stall) ∧
    (r = .ue true → s.endAccess l i [] op ea 2 r = s.setLane ((l.defer i [] [] [] 0 (.dataUe 2 (BitVec.ofNat 64 ea) false)).adv 4)) := by
  refine ⟨?_, ?_, ?_⟩
  · rintro rfl
    rw [State.endAccess, hi]
  · rintro rfl
    rfl
  · rintro rfl
    rw [State.endAccess, hi]
    rfl

end Sys2Proof.Machine


namespace Sys2Proof.Machine
open Sys2Proof Sys2Proof.Claims

section
variable {i : Instr} {a : VReg} {e : Scope} {flush : Bool} {s u : State} {l : Lane} {x : Phys}

theorem cacheAct_fault {f : PageFault} (h : s.translate (s.who l) (l.pair a).toNat .read = (u, .fault f)) :
    cacheAct i a e flush s l = u.setLane (faultsHere l f) := by
  rw [cacheAct, h]
  rfl

theorem cacheAct_wait (h : s.translate (s.who l) (l.pair a).toNat .read = (u, .wait)) : cacheAct i a e flush s l = u.setLane l.stall := by
  rw [cacheAct, h]

theorem cacheAct_code (h : s.translate (s.who l) (l.pair a).toNat .read = (u, .ok x)) (hc : (u.codeAt l.part x.codeKey).isSome = true) :
    cacheAct i a e flush s l = u.setLane (faultsHere l { reason := 2, va := (l.pair a).toNat, write := false, fetch := false }) := by
  rw [cacheAct, h]
  exact if_pos hc

theorem cacheAct_ok (h : s.translate (s.who l) (l.pair a).toNat .read = (u, .ok x)) (hc : u.codeAt l.part x.codeKey = none) :
    cacheAct i a e flush s l = (u.cacheDone l x e flush).1.endAccess l i [] (.read 1) (l.pair a).toNat 2 (u.cacheDone l x e flush).2 := by
  rw [cacheAct, h]
  dsimp only
  rw [hc]
  rfl

/-- The lane goes on, waits, or takes a data error; the rest of the machine is as the word leaves it. -/
theorem cacheAct_lanes (hi : instrLen i = 4) (h : s.translate (s.who l) (l.pair a).toNat .read = (u, .ok x)) (hc : u.codeAt l.part x.codeKey = none) :
    let t := cacheAct i a e flush s l
    (∃ k, t = (u.cacheDone l x e flush).1.setLane k) ∧
    (FlushesHome u l x e flush → HomeBusy u (x.addr / 128) → t.lanes = (u.setLane l.stall).lanes) ∧
    (FlushesHome u l x e flush → ¬ HomeBusy u (x.addr / 128) → FoldLoses u (x.addr / 128) →
      t.lanes = (u.setLane ((l.defer i [] [] [] 0 (.dataUe 2 (BitVec.ofNat 64 (l.pair a).toNat) false)).adv 4)).lanes) ∧
    (¬ (FlushesHome u l x e flush ∧ (HomeBusy u (x.addr / 128) ∨ FoldLoses u (x.addr / 128))) → t.lanes = (u.setLane (l.adv 4)).lanes) := by
  dsimp only
  rw [cacheAct_ok h hc]
  obtain ⟨hwait, hlose, hdone⟩ := cacheDone_answer (u := u) (l := l) (x := x) (e := e) (flush := flush)
  obtain ⟨hdata, hbusy, hue⟩ := endAccess_eq (s := (u.cacheDone l x e flush).1) (l := l) (op := .read 1) (ea := (l.pair a).toNat)
    (r := (u.cacheDone l x e flush).2) hi
  have hlanes : (u.cacheDone l x e flush).1.lanes = u.lanes := by
    obtain ⟨c, hv⟩ := u.clearedAt_eq l x e
    rw [cacheDone_units.1, hv]
  refine ⟨?_, fun hb hw => ?_, fun hb hw hl => ?_, fun hno => ?_⟩
  · by_cases hno : FlushesHome u l x e flush ∧ (HomeBusy u (x.addr / 128) ∨ FoldLoses u (x.addr / 128))
    · obtain ⟨hb, hor⟩ := hno
      by_cases hw : HomeBusy u (x.addr / 128)
      · exact ⟨_, hbusy (hwait hb hw)⟩
      · exact ⟨_, hue (hlose hb hw (hor.resolve_left hw))⟩
    · exact ⟨_, hdata (hdone hno)⟩
  · rw [hbusy (hwait hb hw)]
    exact lanes_setLane_of_eq hlanes _
  · rw [hue (hlose hb hw hl)]
    exact lanes_setLane_of_eq hlanes _
  · rw [hdata (hdone hno)]
    exact lanes_setLane_of_eq hlanes _

/-- A line brought home by CFLUSH that has nothing to fold. -/
theorem cacheDone_home (hb : FlushesHome u l x e flush) (hw : ¬ HomeBusy u (x.addr / 128)) (hm : (u.line (x.addr / 128)).mash = false) :
    let t := (u.cacheDone l x e flush).1
    SameMem u t ∧ Kept u t ∧ (∃ r ∈ tget [] (hbmPc x.addr) t.hbmq ++ tget [] (bankKey (hbmPc x.addr) (hbmBank x.addr)) t.sideq, r.dpa = x.addr) ∧
      ((u.line (x.addr / 128)).mayRead home = true → (t.line (x.addr / 128)).holds = (u.line (x.addr / 128)).holds) ∧
      (t.line (x.addr / 128)).mayRead home = true := by
  obtain ⟨hf, he, hh⟩ := hb
  obtain ⟨c, hv⟩ := u.clearedAt_eq l x e
  dsimp only
  rw [cacheDone_of hf he, hv, (writeBackLine_homeward (v := { u with clusters := c }) (e := e) hh).2 hw]
  obtain ⟨hquiet, hqueued, hline, hread⟩ := bringHome_plain (v := { u with clusters := c }) (l := l) (x := x) hm
  exact ⟨fun b => sameMem_of_quiet hquiet b, kept_of_quiet hquiet, hqueued, fun hr => congrArg Line.holds (hline hr), hread⟩

theorem cacheDone_hostc (hf : flush = true) (he : e = .system) (hx : x.attr = .hostc) :
    (u.cacheDone l x e flush).1 = u.hostDrop (x.addr / 64) := by
  rw [cacheDone_of hf (.inr he), State.clearedAt, if_pos hx, writeBackLine_hostc hx, if_pos he]

theorem cacheDone_capacity (hf : flush = true) (he : e = .system) (hx : x.attr = .normal ∨ x.attr = .acc) (hcap : inCap x.addr = true) :
    (u.cacheDone l x e flush).1 = (u.clearedAt l x e).capBack (x.addr / 128) := by
  have hno : ¬ Homeward (u.clearedAt l x e) l x := fun ⟨_, hin, _⟩ => by
    rw [inCap_of_inHbm hin] at hcap
    cases hcap
  rw [cacheDone_of hf (.inr he), writeBackLine_capacity hx hno, if_pos ⟨hcap, he⟩]

end

/-- PREF, CINV and CFLUSH. -/
theorem cacheOperations_holds : CacheOperations := by
  refine ⟨fun a v => ?_, fun a e flush => ?_⟩
  · refine each_of_guarded (act := fun s l => (s.prefetch l (l.pair a).toNat v.val).setLane (l.adv 4)) (fun s => rfl) fun s l => ?_
    refine ⟨lanes_setLane_of_eq prefetch_lanes _, fun hva => by rw [prefetch_high hva], fun hva => ⟨fun u f h => by rw [prefetch_fault hva h],
      fun u h => by rw [prefetch_wait hva h], fun u x h => ?_⟩⟩
    obtain ⟨hno, hgo⟩ := prefetch_ok (level := v.val) hva h
    refine ⟨fun hbad => ?_, fun hm => ?_, fun hattr hin hown hcode hclean hbusy => ?_⟩
    · rw [hno]
      rintro ⟨hattr, hin, hown, -, hclean, -⟩
      rcases hbad with hb | hb | hb | hb | hb
      · rcases hattr with ha | ha <;> rw [ha] at hb <;> cases hb
      · rcases hattr with ha | ha <;> rw [ha] at hb <;> cases hb
      · rw [hin] at hb
        cases hb
      · exact hclean hb
      · exact hb hown
    · by_cases hx : Fetchable u l x
      · rw [hgo hx]
        exact ⟨fun b => sameMem_of_quiet (State.quiet_fetchLine hm) b, kept_setLane (kept_of_quiet (State.quiet_fetchLine hm)) _⟩
      · rw [hno hx]
        exact ⟨fun _ => rfl, kept_setLane (kept_of_quiet (.refl u)) _⟩
    · rw [hgo ⟨hattr, hin, hown, hcode, hclean, hbusy⟩]
      refine ⟨fun hv => ?_, fun hv hn hm hw => ?_⟩
      · subst hv
        exact u.mem_l3_l3Touch _ _ _
      · subst hv
        exact State.fetchLine_l1 hn hm hw
  · have hexec : ∀ s, exec (if flush then .cflush a e else .cinv a e) s =
        guarded (if flush then .cflush a e else .cinv a e) s fun s => eachActive s (cacheAct (if flush then .cflush a e else .cinv a e) a e flush) := by
      cases flush <;> exact fun s => rfl
    have hlen : instrLen (if flush then .cflush a e else .cinv a e) = 4 := by cases flush <;> rfl
    refine each_of_guarded hexec fun s l => ⟨fun u f h => cacheAct_fault h, fun u h => cacheAct_wait h, fun u x h hc => cacheAct_code h hc, fun u x h hc => ?_⟩
    obtain ⟨⟨k, ht⟩, hwait, hlose, hdone⟩ := cacheAct_lanes (e := e) (flush := flush) hlen h hc
    obtain ⟨hsame, hother⟩ := cacheDone_l1 (u := u) (l := l) (x := x) (e := e) (flush := flush)
    obtain ⟨c, hv⟩ := u.clearedAt_eq l x e
    refine ⟨fun hb hw => hwait hb hw, fun hb hw hl => ?_, fun hno => hdone hno, ?_, ?_, fun hp => ?_, fun hb hw hm => ?_, fun hf he hx y hy hlen hm => ?_,
      fun hf he hx hcap c hcl => ?_⟩
    · exact hlose hb hw hl
    · rw [ht]
      exact hsame
    · rw [ht]
      exact hother
    · rw [ht, cacheDone_plain hp, hv]
      exact ⟨rfl, rfl, rfl, rfl, kept_setLane (kept_of_quiet (.of_eq rfl rfl rfl rfl rfl rfl rfl rfl)) _⟩
    · rw [ht]
      obtain ⟨hmem, hkept, hqueued, hline, hread⟩ := cacheDone_home hb hw hm
      exact ⟨fun b => hmem b, kept_setLane hkept _, hqueued, hline, fun _ _ _ _ => hread⟩
    · rw [ht, cacheDone_hostc hf he hx]
      exact State.hostDrop_spec hy hlen hm
    · rw [ht, cacheDone_capacity hf he hx hcap, hv]
      exact State.capBack_spec (s := { u with clusters := _ }) hcl

end Sys2Proof.Machine

section
open Sys2Proof Sys2Proof.Machine Sys2Proof.Claims

/-- Settles O37: the cache words by what they meet at the line's home, the row pins by the first status that applies. -/
theorem cachesAndRowPins : Obligations.CachesAndRowPins := ⟨cacheOperations_holds, rowPins_holds⟩

end


/-! ## A PDONE on its way to another agent than the home -/

namespace Sys2Proof.Machine
open Sys2Proof Sys2Proof.Claims

/-- The persistent request of engine agent 5 for a line, to write it. -/
def astrayReq : TokReq :=
  { agent := 5, excl := true, attempt := 4, failed := true, persistent := true, age := 0, sent := 0, retryAt := 0, ctx := none }
/-- A line whose active persistent requester, agent 5, has received all 16 tokens and the data. -/
def astrayLine : Line :=
  { line0 with
    holds := (line0.holds.set 8 { hold0 with pact := some 5 }).set 5 { hold0 with t := 16, owner := true, valid := true, pact := some 5 }
    reqs := [astrayReq], persist := [(5, 0, true)], active := some 5 }
/-- A PDONE of agent 5 about line 2, addressed to agent 7. -/
def astrayDone : Msg := msg0 .pdone 2 5 7
/-- Line 2 so, with that message the only one on its way. -/
def astrayState : State := { State.reset with boot := .ready, lines := [(2, astrayLine)], net := [astrayDone] }

/-- Agent 5 performs its write and sends no PDONE of its own (`State.checkDone`). -/
theorem astrayState_takeAll : (astrayState.takeAll 2 5 0 none).net = [astrayDone] := by decide +kernel
end Sys2Proof.Machine

section
open Sys2Proof Sys2Proof.Machine Sys2Proof.Claims

/-- Refutes O43: the clause on the completion of a persistent request says that once its access is performed a PDONE of the requester is on its way to
the home (R159), whatever was on its way before; but the requester sends none where the network holds one of its for the line already, and
`State.checkDone` asks only who sent that one, not where it goes. No event of the model sends a PDONE elsewhere than to the home, and the clause
does not say that none is under way. -/
theorem not_tokenProtocol : ¬ Obligations.TokenProtocol := by
  rintro ⟨-, hpersistent⟩
  obtain ⟨-, -, -, -, -, -, hcomplete, -⟩ := hpersistent
  obtain ⟨x, hx, -, -, -, hhome⟩ := hcomplete astrayState 2 0 5 none astrayReq (by decide) rfl rfl rfl rfl
  rw [astrayState_takeAll, List.mem_singleton] at hx
  rw [hx] at hhome
  exact absurd hhome (by decide)

end

/-! ## Words that behave as marked, and releases -/

namespace Sys2Proof.Machine
open Sys2Proof Sys2Proof.Claims

@[simp] theorem Lane.landed_issuing (l : Lane) : l.landed.issuing = l.issuing :=
  Lane.landed_field Lane.issuing (fun l d => (congrArg Lane.issuing (l.writeBack_frame d allTake) :)) (fun _ => rfl) l

theorem Lane.writeBack_deferred_nil {l : Lane} (h : l.deferred = []) (d : Deferred) (pick : Nat) : (l.writeBack d pick).deferred = [] := by
  simpa [h] using l.writeBack_deferred d pick

theorem Lane.landed_deferred_nil {l : Lane} (h : l.deferred = []) : l.landed.deferred = [] :=
  List.foldlRecOn (motive := fun m : Lane => m.deferred = []) l.early _ h fun _ hm d _ => Lane.writeBack_deferred_nil hm d allTake

/-- An act that keeps slots and the mark of the issuing bundle keeps its places. -/
theorem activeAt_mapActive {s : State} {f : Lane → Lane} (hid : ∀ l, (f l).id = l.id) (hi : ∀ l, (f l).issuing = l.issuing) (n : Nat) :
    (mapActive s f).activeAt n = (s.activeAt n).map fun l => if l.issuing then f l else l := by
  unfold State.activeAt
  rw [mapActive_lanes, List.find?_map]
  congr 2
  funext l
  rw [Function.comp_apply]
  split
  · rw [hid, hi]
  · rfl

theorem lead_mapActive {s : State} {f : Lane → Lane} {l : Lane} (hid : ∀ l, (f l).id = l.id) (hi : ∀ l, (f l).issuing = l.issuing)
    (hlead : s.lead = some l) : ∃ m, (mapActive s f).lead = some m := by
  refine ⟨if l.issuing then f l else l, ?_⟩
  have h : (mapActive s f).lead = s.lead.map fun l => if l.issuing then f l else l := by
    rw [State.lead, State.lead, List.map_findSome?]
    congr 1
    exact funext (activeAt_mapActive hid hi)
  rw [h, hlead, Option.map_some]

theorem mapActive_congr_on {s : State} {f g : Lane → Lane} (h : Actives s fun l => f l = g l) : mapActive s f = mapActive s g := by
  have hl : (s.lanes.map fun l => if l.issuing then f l else l) = s.lanes.map fun l => if l.issuing then g l else l :=
    List.map_congr_left fun l hl => by
      split
      · next hi => exact h l hl hi
      · rfl
  rw [mapActive, mapActive, hl]

theorem lead_landing {s : State} {l : Lane} (h : s.lead = some l) : ∃ m, (landing s).lead = some m :=
  lead_mapActive Lane.landed_id Lane.landed_issuing h

/-- Where nothing is outstanding, a word that behaves as marked acts at once, on the landed lanes (R79, R80). -/
theorem waitFirst_of_settled {s : State} {l : Lane} (h : Settled s) (hlead : s.lead = some l) (k : State → State) : waitFirst s k = k (landing s) := by
  have hs : (mapActive s fun l => if l.deferred.isEmpty then l.landed else { l.stall with marker := true }) = landing s :=
    mapActive_congr_on fun m hm hi => if_pos (by rw [h m hm hi]; rfl)
  obtain ⟨m, hm⟩ := lead_landing hlead
  have hne : (landing s).actives.isEmpty = false := List.isEmpty_eq_false_iff_exists_mem.mpr ⟨m, State.mem_actives_of_lead hm⟩
  rw [waitFirst, hs, if_neg (by rw [hne]; exact Bool.false_ne_true)]

theorem performed_landing {s : State} (h : Settled s) (hu : Unheld s) : Performed (landing s) := by
  intro m hm hi
  obtain ⟨l, hl, rfl⟩ := List.mem_map.mp (show m ∈ s.lanes.map fun l => if l.issuing then l.landed else l from hm)
  by_cases hli : l.issuing = true
  · rw [if_pos hli]
    have hd : l.landed.deferred = [] := Lane.landed_deferred_nil (h l hl hli)
    have ha : (landing s).holdsAtom l.landed = s.holdsAtom l := by rw [State.holdsAtom, Lane.landed_id]; rfl
    rw [State.outstanding, hd, ha, hu l hl hli]
    rfl
  · rw [if_neg hli] at hi
    exact absurd hi hli

theorem eachSettled_of_guarded {i : Instr} {act : State → Lane → State} {spec : State → Lane → State → Prop}
    (h : ∀ s, exec i s = guarded i s fun s => waitFirst s fun s => eachActive s act) (hs : ∀ s l, spec s l (act s l)) : EachSettled i spec := by
  refine ⟨act, fun s hl hset => ?_, hs⟩
  obtain ⟨l, hlead, hill⟩ := hl
  rw [h, guarded_next hlead hill, waitFirst_of_settled hset hlead]

theorem eachArrived_of_guarded {i : Instr} {act : State → Lane → State} {spec : State → Lane → State → Prop}
    (h : ∀ s, exec i s = guarded i s fun s => waitFirst s fun s => releaseFirst s fun s => eachActive s act) (hs : ∀ s l, spec s l (act s l)) :
    EachArrived i spec := by
  refine ⟨act, fun s hl hset hun => ?_, hs⟩
  obtain ⟨l, hlead, hill⟩ := hl
  obtain ⟨m, hm⟩ := lead_landing hlead
  rw [h, guarded_next hlead hill, waitFirst_of_settled hset hlead, releaseFirst_of_performed (performed_landing hset hun) hm]

theorem eachReleased_of_guarded {i : Instr} {act : State → Lane → State} {spec : State → Lane → State → Prop}
    (h : ∀ s, exec i s = guarded i s fun s => releaseFirst s fun s => eachActive s act) (hs : ∀ s l, spec s l (act s l)) : EachReleased i spec := by
  refine ⟨act, fun s hl hperf => ?_, hs⟩
  obtain ⟨l, hlead, hill⟩ := hl
  rw [h, guarded_next hlead hill, releaseFirst_of_performed hperf hlead]

/-! ## What settles where no lane has anything to settle -/

theorem calm_map {s t : State} {g : Lane → Lane} (h : Calm s) (ht : t.lanes = s.lanes.map g)
    (hg : ∀ l, (g l).marker = l.marker ∧ (g l).evw = l.evw ∧ (g l).stepPend = l.stepPend ∧ (g l).trap = l.trap ∧ (g l).pfault = l.pfault) : Calm t := by
  intro m hm
  rw [ht] at hm
  obtain ⟨l, hl, rfl⟩ := List.mem_map.mp hm
  obtain ⟨h1, h2, h3, h4, h5⟩ := hg l
  rw [h1, h2, h3, h4, h5]
  exact h l hl

theorem calm_of_lanes {s t : State} (h : Calm s) (ht : t.lanes = s.lanes) : Calm t := fun l hl => h l (ht ▸ hl)

theorem State.onLane_of_unchanged {s : State} {f : State → Lane → State} (h : ∀ l ∈ s.lanes, f s l = s) (id : LaneId) : s.onLane id f = s := by
  unfold State.onLane
  split
  · next l hl => exact h l (State.lane?_mem hl)
  · rfl

theorem State.settle_of_calm {s : State} (h : Calm s) (ids : List LaneId) : s.settle ids = s := by
  have hmark : ∀ l ∈ s.lanes, s.settleMarker l = s := fun l hl => State.settleMarker_unmarked (h l hl).1 (h l hl).2.2.2.1
  have hstep : ∀ l ∈ s.lanes, s.settleStep l = s := fun l hl => State.settleStep_of_none (h l hl).2.2.1
  have hfold : ∀ {f : State → Lane → State}, (∀ l ∈ s.lanes, f s l = s) → ids.foldl (fun s id => s.onLane id f) s = s := fun hf =>
    List.foldlRecOn (motive := fun t => t = s) ids _ rfl fun t ht id _ => by rw [ht, State.onLane_of_unchanged hf]
  unfold State.settle
  dsimp only
  rw [hfold hmark, State.takePages_of_none fun l hl => (h l hl).2.2.2.2, hfold hstep]

/-- A lane whose park ends. -/
def Lane.awake (l : Lane) (cycle : Nat) : Lane := { l with park := .ready, since := cycle }

theorem State.release_of_calm {s : State} (h : Calm s) (f : Lane → Bool) :
    s.release f = { s with lanes := s.lanes.map fun l => if f l then l.awake s.cycle else l } := by
  unfold State.release
  refine State.settle_of_calm (calm_map h rfl fun l => ?_) _
  split <;> exact ⟨rfl, rfl, rfl, rfl, rfl⟩

/-! ## What an acquire changes -/

theorem State.clearL1_eq (s : State) (c k : Nat) : ∃ cs, s.clearL1 c k = { s with clusters := cs } := by
  unfold State.clearL1
  split <;> exact ⟨_, rfl⟩

theorem State.foldl_clearL1_eq (ks : List (Nat × Nat)) (s : State) : ∃ cs, ks.foldl (fun s c => s.clearL1 c.1 c.2) s = { s with clusters := cs } :=
  List.foldlRecOn (motive := fun t : State => ∃ cs : Tbl Cluster, t = { s with clusters := cs }) ks _ ⟨s.clusters, rfl⟩ fun t ⟨cs, ht⟩ c _ => by
    obtain ⟨cs', h⟩ := State.clearL1_eq t c.1 c.2
    exact ⟨cs', by rw [h, ht]⟩

theorem State.acquireAll_eq (s : State) (f : Lane → Bool) (e : Scope) : ∃ cs, s.acquireAll f e = { s with clusters := cs } := by
  unfold State.acquireAll
  split
  · exact State.foldl_clearL1_eq _ s
  · exact ⟨s.clusters, rfl⟩

theorem State.foldl_clearL1_clear {c k : Nat} (hk : k < 4) {ks : List (Nat × Nat)} (h : (c, k) ∈ ks) (s : State) :
    (ks.foldl (fun s c => s.clearL1 c.1 c.2) s).L1Clear c k := by
  induction ks generalizing s with
  | nil => cases h
  | cons a r ih =>
    rw [List.foldl_cons]
    obtain h | h := List.mem_cons.mp h
    · subst h
      exact List.foldlRecOn (motive := fun t : State => t.L1Clear c k) r _ (s.l1Clear_clearL1 c hk) fun t ht b _ => by
        by_cases hc : b.1 = c
        · exact hc ▸ (hc ▸ ht : t.L1Clear b.1 k).clearL1 b.2
        · intro y hy
          refine ht y ?_
          unfold State.clearL1 at hy
          split at hy
          · exact hy
          · rwa [modCluster_cluster, if_neg (Ne.symm hc)] at hy
    · exact ih h _

theorem Lane.core_lt (l : Lane) : l.core < 4 := Nat.mod_lt _ (by decide)

/-- An acquire at cluster scope or wider leaves the core of each lane that acquires no line of its cluster's L1 (R118). -/
theorem State.acquireAll_clear {s : State} {f : Lane → Bool} {e : Scope} (he : wide e = true) {l : Lane} (hl : l ∈ s.lanes) (hf : f l = true) :
    (s.acquireAll f e).L1Clear l.cluster l.core := by
  rw [State.acquireAll, if_pos he]
  refine State.foldl_clearL1_clear l.core_lt ?_ s
  rw [List.mem_eraseDups]
  exact List.mem_map.mpr ⟨l, List.mem_filter.mpr ⟨hl, hf⟩, rfl⟩

end Sys2Proof.Machine

/-! ## Settling keeps the teams -/

namespace Sys2Proof.Machine
open Sys2Proof Sys2Proof.Claims

theorem teams_foldl {β : Type} {f : State → β → State} (hf : ∀ u b, (f u b).teams = u.teams) (bs : List β) (s : State) : (bs.foldl f s).teams = s.teams :=
  List.foldlRecOn (motive := fun t : State => t.teams = s.teams) bs _ rfl fun t ht b _ => (hf t b).trans ht

theorem State.msix_teams (s : State) (f : Fn) (vec : Nat) : (s.msix f vec).teams = s.teams := by
  unfold State.msix
  split
  · rfl
  · split
    · rfl
    · split <;> rfl

theorem State.opFault_teams (s : State) (p : Nat) (r : Rec) : (s.opFault p r).teams = s.teams := by
  unfold State.opFault
  dsimp only
  split
  · rfl
  · rfl
  · exact (State.msix_teams _ _ _).trans (s.opRing_teams _ _)

theorem State.fqPush_teams (s : State) (p : Nat) (b : BitVec 512) : (s.fqPush p b).teams = s.teams := by
  have hw := s.devWrite_teams p (s.part p).fq.addr (leBytes b.toNat 64)
  unfold State.fqPush
  dsimp only
  split
  · exact (State.msix_teams _ _ _).trans hw
  · exact hw

theorem State.flushHeld_teams (s : State) (p : Nat) : (s.flushHeld p).teams = s.teams :=
  teams_foldl (fun u b => by
    split
    · exact State.fqPush_teams _ p b
    · rfl) _ s

theorem State.record_teams (s : State) (p : Nat) (r : Rec) : (s.record p r).teams = s.teams := by
  unfold State.record
  extract_lets q r' s1 s2 s3
  have h1 : s1.teams = s.teams := q.2.opFault_teams p r'
  have h2 : s2.teams = s.teams := by
    unfold s2
    split
    · exact (s1.count_teams _ _ _ _).trans h1
    · exact h1
  have h3 : s3.teams = s.teams := (s2.flushHeld_teams p).trans h2
  split
  · exact (s3.fqPush_teams p _).trans h3
  · split <;> exact h3

theorem State.halt_teams (s : State) (p cause aux : Nat) (who : Option HaltWho) : (s.halt p cause aux who).teams = s.teams := by
  unfold State.halt State.stopRing
  dsimp only
  split
  · exact (State.msix_teams _ _ _).trans (State.opRing_teams _ _ _)
  · rfl

theorem State.trapEntry_teams (s : State) (l : Lane) (t : TrapReq) : (s.trapEntry l t).teams = s.teams := by
  unfold State.trapEntry
  dsimp only
  split
  · exact State.halt_teams _ _ _ _ _
  · split
    · exact State.halt_teams _ _ _ _ _
    · split <;> rfl

theorem State.raise_teams (s : State) (l : Lane) (t : TrapReq) : (s.raise l t).teams = s.teams := by
  unfold State.raise
  split
  · exact s.trapEntry_teams l t
  · rfl

theorem State.pageRecord_teams (s : State) (l : Lane) (f : PageFault × DWord × Nat) : (s.pageRecord l f).teams = s.teams := by
  unfold State.pageRecord
  dsimp only
  split
  · exact State.halt_teams _ _ _ _ _
  · split
    · rfl
    · exact State.record_teams _ _ _

theorem State.takePages_teams (s : State) : s.takePages.teams = s.teams :=
  teams_foldl (fun u l => by
    split
    · split
      · exact u.pageRecord_teams _ _
      · rfl
    · rfl) _ s

theorem State.settleMarker_teams (s : State) (l : Lane) : (s.settleMarker l).teams = s.teams := by
  unfold State.settleMarker State.takeShare
  dsimp only
  split
  · rfl
  · split
    · rfl
    · split
      · split <;> rfl
      · split
        · rfl
        · split
          · split
            · split <;> rfl
            · rfl
          · exact State.trapEntry_teams _ _ _
          · rfl

theorem State.settleStep_teams (s : State) (l : Lane) : (s.settleStep l).teams = s.teams := by
  unfold State.settleStep
  split
  · split
    · exact State.raise_teams _ _ _
    · rfl
  · rfl

theorem State.onLane_teams {f : State → Lane → State} (hf : ∀ u l, (f u l).teams = u.teams) (s : State) (id : LaneId) : (s.onLane id f).teams = s.teams := by
  unfold State.onLane
  split
  · exact hf _ _
  · rfl

theorem State.settle_teams (s : State) (ids : List LaneId) : (s.settle ids).teams = s.teams :=
  (teams_foldl (State.onLane_teams State.settleStep_teams) ids _).trans
    ((State.takePages_teams _).trans (teams_foldl (State.onLane_teams State.settleMarker_teams) ids s))

theorem State.release_teams (s : State) (f : Lane → Bool) : (s.release f).teams = s.teams := State.settle_teams _ _

end Sys2Proof.Machine

/-! ## Barriers -/

namespace Sys2Proof.Machine
open Sys2Proof Sys2Proof.Claims

/-- The bit of a role in a mask of roles (R357). -/
def roleIdx : Role → Nat
  | .con => 0
  | .pro => 1

theorem fld_roleBit_eq_one (m : Nat) (r : Role) : (fld m (roleBit r - 1) 1 == 1) = m.testBit (roleIdx r) := by
  cases r <;> exact fld_one_beq _ _

theorem fld_roleBit_eq_zero_iff (m : Nat) (r : Role) : fld m (roleBit r - 1) 1 = 0 ↔ m.testBit (roleIdx r) = false := by
  have hlt : fld m (roleBit r - 1) 1 < 2 := Nat.mod_lt _ (by decide)
  rw [← fld_roleBit_eq_one, beq_eq_false_iff_ne]
  omega

/-! ### Arrival at a team barrier (R214, R358) -/

section
variable {s : State} {l : Lane} {tm : Team} {m b : Fin 4} {go : Nat → Lane → Lane}

theorem State.arrive_of_no_team (h : s.team? l.id.tid = none) : s.arrive l m b go = s := by rw [State.arrive, h]

theorem State.arrive_of_not_in_mask (h : s.team? l.id.tid = some tm) (hr : m.val.testBit (roleIdx l.role) = false) :
    s.arrive l m b go = s.raise l (l.causeHere 0x0C b.val 0) := by
  rw [State.arrive, h]
  exact if_pos ((fld_roleBit_eq_zero_iff _ _).mpr hr)

theorem State.arrive_in_mask (h : s.team? l.id.tid = some tm) (hr : m.val.testBit (roleIdx l.role) = true) :
    s.arrive l m b go =
      if l.arrived.contains b.val then s.setLane (l.parkAgain (.barrier b.val))
      else if (tm.bar b.val).mask ≠ 0 ∧ (tm.bar b.val).mask ≠ m.val then s.raise l (l.causeHere 0x0C b.val 0)
      else
        let l1 : Lane := { l with arrived := l.arrived ++ [b.val],
                                  lastArr := (b.val, (tm.bar b.val).phase) :: l.lastArr.filter (fun e => e.1 != b.val) }
        let s1 := (s.modTeam tm.tid fun x => x.setBar b.val { tm.bar b.val with mask := m.val }).setLane ((go (tm.bar b.val).phase l1).adv 4)
        (s1.team? tm.tid).elim s1 fun x => s1.completeBar x b.val := by
  have hne : ¬ fld m.val (roleBit l.role - 1) 1 = 0 := by rw [fld_roleBit_eq_zero_iff, hr]; decide
  rw [State.arrive, h]
  dsimp only
  rw [if_neg hne]
  split
  · rfl
  · split
    · rfl
    · generalize ((s.modTeam tm.tid fun x => x.setBar b.val { tm.bar b.val with mask := m.val }).setLane _) = s1
      cases s1.team? tm.tid <;> rfl

end

/-! ### A phase that completes -/

/-- A lane whose arrival at a completed phase is forgotten and whose path is another keeps what f reads. -/
def PathFree (f : Lane → Bool) : Prop := ∀ (l : Lane) (a : List Nat) (w : Nat) (tr : List DWord), f { l with arrived := a, way := w, trail := tr } = f l

/-- The path that a lane takes does not tell whether it goes on. -/
theorem unled_together {f : Lane → Bool} (hf : PathFree f) (u : State) (go : Lane → Bool) (c : Nat) :
    ((u.together go).lanes.map fun l => unled (if f l then l.awake c else l)) = u.lanes.map fun l => unled (if f l then l.awake c else l) := by
  unfold State.together
  rw [List.map_map]
  refine List.map_congr_left fun l _ => ?_
  have hx : ∀ w, f { l with way := w, trail := [] } = f l := fun w => hf l l.arrived w []
  rw [Function.comp_apply]
  cases go l
  · rfl
  · rw [if_pos rfl, hx]
    split <;> rfl

/-- The lanes of a phase that has completed are those that have arrived no more; of them those that waited for it go on, on one path. -/
theorem State.release_passed {s u : State} {key : Nat} {mine waits go : Lane → Bool} (hcalm : Calm s) (hc : u.cycle = s.cycle)
    (hu : u.lanes = s.lanes.map fun l => if mine l then l.unarrive key else l) (hmine : PathFree mine) (hwaits : PathFree waits) :
    ∃ ls n, (u.together go).release (fun l => mine l && waits l) = { u with lanes := ls, nextId := n } ∧
      ls.map unled = (s.lanes.map fun l => if mine l then Claims.passed s key (waits l) l else l).map unled := by
  have hcu : Calm u := calm_map hcalm hu fun l => by split <;> exact ⟨rfl, rfl, rfl, rfl, rfl⟩
  have hct : Calm (u.together go) := calm_map hcu rfl fun l => by split <;> exact ⟨rfl, rfl, rfl, rfl, rfl⟩
  have hfree : PathFree fun l => mine l && waits l := fun l a w tr => congrArg₂ (· && ·) (hmine l a w tr) (hwaits l a w tr)
  refine ⟨_, _, State.release_of_calm hct _, ?_⟩
  rw [List.map_map]
  refine (unled_together hfree u go u.cycle).trans ?_
  rw [hu, List.map_map, List.map_map]
  refine List.map_congr_left fun l _ => ?_
  have hm : mine (l.unarrive key) = mine l := hmine l _ l.way l.trail
  have hw : waits (l.unarrive key) = waits l := hwaits l _ l.way l.trail
  rw [hc, Function.comp_apply, Function.comp_apply]
  cases hml : mine l
  · rw [if_neg Bool.false_ne_true, if_neg Bool.false_ne_true, hml, Bool.false_and, if_neg Bool.false_ne_true]
  · rw [if_pos rfl, if_pos rfl, hm, hw, hml, Bool.true_and]
    cases waits l <;> rfl

/-! ### The barriers of a team -/

theorem State.team?_modTeam_same {s : State} {tid : Nat} {f : Team → Team} (hf : ∀ t, (f t).tid = t.tid) :
    (s.modTeam tid f).team? tid = (s.team? tid).map f := by
  change (s.teams.map fun t => if t.tid = tid then f t else t).find? (fun t => t.tid == tid) = _
  have hp : ((fun t : Team => t.tid == tid) ∘ fun t => if t.tid = tid then f t else t) = fun t => t.tid == tid := by
    funext t
    rw [Function.comp_apply]
    split <;> simp [hf]
  rw [List.find?_map, hp]
  change (s.team? tid).map _ = _
  cases h : s.team? tid with
  | none => rfl
  | some t => rw [Option.map_some, Option.map_some, if_pos (State.team?_tid h)]

theorem Team.bar_setBar {t : Team} {b : Nat} (h : b < t.bars.length) (x : Bar) : (t.setBar b x).bar b = x := by
  simp [Team.bar, Team.setBar, h]

theorem park_barrier_beq (c b : Nat) : (Park.barrier c == Park.barrier b) = (c == b) := by
  rw [Bool.eq_iff_iff, beq_iff_eq, beq_iff_eq, Park.barrier.injEq]

theorem park_waitph_beq (c n b : Nat) : (Park.waitph c n == Park.barrier b) = false := beq_eq_false_iff_ne.mpr Park.noConfusion

/-- Does a lane wait for a phase of team barrier b? -/
def waitsBar (b : Nat) (l : Lane) : Bool := l.park == .barrier b || (match l.park with | .waitph c _ => c == b | _ => false)

/-- The lane has arrived at a barrier, or has exited. -/
theorem Lane.atBar_iff (l : Lane) (key : Nat) : l.atBar key = true ↔ l.park = .exited ∨ key ∈ l.arrived := by simp [Lane.atBar]

section
variable {s : State} {t : Team} {b : Nat}

/-- Team barrier b with its phase completed, before its waiters go on. -/
def State.barRisen (s : State) (t : Team) (b : Nat) : State :=
  { s.modTeam t.tid fun y => y.setBar b { phase := ((t.bar b).phase + 1) % 65536, mask := 0 } with
    lanes := s.lanes.map fun l => if l.id.tid == t.tid then l.unarrive b else l }

theorem State.completeBar_waits {l : Lane} (hl : l ∈ s.lanes) (ht : l.id.tid = t.tid) (hr : (t.bar b).mask.testBit (roleIdx l.role) = true)
    (hp : l.park ≠ .exited) (ha : b ∉ l.arrived) : s.completeBar t b = s := by
  rw [State.completeBar]
  refine if_neg fun ⟨_, hall⟩ => ?_
  have h := List.all_eq_true.mp hall l hl
  have hat : l.atBar b = false := by
    rw [← Bool.not_eq_true, Lane.atBar_iff]
    tauto
  rw [fld_roleBit_eq_one, hr, hat] at h
  simp [ht] at h

theorem State.completeBar_rises (hm : (t.bar b).mask ≠ 0)
    (h : ∀ l ∈ s.lanes, l.id.tid = t.tid ∧ (t.bar b).mask.testBit (roleIdx l.role) = true → l.park = .exited ∨ b ∈ l.arrived) :
    s.completeBar t b = ((s.barRisen t b).together fun l => l.id.tid == t.tid && l.park == .barrier b).release
      fun l => l.id.tid == t.tid && waitsBar b l := by
  have hall : (s.lanes.all fun l => !(l.id.tid == t.tid && fld (t.bar b).mask (roleBit l.role - 1) 1 == 1) || l.atBar b) = true := by
    refine List.all_eq_true.mpr fun l hl => ?_
    rw [fld_roleBit_eq_one, Bool.or_eq_true, Bool.not_eq_true', Bool.and_eq_false_iff, Lane.atBar_iff, beq_eq_false_iff_ne, ← Bool.not_eq_true]
    have := h l hl
    tauto
  have hwaits : (fun l : Lane => l.id.tid == t.tid && waitsBar b l) =
      fun l => l.id.tid == t.tid && (match l.park with | .barrier c => c == b | .waitph c _ => c == b | _ => false) := by
    funext l
    unfold waitsBar
    cases l.park <;> simp [park_barrier_beq, park_waitph_beq]
  rw [State.completeBar, if_pos ⟨hm, hall⟩, hwaits]
  rfl

end

end Sys2Proof.Machine

/-! ## The barrier words -/

namespace Sys2Proof.Machine
open Sys2Proof Sys2Proof.Claims

/-- The phase of a barrier of a launch is raised in the launch's own entry. -/
theorem State.launch?_modLaunch_same {s : State} {p seq : Nat} {f : Launch → Launch} (hf : ∀ L, (f L).seq = L.seq) :
    (s.modLaunch p seq f).launch? p seq = (s.launch? p seq).map f := by
  have hw : ((s.modLaunch p seq f).part p).window = (s.part p).window.map fun L => if L.seq = seq then f L else L := by
    rw [State.modLaunch, modPart_part, if_pos rfl]
  have hp : ((fun L : Launch => L.seq == seq) ∘ fun L => if L.seq = seq then f L else L) = fun L => L.seq == seq := by
    funext L
    rw [Function.comp_apply]
    split <;> simp [hf]
  rw [State.launch?, Part.launch?, hw, List.find?_map, hp]
  change ((s.part p).window.find? _).map _ = ((s.part p).window.find? _).map f
  cases h : (s.part p).window.find? fun L => L.seq == seq with
  | none => rfl
  | some L => rw [Option.map_some, Option.map_some, if_pos (by simpa using List.find?_some h)]

theorem pathFree_tid (tid : Nat) : PathFree fun l => l.id.tid == tid := fun _ _ _ _ => rfl

theorem pathFree_waitsBar (b : Nat) : PathFree (waitsBar b) := fun _ _ _ _ => rfl

/-! ### Team barriers (R214, R215, R357, R358) -/

section
variable {s : State} {t : Team} {b : Nat}

/-- What an arrival at a team barrier does, over the lane that BAR or BARA leaves. -/
def Arrives (m b : Fin 4) (go : Nat → Lane → Lane) (s : State) (l : Lane) (t : State) : Prop :=
  (s.team? l.id.tid = none → t = s) ∧
  ∀ tm, s.team? l.id.tid = some tm →
    (m.val.testBit (roleIdx l.role) = false → t = s.raise l (l.causeHere 0x0C b.val 0)) ∧
    (m.val.testBit (roleIdx l.role) = true →
      (b.val ∈ l.arrived → t = s.setLane (l.parkAgain (.barrier b.val))) ∧
      (b.val ∉ l.arrived → (tm.bar b.val).mask ≠ 0 → (tm.bar b.val).mask ≠ m.val → t = s.raise l (l.causeHere 0x0C b.val 0)) ∧
      (b.val ∉ l.arrived → ((tm.bar b.val).mask = 0 ∨ (tm.bar b.val).mask = m.val) →
        let l1 : Lane := { l with arrived := l.arrived ++ [b.val],
                                  lastArr := (b.val, (tm.bar b.val).phase) :: l.lastArr.filter (fun e => e.1 != b.val) }
        let s1 := (s.modTeam tm.tid fun x => x.setBar b.val { tm.bar b.val with mask := m.val }).setLane ((go (tm.bar b.val).phase l1).adv 4)
        t = match s1.team? tm.tid with
          | some x => s1.completeBar x b.val
          | none => s1))

theorem State.arrives_arrive (m b : Fin 4) (go : Nat → Lane → Lane) (s : State) (l : Lane) : Arrives m b go s l (s.arrive l m b go) := by
  refine ⟨State.arrive_of_no_team, fun tm ht => ⟨State.arrive_of_not_in_mask ht, fun hr => ?_⟩⟩
  rw [State.arrive_in_mask ht hr]
  refine ⟨fun ha => if_pos (List.contains_iff_mem.mpr ha), fun ha h0 hm => ?_, fun ha hm => ?_⟩
  · rw [if_neg (mt List.contains_iff_mem.mp ha), if_pos ⟨h0, hm⟩]
  · rw [if_neg (mt List.contains_iff_mem.mp ha), if_neg fun ⟨h0, h1⟩ => hm.elim h0 h1]
    dsimp only
    generalize ((s.modTeam tm.tid fun x => x.setBar b.val { tm.bar b.val with mask := m.val }).setLane _) = s1
    cases s1.team? tm.tid <;> rfl

theorem State.completeBar_bar (ht : s.team? t.tid = some t) (hb : b < t.bars.length) (hm : (t.bar b).mask ≠ 0)
    (h : ∀ l ∈ s.lanes, l.id.tid = t.tid ∧ (t.bar b).mask.testBit (roleIdx l.role) = true → l.park = .exited ∨ b ∈ l.arrived) :
    ((s.completeBar t b).team? t.tid).map (fun x => x.bar b) = some { phase := ((t.bar b).phase + 1) % 65536, mask := 0 } := by
  have hteams : (s.completeBar t b).team? t.tid =
      (s.modTeam t.tid fun y => y.setBar b { phase := ((t.bar b).phase + 1) % 65536, mask := 0 }).team? t.tid := by
    rw [State.completeBar_rises hm h, State.team?, State.release_teams]
    rfl
  rw [hteams, State.team?_modTeam_same (f := fun y => y.setBar b _) fun _ => rfl, ht, Option.map_some, Option.map_some, Team.bar_setBar hb]

theorem State.completeBar_lanes (hcalm : Calm s) (hm : (t.bar b).mask ≠ 0)
    (h : ∀ l ∈ s.lanes, l.id.tid = t.tid ∧ (t.bar b).mask.testBit (roleIdx l.role) = true → l.park = .exited ∨ b ∈ l.arrived) :
    (s.completeBar t b).mem = s.mem ∧
      LanesAre (s.completeBar t b) (s.lanes.map fun l => if l.id.tid = t.tid then Claims.passed s b (waitsBar b l) l else l) := by
  obtain ⟨ls, n, heq, hls⟩ := State.release_passed (s := s) (u := s.barRisen t b) (go := fun l => l.id.tid == t.tid && l.park == .barrier b)
    hcalm rfl rfl (pathFree_tid t.tid) (pathFree_waitsBar b)
  rw [State.completeBar_rises hm h, heq]
  refine ⟨rfl, hls.trans (congrArg (List.map unled) (List.map_congr_left fun l _ => ?_))⟩
  exact if_congr beq_iff_eq rfl rfl

end

theorem teamBarriers : Claims.TeamBarriers := by
  unfold Claims.TeamBarriers
  refine ⟨fun m b d => ⟨?_, ?_, fun s hl hset => ?_⟩, fun s t b ht hb hm => ⟨?_, fun h => ⟨?_, fun hc => ?_⟩⟩⟩
  · exact eachArrived_of_guarded (act := fun s l => s.arrive l m b fun _ l => { l with park := .barrier b.val, bundle := none, issuing := false })
      (fun _ => rfl) fun s l => State.arrives_arrive m b _ s l
  · exact eachReleased_of_guarded (fun _ => rfl) fun s l => State.arrives_arrive m b _ s l
  · obtain ⟨l, hlead, hill⟩ := hl
    change execBarw b s = _
    rw [execBarw, guarded_next hlead hill, waitFirst_of_settled hset hlead]
    refine congrArg (fun f => Host.Outcome.next (mapActive (landing s) f)) (funext fun l => ?_)
    exact if_congr List.contains_iff_mem rfl rfl
  · rintro ⟨l, hl, ⟨hlt, hr⟩, hp, ha⟩
    exact State.completeBar_waits hl hlt hr hp ha
  · exact State.completeBar_bar ht hb hm h
  · exact State.completeBar_lanes hc hm h

/-! ### The cluster barrier (R216, R369) -/

/-- CBAR and GBAR in one lane: a launch that is cooperative, one arrival in a phase, then the arrival. -/
theorem coopArrive_cases {s : State} {l : Lane} {key : Nat} {a b c : State} :
    let t := if !s.coop l then a else if l.arrived.contains key then b else c
    (s.coop l = false → t = a) ∧ (s.coop l = true → key ∈ l.arrived → t = b) ∧ (s.coop l = true → key ∉ l.arrived → t = c) := by
  refine ⟨fun h => if_pos (by rw [h]; rfl), fun h ha => ?_, fun h ha => ?_⟩
  · rw [h]
    exact if_pos (List.contains_iff_mem.mpr ha)
  · rw [h]
    exact if_neg (mt List.contains_iff_mem.mp ha)

/-- No phase completes that a lane has still to arrive at. -/
theorem all_atBar_eq_false {ls : List Lane} {mine : Lane → Bool} {key : Nat} {l : Lane} (hl : l ∈ ls) (hm : mine l = true) (hp : l.park ≠ .exited)
    (ha : key ∉ l.arrived) : (ls.all fun l => !mine l || l.atBar key) = false := by
  rw [← Bool.not_eq_true]
  intro h
  have hat := List.all_eq_true.mp h l hl
  rw [hm, Bool.not_true, Bool.false_or, Lane.atBar_iff] at hat
  exact hat.elim hp ha

theorem all_atBar_eq_true {ls : List Lane} {mine : Lane → Bool} {key : Nat} (h : ∀ l ∈ ls, mine l = true → l.park = .exited ∨ key ∈ l.arrived) :
    (ls.all fun l => !mine l || l.atBar key) = true := by
  refine List.all_eq_true.mpr fun l hl => ?_
  cases hm : mine l
  · rfl
  · exact (Lane.atBar_iff l key).mpr (h l hl hm)

/-- The arrived lanes of a phase, where one has arrived. -/
theorem any_arrived_eq_true {ls : List Lane} {mine : Lane → Bool} {key : Nat} {l : Lane} (hl : l ∈ ls) (hm : mine l = true) (ha : key ∈ l.arrived) :
    (ls.any fun l => mine l && l.arrived.contains key) = true :=
  List.any_eq_true.mpr ⟨l, hl, by rw [hm, Bool.true_and]; exact List.contains_iff_mem.mpr ha⟩

/-- Is the lane of cluster set c of a launch? -/
def State.inSet (s : State) (p seq c : Nat) (l : Lane) : Bool := l.part == p && l.seq == seq && s.setOf l == c

theorem State.inSet_iff (s : State) (p seq c : Nat) (l : Lane) : s.inSet p seq c l = true ↔ l.part = p ∧ l.seq = seq ∧ s.setOf l = c := by
  simp [State.inSet, and_assoc]

theorem pathFree_inSet (s : State) (p seq c : Nat) : PathFree (s.inSet p seq c) := fun _ _ _ _ => rfl

section
variable {s : State} {p seq c : Nat} {L : Launch}

theorem State.completeCbar_waits {l : Lane} (hl : l ∈ s.lanes) (hm : s.inSet p seq c l = true) (hp : l.park ≠ .exited) (ha : 4 ∉ l.arrived) :
    s.completeCbar p seq c = s := by
  have hall : (s.lanes.all fun l => !s.inSet p seq c l || l.atBar cbarKey) = false := all_atBar_eq_false hl hm hp ha
  rw [State.completeCbar]
  refine if_neg fun h => ?_
  rw [Bool.and_eq_true] at h
  exact absurd (h.2.symm.trans hall) (by decide)

theorem State.completeCbar_saved (hL : s.launch? p seq = some L) {v : SavedTeam} (hv : v ∈ L.restore) (hc : v.team.set = c) :
    s.completeCbar p seq c = s := by
  have hw : (L.restore.all fun v => v.team.set != c) = false := List.all_eq_false.mpr ⟨v, hv, by simp [hc]⟩
  rw [State.completeCbar, hL, Option.elim_some, hw]
  rfl

/-- The cluster barrier with its phase completed, before its waiters go on. -/
def State.cbarRisen (s : State) (p seq c : Nat) : State :=
  { s.modLaunch p seq fun L => { L with cphase := tmod 0 c (fun n => (n + 1) % 65536) L.cphase } with
    lanes := s.lanes.map fun l => if s.inSet p seq c l then l.unarrive cbarKey else l }

/-- Does a lane wait at the cluster barrier of set c? -/
def State.waitsCbar (s : State) (p seq c : Nat) (l : Lane) : Bool := s.inSet p seq c l && l.park == .cbar

theorem State.completeCbar_rises (hL : s.launch? p seq = some L) (hr : ∀ v ∈ L.restore, v.team.set ≠ c)
    (hany : ∃ l ∈ s.lanes, s.inSet p seq c l = true ∧ 4 ∈ l.arrived)
    (hall : ∀ l ∈ s.lanes, s.inSet p seq c l = true → l.park = .exited ∨ 4 ∈ l.arrived) :
    s.completeCbar p seq c =
      (((s.cbarRisen p seq c).acquireAll (s.waitsCbar p seq c) .cluster).together (s.waitsCbar p seq c)).release (s.waitsCbar p seq c) := by
  obtain ⟨l, hl, hm, ha⟩ := hany
  have hw : (L.restore.all fun v => v.team.set != c) = true := List.all_eq_true.mpr fun v hv => bne_iff_ne.mpr (hr v hv)
  have hy : (s.lanes.any fun l => s.inSet p seq c l && l.arrived.contains cbarKey) = true := any_arrived_eq_true hl hm ha
  have hx : (s.lanes.all fun l => !s.inSet p seq c l || l.atBar cbarKey) = true := all_atBar_eq_true hall
  rw [State.completeCbar, hL, Option.elim_some, hw, Bool.true_and]
  exact if_pos (Bool.and_eq_true_iff.mpr ⟨hy, hx⟩)

/-- The lanes that wait at the cluster barrier leave no line of their cores in their cluster's L1. -/
theorem State.completeCbar_l1 {l : Lane} {ls : List Lane} {n : Nat} (hl : l ∈ s.lanes) (hw : s.waitsCbar p seq c l = true) :
    let u := (s.cbarRisen p seq c).acquireAll (s.waitsCbar p seq c) .cluster
    ({ u with lanes := ls, nextId := n } : State).L1Clear l.cluster l.core := by
  have hm : s.inSet p seq c l = true := (Bool.and_eq_true_iff.mp hw).1
  exact State.acquireAll_clear (s := s.cbarRisen p seq c) (l := l.unarrive cbarKey) rfl
    (List.mem_map.mpr ⟨l, hl, if_pos hm⟩) hw

theorem State.launch?_cbarRisen (hL : s.launch? p seq = some L) :
    (s.cbarRisen p seq c).launch? p seq = some { L with cphase := tset c ((tget 0 c L.cphase + 1) % 65536) L.cphase } := by
  refine (State.launch?_modLaunch_same ?_).trans (by rw [hL]; rfl)
  exact fun _ => rfl

end

theorem clusterBarrier : Claims.ClusterBarrier := by
  refine ⟨eachArrived_of_guarded (fun _ => rfl) fun s l => coopArrive_cases, fun s p seq c => ⟨?_, fun L hL => ⟨?_, fun hr hany hall hc => ?_⟩⟩⟩
  · rintro ⟨l, hl, hm, hp, ha⟩
    exact State.completeCbar_waits hl ((s.inSet_iff p seq c l).mpr hm) hp ha
  · rintro ⟨v, hv, hset⟩
    exact State.completeCbar_saved hL hv hset
  · obtain ⟨l0, hl0, hm0, ha0⟩ := hany
    have hrise := State.completeCbar_rises hL hr ⟨l0, hl0, (s.inSet_iff p seq c l0).mpr hm0, ha0⟩
      fun l hl hm => hall l hl ((s.inSet_iff p seq c l).mp hm)
    obtain ⟨cs, hcs⟩ := (s.cbarRisen p seq c).acquireAll_eq (s.waitsCbar p seq c) .cluster
    obtain ⟨ls, n, heq, hls⟩ := State.release_passed (s := s) (u := (s.cbarRisen p seq c).acquireAll (s.waitsCbar p seq c) .cluster)
      (go := s.waitsCbar p seq c) (waits := fun l => l.park == .cbar) hc (by rw [hcs]; rfl) (by rw [hcs]; rfl) (pathFree_inSet s p seq c)
      fun _ _ _ _ => rfl
    have hend := hrise.trans heq
    have hlaunch := State.launch?_cbarRisen (c := c) hL
    dsimp only
    refine ⟨?_, ?_, ?_, ?_, fun l hl hm hp => ?_⟩
    · rw [hend, hcs]
      exact hlaunch
    · rw [hend, hcs]
      rfl
    · rw [hend, hcs]
      rfl
    · rw [hend]
      refine hls.trans (congrArg (List.map unled) (List.map_congr_left fun l _ => ?_))
      exact if_congr (s.inSet_iff p seq c l) rfl rfl
    · rw [hend]
      exact State.completeCbar_l1 hl (Bool.and_eq_true_iff.mpr ⟨(s.inSet_iff p seq c l).mpr hm, beq_iff_eq.mpr hp⟩)

/-! ### The grid barrier (R217, R410 to R412) -/

/-- Is the lane of this launch? -/
def ofLaunch (p seq : Nat) (l : Lane) : Bool := l.part == p && l.seq == seq

theorem ofLaunch_iff (p seq : Nat) (l : Lane) : ofLaunch p seq l = true ↔ l.part = p ∧ l.seq = seq := by simp [ofLaunch]

theorem pathFree_ofLaunch (p seq : Nat) : PathFree (ofLaunch p seq) := fun _ _ _ _ => rfl

/-- Does a lane wait for a phase of its grid barrier? -/
def waitsGrid (l : Lane) : Bool := l.park == .gbar || (match l.park with | .waitph k _ => k == 4 | _ => false)

theorem pathFree_waitsGrid : PathFree waitsGrid := fun _ _ _ _ => rfl

section
variable {s : State} {p seq : Nat} {L : Launch}

theorem State.completeGbar_waits {l : Lane} (hl : l ∈ s.lanes) (hm : ofLaunch p seq l = true) (hp : l.park ≠ .exited) (ha : 5 ∉ l.arrived) :
    s.completeGbar p seq = s := by
  have hall : (s.lanes.all fun l => !ofLaunch p seq l || l.atBar gbarKey) = false := all_atBar_eq_false hl hm hp ha
  rw [State.completeGbar]
  refine if_neg fun h => ?_
  rw [Bool.and_eq_true] at h
  exact absurd (h.2.symm.trans hall) (by decide)

theorem State.completeGbar_of_no_launch (hL : s.launch? p seq = none) : s.completeGbar p seq = s := by
  rw [State.completeGbar, hL]
  rfl

theorem State.completeGbar_partial (hL : s.launch? p seq = some L) (h : L.placed ≠ recTeams L.lrec ∨ L.restore ≠ []) : s.completeGbar p seq = s := by
  have hw : (L.placed == recTeams L.lrec && L.restore.isEmpty) = false := by
    rw [Bool.and_eq_false_iff, beq_eq_false_iff_ne, List.isEmpty_eq_false_iff]
    exact h
  rw [State.completeGbar, hL, Option.elim_some, hw]
  rfl

/-- The grid barrier with its phase completed, before its waiters go on. -/
def State.gbarRisen (s : State) (p seq : Nat) : State :=
  { s.modLaunch p seq fun L => { L with gphase := (L.gphase + 1) % 65536 } with
    lanes := s.lanes.map fun l => if ofLaunch p seq l then l.unarrive gbarKey else l }

theorem State.completeGbar_rises (hL : s.launch? p seq = some L) (hpl : L.placed = recTeams L.lrec) (hr : L.restore = [])
    (hany : ∃ l ∈ s.lanes, ofLaunch p seq l = true ∧ 5 ∈ l.arrived)
    (hall : ∀ l ∈ s.lanes, ofLaunch p seq l = true → l.park = .exited ∨ 5 ∈ l.arrived) :
    s.completeGbar p seq =
      (((s.gbarRisen p seq).acquireAll (fun l => ofLaunch p seq l && waitsGrid l) .device).together
        fun l => ofLaunch p seq l && l.park == .gbar).release fun l => ofLaunch p seq l && waitsGrid l := by
  obtain ⟨l, hl, hm, ha⟩ := hany
  have hy : (s.lanes.any fun l => ofLaunch p seq l && l.arrived.contains gbarKey) = true := any_arrived_eq_true hl hm ha
  have hx : (s.lanes.all fun l => !ofLaunch p seq l || l.atBar gbarKey) = true := all_atBar_eq_true hall
  have hwaits : (fun l : Lane => ofLaunch p seq l && waitsGrid l) =
      fun l => ofLaunch p seq l && (match l.park with | .gbar => true | .waitph c _ => c == 4 | _ => false) := by
    funext l
    unfold waitsGrid
    cases l.park <;> rfl
  rw [State.completeGbar, hL, Option.elim_some, hpl, hr, beq_self_eq_true, List.isEmpty_nil, Bool.true_and, Bool.true_and, hwaits]
  exact if_pos (Bool.and_eq_true_iff.mpr ⟨hy, hx⟩)

theorem State.launch?_gbarRisen (hL : s.launch? p seq = some L) :
    (s.gbarRisen p seq).launch? p seq = some { L with gphase := (L.gphase + 1) % 65536 } := by
  refine (State.launch?_modLaunch_same ?_).trans (by rw [hL]; rfl)
  exact fun _ => rfl

end

theorem gridBarrier : Claims.GridBarrier := by
  refine ⟨eachArrived_of_guarded (fun _ => rfl) fun s l => coopArrive_cases,
    fun s p seq => ⟨?_, State.completeGbar_of_no_launch, fun L hL => ⟨State.completeGbar_partial hL, fun hpl hr hany hall hc => ?_⟩⟩⟩
  · rintro ⟨l, hl, hm, hp, ha⟩
    exact State.completeGbar_waits hl ((ofLaunch_iff p seq l).mpr hm) hp ha
  · obtain ⟨l0, hl0, hm0, ha0⟩ := hany
    have hrise := State.completeGbar_rises hL hpl hr ⟨l0, hl0, (ofLaunch_iff p seq l0).mpr hm0, ha0⟩
      fun l hl hm => hall l hl ((ofLaunch_iff p seq l).mp hm)
    obtain ⟨cs, hcs⟩ := (s.gbarRisen p seq).acquireAll_eq (fun l => ofLaunch p seq l && waitsGrid l) .device
    obtain ⟨ls, n, heq, hls⟩ := State.release_passed (s := s) (go := fun l => ofLaunch p seq l && l.park == .gbar)
      (u := (s.gbarRisen p seq).acquireAll (fun l => ofLaunch p seq l && waitsGrid l) .device)
      hc (by rw [hcs]; rfl) (by rw [hcs]; rfl) (pathFree_ofLaunch p seq) pathFree_waitsGrid
    have hlaunch := State.launch?_gbarRisen hL
    dsimp only
    rw [hrise, heq]
    refine ⟨?_, ?_, ?_, hls.trans (congrArg (List.map unled) (List.map_congr_left fun l _ => ?_))⟩
    · rw [hcs]
      exact hlaunch
    · rw [hcs]
      rfl
    · rw [hcs]
      rfl
    · exact if_congr (ofLaunch_iff p seq l) rfl rfl

/-! ### Phase tokens (R494) -/

theorem phaseTokens : Claims.PhaseTokens := by
  intro p a b
  refine eachSettled_of_guarded (fun _ => rfl) fun s l => ⟨fun hb hc => ?_, fun hb ph age hph hage => ?_⟩
  · exact if_pos ⟨hb, by rw [hc]; rfl⟩
  · have hok : ¬ (b.val = 4 ∧ (!s.coop l) = true) := by
      rintro ⟨h4, hc⟩
      obtain hb | hb := hb
      · exact hb h4
      · rw [hb] at hc
        exact Bool.noConfusion hc
    have hage' : ((if b.val = 4 then s.gridPhase l else s.barPhase l b.val) + 65536 - fld (l.getV a).toNat 0 16) % 65536 = age := by
      rw [hage, hph, fld, Nat.pow_zero, Nat.div_one]
      rfl
    rw [if_neg hok]
    dsimp only
    rw [hage']
    refine ⟨fun h0 => ?_, fun h0 => ?_⟩
    · rw [if_pos h0, h0, fld, Nat.pow_zero, Nat.div_one]
      rfl
    · rw [if_neg h0]

end Sys2Proof.Machine

section
open Sys2Proof Sys2Proof.Machine Sys2Proof.Claims

/-- Settles O26: an arrival by the cases of the barrier's mask and of the lane's own arrivals, a phase by the lanes that have arrived at it. -/
theorem barriers : Obligations.Barriers := ⟨teamBarriers, clusterBarrier, gridBarrier, phaseTokens⟩
end

/-! ## Events -/

namespace Sys2Proof.Machine
open Sys2Proof Sys2Proof.Claims

theorem fld_low_byte (w : Nat) : fld w 0 8 = w % 256 := congrArg (· % 256) (Nat.div_one w)

/-! ### What is still to be performed (R180, R389) -/

theorem State.holdsAtom_eq_false_iff (s : State) (l : Lane) :
    s.holdsAtom l = false ↔ (((s.team? l.id.tid).elim [] (·.ordered)).filter fun a => a.lane == l.id) = [] := by
  unfold State.holdsAtom
  cases s.team? l.id.tid with
  | none => exact ⟨fun _ => rfl, fun _ => rfl⟩
  | some t => simp

theorem State.boundOf_free_iff (s : State) (l : Lane) : (s.boundOf l).free = true ↔
    s.holdsAtom l = false ∧ (∀ r ∈ s.peers, r.lane = some l.id → r.n ≠ none) ∧
      ∀ d ∈ l.deferred ++ l.replay.toList ++ l.later.flatMap (·.2), d.unperformed = false := by
  have hdefs : (s.boundOf l).defs.isEmpty = true ↔ ∀ d ∈ l.deferred ++ l.replay.toList ++ l.later.flatMap (·.2), d.unperformed = false := by
    rw [State.boundOf, List.isEmpty_iff, List.map_eq_nil_iff, List.filter_eq_nil_iff]
    exact forall₂_congr fun d _ => iff_of_eq (Bool.not_eq_true _)
  have hatoms : (s.boundOf l).atoms.isEmpty = true ↔ s.holdsAtom l = false := by
    rw [State.boundOf, List.isEmpty_iff, List.map_eq_nil_iff, State.holdsAtom_eq_false_iff]
  have hreqs : (s.boundOf l).reqs.isEmpty = true ↔ ∀ r ∈ s.peers, r.lane = some l.id → r.n ≠ none := by
    rw [State.boundOf, List.isEmpty_iff, List.map_eq_nil_iff, List.filter_eq_nil_iff]
    refine forall₂_congr fun r _ => ?_
    rw [Bool.and_eq_true, beq_iff_eq, Option.isNone_iff_eq_none, not_and]
  rw [Bound.free, Bool.and_eq_true, Bool.and_eq_true, hdefs, hatoms, hreqs]
  tauto

theorem State.modLane_unchanged (s : State) (id : LaneId) : s.modLane id (fun m => m) = s := by
  have h : (s.lanes.map fun l => if l.id = id then l else l) = s.lanes := (List.map_congr_left fun l _ => ite_self l).trans (List.map_id s.lanes)
  rw [State.modLane, h]

theorem State.doRels_of_not_passed {s : State} {l : Lane} {r : Rel} {rest : List Rel} (h : l.rels = r :: rest) (hp : s.passed l.id r.after = false) :
    s.doRels l = s := by
  rw [State.doRels, h, List.takeWhile_cons_of_neg (by rw [hp]; exact Bool.false_ne_true)]
  exact s.modLane_unchanged l.id

theorem State.doRels_one {s : State} {l : Lane} {r : Rel} (h : l.rels = [r]) (hp : s.passed l.id r.after = true) :
    s.doRels l = (s.modLane l.id fun m => { m with rels := m.rels.drop 1 }).bumpEvent l.part r.event r.amount := by
  have htake : [r].takeWhile (fun r => s.passed l.id r.after) = [r] := List.takeWhile_cons_of_pos hp
  rw [State.doRels, h, htake]
  rfl

/-! ### The lanes that an event lets go (R204, R390) -/

/-- The lanes that an addition to event e of partition p tests. -/
def onEvent (p e : Nat) (l : Lane) : Bool :=
  l.part == p && ((match l.park with | .evwait x _ => x == e % 256 | _ => false) || l.evw.elim false fun x => x.1 == e % 256)

/-- Of them those whose park ends, and those that wait behind a marker's park and wait no more. -/
def State.evWoken (s : State) (p e : Nat) (l : Lane) : Bool :=
  onEvent p e l && (match l.park with | .evwait x m => s.eventReached l.part x m | _ => false)
def State.evFreed (s : State) (p e : Nat) (l : Lane) : Bool := onEvent p e l && l.evw.elim false fun x => s.eventReached l.part x.1 x.2

section
variable {s : State} {p e : Nat} {n : Word}

/-- The count of event e once the amount is added. -/
def State.counted (s : State) (p e : Nat) (n : Word) : Word := tget 0 e (s.part p).ev + n

theorem State.addEvent_eq (he : e < 256) : s.addEvent p e n = s.modPart p fun x => { x with ev := tset e (tget 0 e x.ev + n) x.ev } := by
  rw [State.addEvent, Nat.mod_eq_of_lt he]
  rfl

theorem State.addEvent_ev (he : e < 256) : tget 0 e ((s.addEvent p e n).part p).ev = s.counted p e n := by
  rw [State.addEvent_eq he, modPart_part, if_pos rfl]
  dsimp only
  rw [tget_tset, if_pos rfl]
  rfl

theorem State.eventReached_addEvent (he : e < 256) (m : Word) :
    (s.addEvent p e n).eventReached p e m = decide ((s.counted p e n - m).toNat < 2 ^ 31) := by
  rw [State.eventReached, Nat.mod_eq_of_lt he, State.addEvent_ev he]

/-- A lane that waits at an event, and at no marker's park, goes on if the event is this one and has reached its target. -/
theorem State.evWoken_iff (he : e < 256) {l : Lane} (hl : l.part = p → l.evw = none) :
    (s.addEvent p e n).evWoken p e l = true ↔ ∃ x m, l.park = .evwait x m ∧ l.part = p ∧ x = e ∧ (s.counted p e n - m).toNat < 2 ^ 31 := by
  unfold State.evWoken onEvent
  rw [Nat.mod_eq_of_lt he]
  by_cases hp : l.part = p
  · rw [hp, hl hp, beq_self_eq_true]
    cases l.park
    case evwait x m =>
      by_cases hx : x = e
      · subst hx
        simp [State.eventReached_addEvent he]
      · simp [hx]
    all_goals simp
  · simp [hp]

theorem State.evFreed_of_none {l : Lane} (hl : l.part = p → l.evw = none) (u : State) : u.evFreed p e l = false := by
  unfold State.evFreed onEvent
  by_cases hp : l.part = p
  · simp [hl hp]
  · simp [hp]

/-- A lane that waits for an event behind a marker's park waits no more if the event is this one and has reached its target. -/
theorem State.evFreed_iff (he : e < 256) {l : Lane} (hl : ∀ x m, l.park ≠ .evwait x m) :
    (s.addEvent p e n).evFreed p e l = true ↔ ∃ x, l.evw = some x ∧ l.part = p ∧ x.1 = e ∧ (s.counted p e n - x.2).toNat < 2 ^ 31 := by
  have hpark : (match l.park with | .evwait x _ => x == e % 256 | _ => false) = false := by
    split
    · next h => exact absurd h (hl _ _)
    · rfl
  unfold State.evFreed onEvent
  rw [hpark, Nat.mod_eq_of_lt he]
  cases l.evw with
  | none => simp
  | some x =>
    by_cases hp : l.part = p
    · by_cases hx : x.1 = e
      · simp [hp, hx, State.eventReached_addEvent he]
      · simp [hx]
    · simp [hp]

/-- The lanes that wait behind a marker's park for the event to reach its target, as it has, wait no more. -/
def State.freeEvent (u : State) (p e : Nat) : State :=
  if u.lanes.any (u.evFreed p e) then
    { u.acquireAll (u.evFreed p e) .device with lanes := u.lanes.map fun l => if u.evFreed p e l then { l with evw := none } else l }
  else u

/-- The lanes of u parked at the event go on where it has reached their target, as t has it. -/
def State.wakeEvent (t u : State) (p e : Nat) : State :=
  if u.lanes.any (t.evWoken p e) then (u.acquireAll (t.evWoken p e) .device).release (t.evWoken p e) else u

/-- An addition lets go those that wait behind a marker's park, then those that are parked at the event. -/
theorem State.bumpEvent_eq : s.bumpEvent p e n = (s.addEvent p e n).wakeEvent ((s.addEvent p e n).freeEvent p e) p e := rfl

theorem State.freeEvent_of_none {u : State} (h : ∀ l ∈ u.lanes, u.evFreed p e l = false) : u.freeEvent p e = u :=
  if_neg fun hany => by
    obtain ⟨l, hl, hf⟩ := List.any_eq_true.mp hany
    exact absurd (hf.symm.trans (h l hl)) (by decide)

theorem State.wakeEvent_of_none {t u : State} (h : ∀ l ∈ u.lanes, t.evWoken p e l = false) : t.wakeEvent u p e = u :=
  if_neg fun hany => by
    obtain ⟨l, hl, hw⟩ := List.any_eq_true.mp hany
    exact absurd (hw.symm.trans (h l hl)) (by decide)

theorem State.freeEvent_lanes (u : State) : (u.freeEvent p e).lanes = u.lanes.map fun l => if u.evFreed p e l then { l with evw := none } else l := by
  by_cases hany : u.lanes.any (u.evFreed p e) = true
  · rw [State.freeEvent, if_pos hany]
  · rw [State.freeEvent, if_neg hany]
    refine ((List.map_congr_left fun l hl => if_neg fun hf => ?_).trans (List.map_id u.lanes)).symm
    exact hany (List.any_eq_true.mpr ⟨l, hl, hf⟩)

theorem State.evWoken_of_unparked (t : State) {l : Lane} (h : ∀ x m, l.park ≠ .evwait x m) : t.evWoken p e l = false := by
  unfold State.evWoken
  split
  · next hp => exact absurd hp (h _ _)
  · exact Bool.and_false _

/-- Nobody waits: the addition is all. -/
theorem State.bumpEvent_unheard (he : e < 256)
    (h : ∀ l ∈ s.lanes, l.part = p → l.evw = none ∧ ∀ m, l.park = .evwait e m → 2 ^ 31 ≤ (s.counted p e n - m).toNat) :
    s.bumpEvent p e n = s.modPart p fun x => { x with ev := tset e (tget 0 e x.ev + n) x.ev } := by
  have hwoken : ∀ l ∈ (s.addEvent p e n).lanes, (s.addEvent p e n).evWoken p e l = false := fun l hl => by
    rw [← Bool.not_eq_true, State.evWoken_iff he fun hp => (h l hl hp).1]
    rintro ⟨x, m, hpark, hp, rfl, hlt⟩
    exact absurd ((h l hl hp).2 m hpark) (by omega)
  have hfreed : ∀ l ∈ s.lanes, (s.addEvent p e n).evFreed p e l = false := fun l hl => State.evFreed_of_none (fun hp => (h l hl hp).1) _
  rw [State.bumpEvent_eq, State.freeEvent_of_none hfreed, State.wakeEvent_of_none hwoken, State.addEvent_eq he]

/-- Those that wait behind a marker's park. -/
theorem State.bumpEvent_lanes_of_unparked (h : ∀ l ∈ s.lanes, ∀ x m, l.park ≠ .evwait x m) :
    (s.bumpEvent p e n).lanes = s.lanes.map fun l => if (s.addEvent p e n).evFreed p e l then { l with evw := none } else l := by
  rw [State.bumpEvent_eq, State.wakeEvent_of_none, State.freeEvent_lanes]
  · rfl
  · intro l hl
    rw [State.freeEvent_lanes] at hl
    obtain ⟨m, hm, rfl⟩ := List.mem_map.mp hl
    refine State.evWoken_of_unparked _ ?_
    split <;> exact h m hm

/-- Where no lane has anything to settle, those parked at the event go on, and nothing else of them changes. -/
theorem State.bumpEvent_of_calm (h : Calm s) : ∃ cs,
    s.bumpEvent p e n = { s.addEvent p e n with
      clusters := cs, lanes := s.lanes.map fun l => if (s.addEvent p e n).evWoken p e l then l.awake s.cycle else l } := by
  set u := s.addEvent p e n with hu
  have hfreed : ∀ l ∈ u.lanes, u.evFreed p e l = false := fun l hl => State.evFreed_of_none (fun _ => (h l hl).2.1) u
  rw [State.bumpEvent_eq, ← hu, State.freeEvent_of_none hfreed]
  by_cases hany : u.lanes.any (u.evWoken p e) = true
  · obtain ⟨cs, hcs⟩ := u.acquireAll_eq (u.evWoken p e) .device
    have hcalm : Calm (u.acquireAll (u.evWoken p e) .device) := calm_of_lanes (s := s) h (by rw [hcs]; rfl)
    refine ⟨cs, ?_⟩
    rw [State.wakeEvent, if_pos hany, State.release_of_calm hcalm, hcs]
    rfl
  · have hlanes : (s.lanes.map fun l => if u.evWoken p e l then l.awake s.cycle else l) = s.lanes := by
      refine (List.map_congr_left fun l hl => if_neg fun hw => ?_).trans (List.map_id s.lanes)
      exact hany (List.any_eq_true.mpr ⟨l, hl, hw⟩)
    refine ⟨u.clusters, ?_⟩
    rw [State.wakeEvent, if_neg hany, hlanes]
    rfl

end

/-- The step that an event's reaching of a target is for a parked lane. -/
theorem evWoken_step {s : State} {p e : Nat} {n : Word} (he : e < 256) {l : Lane} (hl : l.evw = none) :
    (if (s.addEvent p e n).evWoken p e l then l.awake s.cycle else l) =
      match l.park with
      | .evwait x m => if l.part = p ∧ x = e ∧ (s.counted p e n - m).toNat < 2 ^ 31 then l.awake s.cycle else l
      | _ => l := by
  have hiff := State.evWoken_iff (s := s) (p := p) (n := n) he (l := l) fun _ => hl
  cases hp : l.park
  case evwait x m =>
    refine if_congr (hiff.trans ⟨?_, fun h => ⟨x, m, hp, h⟩⟩) rfl rfl
    rintro ⟨y, k, hk, h⟩
    obtain ⟨rfl, rfl⟩ := Park.evwait.inj (hp.symm.trans hk)
    exact h
  all_goals
    refine if_neg fun hw => ?_
    obtain ⟨x, m, hk, -⟩ := hiff.mp hw
    exact Park.noConfusion (hp.symm.trans hk)

theorem evFreed_step {s : State} {p e : Nat} {n : Word} (he : e < 256) {l : Lane} (hl : ∀ x m, l.park ≠ .evwait x m) :
    (if (s.addEvent p e n).evFreed p e l then { l with evw := none } else l) =
      match l.evw with
      | some x => if l.part = p ∧ x.1 = e ∧ (s.counted p e n - x.2).toNat < 2 ^ 31 then { l with evw := none } else l
      | none => l := by
  have hiff := State.evFreed_iff (s := s) (p := p) (n := n) he hl
  cases hw : l.evw with
  | none =>
    refine if_neg fun hf => ?_
    obtain ⟨x, hx, -⟩ := hiff.mp hf
    exact nomatch hw.symm.trans hx
  | some x =>
    refine if_congr (hiff.trans ⟨?_, fun h => ⟨x, hw, h⟩⟩) rfl rfl
    rintro ⟨y, hy, h⟩
    exact Option.some.inj (hw.symm.trans hy) ▸ h

/-! ### EVSIG and EVWAIT -/

theorem events : Claims.Events := by
  unfold Claims.Events
  refine ⟨fun a b => ?_, State.boundOf_free_iff, fun s l r rest => State.doRels_of_not_passed, fun s l r => State.doRels_one,
    fun s p e n he => ⟨State.bumpEvent_unheard he, fun h => ?_, fun h => ?_⟩, fun a b => ?_⟩
  · refine ⟨fun s l => if (s.boundOf l).free && l.rels.isEmpty then s.bumpEvent l.part (fld (l.getV a).toNat 0 8) (l.getV b)
      else s.setLane { l with rels := l.rels ++ [{ after := s.boundOf l, event := fld (l.getV a).toNat 0 8, amount := l.getV b }] },
      fun s hl => ?_, fun s l => ⟨fun hfree hrels => ?_, fun h => ?_⟩⟩
    · obtain ⟨l, hlead, hill⟩ := hl
      change execEvsig a b s = _
      rw [execEvsig, guarded_next hlead hill]
    · dsimp only
      rw [hfree, hrels, fld_low_byte]
      rfl
    · have hno : ¬ ((s.boundOf l).free && l.rels.isEmpty) = true := by
        rw [Bool.and_eq_true, List.isEmpty_iff]
        rintro ⟨hf, hr⟩
        exact h.elim (fun h => absurd (hf.symm.trans h) (by decide)) fun h => h hr
      dsimp only
      rw [if_neg hno, fld_low_byte]
  · rw [State.bumpEvent_lanes_of_unparked h]
    exact List.map_congr_left fun l hl => evFreed_step he (h l hl)
  · obtain ⟨cs, heq⟩ := State.bumpEvent_of_calm (p := p) (e := e) (n := n) h
    dsimp only
    rw [heq]
    exact ⟨State.addEvent_ev he, rfl, rfl, List.map_congr_left fun l hl => evWoken_step he (h l hl).2.1⟩
  · refine each_of_guarded (fun _ => rfl) fun s l => ⟨fun hlt => ?_, fun hge => ?_⟩
    all_goals
      dsimp only
      rw [State.eventReached, fld_low_byte, Nat.mod_mod]
    · rw [if_pos (decide_eq_true hlt)]
    · rw [if_neg (by rw [decide_eq_true_eq]; omega)]
      refine ⟨fun hd => ?_, fun hd => ?_⟩
      · rw [hd]
        rfl
      · rw [if_neg (mt List.isEmpty_iff.mp hd)]

end Sys2Proof.Machine

/-! ## Fences and drains -/

namespace Sys2Proof.Machine
open Sys2Proof Sys2Proof.Claims

theorem releasesAt_iff (e : Scope) (o : Order) : releasesAt e o = true ↔ (o = .rel ∨ o = .ar) ∧ e ≠ .lane := by
  rw [releasesAt, Bool.and_eq_true, bne_iff_ne]
  cases o <;> simp [Order.releases]

theorem Order.acquires_iff (o : Order) : Order.acquires o = true ↔ o = .acq ∨ o = .ar := by cases o <;> simp [Order.acquires]

theorem State.releaseWaits_iff (s : State) (l : Lane) (e : Scope) (o : Order) :
    s.releaseWaits l e o = true ↔
      (o = .rel ∨ o = .ar) ∧ e ≠ .lane ∧ (s.holdsAtom l = true ∨ (e = .system ∧ s.peerStores l = true)) := by
  rw [State.releaseWaits, Bool.and_eq_true, releasesAt_iff, Bool.or_eq_true, Bool.and_eq_true, beq_iff_eq, and_assoc]

theorem State.acquire_of_narrow {e : Scope} (s : State) (l : Lane) (h : e = .lane ∨ e = .group ∨ e = .team) : s.acquire l e = s := by
  rcases h with rfl | rfl | rfl <;> rfl

theorem State.acquire_clear {e : Scope} (s : State) (l : Lane) (h : e = .cluster ∨ e = .die ∨ e = .device ∨ e = .system) :
    (s.acquire l e).L1Clear l.cluster l.core := by
  have heq : s.acquire l e = s.clearL1 l.cluster l.core := by rcases h with rfl | rfl | rfl | rfl <;> rfl
  rw [heq]
  exact s.l1Clear_clearL1 l.cluster l.core_lt

theorem fenceAndDrain : Claims.FenceAndDrain := by
  unfold Claims.FenceAndDrain
  refine ⟨fun e o => ?_, fun p => ?_, fun s l e => ⟨s.acquire_of_narrow l, s.acquire_clear l⟩⟩
  · refine eachSettled_of_guarded (fun _ => rfl) fun s l => ⟨fun h => ?_, fun h he => ?_, fun h he => ?_⟩
    all_goals dsimp only
    · rw [if_pos ((s.releaseWaits_iff l e o).mpr h)]
    · rw [if_neg (mt (s.releaseWaits_iff l e o).mp h), if_neg he]
      exact congrArg (fun t : State => t.setLane (l.adv 4)) (if_congr (Order.acquires_iff o) rfl rfl)
    · rw [if_neg (mt (s.releaseWaits_iff l e o).mp h), if_pos he]
      exact congrArg (fun t : State => (t.capFlush l.part).setLane (l.adv 4)) (if_congr (Order.acquires_iff o) rfl rfl)
  · refine each_of_guarded (fun _ => rfl) fun s l => ⟨fun hb => if_pos hb, fun hb hno => ?_, fun e hb he => ?_⟩
    all_goals rw [hb, if_neg Bool.false_ne_true]
    · have hnone : l.drainErr p = none := List.find?_eq_none.mpr fun e he => by simpa using hno e he
      rw [hnone]
    · have hsome : l.drainErr p = some e := he
      rw [hsome]
      rfl

end Sys2Proof.Machine

section
open Sys2Proof Sys2Proof.Machine Sys2Proof.Claims

/-- Settles O27: an addition to an event by the lanes it lets go, a fence by what its release waits for and its acquire clears. -/
theorem eventsAndFences : Obligations.EventsAndFences := ⟨events, fenceAndDrain⟩
end

/-! ## Submission queues -/

namespace Sys2Proof.Machine
open Sys2Proof Sys2Proof.Claims

theorem tset_tset {α : Type} (k : Nat) (x y : α) (t : Tbl α) : tset k x (tset k y t) = tset k x t := by
  induction t with
  | nil => simp [tset]
  | cons e r ih =>
    obtain ⟨j, z⟩ := e
    simp only [tset]
    split
    · rw [tset, if_neg (Nat.lt_irrefl k), if_pos rfl]
    · next hlt =>
      split
      · rw [tset, if_neg (Nat.lt_irrefl k), if_pos rfl]
      · next hne => rw [tset, if_neg hlt, if_neg hne, ih]

/-- Two changes of one partition's state are one. -/
theorem modPart_modPart (s : State) (p : Nat) (f g : Part → Part) : (s.modPart p f).modPart p g = s.modPart p fun x => g (f x) := by
  rw [State.modPart, State.modPart, State.modPart]
  refine congrArg (fun ps => { s with parts := ps }) ?_
  dsimp only
  rw [tmod, tmod, tmod, tset_tset, tget_tset, if_pos rfl]

theorem modPart_congr {s : State} {p : Nat} {f g : Part → Part} (h : f (s.part p) = g (s.part p)) : s.modPart p f = s.modPart p g := by
  rw [State.modPart, State.modPart, tmod, tmod]
  exact congrArg (fun x => { s with parts := tset p x s.parts }) h

/-! ### Doorbells (R187) -/

theorem State.viaVf_of_open {s : State} {p : Nat} (h : Open s p) (off width : Nat) (v : DWord) (act : State → State) :
    s.viaVf p off width v act = act s := by
  obtain ⟨hboot, hstate⟩ := h
  rw [State.viaVf, State.viaMmio, if_neg (not_not.mpr hboot)]
  rcases hstate with h | h | h <;> rw [h]

theorem exec_sqDoorbell_of_open {s : State} {p q : Nat} (h : Open s p) (hq : q < 32) (t : Word) :
    exec (.sqDoorbell p q t) s = .next (s.doorbell p q t) := by
  change execSqDoorbell p q t s = _
  rw [execSqDoorbell, State.viaVf_of_open h, Nat.mod_eq_of_lt hq]

/-! ### The queue that is served next (R189) -/

/-- Of two queues the later where its priority is the higher. -/
def preferred (x : Part) (b q : Nat) : Nat := if x.srcPrio b < x.srcPrio q then q else b

theorem preferred_foldl (x : Part) (a : Nat) (r : List Nat) :
    r.foldl (preferred x) a ∈ a :: r ∧ ∀ c ∈ a :: r, x.srcPrio c ≤ x.srcPrio (r.foldl (preferred x) a) := by
  induction r generalizing a with
  | nil => simp
  | cons b r ih =>
    obtain ⟨hmem, hmax⟩ := ih (preferred x a b)
    have hle : x.srcPrio a ≤ x.srcPrio (preferred x a b) ∧ x.srcPrio b ≤ x.srcPrio (preferred x a b) := by
      unfold preferred
      split <;> omega
    have hin : preferred x a b = a ∨ preferred x a b = b := by
      unfold preferred
      split
      · exact .inr rfl
      · exact .inl rfl
    rw [List.foldl_cons]
    refine ⟨?_, fun c hc => ?_⟩
    · rcases List.mem_cons.mp hmem with h | h
      · rw [h]
        rcases hin with h | h <;> simp [h]
      · exact List.mem_cons_of_mem _ (List.mem_cons_of_mem _ h)
    · have htop := hmax _ List.mem_cons_self
      rcases List.mem_cons.mp hc with rfl | hc
      · exact hle.1.trans htop
      · rcases List.mem_cons.mp hc with rfl | hc
        · exact hle.2.trans htop
        · exact hmax c (List.mem_cons_of_mem _ hc)

theorem State.nextQueue_spec {s : State} {p q : Nat} (h : s.nextQueue p = some q) :
    s.srcReady p q = true ∧ ∀ r, s.srcReady p r = true → r < 33 → (s.part p).srcPrio r ≤ (s.part p).srcPrio q := by
  unfold State.nextQueue at h
  dsimp only at h
  split at h
  · exact absurd h (by simp)
  · next a r hrs =>
    have hq : r.foldl (preferred (s.part p)) a = q := Option.some.inj h
    obtain ⟨hmem, hmax⟩ := preferred_foldl (s.part p) a r
    rw [hq, ← hrs] at hmem
    refine ⟨(List.mem_filter.mp hmem).2, fun c hc hlt => ?_⟩
    rw [← hq]
    refine hmax c (hrs ▸ List.mem_filter.mpr ⟨List.mem_map.mpr ⟨(c + 33 - ((s.part p).rr + 1) % 33) % 33, ?_, ?_⟩, hc⟩)
    · exact List.mem_range.mpr (Nat.mod_lt _ (by decide))
    · omega

/-! ### The entry at the head of a queue (R187, R188) -/

section
variable {s u : State} {p q : Nat}

theorem State.sqEntry_of_entry (hs : s.serving p = true) (hn : s.nextQueue p = some q) (hq : q < 32) {e : Nat} (hh : s.sqHead p q = (u, .entry e))
    {t : Nat} (ht : entType e = t) (act : State → Nat → State) : s.sqEntry p q t act = act u e := by
  rw [State.sqEntry, hs, hn, beq_self_eq_true, decide_eq_true hq, hh]
  exact if_pos ht

theorem State.sqEntry_of_err (hs : s.serving p = true) (hn : s.nextQueue p = some q) (hq : q < 32) {c : Nat} (hh : s.sqHead p q = (u, .err c))
    (t : Nat) (act : State → Nat → State) :
    s.sqEntry p q t act = (u.modSq p q fun x => { x with err := c, en := false }).modPart p fun x => { x with rr := q } := by
  rw [State.sqEntry, hs, hn, beq_self_eq_true, decide_eq_true hq, hh]
  rfl

/-- An EVWAIT entry is next only if its event has reached its target. -/
theorem State.evwait_reached (hn : s.nextQueue p = some q) (hq : q < 32) {e : Nat} (hh : s.sqHead p q = (u, .entry e)) (ht : entType e = 3) :
    (tget 0 (entEvent e) (s.part p).ev - entValue e).toNat < 2 ^ 31 := by
  obtain ⟨hready, -⟩ := State.nextQueue_spec hn
  have hev : entEvent e % 256 = entEvent e := Nat.mod_eq_of_lt (Nat.mod_lt _ (by decide))
  have hne : ¬ q = dqNo := by
    intro h
    rw [h] at hq
    exact absurd hq (by decide)
  rw [State.srcReady, if_neg hne, State.sqReady, hh, Bool.and_eq_true] at hready
  have hreach := hready.2
  dsimp only at hreach
  rw [if_pos ht, State.eventReached, hev, decide_eq_true_eq] at hreach
  exact hreach

/-- A LAUNCH entry, by what reading its record and checking it give. -/
theorem exec_sqEntryLaunch_of_entry (hs : s.serving p = true) (hn : s.nextQueue p = some q) (hq : q < 32) {e : Nat}
    (hh : s.sqHead p q = (u, .entry e)) (ht : entType e = 1) : exec (.sqEntryLaunch p q) s = .next (
      let g := u.unitRecord p e
      let done := fun s : State => (s.sqTaken p q).modPart p fun x => { x with recIn := [] }
      match g.2 with
      | .busy => g.1
      | .page _ | .ue => done (g.1.modPart p fun x => { x with nextSeq := (x.nextSeq + 1) % 2 ^ 32 })
      | .ok r =>
        let c := g.1.checkRecord p r
        match c.2 with
        | .wait => c.1
        | x => done (c.1.takeRecord p r ((u.part p).sq q).prio (some q) x)) :=
  congrArg Host.Outcome.next (State.sqEntry_of_entry hs hn hq hh ht _)

end

/-! ### Records taken (R191, R195) -/

/-- The launch that a record taken makes. -/
def State.taken (s : State) (p r prio : Nat) (q : Option Nat) (o : Admit) : Launch :=
  { newLaunch (s.part p).nextSeq r prio q (launchClass o r) ((s.part p).waitsOf r) (ctLaunch o r && recNt r != 0) with since := s.time }

theorem State.takeRecord_ok (s : State) (p r prio : Nat) (q : Option Nat) (o : Admit) :
    s.takeRecord p r prio q (.ok o) = s.modPart p fun y =>
      { y with nextSeq := ((s.part p).nextSeq + 1) % 2 ^ 32, window := y.window ++ [s.taken p r prio q o] } :=
  modPart_modPart s p _ _

theorem Part.mem_waitsOf {x : Part} {r n : Nat} (hr : recIndep r = false) :
    n ∈ x.waitsOf r ↔ ∃ F ∈ x.window, F.seq = n ∧ recCtx F.lrec % 16 = recCtx r % 16 ∧ dependsOn r F.lrec = true := by
  rw [Part.waitsOf, hr, if_neg Bool.false_ne_true, List.mem_map]
  refine exists_congr fun F => ?_
  rw [List.mem_filter, Bool.and_eq_true, beq_iff_eq]
  tauto

theorem State.readParts_step {far : State → Nat → Nat → State × Res} {v : State → Via} {s u w : State} {va n x : Nat} {bs : List Byte}
    (h : s.loadVia (v s) va 64 = (u, .data bs)) (hr : u.readParts far v (va + 64) n = (w, .ok x)) :
    s.readParts far v va (n + 1) = (w, .ok (leNat bs + 2 ^ 512 * x)) := by
  rw [State.readParts, h]
  dsimp only
  rw [hr]

theorem exec_dqEntryTake_of_record {s c : State} {p : Nat} {d : DqEntry} {r : List DqEntry} {k : Checked} (hs : s.serving p = true)
    (hn : s.nextQueue p = some 32) (hd : (s.part p).dq = d :: r) (hc : s.checkRecord p d.lrec = (c, k)) (hk : k ≠ .wait) :
    exec (.dqEntryTake p) s =
      .next ((c.takeRecord p d.lrec (s.part p).dqprio none k).modPart p fun y => { y with dq := y.dq.tail, rr := 32 }) := by
  change execDqEntryTake p s = _
  rw [execDqEntryTake, hs, hn, hd]
  dsimp only
  rw [hc]
  cases k with
  | wait => exact absurd rfl hk
  | ok o => rfl
  | refuse st => rfl

end Sys2Proof.Machine

section
open Sys2Proof Sys2Proof.Machine Sys2Proof.Claims

/-- Settles O41: a doorbell by where it leaves the ring, an entry by its type and the reading of its record, the queue served by its priority. -/
theorem submissionQueues : Obligations.SubmissionQueues := by
  unfold Obligations.SubmissionQueues
  refine ⟨fun s p q t ho hq => ⟨fun h => ?_, fun h1 h2 => ?_⟩, fun s u p q e hs hn hq hh => ⟨fun ht => ?_, fun ht => ?_, fun ht => ⟨?_, ?_⟩, fun ht g k hg => ⟨?_, ?_, ?_⟩⟩,
    fun _ _ _ => rfl, fun _ _ _ _ _ _ _ _ _ => State.readParts_step, fun s u p q c hs hn hq hh => ?_, fun _ _ _ => State.nextQueue_spec,
    fun _ _ _ _ hs hn hd _ _ => exec_dqEntryTake_of_record hs hn hd, fun s p r prio q o => ⟨⟨s.taken p r prio q o, s.takeRecord_ok p r prio q o,
      rfl, rfl, rfl, rfl, rfl, rfl, fun hr => if_pos hr, fun hr E _ => Part.mem_waitsOf hr⟩, fun _ => rfl⟩⟩
  · rw [exec_sqDoorbell_of_open ho hq, State.doorbell]
    exact congrArg _ ((if_pos h).trans (modPart_congr rfl))
  · rw [exec_sqDoorbell_of_open ho hq, State.doorbell]
    exact congrArg _ ((if_neg fun h => h.elim (fun h => absurd h1 (Nat.not_le.mpr h)) fun h => absurd h2 (Nat.not_le.mpr h)).trans (modPart_congr rfl))
  · exact congrArg _ (State.sqEntry_of_entry hs hn hq hh ht _)
  · exact congrArg _ (State.sqEntry_of_entry hs hn hq hh ht _)
  · exact congrArg _ (State.sqEntry_of_entry hs hn hq hh ht _)
  · exact State.evwait_reached hn hq hh ht
  · rintro rfl
    rw [exec_sqEntryLaunch_of_entry hs hn hq hh ht, hg]
  · intro h
    rw [exec_sqEntryLaunch_of_entry hs hn hq hh ht, hg]
    rcases h with rfl | ⟨f, rfl⟩ <;> rfl
  · rintro r rfl c x hc
    rw [exec_sqEntryLaunch_of_entry hs hn hq hh ht, hg]
    dsimp only
    rw [hc]
    refine ⟨?_, fun hx => ?_⟩
    · rintro rfl
      rfl
    · cases x with
      | wait => exact absurd rfl hx
      | ok o => rfl
      | refuse st => rfl
  · intro i hi
    simp only [List.mem_cons, List.not_mem_nil, or_false] at hi
    rcases hi with rfl | rfl | rfl | rfl <;> exact congrArg _ (State.sqEntry_of_err hs hn hq hh _ _)
end

/-! ## LAUNCH, CPY and GTHR -/

namespace Sys2Proof.Machine
open Sys2Proof Sys2Proof.Claims

/-! ### A release of the lane's earlier accesses (R183, R299) -/

section
variable {s k : State} {l : Lane} {e : Scope}

theorem withRelease_of_pending (he : e ≠ .lane) (h : s.pendings l ≠ []) :
    withRelease s l e k = s.setLane { l.stall with marker := l.marker || (s.pendings l).any (·.faulted) } := by
  rw [withRelease, if_neg he, State.awaiting, if_neg (mt List.isEmpty_iff.mp h)]
  rfl

theorem withRelease_of_performed (h : e = .lane ∨ s.pendings l = []) : withRelease s l e k = systemRelease s l e .rel k := by
  have hnil : (if e = .lane then [] else s.pendings l) = [] := by
    split
    · rfl
    · next he => exact h.resolve_left he
  rw [withRelease, hnil]
  rfl

theorem systemRelease_of_lost (he : e = .system) (hl : l.lostStore = true) : systemRelease s l e .rel k = s.setLane { l.stall with marker := true } := by
  rw [systemRelease, if_pos ⟨he, rfl⟩, if_pos hl, Lane.hold, Bool.or_true]

theorem systemRelease_of_peerStores (he : e = .system) (hl : l.lostStore = false) (hp : s.peerStores l = true) :
    systemRelease s l e .rel k = s.setLane l.stall := by
  rw [systemRelease, if_pos ⟨he, rfl⟩, if_neg (by rw [hl]; decide), if_pos hp]

theorem systemRelease_of_done (h : e = .system → l.lostStore = false ∧ s.peerStores l = false) : systemRelease s l e .rel k = k := by
  rw [systemRelease]
  split
  · next he =>
    obtain ⟨hl, hp⟩ := h he.1
    rw [if_neg (by rw [hl]; decide), if_neg (by rw [hp]; decide)]
  · rfl

end

/-! ### LAUNCH (R201, R442, R443) -/

/-- A lane of a lower slot that the word has held back (R442). -/
theorem State.heldAt_iff (s : State) (m : Lane) : s.heldAt m = true ↔
    ∃ x, s.lane? m.id = some x ∧ x.skipped = true ∧ x.pc = m.pc ∧ x.depth = m.depth ∧ x.trap = none ∧ x.pfault = none := by
  unfold State.heldAt
  cases s.lane? m.id with
  | none => simp
  | some x => simp [and_assoc]

theorem any_heldAt_iff (s0 s : State) (l : Lane) : (s0.actives.any fun m => decide (m.id.slot < l.id.slot) && s.heldAt m) = true ↔
    ∃ m ∈ s0.actives, m.id.slot < l.id.slot ∧ ∃ x, s.lane? m.id = some x ∧ x.skipped = true ∧ x.pc = m.pc ∧ x.depth = m.depth ∧
      x.trap = none ∧ x.pfault = none := by
  rw [List.any_eq_true]
  refine exists_congr fun m => and_congr_right fun _ => ?_
  rw [Bool.and_eq_true, decide_eq_true_eq, State.heldAt_iff]

/-- What LAUNCH does with a record that has been asked for. -/
def launchRead (s : State) (l : Lane) (va : DWord) (r : State × RecRead) : State :=
  let m : Lane := { l with fetched := [] }
  match r.2 with
  | .page f => r.1.setLane (m.pageHere f)
  | .ue => r.1.raise m (m.causeHere causeDataUe 0 va)
  | .busy => r.1.setLane l.stall
  | .ok x => (r.1.enqueueDq l.part (s.laneCtx l) x).setLane (m.adv 4)

/-- LAUNCH in one lane, of a word that issued in s0. -/
def launchAct (a : VReg) (s0 s : State) (l : Lane) : State :=
  if (l.pair a).toNat % 64 ≠ 0 then s.raise l (l.causeHere causeAlign 6 (l.pair a))
  else if s0.actives.any fun m => decide (m.id.slot < l.id.slot) && s.heldAt m then s.setLane l.stall
  else withRelease s l .device (launchRead s l (l.pair a) (s.readRecord l (l.pair a).toNat 6))

theorem exec_launch_of_legal {a : VReg} {s : State} (h : Legal s (.launch a)) : exec (.launch a) s = .next (eachActive s (launchAct a s)) := by
  obtain ⟨l, hlead, hill⟩ := h
  change execLaunch a s = _
  rw [execLaunch, guarded_next hlead hill]
  rfl

theorem State.enqueueDq_of_room {s : State} {p ctx r : Nat} (h : (s.part p).dq.length < 256) :
    s.enqueueDq p ctx r = s.modPart p fun x => { x with dq := x.dq ++ [{ lrec := r, ctx := ctx }] } := if_neg (Nat.not_le.mpr h)

theorem State.enqueueDq_of_full {s : State} {p ctx r : Nat} (h : 256 ≤ (s.part p).dq.length) : s.enqueueDq p ctx r = s.refuseLaunch p r none 10 :=
  if_pos h

/-- The record's next part, that the lane's device or its earlier request to a peer gives. -/
theorem State.readRecord_step {s u w : State} {l : Lane} {va n x : Nat} {bs : List Byte}
    (h : s.loadVia (s.via l) va 64 = (u, .data bs) ∨ ∃ b a, s.loadVia (s.via l) va 64 = (u, .peer a) ∧ bs = b :: bs.tail ∧
      l.fetched.find? (fun e => e.1 == va) = some (va, bs))
    (hr : u.readRecord l (va + 64) n = (w, .ok x)) : s.readRecord l va (n + 1) = (w, .ok (leNat bs + 2 ^ 512 * x)) := by
  obtain h | ⟨b, a, h, hbs, hf⟩ := h
  · exact State.readParts_step (v := fun s => s.via l) h hr
  · have hfar : u.farPart l va a = (u, .data bs) := by
      rw [State.farPart, hf, hbs]
      rfl
    rw [State.readRecord, State.readParts, h]
    dsimp only
    rw [hfar]
    dsimp only
    rw [State.readRecord] at hr
    rw [hr]

/-! ### CPY and GTHR (R208, R209, R414, R415) -/

theorem copyPeer_eq (s : State) (l : Lane) (gather : Bool) (d : List Word) :
    (if !gather && cpyPath d == .s2ps then s.peerTeam l (dw d 3) else none) = copyPeer s l gather d :=
  if_congr (by rw [Bool.and_eq_true, Bool.not_eq_true', beq_iff_eq]) rfl rfl

/-- Does a transfer that a lane starts wait for a conversion (R111)? -/
def convertsFirst (s : State) (l : Lane) (gather : Bool) (d : List Word) : Bool :=
  usesScratch gather d && ((s.teamOf l).converting || (copyPeer s l gather d).elim false Team.converting)

theorem usesScratch_iff (gather : Bool) (d : List Word) : usesScratch gather d = true ↔ gather = true ∨ cpyPath d ≠ .g2g := by
  rw [usesScratch, Bool.or_eq_true, bne_iff_ne]

theorem convertsFirst_iff (s : State) (l : Lane) (gather : Bool) (d : List Word) : convertsFirst s l gather d = true ↔
    (gather = true ∨ cpyPath d ≠ .g2g) ∧ ((s.teamOf l).converting = true ∨ ∃ y, copyPeer s l gather d = some y ∧ y.converting = true) := by
  rw [convertsFirst, Bool.and_eq_true, usesScratch_iff, Bool.or_eq_true]
  cases copyPeer s l gather d <;> simp

/-- CPY and GTHR in one lane. -/
def xferAct (a : VReg) (e : Scope) (gather : Bool) (s : State) (l : Lane) : State :=
  if convertsFirst s l gather (l.vs a 8) then s.setLane l.stall
  else
    match s.xferCause l gather (l.vs a 8) with
    | some c => s.raise l (l.causeHere c.1 c.2.1 c.2.2)
    | none =>
      if 32 ≤ (s.coreXfers l).length then s.setLane l.stall
      else withRelease s l e (({ s with xfers := s.xfers ++ [newXfer s l gather (l.vs a 8)], nextId := s.nextId + 1 } : State).setLane (l.adv 8))

theorem scratchTags_eq (s : State) (l : Lane) (gather : Bool) (d : List Word) :
    (if usesScratch gather d then s.scratchTags (s.teamOf l) else []) = if gather = true ∨ cpyPath d ≠ .g2g then macrosOf s (s.teamOf l) else [] :=
  if_congr (usesScratch_iff gather d) rfl rfl

theorem xferWord_eq (i : Instr) (s : State) (a : VReg) (e : Scope) (gather : Bool) :
    xferWord i s a e gather = guarded i s fun s => eachActive s (xferAct a e gather) := by
  rw [xferWord]
  refine congrArg (fun f => guarded i s fun s => eachActive s f) (funext fun s => funext fun l => ?_)
  dsimp only
  rw [copyPeer_eq, scratchTags_eq]
  rfl

theorem exec_transfer (a : VReg) (e : Scope) (gather : Bool) (s : State) :
    exec (if gather then .gthr a e else .cpy a e) s =
      guarded (if gather then .gthr a e else .cpy a e) s fun s => eachActive s (xferAct a e gather) := by
  cases gather
  · exact xferWord_eq (.cpy a e) s a e false
  · exact xferWord_eq (.gthr a e) s a e true

theorem State.xferCause_of_cpyBad {s : State} {l : Lane} {d : List Word} (h : cpyBad d = true) :
    s.xferCause l false d = some (0x0D, 0, BitVec.ofNat 64 (dw d 5)) := by
  rw [State.xferCause]
  dsimp only
  rw [if_neg Bool.false_ne_true, h, Bool.true_or]
  rfl

theorem State.xferCause_of_gthBad {s : State} {l : Lane} {d : List Word} (h : gthBad d = true) :
    s.xferCause l true d = some (0x0D, 0, BitVec.ofNat 64 (dw d 5)) := by
  rw [State.xferCause]
  dsimp only
  rw [if_pos rfl, h]
  rfl

theorem srcScratch_iff (p : Path) : Path.srcScratch p = true ↔ p = .s2g ∨ p = .s2ps := by cases p <;> simp [Path.srcScratch]

theorem cpyBad_iff (d : List Word) : cpyBad d = true ↔
    cpyRows d = 0 ∨ dw d 4 = 0 ∨ dw d 4 % 16 ≠ 0 ∨ 65536 < dw d 4 * cpyRows d ∨ dw d 0 % 16 ≠ 0 ∨ dw d 2 % 16 ≠ 0 ∨ dw d 6 % 16 ≠ 0 ∨
      dw d 7 % 16 ≠ 0 ∨ fld (dw d 5) 24 8 ≠ 0 ∨ ((cpyPath d = .s2g ∨ cpyPath d = .s2ps) ∧ dw d 1 ≠ 0) ∨ (cpyPath d = .g2s ∧ dw d 3 ≠ 0) := by
  simp only [cpyBad, Bool.or_eq_true, Bool.and_eq_true, bne_iff_ne, beq_iff_eq, decide_eq_true_eq, srcScratch_iff]
  tauto

theorem gthBad_of {d : List Word}
    (h : gthCount d = 0 ∨ 4096 < gthCount d ∨ fld (dw d 5) 16 16 ≠ 0 ∨ fld (dw d 5) 0 6 ≠ 0 ∨ fld (dw d 7) 16 16 ≠ 0 ∨ dw d 4 % 4 ≠ 0) :
    gthBad d = true := by
  simp only [gthBad, Bool.or_eq_true, bne_iff_ne, beq_iff_eq, decide_eq_true_eq]
  tauto

theorem launchesAndTransfers : Claims.LaunchesAndTransfers := by
  unfold Claims.LaunchesAndTransfers
  refine ⟨fun a => ⟨launchAct a, fun s => exec_launch_of_legal, fun s0 s l => ⟨fun h => if_pos h, fun h hlate => ?_, fun h hlate => ?_⟩⟩,
    fun s l va n u bs h w x => State.readRecord_step h,
    fun a e gather => each_of_guarded (exec_transfer a e gather) fun s l => ⟨fun hc => ?_, fun hc c hcause => ?_, fun hc hcause => ⟨fun hlen => ?_, fun hlen => ?_⟩⟩,
    fun s l d => ⟨fun h => State.xferCause_of_cpyBad ((cpyBad_iff d).mpr h), fun h => State.xferCause_of_gthBad (gthBad_of h)⟩⟩
  · rw [launchAct, if_neg (not_not.mpr h), if_pos ((any_heldAt_iff s0 s l).mpr hlate)]
  · rw [launchAct, if_neg (not_not.mpr h), if_neg (mt (any_heldAt_iff s0 s l).mp hlate)]
    refine ⟨withRelease_of_pending (by decide), fun hnil u r hr => ?_⟩
    rw [withRelease_of_performed (.inr hnil), systemRelease_of_done (e := .device) (fun he => nomatch he), hr]
    refine ⟨?_, ?_, ?_, ?_, ?_⟩
    · rintro f rfl
      rfl
    · rintro rfl
      rfl
    · rintro rfl
      rfl
    · rintro x rfl hroom
      rw [launchRead]
      dsimp only
      rw [State.enqueueDq_of_room hroom]
    · rintro x rfl hfull
      rw [launchRead]
      dsimp only
      rw [State.enqueueDq_of_full hfull]
  · rw [xferAct, if_pos ((convertsFirst_iff s l gather _).mpr hc)]
  · rw [xferAct, if_neg (mt (convertsFirst_iff s l gather _).mp hc), hcause]
  · rw [xferAct, if_neg (mt (convertsFirst_iff s l gather _).mp hc), hcause]
    exact if_pos hlen
  · rw [xferAct, if_neg (mt (convertsFirst_iff s l gather _).mp hc), hcause]
    have hroom : ¬ 32 ≤ (s.coreXfers l).length := Nat.not_le.mpr hlen
    dsimp only
    rw [if_neg hroom]
    refine ⟨withRelease_of_pending, fun hdone => ?_⟩
    rw [withRelease_of_performed hdone]
    exact ⟨systemRelease_of_lost, systemRelease_of_peerStores, systemRelease_of_done⟩

end Sys2Proof.Machine

/-! ## Transfers -/

namespace Sys2Proof.Machine
open Sys2Proof Sys2Proof.Claims

/-! ### The pieces of a copy (R173) -/

/-- The cuts of a row cover each of its bytes once the boundaries that are left may be passed, and none passes a line's end. -/
theorem cuts_cover {src dst n k : Nat} (hk : k < n) : ∀ (fuel off : Nat), off ≤ k →
    1 + ((src + n - 1) / 128 - (src + off) / 128) + ((dst + n - 1) / 128 - (dst + off) / 128) ≤ fuel →
    ∃ c ∈ cuts src dst n fuel off, c.1 ≤ k ∧ k < c.1 + c.2 ∧ (dst + c.1) % 128 + c.2 ≤ 128
  | 0, off, _, hfuel => by omega
  | fuel + 1, off, ho, hfuel => by
    rw [cuts, if_neg (by omega)]
    dsimp only
    by_cases hin : k < off + min (n - off) (min (128 - (src + off) % 128) (128 - (dst + off) % 128))
    · exact ⟨_, List.mem_cons_self, ho, hin, by dsimp only; omega⟩
    · obtain ⟨c, hc, h⟩ := cuts_cover (src := src) (dst := dst) hk fuel (off + min (n - off) (min (128 - (src + off) % 128) (128 - (dst + off) % 128)))
        (by omega) (by omega)
      exact ⟨c, List.mem_cons_of_mem _ hc, h⟩

/-- Each byte of a copy's rows is in one of its pieces (R173, R209). -/
theorem cpyPieces_cover {x : Xfer} {r k : Nat} (hd : dw x.desc 4 % 16 = 0) (hr : r < cpyRows x.desc) (hk : k < dw x.desc 4) :
    let a := (cpyRow x.desc false (Path.srcScratch x.path) r).toNat
    let b := (cpyRow x.desc true (Path.dstScratch x.path) r).toNat
    ∃ c : Nat × Nat, c.1 ≤ k ∧ k < c.1 + c.2 ∧ (b + c.1) % 128 + c.2 ≤ 128 ∧
      { dst := (b + c.1) % 2 ^ 64, len := c.2,
        src := .inl (if Path.srcScratch x.path then .scr x.cluster (macsOf x.scratch) (cpySswz x.desc) ((a + c.1 : Nat) : Int)
          else .mem ((a + c.1) % 2 ^ 64)) } ∈ cpyPieces x := by
  intro a b
  obtain ⟨c, hc, hle, hlt, hline⟩ := cuts_cover (src := a) (dst := b) hk (dw x.desc 4 / 8 + 2) 0 (Nat.zero_le k) (by omega)
  exact ⟨c, hle, hlt, hline, List.mem_flatMap.mpr ⟨r, List.mem_range.mpr hr, List.mem_map.mpr ⟨c, hc, rfl⟩⟩⟩

/-! ### The destination lines (R173) -/

theorem mem_insertUp (n m : Nat) (xs : List Nat) : m ∈ insertUp n xs ↔ m = n ∨ m ∈ xs := by
  induction xs with
  | nil => simp [insertUp]
  | cons a r ih =>
    rw [insertUp]
    split
    · simp
    · split
      · next h => simp [h]
      · simp only [List.mem_cons, ih]
        tauto

theorem insertUp_sorted {xs : List Nat} (h : xs.Pairwise (· < ·)) (n : Nat) : (insertUp n xs).Pairwise (· < ·) := by
  induction xs with
  | nil => exact List.pairwise_singleton _ _
  | cons a r ih =>
    obtain ⟨ha, hr⟩ := List.pairwise_cons.mp h
    rw [insertUp]
    split
    · next hlt =>
      refine List.pairwise_cons.mpr ⟨fun m hm => ?_, h⟩
      rcases List.mem_cons.mp hm with rfl | hm
      · exact hlt
      · exact hlt.trans (ha m hm)
    · split
      · exact h
      · refine List.pairwise_cons.mpr ⟨fun m hm => ?_, ih hr⟩
        rcases (mem_insertUp n m r).mp hm with rfl | hm
        · omega
        · exact ha m hm

theorem xferLines_sorted (x : Xfer) : (xferLines x).Pairwise (· < ·) := by
  unfold xferLines
  induction (xferPieces x).map fun p => p.dst / 128 with
  | nil => exact List.Pairwise.nil
  | cons n ns ih => exact insertUp_sorted ih n

theorem mem_xferLines (x : Xfer) (n : Nat) : n ∈ xferLines x ↔ ∃ p ∈ xferPieces x, p.dst / 128 = n := by
  have h : ∀ ns : List Nat, n ∈ ns.foldr insertUp [] ↔ n ∈ ns := fun ns => by
    induction ns with
    | nil => rfl
    | cons m ms ih => rw [List.foldr_cons, mem_insertUp, ih, List.mem_cons]
  rw [xferLines, h, List.mem_map]

/-! ### Moving lines -/

theorem State.runXfer_of_done {s t : State} {x y : Xfer} {ps : List XPiece} {line : Nat} (r : List Nat) (hw : x.wait = none)
    (hm : s.moveLine x line (ps.filter fun p => p.dst / 128 == line) = (t, y, .done)) :
    State.runXfer ps (line :: r) s x = State.runXfer ps r t y := by
  rw [State.runXfer, hw, hm]
  rfl

theorem State.runXfer_of_stop {s t : State} {x y : Xfer} {ps : List XPiece} {line : Nat} (r : List Nat) {m : Move} (hw : x.wait = none)
    (hm : s.moveLine x line (ps.filter fun p => p.dst / 128 == line) = (t, y, m)) (h : m ≠ .done) :
    State.runXfer ps (line :: r) s x = (t, y, m) := by
  rw [State.runXfer, hw, hm]
  cases m with
  | done => exact absurd rfl h
  | page f => rfl
  | ue va => rfl
  | wait => rfl

/-- How COPY_COMPLETE leaves a transfer whose lines it has moved. -/
def State.afterRun (t : State) (y : Xfer) (id : Nat) : Move → State
  | .done => t.endXfer id
  | .wait => t.setXfer y
  | .page f => t.suspendXfer y f
  | .ue va => ((t.modLane y.lane fun l => { l with errs := l.errs ++ [(y.path, 0x07, 0, BitVec.ofNat 64 va)] }).endXfer id)

/-- COPY_COMPLETE of a transfer that may go on, by what moving its lines gives. -/
theorem exec_copyComplete_of_run {s t : State} {x y : Xfer} {m : Move} (hx : s.xfers.find? (fun y => y.id == x.id) = some x) (htile : x.tile = none)
    (hs : s.serving x.part = true) (ha : x.aborted = false) (hf : x.fid = none) (hw : x.wait = none)
    (hrun : State.runXfer (xferPieces x) ((xferLines x).drop x.done) s x = (t, y, m)) :
    exec (.copyComplete x.id) s = .next (t.afterRun y x.id m) := by
  change execCopyComplete x.id s = _
  rw [execCopyComplete, hx]
  dsimp only
  rw [htile, hs, ha, hf, hw, hrun]
  cases m <;> rfl

/-- A transfer of a partition that is served, aborted, suspended or waiting for a peer. -/
theorem exec_copyComplete_of_xfer {s : State} {x : Xfer} (hx : s.xfers.find? (fun y => y.id == x.id) = some x) (htile : x.tile = none) :
    (s.serving x.part = false → exec (.copyComplete x.id) s = .next s) ∧
    (s.serving x.part = true → x.aborted = true → exec (.copyComplete x.id) s = .next (s.endXfer x.id)) ∧
    (s.serving x.part = true → x.aborted = false → (x.fid ≠ none ∨ x.wait ≠ none) → exec (.copyComplete x.id) s = .next s) := by
  have hexec : exec (.copyComplete x.id) s = execCopyComplete x.id s := rfl
  rw [hexec, execCopyComplete, hx]
  dsimp only
  rw [htile]
  refine ⟨fun hs => ?_, fun hs ha => ?_, fun hs ha h => ?_⟩
  · rw [hs]
    rfl
  · rw [hs, ha]
    rfl
  · have hstop : (x.fid.isSome || x.wait.isSome) = true := by
      rw [Bool.or_eq_true, Option.isSome_iff_ne_none, Option.isSome_iff_ne_none]
      exact h
    rw [hs, ha, hstop]
    rfl

/-! ### Reading a piece (R173, R178) -/

/-- Bytes are those of the number that they hold. -/
theorem leBytes_leNat : ∀ bs : List Byte, leBytes (leNat bs) bs.length = bs
  | [] => rfl
  | b :: r => by
    have hb : b.toNat < 256 := b.isLt
    have hdiv : (b.toNat + 256 * leNat r) / 256 = leNat r := by omega
    have hlow : BitVec.ofNat 8 (b.toNat + 256 * leNat r) = b := by
      refine BitVec.eq_of_toNat_eq ?_
      rw [BitVec.toNat_ofNat]
      omega
    rw [leNat, List.length_cons, leBytes, hdiv, hlow, leBytes_leNat r]

theorem xferVia_agent_ne_home (s : State) (x : Xfer) : (s.xferVia x).agent ≠ home := by
  intro h
  have hv : (4 + x.cluster / 48 % 4) % 10 = 8 := congrArg Fin.val h
  omega

theorem State.seenAt_length (s : State) (x : Phys) {n : Nat} (h : x.addr % 128 + n ≤ 128) : (s.seenAt x n).length = n := by
  unfold State.seenAt
  split
  · rw [List.length_take, List.length_drop, List.length_append, leBytes_length, zeros, List.length_replicate]
    omega
  · exact readBytes_length _ _ _

/-- The number in part of a line that an access sees is the one that an access to that part sees. -/
theorem State.leNat_seenAt_part (s : State) {x : Phys} {k n : Nat} (hx : x.addr % 128 = 0) (h : k + n ≤ 128) :
    leNat (((s.seenAt x 128).drop k).take n) = shown s { x with addr := x.addr + k } n := by
  by_cases hk : k = 128
  · have hn : n = 0 := by omega
    subst hn
    rw [← leNat_seenAt, List.take_zero]
    unfold State.seenAt
    split <;> rfl
  · have hline : (x.addr + k) / 128 = x.addr / 128 := by omega
    have hoff : (x.addr + k) % 128 = k := by omega
    rw [← leNat_seenAt]
    refine congrArg leNat ?_
    unfold State.seenAt
    dsimp only
    rw [hline, hoff, hx]
    split
    · have hfull : (leBytes (laImage (s.lineLa (x.addr / 128))) 96 ++ zeros 32).take 128 = leBytes (laImage (s.lineLa (x.addr / 128))) 96 ++ zeros 32 :=
        List.take_of_length_le (by rw [List.length_append, leBytes_length, zeros, List.length_replicate])
      rw [List.drop_zero, hfull]
    · exact readBytes_drop_take _ _ _ _ _ h

theorem State.seenAt_part (s : State) {x : Phys} {k n : Nat} (hx : x.addr % 128 = 0) (h : k + n ≤ 128) :
    ((s.seenAt x 128).drop k).take n = leBytes (shown s { x with addr := x.addr + k } n) n := by
  have hlen : (((s.seenAt x 128).drop k).take n).length = n := by
    rw [List.length_take, List.length_drop, s.seenAt_length x (by omega)]
    omega
  rw [← s.leNat_seenAt_part hx h]
  exact (leBytes_leNat _).symm.trans (by rw [hlen])

/-- An engine reads a whole plain line: its bytes as the page shows them. -/
theorem State.wholeLine_plain {s u : State} {v : Via} {va : Nat} {y : Phys} (hv : v.agent ≠ home) (h : ReachesAt s u v.who v.agent va 128 .read y)
    (hp : y.addr / 128 ∉ u.poison) : ∃ t, s.wholeLine v va = (t, .data (u.seenAt y 128)) ∧ SameMem u t := by
  have hr : s.reach v va 128 .read = (u, .at y) := State.reach_of_reachesAt h
  obtain ⟨-, -, hin, -, -, -, -, -, -, -, hmash, -⟩ := h
  obtain ⟨t, ht, hq⟩ := State.readAt_plain (n := 128) hv hin hmash hp
  have hmem := sameMem_of_quiet hq
  rw [State.wholeLine, hr]
  dsimp only
  rw [ht]
  refine ⟨_, rfl, ?_⟩
  split
  · exact hmem
  · exact hmem

theorem State.readPiece_of_scratch {s : State} {x : Xfer} {p : XPiece} {c : Nat} {list : List Nat} {code : Nat} {a : Int} {ps : List Piece}
    (hp : p.src = .inl (.scr c list code a)) (hps : pieces list code a p.len = some ps) {bs : List Byte} (h : s.readPieces c ps = some bs) :
    s.readPiece x p = (s, x, .inl bs) := by
  have hside : s.sideOf x p = .scr c list code a := by rw [State.sideOf, hp]
  rw [State.readPiece, hside]
  dsimp only
  rw [hps]
  dsimp only
  rw [h]

theorem State.readPiece_of_mem {s u : State} {x : Xfer} {p : XPiece} {va : Nat} {y : Phys} (hp : p.src = .inl (.mem va)) (hva : va < 2 ^ 57)
    (hgot : x.got = []) (hline : va % 128 + p.len ≤ 128)
    (h : ReachesAt s u (s.xferVia x).who (s.xferVia x).agent (va / 128 * 128) 128 .read y) (hpois : y.addr / 128 ∉ u.poison) :
    ∃ t z, s.readPiece x p = (t, z, .inl (leBytes (shown u { y with addr := y.addr + va % 128 } p.len) p.len)) ∧ SameMem u t := by
  obtain ⟨t, ht, hmem⟩ := State.wholeLine_plain (xferVia_agent_ne_home s x) h hpois
  have hside : s.sideOf x p = .mem va := by rw [State.sideOf, hp]
  have hread : s.readLine x (va / 128 * 128) = (t, x, .inl (u.seenAt y 128)) := by rw [State.readLine, hgot, ht]; rfl
  have halign : y.addr % 128 = 0 := by
    obtain ⟨-, -, -, hspan, -⟩ := h
    omega
  refine ⟨t, { x with got := [(va / 128 * 128, u.seenAt y 128)] }, ?_, hmem⟩
  rw [State.readPiece, hside]
  dsimp only
  rw [if_neg (Nat.not_le.mpr hva), hread, hgot, ← u.seenAt_part halign hline]
  rfl

theorem State.sideOf_of_index {s : State} {x : Xfer} {p : XPiece} {i : Nat} {ps : List Piece} {bs : List Byte} (hp : p.src = .inr i)
    (hps : indexPieces x i = some ps) (h : s.readPieces x.cluster ps = some bs) :
    s.sideOf x p = .mem (((dSrc x.desc : Int) + leNat bs * dSigned x.desc 6) % 2 ^ 64).toNat := by
  rw [State.sideOf, hp]
  dsimp only
  rw [hps]
  dsimp only
  rw [h, Option.elim_some]

/-! ### Writing a line (R173) -/

theorem State.writeLine_of_scratch {s : State} {x : Xfer} (line : Nat) {a : Nat} {bs : List Byte} {ps : List Piece} (ht : x.toScratch = true)
    (hp : s.peerHere x = true) (hps : pieces x.dstScr.2.1 x.dstScr.2.2 a bs.length = some ps) :
    s.writeLine x line [(a, bs)] = (s.writePieces x.dstScr.1 x.dstScr.2.2 ps bs, x, .done) := by
  rw [State.writeLine, if_pos ht, if_pos hp, List.foldl_cons, List.foldl_nil, hps, Option.elim_some]

/-- A store of an agent at a plain place. -/
theorem State.storeVia_reaches {s u : State} {v : Via} {a : Nat} {bs : List Byte} {y : Phys} (hv : v.agent ≠ home)
    (h : ReachesAt s u v.who v.agent a bs.length .write y) (hp : y.addr / 128 ∉ u.poison) :
    ∃ t, s.storeVia v a bs = (t, .data []) ∧ StoredAt u t y bs := by
  have hr : s.reach v a bs.length .write = (u, .at y) := State.reach_of_reachesAt h
  obtain ⟨-, -, hin, -, -, -, -, -, -, -, hmash, -⟩ := h
  obtain ⟨t, hq, ht⟩ := State.writeAt_plain (bs := bs) hv hin hmash hp
  refine ⟨_, ?_, hq.withMem _⟩
  rw [State.storeVia, hr]
  dsimp only
  rw [ht]
  rfl

theorem State.writeRuns_one {s u : State} {x : Xfer} {a : Nat} {bs : List Byte} {y : Phys}
    (h : ReachesAt s u (s.xferVia x).who (s.xferVia x).agent a bs.length .write y) (hp : y.addr / 128 ∉ u.poison) :
    ∃ t, s.writeRuns x [(a, bs)] = (t, x, .done) ∧ Stored u t y.addr (if y.attr = .acc then bs.take (96 - y.addr % 128) else bs) := by
  obtain ⟨t, ht, hst⟩ := State.storeVia_reaches (xferVia_agent_ne_home s x) h hp
  obtain ⟨-, -, -, -, -, -, -, -, -, -, -, hwf⟩ := h
  refine ⟨t, ?_, (hst.stored hwf).2.1⟩
  rw [State.writeRuns, ht]
  rfl

/-! ### The runs of a line -/

theorem byteAt_concat (ws : List (Nat × List Byte)) (w : Nat × List Byte) (a : Nat) :
    byteAt (ws ++ [w]) a = if w.1 ≤ a ∧ a < w.1 + w.2.length then w.2[a - w.1]? else byteAt ws a := by
  rw [byteAt, List.foldl_append]
  rfl

/-- The byte that a run of bytes has at an address, and the one that a list of runs has there. -/
def inRun (a : Nat) (w : Nat × List Byte) : Option Byte := if w.1 ≤ a ∧ a < w.1 + w.2.length then w.2[a - w.1]? else none

theorem inRun_self (a : Nat) (b : Byte) (bs : List Byte) : inRun a (a, b :: bs) = some b := by
  rw [inRun, if_pos ⟨Nat.le_refl a, by simp⟩, Nat.sub_self]
  rfl

/-- A byte before a run makes it longer, and shows at its own address alone. -/
theorem inRun_cons_of_ne {a c : Nat} (b : Byte) (bs : List Byte) (h : a ≠ c) : inRun a (c, b :: bs) = inRun a (c + 1, bs) := by
  unfold inRun
  dsimp only
  rw [List.length_cons]
  by_cases hin : c + 1 ≤ a ∧ a < c + 1 + bs.length
  · rw [if_pos ⟨by omega, by omega⟩, if_pos hin]
    have hidx : a - c = a - (c + 1) + 1 := by omega
    rw [hidx, List.getElem?_cons_succ]
  · rw [if_neg (by omega), if_neg hin]

/-- A byte of a line joins the runs of those after it. -/
def joinRun (ws : List (Nat × List Byte)) (line i : Nat) (acc : List (Nat × List Byte)) : List (Nat × List Byte) :=
  match byteAt ws (128 * line + i), acc with
  | none, _ => acc
  | some b, (a, bs) :: r => if a = 128 * line + i + 1 then (128 * line + i, b :: bs) :: r else (128 * line + i, [b]) :: acc
  | some b, [] => [(128 * line + i, [b])]

theorem runsOf_eq (ws : List (Nat × List Byte)) (line : Nat) : runsOf ws line = (List.range 128).foldr (joinRun ws line) [] := rfl

theorem findSome?_joinRun {ws acc : List (Nat × List Byte)} {line i : Nat} (h : acc.findSome? (inRun (128 * line + i)) = none) (a : Nat) :
    (joinRun ws line i acc).findSome? (inRun a) = if a = 128 * line + i then byteAt ws a else acc.findSome? (inRun a) := by
  unfold joinRun
  by_cases ha : a = 128 * line + i
  · subst ha
    rw [if_pos rfl]
    cases hb : byteAt ws (128 * line + i) with
    | none => exact h
    | some b =>
      cases acc with
      | nil => rw [List.findSome?_cons, inRun_self]
      | cons w r =>
        dsimp only
        split <;> rw [List.findSome?_cons, inRun_self]
  · rw [if_neg ha]
    cases byteAt ws (128 * line + i) with
    | none => rfl
    | some b =>
      have hone : inRun a (128 * line + i, [b]) = none := by
        rw [inRun_cons_of_ne b [] ha, inRun]
        exact if_neg (by simp only [List.length_nil]; omega)
      cases acc with
      | nil => rw [List.findSome?_cons, hone]
      | cons w r =>
        dsimp only
        split
        · next hw => rw [List.findSome?_cons, List.findSome?_cons, inRun_cons_of_ne b w.2 ha, ← hw]
        · rw [List.findSome?_cons, hone]

theorem findSome?_foldr_joinRun (ws : List (Nat × List Byte)) (line a : Nat) {is : List Nat} (h : is.Nodup) :
    (is.foldr (joinRun ws line) []).findSome? (inRun a) = if ∃ i ∈ is, a = 128 * line + i then byteAt ws a else none := by
  induction is generalizing a with
  | nil => simp
  | cons i is ih =>
    obtain ⟨hi, his⟩ := List.nodup_cons.mp h
    have hnone : (is.foldr (joinRun ws line) []).findSome? (inRun (128 * line + i)) = none := by
      rw [ih _ his]
      refine if_neg ?_
      rintro ⟨j, hj, hij⟩
      exact hi ((by omega : i = j) ▸ hj)
    rw [List.foldr_cons, findSome?_joinRun hnone, ih a his]
    by_cases ha : a = 128 * line + i
    · rw [if_pos ha, if_pos ⟨i, List.mem_cons_self, ha⟩]
    · rw [if_neg ha]
      refine if_congr ⟨?_, ?_⟩ rfl rfl
      · rintro ⟨j, hj, hja⟩
        exact ⟨j, List.mem_cons_of_mem _ hj, hja⟩
      · rintro ⟨j, hj, hja⟩
        rcases List.mem_cons.mp hj with rfl | hj
        · exact absurd hja ha
        · exact ⟨j, hj, hja⟩

/-- The runs of a line have the bytes that the writes leave. -/
theorem findSome?_runsOf (ws : List (Nat × List Byte)) {line a : Nat} (h : a / 128 = line) : (runsOf ws line).findSome? (inRun a) = byteAt ws a := by
  rw [runsOf_eq, findSome?_foldr_joinRun ws line a List.nodup_range]
  exact if_pos ⟨a % 128, List.mem_range.mpr (by omega), by omega⟩

theorem transfersComplete : Claims.TransfersComplete := by
  unfold Claims.TransfersComplete
  refine ⟨fun s x hx htile => ?_, fun s id h => ?_, fun x => ⟨xferLines_sorted x, mem_xferLines x⟩, fun x hg hd r hr k hk => ?_,
    fun s t x y ps line r m hw hm => ⟨?_, State.runXfer_of_stop r hw hm⟩, fun s x p c list code a ps hp hps bs => State.readPiece_of_scratch hp hps,
    fun s u x p va y => State.readPiece_of_mem, fun s x p i ps bs => State.sideOf_of_index, fun s x line a bs ps => State.writeLine_of_scratch line,
    fun s u x a bs y _ => State.writeRuns_one, byteAt_concat, fun ws line a h => findSome?_runsOf ws h⟩
  · obtain ⟨hidle, habort, hheld⟩ := exec_copyComplete_of_xfer hx htile
    refine ⟨hidle, fun hs => ⟨habort hs, hheld hs, fun ha hf hw t y m hrun => ?_⟩⟩
    rw [exec_copyComplete_of_run hx htile hs ha hf hw hrun]
    cases m <;> rfl
  · have hnone : (s.xfers.find? fun x => x.id == id) = none := List.find?_eq_none.mpr fun x hx => by simpa using h x hx
    change execCopyComplete id s = _
    rw [execCopyComplete, hnone]
  · obtain ⟨c, hle, hlt, hline, hmem⟩ := cpyPieces_cover (x := x) hd hr hk
    have hpieces : xferPieces x = cpyPieces x := by rw [xferPieces, hg, if_neg Bool.false_ne_true]
    rw [← hpieces] at hmem
    refine ⟨_, hmem, k - c.1, ?_, ?_, ?_, ?_⟩
    · dsimp only
      omega
    · dsimp only
      omega
    · dsimp only
      omega
    · dsimp only
      cases hss : Path.srcScratch x.path
      · rw [if_neg Bool.false_ne_true]
        refine ⟨rfl, ?_⟩
        omega
      · rw [if_pos rfl]
        refine ⟨rfl, rfl, rfl, rfl, ?_⟩
        omega
  · rintro rfl
    exact State.runXfer_of_done r hw hm

end Sys2Proof.Machine

section
open Sys2Proof Sys2Proof.Machine Sys2Proof.Claims

/-- Settles O38: a word that starts a transfer by what it waits for, a transfer by the cuts of its rows, its lines and the runs of each. -/
theorem launchesAndTransfersRun : Obligations.LaunchesAndTransfersRun := ⟨launchesAndTransfers, transfersComplete⟩
end

/-! ## COLL and COLLW -/

namespace Sys2Proof.Machine
open Sys2Proof Sys2Proof.Claims

/-! ### The word COLL (R218, R376) -/

/-- Is a handle's collective not yet waited for? -/
def Handle.taken : Handle → Bool
  | .pending _ | .done _ => true
  | .unused | .free _ => false

theorem Handle.taken_iff (x : Handle) : x.taken = true ↔ ∃ c, x = .pending c ∨ x = .done c := by cases x <;> simp [Handle.taken]

theorem State.readWaits_iff (s : State) (l : Lane) (va n : Nat) : ((s.readWaits l va n).any fun u => !u.faulted) = true ↔
    ∃ u ∈ s.pendings l, u.faulted = false ∧ (u.acquires = true ∨ (u.touches va n = true ∧ readOnly u.instr = false)) := by
  rw [List.any_eq_true]
  refine exists_congr fun u => ?_
  rw [State.readWaits, List.mem_filter, Bool.or_eq_true, Bool.and_eq_true, Bool.not_eq_true', Bool.not_eq_true']
  tauto

/-- The lanes of the bundle go on from COLL; the one that acts takes the error of a lost store with it. -/
def collGoes (l : Lane) (e : Scope) (u : State) : State :=
  mapActive u fun m => { m with marker := m.marker || (m.id == l.id && e == Scope.system && l.lostStore), fetched := [] }.adv 8

/-- COLL with a descriptor that has been asked for. -/
def collRead (h : Fin 4) (e : Scope) (l : Lane) (va : Nat) (taken : Bool) (u : State) (r : Res) : State :=
  match r with
  | .page f => mapActive u fun m => m.pageHere f
  | .busy => mapActive u Lane.stall
  | o =>
    if taken then eachActive u fun s l => s.raise l (l.causeHere causeCollBusy h.val 0)
    else
      match o with
      | .data bs =>
        match (u.collChecks l (leNat bs)).2 with
        | none => mapActive (u.collChecks l (leNat bs)).1 Lane.stall
        | some b => collGoes l e ((u.collChecks l (leNat bs)).1.startColl l h.val (leNat bs) e (va % 64 == 0) b)
      | .ue _ => collGoes l e (u.handleDone l.part l.id.tid h.val 6)
      | _ => collGoes l e (u.handleDone l.part l.id.tid h.val 2)

section
variable {a : VReg} {h : Fin 4} {e : Scope} {s : State} {l : Lane}

theorem exec_coll_of_legal (hl : Legal s (.coll a h e)) (hlead : s.lead = some l) : exec (.coll a h e) s = .next (
    if (s.readWaits l (l.pair a).toNat 64).any fun u => !u.faulted then mapActive s Lane.stall
    else collRead h e l (l.pair a).toNat ((s.teamOf l).handle h.val).taken (s.readDesc l (l.pair a).toNat).1 (s.readDesc l (l.pair a).toNat).2) := by
  obtain ⟨l', hlead', hill⟩ := hl
  change execColl a h e s = _
  rw [execColl, guarded_next hlead' hill, hlead]
  dsimp only
  split
  · rfl
  · unfold collRead
    cases (s.readDesc l (l.pair a).toNat).2 <;> cases (s.teamOf l).handle h.val <;> rfl

/-- COLL once its descriptor is read and the handle is free. -/
theorem collRead_of_data {va : Nat} {u v : State} {bs : List Byte} {b : Option (Bool × Option (List Nat))} (hc : u.collChecks l (leNat bs) = (v, b)) :
    (b = none → collRead h e l va false u (.data bs) = mapActive v Lane.stall) ∧
      ∀ x, b = some x → collRead h e l va false u (.data bs) = collGoes l e (v.startColl l h.val (leNat bs) e (va % 64 == 0) x) := by
  refine ⟨fun hb => ?_, fun x hb => ?_⟩
  all_goals
    subst hb
    unfold collRead
    dsimp only
    rw [hc, if_neg Bool.false_ne_true]

/-- COLL on a handle that has not been waited for. -/
theorem collRead_of_taken {va : Nat} {u : State} {r : Res} (hpage : ∀ f, r ≠ .page f) (hbusy : r ≠ .busy) :
    collRead h e l va true u r = eachActive u fun s l => s.raise l (l.causeHere 0x0E h.val 0) := by
  cases r with
  | page f => exact absurd rfl (hpage f)
  | busy => exact absurd rfl hbusy
  | data bs => rfl
  | ue b => rfl
  | peer x => rfl

end

/-! ### The descriptor (R218) -/

theorem State.readDesc_of_one_line {s : State} {l : Lane} {va : Nat} (hva : va % 128 ≤ 64) (hp : ∀ a, (s.loadVia (s.via l) va 64).2 ≠ .peer a) :
    s.readDesc l va = s.loadVia (s.via l) va 64 := by
  have hn : min 64 (128 - va % 128) = 64 := by omega
  rw [State.readDesc, hn]
  dsimp only
  split
  · exact if_pos rfl
  · next a h => exact absurd h (hp a)
  · rfl

theorem State.readDesc_of_peer {s u : State} {l : Lane} {va a : Nat} {bs : List Byte} (hva : va % 64 = 0)
    (h : s.loadVia (s.via l) va 64 = (u, .peer a)) (hbs : bs ≠ []) (hf : l.fetched.find? (fun x => x.1 == va) = some (va, bs)) :
    s.readDesc l va = (u, .data bs) := by
  have hn : min 64 (128 - va % 128) = 64 := by omega
  have hne : bs.isEmpty = false := List.isEmpty_eq_false_iff.mpr hbs
  rw [State.readDesc, hn, h]
  dsimp only
  rw [if_pos hva, State.farPart, hf]
  dsimp only
  rw [hne]
  rfl

/-- What makes a descriptor unusable, its set's entry among it. -/
theorem collBad_of {d g : Nat} (h : 5 < dOp d ∨ 1 < dType d ∨ (dType d = 1 ∧ dOp d ≤ 1) ∨ dCount d = 0 ∨ 2 ^ 26 < dCount d ∨
    (dOp d = 0 ∧ 4096 < dCount d) ∨ 63 < dSet d ∨ (dOp d = 1 ∧ dQw d ≠ 16 ∧ dQw d ≠ 24 ∧ dQw d ≠ 32) ∨ (dOp d = 4 ∧ setN g ≤ dRoot d) ∨
    fld d 26 6 ≠ 0 ∨ fld d 272 16 ≠ 0 ∨ fld d 296 24 ≠ 0 ∨ 2 ^ 352 ≤ d ∨ setEn g = false ∨ setN g = 0 ∨ setN g ≤ setRank g) :
    collBad d g = true := by
  have hcount : 2 ^ 26 < dCount d → (if dOp d = 0 then 4096 else 2 ^ 26) < dCount d := fun h => by
    split <;> omega
  have hcount0 : dOp d = 0 ∧ 4096 < dCount d → (if dOp d = 0 then 4096 else 2 ^ 26) < dCount d := fun ⟨h0, h⟩ => by rwa [if_pos h0]
  have hlarge : 2 ^ 352 ≤ d → d / 2 ^ 352 ≠ 0 := fun h => Nat.pos_iff_ne_zero.mp (Nat.div_pos h (by positivity))
  simp only [collBad, setBad, Bool.or_eq_true, Bool.and_eq_true, bne_iff_ne, beq_iff_eq, decide_eq_true_eq, Bool.not_eq_true']
  grind

theorem collBad_eq_false {d g : Nat} (h : collBad d g = false) : dSet d ≤ 63 ∧ setN g ≠ 0 := by
  refine ⟨Nat.le_of_not_lt fun hlt => ?_, fun h0 => ?_⟩
  · rw [collBad_of (by tauto)] at h
    exact Bool.noConfusion h
  · rw [collBad_of (by tauto)] at h
    exact Bool.noConfusion h

/-! ### The checks of the set and of the pages (R221, R300) -/

section
variable {s u v : State} {l : Lane} {d : Nat} {r : Option (Option (List Nat))}

theorem State.collChecks_of_op (hop : dOp d ≠ 0) (hset : dSet d ≤ 63) (hn : setN (tget 0 (dSet d) (s.part l.part).sets) ≠ 0)
    (h : s.setPkgs l.part (tget 0 (dSet d) (s.part l.part).sets) = (u, r)) : s.collChecks l d = (u, r.map fun p => (false, p)) := by
  rw [State.collChecks, if_pos ⟨hset, hn⟩, if_neg (fun h => hop h.1), h]
  rfl

theorem State.collChecks_of_kacc (hop : dOp d = 0) (hbad : collBad d (tget 0 (dSet d) (s.part l.part).sets) = false) {b : Option Bool}
    (hk : s.kaccPages (s.who l) d = (v, b)) (h : v.setPkgs l.part (tget 0 (dSet d) (s.part l.part).sets) = (u, r)) :
    s.collChecks l d = (u, b.bind fun x => r.map fun p => (x, p)) := by
  have hok : (!collBad d (tget 0 (dSet d) (s.part l.part).sets)) = true := by rw [hbad]; rfl
  rw [State.collChecks, if_pos (⟨hop, hok⟩ : dOp d = 0 ∧ _), if_pos (collBad_eq_false hbad), hk, h]

end

theorem State.homeRead_bytes {s u : State} {a n : Nat} {bs : List Byte} (h : s.homeRead a n = (u, some bs)) : bs = readBytes u.mem a n := by
  unfold State.homeRead at h
  split at h
  · exact nomatch congrArg Prod.snd h
  · obtain ⟨rfl, hbs⟩ := Prod.mk.inj h
    exact (Option.some.inj hbs).symm

theorem State.owned_iff (s : State) (p a : Nat) : s.owned p a = true ↔
    a < 2 ^ 39 ∧ a / 65536 ∉ s.reserved ∧ fotState (s.fotOf (a / 65536)) = 1 ∧ fotOwner (s.fotOf (a / 65536)) = p := by
  rw [State.owned, Bool.and_eq_true, Bool.and_eq_true, Bool.and_eq_true, inHbm, decide_eq_true_eq, Bool.not_eq_true', beq_iff_eq, beq_iff_eq,
    ← Bool.not_eq_true, List.contains_iff_mem]
  tauto

theorem mem_linesOf {a n b : Nat} (h : a ≤ b) (hb : b < a + n) : b / 128 ∈ linesOf a n :=
  List.mem_map.mpr ⟨b / 128 - a / 128, List.mem_range.mpr (by omega), by omega⟩

/-- The members of a set, in frames that the partition owns. -/
theorem State.setPkgs_spec {s u : State} {p e : Nat} {ps : List Nat} (h : s.setPkgs p e = (u, some (some ps))) : ps.length = setN e ∧
    ∀ i < setN e, (128 * ((fld e 64 64 + 2 * i) / 128) < 2 ^ 39 ∧ (fld e 64 64 + 2 * i) / 65536 ∉ s.reserved ∧
      fotState (s.fotOf ((fld e 64 64 + 2 * i) / 65536)) = 1 ∧ fotOwner (s.fotOf ((fld e 64 64 + 2 * i) / 65536)) = p) ∧
      ps[i]? = some (readNat u.mem (fld e 64 64 + 2 * i) 2) := by
  generalize ha : fld e 64 64 = a at h
  unfold State.setPkgs at h
  rw [ha] at h
  dsimp only at h
  split at h
  · next hall =>
    obtain ⟨hu, hq⟩ := Prod.mk.inj h
    obtain ⟨bs, hbs, hps⟩ := Option.map_eq_some_iff.mp hq
    obtain rfl := Option.some.inj hps
    have hread : s.homeRead a (2 * setN e) = (u, some bs) := Prod.ext hu hbs
    refine ⟨by rw [List.length_map, List.length_range], fun i hi => ⟨?_, ?_⟩⟩
    · have hown := (s.owned_iff p _).mp (List.all_eq_true.mp hall _ (mem_linesOf (b := a + 2 * i) (by omega) (by omega)))
      have hframe : 128 * ((a + 2 * i) / 128) / 65536 = (a + 2 * i) / 65536 := by omega
      rw [hframe] at hown
      exact hown
    · rw [List.getElem?_map, List.getElem?_range hi, Option.map_some, State.homeRead_bytes hread, readBytes_drop_take _ _ _ _ _ (by omega)]
      rfl
  · exact nomatch (Prod.mk.inj h).2

theorem State.setPkgs_of_not_owned {s : State} {p e : Nat} (h : ∃ n ∈ linesOf (fld e 64 64) (2 * setN e), s.owned p (128 * n) = false) :
    s.setPkgs p e = (s, some none) := by
  obtain ⟨n, hn, hown⟩ := h
  refine if_neg fun hall => ?_
  rw [List.all_eq_true.mp hall n hn] at hown
  exact Bool.noConfusion hown

/-! ### A collective starts, or ends at once (R221, R300) -/

/-- The other members are told of an end, where the set names some. -/
def State.tellEnd (s : State) (p d : Nat) (ps : Option (List Nat)) (st : Nat) : State :=
  match ps with
  | some ps => if 2 ≤ ps.length then s.sendColl ps (s.collReq p d 0 0 (.abort st)) else s
  | none => s

/-- The collective that COLL starts on a handle. -/
def State.newColl (s : State) (l : Lane) (h d : Nat) (e : Scope) (ps : List Nat) : Coll :=
  { id := s.nextId, part := l.part, tid := l.id.tid, handle := h, lane := l.id, ctx := s.laneCtx l, sup := l.sup, die := l.die, pc := l.pc,
    desc := d, members := setN (tget 0 (dSet d) (s.part l.part).sets), rank := setRank (tget 0 (dSet d) (s.part l.part).sets), pkgs := ps,
    start := s.time, stage := .reading, own := [], got := [], mag := (0, 0), done := 0, repeats := 0, fid := none, gath := [], src := [], ready := 1,
    after := if e = .lane then { defs := [], atoms := [], reqs := [] } else s.boundOf l }

/-- The requests about it that came early. -/
def State.earlyReqs (s : State) (p d : Nat) : List CollReq :=
  s.collIn.filter fun r => r.ftag == (s.part p).ftag && r.setId == dSet d && r.cid == dCid d

/-- The collective in its place, its handle pending. -/
def State.entered (s : State) (l : Lane) (h d : Nat) (c : Coll) : State :=
  ({ s with colls := s.colls ++ [c], nextId := s.nextId + 1, collIn := s.collIn.filter fun r => !(s.earlyReqs l.part d).contains r } : State).setHandle
    l.part l.id.tid h (.pending c.id)

/-- A member of a broadcast or of an all-gather says that it has begun. -/
def State.announced (s : State) (c : Coll) : State :=
  if (dOp c.desc = 4 ∨ dOp c.desc = 5) ∧ c.members ≠ 1 then s.sendColl c.pkgs (s.collReq c.part c.desc 0 1 .none) else s

/-- The collective goes on as far as it can. -/
def State.firstRun (s : State) (id : Nat) : State :=
  match s.colls.find? (fun y => y.id == id) with
  | some y => s.runColl y
  | none => s

theorem Coll.places_iff (c : Coll) : c.places = true ↔ dOp c.desc = 4 ∨ dOp c.desc = 5 := by
  rw [Coll.places, Bool.or_eq_true, beq_iff_eq, beq_iff_eq]

section
variable {s : State} {l : Lane} {h d : Nat} {e : Scope} {aligned : Bool} {b : Bool × Option (List Nat)}

theorem State.startColl_of_unusable
    (hu : aligned = false ∨ collBad d (tget 0 (dSet d) (s.part l.part).sets) = true ∨ b.1 = true ∨ b.2 = none) :
    s.startColl l h d e aligned b = (s.tellEnd l.part d b.2 2).handleDone l.part l.id.tid h 2 := by
  refine if_pos ?_
  rw [Bool.or_eq_true, Bool.or_eq_true, Bool.or_eq_true, Bool.not_eq_true', Option.isNone_iff_eq_none]
  tauto

theorem State.startColl_of_usable
    (hu : ¬ (aligned = false ∨ collBad d (tget 0 (dSet d) (s.part l.part).sets) = true ∨ b.1 = true ∨ b.2 = none)) :
    (s.setPoisoned (tget 0 (dSet d) (s.part l.part).sets) = true →
      s.startColl l h d e aligned b = (s.tellEnd l.part d b.2 6).handleDone l.part l.id.tid h 6) ∧
    (s.setPoisoned (tget 0 (dSet d) (s.part l.part).sets) = false →
      ((∃ c ∈ s.colls, c.part = l.part ∧ dCid c.desc = dCid d) → s.startColl l h d e aligned b = s.handleDone l.part l.id.tid h 4) ∧
      ((∀ c ∈ s.colls, c.part = l.part → dCid c.desc ≠ dCid d) → ∀ ps, b.2 = some ps → s.startColl l h d e aligned b =
        (((s.entered l h d (s.newColl l h d e ps)).announced (s.newColl l h d e ps)).takeEarly s.nextId (s.earlyReqs l.part d)).firstRun s.nextId)) := by
  have hno : ¬ (!aligned || collBad d (tget 0 (dSet d) (s.part l.part).sets) || b.1 || b.2.isNone) = true := by
    rw [Bool.or_eq_true, Bool.or_eq_true, Bool.or_eq_true, Bool.not_eq_true', Option.isNone_iff_eq_none]
    tauto
  refine ⟨fun hp => ?_, fun hp => ⟨fun hdup => ?_, fun hdup ps hps => ?_⟩⟩
  all_goals
    unfold State.startColl
    dsimp only
    rw [if_neg hno]
  · exact if_pos hp
  · have hany : (s.colls.any fun c => c.part == l.part && dCid c.desc == dCid d) = true := by simpa using hdup
    rw [if_neg (by rw [hp]; decide), if_pos hany]
  · have hany : (s.colls.any fun c => c.part == l.part && dCid c.desc == dCid d) = false := by simpa using hdup
    rw [if_neg (by rw [hp]; decide), if_neg (by rw [hany]; decide), hps, Option.getD_some]
    have hann : ∀ u : State, u.announced (s.newColl l h d e ps) =
        if (s.newColl l h d e ps).places && (s.newColl l h d e ps).members != 1 then
          u.sendColl ps (u.collReq l.part d 0 1 .none) else u := fun u =>
      if_congr (by rw [Bool.and_eq_true, Coll.places_iff, bne_iff_ne]) rfl rfl
    have hrun : ∀ u : State, u.firstRun s.nextId = (u.colls.find? fun x => x.id == s.nextId).elim u u.runColl := fun u => by
      unfold State.firstRun
      cases u.colls.find? fun x => x.id == s.nextId <;> rfl
    rw [hrun, hann]
    rfl

end

/-! ### COLLW (R376) -/

/-- The lanes of the bundle go on from COLLW with a status, an acquire at device scope. -/
def collwGives (d : VReg) (s : State) (st : Nat) : State :=
  (mapActive s fun m => (m.setV d (BitVec.ofNat 32 st)).adv 8).acquireAll (fun m => m.issuing) .device

/-- COLLW by what its handle holds. -/
def collwAct (d : VReg) (h : Fin 4) (s : State) (l : Lane) : Handle → State
  | .pending _ => mapActive s fun m => (m.adv 8).parked (.collw h.val d.val)
  | .done st => (collwGives d s st).setHandle l.part l.id.tid h.val (.free st)
  | .free st => collwGives d s st
  | .unused => collwGives d s 0

theorem exec_collw_of_legal {d : VReg} {h : Fin 4} {s : State} {l : Lane} (hl : Legal s (.collw d h)) (hlead : s.lead = some l) :
    exec (.collw d h) s = .next (collwAct d h s l ((s.teamOf l).handle h.val)) := by
  obtain ⟨l', hlead', hill⟩ := hl
  change execCollw d h s = _
  rw [execCollw, guarded_next hlead' hill, hlead]
  dsimp only
  cases (s.teamOf l).handle h.val <;> rfl

theorem collectiveWords : Claims.CollectiveWords := by
  unfold Claims.CollectiveWords
  refine ⟨fun a h e s l hl hlead => ?_, fun s l va => State.readDesc_of_one_line, fun s u l va a bs => State.readDesc_of_peer,
    fun s l d => ⟨fun hop hset hn u r => State.collChecks_of_op hop hset hn, fun hop hbad v b hk u r => State.collChecks_of_kacc hop hbad hk⟩,
    fun s l h d x aligned b => ⟨State.startColl_of_unusable, fun hu => ?_, fun g => collBad_of⟩, fun s p e u ps => State.setPkgs_spec,
    fun s p e => State.setPkgs_of_not_owned, fun d h s l hl hlead => ?_⟩
  · have hexec := exec_coll_of_legal hl hlead
    refine ⟨fun hw => ?_, fun hw u r hr => ?_⟩
    · rw [hexec, if_pos ((s.readWaits_iff l _ 64).mpr hw)]
    · rw [if_neg (mt (s.readWaits_iff l _ 64).mp hw), hr] at hexec
      refine ⟨?_, ?_, fun hpage hbusy => ⟨fun ht => ?_, fun ht => ?_⟩⟩
      · rintro f rfl
        exact hexec
      · rintro rfl
        exact hexec
      · rw [hexec, (Handle.taken_iff _).mpr ht, collRead_of_taken hpage hbusy]
      · rw [(Bool.not_eq_true _).mp (mt (Handle.taken_iff _).mp ht)] at hexec
        refine ⟨?_, ?_, ?_⟩
        · rintro bs rfl v b hc
          obtain ⟨hnone, hsome⟩ := collRead_of_data (h := h) (e := e) (va := (l.pair a).toNat) hc
          exact ⟨fun hb => hexec.trans (congrArg _ (hnone hb)), fun x hb => hexec.trans (congrArg _ (hsome x hb))⟩
        · rintro b rfl
          exact hexec
        · rintro x rfl
          exact hexec
  · obtain ⟨hpois, hok⟩ := State.startColl_of_usable (s := s) (l := l) (h := h) (d := d) (e := x) hu
    exact ⟨hpois, fun hp => hok hp⟩
  · have hexec := exec_collw_of_legal hl hlead
    refine ⟨fun c hc => ?_, fun st hc => ?_, fun st hc => ?_, fun hc => ?_⟩
    all_goals
      rw [hc] at hexec
      exact hexec

end Sys2Proof.Machine

/-! ## The arithmetic of collectives -/

namespace Sys2Proof.Machine
open Sys2Proof Sys2Proof.Claims

/-! ### The largest and the smallest (R219) -/

theorem combine_word_int (x y : Word) : combine 2 1 (.word x) (.word y) = .word (BitVec.ofInt 32 (max x.toInt y.toInt)) ∧
    combine 3 1 (.word x) (.word y) = .word (BitVec.ofInt 32 (min x.toInt y.toInt)) := by
  rw [combine_word (.inl rfl), combine_word (.inr rfl), extremum, extremum, if_pos rfl, if_pos rfl]
  rcases le_total x.toInt y.toInt with h | h
  · rw [max_eq_right h, min_eq_left h, BitVec.ofInt_toInt, BitVec.ofInt_toInt]
    refine ⟨congrArg _ (pick_eq_right (intKey_injective _) ?_), congrArg _ (pick_eq_left ?_)⟩
    · simpa [intKey] using h
    · simpa [intKey] using h
  · rw [max_eq_left h, min_eq_right h, BitVec.ofInt_toInt, BitVec.ofInt_toInt]
    refine ⟨congrArg _ (pick_eq_left ?_), congrArg _ (pick_eq_right (intKey_injective _) ?_)⟩
    · simpa [intKey] using h
    · simpa [intKey] using h

theorem combine_word_float {x y : Word} {u v : ℚ} (hx : finite? fmtF32 x.toNat = some u) (hy : finite? fmtF32 y.toNat = some v) (h : u < v) :
    combine 2 0 (.word x) (.word y) = .word y ∧ combine 2 0 (.word y) (.word x) = .word y ∧
      combine 3 0 (.word x) (.word y) = .word x ∧ combine 3 0 (.word y) (.word x) = .word x := by
  have hord : ordOf x < ordOf y := (cmp_eq_lt_iff _ _).mp ((ordOf_cmp_of_finite? hx hy).trans ((cmp_eq_lt_iff u v).mpr h))
  have hnx : (f32Of x).isNan = false := not_nan_of_value? (by rw [← hx, finite?_eq_value?]; rfl)
  have hny : (f32Of y).isNan = false := not_nan_of_value? (by rw [← hy, finite?_eq_value?]; rfl)
  obtain ⟨hmin, hmin', hmax, hmax'⟩ := minMaxW_of_key_le hnx hny (keyOf_le_of_ordOf_lt hord)
  rw [combine_word (.inl rfl), combine_word (.inl rfl), combine_word (.inr rfl), combine_word (.inr rfl)]
  exact ⟨congrArg _ hmax, congrArg _ hmax', congrArg _ hmin, congrArg _ hmin'⟩

/-! ### The magnitude word and its exponent (R220) -/

/-- A power of two above the smallest magnitude is the magnitude of a code. -/
theorem exists_mag_eq_two_zpow {E : Int} (h : -149 ≤ E) : ∃ j, fmtF32.mag j = (2 : ℚ) ^ E := by
  have hcast : ∀ k : Nat, ((2 ^ k : Nat) : ℚ) = (2 : ℚ) ^ (k : Int) := fun k => by rw [Nat.cast_pow, Nat.cast_ofNat, zpow_natCast]
  by_cases hn : -126 ≤ E
  · refine ⟨(E + 126).toNat * 2 ^ fmtF32.w + 2 ^ fmtF32.w, ?_⟩
    rw [fmtF32.mag_add (.inr le_rfl) (by decide), hcast, ← zpow_add₀ two_ne_zero]
    congr 1
    simp only [fmtF32, Fmt.emin]
    omega
  · refine ⟨0 * 2 ^ fmtF32.w + 2 ^ (E + 149).toNat, ?_⟩
    rw [fmtF32.mag_add (.inl rfl) (Nat.pow_le_pow_right (by decide) (by change _ ≤ 24; omega)), hcast, ← zpow_add₀ two_ne_zero]
    congr 1
    simp only [fmtF32, Fmt.emin]
    omega

/-- A code's exponent bounds its magnitude. -/
theorem magExp_bounds {c : Nat} (hc : 0 < c) (hmax : c ≤ fmtF32.maxCode) :
    (2 : ℚ) ^ (magExp c - 1) ≤ fmtF32.mag c ∧ fmtF32.mag c < (2 : ℚ) ^ magExp c := by
  have hpos : 0 < fmtF32.mag c := fmtF32.mag_zero ▸ fmtF32.mag_strictMono hc
  have hval : (fmtF32.decode c).value? = some (fmtF32.mag c) := by
    have h := Fmt.finite?_signed fmtF32_wf false (hmax.trans_lt (Fmt.maxCode_lt fmtF32_wf))
    rw [if_pos hmax, if_neg Bool.false_ne_true, one_mul, finite?_eq_value?] at h
    exact h
  have hexp : magExp c = match fmtF32.decode c with
      | .fin _ m e => (Nat.log2 m : Int) + e + 1
      | _ => 0 :=
    if_neg (hmax.trans_lt (by decide)).ne
  rw [hexp]
  cases hd : fmtF32.decode c with
  | nan sig => rw [hd] at hval; cases hval
  | inf n => rw [hd] at hval; cases hval
  | zero n =>
    rw [hd] at hval
    exact absurd (Option.some.inj hval) hpos.ne
  | fin n m e =>
    rw [hd] at hval
    have hmag := Option.some.inj hval
    have hp : (0 : ℚ) < 2 ^ e := by positivity
    cases n with
    | true =>
      exfalso
      have hm : (0 : ℚ) ≤ m * 2 ^ e := by positivity
      rw [if_pos rfl, neg_one_mul, neg_mul] at hmag
      linarith
    | false =>
      rw [if_neg Bool.false_ne_true, one_mul] at hmag
      have hm : 0 < m := Nat.pos_of_ne_zero fun h0 => by
        rw [h0, Nat.cast_zero, zero_mul] at hmag
        exact hpos.ne hmag
      have hle := two_zpow_topOf_le hm e
      have hlt := lt_two_zpow_topOf_succ m e
      rw [hmag] at hle hlt
      exact ⟨by rw [add_sub_cancel_right]; exact hle, hlt⟩

theorem magExp_mono {v w : Nat} (hv : 0 < v) (h : v ≤ w) (hw : w ≤ 0x7F800000) : magExp v ≤ magExp w := by
  obtain hw | rfl := Nat.lt_or_eq_of_le hw
  · have hmax : w ≤ fmtF32.maxCode := Nat.le_of_lt_succ hw
    have hlt := ((magExp_bounds hv (h.trans hmax)).1.trans (fmtF32.mag_strictMono.monotone h)).trans_lt (magExp_bounds (hv.trans_le h) hmax).2
    have := (zpow_lt_zpow_iff_right₀ (one_lt_two (α := ℚ))).mp hlt
    omega
  · obtain hv' | rfl := Nat.lt_or_eq_of_le h
    · have hmax : v ≤ fmtF32.maxCode := Nat.le_of_lt_succ hv'
      have htop : fmtF32.mag 0x7F800000 = (2 : ℚ) ^ (128 : Int) := by
        have hnext := (limitsOk_of_mem (t := limF32) (by simp [formats])).next
        exact hnext.symm.trans (by norm_num [limF32])
      have hlt := (magExp_bounds hv hmax).1.trans_lt ((fmtF32.mag_strictMono hv').trans_eq htop)
      have := (zpow_lt_zpow_iff_right₀ (one_lt_two (α := ℚ))).mp hlt
      have h129 : magExp 0x7F800000 = 129 := if_pos rfl
      omega
    · exact le_rfl

/-- The magnitude word of a finite contribution in the range of FP32 is the code next below its magnitude. -/
theorem magWord_spec {x : LA} (hs : isSpecial x = false) {n : Nat} (hn : x.val.toInt.natAbs = n) (hpos : 0 < n) (hlt : n < 2 ^ 426) :
    magWord x ≤ fmtF32.maxCode ∧ fmtF32.mag (magWord x) ≤ n * (2 : ℚ) ^ (-298 : Int) ∧ n * (2 : ℚ) ^ (-298 : Int) < fmtF32.mag (magWord x + 1) := by
  have hok := limitsOk_of_mem (t := limF32) (by simp [formats])
  obtain ⟨k, hk⟩ := Fmt.codeOf_picks fmtF32_wf .rz false hpos (-298)
  have hcode : fmtF32.codeOf .rz false n (-298) = k := by
    rw [hk.eq]
    exact if_neg Bool.false_ne_true
  have hmax : k ≤ fmtF32.maxCode := by
    by_contra hgt
    have htop : fmtF32.mag (fmtF32.maxCode + 1) = (2 : ℚ) ^ (128 : Int) := hok.next.symm.trans (by norm_num [limF32])
    have hle := (fmtF32.mag_strictMono.monotone (Nat.lt_of_not_le hgt)).trans hk.lo_le
    have hval : (n : ℚ) * 2 ^ (-298 : Int) < 2 ^ (128 : Int) := by
      have hcast : (n : ℚ) < 2 ^ (426 : Int) := by exact_mod_cast hlt
      calc (n : ℚ) * 2 ^ (-298 : Int) < 2 ^ (426 : Int) * 2 ^ (-298 : Int) := mul_lt_mul_of_pos_right hcast (by positivity)
        _ = 2 ^ (128 : Int) := by rw [← zpow_add₀ two_ne_zero]; norm_num
    have hle' : (2 : ℚ) ^ (128 : Int) ≤ n * 2 ^ (-298 : Int) := htop.symm.le.trans hle
    exact absurd hval (not_lt.mpr hle')
  have hword : magWord x = k := by
    have hround : (fmtF32.roundFin .rz false false n (-298) false).1 = k := by
      rw [Fmt.roundFin_eq, hcode, if_neg (Nat.not_lt.mpr hmax)]
      rfl
    have hs' : (x.nv || x.pi || x.ni) = false := hs
    rw [magWord, hs', if_neg Bool.false_ne_true]
    dsimp only
    rw [hn, if_neg (Nat.not_le.mpr hlt), hround]
  rw [hword]
  exact ⟨hmax, hk.lo_le, hk.lt_hi⟩

/-- E of a contribution: the least integer with |c| < 2^E (R220). -/
theorem magExp_magWord {x : LA} (hs : isSpecial x = false) (hx : x.val ≠ 0) (hd : (2 : Int) ^ 149 ∣ x.val.toInt) (hlt : x.val.toInt.natAbs < 2 ^ 426) :
    (2 : ℚ) ^ (magExp (magWord x) - 1) ≤ |(x.val.toInt : ℚ) * (2 : ℚ) ^ (-298 : Int)| ∧
      |(x.val.toInt : ℚ) * (2 : ℚ) ^ (-298 : Int)| < (2 : ℚ) ^ magExp (magWord x) := by
  have hpos : 0 < x.val.toInt.natAbs := Int.natAbs_pos.mpr fun h => hx (BitVec.toInt_inj.1 (h.trans BitVec.toInt_zero.symm))
  have habs : |(x.val.toInt : ℚ) * (2 : ℚ) ^ (-298 : Int)| = x.val.toInt.natAbs * (2 : ℚ) ^ (-298 : Int) := by
    rw [abs_mul, abs_of_pos (by positivity : (0 : ℚ) < 2 ^ (-298 : Int)), Nat.cast_natAbs, Int.cast_abs]
  have hge : 2 ^ 149 ≤ x.val.toInt.natAbs := Nat.le_of_dvd hpos (by simpa using Int.natAbs_dvd_natAbs.mpr hd)
  obtain ⟨hmax, hle, hhi⟩ := magWord_spec hs rfl hpos hlt
  rw [habs]
  generalize x.val.toInt.natAbs = n at *
  generalize magWord x = k at *
  have hleast : (2 : ℚ) ^ (-149 : Int) ≤ n * 2 ^ (-298 : Int) := by
    have hcast : (2 : ℚ) ^ (149 : Int) ≤ n := by exact_mod_cast hge
    calc (2 : ℚ) ^ (-149 : Int) = 2 ^ (149 : Int) * 2 ^ (-298 : Int) := by rw [← zpow_add₀ two_ne_zero]; norm_num
      _ ≤ n * 2 ^ (-298 : Int) := mul_le_mul_of_nonneg_right hcast (by positivity)
  have hone : fmtF32.mag 1 = (2 : ℚ) ^ (-149 : Int) := by
    have h := fmtF32.mag_add (E := 0) (j := 1) (.inl rfl) (by decide)
    rw [Nat.zero_mul, Nat.zero_add] at h
    rw [h, Nat.cast_one, one_mul]
    rfl
  have hk : 0 < k := by
    have h1 := (hone.le.trans hleast).trans_lt hhi
    have := fmtF32.mag_strictMono.lt_iff_lt.mp h1
    omega
  obtain ⟨hlo, hup⟩ := magExp_bounds hk hmax
  have hE : -149 ≤ magExp k := by
    have h1 := (hone.symm.le.trans (fmtF32.mag_strictMono.monotone hk)).trans_lt hup
    exact ((zpow_lt_zpow_iff_right₀ (one_lt_two (α := ℚ))).mp h1).le
  obtain ⟨j, hj⟩ := exists_mag_eq_two_zpow hE
  have hkj : k < j := fmtF32.mag_strictMono.lt_iff_lt.mp (hj ▸ hup)
  exact ⟨hlo.trans hle, hhi.trans_le (hj ▸ fmtF32.mag_strictMono.monotone hkj)⟩

/-! ### The integers of isum (R220) -/

theorem sgn_mod_two {n : Bool} {c : Nat} (h : c % 2 = 0) : sgn n c % 2 = 0 := by
  unfold sgn
  split <;> omega

/-- Rounding to nearest picks a neighbour within one half, an even one at exactly one half. -/
theorem Picks.dist_le {n : Bool} {k c : Nat} {a : ℚ} {b : Bool} (h : Picks .rne n k k a (k + 1 : Nat) c b) :
    |(c : ℚ) - a| ≤ 1 / 2 ∧ (|(c : ℚ) - a| = 1 / 2 → c % 2 = 0) := by
  have hlo := h.lo_le
  have hhi := h.lt_hi
  have hup := h.up_iff
  rw [if_pos rfl] at hup
  push_cast at hhi hup
  obtain hc | hc := h.eq_or
  · have hno : ¬ (c = k + 1) := by omega
    rw [hup, not_or, not_and] at hno
    obtain ⟨hle, htie⟩ := hno
    have habs : |(c : ℚ) - a| = a - k := by rw [hc, abs_of_nonpos (by linarith), neg_sub]
    rw [habs]
    refine ⟨by linarith, fun heq => ?_⟩
    have := htie (by linarith)
    omega
  · have habs : |(c : ℚ) - a| = k + 1 - a := by rw [hc, Nat.cast_succ, abs_of_nonneg (by linarith)]
    rw [habs]
    rcases hup.mp hc with hgt | ⟨heq, hodd⟩
    · exact ⟨by linarith, fun h => absurd h (by linarith)⟩
    · exact ⟨by linarith, fun _ => by omega⟩

/-- An exact real rounded to nearest to a multiple of 2^U. -/
theorem roundInt_rne_dist (x U : Int) : let r := (roundInt .rne (decide (x < 0)) x.natAbs (-298 - U)).1
    let d := |(r : ℚ) * (2 : ℚ) ^ U - (x : ℚ) * (2 : ℚ) ^ (-298 : Int)|
    d ≤ (2 : ℚ) ^ U / 2 ∧ (d = (2 : ℚ) ^ U / 2 → r % 2 = 0) := by
  have hU : (0 : ℚ) < 2 ^ U := by positivity
  obtain ⟨k, hk⟩ := roundTo_picks .rne (decide (x < 0)) x.natAbs (-298 - U) 0
  simp only [zpow_zero, mul_one] at hk
  generalize hc : (roundTo .rne (decide (x < 0)) x.natAbs (-298 - U) false 0).1 = c at hk
  obtain ⟨hle, heven⟩ := hk.dist_le
  have hr : (roundInt .rne (decide (x < 0)) x.natAbs (-298 - U)).1 = sgn (decide (x < 0)) c := by rw [roundInt, hc]
  have hdist : |((sgn (decide (x < 0)) c : Int) : ℚ) * (2 : ℚ) ^ U - (x : ℚ) * (2 : ℚ) ^ (-298 : Int)| =
      |(c : ℚ) - x.natAbs * (2 : ℚ) ^ (-298 - U)| * 2 ^ U := by
    have hscale : (x.natAbs : ℚ) * (2 : ℚ) ^ (-298 : Int) = x.natAbs * (2 : ℚ) ^ (-298 - U) * 2 ^ U := by
      rw [mul_assoc, ← zpow_add₀ two_ne_zero, Int.sub_add_cancel]
    rw [laValue_eq, sgn_cast, mul_assoc, mul_assoc, ← mul_sub, abs_mul, abs_sign, one_mul, hscale, ← sub_mul, abs_mul, abs_of_pos hU]
  dsimp only
  rw [hr, hdist]
  refine ⟨by nlinarith, fun heq => sgn_mod_two (heven ?_)⟩
  have h2 : |(c : ℚ) - x.natAbs * (2 : ℚ) ^ (-298 - U)| * 2 ^ U = 1 / 2 * 2 ^ U := by rw [heq]; ring
  exact mul_right_cancel₀ hU.ne' h2

theorem quant_spec (x : LA) (e : Int) (qw : Nat) (h : isSpecial x = false) : ∃ r : Int, quant x e qw = max (-(2 ^ (qw - 1))) (min (2 ^ (qw - 1) - 1) r) ∧
    let u := (2 : ℚ) ^ (e - qw + 1); let d := |(r : ℚ) * u - (x.val.toInt : ℚ) * (2 : ℚ) ^ (-298 : Int)|
    d ≤ u / 2 ∧ (d = u / 2 → r % 2 = 0) := by
  refine ⟨(roundInt .rne (decide (x.val.toInt < 0)) x.val.toInt.natAbs (-298 - unitExp e qw)).1, ?_, roundInt_rne_dist x.val.toInt (unitExp e qw)⟩
  rw [quant, h, if_neg Bool.false_ne_true]

/-! ### OUT and RES (R220) -/

theorem roundFin_f32_lt (rm : Rm) (sat n : Bool) (m : Nat) (e : Int) : (fmtF32.roundFin rm sat n m e false).1 < 2 ^ 32 := by
  rw [Fmt.roundFin_eq]
  split
  · cases rm <;> cases sat <;> cases n <;> decide
  · next h => exact fmtF32.signed_lt n ((Nat.not_lt.mp h).trans_lt (Fmt.maxCode_lt fmtF32_wf))

theorem roundsTo_ofNat {r : Nat × Flags} {v : ℚ} (h : RoundsTo limF32 .rne false r v) (hr : r.1 < 2 ^ 32) :
    ∃ f, RoundsTo limF32 .rne false ((BitVec.ofNat 32 r.1).toNat, f) v :=
  ⟨r.2, by rwa [BitVec.toNat_ofNat, Nat.mod_eq_of_lt hr]⟩

theorem isumOut_of_special {sp : LA} (h : isSpecial sp = true) (q u : Int) : isumOut q sp u = BitVec.ofNat 32 (roundLa sp fmtF32 .rne false).1 := by
  rw [isumOut, if_pos h]

theorem isumOut_of_not_special {sp : LA} (h : isSpecial sp = false) (q u : Int) : isumOut q sp u = BitVec.ofNat 32 (timesUnit q u) := by
  rw [isumOut, h, if_neg Bool.false_ne_true]

theorem timesUnit_zero (u : Int) : timesUnit 0 u = 0 := rfl

theorem isumOut_roundsTo {q : Int} (hq : q ≠ 0) {sp : LA} (h : isSpecial sp = false) (u : Int) :
    ∃ f, RoundsTo limF32 .rne false ((isumOut q sp u).toNat, f) ((q : ℚ) * (2 : ℚ) ^ u) := by
  have hv : (q : ℚ) * (2 : ℚ) ^ u ≠ 0 := mul_ne_zero (by exact_mod_cast hq) (by positivity)
  rw [isumOut_of_not_special h]
  refine roundsTo_ofNat (Fmt.round_roundsTo (t := limF32) (by simp [formats]) .rne false (Num.value?_ofInt q u false) hv) ?_
  rw [Num.ofInt, if_neg hq]
  exact roundFin_f32_lt _ _ _ _ _

/-- A difference of integers that the word has room for. -/
theorem toInt_sub_ofInt {n : Nat} (a : BitVec n) {s : Int} (hs : 2 * |s| < 2 ^ n) (hd : 2 * |a.toInt - s| < 2 ^ n) :
    (a - BitVec.ofInt n s).toInt = a.toInt - s := by
  have hcast : ((2 ^ n : Nat) : Int) = 2 ^ n := by push_cast; rfl
  rw [BitVec.toInt_sub, BitVec.toInt_ofInt]
  generalize (2 ^ n : Nat) = N at hcast ⊢
  rw [← hcast] at hs hd
  have hmod : ∀ m : Int, 2 * |m| < N → m.bmod N = m := fun m hm => by
    have h := abs_lt.mp (by omega : |m| < (N + 1) / 2)
    exact Int.bmod_eq_of_le (by omega) (by omega)
  rw [hmod s hs, hmod _ hd]

/-- The contribution less its integer part, which the accumulator holds exactly. -/
theorem isumRes_toInt {x : LA} {q u : Int} (hu : u ≤ 200) (hq : q.natAbs ≤ 2 ^ 32) (hx : x.val.toInt.natAbs < 2 ^ 600) :
    (x.val - BitVec.ofInt 640 (scaleTo q u (-298))).toInt = x.val.toInt - scaleTo q u (-298) := by
  have h600 : (2 : Int) ^ 600 = 2 ^ 102 * 2 ^ 498 := pow_add 2 102 498
  have h640 : (2 : Int) ^ 640 = 2 ^ 142 * 2 ^ 498 := pow_add 2 142 498
  have hpos : (0 : Int) < 2 ^ 498 := by positivity
  have hpow : (2 : Int) ^ (u - -298).toNat ≤ 2 ^ 498 := pow_le_pow_right₀ (by norm_num) (by omega)
  have hqabs : |q| ≤ 2 ^ 32 := by
    rw [Int.abs_eq_natAbs]
    exact_mod_cast hq
  have hxabs : |x.val.toInt| < 2 ^ 600 := by
    rw [Int.abs_eq_natAbs]
    exact_mod_cast hx
  have hsabs : |scaleTo q u (-298)| ≤ 2 ^ 32 * 2 ^ 498 := by
    rw [scaleTo, abs_mul, abs_of_nonneg (by positivity : (0 : Int) ≤ 2 ^ (u - -298).toNat)]
    exact mul_le_mul hqabs hpow (by positivity) (by positivity)
  have hdiff := abs_sub x.val.toInt (scaleTo q u (-298))
  rw [h600] at hxabs
  generalize (2 : Int) ^ 498 = top at *
  refine toInt_sub_ofInt x.val ?_ ?_
  · rw [h640]
    omega
  · rw [h640]
    omega

theorem roundLa_f32_lt {a : LA} (rm : Rm) (sat : Bool) (hnv : a.nv = false) (hpi : a.pi = false) (hni : a.ni = false) (hval : a.val ≠ 0) :
    (roundLa a fmtF32 rm sat).1 < 2 ^ 32 := by
  rw [roundLa, hnv, hpi, hni, if_neg (by decide), if_neg (by decide), if_neg (by decide), if_neg hval]
  exact roundFin_f32_lt _ _ _ _ _

theorem isumRes_roundsTo {x : LA} {q u : Int} (h : isSpecial x = false) (hu : -298 ≤ u) (hu' : u ≤ 200) (hq : q.natAbs ≤ 2 ^ 32)
    (hx : x.val.toInt.natAbs < 2 ^ 600) (hc : (x.val.toInt : ℚ) * (2 : ℚ) ^ (-298 : Int) - (q : ℚ) * (2 : ℚ) ^ u ≠ 0) :
    ∃ f, RoundsTo limF32 .rne false ((isumRes x q u).toNat, f) ((x.val.toInt : ℚ) * (2 : ℚ) ^ (-298 : Int) - (q : ℚ) * (2 : ℚ) ^ u) := by
  have hint := isumRes_toInt hu' hq hx
  have hval : ((x.val - BitVec.ofInt 640 (scaleTo q u (-298))).toInt : ℚ) * (2 : ℚ) ^ (-298 : Int) =
      (x.val.toInt : ℚ) * (2 : ℚ) ^ (-298 : Int) - (q : ℚ) * (2 : ℚ) ^ u := by
    rw [hint, Int.cast_sub, sub_mul, scaleTo_cast hu]
  rw [← hval] at hc ⊢
  rw [isumRes, h, if_neg Bool.false_ne_true]
  generalize x.val - BitVec.ofInt 640 (scaleTo q u (-298)) = v at *
  have hv : v ≠ 0 := by
    rintro rfl
    rw [show (0 : BitVec 640).toInt = 0 from BitVec.toInt_zero, Int.cast_zero, zero_mul] at hc
    exact hc rfl
  refine roundsTo_ofNat (roundLa_roundsTo (t := limF32) (a := { LA0 with em := false, nz := true, val := v }) (by simp [formats]) .rne false rfl rfl rfl hv) ?_
  exact roundLa_f32_lt .rne false rfl rfl rfl hv

/-! ### The elements of a line (R173, R219) -/

theorem mem_elemsOn {base sz n line i : Nat} (hsz : sz = 4 ∨ sz = 128) (hb : base % sz = 0) :
    i ∈ elemsOn base sz n line ↔ i < n ∧ (base + sz * i) / 128 = line := by
  unfold elemsOn
  dsimp only
  rw [List.mem_range'_1]
  rcases hsz with rfl | rfl <;> omega

/-- The elements of a line are neighbours. -/
theorem elemsOn_eq_range' (base sz n line : Nat) : ∃ lo k, elemsOn base sz n line = List.range' lo k := ⟨_, _, rfl⟩

/-- A run of the elements of a line: where it begins, and their bytes. -/
def elemRun (base sz : Nat) (f : Nat → List Byte) : List Nat → List (Nat × List Byte)
  | [] => []
  | i :: is => [((base + sz * i) % 2 ^ 64, (i :: is).flatMap f)]

theorem Coll.lineRuns_eq (c : Coll) (line : Nat) : c.lineRuns line = elemRun (dOut c.desc) (dElem c.desc) c.outBytes (c.outsOn line) ++
    if c.cksumOk then elemRun (dRes c.desc) 4 c.resBytes (c.resOn line) else [] := by
  unfold Coll.lineRuns
  cases c.outsOn line <;> cases c.resOn line <;> rfl

/-- In bytes of elements of one size an element's own stand at its place. -/
theorem drop_take_flatMap {f : Nat → List Byte} {sz : Nat} (lo k : Nat) (hf : ∀ j ∈ List.range' lo k, (f j).length = sz) {i : Nat} (hi : i < k) :
    (((List.range' lo k).flatMap f).drop (sz * i)).take sz = f (lo + i) := by
  induction k generalizing lo i with
  | zero => omega
  | succ k ih =>
    rw [List.range'_succ] at hf ⊢
    have hlen := hf lo List.mem_cons_self
    rw [List.flatMap_cons]
    cases i with
    | zero => rw [Nat.mul_zero, List.drop_zero, ← hlen, List.take_left, Nat.add_zero]
    | succ i =>
      rw [Nat.mul_succ, Nat.add_comm, ← List.drop_drop, ← hlen, List.drop_left, hlen,
        ih (lo + 1) (fun j hj => hf j (List.mem_cons_of_mem _ hj)) (by omega), Nat.add_right_comm, Nat.add_assoc]

/-- The bytes of an element of four bytes in the run of its line. -/
theorem elemRun_bytes {base : Nat} {f : Nat → List Byte} {is : List Nat} (hrange : ∃ lo k, is = List.range' lo k) (hf : ∀ j ∈ is, (f j).length = 4)
    {i : Nat} (hi : i ∈ is) :
    ∃ w ∈ elemRun base 4 f is, ∃ k, (w.1 + 4 * k) % 2 ^ 64 = (base + 4 * i) % 2 ^ 64 ∧ (w.2.drop (4 * k)).take 4 = f i := by
  obtain ⟨lo, k, rfl⟩ := hrange
  obtain ⟨hlo, hlt⟩ := List.mem_range'_1.mp hi
  cases k with
  | zero => omega
  | succ k =>
    refine ⟨((base + 4 * lo) % 2 ^ 64, (List.range' lo (k + 1)).flatMap f), ?_, i - lo, ?_, ?_⟩
    · rw [List.range'_succ]
      exact List.mem_singleton_self _
    · dsimp only
      omega
    · rw [drop_take_flatMap lo (k + 1) hf (by omega), Nat.add_sub_cancel' hlo]

theorem dElem_of_word {d : Nat} (h : dOp d ≠ 0) : dElem d = 4 := if_neg h

theorem Coll.resOn_eq_range' (c : Coll) (line : Nat) : ∃ lo k, c.resOn line = List.range' lo k := by
  unfold Coll.resOn
  split
  · exact elemsOn_eq_range' _ _ _ _
  · exact ⟨0, 0, rfl⟩

/-! ### The checksum (R220) -/

/-- The sums that the checksum compares. -/
def Coll.intSum (c : Coll) : Nat := (((List.range (dCount c.desc)).map c.outPay).map fun p => match p with | .isum x _ _ => x.toNat | _ => 0).sum
def Coll.checkSum (c : Coll) : Nat := (((List.range (dCount c.desc)).map c.outPay).map fun p => match p with | .isum _ k _ => k.toNat | _ => 0).sum

theorem Coll.cksumOk_iff {c : Coll} (hop : dOp c.desc = 1) (hck : dCksum c.desc = true) :
    c.cksumOk = true ↔ c.intSum % 2 ^ 64 = c.checkSum % 2 ^ 64 := by
  rw [Coll.cksumOk, hop, hck]
  change (false || (BitVec.ofNat 64 c.intSum == BitVec.ofNat 64 c.checkSum)) = true ↔ _
  rw [Bool.false_or, beq_iff_eq, ← BitVec.toNat_inj, BitVec.toNat_ofNat, BitVec.toNat_ofNat]

theorem Coll.cksumOk_of_no_checksum {c : Coll} (h : dOp c.desc ≠ 1 ∨ dCksum c.desc = false) : c.cksumOk = true := by
  have hno : (dOp c.desc == 1 && dCksum c.desc) = false := by
    rw [Bool.and_eq_false_iff, beq_eq_false_iff_ne]
    exact h
  rw [Coll.cksumOk, hno]
  rfl

/-- Where the checksum disagrees RES is not written. -/
theorem Coll.lineRuns_of_bad_checksum {c : Coll} (hop : dOp c.desc = 1) (hck : c.cksumOk = false) {line : Nat} {w : Nat × List Byte}
    (hw : w ∈ c.lineRuns line) : ∃ i ∈ c.outsOn line, w.1 = (dOut c.desc + 4 * i) % 2 ^ 64 := by
  rw [Coll.lineRuns_eq, hck, if_neg Bool.false_ne_true, List.append_nil, dElem_of_word (by rw [hop]; decide)] at hw
  cases hs : c.outsOn line with
  | nil =>
    rw [hs] at hw
    cases hw
  | cons i is =>
    rw [hs] at hw
    rw [List.mem_singleton.mp hw]
    exact ⟨i, List.mem_cons_self, rfl⟩

theorem collectiveArithmetic : Claims.CollectiveArithmetic := by
  unfold Claims.CollectiveArithmetic
  refine ⟨fun _ _ _ _ => rfl, fun _ _ _ _ _ _ _ _ => rfl,
    fun x y => ⟨(combine_word_int x y).1, (combine_word_int x y).2, fun u v => combine_word_float⟩,
    fun c => ⟨fun h h' => if_pos ⟨h, h'⟩, fun h => if_neg (by tauto), fun _ => rfl, fun h => if_pos h, fun h => if_neg h⟩,
    fun x => magExp_magWord, fun v w => magExp_mono, fun x e qw _ => ⟨fun h => if_pos h, quant_spec x e qw⟩,
    fun q u sp => ⟨fun h => isumOut_of_special h q u, fun h hq => ?_, fun h hq => isumOut_roundsTo hq h u⟩,
    fun x q u => ⟨fun h => if_pos h, isumRes_roundsTo⟩,
    fun c => ⟨Coll.cksumOk_of_no_checksum, Coll.cksumOk_iff, fun hop hck n w => Coll.lineRuns_of_bad_checksum hop hck⟩,
    fun base sz n line i => mem_elemsOn, fun c line hop => ⟨fun hlen i hi => ?_, fun hck hlen i hi => ?_⟩⟩
  · rw [isumOut_of_not_special h, hq, timesUnit_zero]
    rfl
  · obtain ⟨w, hw, k, h⟩ := elemRun_bytes (base := dOut c.desc) (elemsOn_eq_range' _ _ _ _) hlen hi
    refine ⟨w, ?_, k, h⟩
    rw [Coll.lineRuns_eq, dElem_of_word hop]
    exact List.mem_append_left _ hw
  · obtain ⟨w, hw, k, h⟩ := elemRun_bytes (base := dRes c.desc) (c.resOn_eq_range' line) hlen hi
    refine ⟨w, ?_, k, h⟩
    rw [Coll.lineRuns_eq, if_pos hck]
    exact List.mem_append_right _ hw

end Sys2Proof.Machine

/-! ## The events of collectives -/

namespace Sys2Proof.Machine
open Sys2Proof Sys2Proof.Claims

/-! ### COLL_TIMEOUT and COLL_COMPLETE (R219, R221) -/

section
variable {s : State} {c : Coll}

theorem exec_collTimeout_of_coll (h : s.colls.find? (fun x => x.id == c.id) = some c) :
    ((s.part c.part).colltmo * 1000 ≤ s.time - c.start → exec (.collTimeout c.id) s = .next (s.abortColl c 5)) ∧
    (s.time - c.start < (s.part c.part).colltmo * 1000 → exec (.collTimeout c.id) s = .next s) := by
  have hexec : exec (.collTimeout c.id) s = execCollTimeout c.id s := rfl
  rw [hexec, execCollTimeout, h]
  exact ⟨fun hle => if_pos hle, fun hlt => if_neg (Nat.not_le.mpr hlt)⟩

theorem exec_collComplete_of_coll (h : s.colls.find? (fun x => x.id == c.id) = some c) : exec (.collComplete c.id) s = .next (s.runColl c) := by
  change execCollComplete c.id s = _
  rw [execCollComplete, h, Option.elim_some]

theorem State.runColl_of_idle (h : c.fid ≠ none ∨ s.serving c.part = false ∨ s.passed c.lane c.after = false) : s.runColl c = s := by
  refine if_pos ?_
  rw [Bool.or_eq_true, Bool.or_eq_true, Bool.not_eq_true', Bool.not_eq_true', Option.isSome_iff_ne_none, or_assoc]
  exact h

/-- How a collective stands once its member has worked. -/
def State.afterWork (t : State) (d : Coll) : Move → State
  | .done => t.endColl d (if d.cksumOk then 0 else 1)
  | .page f => t.suspendColl d f
  | .ue _ => t.abortColl d 6
  | .wait => t.setColl d

theorem State.runColl_of_work {t : State} {d : Coll} {m : Move} (hf : c.fid = none) (hs : s.serving c.part = true) (hp : s.passed c.lane c.after = true)
    (hw : s.workColl c = (t, d, m)) : s.runColl c = t.afterWork d m := by
  rw [State.runColl, hf, hs, hp, hw]
  cases m <;> rfl

end

/-! ### Destination lines (R173) -/

theorem Coll.destLine_strictMono (c : Coll) : StrictMono c.destLine := by
  intro i j hij
  have hb : c.spans.1.1 + c.spans.1.2 ≤ c.spans.2.1 := le_max_right _ _
  unfold Coll.destLine
  split <;> split <;> omega

theorem Coll.mem_destLines (c : Coll) (n : Nat) : n ∈ (List.range c.dests).map c.destLine ↔
    (c.spans.1.1 ≤ n ∧ n < c.spans.1.1 + c.spans.1.2) ∨ (c.spans.2.1 ≤ n ∧ n < c.spans.2.1 + c.spans.2.2) := by
  rw [List.mem_map]
  constructor
  · rintro ⟨k, hk, rfl⟩
    have hlt : k < c.spans.1.2 + c.spans.2.2 := List.mem_range.mp hk
    unfold Coll.destLine
    split <;> omega
  · rintro (h | h)
    · exact ⟨n - c.spans.1.1, List.mem_range.mpr (by unfold Coll.dests; omega), by unfold Coll.destLine; rw [if_pos (by omega)]; omega⟩
    · exact ⟨c.spans.1.2 + (n - c.spans.2.1), List.mem_range.mpr (by unfold Coll.dests; omega), by unfold Coll.destLine; rw [if_neg (by omega)]; omega⟩

/-- The two spans hold the lines of OUT and of RES, each once. -/
theorem Coll.mem_spans (c : Coll) (n : Nat) :
    ((c.spans.1.1 ≤ n ∧ n < c.spans.1.1 + c.spans.1.2) ∨ (c.spans.2.1 ≤ n ∧ n < c.spans.2.1 + c.spans.2.2)) ↔
      ∃ e ∈ [c.outSpan, c.resSpan], e.1 ≤ n ∧ n < e.1 + e.2 := by
  have hor : (∃ e ∈ [c.outSpan, c.resSpan], e.1 ≤ n ∧ n < e.1 + e.2) ↔
      (c.outSpan.1 ≤ n ∧ n < c.outSpan.1 + c.outSpan.2) ∨ (c.resSpan.1 ≤ n ∧ n < c.resSpan.1 + c.resSpan.2) := by simp
  rw [hor]
  unfold Coll.spans
  dsimp only
  by_cases hfirst : c.resSpan.2 = 0 ∨ c.outSpan.1 ≤ c.resSpan.1
  · rw [if_pos hfirst, if_pos hfirst]
    omega
  · rw [if_neg hfirst, if_neg hfirst]
    omega

/-! ### Reading and sending contributions (R219, R376) -/

section
variable {s t : State} {c d : Coll}

theorem State.readOwn_of_ungathered {k : Nat} (n : Nat) (h : c.gathered k c.own.length = false) : State.readOwn k (n + 1) s c = (s, c, .wait) := by
  rw [State.readOwn, h]
  rfl

theorem State.readOwn_of_read {k : Nat} (n : Nat) {r : CollPay ⊕ Move} (h : c.gathered k c.own.length = true)
    (hr : s.readElem c c.own.length = (t, d, r)) :
    (∀ p, r = .inl p → State.readOwn k (n + 1) s c = t.readOwn k n { d with own := c.own ++ [p], repeats := 0 }) ∧
      ∀ m, r = .inr m → State.readOwn k (n + 1) s c = (t, d, m) := by
  refine ⟨?_, ?_⟩
  · rintro p rfl
    rw [State.readOwn, h, hr]
    rfl
  · rintro m rfl
    rw [State.readOwn, h, hr]
    rfl

theorem collVia_agent_ne_home (s : State) (c : Coll) : (s.collVia c).agent ≠ home := by
  intro h
  have hv : (4 + c.die % 4) % 10 = 8 := congrArg Fin.val h
  omega

/-- A number of four bytes of BUF, of a line that its die's engine agent reads as a whole. -/
theorem State.collRead_of_reaches {u : State} {va : Nat} {y : Phys} (hsrc : c.src = []) (hva : va % 4 = 0)
    (h : ReachesAt s u (s.collVia c).who (s.collVia c).agent (va / 128 * 128) 128 .read y) (hp : y.addr / 128 ∉ u.poison) :
    ∃ t d, s.collRead c va 4 = (t, d, .inl (shown u { y with addr := y.addr + va % 128 } 4)) ∧ SameMem u t := by
  obtain ⟨t, ht, hmem⟩ := State.wholeLine_plain (collVia_agent_ne_home s c) h hp
  have hline : s.collLine c (va / 128 * 128) = (t, { c with src := [(va / 128 * 128, u.seenAt y 128)] }, .inl (u.seenAt y 128)) := by
    rw [State.collLine, hsrc, ht]
    rfl
  have halign : y.addr % 128 = 0 := by
    obtain ⟨-, -, -, hspan, -⟩ := h
    omega
  refine ⟨t, { c with src := [(va / 128 * 128, u.seenAt y 128)] }, ?_, hmem⟩
  unfold State.collRead
  dsimp only
  rw [hline, ← u.leNat_seenAt_part halign (by omega)]

/-- An element of BUF that an operation on words reads. -/
theorem State.readElem_of_word {i x : Nat} (hop : 2 ≤ dOp c.desc) (h : s.collRead c ((dBuf c.desc + 4 * i) % 2 ^ 64) 4 = (t, d, .inl x)) :
    s.readElem c i = (t, d, .inl (.word (BitVec.ofNat 32 x))) := by
  have h0 : dOp c.desc ≠ 0 := by omega
  have h1 : dOp c.desc ≠ 1 := by omega
  rw [State.readElem]
  dsimp only
  rw [dElem_of_word h0, if_neg h0, h]
  dsimp only
  rw [if_neg h0, if_pos h1]

theorem State.sendRead_of_word (i : Nat) (hop : dOp c.desc ≠ 1) : s.sendRead c i =
    ((s.sendAll c (c.contribs i)).1, if c.stage = .reading ∧ c.own.length = c.toRead then { (s.sendAll c (c.contribs i)).2 with stage := .combining }
      else (s.sendAll c (c.contribs i)).2) := by
  rw [State.sendRead]
  dsimp only
  rw [if_neg hop]
  refine congrArg (Prod.mk _) (if_congr ?_ rfl rfl)
  rw [Bool.and_eq_true, beq_iff_eq, beq_iff_eq]

end

/-! ### Writing destination lines (R173, R219) -/

section
variable {s : State} {c : Coll}

theorem State.writeDests_of_waiting {k : Nat} (n : Nat)
    (h : k ≤ c.done ∨ c.mayWrite = false ∨ ∃ i ∈ c.outsOn (c.destLine c.done), c.elemFull i = false) : State.writeDests k (n + 1) s c = (s, c, .wait) := by
  refine if_pos ?_
  rw [Bool.or_eq_true, Bool.or_eq_true, decide_eq_true_eq, Bool.not_eq_true', Bool.not_eq_true', List.all_eq_false, or_assoc]
  refine h.imp id (Or.imp id ?_)
  rintro ⟨i, hi, hf⟩
  exact ⟨i, hi, by rw [hf]; exact Bool.false_ne_true⟩

theorem State.writeDests_of_full {k : Nat} (n : Nat) {t : State} {m : Move} (hk : c.done < k) (hmay : c.mayWrite = true)
    (hfull : ∀ i ∈ c.outsOn (c.destLine c.done), c.elemFull i = true) (hw : s.writeDest c c.done = (t, m)) :
    (m = .done → State.writeDests k (n + 1) s c = t.writeDests k n { c with done := c.done + 1, repeats := 0 }) ∧
      (m ≠ .done → State.writeDests k (n + 1) s c = (t, c, m)) := by
  have hgo : ¬ (decide (k ≤ c.done) || !c.mayWrite || !(c.outsOn (c.destLine c.done)).all c.elemFull) = true := by
    rw [decide_eq_false (Nat.not_le.mpr hk), hmay, List.all_eq_true.mpr hfull]
    decide
  refine ⟨fun hm => ?_, fun hm => ?_⟩
  · subst hm
    rw [State.writeDests, if_neg hgo, hw]
  · rw [State.writeDests, if_neg hgo, hw]
    cases m with
    | done => exact absurd rfl hm
    | page f => rfl
    | ue va => rfl
    | wait => rfl

theorem Coll.mayWrite_iff_of_places (h : dOp c.desc = 4 ∨ dOp c.desc = 5) : c.mayWrite = true ↔ c.members ≤ c.ready := by
  rw [Coll.mayWrite, if_pos (c.places_iff.mpr h), decide_eq_true_eq]

theorem Coll.elemFull_iff (c : Coll) (i : Nat) :
    c.elemFull i = true ↔ (if dOp c.desc = 4 ∨ dOp c.desc = 5 then 1 else c.members) ≤ (tget (0, .word 0) i c.got).1 := by
  have hneed : (if c.places then 1 else c.members) = if dOp c.desc = 4 ∨ dOp c.desc = 5 then 1 else c.members := if_congr c.places_iff rfl rfl
  rw [Coll.elemFull, decide_eq_true_eq, hneed]

theorem State.putRuns_one {u : State} {a : Nat} {bs : List Byte} {y : Phys}
    (h : ReachesAt s u (s.collVia c).who (s.collVia c).agent a bs.length .write y) (hp : y.addr / 128 ∉ u.poison) :
    ∃ t, s.putRuns c [(a, bs)] = (t, .done) ∧ Stored u t y.addr (if y.attr = .acc then bs.take (96 - y.addr % 128) else bs) := by
  obtain ⟨t, ht, hst⟩ := State.storeVia_reaches (collVia_agent_ne_home s c) h hp
  obtain ⟨-, -, -, -, -, -, -, -, -, -, -, hwf⟩ := h
  refine ⟨t, ?_, (hst.stored hwf).2.1⟩
  rw [State.putRuns, ht]
  rfl

end

/-! ### Contributions that come (R219, R301) -/

theorem Coll.add_other (c : Coll) {i j : Nat} (n : Nat) (pay : CollPay) (h : j ≠ i) :
    tget (0, .word 0) j (c.add i n pay).got = tget (0, .word 0) j c.got := by
  rw [Coll.add]
  dsimp only
  rw [tget_tset, if_neg h]

theorem Coll.add_first (c : Coll) {i : Nat} (n : Nat) (pay : CollPay) (h : ∀ e ∈ c.got, e.1 ≠ i) : tget (0, .word 0) i (c.add i n pay).got = (n, pay) := by
  have hnone : (c.got.find? fun e => e.1 == i) = none := List.find?_eq_none.mpr fun e he => by simpa using h e he
  rw [Coll.add, hnone]
  dsimp only
  rw [tget_tset, if_pos rfl]

theorem Coll.add_again (c : Coll) {i : Nat} (n : Nat) (pay : CollPay) {e : Nat × Nat × CollPay} (h : c.got.find? (fun e => e.1 == i) = some e) :
    tget (0, .word 0) i (c.add i n pay).got = (e.2.1 + n, combine (dOp c.desc) (dType c.desc) e.2.2 pay) := by
  rw [Coll.add, h]
  dsimp only
  rw [tget_tset, if_pos rfl]

/-- The words of the collective virtual lane, with the operation that each carries. -/
theorem exec_vlane {s : State} {r : CollReq} {w : Instr × Nat}
    (h : w ∈ [(Instr.vkacc r, 0), (.visum r, 1), (.vmax r, 2), (.vmin r, 3), (.vbcast r, 4), (.vgath r, 5), (.vmaxr r, 1)]) :
    ∃ el, exec w.1 s = .next (s.collArrives { r with op := w.2, elem := el }) ∧ (w.1 ≠ .vmaxr r → el = r.elem) ∧ (w.1 = .vmaxr r → w.2 = 1) := by
  simp only [List.mem_cons, List.not_mem_nil, or_false] at h
  rcases h with rfl | rfl | rfl | rfl | rfl | rfl | rfl
  · exact ⟨r.elem, rfl, fun _ => rfl, fun h => nomatch h⟩
  · exact ⟨r.elem, rfl, fun _ => rfl, fun h => nomatch h⟩
  · exact ⟨r.elem, rfl, fun _ => rfl, fun h => nomatch h⟩
  · exact ⟨r.elem, rfl, fun _ => rfl, fun h => nomatch h⟩
  · exact ⟨r.elem, rfl, fun _ => rfl, fun h => nomatch h⟩
  · exact ⟨r.elem, rfl, fun _ => rfl, fun h => nomatch h⟩
  · exact ⟨0, rfl, fun h => absurd rfl h, fun _ => rfl⟩

section
variable {s : State} {c : Coll} {r : CollReq}

theorem State.wholeReq_iff (s : State) (c : Coll) (r : CollReq) : s.wholeReq c r = true ↔ (∃ e ∈ s.links, e.2 = true) ∧ r.members = c.members := by
  rw [State.wholeReq, Bool.and_eq_true, State.combining, List.any_eq_true, beq_iff_eq]

theorem Coll.mismatch_eq_false_iff (c : Coll) (r : CollReq) : c.mismatch r = false ↔
    r.op = dOp c.desc ∧ r.type = dType c.desc ∧ r.count = dCount c.desc ∧ (dOp c.desc = 1 → r.qw = dQw c.desc) := by
  simp only [Coll.mismatch, Bool.or_eq_false_iff, Bool.and_eq_false_imp, bne_eq_false_iff_eq, beq_iff_eq, and_assoc]

theorem State.takeReq_of_abort {st : Nat} (h : r.pay = .abort st) : s.takeReq c r = s.endColl c st := by rw [State.takeReq, h]

theorem State.takeReq_of_mismatch (hp : ∀ st, r.pay ≠ .abort st) (h : c.mismatch r = true) : s.takeReq c r = s.abortColl c 3 := by
  unfold State.takeReq
  split
  · next st hst => exact absurd hst (hp st)
  · exact if_pos h

theorem State.takeReq_of_begun (h : c.mismatch r = false) (hp : r.pay = .none) :
    s.takeReq c r = s.setColl { c with ready := if s.wholeReq c r then c.members else c.ready + r.members } := by
  rw [State.takeReq, hp]
  dsimp only
  rw [h, if_neg Bool.false_ne_true]

theorem State.takeReq_of_contribution (h : c.mismatch r = false) (hp : ∀ st, r.pay ≠ .abort st) (hn : r.pay ≠ .none)
    (hword : dOp c.desc = 1 → ∀ x, r.pay ≠ .word x) :
    s.takeReq c r = s.setColl (if s.wholeReq c r then { c with got := tset r.elem (c.members, r.pay) c.got } else c.add r.elem r.members r.pay) := by
  unfold State.takeReq
  split
  · next st hst => exact absurd hst (hp st)
  · rw [h, if_neg Bool.false_ne_true]
    split
    · next hnone => exact absurd hnone hn
    · next x hpay hop => exact absurd hpay (hword hop x)
    · rfl

/-- The magnitudes of the max round that a member has, once a request's is among them. -/
def Coll.withMag (c : Coll) (whole : Bool) (members x : Nat) : Coll :=
  { c with mag := if whole then (c.members, x) else (c.mag.1 + members, max c.mag.2 x) }

theorem State.takeReq_of_magnitude {x : Word} (h : c.mismatch r = false) (hp : r.pay = .word x) (hop : dOp c.desc = 1) :
    s.takeReq c r = (s.afterMag (c.withMag (s.wholeReq c r) r.members x.toNat)).1.setColl (s.afterMag (c.withMag (s.wholeReq c r) r.members x.toNat)).2 := by
  have hmag : (if s.wholeReq c r then { c with mag := (c.members, x.toNat) } else c.addMag r.members x.toNat) =
      c.withMag (s.wholeReq c r) r.members x.toNat := by
    unfold Coll.withMag Coll.addMag
    cases s.wholeReq c r <;> rfl
  rw [State.takeReq, hp]
  dsimp only
  rw [h, if_neg Bool.false_ne_true, hop]
  exact congrArg (fun d => (s.afterMag d).1.setColl (s.afterMag d).2) hmag

theorem State.collArrives_of_none (h : (s.colls.find? fun c => (s.part c.part).ftag == r.ftag && dSet c.desc == r.setId && dCid c.desc == r.cid) = none) :
    ((∀ e ∈ s.parts, e.2.ftag ≠ r.ftag) ∨ r.ftag = 0 → s.collArrives r = s) ∧
    ((∃ e ∈ s.parts, e.2.ftag = r.ftag) → r.ftag ≠ 0 → s.collArrives r = { s with collIn := s.collIn ++ [r] }) := by
  rw [State.collArrives, h]
  refine ⟨fun hno => if_neg ?_, fun ⟨e, he, heq⟩ h0 => if_pos ?_⟩
  · rw [List.any_eq_true]
    rintro ⟨e, he, heq⟩
    rw [Bool.and_eq_true, beq_iff_eq, bne_iff_ne] at heq
    exact hno.elim (fun hno => hno e he heq.1) heq.2
  · exact List.any_eq_true.mpr ⟨e, he, by rw [Bool.and_eq_true, beq_iff_eq, bne_iff_ne]; exact ⟨heq, h0⟩⟩

end

section
variable {s : State} {r : CollReq} {w : Instr × Nat}

/-- A request for no collective of this member: kept where one of its partitions owns the tag (log entry 34). -/
theorem vlane_of_none (hw : w ∈ [(Instr.vkacc r, 0), (.visum r, 1), (.vmax r, 2), (.vmin r, 3), (.vbcast r, 4), (.vgath r, 5), (.vmaxr r, 1)])
    (h : (s.colls.find? fun c => (s.part c.part).ftag == r.ftag && dSet c.desc == r.setId && dCid c.desc == r.cid) = none) :
    ((∀ e ∈ s.parts, e.2.ftag ≠ r.ftag) ∨ r.ftag = 0 → exec w.1 s = .next s) ∧
    ((∃ e ∈ s.parts, e.2.ftag = r.ftag) → r.ftag ≠ 0 → w.1 ≠ .vmaxr r → exec w.1 s = .next { s with collIn := s.collIn ++ [{ r with op := w.2 }] }) := by
  obtain ⟨el, hexec, hel, -⟩ := exec_vlane (s := s) hw
  obtain ⟨hdrop, hkeep⟩ := State.collArrives_of_none (r := { r with op := w.2, elem := el }) h
  refine ⟨fun hno => hexec.trans (congrArg _ (hdrop hno)), fun hex h0 hne => ?_⟩
  rw [hexec, hkeep hex h0, hel hne]

variable {c : Coll}

/-- A request for a collective of this member is taken, with the word's operation. -/
theorem vlane_of_coll (hw : w ∈ [(Instr.vkacc r, 0), (.visum r, 1), (.vmax r, 2), (.vmin r, 3), (.vbcast r, 4), (.vgath r, 5), (.vmaxr r, 1)])
    (h : (s.colls.find? fun c => (s.part c.part).ftag == r.ftag && dSet c.desc == r.setId && dCid c.desc == r.cid) = some c) :
    ∃ el, exec w.1 s = .next (s.takeReq c { r with op := w.2, elem := el }) ∧ (w.1 ≠ .vmaxr r → el = r.elem) ∧ (w.1 = .vmaxr r → w.2 = 1) := by
  obtain ⟨el, hexec, hel, hmax⟩ := exec_vlane (s := s) hw
  refine ⟨el, ?_, hel, hmax⟩
  have hfind : (s.colls.find? fun c => (s.part c.part).ftag == ({ r with op := w.2, elem := el } : CollReq).ftag &&
      dSet c.desc == ({ r with op := w.2, elem := el } : CollReq).setId && dCid c.desc == ({ r with op := w.2, elem := el } : CollReq).cid) = some c := h
  rw [hexec, State.collArrives, hfind]

/-- The last word of a max round lets the member send its integers; before it, the member only keeps the magnitude. -/
theorem State.takeReq_maxRound {x : Word} (h : c.mismatch r = false) (hp : r.pay = .word x) (hop : dOp c.desc = 1) :
    let d := c.withMag (s.wholeReq c r) r.members x.toNat
    ((c.stage ≠ .maxRound ∨ d.mag.1 ≠ c.members) → s.takeReq c r = s.setColl d) ∧
    (c.stage = .maxRound → d.mag.1 = c.members →
      s.takeReq c r = (s.sendAll { d with stage := .combining } d.quants).1.setColl (s.sendAll { d with stage := .combining } d.quants).2) := by
  intro d
  rw [State.takeReq_of_magnitude h hp hop]
  refine ⟨fun hno => ?_, fun hst hall => ?_⟩
  · have hafter : s.afterMag d = (s, d) := if_neg fun hyes => hno.elim (fun hst => hst hyes.1) (fun hall => hall hyes.2)
    rw [hafter]
  · have hafter : s.afterMag d = s.sendAll { d with stage := .combining } d.quants := if_pos ⟨hst, hall⟩
    rw [hafter]

theorem Coll.withMag_of_iff (c : Coll) {b : Bool} {P : Prop} [Decidable P] (h : b = true ↔ P) (members x : Nat) :
    c.withMag b members x = { c with mag := if P then (c.members, x) else (c.mag.1 + members, max c.mag.2 x) } := by
  unfold Coll.withMag
  rw [if_congr h rfl rfl]

end

theorem collectiveEvents : Claims.CollectiveEvents := by
  unfold Claims.CollectiveEvents
  refine ⟨fun s c h => ⟨(exec_collTimeout_of_coll h).1, (exec_collTimeout_of_coll h).2, fun hi => ?_, fun hf hs hp t d m hw => ?_⟩,
    fun c => ⟨?_, fun n => (c.mem_destLines n).trans (c.mem_spans n)⟩, fun s c k n => ⟨State.readOwn_of_ungathered n, fun h t d r => State.readOwn_of_read n h⟩,
    fun s u c i y => ?_, fun s c i hop => State.sendRead_of_word i hop,
    fun s c k n => ⟨State.writeDests_of_waiting n, fun hk hmay hfull t m => State.writeDests_of_full n hk hmay hfull, fun hop => if_neg hop,
      Coll.mayWrite_iff_of_places, c.elemFull_iff⟩,
    fun s u c a bs y _ => State.putRuns_one, fun c i n j pay => ⟨c.add_other n pay, c.add_first n pay, fun e => c.add_again n pay⟩, fun s r w hw => ?_⟩
  · rw [exec_collComplete_of_coll h, State.runColl_of_idle hi]
  · rw [exec_collComplete_of_coll h, State.runColl_of_work hf hs hp hw]
    cases m <;> rfl
  · exact List.pairwise_map.mpr (List.pairwise_lt_range.imp fun h => c.destLine_strictMono h)
  · intro v va hop hsrc hva h hp
    obtain ⟨t, d, hread, hmem⟩ := State.collRead_of_reaches hsrc hva h hp
    exact ⟨t, d, State.readElem_of_word hop hread, hmem⟩
  · refine ⟨vlane_of_none hw, fun c hc => ?_⟩
    obtain ⟨el, hexec, hel, hmax⟩ := vlane_of_coll hw hc
    have hagree := c.mismatch_eq_false_iff { r with op := w.2, elem := el }
    have hwhole := s.wholeReq_iff c { r with op := w.2, elem := el }
    rw [hexec]
    refine ⟨fun st hp => congrArg _ (State.takeReq_of_abort hp), fun hp hno => congrArg _ (State.takeReq_of_mismatch hp ?_), fun hyes hp => ?_,
      fun hp hn hyes hne hword => ?_, fun x hp hyes hw1 => ?_⟩
    · exact Bool.eq_true_of_not_eq_false fun hm => hno (hagree.mp hm)
    · rw [State.takeReq_of_begun (hagree.mpr hyes) hp, if_congr hwhole rfl rfl]
    · rw [State.takeReq_of_contribution (hagree.mpr hyes) hp hn hword, if_congr hwhole rfl rfl, hel hne]
      exact ⟨fun h => by rw [if_pos h], fun h => by rw [if_neg h]⟩
    · have hop : dOp c.desc = 1 := by rw [← hyes.1, hmax hw1]
      obtain ⟨hkeep, hlast⟩ := State.takeReq_maxRound (s := s) (hagree.mpr hyes) hp hop
      rw [c.withMag_of_iff hwhole] at hkeep hlast
      exact ⟨fun hno => congrArg _ (hkeep hno), fun hst hall => congrArg _ (hlast hst hall)⟩

end Sys2Proof.Machine

section
open Sys2Proof Sys2Proof.Machine Sys2Proof.Claims

/-- Settles O39: the words COLL and COLLW, what the contributions to an element give, and the requests and events of a collective. -/
theorem collectives : Obligations.Collectives := ⟨collectiveWords, collectiveArithmetic, collectiveEvents⟩

end
